-- ==== Sys2Proof/Word.lean ====
section
/-! DEFINITION. The word types of the FV2 model. Software-visible words are bit vectors;
indexes, counts and beats are natural numbers; exact arithmetic is done on integers. -/

namespace Sys2Proof

/-- One byte (R14). -/
abbrev Byte := BitVec 8
/-- A 32-bit register word. -/
abbrev Word := BitVec 32
/-- A 64-bit register word. -/
abbrev DWord := BitVec 64

end Sys2Proof
end

