-- ==== Sys2Proof/Config.lean ====
section
/-! DEFINITION. What the spec leaves open: constants without a body, so that no proof can see a value.
`Config.freeWord i` is the free value number `i`: the state counts how many were drawn (`State.freeIdx`, the
model's own field). A statement about a free value holds for every value. -/

namespace Sys2Proof

/-- The free values, numbered in the order in which a run draws them (log entry 3). -/
opaque Config.freeWord : Nat → Word

/-- The random-like contents of rows whose supply was removed are not stated by the spec (R409: contents are lost);
this is the byte that address then holds (log entry 5). -/
opaque Config.lostByte : Nat → Byte

/-- What RCU.CONFIG.TICK_EXP shows for k = 16: R35 gives the field four bits and says that it never reads 0, so the value is
one of 1 to 15 and no more is stated (log entry 40). -/
opaque Config.tickExp16 : Nat

/-- Number of the DCK status with which a deck ends that holds a static address of no tile or of no device of the job: R7
rejects it and names no code (log entry 3). -/
opaque Config.staticAddress : Nat

end Sys2Proof
end

