-- ==== Sys2Proof/Machine/Bits.lean ====
section
/-! DEFINITION. Bit fields, byte order, fixed-capacity maps and checksums used by every block of the model. -/

namespace Sys2Proof.Machine

/-- Bits `[lo + w - 1 : lo]` of a number. -/
def bits (x lo w : Nat) : Nat := (x / 2 ^ lo) % 2 ^ w

/-- Bit `i` of a number. -/
def bit (x i : Nat) : Bool := (x / 2 ^ i) % 2 == 1

/-- `x` with bits `[lo + w - 1 : lo]` replaced by the low `w` bits of `v`. -/
def putBits (x lo w v : Nat) : Nat :=
  x - bits x lo w * 2 ^ lo + (v % 2 ^ w) * 2 ^ lo

/-- One bit as a number. -/
def b2n (b : Bool) : Nat := if b then 1 else 0

/-- The two's complement integer of a `w`-bit number. -/
def toSigned (w x : Nat) : Int :=
  let y := x % 2 ^ w
  if 2 * y < 2 ^ w then (y : Int) else (y : Int) - (2 ^ w : Nat)

/-- The `w`-bit two's complement code of an integer. -/
def ofSigned (w : Nat) (i : Int) : Nat := (i % ((2 ^ w : Nat) : Int)).toNat

/-- `ceil(a / b)`. -/
def ceilDiv (a b : Nat) : Nat := (a + b - 1) / b

/-- `floor(log2 n)` by counting halvings; `fuel` bounds the count. Zero gives zero. -/
def log2Fuel : Nat → Nat → Nat
  | 0, _ => 0
  | fuel + 1, n => if n < 2 then 0 else log2Fuel fuel (n / 2) + 1

/-- `floor(log2 n)` for every number the model forms. -/
def flog2 (n : Nat) : Nat := Nat.log2 n

/-- Little-endian bytes of a number (R14): `n` bytes. -/
def leBytes (n x : Nat) : List Byte :=
  (List.range n).map fun i => BitVec.ofNat 8 (x / 2 ^ (8 * i))

/-- The number that little-endian bytes spell (R14). -/
def leNat : List Byte → Nat
  | [] => 0
  | b :: bs => b.toNat + 256 * leNat bs

/-- `n` bytes of `l` from index `i`, zero past the end. -/
def slice (l : List Byte) (i n : Nat) : List Byte :=
  (List.range n).map fun j => (l.drop i).getD j 0#8

/-- The little-endian number of `n` bytes of `l` at index `i`. -/
def leAt (l : List Byte) (i n : Nat) : Nat := leNat ((l.drop i).take n)

/-! ### Sorted maps: the one form in which the state holds sparse things.
Keys strictly rise and no entry holds the default, so equal maps are equal lists. -/

/-- The value at a key; a key without an entry reads as the default. -/
def Map.get {α : Type} (d : α) : List (Nat × α) → Nat → α
  | [], _ => d
  | (k, v) :: m, i => if k = i then v else Map.get d m i

/-- Insert or replace an entry in key order, whatever its value. -/
def Map.put {α : Type} : List (Nat × α) → Nat → α → List (Nat × α)
  | [], i, v => [(i, v)]
  | (k, w) :: m, i, v =>
    if i < k then (i, v) :: (k, w) :: m
    else if i = k then (i, v) :: m
    else (k, w) :: Map.put m i v

/-- Drop every entry of a key. -/
def Map.erase {α : Type} : List (Nat × α) → Nat → List (Nat × α)
  | [], _ => []
  | (k, w) :: m, i => if i = k then Map.erase m i else (k, w) :: Map.erase m i

/-- Write a value at a key: writing the default removes the entry. -/
def Map.set {α : Type} [DecidableEq α] (d : α) (m : List (Nat × α)) (i : Nat) (v : α) : List (Nat × α) :=
  if v = d then Map.erase m i else Map.put m i v

/-- Canonical form: every key exceeds `lo` (when given) and no entry holds the default. -/
def Map.wfFrom {α : Type} [DecidableEq α] (d : α) : Option Nat → List (Nat × α) → Bool
  | _, [] => true
  | lo, (k, v) :: m =>
    (match lo with
     | none => true
     | some l => decide (l < k)) && decide (v ≠ d) && Map.wfFrom d (some k) m

/-- Canonical form of a sorted map. -/
def Map.wf {α : Type} [DecidableEq α] (d : α) (m : List (Nat × α)) : Bool := Map.wfFrom d none m

/-- Element of a list by index, with a default past the end. -/
def nth {α : Type} (d : α) (l : List α) (i : Nat) : α := l.getD i d

/-- A list of `n` copies. -/
def rep {α : Type} (n : Nat) (x : α) : List α := List.replicate n x

/-! ### Checksums -/

/-- One bit of a left-shifting CRC of width `w` with polynomial `poly`. -/
def crcBit (w poly c : Nat) : Nat :=
  if bit c (w - 1) then ((2 * c) % 2 ^ w) ^^^ poly else (2 * c) % 2 ^ w

/-- One byte of a left-shifting CRC, most significant bit first. -/
def crcByte (w poly : Nat) (c : Nat) (b : Byte) : Nat :=
  (List.range 8).foldl (fun c _ => crcBit w poly c) (c ^^^ (b.toNat * 2 ^ (w - 8)))

/-- CRC-64 of a byte string (R194): polynomial 0x42F0E1EBA9EA3693, all ones in and out, unreflected. -/
def crc64 (l : List Byte) : Nat :=
  (l.foldl (crcByte 64 0x42f0e1eba9ea3693) (2 ^ 64 - 1)) ^^^ (2 ^ 64 - 1)

/-- CRC-8 of a block header's bits [23:0] (R265): x^8 + x^2 + x + 1, initial value 0, unreflected.
The header's three bytes are taken in ascending order (DEDUCED, R14). -/
def crc8 (l : List Byte) : Nat := l.foldl (crcByte 8 0x07) 0

/-- One bit of the reflected CRC-32C. -/
def crc32cBit (c : Nat) : Nat :=
  if c % 2 = 1 then (c / 2) ^^^ 0x82f63b78 else c / 2

/-- CRC-32C (Castagnoli) of a byte string (R263, R343, R405). -/
def crc32c (l : List Byte) : Nat :=
  (l.foldl (fun c b => (List.range 8).foldl (fun c _ => crc32cBit c) (c ^^^ b.toNat)) 0xffffffff) ^^^ 0xffffffff

/-- Replace `l[i]` by `v` when the index exists. -/
def setNth {α : Type} (l : List α) (i : Nat) (v : α) : List α := l.set i v

/-- The first element that a test accepts, and the list without it. -/
def takeFirst {α : Type} (p : α → Bool) : List α → Option (α × List α)
  | [] => none
  | x :: xs =>
    if p x then some (x, xs)
    else match takeFirst p xs with
      | none => none
      | some (y, ys) => some (y, x :: ys)

/-- Put an element before the first one that it may stand before. -/
def insertBy {α : Type} (le : α → α → Bool) (x : α) : List α → List α
  | [] => [x]
  | y :: ys => if le x y then x :: y :: ys else y :: insertBy le x ys
/-- A list in order; elements that are equal in it keep their places. -/
def sortBy {α : Type} (le : α → α → Bool) (l : List α) : List α := l.foldr (insertBy le) []

/-- Saturating difference towards a bound: `min a b`. -/
def satTo (bound x : Nat) : Nat := if x ≤ bound then x else bound

/-- Lexicographic order of keys. -/
def keyLt (a b : Nat × Nat × Nat) : Bool :=
  decide (a.1 < b.1) || (a.1 == b.1 && (decide (a.2.1 < b.2.1) || (a.2.1 == b.2.1 && decide (a.2.2 < b.2.2))))

/-! ### Flash banks (R405) -/

/-- A bank's bytes (R405): MAGIC, SEQ, LEN, CRC-32C, payload. -/
def bankBytes (seq : Nat) (payload : List Byte) : List Byte :=
  let head := [0x46#8, 0x56#8, 0x32#8, 0x53#8] ++ leBytes 4 seq ++ leBytes 4 payload.length
  head ++ leBytes 4 (crc32c (head ++ payload)) ++ payload
/-- Payload of a key slot's record (R402, R404): state, point, fingerprint (DESIGN CHOICE, log entry 25). -/
def keyPayload (state x y print : Nat) : List Byte := leBytes 1 state ++ leBytes 48 x ++ leBytes 48 y ++ leBytes 2 print

end Sys2Proof.Machine
end

