-- ==== Sys2Proof/Machine/Numerics.lean ====
section
/-! DEFINITION. Number formats and accumulation (R70 to R94): element values, the single rounding of R80,
saturation R81, microscaling R79, block sums R85, the long accumulator R88 to R91 and the exact functions R93.
Every value is exact until its one rounding. -/

namespace Sys2Proof.Machine

/-- The format codes 0x0 to 0xE (R70). Code 0xF is reserved. -/
inductive Fmt where
  | fp32 | bf16 | fp16 | e4m3 | e5m2 | mxe4m3 | mxe5m2 | mxe2m3 | mxe3m2 | mxe2m1 | mxint8
  | int8 | int4 | int32 | lacc
  deriving DecidableEq, Repr

/-- The format of a 4-bit code (R70); 0xF names none. -/
def Fmt.ofCode : Nat → Option Fmt
  | 0x0 => some .fp32 | 0x1 => some .bf16 | 0x2 => some .fp16 | 0x3 => some .e4m3 | 0x4 => some .e5m2
  | 0x5 => some .mxe4m3 | 0x6 => some .mxe5m2 | 0x7 => some .mxe2m3 | 0x8 => some .mxe3m2
  | 0x9 => some .mxe2m1 | 0xa => some .mxint8 | 0xb => some .int8 | 0xc => some .int4
  | 0xd => some .int32 | 0xe => some .lacc | _ => none

/-- The 4-bit code of a format (R70). -/
def Fmt.code : Fmt → Nat
  | .fp32 => 0x0 | .bf16 => 0x1 | .fp16 => 0x2 | .e4m3 => 0x3 | .e5m2 => 0x4 | .mxe4m3 => 0x5
  | .mxe5m2 => 0x6 | .mxe2m3 => 0x7 | .mxe3m2 => 0x8 | .mxe2m1 => 0x9 | .mxint8 => 0xa
  | .int8 => 0xb | .int4 => 0xc | .int32 => 0xd | .lacc => 0xe

/-- Element bits (R70). -/
def Fmt.width : Fmt → Nat
  | .fp32 => 32 | .bf16 => 16 | .fp16 => 16 | .e4m3 => 8 | .e5m2 => 8 | .mxe4m3 => 8 | .mxe5m2 => 8
  | .mxe2m3 => 6 | .mxe3m2 => 6 | .mxe2m1 => 4 | .mxint8 => 8 | .int8 => 8 | .int4 => 4
  | .int32 => 32 | .lacc => 128

/-- The microscaled formats, with one E8M0 scale per 32 elements (R70). -/
def Fmt.isMx : Fmt → Bool
  | .mxe4m3 | .mxe5m2 | .mxe2m3 | .mxe3m2 | .mxe2m1 | .mxint8 => true
  | _ => false

/-- The integer formats (R75). MXINT8 counts as floating point (R84). -/
def Fmt.isInt : Fmt → Bool
  | .int8 | .int4 | .int32 => true
  | _ => false

/-- An exact value: `fin neg m e` is `(-1)^neg * m * 2^e`, with a signed zero when `m = 0` (R71). -/
inductive Val where
  | nan
  | inf (neg : Bool)
  | fin (neg : Bool) (m : Nat) (e : Int)
  deriving DecidableEq, Repr

/-- Exponent bits, mantissa bits, bias and non-finite codes of a floating-point element (R71). -/
structure FpLayout where
  ebits : Nat
  mbits : Nat
  bias : Nat
  /-- largest finite magnitude code -/
  maxCode : Nat
  /-- the code of +Inf, where the format has one -/
  infCode : Option Nat
  /-- the canonical NaN (R73), where the format has one -/
  nanCode : Option Nat
  deriving DecidableEq, Repr

/-- The layouts of R71. -/
def Fmt.layout : Fmt → Option FpLayout
  | .fp32 => some ⟨8, 23, 127, 0x7f7fffff, some 0x7f800000, some 0x7fc00000⟩
  | .bf16 => some ⟨8, 7, 127, 0x7f7f, some 0x7f80, some 0x7fc0⟩
  | .fp16 => some ⟨5, 10, 15, 0x7bff, some 0x7c00, some 0x7e00⟩
  | .e4m3 | .mxe4m3 => some ⟨4, 3, 7, 0x7e, none, some 0x7f⟩
  | .e5m2 | .mxe5m2 => some ⟨5, 2, 15, 0x7b, some 0x7c, some 0x7e⟩
  | .mxe2m3 => some ⟨2, 3, 1, 0x1f, none, none⟩
  | .mxe3m2 => some ⟨3, 2, 3, 0x1f, none, none⟩
  | .mxe2m1 => some ⟨2, 1, 1, 0x7, none, none⟩
  | _ => none

/-- The value of a floating-point element code (R71). Subnormals keep their full value (R72). -/
def FpLayout.value (l : FpLayout) (c : Nat) : Val :=
  let sgn := bit c (l.ebits + l.mbits)
  let mag := c % 2 ^ (l.ebits + l.mbits)
  if mag ≤ l.maxCode then
    let ex := mag / 2 ^ l.mbits
    let mant := mag % 2 ^ l.mbits
    if ex = 0 then .fin sgn mant (1 - (l.bias : Int) - l.mbits)
    else .fin sgn (2 ^ l.mbits + mant) ((ex : Int) - l.bias - l.mbits)
  else if l.infCode = some mag then .inf sgn
  else .nan

/-- The exact value of an integer. -/
def Val.ofInt (i : Int) : Val := .fin (decide (i < 0)) i.natAbs 0

/-- The value of an element code, before any scale (R71, R75). A LACC word is not an element here. -/
def Fmt.value (f : Fmt) (c : Nat) : Val :=
  match f.layout with
  | some l => l.value c
  | none =>
    match f with
    | .mxint8 =>
      let i := toSigned 8 c
      .fin (decide (i < 0)) i.natAbs (-6)
    | .int8 => Val.ofInt (toSigned 8 c)
    | .int4 => Val.ofInt (toSigned 4 c)
    | _ => Val.ofInt (toSigned 32 c)

/-- Round a magnitude `m * 2^e` to a multiple of `2^q`, to nearest, ties to even (R80): the multiple. -/
def rneTo (m : Nat) (e q : Int) : Nat :=
  if q ≤ e then m * 2 ^ (e - q).toNat
  else
    let s := (q - e).toNat
    let fl := m / 2 ^ s
    let r := m % 2 ^ s
    let half := 2 ^ (s - 1)
    if r > half || (r == half && fl % 2 == 1) then fl + 1 else fl

/-- The magnitude code of `m * 2^e` rounded once to a layout; it may exceed `maxCode` (R80). -/
def FpLayout.roundMag (l : FpLayout) (m : Nat) (e : Int) : Nat :=
  if m = 0 then 0
  else
    let emin : Int := 1 - (l.bias : Int)
    let lead : Int := e + flog2 m
    let top := max lead emin
    let n := rneTo m e (top - l.mbits)
    (top - emin).toNat * 2 ^ l.mbits + n

/-- A value rounded once into a floating-point format, saturated by R81. -/
def FpLayout.encode (l : FpLayout) (v : Val) : Nat :=
  let sbit := 2 ^ (l.ebits + l.mbits)
  match v with
  | .nan => l.nanCode.getD 0
  | .inf neg => b2n neg * sbit + l.infCode.getD l.maxCode
  | .fin neg m e =>
    let c := l.roundMag m e
    if c ≤ l.maxCode then b2n neg * sbit + c
    else
      -- beyond the largest finite: Inf for FP32, BF16 and FP16, else the largest finite (R81)
      let big := if l.mbits ≥ 7 then l.infCode.getD l.maxCode else l.maxCode
      b2n neg * sbit + big

/-- The integer nearest to a finite value, ties to even (R80). -/
def roundInt (neg : Bool) (m : Nat) (e : Int) : Int :=
  let n : Int := (rneTo m e 0 : Nat)
  if neg then -n else n

/-- Saturate an integer to `[lo, hi]`. -/
def clampInt (lo hi i : Int) : Int := if i < lo then lo else if hi < i then hi else i

/-- Saturate to INT32 (R87). -/
def sat32 (i : Int) : Int := clampInt (-2147483648) 2147483647 i

/-- Code of a value in an integer format of `w` bits (R81): NaN gives 0, Inf the limits. -/
def encodeInt (w : Nat) (v : Val) : Nat :=
  let lo : Int := -((2 ^ (w - 1) : Nat) : Int)
  let hi : Int := ((2 ^ (w - 1) : Nat) : Int) - 1
  match v with
  | .nan => 0
  | .inf true => ofSigned w lo
  | .inf false => ofSigned w hi
  | .fin n m e => ofSigned w (clampInt lo hi (roundInt n m e))

/-- A value rounded once to a plain (unscaled) format by R80 and R81. -/
def Fmt.encode (f : Fmt) (v : Val) : Nat :=
  match f.layout with
  | some l => l.encode v
  | none =>
    match f with
    | .mxint8 =>
      match v with
      | .fin n m e => ofSigned 8 (clampInt (-127) 127 (roundInt n m (e + 6)))
      | _ => 0
    | .int8 => encodeInt 8 v
    | .int4 => encodeInt 4 v
    | _ => encodeInt 32 v

/-- FP32 code of a value. -/
def fp32 (v : Val) : Nat := Fmt.fp32.encode v
/-- The value of an FP32 code. -/
def ofFp32 (c : Nat) : Val := Fmt.fp32.value c

/-- A value times `2^k`. -/
def Val.scale (v : Val) (k : Int) : Val :=
  match v with
  | .fin n m e => .fin n m (e + k)
  | v => v

/-- The value of an E8M0 scale: an exponent, or none for NaN (R77). -/
def e8m0 (s : Nat) : Option Int := if s = 255 then none else some ((s : Int) - 127)

/-- The sign of a value; NaN counts as positive. -/
def Val.neg? : Val → Bool
  | .nan => false
  | .inf n => n
  | .fin n _ _ => n

/-- The exact product (R85): NaN with a NaN or for 0 x Inf; -0 when the signs of a zero product differ (R82). -/
def Val.mul : Val → Val → Val
  | .nan, _ => .nan
  | _, .nan => .nan
  | .inf a, .inf b => .inf (a != b)
  | .inf a, .fin b m _ => if m = 0 then .nan else .inf (a != b)
  | .fin a m _, .inf b => if m = 0 then .nan else .inf (a != b)
  | .fin a m e, .fin b n f => .fin (a != b) (m * n) (e + f)

/-- The sum of signed dyadics at a common exponent. -/
def dyadicSum (l : List (Bool × Nat × Int)) : Int × Int :=
  let q := l.foldl (fun q t => min q t.2.2) 0
  (l.foldl (fun acc t =>
      let v : Int := ((t.2.1 * 2 ^ (t.2.2 - q).toNat : Nat) : Int)
      if t.1 then acc - v else acc + v) 0, q)

/-- The finite terms of a list. -/
def finTerms (l : List Val) : List (Bool × Nat × Int) :=
  l.filterMap fun v => match v with
    | .fin n m e => some (n, m, e)
    | _ => none

/-- The exact sum (R85): NaN with a NaN term or opposite infinities; an exact zero is +0 unless every term is -0 (R82).
An empty sum is +0 (R106). -/
def Val.sum (l : List Val) : Val :=
  if l.any (· = .nan) then .nan
  else
    let pinf := l.any (· = .inf false)
    let ninf := l.any (· = .inf true)
    if pinf && ninf then .nan
    else if pinf then .inf false
    else if ninf then .inf true
    else
      let (s, q) := dyadicSum (finTerms l)
      if s = 0 then
        .fin (!l.isEmpty && l.all (fun v => match v with | .fin true 0 _ => true | _ => false)) 0 0
      else .fin (decide (s < 0)) s.natAbs q

/-- FP32 addition, rounded once (R80, R86). -/
def addFp32 (a b : Nat) : Nat := fp32 (Val.sum [ofFp32 a, ofFp32 b])

/-- A fused multiply-add, rounded once to a format (R92). -/
def fma (f : Fmt) (a b c : Nat) : Nat :=
  f.encode (Val.sum [(f.value a).mul (f.value b), f.value c])

/-- Flip the sign of a value. -/
def Val.negate : Val → Val
  | .nan => .nan
  | .inf n => .inf (!n)
  | .fin n m e => .fin (!n) m e

/-! ### Order of values -/

/-- A finite or infinite value as an integer at exponent `q`; infinities are kept apart by `cmp`. -/
def Val.cmp (a b : Val) : Option Ordering :=
  match a, b with
  | .nan, _ => none
  | _, .nan => none
  | .inf x, .inf y => some (if x = y then .eq else if x then .lt else .gt)
  | .inf x, .fin _ _ _ => some (if x then .lt else .gt)
  | .fin _ _ _, .inf y => some (if y then .gt else .lt)
  | .fin n m e, .fin n' m' e' =>
    let (s, _) := dyadicSum [(n, m, e), (!n', m', e')]
    some (if s < 0 then .lt else if s = 0 then .eq else .gt)

/-- -0 lies below +0 (R131, FMIN and FMAX). -/
def Val.totalLt (a b : Val) : Bool :=
  match a.cmp b with
  | some .lt => true
  | some .eq => a.neg? && !b.neg?
  | _ => false

/-- FMIN and FMAX on codes of a format (R131). -/
def fminmax (f : Fmt) (mx : Bool) (a b : Nat) : Nat :=
  let x := f.value a
  let y := f.value b
  if x = .nan || y = .nan then f.encode .nan
  else if mx then (if x.totalLt y then b else a)
  else (if y.totalLt x then b else a)

/-! ### Microscaling (R77 to R79) -/

/-- emax of R79. -/
def Fmt.mxEmax : Fmt → Int
  | .mxe4m3 => 8 | .mxe5m2 => 15 | .mxe2m3 => 2 | .mxe3m2 => 4 | .mxe2m1 => 2 | _ => 0

/-- The largest magnitude of finite values, as a dyadic. -/
def maxMag : List Val → Nat × Int
  | [] => (0, 0)
  | v :: vs =>
    let (m, e) := maxMag vs
    match v with
    | .fin _ n f => if Val.cmp (.fin false m e) (.fin false n f) = some .lt then (n, f) else (m, e)
    | _ => (m, e)

/-- `to_mx` (R79): the block's scale and its 32 element codes. -/
def toMx (v : List Val) (f : Fmt) : Nat × List Nat :=
  if v.any (fun x => match x with | .fin _ _ _ => false | _ => true) then (255, v.map fun _ => 0)
  else
    let (am, ae) := maxMag v
    if am = 0 then (0, v.map fun _ => 0)
    else
      let x := clampInt (-127) 127 (ae + flog2 am - f.mxEmax)
      ((x + 127).toNat, v.map fun y => f.encode (y.scale (-x)))

/-- The value of an MX element under its scale (R77). -/
def mxValue (f : Fmt) (scale c : Nat) : Val :=
  match e8m0 scale with
  | none => .nan
  | some k => (f.value c).scale k

/-! ### Block sums and the long accumulator (R85 to R91) -/

/-- One product of a block: the weight and activation values. -/
abbrev Pair := Val × Val

/-- The exact scaled block sum before rounding (R85); `none` for a scale means 1. -/
def blockExact (l : List Pair) (ws as_ : Nat) : Val :=
  match e8m0 ws, e8m0 as_ with
  | some a, some b => (Val.sum (l.map fun p => p.1.mul p.2)).scale (a + b)
  | _, _ => .nan

/-- A LACC word from its parts (R88). -/
def laccWord (l : Int) (s n p q : Bool) : Nat :=
  ofSigned 124 l + b2n s * 2 ^ 124 + b2n n * 2 ^ 125 + b2n p * 2 ^ 126 + b2n q * 2 ^ 127

/-- L of a LACC word (R88). -/
def laccL (w : Nat) : Int := toSigned 124 w

/-- The LACC term of an exact block sum (R89), with its clamp. -/
def laccTerm (v : Val) : Nat :=
  match v with
  | .nan => laccWord 0 false false false true
  | .inf false => laccWord 0 false false true false
  | .inf true => laccWord 0 false true false false
  | .fin neg m e =>
    let n := rneTo m e (-64)
    let bound := 2 ^ 108 - 1
    let big := decide (n > bound)
    let c : Int := ((if big then bound else n : Nat) : Int)
    laccWord (if neg then -c else c) big false false false

/-- `lacc_add` (R89). -/
def laccAdd (a b : Nat) : Nat :=
  laccWord (laccL a + laccL b) (bit a 124 || bit b 124) (bit a 125 || bit b 125)
    (bit a 126 || bit b 126) (bit a 127 || bit b 127)

/-- The value a LACC narrows from (R91): NaN, an infinity, +0 or the exact L x 2^-64. -/
def laccValue (w : Nat) : Val :=
  if bit w 127 || (bit w 126 && bit w 125) then .nan
  else if bit w 126 then .inf false
  else if bit w 125 then .inf true
  else
    let l := laccL w
    if l = 0 then .fin false 0 0 else .fin (decide (l < 0)) l.natAbs (-64)

/-- `lacc_narrow` (R91), to FP32, BF16, FP16 or INT32. A negative nonzero L that rounds to zero in FP16 keeps its sign by
R81; R82's 'strict mode produces only +0' is read of the sum L, whose zero has no sign (DESIGN CHOICE, log entry 46). -/
def laccNarrow (w : Nat) (f : Fmt) : Nat := f.encode (laccValue w)

/-- Rate classes of a weight and an activation format (R83): 0 double, 1 full, 2 half. -/
def rateClass (w a : Fmt) : Nat :=
  let c (f : Fmt) : Nat := match f with
    | .mxe2m1 | .int4 => 0
    | .bf16 | .fp16 => 2
    | _ => 1
  max (c w) (c a)

/-- The operand pair is one floating-point and one integer format (R84). -/
def pairInvalid (w a : Fmt) : Bool := w.isInt != a.isInt

/-- Formats 0x1 to 0xC, which a matrix pass takes (R83). -/
def Fmt.isQuadOperand (f : Fmt) : Bool := decide (1 ≤ f.code) && decide (f.code ≤ 0xc)

/-! ### Exact functions of the pips (R93) -/

/-- A ratio as a dyadic with a sticky bit, precise enough for any one rounding to FP32. -/
def ratio (num den : Nat) : Nat × Int :=
  let k := 320 + flog2 den
  let q := (num * 2 ^ k) / den
  let r := (num * 2 ^ k) % den
  (2 * q + b2n (r != 0), -(k : Int) - 1)

/-- Integer square root by bisection on bits. -/
def isqrtFuel : Nat → Nat → Nat → Nat
  | 0, _, r => r
  | b + 1, n, r =>
    let t := r + 2 ^ b
    isqrtFuel b n (if t * t ≤ n then t else r)

/-- `floor(sqrt n)`. -/
def isqrt (n : Nat) : Nat := isqrtFuel (flog2 n / 2 + 1) n 0

/-- Fixed-point precision of the exponential. -/
def expPrec : Nat := 384


/-- `Σ r^i / i!` over the first `n` terms in units of `2^-P`. -/
def expTaylor (P r : Nat) : Nat → Nat × Nat
  | 0 => (2 ^ P, 2 ^ P)
  | n + 1 =>
    let (term, acc) := expTaylor P r n
    let t := (term * r) / (2 ^ P * (n + 1))
    (t, acc + t)

/-- Square `n` times in units of `2^-P`. -/
def sqTimes (P : Nat) : Nat → Nat → Nat
  | 0, x => x
  | n + 1, x => sqTimes P n ((x * x) / 2 ^ P)

/-- `e^x` in units of `2^-P` for a magnitude `x = m * 2^e` below 2^7: the argument is divided by 2^16, the
series summed, and the result squared 16 times. -/
def expFixed (m : Nat) (e : Int) : Nat :=
  let P := expPrec
  let x := rneTo m e (-(P : Int))
  let r := x / 2 ^ 16
  sqTimes P 16 (expTaylor P r 40).2

/-- `e^(-x)` in units of `2^-P` for a magnitude. -/
def expNegFixed (m : Nat) (e : Int) : Nat := 2 ^ (2 * expPrec) / expFixed m e

/-- A magnitude compared with `2^k`: below it. -/
def magLt (m : Nat) (e k : Int) : Bool := m == 0 || decide (e + flog2 m < k)

/-- A magnitude compared with an integer bound: at least it. -/
def magGe (m : Nat) (e : Int) (b : Nat) : Bool :=
  match Val.cmp (.fin false m e) (.fin false b 0) with
  | some .lt => false
  | _ => true

/-- EXP (R93): e^x rounded once. -/
def sfuExp (v : Val) : Nat :=
  match v with
  | .nan => fp32 .nan
  | .inf false => fp32 (.inf false)
  | .inf true => 0
  | .fin neg m e =>
    if magLt m e (-26) then 0x3f800000
    else if neg then
      if magGe m e 105 then 0 else fp32 (.fin false (2 * expNegFixed m e + 1) (-(expPrec : Int) - 1))
    else if magGe m e 90 then fp32 (.inf false)
    else fp32 (.fin false (2 * expFixed m e + 1) (-(expPrec : Int) - 1))

/-- RCP (R93): 1/x rounded once. -/
def sfuRcp (v : Val) : Nat :=
  match v with
  | .nan => fp32 .nan
  | .inf n => fp32 (.fin n 0 0)
  | .fin n m e =>
    if m = 0 then fp32 (.inf n)
    else
      let (q, k) := ratio 1 m
      fp32 (.fin n q (k - e))

/-- RSQ (R93): 1/sqrt(x) rounded once. -/
def sfuRsq (v : Val) : Nat :=
  match v with
  | .nan => fp32 .nan
  | .inf false => 0
  | .inf true => fp32 .nan
  | .fin n m e =>
    if m = 0 then fp32 (.inf n)
    else if n then fp32 .nan
    else
      let odd := e % 2 != 0
      let m' := if odd then 2 * m else m
      let e' := if odd then e - 1 else e
      let s := isqrt (2 ^ 400 / m')
      let sticky := b2n (s * s * m' != 2 ^ 400)
      fp32 (.fin false (2 * s + sticky) (-201 - e' / 2))

/-- SIG (R93): 1/(1 + e^-x) rounded once. -/
def sfuSig (v : Val) : Nat :=
  match v with
  | .nan => fp32 .nan
  | .inf false => 0x3f800000
  | .inf true => 0
  | .fin neg m e =>
    if magLt m e (-26) then 0x3f000000
    else if neg then
      if magGe m e 105 then 0
      else
        let t := expNegFixed m e
        let (q, k) := ratio t (2 ^ expPrec + t)
        fp32 (.fin false q k)
    else if magGe m e 30 then 0x3f800000
    else
      let t := expNegFixed m e
      let (q, k) := ratio (2 ^ expPrec) (2 ^ expPrec + t)
      fp32 (.fin false q k)

/-- SILU (R93): x/(1 + e^-x) rounded once, never as x times SIG(x). -/
def sfuSilu (v : Val) : Nat :=
  match v with
  | .nan => fp32 .nan
  | .inf false => fp32 (.inf false)
  | .inf true => 0x80000000
  | .fin neg m e =>
    if m = 0 then fp32 v
    else if magLt m e (-26) then
      -- x/2 + x^2/4 + ...: a hair away from x/2, towards +infinity
      fp32 (.fin neg (if neg then m * 2 ^ 40 - 1 else m * 2 ^ 40 + 1) (e - 41))
    else if neg then
      if magGe m e 120 then 0x80000000
      else
        let t := expNegFixed m e
        let (q, k) := ratio (m * t) (2 ^ expPrec + t)
        fp32 (.fin true q (k + e))
    else if magGe m e 30 then fp32 v
    else
      let t := expNegFixed m e
      let (q, k) := ratio (m * 2 ^ expPrec) (2 ^ expPrec + t)
      fp32 (.fin false q (k + e))

end Sys2Proof.Machine
end

