-- ==== Sys2Proof/Syntax.lean ====
section
/-! DEFINITION. The commands of the block: one constructor per row of spec/opcode_table.json, in the table's order.
An operand says what the world outside supplies with the event: a register value, a host's bytes, a sensor reading,
a verification result. What an event finds inside the device it takes from the state.

Positions `p` are physical tile indexes 0 to 207 (R6), `port` 0 to 63, `tbl` 0 to 15. -/

namespace Sys2Proof

/-- A PCIe function: the physical function or virtual function `n` (R27). -/
inductive Fn where
  | pf
  | vf (n : Nat)
  deriving DecidableEq, Repr

/-- Who sends a BAR0 or BAR2 access (R250 to R254): a function and its requester ID (the host is 0). -/
structure Requester where
  fn : Fn
  id : Nat
  deriving DecidableEq, Repr

/-- The content of a SYNC flit (The sync exchange, R37). Stamps count sixteenths of a beat. -/
structure SyncFlit where
  dev : Nat
  rootDev : Nat
  depth : Nat
  /-- STATE code of the sender (R39) -/
  state : Nat
  /-- departure stamp in sixteenths -/
  depart : Nat
  deriving DecidableEq, Repr

/-- The content of a FOLLOW flit (R37): the departure stamp of the peer's last SYNC and the arrival stamp taken for it. -/
structure FollowFlit where
  /-- departure stamp, on the peer's count, of the peer's last SYNC -/
  peerDepart : Nat
  /-- arrival stamp, on the peer's count, of this device's last SYNC -/
  peerArrive : Nat
  deriving DecidableEq, Repr

/-- The content of an IDENT packet (R283). -/
structure IdentFlit where
  dev : Nat
  group : Nat
  pos : Nat
  port : Nat
  grade : Nat
  deriving DecidableEq, Repr

/-- A wrong symbol of a received frame: codeword 0 to 15, symbol 0 to 543 of it, and the bits in which the symbol differs. -/
structure SymbolError where
  word : Nat
  symbol : Nat
  bits : Nat
  deriving DecidableEq, Repr

/-- A frame as it arrives on the line (R260 to R262): the codewords of 10,280 message bytes with some symbols changed. Every
sequence of symbols is of this form, since the message may be any. -/
structure RxFrame where
  msg : List Byte
  errors : List SymbolError
  deriving DecidableEq, Repr

/-- One reading of a deck or of other host memory: the bytes that answered, and whether the whole read succeeded. -/
structure HostBytes where
  data : List Byte
  /-- the whole read succeeded; otherwise the first byte after `data` failed -/
  ok : Bool
  deriving DecidableEq, Repr

/-- A descriptor's path into the SVC (R318): function, command ring, the 128 bytes. -/
structure DescIn where
  fn : Fn
  ring : Nat
  bytes : List Byte
  deriving DecidableEq, Repr

/-- A host access that a lead forwards to a follower (R312, R313). -/
inductive FolAccess where
  | regRead (off : Nat)
  | regWrite (off : Nat) (v : Word)
  | bar2Read (off len : Nat)
  | bar2Write (off : Nat) (data : List Byte)
  | command (bytes : List Byte)
  deriving DecidableEq, Repr

/-- One of the three latches of a register bit has changed (R395): the BAR0 offset of the word, the bit, latch 0 to 2. The
HIF's registers of a function are its own; those of the other blocks are named as the physical function reaches them. -/
structure LatchUpset where
  off : Nat
  bit : Nat
  latch : Nat
  fn : Fn := .pf
  deriving DecidableEq, Repr

/-- An item of a seat that a recovery copies (R391 to R393): a memory row, a half-slot of the accumulator store or its valid
bit, the program store, an ODT entry, the pip instruction stores, a dealer counter, a register of a pip (0: its condition
bit P), a ring, a handle, the loop state, the trackers. -/
inductive SeatItem where
  | row (r : Nat)
  | accHalf (i : Nat)
  | valid (i : Nat)
  | programStore
  | odt (i : Nat)
  | pipStore
  | counter (c : Nat)
  | pipReg (pip r : Nat)
  | ring (r : Nat)
  | handle (h : Nat)
  | loops
  | trackers
  deriving DecidableEq, Repr

/-- Bits of a configuration array that have changed (R395, R396), as pairs of a 32-bit word and a bit of it. -/
inductive ScrubHit where
  /-- array of a tile: 0 program store, 1 ODT, 2 pip store -/
  | tile (p arr : Nat) (flips : List (Nat × Nat))
  /-- circuit or route table of a port -/
  | port (n : Nat) (flips : List (Nat × Nat))
  deriving DecidableEq, Repr

/-- A read of BAR0: its offset, and whether it is one of 64 bits (R31). -/
structure BarRead where
  off : Nat
  wide : Bool
  deriving DecidableEq, Repr

/-- How a firmware bank verified (R403). -/
structure FwCheck where
  /-- the bank that the boot control record names verified -/
  namedOk : Bool
  /-- the other bank verified -/
  otherOk : Bool
  /-- FWREV of the image that runs -/
  rev : Nat
  /-- which writes of flash records, counted from this boot, will fail to verify twice (R405) -/
  badWrites : List Nat
  deriving DecidableEq, Repr

/-- One reading of a table's result records (R330), and the requests whose write to OUT fails on PCIe (R349). -/
structure ResultIn where
  table : Nat
  outFails : List Nat
  deriving DecidableEq, Repr

/-- How a probe ended (R394): what failed, and the scan blocks whose CRC fails (R405). -/
structure ProbeEnd where
  fail : Option Nat
  badBlocks : List Nat
  deriving DecidableEq, Repr

/-- The coolant readings of one second (R407). -/
structure CoolantIn where
  inlet : BitVec 12
  outlet : BitVec 12
  deriving DecidableEq, Repr

/-- The readings at the end of one second (R407, R408): W1S, rail currents by rail, transmitted and received light by port. -/
structure PowerIn where
  w1s : BitVec 16
  amps : List (Nat × BitVec 16)
  light : List (Nat × BitVec 12 × BitVec 12)
  deriving DecidableEq, Repr

/-- The commands. -/
inductive Instr where
  /-- TICK_BOUNDARY (R30) -/
  | tickBoundary
  /-- BUDGET_PERIOD_END (R333) of a table -/
  | budgetPeriodEnd (tbl : Nat)
  /-- GRANT_FROM_WAITING (R364) of adapter record `i` -/
  | grantFromWaiting (i : Nat)
  /-- PUBLICATION_SAMPLE (R367) of adapter record `i` -/
  | publicationSample (i : Nat)
  /-- TICK_END_CUTOFF (R51) at a position -/
  | tickEndCutoff (p : Nat)
  /-- DEADLINE_EXPIRE (R208) of a tracked operation -/
  | deadlineExpire (p op : Nat)
  /-- RCU_NOW_LOW_READ (R31) by a requester -/
  | rcuNowLowRead
  /-- RCU_NOW_LOW_WRITE (R31) -/
  | rcuNowLowWrite (v : Word)
  /-- RCU_TICK_WRITE (R31): `none` for a high-word write of `hi`, `some lo` for a 64-bit write -/
  | rcuTickWrite (hi : Word) (lo : Option Word)
  /-- RCU_CONFIG_WRITE (R35) -/
  | rcuConfigWrite (v : Word)
  /-- SYNC_SEND (R37) -/
  | syncSend
  /-- FOLLOW_SEND (R37) -/
  | followSend
  /-- SYNC_RECEIVE (R36) on a port, stamped on arrival in sixteenths -/
  | syncReceive (port : Nat) (f : SyncFlit) (arrive : Nat)
  /-- FOLLOW_RECEIVE (R37) on a port -/
  | followReceive (port : Nat) (f : FollowFlit)
  /-- HOLDOVER_ENTER (R42) -/
  | holdoverEnter
  /-- HOLDOVER_EXPIRE (R42) -/
  | holdoverExpire
  /-- PSW_GO (R59): a write of RCU.PSW_CTRL with GO, by a function -/
  | pswGo (fn : Fn) (v : Word)
  /-- PSW_CANCEL (R61): a write of RCU.PSW_CTRL with CANCEL, by a function -/
  | pswCancel (fn : Fn) (v : Word)
  /-- BUNDLE_DECODE (R183) of the next undecoded bundle -/
  | bundleDecode (p : Nat)
  /-- BUNDLE_ISSUE (R179) of the next bundle -/
  | bundleIssue (p : Nat)
  /-- CLD_RESULT (R197) of the oldest pending CLD -/
  | cldResult (p : Nat)
  /-- SETUP_WRITE (R201) of the oldest pending SETUP -/
  | setupWrite (p : Nat)
  /-- RING_RESULT_WRITE (R210) of the oldest pending PUSH or POP result -/
  | ringResultWrite (p : Nat)
  /-- DIGEST_POST (R382) of the oldest finished DGST of a position -/
  | digestPost (p : Nat)
  /-- LOAD_COMPLETE (R102): of the quad, or of the side array -/
  | loadComplete (p : Nat) (side : Bool)
  /-- FOOT_WRITE (R98): the next column of a row of a pass; `upset` is the term a faulty array delivers -/
  | footWrite (p pass stream row : Nat) (upset : Option Nat)
  /-- TALLY_MISMATCH (R385) of the oldest failed check of a position -/
  | tallyMismatch (p : Nat)
  /-- TALLY_VERDICT (R387) on the open capture -/
  | tallyVerdict (p : Nat)
  /-- CAPTURE_COPY (R389) of the open capture -/
  | captureCopy (p : Nat)
  /-- COMPLETION_FLAG_WRITE (R207) of an operation complete at a position -/
  | completionFlagWrite (p op : Nat)
  /-- NOP of the pips (R130) -/
  | pipNop (p : Nat)
  | halt (p : Nat)
  | fma (p : Nat)
  | falu (p : Nat)
  | bfma (p : Nat)
  | balu (p : Nat)
  | fcmp (p : Nat)
  | ialu (p : Nat)
  | icmp (p : Nat)
  | sel (p : Nat)
  | addi (p : Nat)
  | lui (p : Nat)
  | ori (p : Nat)
  | cvt (p : Nat)
  | sfu (p : Nat)
  | movs (p : Nat)
  | rnd (p : Nat)
  | ld (p : Nat)
  | lds (p : Nat)
  | ldp (p : Nat)
  | st (p : Nat)
  | sts (p : Nat)
  | stp (p : Nat)
  /-- PIP_MEMORY_COMPLETE (R136) of the oldest finished pip access -/
  | pipMemoryComplete (p : Nat)
  | pcinv (p : Nat)
  | red (p : Nat)
  | xch (p : Nat)
  | mxq (p : Nat)
  | br (p : Nat)
  | brk (p : Nat)
  | loop (p : Nat)
  | loopr (p : Nat)
  /-- SLOT_LANDING (R162) of the oldest crossbar slot that has arrived at a position -/
  | slotLanding (p : Nat)
  /-- CIRCUIT_SLOT_RELEASE (R45) on a port of the slot scheduled at this beat -/
  | circuitSlotRelease (port : Nat)
  /-- RING_PUBLISH (R168) of a ring's oldest reserved push -/
  | ringPublish (p r : Nat)
  /-- RING_TAIL_WRITE (R169) by a requester, or by the MGC -/
  | ringTailWrite (mgc : Bool) (rq : Requester) (p r : Nat) (v : Word)
  /-- RING_HEAD_WRITE (R169) -/
  | ringHeadWrite (mgc : Bool) (rq : Requester) (p r : Nat) (v : Word)
  /-- HOST_WAIT_LIMIT (R163) of the oldest class H request of a position -/
  | hostWaitLimit (p : Nat)
  /-- BAR2_WRITE (R250) at a BAR2 address of the requester's function -/
  | bar2Write (rq : Requester) (addr : Nat) (data : List Byte)
  /-- BAR2_READ (R252) -/
  | bar2Read (rq : Requester) (addr len : Nat)
  /-- FOLLOWER_ACCESS (R313) through a window -/
  | followerAccess (fn : Fn) (win : Nat) (a : FolAccess)
  /-- FOLLOWER_TIMEOUT (R313) of an outstanding follower read -/
  | followerTimeout (req : Nat)
  /-- FRAME_SEND (R261) -/
  | frameSend (port : Nat)
  /-- FRAME_RECEIVE (R264) -/
  | frameReceive (port : Nat) (f : RxFrame)
  /-- ACK_TIMEOUT (R280) -/
  | ackTimeout (port : Nat)
  /-- PACKET_WAIT_LIMIT (R281) of the oldest packet waiting at a port -/
  | packetWaitLimit (port : Nat)
  | rwrReceive (port : Nat)
  | rflagReceive (port : Nat)
  | rrdReceive (port : Nat)
  | rrspReceive (port : Nat)
  | rpushReceive (port : Nat)
  | rackReceive (port : Nat)
  | regrdReceive (port : Nat)
  | regwrReceive (port : Nat)
  | regrspReceive (port : Nat)
  /-- HOST_BAR2_WRITE (R312) -/
  | hostBar2Write (port : Nat)
  | hostBar2Read (port : Nat)
  | hostReadData (port : Nat)
  | hostCommand (port : Nat)
  | hostRecord (port : Nat)
  /-- HOST_READ_REQUEST (R312): `d` is what host memory answers -/
  | hostReadRequest (port : Nat) (d : HostBytes)
  | hostData (port : Nat)
  | hostWrite (port : Nat)
  | teleReceive (port : Nat)
  /-- IDENT_RECEIVE (R283) -/
  | identReceive (port : Nat) (f : IdentFlit)
  | identSend (port : Nat)
  /-- TELEMETRY_WINDOW_END (R282) -/
  | telemetryWindowEnd
  | portEnable (port : Nat)
  | portDisable (port : Nat)
  | portRetrain (port : Nat)
  /-- LASER_LIGHT_GAIN (R269) on a laser input, with its weakest wavelength in 0.01 dB -/
  | laserLightGain (i : Nat) (power : BitVec 12)
  /-- LIGHT_LOSS (R285) on a port -/
  | lightLoss (port : Nat)
  | trainSettled (port : Nat)
  | trainTimeout (port : Nat)
  /-- CR_TAIL_WRITE (R303) -/
  | crTailWrite (rq : Requester) (ring : Nat) (v : Word)
  /-- RR_HEAD_WRITE (R303) -/
  | rrHeadWrite (rq : Requester) (ring : Nat) (v : Word)
  /-- HOST_RING_ENABLE (R302): a CFG write of a command ring, or of a record ring -/
  | hostRingEnable (fn : Fn) (record : Bool) (ring : Nat) (cfg : Word)
  /-- COMMAND_FETCH (R304): the 64 bytes that host memory answers (or no answer), and the bytes behind the
  command's own host address (a deck's header, HDMA_IN data) -/
  | commandFetch (fn : Fn) (ring : Nat) (cmd : Option (List Byte)) (host : HostBytes)
  /-- DECK_LOAD_COMPLETE (R295): the bytes that pass 2 reads, and whether the whole read succeeded; those of pass 1 are what
  the host answered at the fetch -/
  | deckLoadComplete (data : List Byte) (ok : Bool)
  /-- RECORD_PUBLISH (R307) on a record ring -/
  | recordPublish (fn : Fn) (ring : Nat)
  /-- HOLDOFF_EXPIRE (R307) -/
  | holdoffExpire (fn : Fn) (ring : Nat)
  | vfFlr (n : Nat)
  | pfFlr
  | hotReset
  | perst
  /-- DEVICE_RESET (R315): the value written to HIF.RESET -/
  | deviceReset (v : Word)
  /-- POWER_ON (R412): how the firmware banks verified -/
  | powerOn (fw : FwCheck)
  /-- RAIL_ENABLE_TIMEOUT (R412) of a rail -/
  | railEnableTimeout (rail : Nat)
  /-- GENERATE (R320) with the prompt tokens that host memory answers -/
  | generate (d : DescIn) (prompt : List Word)
  | score (d : DescIn) (prompt : List Word)
  | cancel (d : DescIn)
  | park (d : DescIn)
  /-- RESUME (R345) with the parked record and the extra prompt tokens -/
  | resume (d : DescIn) (record : List Byte) (prompt : List Word)
  | bind (d : DescIn)
  /-- INPUT_RECORD_DEADLINE (R330) of a table, naming whether every row reached its bank -/
  | inputRecordDeadline (tbl : Nat)
  /-- RESULT_READ (R330) of a table -/
  | resultRead (r : ResultIn)
  /-- LANE_MAP_SAMPLE (R329) of a FOLLOW table -/
  | laneMapSample (tbl : Nat)
  /-- GATHER (R337) of gather entry `g` -/
  | gather (g : Nat)
  | gatherDeadline (g : Nat)
  /-- PARK_COMPLETE (R342) of a request, with the bytes of remote segments read from other devices -/
  | parkComplete (reqid : Nat) (giveUp : Bool)
  /-- RESTORE_COMPLETE (R345) of a request -/
  | restoreComplete (reqid : Nat)
  | substitutionSwitch (tbl : Nat)
  | substitutionCopyTimeout (tbl : Nat)
  /-- RECOVERY_COMPLETE (R393): the rows that the MGC could not read -/
  | recoveryComplete (tbl : Nat) (unread : List SeatItem)
  | trimDecay (p : Nat)
  /-- PROBE_GO (R394): the value written to TLY.PROBE -/
  | probeGo (v : Word)
  /-- PROBE_COMPLETE (R394): FAILIDX of a failing probe -/
  | probeComplete (e : ProbeEnd)
  | probePeriodic
  /-- SCRUB (R396): the latches and the array bits that have changed since the last one -/
  | scrub (upsets : List LatchUpset) (hits : List ScrubHit)
  | logRead (smb : Bool)
  | fwWrite (smb : Bool)
  /-- FW_COMMIT (R403): whether the inactive image verified -/
  | fwCommit (smb : Bool) (ok : Bool)
  | fwActivate (smb : Bool)
  | keyEnrol (smb : Bool)
  | keyRevoke (smb : Bool)
  | regWrite (smb : Bool)
  | regRead (smb : Bool)
  | thermRestart (smb : Bool)
  /-- TEMP_SAMPLE (R407) of sensor `i` -/
  | tempSample (i : Nat) (t : BitVec 12)
  | thermalStop (i : Nat) (t : BitVec 12)
  /-- POWER_STOP (R409): W1MS -/
  | powerStop (w : BitVec 16)
  /-- RAIL_FAULT (R408) on monitor `i`: millivolts, and whether the reading is high -/
  | railFault (i : Nat) (mv : BitVec 16) (held : Bool)
  /-- COOLANT_HIGH (R408): the inlet reading -/
  | coolantHigh (c : CoolantIn)
  /-- POWER_WINDOW_END (R408): W1S -/
  | powerWindowEnd (r : PowerIn)
  | logPageWrite
  | logSuppressed
  /-- REGISTER_READ_CLEAR (R10): a read of a BAR0 register by a requester; with `smb`, of the SMBus mailbox's registers at
  the same offsets (R400) -/
  | registerReadClear (smb : Bool) (rq : Requester) (r : BarRead)
  /-- REGISTER_WRITE (R10): a 32-bit write of a BAR0 register by a requester, or of the SMBus mailbox's registers -/
  | registerWrite (smb : Bool) (rq : Requester) (off : Nat) (v : Word)
  /-- HDMA_COMPLETE (R304) of the command in progress on a ring -/
  | hdmaComplete (fn : Fn) (ring : Nat)
  | coolantSensorFault
  | powerDown
  | srIovEnable (on : Bool)
  /-- MGC_RESTART_COMPLETE (R401, R403) -/
  | mgcRestartComplete (fw : FwCheck)
  | deviceResetComplete
  deriving DecidableEq, Repr

end Sys2Proof
end

