-- ==== Sys2Proof/Machine/State.lean ====
section
/-! DEFINITION. The state of one FV2: plain data. Every docstring names the rule that gives the item and, after
"reset", its value after reset. Sparse things (registers by number, units by index) are sorted lists read with a
default (`Map.get`), so that an unlisted item holds its reset value. Beats called "stamp" count table beats as
tick * 65536 + table beat; beats called "count" are values of the round counter. -/

namespace Sys2Proof.Machine

/-- Why a command stops the model. -/
inductive Fault where
  /-- Raised by every meaning whose command names a unit that the device does not have (a position above 207, a
  port above 63, a table above 15, a ring, sensor, rail or register number out of range). Safe: no such event exists. -/
  | noSuchUnit
  deriving DecidableEq, Repr

/-- Why a command has no meaning. -/
inductive Refusal where
  /-- Raised by an arm of `exec` whose command has no meaning yet. Safe. -/
  | notModelled (mnemonic : String)
  deriving DecidableEq, Repr

/-- The grade fused at manufacture (Grades). -/
inductive Grade where
  | a14
  | a12
  deriving DecidableEq, Repr

/-! ### Records (R305) -/

/-- A record before it enters a ring (R305). FLAGS.PHASE is formed when the record is written. -/
structure Rec where
  /-- STATUS [15:0] (R17) -/
  status : Nat
  /-- KIND 0 to 5 (R305) -/
  kind : Nat
  /-- SRC byte (R305) -/
  src : Nat
  /-- WIN (R305) -/
  win : Nat
  /-- SSEQ [15:0] (R418) -/
  sseq : Nat
  /-- STAMP: the round counter when raised (R305) -/
  stamp : Nat
  /-- TAG [63:0] (R305, R417) -/
  tag : Nat
  /-- DETAIL [63:0] (R305) -/
  detail : Nat
  deriving DecidableEq, Repr

/-- A source's on-device record queue (R306, R418). -/
structure SrcQ where
  /-- records waiting, oldest first, at most 4,096 (R306); reset empty -/
  recs : List Rec := []
  /-- terminal records waiting for room, and the KIND 4 record that waits among them (R306); reset empty -/
  waiting : List Rec := []
  /-- SSEQ of the next record (R418); reset 0 -/
  sseq : Nat := 0
  /-- records that the lead itself raised for a follower's source, less the completions that it did not keep, modulo 65536: how
  far the follower's SSEQ is moved (R418); reset 0 -/
  own : Nat := 0
  deriving DecidableEq, Repr

/-! ### Tile: dealer, ODT, rings -/

/-- A ring of a tile (R165, R167). -/
structure Ring where
  /-- RING_BASE (R165); reset 0 -/
  base : Word := 0
  /-- RING_CFG (R165); reset 0 -/
  cfg : Word := 0
  /-- RING_HEAD (R165); reset 0 -/
  head : Word := 0
  /-- RING_TAIL (R165); reset 0 -/
  tail : Word := 0
  /-- the reserve counter, shown by no register (R167); reset 0 -/
  reserve : Word := 0
  /-- pushes reserved and not published, oldest first (R168): first counter value, entries, rows still to reach
  their banks, whether a row was discarded (R211), the count by which it publishes in any case -/
  pushes : List (Nat × Nat × Nat × Bool × Nat) := []
  deriving DecidableEq, Repr

/-- One open repeat of the dealer (R199). -/
structure RepFrame where
  /-- store index of the first body bundle -/
  start : Nat
  /-- bundles in the body -/
  len : Nat
  /-- iterations in all -/
  iters : Nat
  /-- current iteration -/
  iter : Nat
  /-- beats between iterations -/
  period : Nat
  /-- counter that receives the iteration index, when enabled -/
  ictr : Option Nat
  deriving DecidableEq, Repr

/-- A CLD in flight (R197). -/
structure Cld where
  /-- the counter; 16 once a later write of its result beat stands over it (R182) -/
  d : Nat
  w : Nat
  /-- stamp t + 31 at whose end the result is written -/
  due : Nat
  /-- the sampled word, once sampled -/
  value : Option Word
  bundle : Nat
  id : Nat
  deriving DecidableEq, Repr

/-- A SETUP in flight (R201). -/
structure Setup where
  what : Nat
  first : Nat
  nrows : Nat
  /-- stamp t + 31 + NROWS at whose end the targets are written -/
  due : Nat
  /-- bytes read so far, by offset -/
  data : List Host.Cell
  /-- rows read so far -/
  got : Nat
  bundle : Nat
  id : Nat
  deriving DecidableEq, Repr

/-- A PUSH or POP result in flight (R210). -/
structure RingRes where
  /-- the counter; 16 once a later write of its result beat stands over it (R182) -/
  d : Nat
  /-- stamp t + 31 -/
  due : Nat
  /-- fixed in the operation's first grant beat, or at the read beat for 0x3003 -/
  value : Option Word
  bundle : Nat
  id : Nat
  deriving DecidableEq, Repr

/-- A flag write in motion (R190, R194, R207): word address, value, mode, the tile it goes to. -/
structure FlagReq where
  dev : Nat
  ltile : Nat
  /-- byte offset of the word -/
  off : Nat
  value : Nat
  /-- 0 WRITE, 1 ADD, 2 MAXU -/
  mode : Nat
  deriving DecidableEq, Repr

/-- What a slot-X or slot-M tracked operation is (R202, R217). -/
inductive OpKind where
  | fill | copy | dmaw | dmar | push | pop | pushr | csend | crecv | flagw | dgst | drain | accm | shuf
  /-- a remote read that this tile serves for another requester (R209); it holds no tracker -/
  | serve
  deriving DecidableEq, Repr

/-- A row write of an operation that waits for its bytes: row, first byte in the row, length, offset in the
operation's buffer. -/
structure PWrite where
  row : Nat
  lo : Nat
  len : Nat
  srcOff : Nat
  deriving DecidableEq, Repr

/-- A tracked operation in flight (R202, R203, R207). -/
structure Op where
  id : Nat
  kind : OpKind
  /-- store index of the issuing bundle (R417) -/
  bundle : Nat
  /-- stamp of the issue beat -/
  issue : Nat
  /-- deadline as a value of the round counter (R50, R200, R208) -/
  deadline : Nat
  /-- the tracker is still held (R203) -/
  tracked : Bool
  /-- stamp of the beat in which slot X took it (R182, R203), 0 for slot M -/
  taken : Nat := 0
  /-- the completion flag it will write, none when CF is 0 or the flag's address was rejected (R206, R207) -/
  flag : Option FlagReq
  /-- data read so far: 32-byte units of the operation's stream, by unit index -/
  buf : List (Nat × List Byte) := []
  /-- row reads not yet requested: stamp, row, first byte in the row, length, offset in the stream -/
  later : List (Nat × Nat × Nat × Nat × Nat) := []
  /-- row reads requested or to be requested, not yet sampled -/
  reads : Nat := 0
  /-- row writes that wait for their bytes -/
  held : List PWrite := []
  /-- stamps of the bank beats in which the last row of a slot of a CSEND was sampled, by slot (R162) -/
  seen : List (Nat × Nat) := []
  /-- row writes requested or granted and not yet in their banks -/
  writes : Nat := 0
  /-- some slot of the operation arrived poisoned (R207) -/
  poisoned : Bool := false
  /-- some row was cut off or discarded: it never completes (R208) -/
  cut : Bool := false
  /-- remote acknowledgements or replies still to come -/
  awaiting : Nat := 0
  /-- far end of a remote operation: device, logical tile, first row (or ring) -/
  dst : Nat × Nat × Nat := (0, 0, 0)
  /-- slots sent, or taken from a circuit -/
  slots : Nat := 0
  /-- slots in all -/
  nslots : Nat := 0
  /-- rows, or entries of a push or pop -/
  n : Nat := 0
  /-- digest point, ring number, circuit entry -/
  arg : Nat := 0
  /-- port of a circuit, poison propagation, first row of a push or pop, stage of a SHUF -/
  arg2 : Nat := 0
  /-- poison every slot (PP, R212) -/
  pp : Bool := false
  /-- the first grant beat has come (R427), or the bundle has issued (R183) -/
  started : Bool := false
  /-- its bundle was removed before it issued: it leaves at the end of the beat (R183) -/
  gone : Bool := false
  /-- a row raised 0x3001 (R151) -/
  faulted : Bool := false
  /-- first counter value of a push, entries taken by a pop, round counter at issue of a DGST, requester's operation
  of a serve -/
  aux : Nat := 0
  /-- progress of the kind: 1 once a POP has advanced HEAD (R167), the stage of a SHUF (R235) -/
  phase : Nat := 0
  deriving DecidableEq, Repr

/-- What a crossbar slot carries (R204). -/
inductive SlotBody where
  /-- rows of a remote write: first destination row, rows carried, 128 bytes -/
  | rows (row n : Nat) (data : List Byte)
  /-- a flag write -/
  | flag (f : FlagReq)
  /-- a remote read request: first row, rows -/
  | rdReq (row n : Nat)
  /-- a remote read reply: index of its first row within the operation, rows, 128 bytes -/
  | rdReply (idx n : Nat) (data : List Byte)
  /-- entries of a remote push: ring, entries in all, first byte in the push, bytes carried -/
  | push (ring n off : Nat) (data : List Byte)
  deriving DecidableEq, Repr

/-- A crossbar slot within the device (R204, R205). -/
structure XSlot where
  /-- sending logical tile -/
  src : Nat
  /-- sending operation -/
  op : Nat
  /-- port by which it came from another device, plus 1; 0 for a tile of this device (R160) -/
  port : Nat := 0
  /-- receiving logical tile; 256 * (device + 1) + logical tile on another device -/
  dst : Nat
  /-- beat at which it reaches the landing queue, by State.age (R205) -/
  arrive : Nat
  deadline : Nat
  /-- rows of the whole operation, and its completion flag (R207) -/
  total : Nat
  flag : Option FlagReq
  poisoned : Bool
  body : SlotBody
  /-- toward another device: bytes of the packet that it becomes, the earliest beats of the 128-byte slots that its bytes
  fill so far, by State.age, and the slots that have left the tile (R204, R206) -/
  size : Nat := 0
  ready : List Nat := []
  sent : Nat := 0
  /-- STATUS of the reply that it belongs to (R276) -/
  status : Nat := 0
  deriving DecidableEq, Repr

/-- What lands at this tile for an operation of another requester (R207, R208). -/
structure RxOp where
  /-- sending logical tile and operation; tiles of another device count from 256 * (device + 1) -/
  src : Nat
  op : Nat
  /-- rows of the operation -/
  total : Nat
  /-- rows that reached their banks -/
  done : Nat
  /-- some row was discarded or lost -/
  bad : Bool
  flag : Option FlagReq
  deadline : Nat
  /-- status returned with the acknowledgement (R211) -/
  status : Nat := 0
  /-- 0x3002 has been raised for it (R173); reset false -/
  denied : Bool := false
  /-- first counter value of a push that reserved -/
  first : Option Nat := none
  ring : Nat := 0
  /-- byte ranges of a push whose slots were lost before it reserved: offset, length -/
  lost : List (Nat × Nat) := []
  /-- a row raised 0x3001 (R151) -/
  faulted : Bool := false
  /-- its acknowledgement has been sent -/
  acked : Bool := false
  /-- acknowledgements that its completion owes: one per packet from another device -/
  owed : Nat := 1
  deriving DecidableEq, Repr

/-! ### Tile: memory arbitration (R157 to R163) -/

/-- Who gets the data of a granted row read, or what a row write replaces. -/
inductive RowUse where
  /-- a read of bytes of the row into an operation's stream: first byte, length, offset -/
  | toOp (op lo len off : Nat)
  | toCld (id : Nat)
  | toSetup (id off : Nat)
  /-- a read for a host DMA: function key, ring, offset -/
  | toHost (fn ring off : Nat)
  /-- a read for a BAR2 access: its number, offset in its data -/
  | toWin (id off : Nat)
  /-- a read by the SVC: the read's number, offset in its data (R160, R330) -/
  | toSvc (id off : Nat)
  /-- a read by the SVC adapter engine into an operand-buffer row -/
  | toGather (g lane row : Nat)
  /-- a read of the MGC's copy of a seat (R391, R393): the table -/
  | toCopy (tbl : Nat)
  /-- a read whose data are discarded (R183) -/
  | drop
  /-- a write of bytes at an offset of the row, for an operation (0: none) -/
  | write (lo : Nat) (data : List Byte) (op : Nat)
  /-- a write of separate bytes of the row, as (byte, value) pairs, for an operation -/
  | mask (cells : List Host.Cell) (op : Nat)
  /-- a write of an HDMA_IN row: function key, ring, first byte, bytes -/
  | fromHost (fn ring lo : Nat) (data : List Byte)
  /-- a write of a BAR2 access: its number, first byte, bytes -/
  | fromWin (id lo : Nat) (data : List Byte)
  /-- a write of the MGC's copy at the joker (R258, R391, R393): the table, the row as read at the seat -/
  | fromCopy (tbl : Nat) (data : List Byte)
  /-- a write for an operation of another requester -/
  | writeRx (lo : Nat) (data : List Byte) (src op : Nat)
  /-- row piece `idx` of a remote push's slot that has not reserved: ring, entries in all, offset in the push, the
  slot's bytes, sender (R211) -/
  | pushSlot (ring n off : Nat) (data : List Byte) (src op idx : Nat)
  /-- a row piece of a reserved push: ring, first counter value, first byte, bytes, the operation of a local PUSH -/
  | writePush (ring first lo : Nat) (data : List Byte) (op : Nat)
  /-- a flag write: word index in the row, value, mode -/
  | flag (word value mode op : Nat)
  /-- the same for another requester's FLAGW, which is acknowledged (R214) -/
  | flagRx (word value mode src op : Nat)
  deriving DecidableEq, Repr

/-- A row request waiting for its grant (R160). -/
structure RowReq where
  /-- class: 1 P, 2 D, 3 L, 4 X, 5 H -/
  cls : Nat
  /-- order within the class -/
  seq : Nat
  row : Nat
  /-- last count at which a grant still counts (R208) -/
  deadline : Nat
  /-- beat of arrival, by State.age (R163) -/
  since : Nat
  use : RowUse
  /-- it arrived through the side channel (R378) -/
  side : Bool := false
  /-- a row of a COPY within one level, which takes at most half the level's rows in a beat (R176) -/
  half : Bool := false
  deriving DecidableEq, Repr

/-- A granted row access on its way to its bank beat (R157). -/
structure Banked where
  /-- table beats until the bank beat -/
  wait : Nat
  cls : Nat
  seq : Nat
  row : Nat
  use : RowUse
  deriving DecidableEq, Repr

/-! ### Tile: matrix engines -/

/-- A weight plane (R102): format, element codes by k * 64 + n, column scales. After deck load +0 in FP8 E4M3. -/
structure Plane where
  fmt : Fmt := .e4m3
  elems : List (Nat × Nat) := []
  /-- E8M0 bytes by column, 127 (a scale of 1) where unlisted -/
  scales : List (Nat × Nat) := []
  deriving DecidableEq, Repr

/-- A LOAD or SLOAD in progress (R102). -/
structure LoadOp where
  /-- first operand-buffer byte -/
  src : Nat
  fmt : Fmt
  /-- stamp of the issue beat -/
  issue : Nat
  /-- bytes in all -/
  total : Nat
  /-- bytes sampled so far -/
  got : List Byte
  bundle : Nat
  deriving DecidableEq, Repr

/-- How a pass moves (R100, R117). -/
inductive PassMode where
  | fwd | rev | slide | held | streamed
  deriving DecidableEq, Repr

/-- A quad or side-array pass in flight (R97 to R119). -/
structure Pass where
  /-- its number: even on the quad, odd on the side array -/
  id : Nat
  bundle : Nat
  mode : PassMode
  /-- rows per stream, or lanes -/
  rows : Nat
  afmt : Fmt
  strict : Bool
  first : Bool
  /-- taps - 1 of a slide pass -/
  width : Nat
  half : Nat
  /-- stamp of the first-row beat -/
  b0 : Nat
  s : Nat
  rho : Nat
  /-- the planes are still to be exchanged at b0 (R103) -/
  swap : Bool
  /-- the plane that the pass meets, once b0 has come -/
  plane : Option Plane
  /-- accumulator target row per stream -/
  acc : List Nat
  /-- stream present, first byte, pitch in bytes, scale byte, per stream -/
  streams : List (Bool × Nat × Nat × Nat)
  /-- row-index offset (DEN) -/
  xo : Nat
  /-- masked rows, as stream * 128 + row -/
  masked : List Nat
  /-- chunk format of a STREAMED pass -/
  cfmt : Fmt
  /-- sampled operand bytes (elements, then scales) by stream * 128 + row -/
  samples : List (Nat × List Byte)
  /-- columns written so far by stream * 128 + row -/
  done : List (Nat × Nat)
  /-- foot terms of rows in progress, by (stream * 128 + row) * 64 + column -/
  terms : List (Nat × Nat)
  deriving DecidableEq, Repr

/-- A matrix engine: the quad, or the side array (R95, R102, R117). -/
structure Engine where
  /-- active plane (R102); reset +0 in FP8 E4M3 -/
  active : Plane := {}
  /-- shadow plane (R102); reset +0 in FP8 E4M3 -/
  shadow : Plane := {}
  /-- load in progress (R102); reset none -/
  load : Option LoadOp := none
  /-- completion stamp t + L of the most recent load (R104); reset 0 -/
  loadDone : Nat := 0
  /-- stamp b0 + s x 94 (or 78) of the most recent swapping pass (R104, R118); reset 0 -/
  swapClear : Nat := 0
  /-- earliest b0 that follows the last pass at the same step, and its step (R105); reset 0 -/
  lastEnd : Nat := 0
  /-- step of the last pass (R105); reset 1 -/
  lastStep : Nat := 1
  /-- passes in flight in issue order (R98); reset none -/
  passes : List Pass := []
  /-- loads and passes counted, so that each pass has its own number; reset 0 -/
  nextId : Nat := 0
  deriving DecidableEq, Repr

/-- A DRAIN in flight (R115, R116). -/
structure Drain where
  op : Nat
  srow : Nat
  view : Nat
  count : Nat
  fmt : Fmt
  /-- first destination byte -/
  dst : Nat
  /-- first byte of the scale array -/
  sc : Nat
  clear : Bool
  /-- rows finished so far -/
  row : Nat
  /-- beats that the running row has taken, of its D_r (R116) -/
  sub : Nat
  /-- bytes sampled of the running row's slots, and whether every one was valid -/
  part : List Byte
  valid : Bool
  /-- converted rows on their way to the destination port: beats left, first byte, bytes -/
  pipe : List (Nat × Nat × List Byte)
  deriving DecidableEq, Repr

/-- An ACCM in flight (R233): its bytes are read into its operation's stream, `rb` bytes per accumulator row. -/
structure Accm where
  op : Nat
  nsrc : Nat
  /-- 0 FP32, 1 INT32, 2 LACC -/
  sfmt : Nat
  acc : Nat
  count : Nat
  first : Bool
  bad : Bool
  /-- rows added so far (s * count + i) -/
  added : Nat
  /-- beats per accumulator row, dr, and those that the adders take beyond a row's reads (R233) -/
  dr : Nat
  lag : Nat
  /-- first source row, rows between blocks, and the worst bank latency of all source rows (R233) -/
  row0 : Nat
  stride : Nat
  worst : Nat
  /-- stamps at which the bytes of rows not yet added were complete, by row -/
  ready : List (Nat × Nat)
  deriving DecidableEq, Repr

/-- An open tally capture (R386). -/
structure Capture where
  /-- the pass as it ran, its plane included -/
  pass : Pass
  side : Bool
  stream : Nat
  row : Nat
  /-- the 64 foot terms of the row, in column order; in REV those of the 32 K-rows of block 0, then of block 1 -/
  terms : List Nat
  /-- the block that failed: 0, or in REV 0 or 1 -/
  blk : Nat
  /-- P1, P2, S1, S2 as integers at a common exponent -/
  p1 : Int
  p2 : Int
  s1 : Int
  s2 : Int
  expo : Int
  /-- located column, when the location is valid (R386) -/
  loc : Option Nat
  /-- a mismatch met the capture while it was open (R388) -/
  busy : Bool
  /-- verdict 1 tally, 2 array, 3 tile suspect, once given (R387) -/
  verdict : Option Nat
  /-- beat in which it was taken, by State.age -/
  since : Nat
  deriving DecidableEq, Repr

/-- A failed check that waits for beat b_last + 4 (R385). -/
structure Mismatch where
  /-- stamp b_last + 4 -/
  due : Nat
  capture : Capture
  /-- target accumulator rows, as half-slots -/
  halves : List Nat
  accRow : Nat
  deriving DecidableEq, Repr

/-! ### Tile: pips -/

/-- A line of a parameter cache (R139). -/
structure Line where
  valid : Bool := false
  tag : Nat := 0
  /-- the 16 words of the line -/
  data : List Word := []
  deriving DecidableEq, Repr

/-- An open loop of the pip sequencer (R121, R146). -/
structure LoopFrame where
  start : Nat
  stop : Nat
  left : Nat
  deriving DecidableEq, Repr

/-- What a pip access does when it is complete. -/
inductive PipUse where
  /-- LD and LDS: pip, destination register, row, word in the row -/
  | load (l : List (Nat × Nat × Nat × Nat))
  /-- LDP: the same, with the cache line filled on a miss -/
  | fill (l : List (Nat × Nat × Nat × Nat))
  /-- ST, STS, STP -/
  | store
  deriving DecidableEq, Repr

/-- A pip memory instruction in flight (R136). -/
structure PipAcc where
  /-- rows not yet granted, level by level (operand buffer, near, far) -/
  wait : List (List Nat)
  /-- granted rows on their way: stamp of the bank beat, row -/
  bank : List (Nat × Nat)
  /-- stamp of the latest bank beat so far -/
  seen : Nat := 0
  /-- rows sampled: row, its 64 bytes -/
  got : List (Nat × List Byte)
  /-- row writes: row, (byte, value) pairs -/
  stores : List (Nat × List Host.Cell)
  use : PipUse
  /-- stamp of the issue beat -/
  issue : Nat
  deriving DecidableEq, Repr

/-- A pip result on its way (R133): register `pip * 32 + r`, or the P of a pip as 2048 + pip; the stamp from which it
is ready; its value (P: 0 or 1). -/
structure PipPend where
  key : Nat
  due : Nat
  value : Word
  deriving DecidableEq, Repr

/-- A pip dispatch (R124). -/
structure Dispatch where
  mask : Nat
  /-- stamp of the issue beat -/
  issue : Nat
  bundle : Nat
  /-- stamp of the last instruction's issue -/
  last : Nat
  deriving DecidableEq, Repr

/-- The pips of a tile and their sequencer (R121). -/
structure Pips where
  /-- g1 to g31 by pip * 32 + register (R121); reset 0 -/
  regs : List (Nat × Word) := []
  /-- P by pip (R121); reset 0 -/
  p : List (Nat × Bool) := []
  /-- instruction stores by pip * 2048 + address (R121, R123); reset 0 -/
  istore : List (Nat × Word) := []
  /-- parameter caches by pip * 32 + index (R121, R139); reset all lines invalid -/
  cache : List (Nat × Line) := []
  /-- PC (R121); reset 0 -/
  pc : Nat := 0
  /-- loop stack, innermost first, at most 4 (R121); reset empty -/
  stack : List LoopFrame := []
  /-- dispatch in flight (R124); reset none -/
  run : Option Dispatch := none
  /-- results on their way, oldest first (R133); reset none -/
  pend : List PipPend := []
  /-- stamp of the last completion of a memory instruction (R125); reset 0 -/
  memDone : Nat := 0
  /-- stamp that follows the last HALT's issue beat (R125); reset 0 -/
  ended : Nat := 0
  /-- memory instructions in flight, oldest first (R136); reset none -/
  acc : List PipAcc := []
  deriving DecidableEq, Repr

/-- A row read or write counter of power metering (R120, R128, R164, R236), in beats of the tick. -/
structure Busy where
  quad : Nat := 0
  quadStrict : Nat := 0
  pips : Nat := 0
  far : Nat := 0
  deriving DecidableEq, Repr

/-- A physical tile position (R6, Inside a tile). -/
structure Tile where
  /-- program store, 16,384 bundles (R180); reset 0 -/
  store : List (Nat × BitVec 128) := []
  /-- ranges of the tile's programs: PROG, (FIRST, COUNT) (R422); reset none -/
  ranges : List (Nat × Nat × Nat) := []
  /-- ODT, 1,024 entries (R186); reset 0 (EMPTY) -/
  odt : List (Nat × BitVec 128) := []
  /-- ctr0 to ctr15 (R184); reset 0 -/
  ctr : List (Nat × Word) := []
  /-- DEALER_STATUS.BUNDLE (R185); reset 0 -/
  bundle : Nat := 0
  /-- range of the program that this tick runs (R185 RUN); reset none -/
  run : Option (Nat × Nat) := none
  /-- store index of the next bundle -/
  next : Nat := 0
  /-- open repeats, innermost first (R199); reset none -/
  reps : List RepFrame := []
  /-- decoded bundles: store index, issue stamp, operation started (0: none), code of a fault found (0: none)
  (R183); reset none -/
  decoded : List (Nat × Nat × Nat × Nat) := []
  /-- CLDs in flight (R197); reset none -/
  clds : List Cld := []
  /-- SETUPs in flight (R201); reset none -/
  setups : List Setup := []
  /-- PUSH and POP results in flight (R210); reset none -/
  results : List RingRes := []
  /-- rings 0 to 15 (R165); reset 0 -/
  rings : List (Nat × Ring) := []
  /-- handles 0 to 31 (R171); reset 0 -/
  handles : List (Nat × DWord) := []
  /-- poisoned slots received since beat 0 of the tick (R196); reset 0 -/
  poison : Nat := 0
  /-- operations in flight (R202); trackers in use are those that hold one (R203); reset none -/
  ops : List Op := []
  /-- operations of other requesters that land here (R207); reset none -/
  rx : List RxOp := []
  /-- number of the next operation of this tile; reset 1 -/
  nextOp : Nat := 1
  /-- outbound crossbar path (R204): class 2 reply, 3 own; order within the class; earliest beat by State.age; slot; reset
  none -/
  outq : List (Nat × Nat × Nat × XSlot) := []
  /-- beat, by State.age, from which a slot may land again: at most one lands in a beat (R162); reset 0 -/
  landAt : Nat := 0
  /-- row requests waiting (R160); those of class 3 are the landing queue of 32 slots, by slot number (R162);
  reset none -/
  reqs : List RowReq := []
  /-- granted accesses on their way to their banks (R157); reset none -/
  bank : List Banked := []
  /-- the quad (R95); reset as its fields -/
  quad : Engine := {}
  /-- the side array (R117); reset as its fields -/
  side : Engine := {}
  /-- drain in flight (R116); reset none -/
  drain : Option Drain := none
  /-- ACCM in flight (R233); reset none -/
  accm : Option Accm := none
  /-- SHUF in flight (R235): operation, its entry; reset none -/
  shuf : Option (Nat × BitVec 128) := none
  /-- the pips (R121); reset as its fields -/
  pips : Pips := {}
  /-- open capture (R386); reset none -/
  capture : Option Capture := none
  /-- failed checks that wait for their beat (R385); reset none -/
  mismatches : List Mismatch := []
  /-- posts of a digest point since DECK_START, and the choice count at the last post (R381); reset none -/
  occ : List (Nat × Nat × Nat) := []
  /-- digests that wait for their post beat: the record's fields and that beat (R381, R382); reset none -/
  digests : List (List Nat) := []
  /-- acknowledgements on their way back within the device: beat by State.age, operation, status (R209); reset none -/
  acks : List (Nat × Nat × Nat) := []
  /-- claims of the tick's circuits by CRECV: port, entry, operation, slots taken (R213); reset none -/
  crecvs : List (Nat × Nat × Nat × Nat) := []
  /-- table beats in which units were busy this tick (R65); reset 0 -/
  busy : Busy := {}
  /-- counters and poisoned-slot count as the table beat of this stamp began, kept at their first change in it (R182,
  R196); reset none -/
  before : Option (Nat × List (Nat × Word) × Nat) := none
  /-- the work of the running beat is done, because TICK_END_CUTOFF has ended it (R50); reset 0 -/
  worked : Bool := false
  deriving DecidableEq, Repr

/-! ### Tables -/

/-- An accepted phase switch (R58 to R60): effective tick and target phase. -/
structure Switch where
  tick : Nat
  phase : Nat
  deriving DecidableEq, Repr

/-- A substitution in progress (R391, R393): the outgoing position, whether it is abrupt, whether the idle joker has
passed its probe, the tick at which the mirror or the recovery began, and how far the MGC's copy is. -/
structure Subst where
  seat : Nat
  pos : Nat
  abrupt : Bool
  probed : Bool
  since : Nat
  /-- rows written by the mirror since it began are up to date at the joker (R391) -/
  mirror : Bool
  /-- items of the seat that the MGC's copy has carried to the joker so far, in order: rows, then the lines of the other
  stores (R391, R393) -/
  copied : Nat := 0
  /-- bytes of rows that the mirror has written since it began: row, first byte, number (R391, R393) -/
  wrote : List (Nat × Nat × Nat) := []
  /-- the copy's next row waits for its grant or its bank beat -/
  asked : Bool := false
  deriving DecidableEq, Repr

/-- One table of 13 positions. -/
structure Table where
  /-- RCU.PHASE field (R58); reset 0 -/
  phase : Nat := 0
  /-- pending switch (R58); reset none -/
  switch : Option Switch := none
  /-- tick from which the section's cycle counts, T + 2 (R63); reset 0 -/
  cycle0 : Nat := 0
  /-- role of the program this tick runs: none, or 0 tick, 1 drain, 2 entry (R60); reset none -/
  role : Option Nat := none
  /-- program number this tick runs (R63); with no role, the tick program whose circuit slots a stopped table leaves
  poisoned (R28); reset none -/
  prog : Option Nat := none
  /-- section that the table was in when its dealers stopped (R28); reset 0 -/
  ghost : Nat := 0
  /-- the dealers stop at the next boundary (R28, R43); reset 0 -/
  stopping : Bool := false
  /-- SEATMAP.JOKER_FOR (R22); reset from flash, 0xF with an empty fault log -/
  jokerFor : Nat := 0xF
  /-- SEATMAP.JOKER_STATE (R22); reset from flash, 0 with an empty fault log -/
  jokerState : Nat := 0
  /-- SEATMAP.RETIRED bits by position (R22); reset from flash, 0 with an empty fault log -/
  retired : Nat := 0
  /-- SEATMAP.TABLE_FAILED (R22); reset from flash, 0 with an empty fault log -/
  failed : Bool := false
  /-- SEATMAP.RECOVERING (R22); reset 0 -/
  recovering : Bool := false
  /-- recovery ordered: it takes effect at the next boundary (R393); reset none -/
  subst : Option Subst := none
  /-- RCU.DERATE field (R57); reset 0 -/
  clock : Nat := 0
  /-- clock that the MGC commands from the next boundary (R56); reset none -/
  newClock : Option Nat := none
  /-- deadline faults within the last 1,024 ticks: their ticks (R52); reset none -/
  faults : List Nat := []
  /-- PWR.USE.USED (R68); reset 0 -/
  used : Nat := 0
  /-- PWR.USE.MAP (R68); reset 0 -/
  map : Nat := 0
  /-- PWR.USE.OVER (R68); reset 0 -/
  overrun : Bool := false
  /-- TLY.CHOICE (R379); reset 0 -/
  choice : Nat := 0
  /-- TLY.VSTAT.TALLYV (R389); reset 0 -/
  tallyV : Nat := 0
  /-- TLY.VSTAT.ARRAYV (R389); reset 0 -/
  arrayV : Nat := 0
  /-- TLY.VSTAT.TILEV (R389); reset 0 -/
  tileV : Nat := 0
  /-- TLY.VSTAT.UNCHECKED (R389); reset 0 -/
  unchecked : Nat := 0
  /-- the GO of a switch that leaves the phase was accepted: no new lane is admitted (R59); reset 0 -/
  closing : Bool := false
  /-- code of a deadline fault raised in the running tick (R349); reset none -/
  dfault : Option Nat := none
  deriving DecidableEq, Repr

/-! ### Links -/

/-- LNK.PORT_STATUS.STATE (R268). -/
inductive PortState where
  | off | dark | train | lock | ident | up | fault
  deriving DecidableEq, Repr

/-- Code of a port state (R268). -/
def PortState.code : PortState → Nat
  | .off => 0 | .dark => 1 | .train => 2 | .lock => 3 | .ident => 4 | .up => 5 | .fault => 6

/-- A side-channel packet (R276). -/
structure Packet where
  dst : Nat
  hops : Nat
  src : Nat
  ptype : Nat
  addr : Nat
  deadline : Nat
  tag : Nat
  status : Nat
  payload : List Byte
  deriving DecidableEq, Repr

/-- A PKT block's link word fields and bytes (R276). -/
structure PktBlock where
  seq : Nat
  vc : Nat
  sop : Bool
  eop : Bool
  bytes : List Byte
  deriving DecidableEq, Repr

/-- One virtual channel of a port (R275 to R279). -/
structure Vc where
  /-- packets waiting to be sent: input (tile or 1000 forwarded or 1001 HIF), the beat since by State.age, packet; reset none -/
  txq : List (Nat × Nat × Packet) := []
  /-- blocks of the packet now being sent, and the beat, by State.age, since which that packet waits here; reset none -/
  txb : List PktBlock := []
  txSince : Nat := 0
  /-- inputs below this number had their turn in the running round (R277); reset 0 -/
  turn : Nat := 0
  /-- blocks sent, modulo 2^16 (R278); reset 0 -/
  sent : Nat := 0
  /-- latest CREDIT received (R278); reset 0 -/
  credit : Nat := 0
  /-- blocks freed here, modulo 2^16: the CREDIT sent (R278); reset 0 -/
  freed : Nat := 0
  /-- bytes of the packet being received; reset none -/
  part : List Byte := []
  /-- blocks of the packet being received; reset 0 -/
  partBlocks : Nat := 0
  /-- packets received for this device, with the blocks they occupy (R275); reset none -/
  rxq : List (Nat × Packet) := []
  deriving DecidableEq, Repr

/-- A slot waiting in the receive hold (R273): release count, logical tile, entry, poisoned, void, payload. -/
structure Held where
  release : Nat
  ltile : Nat
  entry : Nat
  poison : Bool
  void : Bool
  data : List Byte
  deriving DecidableEq, Repr

/-- What is on its way over the loopback fibre to a port (R267). -/
inductive Wire where
  | frame (msg : List Byte)
  | sync (f : SyncFlit)
  | follow (f : FollowFlit)
  | ident (f : IdentFlit)
  deriving DecidableEq, Repr

/-- An optical port (R268 to R286). -/
structure Port where
  /-- PORT_CTRL.ENABLE (R268); reset 0 -/
  enable : Bool := false
  /-- PORT_CTRL.AUTO (R268); reset 1 -/
  auto : Bool := true
  /-- PORT_STATUS.STATE (R268); reset 0 (OFF) -/
  state : PortState := .off
  /-- PORT_STATUS.LAST (R268); reset 0 -/
  last : Nat := 0
  /-- PEER.DEV (R268); reset 0 -/
  peerDev : Nat := 0
  /-- PEER.PORT (R268); reset 0 -/
  peerPort : Nat := 0
  /-- PEER.VALID (R268); reset 0 -/
  peerValid : Bool := false
  /-- beat, by State.age, in which the state was entered (R283); reset 0 -/
  since : Nat := 0
  /-- consecutive good frames in LOCK (R283); reset 0 -/
  good : Nat := 0
  /-- consecutive frames that failed MARK or FCRC (R285); reset 0 -/
  badFrames : Nat := 0
  /-- the peer's FLAGS[1], sender in training (R263); reset 0 -/
  peerTraining : Bool := false
  /-- the peer's FLAGS[0], remote receive fault (R263); reset 0 -/
  peerFault : Bool := false
  /-- frame counter of the transmitter (R263); reset 0 -/
  frame : Nat := 0
  /-- virtual channels 0 to 2 (R275); reset as their fields -/
  vc0 : Vc := {}
  vc1 : Vc := {}
  vc2 : Vc := {}
  /-- replay buffer of 2,048 blocks (R279); reset empty -/
  replay : List PktBlock := []
  /-- blocks of the replay buffer to be sent again (R280); reset none -/
  resend : List PktBlock := []
  /-- next SEQ (R279); reset 0 -/
  seq : Nat := 0
  /-- next SEQ expected (R280); reset 0 -/
  expect : Nat := 0
  /-- replay requested from this SEQ in the next header (R280); reset none -/
  nak : Option Nat := none
  /-- blocks are discarded until the expected SEQ arrives (R280); reset 0 -/
  dropping : Bool := false
  /-- SEQ last named by a received NAK, and how often (R280); reset 0 -/
  nakSeq : Nat := 0
  nakCount : Nat := 0
  /-- beat, by State.age, in which ACK last advanced (R280); reset 0 -/
  ackAt : Nat := 0
  /-- count up to which send beats were turned into blocks (R272); reset 0 -/
  txBeat : Nat := 0
  /-- circuit slots of past send beats, not yet sent: send count, poisoned, payload, none for an idle slot (R212, R272); reset none -/
  filled : List (Nat × Bool × Option (List Byte)) := []
  /-- receive hold (R273); reset empty -/
  hold : List Held := []
  /-- beat, by State.age, from which a scheduled slot has not been released yet (R45); reset 0 -/
  relAt : Nat := 0
  /-- deck circuits suspended until a boundary (R286); reset 0 -/
  suspended : Bool := false
  /-- send circuit table (R270); reset 0 -/
  sendTbl : List (Nat × DWord) := []
  /-- receive circuit table (R270); reset 0 -/
  recvTbl : List (Nat × DWord) := []
  /-- PDELAY.DELAY (R48); reset 0 -/
  delay : Nat := 0
  /-- PDELAY.VALID (R48); reset 0 -/
  delayValid : Bool := false
  /-- departure stamp of this device's last SYNC in sixteenths (R37); reset 0 -/
  sentAt : Nat := 0
  /-- the peer's last SYNC and its arrival stamp in sixteenths (R37); reset none -/
  gotSync : Option (SyncFlit × Nat) := none
  /-- the last measured delay lay outside the window (R46); reset 0 -/
  outOfWin : Bool := false
  /-- telemetry counters of the running window (R282): CIRC, PKT, BMAX, NAKS, STALL, UNCORR, corrected symbols; reset 0 -/
  cCirc : Nat := 0
  cPkt : Nat := 0
  cBmax : Nat := 0
  cNaks : Nat := 0
  cStall : Nat := 0
  cUncorr : Nat := 0
  cCorr : Nat := 0
  /-- a VC waited for credit in this tick (R282); reset 0 -/
  stalled : Bool := false
  /-- LNK.CMAP words 0 to 3 (R282); reset 0 -/
  cmap : List Word := [0, 0, 0, 0]
  /-- light reaches the input (R285); reset 0 -/
  light : Bool := false
  /-- window of 4,096 beats in which IDENT last left, plus 1 (R275); reset 0, for none -/
  identAt : Nat := 0
  /-- LINK packets of VC 3 that wait for their block position, as the 132 bytes of their blocks (R275, R277); reset none -/
  linkq : List (List Byte) := []
  /-- what is on its way to this port from a loopback port's transmitter, oldest first (R267); reset none -/
  wire : List Wire := []
  deriving DecidableEq, Repr

/-- A laser input (R269). -/
structure Laser where
  /-- LASER.POWER (R269); reset 0 -/
  power : BitVec 12 := 0
  /-- LASER.OK (R269); reset 0 -/
  ok : Bool := false
  /-- LASER.MODULE (R269); reset 0 -/
  module_ : BitVec 16 := 0
  deriving DecidableEq, Repr

/-- LNK registers of the device (R268, R281, R282). -/
structure Lnk where
  /-- LNK.SELF.DEV (R268); reset 0 -/
  dev : Nat := 0
  /-- LNK.SELF.GROUP (R268); reset 0 -/
  group : Nat := 0
  /-- LNK.SELF.POS (R268); reset 0 -/
  pos : Nat := 0
  /-- LNK.ROUTE by device, as the host wrote it (R281); reset 0 -/
  route : List (Nat × Word) := []
  /-- the deck's route table (R281); reset 0 -/
  deckRoute : List (Nat × Word) := []
  /-- the loaded deck carries a ROUTES section; reset 0 -/
  hasRoutes : Bool := false
  /-- LNK.TWIN.WLOG (R282); reset 0 -/
  wlog : Nat := 0
  /-- LNK.TWIN.TEN (R282); reset 0 -/
  ten : Bool := false
  /-- LNK.TWIN.DEST (R282); reset 0 -/
  dest : Nat := 0
  /-- laser inputs 0 to 15 (R269); reset as their fields -/
  lasers : List (Nat × Laser) := []
  /-- telemetry packets for the local HIF: STAMP and SSEQ of their record (R305, R418), count, source device, 1,024 bytes;
  reset none -/
  tele : List (Nat × Nat × Nat × Nat × List Byte) := []
  deriving DecidableEq, Repr

/-! ### Round counter (R30 to R60) -/

/-- RCU.STATUS.STATE (R39). -/
inductive SyncState where
  | free | acquire | locked | holdover | lost
  deriving DecidableEq, Repr

/-- Code of a synchronisation state (R39). -/
def SyncState.code : SyncState → Nat
  | .free => 0 | .acquire => 1 | .locked => 2 | .holdover => 3 | .lost => 4

/-- The RCU (R30 to R60). -/
structure Rcu where
  /-- the 64-bit count (R30); reset 0 -/
  count : DWord := 0
  /-- its fraction in sixteenths (R30); reset 0 -/
  frac : BitVec 4 := 0
  /-- latch of RCU.NOW's high word (R31); reset 0 -/
  latch : Word := 0
  /-- write holding register of RCU.NOW (R31); reset 0 -/
  hold : BitVec 16 := 0
  /-- CONFIG.TICK_EXP (R35); reset 12 -/
  k : Nat := 12
  /-- CONFIG.ROLE (R35): 0 unassigned, 1 root, 2 member; reset 0 -/
  role : Nat := 0
  /-- CONFIG.PARENT_PORT (R35); reset 0 -/
  parent : Nat := 0
  /-- CONFIG.DEPTH (R35); reset 0 -/
  depth : Nat := 0
  /-- CONFIG.SYNC_LOG (R35); reset 0 -/
  syncLog : Nat := 0
  /-- ROOT.ROOT_DEV (R36); reset 0 -/
  rootDev : Nat := 0
  /-- ROOT.HOLD_LIMIT (R36); reset 0x1000 -/
  holdLimit : Nat := 0x1000
  /-- STATUS.STATE (R39); reset FREE -/
  state : SyncState := .free
  /-- STATUS.OFFSET in sixteenths, saturated at 0x7FF (R39); reset 0 -/
  offset : Int := 0
  /-- STATUS.HOLD_TICKS (R39); reset 0 -/
  holdTicks : Nat := 0
  /-- consecutive exchanges within 0.25 beat (R38); reset 0 -/
  close : Nat := 0
  /-- a member in ACQUIRE has stepped its count (R38); reset 0 -/
  stepped : Bool := false
  /-- frequency trim in ppb, -100,000 to 100,000 (R33); reset 0 -/
  trim : Int := 0
  /-- 0x5002 was reported in this sync period (R35); reset 0 -/
  depthTold : Bool := false
  /-- EQDELAY.NEAR (R47); reset 0 -/
  eqNear : Nat := 0
  /-- EQDELAY.FAR (R47); reset 0 -/
  eqFar : Nat := 0
  /-- PSW_TICK.TICK (R58); reset 0 -/
  pswTick : Nat := 0
  /-- PSW_CTRL.MASK (R58); reset 0 -/
  pswMask : Nat := 0
  /-- PSW_CTRL.PHASE (R58); reset 0 -/
  pswPhase : Nat := 0
  /-- PSW_RESULT.STATUS (R58); reset 0 -/
  pswStatus : Nat := 0
  deriving DecidableEq, Repr

/-! ### Deck (R288 to R298) -/

/-- DCK.STATE.STATE (R298). -/
inductive DeckState where
  | none_ | loading | loaded | running | stopping | starting
  deriving DecidableEq, Repr

/-- Code of a deck state (R298). -/
def DeckState.code : DeckState → Nat
  | .none_ => 0 | .loading => 1 | .loaded => 2 | .running => 3 | .stopping => 4 | .starting => 5

/-- A program of the program directory (R290). -/
structure Prog where
  prog : Nat
  table : Nat
  /-- 1 GEN, 2 SCORE, 3 LEARN -/
  section_ : Nat
  /-- 0 tick, 1 drain, 2 entry -/
  role : Nat
  clock : Nat
  slot : Nat
  cycle : Nat
  /-- tokens in sixteenths and active ports (R424) -/
  tokens : Nat
  ports : Nat
  deriving DecidableEq, Repr

/-- A table record of the SERVE section (R326). -/
structure ServeTable where
  role : Nat := 0
  fair : Nat := 0
  step : Nat := 0
  lane0 : Nat := 0
  nlane : Nat := 0
  chunkMax : Nat := 0
  draftMax : Nat := 0
  nrej : Nat := 4
  probe : Nat := 16
  sslots : Nat := 0
  rquota : Nat := 0
  slot0 : Nat := 0
  nslot : Nat := 0
  period : Nat := 0
  kittyMax : Nat := 0
  inTile : Nat := 0
  resTile : Nat := 0
  mapTile : Nat := 0
  inRow : Nat := 0
  resRow : Nat := 0
  mapRow : Nat := 0
  idone : Nat := 0
  rbeat : Nat := 0
  deriving DecidableEq, Repr

/-- A state-map entry (R343). -/
structure StateMap where
  table : Nat
  lossy : Bool
  bf16 : Bool
  rows : Nat
  grow : Nat
  deriving DecidableEq, Repr

/-- A gather entry (R336). -/
structure GatherCfg where
  ltile : Nat
  j : Nat
  lanef : Nat
  nl : Nat
  dest : Nat
  list : Nat
  ubase : Nat
  start : Nat
  done : Nat
  deriving DecidableEq, Repr

/-- An adapter record of the LEARN section (R355). -/
structure LearnRec where
  adnum : Nat
  ltable : Nat
  atable : Nat
  slotA : Nat
  slotB : Nat
  grantRow : Nat
  pubRow : Nat
  ncontrib : Nat
  rank : Nat
  deriving DecidableEq, Repr

/-- What a loaded deck tells the shared blocks (R289, R326, R354). -/
structure DeckCfg where
  devices : Nat := 0
  phases : Nat := 0
  progs : List Prog := []
  /-- the deck has a SERVE section -/
  serve : Bool := false
  vocab : Nat := 0
  /-- table records by table (R326) -/
  tables : List (Nat × ServeTable) := []
  stateMap : List StateMap := []
  gathers : List GatherCfg := []
  /-- ADBASE, SROWS, CFMT by logical tile (R336) -/
  layout : List (Nat × Nat × Nat × Nat) := []
  learn : List LearnRec := []
  deriving DecidableEq, Repr

/-- A key slot (R291, R298): state 0 empty, 1 valid, 2 revoked; the public key as x and y; PRINT. -/
structure KeySlot where
  state : Nat := 0
  x : Nat := 0
  y : Nat := 0
  print : Nat := 0
  deriving DecidableEq, Repr

/-- A start or stop that waits for its tick (R296, R297): tick, abort, the command that it completes. -/
structure Pend where
  tick : Nat
  abort : Bool
  fn : Fn
  ring : Nat
  tag : Nat
  quiet : Bool
  win : Nat
  deriving DecidableEq, Repr

/-- A DECK_LOAD in progress (R292): its command, address, length, the header's LENGTH, and the bytes that pass 1 has
read, up to the first that could not be read. -/
structure Load where
  cmd : Pend
  addr : Nat
  len : Nat
  bytes : List Byte := []
  /-- TICK above 11 (R292 step 3: 11 to 16), set once pass 1 has checked it -/
  tick11 : Fin 6 := 0
  deriving DecidableEq, Repr

/-- DCK (R288 to R298). -/
structure Dck where
  /-- STATE.STATE (R298); reset NONE -/
  state : DeckState := .none_
  /-- STATE.PASS (R298); reset 0 -/
  pass : Nat := 0
  /-- STATE.RESULT (R298); reset 0 -/
  result : Nat := 0
  /-- JOB.DEVICES (R298); reset 0 -/
  devices : Nat := 0
  /-- FAIL.ENTRY (R298); reset 0 -/
  failEntry : Nat := 0
  /-- FAILOFF.OFFSET (R298); reset 0 -/
  failOff : Nat := 0
  /-- JOBID.JOBID (R298); reset 0 -/
  jobId : Nat := 0
  /-- load in progress (R292); reset none -/
  load : Option Load := none
  /-- accepted DECK_START (R296); reset none -/
  start : Option Pend := none
  /-- accepted DECK_STOP (R297): its stop tick is `tick`; reset none -/
  stop : Option Pend := none
  /-- what the loaded deck configures; reset empty -/
  cfg : DeckCfg := {}
  deriving DecidableEq, Repr

/-! ### Host interface (R299 to R315) -/

/-- A read of host memory that a follower makes through its lead (R312): what it is for, address, length, bytes still to
come, the first byte of a part that failed, the bytes by offset. -/
structure HostGet where
  key : Nat
  addr : Nat
  len : Nat
  left : Nat
  stop : Option Nat := none
  buf : List Host.Cell := []
  deriving DecidableEq, Repr

/-- A command in progress on a ring (R304). -/
structure CmdRun where
  op : Nat
  win : Nat
  flags : Nat
  tag : Nat
  /-- status so far -/
  status : Nat
  /-- what it waits for: rows of HDMA, descriptors of SERVE, the commands of a FENCE -/
  left : Nat
  /-- host address of HDMA_OUT data, and its bytes collected -/
  addr : Nat
  len : Nat
  buf : List Host.Cell
  /-- HDMA: device offset, global address bits [30:0] -/
  dev : Nat
  /-- fetch order number, for FENCE -/
  order : Nat
  /-- reads that it makes through the lead (R312) -/
  gets : List HostGet := []
  deriving DecidableEq, Repr

/-- A command ring (R302). -/
structure CmdRing where
  /-- BASE.ADDR (R302); reset 0 -/
  base : DWord := 0
  /-- CFG.SIZE_LOG (R302); reset 6 -/
  sizeLog : Nat := 6
  /-- CFG.ENABLE (R302); reset 0 -/
  enable : Bool := false
  /-- TAIL (R302); reset 0 -/
  tail : Word := 0
  /-- HEAD (R302); reset 0 -/
  head : Word := 0
  /-- the command in progress (R304); reset none -/
  run : Option CmdRun := none
  deriving DecidableEq, Repr

/-- A record ring (R302). -/
structure RecRing where
  /-- BASE.ADDR (R302); reset 0 -/
  base : DWord := 0
  /-- PIDX.ADDR (R302); reset 0 -/
  pidx : DWord := 0
  /-- CFG.SIZE_LOG (R302); reset 6 -/
  sizeLog : Nat := 6
  /-- CFG.VECTOR (R302); reset 0 -/
  vector : Nat := 0
  /-- CFG.HOLDOFF (R302); reset 0 -/
  holdoff : Nat := 0
  /-- CFG.INTEN (R302); reset 0 -/
  inten : Bool := false
  /-- CFG.ENABLE (R302); reset 0 -/
  enable : Bool := false
  /-- HEAD (R302); reset 0 -/
  head : Word := 0
  /-- PROD (R302); reset 0 -/
  prod : Word := 0
  /-- beat, by State.age, in which the last message was sent, when one was (R307); reset none -/
  lastMsg : Option Nat := none
  /-- a publication waits for HOLDOFF to end (R307); reset 0 -/
  heldMsg : Bool := false
  deriving DecidableEq, Repr

/-- A PCIe function's rings (R302). Command ring 4 is the place where a command that a lead
forwarded for the function runs (R312). -/
structure FnState where
  crs : List (Nat × CmdRing) := []
  rrs : List (Nat × RecRing) := []
  deriving DecidableEq, Repr

/-- A follower access that waits for its reply (R313). -/
structure FolReq where
  id : Nat
  win : Nat
  fn : Fn
  off : Nat
  len : Nat
  reg : Bool
  since : Nat
  deriving DecidableEq, Repr

/-- What an access of a requester to this device asks for (R250 to R252). -/
inductive HostWhat where
  /-- a BAR2 write: physical position, byte offset, bytes -/
  | write (p off : Nat) (data : List Byte)
  /-- a BAR2 read: physical position, byte offset, length -/
  | read (p off n : Nat)
  /-- a BAR0 write that the HIF holds -/
  | regWrite (off v : Nat)
  /-- a BAR0 read, of 64 bits when `wide` (R31) -/
  | regRead (off : Nat) (wide : Bool)
  /-- a read of `n` bytes that decodes to nothing and answers zeros (R27, R301) -/
  | zeros (n : Nat)
  /-- an access that a lead forwards to the follower of a window (R313) -/
  | far (win : Nat) (a : FolAccess)
  deriving DecidableEq, Repr

/-- An access that has not finished (R250 to R252). -/
structure HostAcc where
  id : Nat
  rq : Requester
  what : HostWhat
  /-- address that the completion of a read carries -/
  addr : Nat
  /-- on a follower: the lead's device and the REQID of its packet (R312) -/
  reply : Option (Nat × Nat)
  /-- its rows have been requested -/
  started : Bool := false
  /-- rows still to come -/
  left : Nat := 0
  /-- bytes read so far -/
  buf : List Host.Cell := []
  deriving DecidableEq, Repr

/-- What leaves the device at its boundary, in order (the model's own record of outputs). -/
inductive Out where
  /-- a posted write to host memory (R253, R307, R324): address, bytes -/
  | hostWrite (addr : Nat) (data : List Byte)
  /-- an MSI-X message (R307): function, vector -/
  | msix (fn : Fn) (vector : Nat)
  /-- a completion of a PCIe read: function, address, bytes -/
  | readData (fn : Fn) (addr : Nat) (data : List Byte)
  /-- a frame on a port's transmitter (R261, R262): its 10,280 message bytes, and the PAM4 levels of each wavelength -/
  | frame (port : Nat) (msg : List Byte) (line : List (List Nat))
  /-- PRBS13 on a training port's transmitter (R283): the PAM4 levels of each wavelength -/
  | training (port : Nat) (line : List (List Nat))
  /-- a SYNC flit on a port (R37) -/
  | sync (port : Nat) (f : SyncFlit)
  /-- a FOLLOW flit on a port (R37) -/
  | follow (port : Nat) (f : FollowFlit)
  /-- an IDENT packet on a port (R275) -/
  | ident (port : Nat) (f : IdentFlit)
  deriving DecidableEq, Repr

/-- HIF (R299 to R315). -/
structure Hif where
  /-- functions: 0 the physical, 1 + n virtual n (R302) -/
  fns : List (Nat × FnState) := []
  /-- MSI-X table of the device's 2,048 vectors, by 4 * vector + word (R310); reset 0 -/
  msix : List (Nat × Word) := []
  /-- pending-bit array: device vectors whose message waits (R310); reset none -/
  pba : List Nat := []
  /-- power-management state of the physical function: 0 D0, 3 D3hot (R299); reset 0 -/
  pmState : Nat := 0
  /-- LEAD.DEV (R311); reset 0 -/
  leadDev : Nat := 0
  /-- LEAD.VALID (R311); reset 0 -/
  leadValid : Bool := false
  /-- FOLSEL.WIN (R311); reset 0 -/
  folWin : Nat := 0
  /-- FOLSEL.TIMEOUT (R311); reset 0 -/
  folTimeout : Bool := false
  /-- FOLLOWER DEV by window (R311); reset 0 -/
  folDev : List (Nat × Nat) := []
  /-- FOLLOWER VALID by window (R311); reset 0 -/
  folValid : List (Nat × Bool) := []
  /-- follower reads without a reply (R313); reset none -/
  folReqs : List FolReq := []
  /-- REQID of the next request (R312); reset 0 -/
  nextReq : Nat := 0
  /-- RESET.BUSY (R315); reset 0 -/
  resetBusy : Bool := false
  /-- SR-IOV enabled (R310); reset 0 -/
  sriov : Bool := false
  /-- configuration space is released (R412); reset 1, the state after the power-up sequence (log entry 13) -/
  released : Bool := true
  /-- record queues by window * 128 + source (R306); reset empty -/
  queues : List (Nat × SrcQ) := []
  /-- commands fetched, for FENCE (R304), and accesses taken, for the order of class H (R160); reset 0 -/
  fetched : Nat := 0
  /-- accesses of requesters that have not finished, in arrival order (R250 to R252); reset none -/
  accs : List HostAcc := []
  /-- host reads that a follower has sent to its lead (R312): REQID, function key, the read's key, offset in it -/
  hostReads : List (Nat × Nat × Nat × Nat) := []
  deriving DecidableEq, Repr

/-! ### Serving (R317 to R350) and learning (R364 to R370) -/

/-- State of a request (R317). -/
inductive ReqState where
  | queued | active | parking | restoring
  deriving DecidableEq, Repr

/-- A step of a request in flight (R330, R338): tick of admission, first lane, lanes, tokens placed, whether it is
generation, whether the last lane is sampled, whether its results have been read (they stay until the boundary). -/
structure StepRun where
  tick : Nat
  lane : Nat
  n : Nat
  tokens : List Nat
  pos : Nat
  gen : Bool
  sampled : Bool
  read : Bool
  deriving DecidableEq, Repr

/-- A request-table entry (R317, R320). -/
structure Request where
  id : Nat
  /-- intake order -/
  order : Nat
  /-- tick of intake; it joins the queue at the next boundary (R318) -/
  intake : Nat
  table : Nat
  isScore : Bool
  cust : Nat
  /-- adapter number, none for 0xFFFF -/
  ad : Option Nat
  dmax : Nat
  maxNew : Nat
  out : Nat
  outCap : Nat
  progress : Nat
  seed : Nat
  temp : Nat
  topk : Nat
  stops : List Nat
  state : ReqState
  /-- state slot held -/
  slot : Option Nat
  /-- prompt tokens not yet placed -/
  prompt : List Nat
  /-- position of the next token to place -/
  pos : Nat
  /-- last accepted token, when generation-ready -/
  ready : Option Nat
  /-- drafts proposed with it (R338) -/
  drafts : List Nat
  /-- steps in flight, oldest first -/
  steps : List StepRun
  /-- how its results end it at the next boundary: STATUS and END (R330, R331); reset none -/
  result : Option (Nat × Nat)
  /-- tokens delivered -/
  delivered : Nat
  /-- FP32 score of a SCORE whose results are in (R323) -/
  score : Nat := 0
  /-- pinned slot and version (R335) -/
  pin : Option (Nat × Nat)
  lossy : Bool
  /-- draft control (R339) -/
  dcur : Nat
  streak : Nat
  wait : Nat
  /-- drafts accepted in the previous step (R327) -/
  accept : Nat
  /-- a CANCEL has taken effect and its steps are still in flight (R341) -/
  cancelled : Bool
  /-- a PARK waits for its effect: destination, capacity, LOSSY (R342) -/
  parkTo : Option (Nat × Nat × Bool)
  /-- duplicates attached (R347) -/
  dups : Nat
  /-- segments of a parked record to be restored (R345): map index, codec, coded bytes -/
  restore : List (Nat × Nat × List Byte)
  /-- it came from a RESUME and waits for a state slot (R345) -/
  resume : Bool
  deriving DecidableEq, Repr

/-- A customer (R350, R332). -/
structure Cust where
  /-- WEIGHT (R350); reset 0 -/
  weight : Nat := 0
  /-- TABLE (R350); reset 0 -/
  table : Nat := 0
  /-- BUDGET (R350); reset 0 -/
  budget : Nat := 0
  /-- BALANCE, signed (R350); reset 0 -/
  balance : Int := 0
  /-- USED (R350); reset 0 -/
  used : Nat := 0
  /-- virtual time VT (R332); reset 0 -/
  vt : Nat := 0
  /-- had a candidate at the previous boundary (R332); reset 0 -/
  hadCand : Bool := false
  /-- register writes that take effect at the next boundary (R350): weight, table, budget; reset none -/
  newWeight : Option Nat := none
  newTable : Option Nat := none
  newBudget : Option Nat := none
  deriving DecidableEq, Repr

/-- Serving state of a table (R331 to R339). -/
structure SvcTable where
  /-- KITTY (R350); reset 0 -/
  kitty : Nat := 0
  /-- FULLREJ (R350); reset 0 -/
  fullRej : Nat := 0
  /-- ACCEPTED (R350); reset 0 -/
  accepted : Nat := 0
  /-- VLAST: VT of the customer charged last (R332); reset 0 -/
  vlast : Nat := 0
  /-- tick at which the budget period was applied last, when it was; reset none -/
  refilled : Option Nat := none
  deriving DecidableEq, Repr

/-- An adapter directory entry (R350). -/
structure AdDir where
  /-- ADDIR.SLOT (R350); reset 0 -/
  slot : Nat := 0
  /-- ADDIR.VALID (R350); reset 0 -/
  valid : Bool := false
  /-- version (R334); reset 0 -/
  version : Nat := 0
  deriving DecidableEq, Repr

/-- An adapter slot (R350). -/
structure AdSlot where
  /-- ADSLOT.PINS (R350); reset 0 -/
  pins : Nat := 0
  /-- ADSLOT.STATE: 0 free, 1 current, 2 retiring, 3 granted (R350); reset 0 -/
  state : Nat := 0
  /-- adapter number and version whose rows the slot holds (R345) -/
  ad : Nat := 0
  version : Nat := 0
  deriving DecidableEq, Repr

/-- A learning record's state (R370). -/
structure Lrn where
  /-- LRN.SLOT (R370); reset 0 -/
  slot : Nat := 0
  /-- LRN.GSTATE: 0 none, 1 waiting, 2 granted (R370); reset 0 -/
  gstate : Nat := 0
  /-- LRN.VERSION (R370); reset 0 -/
  version : Nat := 0
  /-- LRN.PUBLISHED (R370); reset 0 -/
  published : Nat := 0
  /-- LRN.STEP (R370); reset 0 -/
  step : Nat := 0
  /-- version of the standing grant (R364) -/
  grantVer : Nat := 0
  /-- 0x7003 was raised for this grant (R367) -/
  overTold : Bool := false
  /-- PUBROW has been asked for in this tick, and the row sampled (R367); reset false, none -/
  asked : Bool := false
  sample : Option (List Byte) := none
  deriving DecidableEq, Repr

/-- State of a lane in the running tick (R222, R327, R329). -/
structure Lane where
  full : Bool := false
  adapter : Bool := false
  aslot : Nat := 0
  deriving DecidableEq, Repr

/-- What the SVC reads rows for: the results of a table (R330), the lane map of a FOLLOW table (R329), the publication of an
adapter record (R367), the state slot of a request that parks (R342). -/
inductive SvcKey where
  | results (tbl : Nat)
  | lanes (tbl : Nat)
  | pub (i : Nat)
  | park (id : Nat)
  deriving DecidableEq, Repr

/-- Rows that the SVC is reading (R160, R330). -/
structure SvcRead where
  id : Nat
  key : SvcKey
  /-- rows of this device still to be sampled: position, row, offset in the data -/
  rows : List (Nat × Nat × Nat) := []
  /-- rows of other devices that have not come back: device, logical tile, row, offset in the data (R209) -/
  far : List (Nat × Nat × Nat × Nat) := []
  buf : List Host.Cell := []
  /-- a row of it raised 0x3001, 0x3002 or 0x4002 (R342) -/
  bad : Bool := false
  /-- requests whose writes to OUT fail (R349) -/
  fails : List Nat := []
  deriving DecidableEq, Repr

/-- The SVC (R317 to R350). -/
structure Svc where
  /-- request table (R317); reset empty -/
  reqs : List Request := []
  /-- entries whose request has ended and whose terminal record waits for its queue (R306, R317): table, ID; reset none -/
  ended : List (Nat × Nat) := []
  /-- number of the next intake; reset 0 -/
  nextOrder : Nat := 0
  /-- window of the most recent request IDs: ID, STATUS and DETAIL once ended (R347); reset empty -/
  window : List (Nat × Option (Nat × Nat)) := []
  /-- CANCEL, PARK and BIND taken in and not yet applied: tick, table, bytes (R331); reset none -/
  acts : List (Nat × Nat × List Byte) := []
  /-- intake sources of the running tick by table (R319); reset none -/
  sources : List (Nat × List Nat) := []
  /-- customers (R350); reset as their fields -/
  custs : List (Nat × Cust) := []
  /-- tables (R350); reset as their fields -/
  tables : List (Nat × SvcTable) := []
  /-- adapter directory (R334); reset as its fields -/
  dir : List (Nat × AdDir) := []
  /-- adapter slots (R350); reset as their fields -/
  slots : List (Nat × AdSlot) := []
  /-- learning records (R370); reset as their fields -/
  lrn : List (Nat × Lrn) := []
  /-- lanes of the running tick by lane number (R222); reset empty -/
  lanes : List (Nat × Lane) := []
  /-- lane maps sampled for the next tick (R329); reset empty -/
  nextLanes : List (Nat × Lane) := []
  /-- FOLLOW tables whose lane map was read in this tick (R329); reset none -/
  mapsRead : List Nat := []
  /-- gather entries whose copies have begun in this tick (R337); reset none -/
  gathering : List Nat := []
  /-- rows being read (R160, R330); reset none -/
  reads : List SvcRead := []
  /-- number of the next read of rows (the MODEL's own field, log entry 21); reset 0 -/
  nextRead : Nat := 0
  deriving DecidableEq, Repr

/-! ### Tally block, power block, management controller -/

/-- TLY (R379 to R396). -/
structure Tly where
  /-- CHOICE_DEV (R379); reset 0 -/
  choiceDev : Nat := 0
  /-- DRING_HEAD (R382); reset 0 -/
  head : Word := 0
  /-- DRING_TAIL (R382); reset 0 -/
  tail : Word := 0
  /-- DRING_LOST (R382); reset 0 -/
  lost : Nat := 0
  /-- 0x8010 was raised for the present run of lost records (R382); reset 0 -/
  lostTold : Bool := false
  /-- digest buffer, 131,072 bytes (R382); reset 0 -/
  buf : List Host.Cell := []
  /-- TRIM.STEP by position (R390); reset from flash, 0 with an empty calibration record -/
  trim : List (Nat × Nat) := []
  /-- TRIM.EVENTS by position (R390); reset from flash, 0 with an empty calibration record -/
  events : List (Nat × Nat) := []
  /-- ladder step of a position (R390); reset 0 -/
  ladder : List (Nat × Nat) := []
  /-- suspect events whose ladder step takes effect at the next boundary: positions (R390); reset none -/
  ordered : List Nat := []
  /-- seats of tile-suspect verdicts and failed arrays that await abrupt substitution: positions (R390, R396); reset none -/
  abrupt : List Nat := []
  /-- tick of a position's last event (R390); reset 0 -/
  lastEvent : List (Nat × Nat) := []
  /-- PROBE.POS (R394); reset 0 -/
  probePos : Nat := 0
  /-- positions whose probe runs (the first; PROBE.BUSY reads 1 while there is one) or waits (R394); reset none -/
  probeQueue : List Nat := []
  /-- PROBE_RES.STATUS (R394); reset 0 -/
  probeStatus : Nat := 0
  /-- PROBE_RES.FAILIDX (R394); reset 0xFFFF -/
  probeFail : Nat := 0xFFFF
  /-- SCRUB.FIXED (R396); reset 0 -/
  fixed : Nat := 0
  /-- SCRUB.PASSES (R396); reset 0 -/
  passes : Nat := 0
  /-- latches of the registers' triples that differ from the value written (R395); reset none -/
  upsets : List LatchUpset := []
  /-- bits of the arrays that differ from what their parity and CRC were taken of (R395): array 0 to 3, position or port,
  word, bit; reset none -/
  flips : List (Nat × Nat × Nat × Nat) := []
  deriving DecidableEq, Repr

/-- PWR (R67, R68). -/
structure Pwr where
  /-- PORTS.ACTIVE (R68); reset 0 -/
  active : Nat := 0
  /-- ticks of the running second, and those that raised 0xA002 (R408); reset 0 -/
  ticks : Nat := 0
  overruns : Nat := 0
  deriving DecidableEq, Repr

/-- A mailbox (R400). -/
structure Mbox where
  /-- MBOX_CMD.OP (R400); reset 0 -/
  op : Nat := 0
  /-- MBOX_CMD.LEN (R400); reset 0 -/
  len : Nat := 0
  /-- MBOX_ARG (R400); reset 0 -/
  arg : DWord := 0
  /-- MBOX_RES.STATUS (R400); reset 0 -/
  status : Nat := 0
  /-- MBOX_RES.BUSY (R400); reset 0 -/
  busy : Bool := false
  /-- MBOX_RES.RLEN (R400); reset 0 -/
  rlen : Nat := 0
  /-- MBOX_BUF, 4,096 bytes (R400); reset 0 -/
  buf : List Host.Cell := []
  /-- OP, LEN and ARG of the command that runs, as GO found them (R400); reset 0 -/
  runOp : Nat := 0
  runLen : Nat := 0
  runArg : DWord := 0
  deriving DecidableEq, Repr

/-- One flash bank of a record: its bytes from the header on; an erased bank has none (R405). -/
abbrev Bank := List Byte
/-- A record of the flash: its two banks (R404). -/
abbrev FlashRec := Bank × Bank
/-- Records of the flash (R404): captured patterns by index, the calibration record, key slots, boot control, log pages. -/
inductive FlashPart where
  | pattern (i : Nat)
  | calib
  | key (i : Nat)
  | boot
  | page (i : Nat)
  deriving DecidableEq, Repr

/-- A sensor (R407). -/
structure Temp where
  t : BitVec 12 := 0
  alarm : Bool := false
  deriving DecidableEq, Repr

/-- The flash (R404): it survives every reset. Its contents at reset are those of manufacture: log entry 25. -/
structure Flash where
  /-- firmware images A and B by byte; reset: manufacture, not part of the device's resets -/
  imageA : List Host.Cell := []
  imageB : List Host.Cell := []
  /-- scan patterns by byte, and the CRC-32C of each 64 KiB block that they fill (R404); reset: manufacture -/
  scan : List Host.Cell := []
  scanCrc : List (Nat × Word) := []
  /-- captured patterns, 256 records (R389, R404); reset none -/
  patterns : List (Nat × FlashRec) := []
  /-- calibration record (R404, R405); reset empty -/
  calib : FlashRec := ([], [])
  /-- key slots, 8 records (R402, R404); reset: slot 0 valid, the others empty -/
  keys : List (Nat × FlashRec) :=
    (0, bankBytes 1 (keyPayload 1 0 0 0), []) :: (List.range 7).map fun i => (i + 1, bankBytes 1 (keyPayload 0 0 0 0), [])
  /-- boot control record (R404); reset: it names bank A -/
  boot : FlashRec := (bankBytes 1 [0#8], [])
  /-- fault log, 2,048 pages (R404, R406); reset empty -/
  log : List (Nat × FlashRec) := []
  deriving DecidableEq, Repr

/-- The MGC (R399 to R413). -/
structure Mgc where
  /-- STATUS.READY (R400); reset 0 -/
  ready : Bool := false
  /-- STATUS.BANK (R400); reset 0 -/
  bank : Nat := 0
  /-- STATUS.FALLBACK (R400); reset 0 -/
  fallback : Bool := false
  /-- STATUS.TSTOP (R400); reset 0 -/
  tstop : Bool := false
  /-- STATUS.FWREV (R400); reset 0 -/
  fwrev : Nat := 0
  /-- the PCIe mailbox (R400); reset as its fields -/
  pcie : Mbox := {}
  /-- the SMBus mailbox (R400); reset as its fields -/
  smb : Mbox := {}
  /-- TEMP 0 to 63 (R407); reset 0 -/
  temps : List (Nat × Temp) := []
  /-- VMON 0 to 23: millivolts, LOW, HIGH (R407); reset 0 -/
  vmon : List (Nat × (BitVec 16 × Bool × Bool)) := []
  /-- IRAIL 0 to 8 (R407); reset 0 -/
  irail : List (Nat × BitVec 16) := []
  /-- OPTP 0 to 63: transmitted and received power (R407); reset 0 -/
  optp : List (Nat × (BitVec 12 × BitVec 12)) := []
  /-- COOLANT.INLET (R407); reset 0 -/
  inlet : BitVec 12 := 0
  /-- COOLANT.OUTLET (R407); reset 0 -/
  outlet : BitVec 12 := 0
  /-- COOLANT.FAULT (R407); reset 0 -/
  coolFault : Bool := false
  /-- PKGPWR.W1MS (R407); reset 0 -/
  w1ms : BitVec 16 := 0
  /-- PKGPWR.W1S (R407); reset 0 -/
  w1s : BitVec 16 := 0
  /-- pin THERM_N is driven low (R413); reset 0 -/
  therm : Bool := false
  /-- alarm conditions that hold ALERT_N low: codes (R408, R413); reset none -/
  alerts : List Nat := []
  /-- pins EN_SRAM to EN_PCIEH: rails enabled, by index of R411 (R412, R413); reset none -/
  rails : List Nat := []
  /-- why the device stopped, for FAILED reasons (R409); reset none -/
  stopCode : Option Nat := none
  /-- beat, by State.age, in which the stop began (R409); reset 0 -/
  stopAt : Nat := 0
  /-- the device is unusable until POR_N is cycled (R412); reset 0 -/
  dead : Bool := false
  /-- the MGC restarts after FW_ACTIVATE (R401): mailbox; reset none -/
  restarting : Option Bool := none
  /-- entries of the current log page not yet in flash (R406); reset none -/
  logNew : List Rec := []
  /-- entries of the current log page in flash (R406); reset none -/
  logPage : List Rec := []
  /-- current log page index (R406); reset 0 -/
  logIdx : Nat := 0
  /-- SEQ of the newest log page (R405); reset 0 -/
  logSeq : Nat := 0
  /-- beat, by State.age, in which the log page was last written (R406); reset 0 -/
  logAt : Nat := 0
  /-- entries logged in the running second by source * 65536 + code, logged and suppressed (R406); reset none -/
  logRate : List (Nat × (Nat × Nat)) := []
  /-- writes of flash records since the MGC booted (R405, the MODEL's own field, log entry 49); reset 0 -/
  flashWrites : Nat := 0
  /-- which of them fail to verify, their retry too (R405, the MODEL's own field, log entry 49); reset none -/
  flashBad : List Nat := []
  /-- records written in the running beat, and whether in their second bank: a bank that is being written when the power
  goes is not valid (R405, R406); reset none -/
  flashOpen : List (FlashPart × Bool) := []
  /-- the flash (R404) -/
  flash : Flash := {}
  deriving DecidableEq, Repr

/-! ### The device -/

/-- The state of one FV2. -/
structure State where
  /-- commands waiting, first in first out (the block's queue); reset empty -/
  pending : List Instr := []
  /-- free values drawn so far (the MODEL's own field, log entry 3); reset 0 -/
  freeIdx : Nat := 0
  /-- what left the device at its boundary, oldest first (the MODEL's own record); reset empty -/
  out : List Out := []
  /-- fabric beats that have passed, however the count is set or stepped (the MODEL's own field, log entry 51); reset 0 -/
  age : Nat := 0
  /-- the fused grade (R4 GRADE); reset fused, FV2-192-A14 here -/
  grade : Grade := .a14
  /-- IDENT.STEPPING (R4); reset fused, 0 here -/
  stepping : Nat := 0
  /-- the minimum security version of firmware (R403); reset fused, 0 here -/
  minVersion : Nat := 0
  /-- SRAM of all positions, by position * 2^23 + byte offset (R9, R150); reset zero -/
  mem : List Host.Cell := []
  /-- accumulator stores, by position * 2^18 + byte (R111); reset zero -/
  acc : List Host.Cell := []
  /-- invalid half-slots, by position * 2048 + half-slot: true where invalid (R111); reset every one valid -/
  accBad : List (Nat × Bool) := []
  /-- positions 0 to 207 (R6); reset as their fields -/
  tiles : List (Nat × Tile) := []
  /-- tables 0 to 15; reset as their fields -/
  tables : List (Nat × Table) := []
  /-- crossbar slots between tiles (R205); reset none -/
  xbar : List XSlot := []
  /-- ports 0 to 63 (R268); reset as their fields -/
  ports : List (Nat × Port) := []
  lnk : Lnk := {}
  rcu : Rcu := {}
  dck : Dck := {}
  hif : Hif := {}
  svc : Svc := {}
  tly : Tly := {}
  pwr : Pwr := {}
  mgc : Mgc := {}
  deriving DecidableEq, Repr

/-- The order in which the rails are enabled (R412). -/
def railOrder : List Nat := [1, 2, 0, 3, 4, 5, 6]

/-- The device right after reset: every field at the value its docstring names. Key slot 0 is valid, as a device
leaves manufacture (R402); the buyer's key is not in the spec (log entry 6). -/
def State.reset : State :=
  { mgc := { rails := railOrder } }

end Sys2Proof.Machine
end

