-- ==== Sys2Proof/Machine/Ops.lean ====
section
/-! DEFINITION. The named operations over the state: units by index, time, addresses, memory rows, accumulator
rows, records and the events that records cause. Every block of the model goes through them. -/

namespace Sys2Proof.Machine

/-- The answer of a meaning that completes. -/
abbrev Res := Host.Outcome State Fault Refusal

/-! ### Units by index -/

/-- The tile at a physical position (R6). -/
def State.tile (s : State) (p : Nat) : Tile := Map.get {} s.tiles p
/-- Replace the tile at a position. -/
def State.setTile (s : State) (p : Nat) (t : Tile) : State := { s with tiles := Map.set {} s.tiles p t }
/-- Change the tile at a position. -/
def State.modTile (s : State) (p : Nat) (f : Tile → Tile) : State := s.setTile p (f (s.tile p))
/-- A table. -/
def State.table (s : State) (t : Nat) : Table := Map.get {} s.tables t
/-- Replace a table. -/
def State.setTable (s : State) (t : Nat) (x : Table) : State := { s with tables := Map.set {} s.tables t x }
/-- Change a table. -/
def State.modTable (s : State) (t : Nat) (f : Table → Table) : State := s.setTable t (f (s.table t))
/-- Count choices of a table (R378, R379). -/
def State.addChoice (s : State) (tbl n : Nat) : State :=
  s.modTable tbl fun x => { x with choice := satTo (2 ^ 64 - 1) (x.choice + n) }
/-- A port. -/
def State.port (s : State) (n : Nat) : Port := Map.get {} s.ports n
/-- Replace a port. -/
def State.setPort (s : State) (n : Nat) (x : Port) : State := { s with ports := Map.set {} s.ports n x }
/-- Change a port. -/
def State.modPort (s : State) (n : Nat) (f : Port → Port) : State := s.setPort n (f (s.port n))
/-- Key of a PCIe function: 0 the physical function, 1 + n virtual function n (R312 FUNC). -/
def fnKey : Fn → Nat
  | .pf => 0
  | .vf n => 1 + n
/-- The function of a key. -/
def fnOf (k : Nat) : Fn := if k = 0 then .pf else .vf (k - 1)
/-- A PCIe function's state. -/
def State.fn (s : State) (f : Fn) : FnState := Map.get {} s.hif.fns (fnKey f)
/-- Change a PCIe function's state. -/
def State.modFn (s : State) (f : Fn) (g : FnState → FnState) : State :=
  { s with hif := { s.hif with fns := Map.set {} s.hif.fns (fnKey f) (g (s.fn f)) } }
/-- A command ring (R302). -/
def State.cr (s : State) (f : Fn) (i : Nat) : CmdRing := Map.get {} (s.fn f).crs i
/-- Replace a command ring. -/
def State.setCr (s : State) (f : Fn) (i : Nat) (r : CmdRing) : State :=
  s.modFn f fun x => { x with crs := Map.set {} x.crs i r }
/-- Change the unfinished access of a number (R250 to R252). -/
def State.modAcc (s : State) (id : Nat) (g : HostAcc → HostAcc) : State :=
  { s with hif := { s.hif with accs := s.hif.accs.map fun a => if a.id = id then g a else a } }
/-- A record ring (R302). -/
def State.rr (s : State) (f : Fn) (i : Nat) : RecRing := Map.get {} (s.fn f).rrs i
/-- Replace a record ring. -/
def State.setRr (s : State) (f : Fn) (i : Nat) (r : RecRing) : State :=
  s.modFn f fun x => { x with rrs := Map.set {} x.rrs i r }
/-- A ring of a tile (R165). -/
def Tile.ring (t : Tile) (r : Nat) : Ring := Map.get {} t.rings r
/-- Replace a ring of a tile. -/
def Tile.setRing (t : Tile) (r : Nat) (x : Ring) : Tile := { t with rings := Map.set {} t.rings r x }
/-- An ODT entry (R186). -/
def Tile.odtEntry (t : Tile) (i : Nat) : Nat := (Map.get 0#128 t.odt i).toNat
/-- A dealer counter (R184). -/
def Tile.counter (t : Tile) (c : Nat) : Nat := (Map.get 0#32 t.ctr c).toNat
/-- Write a dealer counter, modulo 2^32 (R184). -/
def Tile.setCounter (t : Tile) (c v : Nat) : Tile := { t with ctr := Map.set 0#32 t.ctr c (BitVec.ofNat 32 v) }
/-- Keep the counters and the poisoned-slot count as the running beat found them, before they change in it. -/
def Tile.keepBefore (t : Tile) (now : Nat) : Tile :=
  match t.before with
  | some (b, _, _) => if b = now then t else { t with before := some (now, t.ctr, t.poison) }
  | none => { t with before := some (now, t.ctr, t.poison) }
/-- A tile with the counters and the poisoned-slot count that it had at the start of the running beat (R182, R196). -/
def Tile.atStart (t : Tile) (now : Nat) : Tile :=
  match t.before with
  | some (b, c, n) => if b = now then { t with ctr := c, poison := n } else t
  | none => t
/-- A result of an earlier beat reaches its counter: the running beat finds it there (R197, R210). -/
def Tile.landCounter (t : Tile) (c v : Nat) : Tile :=
  { t.setCounter c v with
    before := t.before.map fun b => (b.1, Map.set 0#32 b.2.1 c (BitVec.ofNat 32 v), b.2.2) }
/-- A customer (R350). -/
def Svc.cust (v : Svc) (c : Nat) : Cust := Map.get {} v.custs c
/-- Replace a customer. -/
def Svc.setCust (v : Svc) (c : Nat) (x : Cust) : Svc := { v with custs := Map.set {} v.custs c x }
/-- Serving state of a table. -/
def Svc.table (v : Svc) (t : Nat) : SvcTable := Map.get {} v.tables t
/-- Replace the serving state of a table. -/
def Svc.setTable (v : Svc) (t : Nat) (x : SvcTable) : Svc := { v with tables := Map.set {} v.tables t x }
/-- A directory entry (R334). -/
def Svc.ad (v : Svc) (a : Nat) : AdDir := Map.get {} v.dir a
/-- An adapter slot (R350). -/
def Svc.slot (v : Svc) (i : Nat) : AdSlot := Map.get {} v.slots i
/-- Replace an adapter slot. -/
def Svc.setSlot (v : Svc) (i : Nat) (x : AdSlot) : Svc := { v with slots := Map.set {} v.slots i x }
/-- A learning record's state (R370). -/
def Svc.rec_ (v : Svc) (i : Nat) : Lrn := Map.get {} v.lrn i
/-- Replace a learning record's state. -/
def Svc.setRec (v : Svc) (i : Nat) (x : Lrn) : Svc := { v with lrn := Map.set {} v.lrn i x }
/-- The SERVE record of a table (R326). -/
def State.serveTable (s : State) (t : Nat) : ServeTable := Map.get {} s.dck.cfg.tables t
/-- Append to the record of outputs. -/
def State.emit (s : State) (o : Out) : State := { s with out := s.out ++ [o] }

/-! ### Time (R30, R53) -/

/-- The count as a number (R30). -/
def State.now (s : State) : Nat := s.rcu.count.toNat
/-- Beats per tick (R32). -/
def State.tickLen (s : State) : Nat := 2 ^ s.rcu.k
/-- Tick of the round counter (R30). -/
def State.tick (s : State) : Nat := (s.now / s.tickLen) % 2 ^ 48
/-- Beat of the round counter (R30). -/
def State.beat (s : State) : Nat := s.now % s.tickLen
/-- The round counter {tick[47:0], beat[15:0]} (R30). -/
def State.roundCounter (s : State) : Nat := s.tick * 2 ^ 16 + s.beat
/-- The count at which the running tick began. -/
def State.tickBase (s : State) : Nat := s.now - s.beat
/-- The table clock as a ratio of the fabric clock (R53): numerator, denominator. -/
def State.clockRatio (s : State) (tbl : Nat) : Nat × Nat :=
  match s.grade, (s.table tbl).clock with
  | _, 0 => (1, 1)
  | .a14, 1 => (9, 10)
  | .a14, _ => (4, 5)
  | .a12, _ => (8, 9)
/-- Table beats of a tick, T (R53). -/
def State.tableTick (s : State) (tbl : Nat) : Nat :=
  let (a, b) := s.clockRatio tbl
  s.tickLen * a / b
/-- The table beat in which a fabric beat lies; after the last table beat the clock holds (R53). -/
def State.tableBeat (s : State) (tbl : Nat) : Nat :=
  let (a, b) := s.clockRatio tbl
  min (s.beat * a / b) (s.tableTick tbl - 1)
/-- Does a table beat begin in this fabric beat (R53)? -/
def State.tableEdge (s : State) (tbl : Nat) : Bool :=
  let (a, b) := s.clockRatio tbl
  s.beat = 0 || (s.beat * a / b != (s.beat - 1) * a / b && s.beat * a / b < s.tableTick tbl)
/-- Stamp of a table beat: tick * 65536 + table beat. -/
def State.stamp (s : State) (tbl : Nat) : Nat := s.tick * 65536 + s.tableBeat tbl
/-- The count at which table beat `j` of the running tick begins (R53, R54). -/
def State.countOfBeat (s : State) (tbl j : Nat) : Nat :=
  let (a, b) := s.clockRatio tbl
  s.tickBase + ceilDiv (j * b) a
/-- The count of the table beat `n` beats after the running one (R53). -/
def State.countIn (s : State) (tbl n : Nat) : Nat := s.countOfBeat tbl (s.tableBeat tbl + n)
/-- The beat, by State.age, that a count from the running one on will have. -/
def State.ageAt (s : State) (count : Nat) : Nat := s.age + (count - s.now)
/-- The last table beat of the tick. -/
def State.lastBeat (s : State) (tbl : Nat) : Nat := s.tableTick tbl - 1
/-- A deck runs (R174, R296): STOPPING counts until NONE, STARTING does not. -/
def State.deckRuns (s : State) : Bool :=
  s.dck.state = .running || (s.dck.state = .stopping && s.dck.start.isNone)
/-- The registers that R31, R35, R36 and R268 guard are writable (R296 shuts them in STARTING too). -/
def State.noDeck (s : State) : Bool := s.dck.state = .none_ || s.dck.state = .loaded || s.dck.state = .loading

/-! ### Positions and addresses (R5 to R9, R150) -/

/-- Active seats per table (Grades). -/
def State.seats (s : State) : Nat := match s.grade with | .a14 => 12 | .a12 => 11
/-- Physical position of a table's seat (R6, R21). -/
def State.posOf (s : State) (tbl seat : Nat) : Nat :=
  let t := s.table tbl
  if t.jokerState = 1 && t.jokerFor = seat then tbl * 13 + 12 else tbl * 13 + seat
/-- Physical position of a logical tile (R5, R21). -/
def State.physOf (s : State) (ltile : Nat) : Nat := s.posOf (ltile / 12) (ltile % 12)
/-- What a physical position is (R23). -/
inductive PosKind where
  | seat (seat : Nat)
  | joker (seat : Nat)
  | idleJoker
  | replaced
  | dead
  deriving DecidableEq, Repr
/-- State of a physical position (R23). -/
def State.posKind (s : State) (p : Nat) : PosKind :=
  let t := s.table (p / 13)
  let x := p % 13
  if x = 12 then
    if bit t.retired 12 then .dead
    else if t.jokerState = 1 then .joker t.jokerFor
    else if t.jokerState = 0 then .idleJoker
    else .dead
  else if s.seats ≤ x then .dead
  else if bit t.retired x then
    if t.jokerState = 1 && t.jokerFor = x then .replaced else .dead
  else .seat x
/-- What a position without a seat reads as its logical tile: no tile of a device has this number (DESIGN CHOICE, log
entry 41). -/
def noLtile : Nat := 255
/-- The logical tile of a physical position (R5, R21): a joker that stands in has its seat's; an idle joker, a replaced
position and a dead one have none. -/
def State.ltileOf (s : State) (p : Nat) : Nat :=
  match s.posKind p with
  | .seat seat | .joker seat => p / 13 * 12 + seat
  | _ => noLtile
/-- A decoded global address (R7, decode_global): device, logical tile, byte offset. -/
def State.decodeGlobal (s : State) (a : Nat) : Option (Nat × Nat × Nat) :=
  let dev := bits a 31 10
  let lt := bits a 23 8
  if lt / 12 > 15 || s.seats ≤ lt % 12 || s.dck.devices ≤ dev then none
  else some (dev, lt, bits a 0 23)
/-- Rows of a tile that hold memory (R150). -/
def mappedRows : Nat := 99328
/-- Level of a row: 0 operand buffer, 1 near, 2 far (R150). -/
def rowLevel (row : Nat) : Nat := if row < 1024 then 0 else if row < 1024 + 16384 then 1 else 2
/-- Rows that a level grants per beat (R154). -/
def levelRate : Nat → Nat
  | 0 => 8
  | 1 => 4
  | _ => 2
/-- Bank latency of a row (R153, lam). -/
def rowLatency (row : Nat) : Nat :=
  if row < 1024 then 1
  else if row < 17408 then
    let b := (row - 1024) / 1024
    if b < 4 then 2 else if b < 12 then 3 else 4
  else
    let b := (row - 17408) / 2048
    if b < 8 then 6 else if b < 20 then 7 else if b < 32 then 8 else 9

/-! ### Memory (R150 to R158) -/

/-- Key of a byte of a position's memory (R9). -/
def memKey (p off : Nat) : Nat := p * 2 ^ 23 + off
/-- One byte of a tile's memory; nothing listed reads as zero (log entry 7). -/
def State.readByte (s : State) (p off : Nat) : Byte := Map.get 0#8 s.mem (memKey p off)
/-- Write bytes into a byte map from a key upward. -/
def writeCells (m : List Host.Cell) : Nat → List Byte → List Host.Cell
  | _, [] => m
  | a, b :: bs => writeCells (Map.set 0#8 m a b) (a + 1) bs
/-- Collect bytes to be written later, by address: later ones replace earlier ones, and zeros are kept. -/
def putCells (m : List Host.Cell) : Nat → List Byte → List Host.Cell
  | _, [] => m
  | a, b :: bs => putCells (Map.put m a b) (a + 1) bs
/-- Write bytes of a tile from an offset upward, without any check. -/
def State.pokeBytes (s : State) (p off : Nat) (l : List Byte) : State :=
  { s with mem := writeCells s.mem (memKey p off) l }
/-- `n` bytes of a byte map. -/
def readCells (m : List Host.Cell) (a n : Nat) : List Byte :=
  (List.range n).map fun i => Map.get 0#8 m (a + i)
/-- `n` bytes of a tile from an offset. -/
def State.readBytes (s : State) (p off n : Nat) : List Byte := readCells s.mem (memKey p off) n
/-- A whole row (R156). -/
def State.readRow (s : State) (p row : Nat) : List Byte := s.readBytes p (64 * row) 64
/-- The little-endian word of a row (R14). -/
def rowWord (row : List Byte) (w : Nat) : Nat := leAt row (4 * w) 4
/-- Where a row write also lands: the joker that mirrors a seat (R391), or receives a recovery's writes (R393). -/
def State.mirrorOf (s : State) (p : Nat) : Option Nat :=
  match (s.table (p / 13)).subst with
  | some x => if x.mirror && x.pos = p % 13 then some (p / 13 * 13 + 12) else none
  | none => none
/-- The mirror has written bytes of a row (R391): its copy need not, and may not, write them again. -/
def Subst.note (x : Subst) (row lo n : Nat) : Subst :=
  if x.wrote.contains (row, lo, n) then x else { x with wrote := x.wrote ++ [(row, lo, n)] }
/-- The mirror has written a byte of a row (R391). -/
def Subst.has (x : Subst) (row i : Nat) : Bool :=
  x.wrote.any fun w => w.1 == row && decide (w.2.1 ≤ i) && decide (i < w.2.1 + w.2.2)
/-- A row write with its bytes at `lo` (R156), with its mirror copy in the same beat (R391). -/
def State.writeRow (s : State) (p row lo : Nat) (l : List Byte) : State :=
  let s := s.pokeBytes p (64 * row + lo) l
  match s.mirrorOf p with
  | some q =>
    (s.pokeBytes q (64 * row + lo) l).modTable (p / 13) fun t => { t with subst := t.subst.map (·.note row lo l.length) }
  | none => s
/-- A change of a tile's stores or registers by a SETUP, with its mirror copy in the same beat (R391). -/
def State.modSeat (s : State) (p : Nat) (f : Tile → Tile) : State :=
  match s.mirrorOf p with
  | some q => (s.modTile p f).modTile q f
  | none => s.modTile p f

/-- Key of a byte of a position's accumulator store (R111). -/
def accKey (p a : Nat) : Nat := p * 2 ^ 18 + a
/-- Bytes of an accumulator store. -/
def State.readAcc (s : State) (p a n : Nat) : List Byte := readCells s.acc (accKey p a) n
/-- Write bytes of an accumulator store, with the mirror copy (R391). -/
def State.writeAcc (s : State) (p a : Nat) (l : List Byte) : State :=
  let s1 := { s with acc := writeCells s.acc (accKey p a) l }
  match s.mirrorOf p with
  | some q => { s1 with acc := writeCells s1.acc (accKey q a) l }
  | none => s1
/-- Is a half-slot valid (R111)? -/
def State.halfValid (s : State) (p h : Nat) : Bool := !(Map.get false s.accBad (p * 2048 + h))
/-- Set the valid bit of a half-slot, with the mirror copy (R391). -/
def State.setHalf (s : State) (p h : Nat) (valid : Bool) : State :=
  { s with accBad :=
      let m := Map.set false s.accBad (p * 2048 + h) (!valid)
      match s.mirrorOf p with
      | some q => Map.set false m (q * 2048 + h) (!valid)
      | none => m }
/-- Set the valid bits of half-slots. -/
def State.setHalves (s : State) (p : Nat) (hs : List Nat) (valid : Bool) : State :=
  hs.foldl (fun s h => s.setHalf p h valid) s
/-- Bytes of an accumulator row in a view: FP32 and INT32 256, LACC 1,024 (R111). -/
def accRowBytes (lacc : Bool) : Nat := if lacc then 1024 else 256
/-- Half-slots of an accumulator row (R111). -/
def accHalves (lacc : Bool) (row : Nat) : List Nat :=
  if lacc then (List.range 8).map (8 * row + ·) else [2 * row, 2 * row + 1]
/-- Is every half-slot of a row valid (R111)? -/
def State.accRowValid (s : State) (p : Nat) (lacc : Bool) (row : Nat) : Bool :=
  (accHalves lacc row).all (s.halfValid p)
/-- Byte address of an entry of a row (R111). -/
def accAddr (lacc : Bool) (row n : Nat) : Nat := if lacc then row * 1024 + 16 * n else row * 256 + 4 * n
/-- An accumulator entry as a number. -/
def State.accEntry (s : State) (p : Nat) (lacc : Bool) (row n : Nat) : Nat :=
  leNat (s.readAcc p (accAddr lacc row n) (if lacc then 16 else 4))
/-- Write an accumulator entry. -/
def State.setAccEntry (s : State) (p : Nat) (lacc : Bool) (row n v : Nat) : State :=
  s.writeAcc p (accAddr lacc row n) (leBytes (if lacc then 16 else 4) v)

/-! ### Records (R305, R306, R418) -/

/-- Source byte of a table (R305). -/
def srcTable (t : Nat) : Nat := t
/-- Source byte of a port (R305). -/
def srcPort (n : Nat) : Nat := 64 + n
/-- Source byte of the MGC (R305). -/
def srcMgc : Nat := 128
/-- Queue key of a source of a window. -/
def qKey (win src : Nat) : Nat := win * 256 + src
/-- A source's queue. -/
def State.queue (s : State) (key : Nat) : SrcQ := Map.get {} s.hif.queues key
/-- Replace a source's queue. -/
def State.setQueue (s : State) (key : Nat) (q : SrcQ) : State :=
  { s with hif := { s.hif with queues := Map.set {} s.hif.queues key q } }
/-- Records that a queue holds at most (R306). -/
def queueMax : Nat := 4096
/-- Next SSEQ (R418). -/
def nextSeq16 (n : Nat) : Nat := (n + 1) % 65536

/-- Replace the newest record of KIND 2, 3 or 4 of a list given newest first, counting one loss (R306, R418). -/
def countLoss : List Rec → Option (List Rec)
  | [] => none
  | r :: rs =>
    if r.kind = 4 then some ({ r with detail := r.detail + 1 } :: rs)
    else if r.kind = 2 || r.kind = 3 then
      some ({ r with kind := 4, status := 0x200A, tag := 0, detail := 2 } :: rs)
    else (countLoss rs).map (r :: ·)

/-- Count a record that could not be stored (R306): in the newest fault or notice record queued, or in the KIND 4
record that waits behind the terminal records. -/
def SrcQ.lose (q : SrcQ) (r : Rec) : SrcQ :=
  match countLoss q.recs.reverse with
  | some l => { q with recs := l.reverse }
  | none =>
    match countLoss q.waiting.reverse with
    | some l => { q with waiting := l.reverse }
    | none => { q with waiting := q.waiting ++ [{ r with kind := 4, status := 0x200A, tag := 0, detail := 1 }] }

/-- Put a raised record into its queue (R306): it takes the next SSEQ whether or not it is stored (R418). `owed` places are
kept for the completions of commands in progress, so that every completion is stored. -/
def SrcQ.raise (q : SrcQ) (owed : Nat) (r : Rec) : SrcQ :=
  let r := { r with sseq := q.sseq }
  let q := { q with sseq := nextSeq16 q.sseq }
  let room := decide (q.recs.length + owed < queueMax) && q.waiting.isEmpty
  if r.kind = 0 || room then { q with recs := q.recs ++ [r] }
  else if r.kind = 1 then { q with waiting := q.waiting ++ [r] }
  else q.lose r

/-- Move waiting records into the room of a queue (R306), but for the places `owed`; a KIND 4 record stored now takes the next
SSEQ (R418). -/
def SrcQ.settle (owed : Nat) : Nat → SrcQ → SrcQ
  | 0, q => q
  | fuel + 1, q =>
    match q.waiting with
    | [] => q
    | r :: rs =>
      if q.recs.length + owed < queueMax then
        let (r, q) := if r.kind = 4 then ({ r with sseq := q.sseq }, { q with sseq := nextSeq16 q.sseq }) else (r, q)
        SrcQ.settle owed fuel { q with recs := q.recs ++ [r], waiting := rs }
      else q

/-- Log a record (R406): every KIND 2, and every KIND 3 but progress and publication notices; at most 16 of one
code from one source in a second. -/
def Mgc.log (m : Mgc) (r : Rec) : Mgc :=
  if r.kind = 2 || (r.kind = 3 && r.status != 0x0012 && r.status != 0x0013) then
    let key := r.src * 65536 + r.status
    let (n, lost) := Map.get (0, 0) m.logRate key
    if n < 16 then
      { m with logNew := m.logNew ++ [r], logRate := Map.set (0, 0) m.logRate key (n + 1, lost) }
    else { m with logRate := Map.set (0, 0) m.logRate key (n, lost + 1) }
  else m

/-- Places where commands of a function run: its four rings, and ring 4 for those that a lead forwards (R312). -/
def runRings : List Nat := [0, 1, 2, 3, 4]
/-- Commands of a function in progress for a window. -/
def State.runs (s : State) (f : Fn) (win : Nat) : List CmdRun :=
  (runRings.filterMap fun i => (s.cr f i).run).filter (·.win == win)
/-- Completions that a queue will take of commands in progress (R306): those of the physical function go to the MGC source,
those of a virtual function to its table's. -/
def State.owed (s : State) (key : Nat) : Nat :=
  let src := key % 256
  if src = srcMgc then (s.runs .pf (key / 256)).length
  else if src < 16 then (s.runs (.vf src) (key / 256)).length
  else 0

/-- Raise a record of a source of this device (R305, R306, R406). -/
def State.raise (s : State) (src kind status tag detail : Nat) : State :=
  let r : Rec := { status, kind, src, win := 0, sseq := (s.queue (qKey 0 src)).sseq, stamp := s.roundCounter, tag, detail }
  { (s.setQueue (qKey 0 src) ((s.queue (qKey 0 src)).raise (s.owed (qKey 0 src)) r)) with mgc := s.mgc.log r }

/-- A telemetry packet for the local HIF (R308): its record is one of the MGC source (DESIGN CHOICE, log entry 48), raised
now. -/
def State.addTele (s : State) (count dev : Nat) (data : List Byte) : State :=
  let q := s.queue (qKey 0 srcMgc)
  { (s.setQueue (qKey 0 srcMgc) { q with sseq := nextSeq16 q.sseq }) with
    lnk := { s.lnk with tele := s.lnk.tele ++ [(s.roundCounter, q.sseq, count, dev, data)] } }

/-- Raise a fault record of the MGC source. -/
def State.raiseMgc (s : State) (code : Nat) (detail : Nat := 0) : State := s.raise srcMgc 2 code 0 detail
/-- Raise a notice of the MGC source. -/
def State.noticeMgc (s : State) (code : Nat) (detail : Nat := 0) : State := s.raise srcMgc 3 code 0 detail
/-- Raise a fault record of a port and keep its code as the port's last fault (R268, R285). -/
def State.raisePort (s : State) (n code : Nat) : State :=
  (s.modPort n fun x => { x with last := code }).raise (srcPort n) 2 code 0 0
/-- TAG of a fault record of a table source (R417). -/
def faultTag (ltile bundle : Nat) (ext : Bool) : Nat := ltile + bundle * 2 ^ 8 + b2n ext * 2 ^ 22
/-- Raise a fault that a bundle of a position caused (R194 raise, R417). -/
def State.raiseTile (s : State) (p bundle code : Nat) (detail : Nat := 0) : State :=
  s.raise (srcTable (p / 13)) 2 code (faultTag (s.ltileOf p) bundle false) detail
/-- Raise a fault of a position that another requester caused (R417). -/
def State.raiseExt (s : State) (p code : Nat) (detail : Nat := 0) : State :=
  s.raise (srcTable (p / 13)) 2 code (faultTag (s.ltileOf p) 0 true) detail
/-- A suspect event at a position (R390): EVENTS counts it, and its ladder step is ordered for the next boundary. -/
def State.suspect (s : State) (p : Nat) : State :=
  { s with tly := { s.tly with
      events := Map.set 0 s.tly.events p (min 255 (Map.get 0 s.tly.events p + 1)),
      lastEvent := Map.set 0 s.tly.lastEvent p s.tick,
      ordered := s.tly.ordered ++ [p] } }
/-- Raise a deadline fault (R51): the third within 1,024 ticks makes the table suspect (R52), and the tile that
raised it moves up the ladder (R390). -/
def State.raiseDeadline (s : State) (p bundle code : Nat) : State :=
  let s := s.raiseTile p bundle code
  let tb := s.table (p / 13)
  let recent := tb.faults.filter (fun t => decide (s.tick < t + 1024)) ++ [s.tick]
  let tb := { tb with dfault := some (tb.dfault.getD code) }
  if recent.length ≥ 3 then (s.setTable (p / 13) { tb with faults := [] }).suspect p
  else s.setTable (p / 13) { tb with faults := recent }

/-- Draw a free value (log entry 3). -/
def State.drawFree (s : State) : State × Word := ({ s with freeIdx := s.freeIdx + 1 }, Config.freeWord s.freeIdx)
/-- Raise a fault that the SVC caused on a table's source (R417): EXT is 1. Which logical tile the record names when no tile is
at fault is not stated: a free value (log entry 21). -/
def State.raiseSvc (s : State) (tbl code : Nat) : State :=
  let (s, w) := s.drawFree
  s.raise (srcTable tbl) 2 code (faultTag (w.toNat % 256) 0 true) 0

/-! ### Handles (R171 to R174) -/

/-- One handle grants a user's access to a row (R171, R172). -/
def handleGrants (h : Nat) (user : Nat) (write : Bool) (row : Nat) : Bool :=
  bits h 40 2 = user && bits h 0 17 ≤ row && row < bits h 0 17 + bits h 20 17 &&
    (if write then bit h 43 else bit h 42)
/-- A privileged user may access a row of a position (R172, R174): user 1 host window, 2 SVC, 3 MGC. -/
def State.mayAccess (s : State) (p user : Nat) (write : Bool) (row : Nat) : Bool :=
  let tb := s.table (p / 13)
  if !s.deckRuns then user != 2
  else if user = 3 && (tb.failed || tb.recovering) then true
  else (s.tile p).handles.any fun h => handleGrants h.2.toNat user write row

/-! ### Parity of the arrays (R395) -/

/-- Bits that differ from what was written, in a word of an array. -/
def State.flipMask (s : State) (arr unit w : Nat) : Nat :=
  (s.tly.flips.filter fun f => f.1 == arr && f.2.1 == unit && f.2.2.1 == w).foldl (fun m f => m ^^^ 2 ^ f.2.2.2) 0
/-- The parity bit of a word disagrees (R395): an odd number of its bits have changed. -/
def State.parityBad (s : State) (arr unit w : Nat) : Bool :=
  (List.range 32).foldl (fun a i => a ^^ bit (s.flipMask arr unit w) i) false
/-- DETAIL of 0x8008 (R397). -/
def scrubDetail (unit arr word : Nat) : Nat := unit % 256 + arr % 4 * 2 ^ 8 + word % 2 ^ 32 * 2 ^ 32

/-! ### Operations in flight -/

/-- Trackers in use (R185 TRK, R203). -/
def Tile.trackers (t : Tile) : Nat :=
  (t.ops.filter (·.tracked)).length
/-- Change an operation of a tile. -/
def Tile.modOp (t : Tile) (id : Nat) (f : Op → Op) : Tile :=
  { t with ops := t.ops.map fun o => if o.id = id then f o else o }
/-- An operation of a tile. -/
def Tile.op? (t : Tile) (id : Nat) : Option Op := t.ops.find? (·.id = id)
/-- Remove an operation: its tracker returns to the pool. -/
def Tile.dropOp (t : Tile) (id : Nat) : Tile := { t with ops := t.ops.filter (·.id ≠ id) }

/-- The state that a meaning reached, or the old one where it stopped. -/
def orKeep (r : Res) (s : State) : State := match r with | .next t => t | _ => s

/-- A unit index below its bound, or the fault of a unit that does not exist. -/
def within (i n : Nat) (r : Res) : Res := if i < n then r else .fault .noSuchUnit

end Sys2Proof.Machine
end

