-- ==== Sys2Proof/Machine/Arbiter.lean ====
section
/-! DEFINITION. What one beat does to a tile's memory ports: grants by class and level (R154, R160, R161), bank
beats and their order (R156 to R159), the data that reads deliver, and the operations that wait for them
(R167, R175, R207 to R211, R427). A step on an empty queue runs it; commands only add requests. -/

namespace Sys2Proof.Machine

/-! ### Requests -/

/-- Insert a request behind those of its class and order (R160). -/
def insReq (r : RowReq) : List RowReq → List RowReq
  | [] => [r]
  | x :: xs => if x.cls < r.cls || (x.cls = r.cls && x.seq ≤ r.seq) then x :: insReq r xs else r :: x :: xs

/-- Add a request to a tile. -/
def Tile.request (t : Tile) (r : RowReq) : Tile := { t with reqs := insReq r t.reqs }

/-- The issue order of class X (R160): the issue beat, and within it slot X before slot M before slot C (log entry 42). -/
def issueOrder (stamp slot : Nat) : Nat := 4 * stamp + slot
/-- Is an operation one of slot M? -/
def OpKind.ofM : OpKind → Bool
  | .drain | .accm | .shuf => true
  | _ => false
/-- The order of an operation's class X requests (R160). -/
def Op.order (o : Op) : Nat := issueOrder o.issue (b2n o.kind.ofM)

/-- The entry of an operation of another requester, opened by its first slot (R207). -/
def Tile.openRx (t : Tile) (src op total deadline : Nat) (flag : Option FlagReq) : Tile :=
  if t.rx.any fun x => x.src = src && x.op = op then t
  else { t with rx := t.rx ++ [{ src, op, total, done := 0, bad := false, flag, deadline }] }
/-- Change the entry of an operation of another requester. -/
def Tile.modRx (t : Tile) (src op : Nat) (f : RxOp → RxOp) : Tile :=
  { t with rx := t.rx.map fun x => if x.src = src && x.op = op then f x else x }

/-- A row of another requester that has no memory behind it: 0x3001 once, and the row counts as written (R207). -/
def State.rxFault (s : State) (p src op : Nat) : State :=
  let told := (s.tile p).rx.any fun x => x.src = src && x.op = op && x.faulted
  let s := s.modTile p (·.modRx src op fun x => { x with done := x.done + 1, faulted := true })
  if told then s else s.raiseExt p 0x3001

/-- A row of another requester's operation that a handle denies settles (R173); the operation raises 0x3002 once. -/
def State.rxDenied (s : State) (p src op : Nat) : State :=
  let told := (s.tile p).rx.any fun x => x.src = src && x.op = op && x.denied
  let s := s.modTile p (·.modRx src op fun x => { x with done := x.done + 1, denied := true })
  if told then s else s.raiseExt p 0x3002

/-- Does an operation read its rows from its decode beat on, before its bundle issues (R183)? -/
def OpKind.early : OpKind → Bool
  | .dmaw | .pushr | .csend => true
  | _ => false

/-- The fault code of an operation whose rows lie outside the map is raised once (R151), and not before its bundle issues
(R183). -/
def State.opFault (s : State) (p id : Nat) : State :=
  match (s.tile p).op? id with
  | some o =>
    if o.faulted then s
    else
      let s := s.modTile p (·.modOp id fun o => { o with faulted := true })
      if o.kind.early && !o.started then s
      else if o.kind = .serve then s.raiseExt p 0x3001 else s.raiseTile p o.bundle 0x3001
  | none => s

/-- 32-byte units of a row's bytes `[lo, lo+len)` put at a stream offset. -/
def putUnits (buf : List (Nat × List Byte)) (row : List Byte) (lo len off : Nat) : List (Nat × List Byte) :=
  (List.range (len / 32)).foldl
    (fun b i => Map.put b (off / 32 + i) ((row.drop (lo + 32 * i)).take 32)) buf

/-- Add a request of the MGC (R160): class H, before the other requesters' that arrive in the same beat. -/
def Tile.requestMgc (t : Tile) (row now : Nat) (use : RowUse) : Tile :=
  let first (x : RowReq) : Bool := decide (x.cls < 5) || decide (x.since < now)
  let rest := t.reqs.dropWhile first
  let seq := match rest with | x :: _ => x.seq | [] => match t.reqs.getLast? with | some x => if x.cls = 5 then x.seq else 0 | none => 0
  { t with reqs := t.reqs.takeWhile first ++ { cls := 5, seq, row, deadline := 2 ^ 80, since := now, use } :: rest }

/-- Are the units of a stream range all read? -/
def unitsReady (buf : List (Nat × List Byte)) (off len : Nat) : Bool :=
  (List.range (ceilDiv len 32)).all fun i => !(Map.get [] buf (off / 32 + i)).isEmpty

/-- The bytes of a stream range. -/
def unitBytes (buf : List (Nat × List Byte)) (off len : Nat) : List Byte :=
  (((List.range (ceilDiv len 32)).map fun i =>
    let u := Map.get [] buf (off / 32 + i)
    if u.isEmpty then rep 32 0#8 else u).flatten).take len

/-- Is the row at `off` bytes of a COPY's stream moved within one level (R176)? -/
def Op.copyHalf (o : Op) (off : Nat) : Bool :=
  o.kind = .copy && rowLevel (o.arg + off / 64) == rowLevel (o.arg2 + off / 64)

/-- Request a row write of an operation as class `cls`, grantable from `since` (R151: an unmapped row writes nothing). -/
def State.reqWriteAt (s : State) (p cls since : Nat) (o : Op) (row : Nat) (use : RowUse) : State :=
  if row < mappedRows then
    s.modTile p fun t =>
      (t.modOp o.id fun o => { o with writes := o.writes + 1 }).request
        { cls, seq := o.order, row, deadline := o.deadline, since, use, half := o.copyHalf (64 * (row - o.arg)) }
  else s.opFault p o.id

/-- Request a row write of an operation as class `cls`, from the next beat. -/
def State.reqWrite (s : State) (p cls : Nat) (o : Op) (row lo : Nat) (data : List Byte) : State :=
  s.reqWriteAt p cls (s.age + 1) o row
    (if o.kind = .push then .writePush o.arg o.aux lo data o.id else .write lo data o.id)

/-- Class and order of an operation's row reads (R160): a served read by its slot's arrival, a circuit send among the
arrivals of the running beat, every other operation as class X. -/
def Tile.readClass (t : Tile) (o : Op) : Nat × Nat :=
  match o.kind with
  | .serve => (3, o.id)
  | .csend => (3, t.nextOp)
  | _ => (4, o.order)

/-- Request a row read of an operation, grantable from `since` (R151: an unmapped row reads as zeros). -/
def State.reqReadAt (s : State) (p since : Nat) (o : Op) (row lo len off : Nat) : State :=
  if row < mappedRows then
    s.modTile p fun t =>
      let (cls, seq) := t.readClass o
      t.request { cls, seq, row, deadline := o.deadline, since,
                  use := .toOp o.id lo len off, side := o.kind = .serve && decide (256 ≤ o.dst.2.1),
                  half := o.copyHalf off }
  else
    (s.modTile p (·.modOp o.id fun o =>
      { o with reads := o.reads - 1, buf := putUnits o.buf (rep 64 0#8) 0 len off })).opFault p o.id

/-- Request a row read of an operation, from the next beat. -/
def State.reqRead (s : State) (p : Nat) (o : Op) (row lo len off : Nat) : State :=
  s.reqReadAt p (s.age + 1) o row lo len off

/-- Issue the writes of an operation whose bytes have come. -/
def State.releaseHeld (s : State) (p id : Nat) : State :=
  match (s.tile p).op? id with
  | none => s
  | some o =>
    let ready := o.held.filter fun w => unitsReady o.buf w.srcOff w.len
    let s := s.modTile p (·.modOp id fun o =>
      { o with held := o.held.filter fun w => !unitsReady o.buf w.srcOff w.len })
    ready.foldl (fun s w => s.reqWrite p 4 o w.row w.lo (unitBytes o.buf w.srcOff w.len)) s

/-! ### Rings (R165 to R168) -/

/-- SIZE of a ring (R165). -/
def Ring.size (r : Ring) : Nat := bits r.cfg.toNat 0 17
/-- Entry size in bytes (R165). -/
def Ring.esz (r : Ring) : Nat := 32 * 2 ^ bits r.cfg.toNat 18 2
/-- PROD (R165). -/
def Ring.prod (r : Ring) : Nat := bits r.cfg.toNat 20 2
/-- CONS (R165). -/
def Ring.cons (r : Ring) : Nat := bits r.cfg.toNat 22 2
/-- ENABLED (R165). -/
def Ring.enabled (r : Ring) : Bool := bit r.cfg.toNat 31
/-- Count of entries (R165). -/
def Ring.count (r : Ring) : Nat := (r.tail - r.head).toNat
/-- Entries reserved, published or not (R167). -/
def Ring.reserved (r : Ring) : Nat := (r.reserve - r.head).toNat

/-- Merge a 32-byte piece into the last one of a reversed list when it continues it in the same row. -/
def pushPiece (l : List PWrite) (w : PWrite) : List PWrite :=
  match l with
  | [] => [w]
  | x :: xs => if x.row = w.row && x.lo + x.len = w.lo then { x with len := x.len + w.len } :: xs else w :: x :: xs

/-- The row pieces that `nbytes` of entries from counter value `first`, `off` bytes in, occupy (R165). -/
def Ring.pieces (r : Ring) (first off nbytes : Nat) : List PWrite :=
  ((List.range (nbytes / 32)).foldl (fun l u =>
    let a := (bits r.base.toNat 0 17) * 64 + (first * r.esz + off + 32 * u) % (r.size * r.esz)
    pushPiece l { row := a / 64, lo := a % 64, len := 32, srcOff := off + 32 * u }) []).reverse

/-- ring_push up to its reservation (R167): the ring with its reservation, or a refusal code. `rows` is how many row
pieces must reach their banks before TAIL may advance; `due` the count by which it advances in any case (R211). -/
def Ring.reservePush (r : Ring) (n who rows due : Nat) : Except Nat Ring :=
  if !r.enabled || r.prod != who then .error 0x3003
  else if n = 0 then .ok r
  else if n > r.size - r.reserved then .error 0x3005
  else .ok { r with reserve := r.reserve + BitVec.ofNat 32 n,
                    pushes := r.pushes ++ [(r.reserve.toNat, n, rows, false, due)] }

/-- A row piece of the push at `first` has reached its bank, or was discarded (`bad`): then the push waits for its
deadline (R211). -/
def Ring.pieceDone (r : Ring) (first : Nat) (bad : Bool) : Ring :=
  { r with pushes := r.pushes.map fun x =>
      if x.1 = first then (x.1, x.2.1, x.2.2.1 - b2n (!bad), x.2.2.2.1 || bad, x.2.2.2.2) else x }

/-! ### First grants (R427) -/

/-- Fix the RET result of a PUSH or POP (R210). -/
def Tile.fixResult (t : Tile) (id v : Nat) : Tile :=
  { t with results := t.results.map fun x => if x.id = id then { x with value := some (BitVec.ofNat 32 v) } else x }

/-- Refuse a PUSH or POP: it moves nothing and writes no flag (R210). -/
def State.refuseOp (s : State) (p id code : Nat) : State :=
  match (s.tile p).op? id with
  | none => s
  | some o =>
    let s := s.modTile p fun t =>
      let t := (t.fixResult id 0).dropOp id
      { t with reqs := t.reqs.filter fun r => match r.use with | .toOp i _ _ _ => i ≠ id | _ => true }
    s.raiseTile p o.bundle code

/-- The first grant beat of a PUSH: it reserves its entries or finds the ring full (R427). -/
def State.startPush (s : State) (p : Nat) (o : Op) : State :=
  let r := (s.tile p).ring o.arg
  let ps := r.pieces r.reserve.toNat 0 (o.n * r.esz)
  match r.reservePush o.n 0 ps.length o.deadline with
  | .error c => s.refuseOp p o.id c
  | .ok r' =>
    s.modTile p fun t =>
      ((t.setRing o.arg r').fixResult o.id o.n).modOp o.id fun o =>
        { o with started := true, held := ps, aux := r.reserve.toNat }

/-- The first grant beat of a POP: how many entries it takes (R167, R427). -/
def State.startPop (s : State) (p : Nat) (o : Op) : State :=
  let r := (s.tile p).ring o.arg
  let m := min o.n r.count
  let ps := r.pieces r.head.toNat 0 (m * r.esz)
  let rest := ps.drop 1
  let nb := m * r.esz
  let dst := (List.range (ceilDiv nb 64)).map fun i =>
    ({ row := o.arg2 + i, lo := 0, len := min 64 (nb - 64 * i), srcOff := 64 * i } : PWrite)
  let s := s.modTile p fun t =>
    (t.fixResult o.id m).modOp o.id fun o =>
      { o with started := true, held := dst, reads := ps.length, aux := m }
  match (s.tile p).op? o.id with
  | none => s
  | some o => rest.foldl (fun s w => s.reqRead p o w.row w.lo w.len w.srcOff) s

/-- What the grant of a request fixes (R427): pushes and pops start, and a pop's first read is of its first entry. -/
def State.onGrant (s : State) (p : Nat) (r : RowReq) : State × RowReq :=
  match r.use with
  | .toOp id _ _ _ =>
    match (s.tile p).op? id with
    | some o =>
      if o.started then (s, r)
      else if o.kind = .push then (s.startPush p o, r)
      else if o.kind = .pop then
        let rg := (s.tile p).ring o.arg
        match rg.pieces rg.head.toNat 0 (min o.n rg.count * rg.esz) with
        | w :: _ => (s.startPop p o, { r with row := w.row, use := .toOp id w.lo w.len w.srcOff })
        | [] => (s.startPop p o, { r with use := .drop })
      else (s, r)
    | none => (s, r)
  | _ => (s, r)

/-- A granted request goes to its bank (R157). -/
def Tile.toBank (t : Tile) (r : RowReq) : Tile :=
  { t with bank := t.bank ++ [{ wait := rowLatency r.row - 1, cls := r.cls, seq := r.seq, row := r.row, use := r.use }] }

/-- A row piece of a reserved push was granted after its deadline: it is discarded (R211). -/
def Tile.latePiece (t : Tile) (ring first : Nat) : Tile :=
  { (t.setRing ring ((t.ring ring).pieceDone first true)) with
    rx := t.rx.map fun x => if x.first = some first && x.ring = ring then { x with bad := true } else x }

/-- One row piece of a reserved push: it waits for its grant, or goes to its bank when it is granted in this beat
(R211). A piece outside the map faults, and counts as written (R151). -/
def State.pushPiece (s : State) (p : Nat) (r : RowReq) (src op : Nat) (granted : Bool) : State :=
  match r.use with
  | .writePush ring first _ _ _ =>
    if mappedRows ≤ r.row then
      (s.modTile p fun t => t.setRing ring ((t.ring ring).pieceDone first false)).rxFault p src op
    else s.modTile p fun t => if granted then t.toBank r else t.request r
  | _ => s

/-- The row pieces of a slot of a push that has reserved from `first`; `got` are those granted in this beat. -/
def State.pushSlotRows (s : State) (p : Nat) (r : RowReq) (first ring off : Nat) (data : List Byte) (src op : Nat)
    (got : List Nat) : State :=
  ((((s.tile p).ring ring).pieces first off data.length).zipIdx).foldl (fun s w =>
    s.pushPiece p { r with row := w.1.row, since := s.age, use := .writePush ring first w.1.lo (slice data (w.1.srcOff - off) w.1.len) 0 }
      src op (got.contains w.2)) s

/-- The row of piece `idx` of a push slot, as the ring stands before the push has reserved (R427). -/
def Ring.pushRow (r : Ring) (off len idx : Nat) : Nat :=
  match (r.pieces r.reserve.toNat off len)[idx]? with
  | some w => min w.row (mappedRows - 1)
  | none => min (bits r.base.toNat 0 17) (mappedRows - 1)

/-- The requests of a slot of a push that has not reserved: one per row piece (R211, R427). -/
def State.askPush (s : State) (p no deadline : Nat) (side : Bool) (ring n off : Nat) (data : List Byte) (src op : Nat) : State :=
  let rg := (s.tile p).ring ring
  (List.range (max 1 (rg.pieces rg.reserve.toNat off data.length).length)).foldl (fun s i =>
    s.modTile p (·.request { cls := 3, seq := no, row := rg.pushRow off data.length i, deadline, since := s.age,
                             use := .pushSlot ring n off data src op i, side })) s

/-- Is a request a piece of an unreserved push of a sender? -/
def RowReq.isPush (r : RowReq) (src op : Nat) : Bool :=
  match r.use with
  | .pushSlot _ _ _ _ x y _ => x == src && y == op
  | _ => false

/-- Rows of the unreserved pushes as the rings stand at the start of the beat (R427). -/
def Tile.refreshPushes (t : Tile) : Tile :=
  { t with reqs := t.reqs.map fun r =>
      match r.use with
      | .pushSlot ring _ off data _ _ idx => { r with row := (t.ring ring).pushRow off data.length idx }
      | _ => r }

/-- A push ends at this slot: its rows are discarded, and a refusal has its code (R211). -/
def Tile.spoilPush (t : Tile) (seq src op code : Nat) : Tile :=
  { (t.modRx src op fun y => { y with status := if y.status = 0 then code else y.status, bad := true }) with
    reqs := t.reqs.filter fun r => !(r.isPush src op && r.seq == seq) }

/-- The first row piece of a remote push's slot is granted (R211, R427): the first slot reserves its entries, and the
pieces of the push that already wait become row writes. `got` are the pieces of this slot granted in this beat. -/
def State.grantPush (s : State) (p : Nat) (r : RowReq) (got : List Nat) : State :=
  match r.use with
  | .pushSlot ring n off data src op _ =>
    let t := s.tile p
    let rg := t.ring ring
    match t.rx.find? fun x => x.src = src && x.op = op with
    | none => s.modTile p fun t => { t with reqs := t.reqs.filter fun q => !(q.isPush src op && q.seq == r.seq) }
    | some x =>
      match x.first with
      | some first =>
        if r.deadline < s.now then
          s.modTile p fun t => (rg.pieces first off data.length).foldl (fun t _ => t.latePiece ring first) (t.spoilPush r.seq src op 0)
        else s.pushSlotRows p r first ring off data src op got
      | none =>
        if r.deadline < s.now || x.status != 0 then s.modTile p (·.spoilPush r.seq src op 0)
        else
          let first := rg.reserve.toNat
          let all := rg.pieces first 0 (n * rg.esz)
          match rg.reservePush n 1 all.length r.deadline with
          | .error c => s.modTile p (·.spoilPush r.seq src op c)
          | .ok rg' =>
            let gone := (x.lost.map fun l => rg.pieces first l.1 l.2).flatten
            let mine := t.reqs.filter (·.isPush src op)
            let s := s.modTile p fun t =>
              { (t.setRing ring (gone.foldl (fun q _ => q.pieceDone first true) rg')) with
                rx := t.rx.map fun y =>
                  if y.src = src && y.op = op then { y with first := some first, ring := ring, total := all.length } else y,
                reqs := t.reqs.filter fun q => !q.isPush src op }
            let s := s.pushSlotRows p r first ring off data src op got
            mine.foldl (fun s q =>
              match q.use with
              | .pushSlot ring _ off data src op 0 => s.pushSlotRows p q first ring off data src op []
              | _ => s) s
  | _ => s

/-! ### Grants (R154, R160, R161) -/

/-- Rows a level still grants in this beat. -/
abbrev Caps := Nat × Nat × Nat
/-- Capacity of a level. -/
def Caps.at_ (c : Caps) : Nat → Nat
  | 0 => c.1
  | 1 => c.2.1
  | _ => c.2.2
/-- Take one row of a level. -/
def Caps.take (c : Caps) : Nat → Caps
  | 0 => (c.1 - 1, c.2.1, c.2.2)
  | 1 => (c.1, c.2.1 - 1, c.2.2)
  | _ => (c.1, c.2.1, c.2.2 - 1)

/-- May a request be granted at a beat and a count? One made in this beat waits for the next (R176, R214), and one of the
tile's own engines is cut off after its deadline (R208). -/
def RowReq.eligible (r : RowReq) (age now : Nat) : Bool :=
  let own := match r.use with | .write _ _ _ => true | .mask _ _ => true | _ => false
  decide (r.since ≤ age) && ((r.cls == 3 && !own) || r.cls == 5 || decide (now ≤ r.deadline))

/-- Is an access a read? -/
def RowUse.isRead : RowUse → Bool
  | .write .. | .mask .. | .fromHost .. | .fromWin .. | .fromCopy .. | .writeRx .. | .writePush .. | .pushSlot .. | .flag .. | .flagRx .. => false
  | _ => true

/-- A COPY within one level has its half of the level in this beat (R176): `got` are the requests granted so far. -/
def RowReq.halfUsed (r : RowReq) (got : List RowReq) : Bool :=
  r.half && decide (levelRate (rowLevel r.row) / 2 ≤ (got.filter fun x =>
    x.half && x.cls == r.cls && x.seq == r.seq && rowLevel x.row == rowLevel r.row && x.use.isRead == r.use.isRead).length)

/-- A further piece of a push slot waits until the first one is granted (R427). -/
def RowReq.waitsFirst (r : RowReq) (got : List RowReq) : Bool :=
  match r.use with
  | .pushSlot _ _ _ _ _ _ idx => idx != 0 && !(got.any fun x => x.cls == r.cls && x.seq == r.seq)
  | _ => false

/-- Choose the requests granted in this beat, in class order (R160): granted, waiting. -/
def pickGrants (age now : Nat) : Caps → List RowReq → List RowReq → List RowReq × List RowReq
  | _, _, [] => ([], [])
  | c, got, r :: rs =>
    let v := rowLevel r.row
    if 0 < c.at_ v && r.eligible age now && !r.halfUsed got && !r.waitsFirst got then
      let (g, w) := pickGrants age now (c.take v) (r :: got) rs
      (r :: g, w)
    else
      let (g, w) := pickGrants age now c got rs
      (g, r :: w)

/-- Levels that a pip instruction holds in this beat (R161). -/
def Pips.holds (x : Pips) (now : Nat) : List Bool :=
  (List.range 3).map fun v => x.acc.any fun a => decide (a.issue < now) && !(nth [] a.wait v).isEmpty

/-- Grant the rows of the oldest pip instruction that has any left (R136): in each level in the order of the lowest pip
that addresses them. Each row has its own latency, so an access completes one beat after its latest bank beat
(DESIGN CHOICE, log entry 46). -/
def pipGrants (now : Nat) : List PipAcc → List PipAcc
  | [] => []
  | a :: as =>
    if decide (a.issue < now) && a.wait.any (fun l => !l.isEmpty) then
      let granted := ((List.range 3).map fun v => (nth [] a.wait v).take (levelRate v)).flatten
      let rest := (List.range 3).map fun v => (nth [] a.wait v).drop (levelRate v)
      { a with wait := rest, bank := a.bank ++ granted.map fun r => (now + rowLatency r - 1, r) } :: as
    else a :: pipGrants now as

/-- What a grant does (R157, R208, R211, R427): the row goes to its bank, or is discarded when it comes too late. `g` are
the requests granted in this beat. -/
def State.grantOne (s : State) (p : Nat) (g : List RowReq) (r : RowReq) : State :=
  let (s, r) := s.onGrant p r
  let late := decide (r.deadline < s.now)
  match r.use with
  | .pushSlot _ _ _ _ src op idx =>
    if idx = 0 then
      s.grantPush p r ((g.filter fun x => x.isPush src op && x.seq == r.seq).filterMap fun x =>
        match x.use with | .pushSlot _ _ _ _ _ _ i => some i | _ => none)
    else s
  | .writePush ring first _ _ _ =>
    if late && r.cls == 3 then s.modTile p (·.latePiece ring first) else s.modTile p (·.toBank r)
  | .writeRx _ _ src op | .flagRx _ _ _ src op =>
    if late then s.modTile p (·.modRx src op fun x => { x with bad := true }) else s.modTile p (·.toBank r)
  | .toOp id _ _ _ => if ((s.tile p).op? id).isSome then s.modTile p (·.toBank r) else s
  | _ => s.modTile p (·.toBank r)

/-- Grant rows of a tile for one beat. A row whose grant falls after its deadline is discarded (R208). -/
def State.grantBeat (s : State) (p : Nat) : State :=
  let t := (s.tile p).refreshPushes
  let now := s.stamp (p / 13)
  let holds := t.pips.holds now
  let cap (v : Nat) : Nat := if nth false holds v then 0 else levelRate v
  let (g, w) := pickGrants s.age s.now (cap 0, cap 1, cap 2) [] t.reqs
  let far := t.busy.far + b2n (g.any (fun r => rowLevel r.row = 2) || nth false holds 2)
  let s := if g.any (·.side) then s.addChoice (p / 13) 1 else s
  let s := s.setTile p { t with
    reqs := w, pips := { t.pips with acc := pipGrants now t.pips.acc }, busy := { t.busy with far := far } }
  g.foldl (fun s r => s.grantOne p g r) s

/-! ### Bank beats (R157, R158) -/

/-- A flag write's new word (R190, R194): every MODE but WRITE and ADD gives the larger value. -/
def flagWord (mode old v : Nat) : Nat :=
  if mode = 0 then v % 2 ^ 32 else if mode = 1 then (old + v) % 2 ^ 32 else max old (v % 2 ^ 32)

/-- A row of the MGC's copy is written at the joker (R391, R393), but for the bytes that the mirror has written there. -/
def State.copyLands (s : State) (p tbl row : Nat) (data : List Byte) : State :=
  match (s.table tbl).subst with
  | none => s
  | some x =>
    let s1 := (data.zipIdx.filter fun b => !x.has row b.2).foldl (fun s b => s.pokeBytes p (64 * row + b.2) [b.1]) s
    if x.copied = row then s1.modTable tbl fun t => { t with subst := some { x with copied := row + 1, asked := false } } else s1

/-- Apply one write at its bank beat. A WRITE-mode flag is an ordinary row write. -/
def State.applyWrite (s : State) (p : Nat) (b : Banked) : State :=
  match b.use with
  | .write lo data op => (s.writeRow p b.row lo data).modTile p (·.modOp op fun o => { o with writes := o.writes - 1 })
  | .fromHost k ring lo data =>
    let s := s.writeRow p b.row lo data
    s.setCr (fnOf k) ring { s.cr (fnOf k) ring with run := (s.cr (fnOf k) ring).run.map fun c => { c with left := c.left - 1 } }
  | .fromWin id lo data => (s.writeRow p b.row lo data).modAcc id fun a => { a with left := a.left - 1 }
  | .fromCopy tbl data => s.copyLands p tbl b.row data
  | .mask cells op =>
    (cells.foldl (fun s c => s.writeRow p b.row c.1 [c.2]) s).modTile p (·.modOp op fun o => { o with writes := o.writes - 1 })
  | .writeRx lo data src op =>
    (s.writeRow p b.row lo data).modTile p fun t =>
      { t with rx := t.rx.map fun x => if x.src = src && x.op = op then { x with done := x.done + 1 } else x }
  | .writePush ring first lo data op =>
    (s.writeRow p b.row lo data).modTile p fun t =>
      { ((t.modOp op fun o => { o with writes := o.writes - 1 }).setRing ring ((t.ring ring).pieceDone first false)) with
        rx := t.rx.map fun x => if x.first = some first && x.ring = ring then { x with done := x.done + 1 } else x }
  | .flag w v mode op =>
    let old := leNat (s.readBytes p (64 * b.row + 4 * w) 4)
    (s.writeRow p b.row (4 * w) (leBytes 4 (flagWord mode old v))).modTile p
      (·.modOp op fun o => { o with writes := o.writes - 1 })
  | .flagRx w v mode src op =>
    let old := leNat (s.readBytes p (64 * b.row + 4 * w) 4)
    (s.writeRow p b.row (4 * w) (leBytes 4 (flagWord mode old v))).modTile p fun t =>
      { t with rx := t.rx.map fun x => if x.src = src && x.op = op then { x with done := x.done + 1 } else x }
  | _ => s

/-- Is a write a read-modify-write of one word (R158)? -/
def RowUse.isRmw : RowUse → Bool
  | .flag _ _ m _ => m != 0
  | .flagRx _ _ m _ _ => m != 0
  | _ => false

/-- Order of writes in one bank beat (R158): class 5 first, class 1 last, and ADD and MAXU flags after all. -/
def bankOrder (l : List Banked) : List Banked :=
  let rmw (b : Banked) : Bool := b.use.isRmw
  let byClass (q : List Banked) : List Banked :=
    ([5, 4, 3, 2, 1].map fun c => q.filter fun b => b.cls = c).flatten
  byClass (l.filter fun b => !rmw b) ++ byClass (l.filter rmw)

/-- Change a read of rows of the SVC. -/
def State.modRead (s : State) (id : Nat) (f : SvcRead → SvcRead) : State :=
  { s with svc := { s.svc with reads := s.svc.reads.map fun x => if x.id = id then f x else x } }

/-- What a sampled row delivers. -/
def State.deliver (s : State) (p : Nat) (b : Banked) (row : List Byte) : State :=
  match b.use with
  | .toOp id lo len off =>
    s.modTile p (·.modOp id fun o => { o with reads := o.reads - 1, buf := putUnits o.buf row lo len off })
  | .toCld id =>
    s.modTile p fun t => { t with clds := t.clds.map fun c =>
      if c.id = id then { c with value := some (BitVec.ofNat 32 (rowWord row c.w)) } else c }
  | .toSetup id off =>
    s.modTile p fun t => { t with setups := t.setups.map fun c =>
      if c.id = id then { c with got := c.got + 1, data := writeCells c.data off row } else c }
  | .toHost k ring off =>
    let f := fnOf k
    let r := s.cr f ring
    s.setCr f ring { r with run := r.run.map fun c => { c with left := c.left - 1, buf := writeCells c.buf off row } }
  | .toWin id off => s.modAcc id fun a => { a with left := a.left - 1, buf := writeCells a.buf off row }
  | .toSvc id off => s.modRead id fun x => { x with rows := x.rows.filter (·.2.2 != off), buf := writeCells x.buf off row }
  | .toCopy tbl => s.modTile (tbl * 13 + 12) (·.requestMgc b.row s.age (.fromCopy tbl row))
  | .toGather g lane drow =>
    s.modTile p fun t => t.request
      { cls := 3, seq := b.seq, row := drow, deadline := s.now + 2 ^ 16, since := s.age, use := .writeRx 0 row (2 ^ 20 + g) lane }
  | _ => s

/-- Row writes of a pip store whose bank beat has come (R138). -/
def PipAcc.rowsDue (a : PipAcc) (now : Nat) : List (Nat × List Host.Cell) :=
  if a.use = .store then (a.bank.filter (·.1 ≤ now)).map fun x => (x.2, Map.get [] a.stores x.2) else []
/-- Write the rows of pip stores. -/
def State.pipRows (s : State) (p : Nat) (l : List (Nat × List Host.Cell)) : State :=
  l.foldl (fun s w => w.2.foldl (fun s c => s.writeRow p w.1 c.1 [c.2]) s) s

/-- Bank beat of a tile (R157): reads sample the old rows, then writes apply. Pip rows move with them, as class P. -/
def State.bankBeat (s : State) (p : Nat) : State :=
  let t := s.tile p
  let now := s.stamp (p / 13)
  let here := t.bank.filter (·.wait = 0)
  let later := (t.bank.filter (·.wait ≠ 0)).map fun b => { b with wait := b.wait - 1 }
  let reads := (here.filter (·.use.isRead)).map fun b => (b, s.readRow p b.row)
  let pipReads (a : PipAcc) : PipAcc :=
    let due := a.bank.filter (·.1 ≤ now)
    { a with bank := a.bank.filter (now < ·.1), seen := if due.isEmpty then a.seen else now,
             got := a.got ++ due.map fun x => (x.2, s.readRow p x.2) }
  let pipWrites := (t.pips.acc.map fun a => a.rowsDue now).flatten
  let writes := bankOrder (here.filter fun b => !b.use.isRead)
  let s := s.setTile p { t with bank := later, pips := { t.pips with acc := t.pips.acc.map pipReads } }
  let rmw (b : Banked) : Bool := b.use.isRmw
  let s := (writes.filter fun b => !rmw b).foldl (fun s b => s.applyWrite p b) s
  let s := s.pipRows p pipWrites
  let s := (writes.filter rmw).foldl (fun s b => s.applyWrite p b) s
  reads.foldl (fun s x => s.deliver p x.1 x.2) s

end Sys2Proof.Machine
end

