-- ==== Sys2Proof/Machine/Operands.lean ====
section
/-! DEFINITION. Operand forms: the fields of pip instructions (R129), of bundles and their slots (R179 to R181), and of
the ODT entry types (R187 to R193, R228 to R237). -/

namespace Sys2Proof.Machine

/-! ### Pip instructions (R129, R130) -/

/-- A pip instruction's fields (R129). -/
structure PipFields where
  op : Nat
  d : Nat
  a : Nat
  b : Nat
  c : Nat
  fn : Nat
  imm : Nat
  word : Nat
  deriving DecidableEq, Repr

/-- The fields of a 32-bit pip instruction (R129). -/
def pipFields (w : Nat) : PipFields :=
  { op := bits w 26 6, d := bits w 21 5, a := bits w 16 5, b := bits w 11 5, c := bits w 6 5,
    fn := bits w 0 6, imm := bits w 0 16, word := w }

/-- Signed imm16 modulo 2^32 (R129). -/
def PipFields.simm (f : PipFields) : Nat := ofSigned 32 (toSigned 16 f.imm)

/-- Is the function code listed for the opcode (R130, R131, R148)? -/
def PipFields.fnOk (f : PipFields) : Bool :=
  match f.op with
  | 0x03 => decide (f.fn ≤ 6)
  | 0x05 => decide (f.fn ≤ 4)
  | 0x06 => decide (f.fn ≤ 3)
  | 0x07 => decide (f.fn ≤ 12)
  | 0x08 => decide (f.fn ≤ 5)
  | 0x0d => decide (f.fn ≤ 0x18)
  | 0x0e => decide (f.fn ≤ 4)
  | 0x0f => decide (f.imm ≤ 8)
  | 0x10 => decide (f.fn ≤ 1)
  | 0x18 => decide (f.fn ≤ 9)
  | 0x19 => decide (f.imm ≤ 63 || 65536 - 63 ≤ f.imm)
  | 0x1a => decide (5 ≤ f.fn && f.fn ≤ 10)
  | _ => decide (f.op ≤ 0x1e)

/-- Registers of its own pip that an instruction reads (R133). The base of LDS and STS and the count of LOOPR are
read in the lead pip alone; XCH reads another pip's register. -/
def PipFields.reads (f : PipFields) : List Nat :=
  match f.op with
  | 0x02 | 0x04 => [f.a, f.b, f.c]
  | 0x03 => if f.fn ≥ 5 then [f.a] else [f.a, f.b]
  | 0x05 | 0x06 | 0x07 | 0x08 | 0x09 | 0x10 => [f.a, f.b]
  | 0x0a | 0x0c | 0x0e | 0x11 | 0x13 | 0x1a => [f.a]
  | 0x0d => if f.fn = 0x18 then [f.a, f.b] else [f.a]
  | 0x14 | 0x16 => [f.a, f.d]
  | 0x15 => [f.d]
  | 0x18 => if f.fn = 9 then [] else [f.a]
  | _ => []

/-- Registers that an instruction writes (R130, R142). -/
def PipFields.writes (f : PipFields) : List Nat :=
  match f.op with
  | 0x02 | 0x03 | 0x04 | 0x05 | 0x07 | 0x09 | 0x0a | 0x0b | 0x0c | 0x0d | 0x0e | 0x0f | 0x10 | 0x11 | 0x12 | 0x13
  | 0x19 | 0x1a => [f.d]
  | 0x18 => if f.fn = 8 then [f.d, f.c] else [f.d]
  | _ => []

/-- Is the instruction one of those that take the pip path (R133, R136)? -/
def PipFields.isMem (f : PipFields) : Bool := decide (0x11 ≤ f.op && f.op ≤ 0x16)

/-! ### Bundles and slots (R179, R195, R202, R217, R218) -/

/-- BEAT of a bundle. -/
def bundleBeat (b : Nat) : Nat := bits b 112 16
/-- Slot words of a bundle: C, X, V, M. -/
def slotC (b : Nat) : Nat := bits b 84 28
/-- Slot X. -/
def slotX (b : Nat) : Nat := bits b 56 28
/-- Slot V. -/
def slotV (b : Nat) : Nat := bits b 28 28
/-- Slot M. -/
def slotM (b : Nat) : Nat := bits b 0 28
/-- Opcode of a slot word. -/
def slotOp (w : Nat) : Nat := bits w 22 6
/-- Operand a [21:12] of slots X, V and M, and of REP. -/
def slotA (w : Nat) : Nat := bits w 12 10
/-- Operand b [11:2] of slot X. -/
def slotB (w : Nat) : Nat := bits w 2 10
/-- CF [0]. -/
def slotCF (w : Nat) : Bool := bit w 0

/-! ### ODT entries (R186 to R193) -/

/-- KIND of an entry (R186). -/
def odtKind (e : Nat) : Nat := bits e 124 4

/-- RANGE (R187). -/
structure RangeE where
  row : Nat
  nrows : Nat
  ictr : Nat
  ien : Bool
  istride : Nat
  flagx : Nat
/-- Fields of a RANGE entry (R187). -/
def rangeE (e : Nat) : RangeE :=
  { row := bits e 0 17, nrows := bits e 17 17, ictr := bits e 34 4, ien := bit e 38, istride := bits e 39 17,
    flagx := bits e 56 10 }
/-- `row_of` of a RANGE (R194). -/
def RangeE.rowOf (e : RangeE) (ctr : Nat → Nat) : Nat :=
  (e.row + (if e.ien then ctr e.ictr * e.istride else 0)) % 2 ^ 17

/-- GLOBAL (R188). -/
structure GlobalE where
  grow : Nat
  nrows : Nat
  ictr : Nat
  ien : Bool
  istride : Nat
  flagx : Nat
/-- Fields of a GLOBAL entry (R188). -/
def globalE (e : Nat) : GlobalE :=
  { grow := bits e 0 35, nrows := bits e 35 17, ictr := bits e 52 4, ien := bit e 56, istride := bits e 57 17,
    flagx := bits e 74 10 }
/-- `row_of` of a GLOBAL (R194). -/
def GlobalE.rowOf (e : GlobalE) (ctr : Nat → Nat) : Nat :=
  (e.grow + (if e.ien then ctr e.ictr * e.istride else 0)) % 2 ^ 35

/-- CIRC (R189). -/
structure CircE where
  port : Nat
  circuit : Nat
  dir : Bool
  flagx : Nat
/-- Fields of a CIRC entry (R189). -/
def circE (e : Nat) : CircE :=
  { port := bits e 0 6, circuit := bits e 6 12, dir := bit e 18, flagx := bits e 19 10 }

/-- FLAG (R190). -/
structure FlagE where
  gword : Nat
  value : Nat
  mode : Nat
  vctr : Nat
  ven : Bool
/-- Fields of a FLAG entry (R190). -/
def flagE (e : Nat) : FlagE :=
  { gword := bits e 0 39, value := bits e 39 32, mode := bits e 71 2, vctr := bits e 73 4, ven := bit e 77 }

/-- LOOP (R191). -/
structure LoopE where
  body : Nat
  count : Nat
  period : Nat
  cctr : Nat
  cen : Bool
  ictr : Nat
  ien : Bool
/-- Fields of a LOOP entry (R191). -/
def loopE (e : Nat) : LoopE :=
  { body := bits e 0 8, count := bits e 8 16, period := bits e 24 16, cctr := bits e 40 4, cen := bit e 44,
    ictr := bits e 45 4, ien := bit e 49 }

/-- RREF (R192). -/
structure RrefE where
  dev : Nat
  ltile : Nat
  ring : Nat
  flagx : Nat
/-- Fields of an RREF entry (R192). -/
def rrefE (e : Nat) : RrefE :=
  { dev := bits e 0 10, ltile := bits e 10 8, ring := bits e 18 4, flagx := bits e 22 10 }

/-- PASS (R220). -/
structure PassE where
  mode : Nat
  rows : Nat
  afmt : Nat
  strict : Bool
  swap : Bool
  first : Bool
  masksrc : Nat
  width : Nat
  half : Nat
  streamx : Nat
  maskx : Nat
  maskhi : Nat
  acc : List Nat
/-- Fields of a PASS entry (R220). -/
def passE (e : Nat) : PassE :=
  { mode := bits e 0 2, rows := bits e 2 8, afmt := bits e 10 4, strict := bit e 14, swap := bit e 15, first := bit e 16,
    masksrc := bits e 17 2, width := bits e 19 3, half := bits e 22 1, streamx := bits e 23 10, maskx := bits e 33 10,
    maskhi := bits e 43 4, acc := [bits e 47 10, bits e 57 10, bits e 67 10, bits e 77 10] }

/-- One stream of a STREAMS entry (R221): present, address, stride and scale in 16-byte units. -/
def streamE (e q : Nat) : Bool × Nat × Nat × Nat :=
  (bit e (31 * q + 30), bits e (31 * q) 12, bits e (31 * q + 12) 6, bits e (31 * q + 18) 12)

/-- Mask bits of a SEL entry with MASKSRC 1, under MASKHI (R222). -/
def selMask (e maskhi r : Nat) : Bool := if r < 124 then bit e r else bit maskhi (r - 124)
/-- LANE q of a SEL entry with MASKSRC 2 (R222). -/
def selLane (e q : Nat) : Nat := bits e (16 * q) 16

/-- SIDE (R223). -/
structure SideE where
  mode : Nat
  rows : Nat
  afmt : Nat
  strict : Bool
  swap : Bool
  first : Bool
  masksrc : Nat
  src : Nat
  stride : Nat
  acc : Nat
  maskx : Nat
  maskhi : Nat
  cfmt : Nat
/-- Fields of a SIDE entry (R223). -/
def sideE (e : Nat) : SideE :=
  { mode := bits e 0 1, rows := bits e 1 8, afmt := bits e 9 4, strict := bit e 13, swap := bit e 14, first := bit e 15,
    masksrc := bits e 16 2, src := bits e 18 12, stride := bits e 30 6, acc := bits e 36 10, maskx := bits e 46 10,
    maskhi := bits e 56 4, cfmt := bits e 60 4 }

/-- DRAIN (R224). -/
structure DrainE where
  srow : Nat
  sview : Nat
  count : Nat
  dfmt : Nat
  drow : Nat
  scrow : Nat
  clear : Bool
  flagx : Nat
  ictr : Nat
  ien : Bool
/-- Fields of a DRAIN entry (R224). -/
def drainE (e : Nat) : DrainE :=
  { srow := bits e 0 10, sview := bits e 10 2, count := bits e 12 11, dfmt := bits e 23 4, drow := bits e 27 17,
    scrow := bits e 44 17, clear := bit e 61, flagx := bits e 62 10, ictr := bits e 72 4, ien := bit e 76 }

/-- COLL (R225). -/
structure CollE where
  srow : Nat
  sstride : Nat
  nsrc : Nat
  sfmt : Nat
  acc : Nat
  count : Nat
  first : Bool
  pchk : Bool
  flagx : Nat
  ictr : Nat
  ien : Bool
/-- Fields of a COLL entry (R225). -/
def collE (e : Nat) : CollE :=
  { srow := bits e 0 17, sstride := bits e 17 17, nsrc := bits e 34 5, sfmt := bits e 39 2, acc := bits e 41 10,
    count := bits e 51 11, first := bit e 62, pchk := bit e 63, flagx := bits e 64 10, ictr := bits e 74 4,
    ien := bit e 78 }

/-- SHUF (R226). -/
structure ShufE where
  op : Nat
  esz : Nat
  nr : Nat
  nc : Nat
  srow : Nat
  drow : Nat
  spitch : Nat
  dpitch : Nat
  idx : Nat
  n : Nat
  flagx : Nat
/-- Fields of a SHUF entry (R226). -/
def shufE (e : Nat) : ShufE :=
  { op := bits e 0 2, esz := bits e 2 2, nr := bits e 4 7, nc := bits e 11 7, srow := bits e 18 17, drow := bits e 35 17,
    spitch := bits e 52 8, dpitch := bits e 60 8, idx := bits e 68 17, n := bits e 85 9, flagx := bits e 94 10 }

/-- DISP (R227). -/
structure DispE where
  entry : Nat
  mask : Nat
  arg : Nat
  actr : Nat
  aen : Bool
/-- Fields of a DISP entry (R227). -/
def dispE (e : Nat) : DispE :=
  { entry := bits e 0 11, mask := bits e 11 64, arg := bits e 75 32, actr := bits e 107 4, aen := bit e 111 }

/-- A circuit table entry (R270): FIRST, COUNT, STRIDE, LTILE, PROG. -/
structure CircuitE where
  first : Nat
  count : Nat
  stride : Nat
  ltile : Nat
  prog : Nat
/-- Fields of a circuit table entry (R270). -/
def circuitE (e : Nat) : CircuitE :=
  { first := bits e 0 16, count := bits e 16 12, stride := bits e 28 12, ltile := bits e 40 8, prog := bits e 48 16 }
/-- COP by fn (R195). -/
def copFn (fn a b : Nat) : Option Nat :=
  match fn with
  | 0 => some ((a + b) % 2 ^ 32)
  | 1 => some ((a + 2 ^ 32 - b) % 2 ^ 32)
  | 2 => some (min a b)
  | 3 => some (max a b)
  | 4 => some (a &&& b)
  | 5 => some (a ||| b)
  | 6 => some (a ^^^ b)
  | 7 => some ((a * 2 ^ (b % 32)) % 2 ^ 32)
  | 8 => some (a / 2 ^ (b % 32))
  | 9 => some (if toSigned 32 a < toSigned 32 b then a else b)
  | 10 => some (if toSigned 32 a < toSigned 32 b then b else a)
  | _ => none

/-- Beat in the tick of slot `i` of a circuit (R270). -/
def CircuitE.slotBeat (c : CircuitE) (i : Nat) : Nat := c.first + i * c.stride
/-- Which slot of a circuit lies at a beat of the tick, if one does (R270). -/
def CircuitE.slotAt (c : CircuitE) (beat : Nat) : Option Nat :=
  if beat < c.first then none
  else if c.stride = 0 then (if beat = c.first && 0 < c.count then some 0 else none)
  else
    let i := (beat - c.first) / c.stride
    if (beat - c.first) % c.stride = 0 && i < c.count then some i else none

end Sys2Proof.Machine
end

