-- ==== Sys2Proof/Machine/Transfer.lean ====
section
/-! DEFINITION. The transfer engine's traffic (R202 to R214): routes and packets, flag writes, crossbar slots leaving
and landing, acknowledgements, and the completion of operations. -/

namespace Sys2Proof.Machine

/-! ### Devices and routes (R206, R281) -/

/-- No deadline (R276). -/
def noDeadline : Nat := 2 ^ 64 - 1
/-- This device's index (R268). -/
def State.selfDev (s : State) : Nat := s.lnk.dev
/-- A tile of some device as a receiver: its logical tile on this device, else above 255. -/
def State.farKey (s : State) (dev lt : Nat) : Nat := if dev = s.selfDev then lt else 256 * (dev + 1) + lt
/-- The route word of a device, from the table in force (R281). -/
def State.routeWord (s : State) (d : Nat) : Nat :=
  (Map.get 0#32 (if s.deckRuns && s.lnk.hasRoutes then s.lnk.deckRoute else s.lnk.route) d).toNat
/-- The port toward a device, when a route exists and the port is UP (R206). -/
def State.routeUp (s : State) (d : Nat) : Option Nat :=
  let w := s.routeWord d
  let n := bits w 0 6
  if bit w 6 && (s.port n).state = .up then some n else none

/-- A virtual channel of a port (R275). -/
def Port.vc (x : Port) : Nat → Vc
  | 0 => x.vc0
  | 1 => x.vc1
  | _ => x.vc2
/-- Change a virtual channel of a port. -/
def Port.modVc (x : Port) (v : Nat) (f : Vc → Vc) : Port :=
  match v with
  | 0 => { x with vc0 := f x.vc0 }
  | 1 => { x with vc1 := f x.vc1 }
  | _ => { x with vc2 := f x.vc2 }

/-- Packet types (R276). -/
def pRwr : Nat := 0x01
def pRflag : Nat := 0x02
def pRrd : Nat := 0x03
def pRrsp : Nat := 0x04
def pRpush : Nat := 0x05
def pRack : Nat := 0x06
def pRegrd : Nat := 0x10
def pRegwr : Nat := 0x11
def pRegrsp : Nat := 0x12
def pHost : Nat := 0x20
def pTele : Nat := 0x30

/-- Input of a port that the HIF, and forwarded traffic, use (R277): tiles are 0 to 207. -/
def inForward : Nat := 1000
/-- Input of the HIF. -/
def inHif : Nat := 1001

/-- Enter a port state now. -/
def Port.enter (x : Port) (now : Nat) (st : PortState) : Port := { x with state := st, since := now, good := 0, badFrames := 0 }
/-- Drop what a port's side channel and circuits hold for sending (R285). -/
def Port.flush (x : Port) : Port :=
  { x with vc0 := {}, vc1 := {}, vc2 := {}, replay := [], resend := [], seq := 0, expect := 0, nak := none,
           dropping := false, nakSeq := 0, nakCount := 0, linkq := [], filled := [] }
/-- A port enters FAULT with a code (R280, R283, R285, R396). -/
def State.portFault (s : State) (n code : Nat) (detail : Nat := 0) : State :=
  (s.modPort n fun x => { x.flush.enter s.age .fault with last := code }).raise (srcPort n) 2 code 0 detail
/-- A read of a circuit or route word whose parity fails acts at once (R396), unless its port is in FAULT already. -/
def State.meetWord (s : State) (n w : Nat) : State :=
  if s.parityBad 3 n w && (s.port n).state != .fault then s.portFault n 0x8008 (scrubDetail n 3 w) else s
/-- A read of an entry of a port's send table, or from entry 4,096 on of its receive table (R395, R396). -/
def State.meetCircuit (s : State) (n e : Nat) : State := (s.meetWord n (2 * e)).meetWord n (2 * e + 1)
/-- A read of the deck's route word of a device (R395, R396). -/
def State.meetRoute (s : State) (d : Nat) : State :=
  if s.deckRuns && s.lnk.hasRoutes then
    ((s.tly.flips.filter fun f => f.1 == 3 && f.2.2.1 == 16384 + d).map (·.2.1)).eraseDups.foldl (fun s n => s.meetWord n (16384 + d)) s
  else s

/-- Queue a packet on a virtual channel of a port. -/
def State.queuePacket (s : State) (port vc input : Nat) (pk : Packet) : State :=
  s.modPort port fun x => x.modVc vc fun v => { v with txq := v.txq ++ [(input, s.age, pk)] }
/-- Send a packet of this device toward another (R281): without a route or with its port down nothing leaves. -/
def State.sendPacket (s : State) (vc input : Nat) (pk : Packet) : State :=
  let s := s.meetRoute pk.dst
  match s.routeUp pk.dst with
  | some n => s.queuePacket n vc input { pk with hops := 15, src := s.selfDev }
  | none => s
/-- TAG of a memory packet (R276): source logical tile and tracker. -/
def packetTag (ltile op : Nat) : Nat := ltile + op % 1024 * 2 ^ 8
/-- Global address of a byte of a tile (R7). -/
def globalAddr (dev lt off : Nat) : Nat := dev * 2 ^ 31 + lt * 2 ^ 23 + off

/-! ### Flag writes (R190, R194, R207, R214) -/

/-- The value of a flag with bit 31 when poisoned (R207). -/
def FlagReq.poison (f : FlagReq) (b : Bool) : FlagReq :=
  if b then { f with value := f.value ||| 0x80000000 } else f

/-- `flag_write` (R194) from a position: through the local arbiter, over the crossbar, or as an RFLAG packet whose third
payload word asks for an acknowledgement (log entry 23). `op` is the FLAGW that it completes, 0 for a completion flag;
`bundle` is the bundle of this tile that it comes from, none for another requester's (R417); `rank` is its place in the
issue order (R160, R204). -/
def State.sendFlag (s : State) (p : Nat) (f : FlagReq) (bundle : Option Nat) (op rank earliest deadline : Nat) : State :=
  let me := s.ltileOf p
  if f.dev = s.selfDev && f.ltile = me then
    if f.off / 64 < mappedRows then
      s.modTile p fun t => t.request
        { cls := 4, seq := rank, row := f.off / 64, deadline, since := earliest, use := .flag (f.off % 64 / 4) f.value f.mode op }
    else
      let s := s.modTile p (·.modOp op fun o => { o with writes := 0 })
      match bundle with
      | some b => s.raiseTile p b 0x3001
      | none => s.raiseExt p 0x3001
  else
    s.modTile p fun t => { t with outq := t.outq ++ [(3, rank, earliest,
      { src := me, op, dst := s.farKey f.dev f.ltile, arrive := 0, deadline, total := b2n (op != 0), flag := none,
        poisoned := false, body := .flag f })] }

/-! ### Landing (R162, R205, R209, R211) -/

/-- Source numbers of the SVC's own row writes (R330, R337) begin here; no tile of a pod has one. -/
def svcSrc : Nat := 2 ^ 20

/-- Source numbers of the SVC's row writes that a tick's end does not stop begin here. -/
def svcKeep : Nat := 2 ^ 22

/-- A request of the SVC adapter engine, which takes no place of the landing queue. -/
def RowUse.ofSvc : RowUse → Bool
  | .toGather _ _ _ | .toSvc _ _ => true
  | .writeRx _ _ src _ => decide (svcSrc ≤ src)
  | _ => false
/-- A request of the SVC for the running tick alone: an input record, or a gather (R330, R337). -/
def RowUse.ofTick : RowUse → Bool
  | .toGather _ _ _ => true
  | .writeRx _ _ src _ => decide (svcSrc ≤ src) && decide (src < svcKeep)
  | _ => false

/-- A class L request of this tile's own circuit send, which came in no slot (R160, R212). -/
def Tile.ownRead (t : Tile) (r : RowReq) : Bool :=
  match r.use with
  | .toOp id _ _ _ => t.ops.any fun o => o.id == id && o.kind == .csend
  | _ => false

/-- Slots that wait in the landing queue (R162): those with rows that wait for a grant, and read requests some of whose
rows are still to be asked for. -/
def Tile.landingCount (t : Tile) : Nat :=
  (((t.reqs.filter fun r => r.cls == 3 && !r.use.ofSvc && !t.ownRead r).map (·.seq)) ++
    ((t.ops.filter fun o => o.kind == .serve && !o.later.isEmpty).map (·.id))).eraseDups.length

/-- A slot of another device's SVC (R172): its rows pass the handles of user 2. -/
def XSlot.ofSvc (x : XSlot) : Bool := decide (256 ≤ x.src) && x.src % 256 == noLtile
/-- A row of a slot that a handle denies (R172, R173). -/
def State.slotDenied (s : State) (p : Nat) (x : XSlot) (write : Bool) (row : Nat) : Bool :=
  x.ofSvc && decide (row < mappedRows) && !s.mayAccess p 2 write row

/-- Rows of a remote write land (R209): class L writes. Rows that a handle denies are not written; the request raises 0x3002
once (R173). -/
def State.landRows (s : State) (p no : Nat) (x : XSlot) (row n : Nat) (data : List Byte) : State :=
  let s := s.modTile p (·.openRx x.src x.op x.total x.deadline x.flag)
  (List.range n).foldl (fun s i =>
    if s.slotDenied p x true (row + i) then s.rxDenied p x.src x.op
    else if row + i < mappedRows then
      s.modTile p (·.request { cls := 3, seq := no, row := row + i, deadline := x.deadline, since := s.age,
                               use := .writeRx 0 (slice data (64 * i) 64) x.src x.op, side := decide (256 ≤ x.src) })
    else s.rxFault p x.src x.op) s

/-- A flag word lands (R214): acknowledged when a FLAGW sent it. -/
def State.landFlag (s : State) (p no : Nat) (x : XSlot) (f : FlagReq) : State :=
  let s := if x.op = 0 then s else s.modTile p (·.openRx x.src x.op 1 x.deadline none)
  let w := f.off % 64 / 4
  if f.off / 64 < mappedRows then
    s.modTile p (·.request { cls := 3, seq := no, row := f.off / 64, deadline := x.deadline, since := s.age,
                             use := if x.op = 0 then .flag w f.value f.mode 0 else .flagRx w f.value f.mode x.src x.op,
                             side := decide (256 ≤ x.src) })
  else if x.op = 0 then s.raiseExt p 0x3001 else s.rxFault p x.src x.op

/-- A remote read request lands (R209): its rows are read as class L, two per beat, from this beat. Rows that a handle denies
read as zeros, with one 0x3002 (R173); the reply's STATUS (R276) is the code that the read raised. -/
def State.landRead (s : State) (p no : Nat) (x : XSlot) (row n : Nat) : State :=
  let no_ (i : Nat) : Bool := s.slotDenied p x false (row + i)
  let gone := (List.range n).filter no_
  let status := if mappedRows < row + n then 0x3001 else if gone.isEmpty then 0 else 0x3002
  let later := ((List.range n).filter fun i => !no_ i).map fun i => (s.stamp (p / 13) + i / 2, row + i, 0, 64, 64 * i)
  let buf := gone.foldl (fun b i => putUnits b (rep 64 0#8) 0 64 (64 * i)) []
  let s1 := s.modTile p fun t => { t with ops := t.ops ++
    [{ id := no, kind := .serve, bundle := 0, issue := s.stamp (p / 13), deadline := x.deadline, tracked := false, flag := none,
       later, buf, reads := later.length, nslots := ceilDiv n 2, n, dst := (0, x.src, row), aux := x.op, arg2 := status,
       started := true }] }
  if gone.isEmpty then s1 else s1.raiseExt p 0x3002

/-- Rows of a remote read's reply land (R209): class L writes of the local DMAR. -/
def State.landReply (s : State) (p no op idx n : Nat) (data : List Byte) (side : Bool) : State :=
  match (s.tile p).op? op with
  | none => s
  | some o =>
    (List.range n).foldl (fun s i =>
      let row := o.arg2 + idx + i
      let s := s.modTile p (·.modOp op fun o => { o with awaiting := o.awaiting - 1 })
      if row < mappedRows then
        s.modTile p fun t => (t.modOp op fun o => { o with writes := o.writes + 1 }).request
          { cls := 3, seq := no, row, deadline := o.deadline, since := s.age, use := .write 0 (slice data (64 * i) 64) op,
            side }
      else s.opFault p op) s

/-- Entries of a remote push land (R211): their row pieces wait for their grants. -/
def State.landPush (s : State) (p no : Nat) (x : XSlot) (ring n off : Nat) (data : List Byte) : State :=
  let s := s.modTile p (·.openRx x.src x.op (2 ^ 32) x.deadline x.flag)
  match ((s.tile p).rx.find? fun y => y.src = x.src && y.op = x.op).bind (·.first) with
  | some first =>
    s.pushSlotRows p { cls := 3, seq := no, row := 0, deadline := x.deadline, since := s.age, use := .drop,
                       side := decide (256 ≤ x.src) } first ring off data x.src x.op []
  | none => s.askPush p no x.deadline (decide (256 ≤ x.src)) ring n off data x.src x.op

/-- A slot lands at a position (R205): it takes a place in the landing queue until its rows are granted. -/
def State.land (s : State) (p : Nat) (x : XSlot) : State :=
  let no := (s.tile p).nextOp
  let s := s.modTile p fun t => { t with nextOp := no + 1 }
  match x.body with
  | .rows row n data => s.landRows p no x row n data
  | .flag f => s.landFlag p no x f
  | .rdReq row n => s.landRead p no x row n
  | .rdReply idx n data => s.landReply p no x.op idx n data (decide (256 ≤ x.src))
  | .push ring n off data => s.landPush p no x ring n off data

/-- A slot that finds the 32 places occupied is lost (R162). -/
def State.loseSlot (s : State) (p : Nat) (x : XSlot) : State :=
  let s := s.raiseExt p 0x3007
  match x.body with
  | .rows _ _ _ =>
    s.modTile p fun t => (t.openRx x.src x.op x.total x.deadline x.flag).modRx x.src x.op fun y => { y with bad := true }
  | .push ring _ off data =>
    s.modTile p fun t =>
      let t := t.openRx x.src x.op (2 ^ 32) x.deadline x.flag
      let rg := t.ring ring
      match (t.rx.find? fun y => y.src = x.src && y.op = x.op).bind (·.first) with
      | some first =>
        (t.setRing ring ((rg.pieces first off data.length).foldl (fun q _ => q.pieceDone first true) rg)).modRx
          x.src x.op fun y => { y with bad := true }
      | none => t.modRx x.src x.op fun y => { y with bad := true, lost := y.lost ++ [(off, data.length)] }
  | .rdReply _ _ _ => s.modTile p (·.modOp x.op fun o => { o with cut := true })
  | .flag _ | .rdReq _ _ => s

/-- Does a slot reach a tile's crossbar path before another (R160)? By its beat, then its port, then its source tile;
slots of this device's own tiles come first (log entry 42). -/
def XSlot.before (x y : XSlot) : Bool :=
  decide (x.arrive < y.arrive) || (x.arrive == y.arrive &&
    (decide (x.port < y.port) || (x.port == y.port && decide (x.src < y.src))))

/-- The slot that the crossbar delivers to a position now: the first of those that have arrived (R160, R162). -/
def State.arrived (s : State) (p : Nat) : Option XSlot :=
  (s.xbar.filter fun x => x.dst == s.ltileOf p && decide (x.arrive ≤ s.age)).foldl
    (fun b x => match b with | some y => if x.before y then some x else b | none => some x) none

/-- SLOT_LANDING (R162): the crossbar delivers one slot to a position, at most one in a beat. It takes a place in the
landing queue, or is lost. -/
def execSlotLanding (p : Nat) (s : State) : Res :=
  within p 208 (.next (
    match s.arrived p with
    | none => s
    | some x =>
      if s.age < (s.tile p).landAt then s
      else
        let s1 := { s with xbar := s.xbar.erase x }.modTile p fun t => { t with landAt := s.age + 1 }
        if (s1.tile p).landingCount < 32 then s1.land p x else s1.loseSlot p x))

/-! ### The outbound path (R204 to R206) -/

/-- Packets that carry one slot of a tile to another device (R206, R276): the remote forms are log entry 23. -/
def State.slotPacket (s : State) (p : Nat) (x : XSlot) : State :=
  let dev := x.dst / 256 - 1
  let lt := x.dst % 256
  let mk (vc ptype off : Nat) (data : List Byte) : State :=
    s.sendPacket vc p { dst := dev, hops := 15, src := 0, ptype, addr := globalAddr dev lt off, deadline := x.deadline,
                        tag := packetTag x.src x.op, status := 0, payload := data }
  match x.body with
  | .rows row n data => mk 0 pRwr (64 * row) (data.take (64 * n))
  | .rdReq row n => mk 0 pRrd (64 * row + (n - 1) % 64) []
  | .rdReply row n data =>
    s.sendPacket 1 p { dst := dev, hops := 15, src := 0, ptype := pRrsp, addr := globalAddr s.selfDev x.src (64 * row),
                       deadline := x.deadline, tag := packetTag lt x.op, status := x.status, payload := data.take (64 * n) }
  | .push ring n off data => mk 0 pRpush (ring + 16 * n) (leBytes 4 off ++ data)
  | .flag f =>
    s.sendPacket 0 p { dst := dev, hops := 15, src := 0, ptype := pRflag, addr := globalAddr f.dev f.ltile f.off,
                       deadline := x.deadline, tag := packetTag x.src x.op, status := 0,
                       payload := leBytes 4 f.value ++ leBytes 4 f.mode ++ leBytes 4 (x.total % 4) ++ leBytes 4 lt ++
                         leBytes 4 (x.total / 4) }

/-- The place of an operation's slots on the outbound path (R204): issue order, or arrival order of served reads. -/
def Op.rank (o : Op) : Nat := if o.kind = .serve then o.id else o.order

/-- Has an operation slots still to come that leave before those of a place in a class (R204)? -/
def Op.sendsBefore (o : Op) (cls rank : Nat) : Bool :=
  o.started && !o.cut && decide (o.rank < rank) && decide (o.slots < o.nslots) &&
  (match o.kind with
   | .dmaw | .pushr => cls == 3
   | .serve => cls == 2
   | _ => false)

/-- The next slot of a class on a tile's outbound path, when it may leave now (R204), and the path without it. -/
def Tile.nextOut (t : Tile) (now cls : Nat) : Option (XSlot × List (Nat × Nat × Nat × XSlot)) :=
  match (t.outq.filter (·.1 == cls)).map (·.2.1) with
  | [] => none
  | r :: rs =>
    let rank := rs.foldl min r
    match takeFirst (fun e => e.1 == cls && e.2.1 == rank) t.outq with
    | some ((_, _, earliest, x), rest) =>
      let here := if x.size = 0 then decide (earliest ≤ now) else x.ready[x.sent]?.any fun r => decide (r ≤ now)
      if here && (x.sent != 0 || !(t.ops.any (·.sendsBefore cls rank))) then some (x, rest) else none
    | none => none

/-- One slot leaves a tile's outbound path in a beat (R204): replies before the tile's own, each in its order. With its last
slot a packet toward another device is whole (R206). -/
def State.outBeat (s : State) (p : Nat) (circuitTaken : Bool) : State :=
  if circuitTaken then s
  else
    let t := s.tile p
    let pick := match t.nextOut s.age 2 with
      | some r => some r
      | none => t.nextOut s.age 3
    match pick with
    | none => s
    | some (x, rest) =>
      if 128 * (x.sent + 1) < x.size then
        s.modTile p fun t => { t with outq := t.outq.map fun e =>
          if e.2.2.2 = x then (e.1, e.2.1, e.2.2.1, { x with sent := x.sent + 1 }) else e }
      else
        let s := s.modTile p fun t => { t with outq := rest }
        if x.dst < 256 then { s with xbar := s.xbar ++ [{ x with arrive := s.age + 6 }] }
        else s.slotPacket p x

/-! ### Operations move on (R209, R210) -/

/-- Put a slot on the outbound path. -/
def Tile.push (t : Tile) (cls rank earliest : Nat) (x : XSlot) : Tile :=
  { t with outq := t.outq ++ [(cls, rank, earliest, x)] }

/-- Bytes of a slot of the crossbar (R204), and of the largest packet (R276). -/
def slotSize : Nat := 128
def packetSize : Nat := 4096
/-- Further bytes of a packet toward another device have come: they join its slots that wait on the outbound path. -/
def SlotBody.append (b : SlotBody) (more : List Byte) : SlotBody :=
  match b with
  | .rows row n data => .rows row n (data ++ more)
  | .rdReply idx n data => .rdReply idx n (data ++ more)
  | .push ring n off data => .push ring n off (data ++ more)
  | b => b

/-- Put the next 128-byte slot of an operation on the outbound path, for a beat. Toward another device 32 of them are one
packet (R276): the first one opens it. -/
def Tile.pushSlot (t : Tile) (cls rank earliest i all : Nat) (far : Bool) (x : XSlot) (data : List Byte) : Tile :=
  let k := packetSize / slotSize
  if !far then t.push cls rank earliest x
  else if i % k = 0 then
    t.push cls rank earliest { x with size := min packetSize (all - slotSize * i), ready := [earliest] }
  else
    match takeFirst (fun e => e.1 == cls && e.2.1 == rank && e.2.2.2.op == x.op && decide (e.2.2.2.ready.length * slotSize < e.2.2.2.size)) t.outq with
    | none => t
    | some (y, _) =>
      { t with outq := t.outq.map fun e =>
          if e = y then (e.1, e.2.1, e.2.2.1, { e.2.2.2 with body := e.2.2.2.body.append data, ready := e.2.2.2.ready ++ [earliest] })
          else e }

/-- Send the next slot of a DMAW, PUSHR or served read whose bytes have come (R204, R209): one beat after their data are
ready at the earliest. Behind the last packet of an operation toward another device its completion flag follows (log
entry 23). A CSEND notes the beat in which a slot's last row was sampled (R162). -/
def State.pumpOp (s : State) (p id : Nat) : State :=
  match (s.tile p).op? id with
  | none => s
  | some o =>
    if o.kind = .csend then
      let full := (List.range o.nslots).filter fun i =>
        decide (o.slots ≤ i) && !(o.seen.any (·.1 == i)) && unitsReady o.buf (slotSize * i) (min slotSize (64 * o.n - slotSize * i))
      s.modTile p (·.modOp id fun o => { o with seen := o.seen ++ full.map fun i => (i, s.stamp (p / 13)) })
    else if !o.started || o.nslots ≤ o.slots || o.deadline < s.now then s
    else
      let i := o.slots
      let away := decide (o.dst.1 ≠ s.selfDev) && o.kind != .serve
      let far := away || (o.kind = .serve && decide (256 ≤ o.dst.2.1))
      let all := if o.kind = .pushr then o.n * o.arg2 else 64 * o.n
      let bytes := min slotSize (all - slotSize * i)
      if !unitsReady o.buf (slotSize * i) bytes then s
      else
        let data := unitBytes o.buf (slotSize * i) bytes
        let rows := ceilDiv (if far then min packetSize (all - slotSize * i) else bytes) 64
        let me := s.ltileOf p
        let base : XSlot := { src := me, op := o.id, dst := s.farKey o.dst.1 o.dst.2.1, arrive := 0, deadline := o.deadline,
                              total := o.n, flag := if away then none else o.flag, poisoned := false, body := .rdReq 0 0 }
        let ready := s.ageAt (s.countIn (p / 13) 1 + 1)
        let start := max (s.ageAt (s.countOfBeat (p / 13) (o.issue % 65536) + 1 + i)) ready
        let last := decide (o.nslots ≤ i + 1)
        let t := (s.tile p).modOp id fun o =>
          { o with slots := i + 1, awaiting := o.awaiting + b2n (away && i % (packetSize / slotSize) == 0) }
        let behind (t : Tile) : Tile :=
          match o.flag with
          | some f =>
            if away && last then
              t.push 3 o.rank start { base with total := 2 + 4 * (if o.kind = .dmaw then o.n else 0), body := .flag f }
            else t
          | none => t
        match o.kind with
        | .dmaw =>
          s.setTile p (behind (t.pushSlot 3 o.rank start i all far { base with body := .rows (o.dst.2.2 + 2 * i) rows data } data))
        | .pushr =>
          s.setTile p (behind (t.pushSlot 3 o.rank start i all far { base with body := .push o.arg o.n (slotSize * i) data } data))
        | .serve =>
          let first := if far then o.dst.2.2 + 2 * i else 2 * i
          s.setTile p (t.pushSlot 2 o.rank ready i all far
            { base with dst := o.dst.2.1, op := o.aux, flag := none, status := o.arg2, body := .rdReply first rows data } data)
        | _ => s

/-- Row reads whose beat has come are requested (R183, R209, R212); a served read's take their grants from this beat.
With the first of them every row outside the map settles (R151). -/
def State.askLater (s : State) (p id : Nat) : State :=
  match (s.tile p).op? id with
  | none => s
  | some o =>
    let now := s.stamp (p / 13)
    let first := o.later.any fun l => decide (l.1 ≤ now)
    let due (l : Nat × Nat × Nat × Nat × Nat) : Bool := decide (l.1 ≤ now) || (first && decide (mappedRows ≤ l.2.1))
    let since := if o.kind = .serve then s.age else s.age + 1
    let asked := o.later.filter due
    let s := s.modTile p fun t =>
      { (t.modOp id fun o => { o with later := o.later.filter fun l => !due l }) with
        nextOp := t.nextOp + b2n (o.kind == .csend && first) }
    asked.foldl (fun s l => s.reqReadAt p since o l.2.1 l.2.2.1 l.2.2.2.1 l.2.2.2.2) s

/-- A pop has sampled its last ring row: HEAD advances (R167). -/
def State.popHead (s : State) (p id : Nat) : State :=
  match (s.tile p).op? id with
  | some o =>
    if o.kind = .pop && o.started && o.reads = 0 && o.phase = 0 then
      s.modTile p fun t =>
        let r := t.ring o.arg
        (t.setRing o.arg { r with head := r.head + BitVec.ofNat 32 o.aux }).modOp id fun o => { o with phase := 1 }
    else if o.kind = .push && !o.started && o.reads = 0 && o.later.isEmpty then s.startPush p o
    else s
  | none => s

/-- Has an operation done all that its completion needs (R207, R209 to R215)? -/
def Op.finished (o : Op) : Bool :=
  o.started && !o.cut &&
  match o.kind with
  | .fill | .copy | .dgst | .push => o.reads == 0 && o.later.isEmpty && o.held.isEmpty && o.writes == 0
  | .pop => o.phase == 1 && o.held.isEmpty && o.writes == 0
  | .dmaw | .pushr => o.slots == o.nslots && o.awaiting == 0
  | .dmar => o.awaiting == 0 && o.writes == 0
  | .csend => o.slots == o.nslots
  | .crecv => o.slots == o.nslots && o.writes == 0
  | .flagw => o.writes == 0 && o.awaiting == 0
  | .drain | .accm | .shuf => o.phase == 9 && o.writes == 0
  | .serve => o.slots == o.nslots

/-- The record of a finished DGST (R215, R381): crc, round counter at issue, point, logical tile, fault, rows, the
choice count at issue, and the stamp of its post beat. One of zero rows has no bank latency and posts at t + 2 (DESIGN
CHOICE, log entry 51: R215 gives no λ_max for an empty range). -/
def digestOf (s : State) (p : Nat) (o : Op) : List Nat :=
  [crc64 (unitBytes o.buf 0 (64 * o.n)), o.aux, o.arg, s.ltileOf p, b2n o.faulted, o.n, o.arg2,
   s.stamp (p / 13) + (if o.n = 0 then 2 else 3)]

/-- A finished operation frees its tracker (R203); one with a flag stays until COMPLETION_FLAG_WRITE. An operation whose
bundle was removed leaves (R183). -/
def State.finishOp (s : State) (p id : Nat) : State :=
  match (s.tile p).op? id with
  | none => s
  | some o =>
    if o.gone then s.modTile p (·.dropOp id)
    else if !o.finished || (!o.tracked && o.kind != .serve) then s
    else
      let s := if o.kind = .dgst then s.modTile p fun t => { t with digests := t.digests ++ [digestOf s p o] } else s
      let local_ := match o.kind with | .dmaw | .pushr => false | _ => true
      if o.flag.isSome && local_ then
        s.modTile p (·.modOp id fun o => { o with tracked := false, buf := [] })
      else s.modTile p (·.dropOp id)

/-- Acknowledgements that have come back (R209, R211, R214); one that comes after the deadline ends nothing (R50, R208). -/
def State.takeAcks (s : State) (p : Nat) : State :=
  let due := (s.tile p).acks.filter fun a => decide (a.1 ≤ s.age)
  let s := s.modTile p fun t => { t with acks := t.acks.filter fun a => !decide (a.1 ≤ s.age) }
  due.foldl (fun s a =>
    match (s.tile p).op? a.2.1 with
    | none => s
    | some o =>
      if o.deadline + (s.age - a.1) < s.now then s
      else if a.2.2 = 0 then s.modTile p (·.modOp o.id fun o => { o with awaiting := o.awaiting - 1 })
      else (s.modTile p (·.dropOp o.id)).raiseTile p o.bundle a.2.2) s

/-- Send the acknowledgement of another requester's operation (R209, R211): 7 beats, or a RACK packet of the tile (R277). -/
def State.sendAck (s : State) (p src op status : Nat) : State :=
  if src < 256 then
    s.modTile (s.physOf src) fun t => { t with acks := t.acks ++ [(s.age + 7, op, status)] }
  else
    s.sendPacket 1 p { dst := src / 256 - 1, hops := 15, src := 0, ptype := pRack, addr := 0, deadline := noDeadline,
                           tag := packetTag (src % 256) op, status, payload := [] }

/-- Every row of another requester's operation is in its bank (R207). -/
def RxOp.complete (x : RxOp) : Bool := x.status == 0 && decide (x.total ≤ x.done) && !x.bad
/-- An operation of another device, whose rows come in packets (R276). -/
def RxOp.far (x : RxOp) : Bool := decide (256 ≤ x.src) && decide (x.src < svcSrc)
/-- Longest way of a packet: 15 hops of at most 65,536 beats (R276, R281). -/
def packetLife : Nat := 2 ^ 20

/-- Is an operation of another requester still remembered? A refused one, or one that lost rows, until its deadline; one
of another device until no packet of it can be on the way. -/
def RxOp.stays (x : RxOp) (now : Nat) : Bool :=
  if x.far then decide (now ≤ x.deadline + packetLife)
  else !((x.bad || x.status != 0) && decide (x.deadline < now)) && !(x.complete && !x.acked && x.flag.isNone)

/-- What its acknowledgement leaves of an operation of another requester. -/
def RxOp.told (x : RxOp) : RxOp :=
  if x.status != 0 then { x with acked := true, owed := 0 }
  else if x.complete then { x with acked := !x.far || x.flag.isSome, owed := 0 }
  else x

/-- Operations of other requesters whose rows are all in place are acknowledged; refused pushes return their status
(R209, R211). -/
def State.finishRx (s : State) (p : Nat) : State :=
  let l := (s.tile p).rx
  let s := l.foldl (fun s x =>
    if x.acked then s
    else if x.status != 0 then s.sendAck p x.src x.op x.status
    else if x.complete then (List.range x.owed).foldl (fun s _ => s.sendAck p x.src x.op 0) s
    else s) s
  s.modTile p fun t => { t with rx := (t.rx.filter (·.stays s.now)).map RxOp.told }

/-- COMPLETION_FLAG_WRITE (R207): the flag of a complete operation goes to its word; bit 31 when poisoned. The flag of
another requester's operation takes its place behind all that the tile has issued (DESIGN CHOICE, log entry 51: R204 gives
it none). -/
def execCompletionFlagWrite (p op : Nat) (s : State) : Res :=
  within p 208 (.next (
    match (s.tile p).ops.find? (fun o => o.id = op && !o.tracked && !o.cut && o.kind != .serve && decide (o.issue < s.stamp (p / 13))) with
    | some o =>
      let s1 := s.modTile p (·.dropOp op)
      match o.flag with
      | some f => s1.sendFlag p (f.poison o.poisoned) (some o.bundle) 0 o.rank s.age noDeadline
      | none => s1
    | none =>
      match takeFirst (fun x => x.op == op && x.acked && x.status == 0 && decide (x.src < svcSrc)) (s.tile p).rx with
      | some (x, rest) =>
        let s1 := s.modTile p fun t => { t with rx := rest }
        match x.flag with
        | some f => s1.sendFlag p f none 0 (issueOrder (s.stamp (p / 13)) 3) s.age noDeadline
        | none => s1
      | none => s))

/-- Row pieces of a reserved push that are granted and on their way to their banks: no deadline discards them (R207). -/
def Tile.piecesOnWay (t : Tile) (ring first : Nat) : Nat :=
  (t.bank.filter fun b => match b.use with | .writePush r f _ _ _ => r == ring && f == first | _ => false).length

/-- RING_PUBLISH (R168): TAIL advances over a ring's oldest reserved push once its rows are all in their banks, or its
deadline has passed (R211); a push that lost rows raises 0x300C. -/
def execRingPublish (p r : Nat) (s : State) : Res :=
  within p 208 (within r 16 (.next (
    let rg := (s.tile p).ring r
    match rg.pushes with
    | [] => s
    | (first, n, left, bad, due) :: rest =>
      if left = 0 || due < s.now then
        let s1 := s.modTile p (·.setRing r { rg with tail := BitVec.ofNat 32 (first + n), pushes := rest })
        if bad || decide ((s.tile p).piecesOnWay r first < left) then s1.raiseExt p 0x300c (first % 2 ^ 32 + n * 2 ^ 32) else s1
      else s)))

/-- An operation that has not met its deadline raises 0x5010 and frees its tracker; its rows not granted are not
written (R51, R208). -/
def State.expireOp (s : State) (p op : Nat) : State :=
  let t := s.tile p
  match t.op? op with
  | none => s
  | some o =>
    let waits := t.reqs.any fun r => match r.use with
      | .toOp i _ _ _ => i == op
      | .write _ _ i => i == op
      | .writePush _ _ _ _ i => i == op
      | .flag _ _ _ i => i == op
      | _ => false
    let slotM := match o.kind with | .drain | .accm | .shuf => true | _ => false
    let open_ := waits || o.cut || o.awaiting != 0 || !o.later.isEmpty || !o.held.isEmpty ||
      decide (o.slots < o.nslots) || !o.started
    if o.tracked && !slotM && o.kind != .serve && decide (o.deadline < s.now) && open_ then
      let s1 := s.modTile p fun t =>
        let t := t.dropOp op
        { t with reqs := t.reqs.filter fun r => match r.use with
                   | .toOp i _ _ _ => i != op
                   | .write _ _ i => i != op
                   | .writePush _ _ _ _ i => i != op
                   | .flag _ _ _ i => i != op || i == 0
                   | _ => true,
                 outq := t.outq.filter fun e => !(e.2.2.2.op == op && e.2.2.2.src == s.ltileOf p && e.1 == 3 && op != 0) }
      s1.raiseDeadline p o.bundle 0x5010
    else s

/-- DEADLINE_EXPIRE (R208). -/
def execDeadlineExpire (p op : Nat) (s : State) : Res := within p 208 (.next (s.expireOp p op))

end Sys2Proof.Machine
end

