-- ==== Sys2Proof/Machine/Matrix.lean ====
section
/-! DEFINITION. Slot M (R217): loads, passes of the quad and the side array, drains, ACCM and the shuffle unit: what
their issue does, what each beat does to them, and what the tick's last beat cuts off (R51, R114). -/

namespace Sys2Proof.Machine

/-! ### Shared by the slots -/

/-- A completion flag as `finish` will write it (R194, R206): the kind mismatch, or the flag with the code that the
issuing tile raises when its address is rejected (0: none). -/
def State.flagFor (s : State) (t : Tile) (cf : Bool) (fidx : Nat) : Except Nat (Option FlagReq × Nat) :=
  if !cf then .ok (none, 0)
  else
    let w := t.odtEntry fidx
    if odtKind w != 4 then .error 0x300a
    else
      let f := flagE w
      match s.decodeGlobal (4 * f.gword) with
      | none => .ok (none, 0x3001)
      | some (dev, lt, off) =>
        if dev ≠ s.selfDev && (s.routeUp dev).isNone then .ok (none, 0x4002)
        else .ok (some { dev, ltile := lt, off, value := if f.ven then t.counter f.vctr else f.value, mode := f.mode }, 0)

/-- The last count of a table beat of the running tick. -/
def State.lastCount (s : State) (tbl j : Nat) : Nat :=
  if s.lastBeat tbl ≤ j then s.tickBase + s.tickLen - 1 else s.countOfBeat tbl (j + 1) - 1

/-- Add a tracked operation to a tile. -/
def Tile.addOp (t : Tile) (o : Op) : Tile := { t with ops := t.ops ++ [o], nextOp := t.nextOp + 1 }

/-- Bytes of the operand buffer with wrap (R221, R228). -/
def State.obBytes (s : State) (p off n : Nat) : List Byte :=
  (List.range n).map fun i => s.readByte p ((off + i) % 65536)

/-- Element `j` of a packed bit string (R76). -/
def packedAt (f : Fmt) (w j : Nat) : Nat := bits w (j * f.width) f.width

/-! ### Planes and loads (R102, R117, R229) -/

/-- The plane that a tile's bytes spell (R229): 64 columns, and column scales for MX formats. -/
def planeOf (f : Fmt) (krows : Nat) (l : List Byte) : Plane :=
  let n := krows * 64
  let w := leNat (l.take (n * f.width / 8))
  let sc := l.drop (n * f.width / 8)
  { fmt := f,
    elems := (List.range n).filterMap fun i => let c := packedAt f w i; if c = 0 then none else some (i, c),
    scales := if f.isMx then
        ((List.range 64).map fun i => (i, (sc.getD i 127).toNat)).filter fun x => x.2 ≠ 127
      else [] }
/-- The value of a plane's element (R71). -/
def Plane.at_ (x : Plane) (k n : Nat) : Val := x.fmt.value (Map.get 0 x.elems (k * 64 + n))
/-- A column's scale byte (R98, R102). -/
def Plane.scale (x : Plane) (n : Nat) : Nat := Map.get 127 x.scales n

/-- Steps of the wavefront from the first K-row to the last column: 94 for the quad, 78 for the side array. -/
def sweep (side : Bool) : Nat := if side then 78 else 94
/-- K-rows of an engine. -/
def depth (side : Bool) : Nat := if side then 16 else 32

/-- Steps of a pass, Q_s (R97). -/
def Pass.steps (x : Pass) : Nat := if x.mode = .streamed then x.rows else ceilDiv x.rows x.rho
/-- The beat after a pass's last feeding beat (R97, R119). -/
def Pass.feedEnd (x : Pass) : Nat := x.b0 + (if x.mode = .streamed then 16 * x.s * x.rows else x.s * x.steps)
/-- F (R97). -/
def Pass.f (x : Pass) : Nat := if x.strict then 3 else 2
/-- The beat of a pass's last accumulator write (R97, R118, R119). -/
def Pass.lastWrite (x : Pass) (side : Bool) : Nat :=
  if x.mode = .streamed then x.feedEnd + x.f else x.b0 + x.s * (x.steps + sweep side) + x.f

/-- Does a slide pass feed rows in this beat (R102)? -/
def Engine.sliding (e : Engine) (now : Nat) : Bool :=
  e.passes.any fun x => x.mode = .slide && decide (x.b0 ≤ now) && decide (now < x.feedEnd)
/-- Bytes that a load reads in this beat (R102). -/
def loadChunk (side : Bool) (quad : Engine) (now : Nat) : Nat :=
  if side then 64 else if quad.sliding now then 128 else 256
/-- All bytes of a load have been read. -/
def LoadOp.full (l : LoadOp) : Bool := decide (l.total ≤ l.got.length)
/-- The shadow plane takes a tile whose last chunk has been read (R102). -/
def Engine.takeLoad (e : Engine) (side : Bool) : Engine :=
  match e.load with
  | some l => if l.full then { e with shadow := planeOf l.fmt (depth side) l.got, load := none } else e
  | none => e
/-- An engine of a tile. -/
def Tile.engine (t : Tile) (side : Bool) : Engine := if side then t.side else t.quad
/-- Replace an engine of a tile. -/
def Tile.setEngine (t : Tile) (side : Bool) (e : Engine) : Tile := if side then { t with side := e } else { t with quad := e }
/-- Replace an engine of a position. -/
def State.setEngine (s : State) (p : Nat) (side : Bool) (e : Engine) : State := s.modTile p (·.setEngine side e)

/-- LOAD and SLOAD issue (R102, R104, R118, R229). The limits of R104 and R105 that a pass leaves are stamps of its tick and
bind nothing in the next one, where a pass that was cut off at the tick's end runs no more (DESIGN CHOICE, log entry 45: the
spec is silent on a cut-off pass). -/
def State.issueLoad (s : State) (p idx w : Nat) (side : Bool) : State :=
  let e := ((s.tile p).engine side).takeLoad side
  let now := s.stamp (p / 13)
  let f := (Fmt.ofCode (bits w 8 4)).getD .e4m3
  if e.load.isSome || decide (now < e.swapClear) then s.raiseDeadline p idx 0x5013
  else
    let total := depth side * 8 * f.width + (if f.isMx then 64 else 0)
    s.setEngine p side { e with load := some { src := 64 * slotA w, fmt := f, issue := now, total, got := [], bundle := idx } }

/-- LOAD_COMPLETE (R102): the shadow plane takes the tile once its last chunk has been read. -/
def execLoadComplete (p : Nat) (side : Bool) (s : State) : Res :=
  within p 208 (.next (s.setEngine p side (((s.tile p).engine side).takeLoad side)))

/-! ### Passes (R95 to R110, R117 to R119, R230, R231) -/

/-- The planes as they will stand at the next first-row beat: (active, shadow) formats, with the exchanges of passes
whose first-row beat has not come, and the tile of a load that will be whole by then (R103). -/
def Engine.formats (e : Engine) : Fmt × Fmt :=
  let sh := match e.load with | some l => l.fmt | none => e.shadow.fmt
  (e.passes.filter fun x => x.plane.isNone && x.swap).foldl (fun q _ => (q.2, q.1)) (e.active.fmt, sh)

/-- May a swapping pass issue now (R104, R118): the most recent load's last chunk is read in this beat at the latest. -/
def Engine.swapReady (e : Engine) (side : Bool) (quad : Engine) (now : Nat) : Bool :=
  match e.load with
  | none => true
  | some l => decide (l.total ≤ l.got.length + (if l.issue < now then loadChunk side quad now else 0))

/-- R105 with the engine's sweep: may a pass with first-row beat `b0` and step `s` follow the last one? -/
def Engine.follows (e : Engine) (side : Bool) (b0 s : Nat) : Bool :=
  decide (e.lastEnd + (e.lastStep - s) * sweep side ≤ b0)

/-- A lane is full in the running tick (R222). -/
def State.laneFull (s : State) (lane : Nat) : Bool := (Map.get {} s.svc.lanes lane).full

/-- Masked rows of a pass (R106, R230): stream * 128 + row. -/
def State.masks (s : State) (src sel hi rows streams : Nat) : List Nat :=
  if src = 0 then []
  else
    ((List.range streams).map fun q =>
      ((List.range rows).filter fun r =>
        if src = 1 then selMask sel hi r else !s.laneFull (selLane sel q + r)).map (q * 128 + ·)).flatten

/-- PASS (R230). R228 checks static entries alone. An entry that SETUP wrote at run time runs as its bits spell it, whatever
its ROWS: MODE 3 as FWD, MASKSRC 3 as the lane mask, an unknown format as E4M3 (DESIGN CHOICE, log entry 50: the spec states
neither a fault nor an effect). -/
def State.issuePass (s : State) (p idx w : Nat) (t : Tile) : State :=
  let e := t.quad.takeLoad false
  let now := s.stamp (p / 13)
  let pe := t.odtEntry (slotA w)
  let x := passE pe
  let st := t.odtEntry x.streamx
  let sel := t.odtEntry x.maskx
  if odtKind pe != 7 || odtKind st != 8 || (x.masksrc != 0 && odtKind sel != 9) then s.raiseTile p idx 0x300a
  else
    let ao := if bit w 7 then t.counter (bits w 8 4) else 0
    let xo := if bit w 2 then t.counter (bits w 3 4) else 0
    let slide := x.mode = 2
    let nout := if slide then x.rows - x.width else x.rows
    let amax := if x.strict then 255 else 1023
    let streams := (List.range 4).map (streamE st)
    if (List.range 4).any fun q => (nth (false, 0, 0, 0) streams q).1 && decide (0 < nout) &&
        decide (amax < nth 0 x.acc q + ao + nout - 1) then s.raiseTile p idx 0x300b
    else
      let af := (Fmt.ofCode x.afmt).getD .e4m3
      let (fa, fs) := e.formats
      let wf := if x.swap then fs else fa
      let cls := rateClass wf af
      let step := (if cls = 2 then 2 else 1) * (if x.strict then 2 else 1)
      let rho := if cls = 0 && x.mode = 0 then 2 else 1
      let b0 := now + 1
      if (x.swap && !e.swapReady false t.quad now) || !e.follows false b0 step then
        s.raiseDeadline p idx 0x5013
      else if x.rows = 0 then s
      else
        let pass : Pass :=
          { id := 2 * e.nextId, bundle := idx, mode := if slide then .slide else if x.mode = 1 then .rev else .fwd,
            rows := x.rows, afmt := af, strict := x.strict, first := x.first, width := x.width, half := x.half, b0,
            s := step, rho, swap := x.swap, plane := none, acc := x.acc.map (· + ao),
            streams := streams.map fun q => (q.1, 16 * q.2.1, 16 * q.2.2.1, 16 * q.2.2.2), xo,
            masked := s.masks x.masksrc sel x.maskhi x.rows 4, cfmt := af, samples := [], done := [], terms := [] }
        s.setEngine p false { e with
          passes := e.passes ++ [pass], nextId := e.nextId + 1,
          lastEnd := pass.feedEnd, lastStep := step,
          swapClear := if x.swap then b0 + step * 94 else e.swapClear }

/-- SPASS (R231). R105 is kept between passes of both modes: a STREAMED pass holds the array for its 16 * s * Q beats, and
counts as one of step 1 for the pass behind it (log entry 45). -/
def State.issueSpass (s : State) (p idx w : Nat) (t : Tile) : State :=
  let e := t.side.takeLoad true
  let now := s.stamp (p / 13)
  let pe := t.odtEntry (slotA w)
  let x := sideE pe
  let sel := t.odtEntry x.maskx
  if odtKind pe != 0xa || (x.masksrc != 0 && odtKind sel != 9) then s.raiseTile p idx 0x300a
  else
    let ao := if bit w 7 then t.counter (bits w 8 4) else 0
    let xo := if bit w 2 then t.counter (bits w 3 4) else 0
    let amax := if x.strict then 255 else 1023
    if 0 < x.rows && amax < x.acc + ao + x.rows - 1 then s.raiseTile p idx 0x300b
    else
      let streamed := x.mode = 1
      let af := (Fmt.ofCode x.afmt).getD .e4m3
      let cf := (Fmt.ofCode x.cfmt).getD .e4m3
      let (fa, fs) := e.formats
      let wf := if streamed then cf else if x.swap then fs else fa
      let base := if wf = .bf16 || af = .bf16 then 2 else 1
      let step := if x.strict && !streamed then 2 * base else base
      let b0 := now + 1
      let swap := x.swap && !streamed
      if (swap && !e.swapReady true t.quad now) || !e.follows true b0 step then
        s.raiseDeadline p idx 0x5013
      else if x.rows = 0 then s
      else
        let pass : Pass :=
          { id := 2 * e.nextId + 1, bundle := idx, mode := if streamed then .streamed else .held, rows := x.rows, afmt := af,
            strict := x.strict, first := x.first, width := 0, half := 0, b0, s := step, rho := 1, swap, plane := none,
            acc := [x.acc + ao], streams := [(true, 16 * x.src, 16 * x.stride, 0)], xo,
            masked := s.masks x.masksrc sel x.maskhi x.rows 1, cfmt := cf, samples := [], done := [], terms := [] }
        s.setEngine p true { e with
          passes := e.passes ++ [pass], nextId := e.nextId + 1,
          lastEnd := pass.feedEnd, lastStep := if streamed then 1 else step,
          swapClear := if swap then b0 + step * 78 else e.swapClear }

/-- Is row `r` of stream `q` fed (R106)? -/
def Pass.fed (x : Pass) (q r : Nat) : Bool :=
  (nth (false, 0, 0, 0) x.streams q).1 && !x.masked.contains (q * 128 + r)
/-- Elements of an operand row (R221). -/
def Pass.rowElems (x : Pass) : Nat := match x.mode with | .slide | .rev => 64 | .fwd => 32 | _ => 16
/-- Bytes sampled for one operand row: its elements and its scales (R155, R221). -/
def State.sampleRow (s : State) (p : Nat) (x : Pass) (q r : Nat) : List Byte :=
  let (_, addr, stride, sc) := nth (false, 0, 0, 0) x.streams q
  let k := if x.mode = .rev && x.afmt.isMx then 2 else 1
  s.obBytes p (addr + stride * (r + x.xo)) (x.rowElems * x.afmt.width / 8) ++
    (if x.afmt.isMx then s.obBytes p (sc + k * (r + x.xo)) k else [])

/-- What the M port samples for a pass in this beat (R155). -/
def State.samplePass (s : State) (p now : Nat) (x : Pass) : Pass :=
  if x.mode = .streamed then
    let d := now + 1 - x.b0
    let i := d / (16 * x.s)
    if now + 1 < x.b0 || x.rows ≤ i || !x.fed 0 i then x
    else
      let x := if d % (16 * x.s) = 0 then
          let rec_ := s.obBytes p ((nth (false, 0, 0, 0) x.streams 0).2.1 + 16 * (i + x.xo)) 16
          let u := if bit (leNat rec_) 32 then [] else s.obBytes p (leAt rec_ 2 2) (2 * x.afmt.width)
          { x with samples := Map.put x.samples i (rec_ ++ u) }
        else x
      let got := Map.get [] x.samples i
      if bit (leNat (got.take 16)) 32 || d % (16 * x.s) % x.s ≠ 0 then x
      else
        let k := d % (16 * x.s) / x.s
        { x with samples := Map.put x.samples i (got ++ s.obBytes p (leAt got 0 2 + 8 * x.cfmt.width * k) (8 * x.cfmt.width)) }
  else if now + 1 < x.b0 || (now + 1 - x.b0) % x.s ≠ 0 then x
  else
    let st := (now + 1 - x.b0) / x.s
    if x.steps ≤ st then x
    else
      let rs := (List.range x.rho).map (x.rho * st + ·)
      let all := ((List.range x.streams.length).map fun q => rs.map fun r => (q, r)).flatten
      let put (m : List (Nat × List Byte)) (qr : Nat × Nat) : List (Nat × List Byte) :=
        if qr.2 < x.rows && x.fed qr.1 qr.2 then Map.put m (qr.1 * 128 + qr.2) (s.sampleRow p x qr.1 qr.2) else m
      { x with samples := all.foldl put x.samples }

/-- One beat of an engine: a load chunk, operand samples, and the exchange of planes at a first-row beat (R102, R103). -/
def State.engineBeat (s : State) (p : Nat) (side : Bool) : State :=
  let t := s.tile p
  let now := s.stamp (p / 13)
  let e := t.engine side
  let read (l : LoadOp) : LoadOp :=
    if l.issue < now && !l.full then
      { l with got := l.got ++ s.obBytes p (l.src + l.got.length) (min (loadChunk side t.quad now) (l.total - l.got.length)) }
    else l
  let e := { e with load := e.load.map read }
  let e := e.passes.foldl (fun e x =>
    let (e, x) :=
      if x.plane.isNone && decide (x.b0 ≤ now) then
        let e := if x.swap then e.takeLoad side else e
        let e := if x.swap then { e with active := e.shadow, shadow := e.active } else e
        (e, { x with plane := some e.active })
      else (e, x)
    { e with passes := e.passes ++ [s.samplePass p now x] }) { e with passes := [] }
  s.setEngine p side e

/-! ### The terms that reach the feet (R98, R108, R110, R117, R119) -/

/-- The values of a sampled row's elements. -/
def Pass.elems (x : Pass) (key : Nat) : List Val :=
  let w := leNat ((Map.get [] x.samples key).take (x.rowElems * x.afmt.width / 8))
  (List.range x.rowElems).map fun j => x.afmt.value (packedAt x.afmt w j)
/-- A sampled row's scale byte; 127, a scale of 1, without scales. -/
def Pass.rowScale (x : Pass) (key blk : Nat) : Nat :=
  if x.afmt.isMx then
    ((Map.get [] x.samples key).getD (x.rowElems * x.afmt.width / 8 + blk) 0#8).toNat
  else 127

/-- A streamed lane without a chunk: its record has EMPTY = 1 (R119). -/
def Pass.zeroLane (x : Pass) (key : Nat) : Bool :=
  x.mode = .streamed && bit (leNat ((Map.get [] x.samples key).take 16)) 32

/-- Weight and activation values, and their scales, of the block sums of column (or K-row) `n` of a row. -/
def Pass.blocks (x : Pass) (q r n : Nat) : List (List Pair × Nat × Nat) :=
  let key := q * 128 + r
  let pl := x.plane.getD {}
  match x.mode with
  | .fwd | .held =>
    let es := x.elems key
    [((List.range x.rowElems).map fun k => (pl.at_ k n, nth .nan es k), pl.scale n, x.rowScale key 0)]
  | .slide =>
    [(((List.range (x.width + 1)).filter fun j => decide (j ≤ r) && x.fed q (r - j)).map fun j =>
        (pl.at_ j n, nth .nan (x.elems (q * 128 + (r - j))) n), pl.scale n, 127)]
  | .rev =>
    let es := x.elems key
    (List.range 2).map fun h =>
      ((List.range 32).map fun i =>
        let c := 32 * h + i
        (match e8m0 (pl.scale c) with | some e => (pl.at_ n c).scale e | none => Val.nan, nth .nan es c), 127, x.rowScale key h)
  | .streamed =>
    if x.zeroLane key then [([], 127, 127)]
    else
      let got := Map.get [] x.samples key
      let ub := 2 * x.afmt.width
      let u := leNat ((got.drop 16).take ub)
      let c := leNat (got.drop (16 + ub))
      [((List.range 16).map fun k =>
          (x.cfmt.value (packedAt x.cfmt c (64 * k + n)), x.afmt.value (packedAt x.afmt u k)), 127, 127)]

/-- An integer pass (R84). -/
def Pass.isInt (x : Pass) : Bool := x.afmt.isInt

/-- A block's term: the LACC term in strict mode, else the block sum rounded once, or the exact integer (R85, R89). -/
def Pass.term (x : Pass) (v : Val) : Nat :=
  if x.strict then laccTerm v else if x.isInt then encodeInt 32 v else fp32 v
/-- The terms of column (or K-row) `n`, in the order in which the foot applies them. -/
def Pass.colTerms (x : Pass) (q r n : Nat) : List Nat :=
  (x.blocks q r n).map fun b => x.term (blockExact b.1 b.2.1 b.2.2)

/-- Outputs per row: 64 columns, or 32 K-rows in reverse. -/
def Pass.outputs (x : Pass) : Nat := if x.mode = .rev then 32 else 64
/-- Does a row of a pass write an output (R106, R108)? -/
def Pass.writes (x : Pass) (q r : Nat) : Bool :=
  decide (r < x.rows) && x.fed q r && (if x.mode = .slide then decide (x.width ≤ r) else true)
/-- The beat in which a row's output `n` is written (R97, R108, R109, R118, R119). -/
def Pass.writeBeat (x : Pass) (side : Bool) (r n : Nat) : Nat :=
  if x.mode = .streamed then x.b0 + 16 * x.s * (r + 1) + x.f
  else
    let q := r / x.rho
    let d := if x.mode = .rev then 64 else depth side
    x.b0 + x.s * (q + d + n) + x.f
/-- Accumulator row of an output row (R98, R108). -/
def Pass.target (x : Pass) (q r : Nat) : Nat :=
  nth 0 x.acc q + (if x.mode = .slide then r - x.width else r)
/-- Entry of output `n` (R110, R112). -/
def Pass.entry (x : Pass) (n : Nat) : Nat := if x.mode = .rev then 32 * x.half + n else n
/-- The half-slot of an entry (R111). -/
def halfOf (lacc : Bool) (row n : Nat) : Nat := accAddr lacc row n / 128

/-- Bytes [lo, hi) of the accumulator store that hold output `n` of an output row (R111, R112). -/
def Pass.span (x : Pass) (q r n : Nat) : Nat × Nat :=
  let a := accAddr x.strict (x.target q r) (x.entry n)
  (a, a + (if x.strict then 16 else 4))
/-- Has a pass still an output to write in the accumulator bytes [lo, hi)? -/
def Pass.holds (x : Pass) (lo hi : Nat) : Bool :=
  let rb := accRowBytes x.strict
  (List.range x.streams.length).any fun q => (List.range x.rows).any fun r =>
    decide (x.target q r * rb < hi) && decide (lo < x.target q r * rb + rb) && x.writes q r &&
      ((List.range x.outputs).drop (Map.get 0 x.done (q * 128 + r))).any fun n =>
        decide ((x.span q r n).1 < hi) && decide (lo < (x.span q r n).2)
/-- The passes of a tile, each with its side. -/
def Tile.allPasses (t : Tile) : List (Bool × Pass) :=
  (t.quad.passes.map fun x => (false, x)) ++ t.side.passes.map fun x => (true, x)
/-- Target rows of an ACCM that have not received their last addition (R114). -/
def Accm.openRows (a : Accm) : List Nat :=
  (List.range a.count).filterMap fun i =>
    if a.added ≤ (a.nsrc - 1) * a.count + i then some (a.acc + i) else none
/-- May an operation whose first beat is `b0` add in the accumulator bytes [lo, hi) now? The contributions to an entry are
added in the slot-M issue order of their operations (R98, R234, R238): one that comes earlier than those of an operation
issued before it waits for them (log entry 50). -/
def Tile.turn (t : Tile) (b0 lo hi : Nat) : Bool :=
  (t.allPasses.all fun e => decide (b0 ≤ e.2.b0) || !e.2.holds lo hi) &&
  match t.accm with
  | none => true
  | some a =>
    let rb := accRowBytes (a.sfmt = 2)
    match t.op? a.op with
    | some o => decide (b0 ≤ o.issue + 1) || a.openRows.all fun r => decide (hi ≤ r * rb) || decide (r * rb + rb ≤ lo)
    | none => true

/-- `foot_write` (R98) of one term. -/
def State.footTerm (s : State) (p : Nat) (x : Pass) (row n : Nat) (first : Bool) (term : Nat) : State :=
  let lacc := x.strict
  if first then (s.setAccEntry p lacc row n term).setHalf p (halfOf lacc row n) true
  else
    let old := s.accEntry p lacc row n
    s.setAccEntry p lacc row n
      (if lacc then laccAdd old term
       else if x.isInt then ofSigned 32 (sat32 (toSigned 32 old + toSigned 32 term))
       else addFp32 old term)

/-- Mark accumulator rows invalid in every half-slot they cover (R114). -/
def State.spoilRows (s : State) (p : Nat) (lacc : Bool) (rows : List Nat) : State :=
  s.setHalves p (rows.map (accHalves lacc)).flatten false

/-- A pass's rows whose last output is not written (R114): their accumulator rows. -/
def Pass.openRows (x : Pass) : List Nat :=
  ((List.range x.streams.length).map fun q =>
    ((List.range x.rows).filter fun r => x.writes q r && decide (Map.get 0 x.done (q * 128 + r) < x.outputs)).map
      (x.target q)).flatten

/-- A pass whose rows are all written and whose last beat is past leaves the engine. -/
def State.retirePasses (s : State) (p : Nat) (side : Bool) : State :=
  let e := (s.tile p).engine side
  let now := s.stamp (p / 13)
  s.setEngine p side { e with passes := e.passes.filter fun x =>
    !(x.openRows.isEmpty && decide (x.lastWrite side ≤ now)) }

/-! ### Drain (R115, R116, R232) -/

/-- DFMT of a drain; a reserved code, which R228 keeps from any static entry, counts as FP32 (DESIGN CHOICE, log entry 50). -/
def DrainE.fmt (e : DrainE) : Fmt := (Fmt.ofCode e.dfmt).getD .fp32
/-- Bytes of a destination row, elements only (R232). -/
def drainBytes (f : Fmt) : Nat := 8 * f.width
/-- Destination width of a level in bytes per beat (R116). -/
def drainWidth (level : Nat) : Nat := match level with | 0 => 512 | 1 => 256 | _ => 128

/-- DRAIN issues (R232). -/
def State.issueDrain (s : State) (p idx w : Nat) (t : Tile) : State :=
  let de := t.odtEntry (slotA w)
  let e := drainE de
  if odtKind de != 0xb then s.raiseTile p idx 0x300a
  else if t.drain.isSome then s.raiseDeadline p idx 0x5013
  else
    let amax := if e.sview = 2 then 255 else 1023
    if 0 < e.count && amax < e.srow + e.count - 1 then s.raiseTile p idx 0x300b
    else if 1024 ≤ (s.tile p).trackers then s.raiseTile p idx 0x3009
    else
      match s.flagFor t (slotCF w) e.flagx with
      | .error c => s.raiseTile p idx c
      | .ok (flag, note) =>
        let s := if note = 0 then s else s.raiseTile p idx note
        let now := s.stamp (p / 13)
        let tbl := p / 13
        let row := e.drow + (if e.ien then t.counter e.ictr else 0)
        let o : Op := { id := (s.tile p).nextOp, kind := .drain, bundle := idx, issue := now, deadline := s.lastCount tbl (s.lastBeat tbl),
                        tracked := e.count != 0, flag, n := e.count, started := true, phase := if e.count = 0 then 9 else 0 }
        if e.count = 0 then (if flag.isSome then s.modTile p (·.addOp o) else s)
        else
          let d : Drain :=
            { op := o.id, srow := e.srow, view := e.sview, count := e.count, fmt := e.fmt, dst := 64 * row,
              sc := 64 * e.scrow, clear := e.clear, row := 0, sub := 0, part := [], valid := true, pipe := [] }
          s.modTile p fun t => { (t.addOp o) with drain := some d }

/-- Pack element codes into bytes (R76). -/
def packCodes (f : Fmt) (l : List Nat) : List Byte :=
  leBytes (l.length * f.width / 8) ((l.zipIdx).foldl (fun a x => a + x.1 * 2 ^ (f.width * x.2)) 0)

/-- `convert` (R115): the element bytes and, for MX, the two scales of an accumulator row, from its bytes. -/
def drainRow (view : Nat) (f : Fmt) (valid : Bool) (row : List Byte) : List Byte × List Byte :=
  let size := if view = 2 then 16 else 4
  let raw := (List.range 64).map fun n => leAt row (size * n) size
  let val (c : Nat) : Val := if view = 0 then ofFp32 c else if view = 1 then Val.ofInt (toSigned 32 c) else laccValue c
  if f = .lacc then
    (packCodes .lacc (raw.map fun c => if valid then c else laccWord 0 false false false true), [])
  else if f.isMx then
    if valid then
      let (s0, e0) := toMx ((raw.take 32).map val) f
      let (s1, e1) := toMx ((raw.drop 32).map val) f
      (packCodes f (e0 ++ e1), [BitVec.ofNat 8 s0, BitVec.ofNat 8 s1])
    else (packCodes f (rep 64 0), [255#8, 255#8])
  else
    (packCodes f (raw.map fun c => f.encode (if valid then val c else .nan)), [])

/-- Bytes of a slot of the accumulator store, which a drain reads in one beat (R116): two half-slots. -/
def accSlotBytes : Nat := 256
/-- Slots of an accumulator row in a view (R116). -/
def accSlots (view : Nat) : Nat := if view = 2 then 4 else 1
/-- The half-slots of a slot (R111). -/
def slotHalves (slot : Nat) : List Nat := [2 * slot, 2 * slot + 1]
/-- Clear a slot: zero and valid (R115). -/
def State.clearAccSlot (s : State) (p slot : Nat) : State :=
  (s.writeAcc p (accSlotBytes * slot) (rep accSlotBytes 0#8)).setHalves p (slotHalves slot) true

/-- Beats of the row that a drain is at (R116). -/
def Drain.beats (d : Drain) : Nat :=
  max (accSlots d.view) (ceilDiv (drainBytes d.fmt) (drainWidth (rowLevel ((d.dst + d.row * drainBytes d.fmt) / 64))))
/-- Memory rows at which a drain's writes lie just now (R161): of its running row, and of the rows on their way. -/
def Drain.rowsNow (d : Drain) : List Nat :=
  let span (a n : Nat) : List Nat := [a / 64, (a + n - 1) / 64]
  (if d.row < d.count then
      span (d.dst + d.row * drainBytes d.fmt) (drainBytes d.fmt) ++ (if d.fmt.isMx then span (d.sc + 2 * d.row) 2 else [])
    else []) ++ (d.pipe.map fun x => span x.2.1 x.2.2.length).flatten

/-- Request the row writes of bytes at a byte address, grantable now (R156, R232). -/
def State.reqBytes (s : State) (p cls since : Nat) (o : Op) (addr : Nat) (l : List Byte) : State :=
  let rows := (addr + l.length + 63) / 64 - addr / 64
  (List.range rows).foldl (fun s i =>
    let row := addr / 64 + i
    let lo := if i = 0 then addr % 64 else 0
    let skip := 64 * row + lo - addr
    let n := min (64 - lo) (l.length - skip)
    if n = 0 then s else s.reqWriteAt p cls since o row (.write lo ((l.drop skip).take n) o.id)) s

/-- One source beat of a drain (R116): a slot is sampled, and cleared when CLEAR asks for it; the last slot of a row
gives its converted bytes to the pipe, 3 beats before the destination port. -/
def State.drainRead (s : State) (p : Nat) (d : Drain) : State × Drain :=
  if d.row < d.count && d.sub < accSlots d.view then
    let slot := accSlots d.view * (d.srow + d.row) + d.sub
    let part := d.part ++ s.readAcc p (accSlotBytes * slot) accSlotBytes
    let valid := d.valid && (slotHalves slot).all (s.halfValid p)
    let s := if d.clear then s.clearAccSlot p slot else s
    if d.sub + 1 = accSlots d.view then
      let (v, sc) := drainRow d.view d.fmt valid part
      let two := if d.fmt.isMx then [(3, d.sc + 2 * d.row, sc)] else []
      (s, { d with part := [], valid := true, pipe := d.pipe ++ [(3, d.dst + d.row * drainBytes d.fmt, v)] ++ two })
    else (s, { d with part, valid })
  else (s, d)

/-- A drain moves on by one beat of its running row (R116). -/
def Drain.tick (d : Drain) : Drain :=
  if d.row < d.count then
    if d.sub + 1 < d.beats then { d with sub := d.sub + 1 } else { d with sub := 0, row := d.row + 1 }
  else d

/-- One beat of a drain (R116, R161): it stalls while a pip instruction holds a level that its writes go to. -/
def State.drainBeat (s : State) (p : Nat) : State :=
  match (s.tile p).drain with
  | none => s
  | some d =>
    let now := s.stamp (p / 13)
    match (s.tile p).op? d.op with
    | none => s.modTile p fun t => { t with drain := none }
    | some o =>
      let holds := (s.tile p).pips.holds now
      if now ≤ o.issue || d.rowsNow.any (fun r => nth false holds (rowLevel r)) then s
      else
        let out := d.pipe.filter fun x => x.1 ≤ 1
        let pipe := (d.pipe.filter fun x => 1 < x.1).map fun x => (x.1 - 1, x.2)
        let s := out.foldl (fun s x => s.reqBytes p 2 s.age o x.2.1 x.2.2) s
        let (s, d) := s.drainRead p { d with pipe }
        let d := d.tick
        let done := d.row == d.count && d.pipe.isEmpty
        s.modTile p fun t =>
          { (t.modOp d.op fun o => { o with phase := if done then 9 else o.phase }) with drain := some d }

/-! ### ACCM (R225, R233) -/

/-- Memory rows of one accumulator row (R233). -/
def accmRows (sfmt : Nat) : Nat := if sfmt = 2 then 16 else 4
/-- Beats per accumulator row (R233). -/
def accmStep (sfmt level : Nat) : Nat :=
  max (ceilDiv (accmRows sfmt) (levelRate level)) (if sfmt = 2 then 4 else 1)

/-- Source rows of accumulator row `k` (block after block) of an ACCM. -/
def Accm.rows (a : Accm) (k : Nat) : List Nat :=
  (List.range (accmRows a.sfmt)).map (a.row0 + k / a.count * a.stride + k % a.count * accmRows a.sfmt + ·)
/-- The worst bank latency among the rows of accumulator row `k`; a row outside the map has none (R151). -/
def Accm.latency (a : Accm) (k : Nat) : Nat :=
  ((a.rows k).filter fun r => decide (r < mappedRows)).foldl (fun w r => max w (rowLatency r)) 0

/-- ACCM issues (R233). -/
def State.issueAccm (s : State) (p idx w : Nat) (t : Tile) : State :=
  let ce := t.odtEntry (slotA w)
  let e := collE ce
  if odtKind ce != 0xc then s.raiseTile p idx 0x300a
  else if t.accm.isSome then s.raiseDeadline p idx 0x5013
  else
    let amax := if e.sfmt = 2 then 255 else 1023
    if 0 < e.count && 0 < e.nsrc && amax < e.acc + e.count - 1 then s.raiseTile p idx 0x300b
    else if 1024 ≤ (s.tile p).trackers then s.raiseTile p idx 0x3009
    else
      match s.flagFor t (slotCF w) e.flagx with
      | .error c => s.raiseTile p idx c
      | .ok (flag, note) =>
        let s := if note = 0 then s else s.raiseTile p idx note
        let now := s.stamp (p / 13)
        let tbl := p / 13
        let so := if e.ien then t.counter e.ictr else 0
        let m := accmRows e.sfmt
        let k := e.nsrc * e.count
        let bad := e.pchk && decide (0 < t.poison)
        let row0 := e.srow + so
        let dr := accmStep e.sfmt (rowLevel row0)
        let o : Op := { id := (s.tile p).nextOp, kind := .accm, bundle := idx, issue := now, deadline := s.lastCount tbl (s.lastBeat tbl),
                        tracked := k != 0, flag, n := k, started := true, poisoned := bad, reads := m * k,
                        phase := if k = 0 then 9 else 0,
                        later := (List.range (m * k)).map fun j =>
                          let a := j / m
                          (now + a * dr, row0 + a / e.count * e.sstride + a % e.count * m + j % m, 0, 64, 64 * j) }
        if k = 0 then (if flag.isSome then s.modTile p (·.addOp { o with reads := 0 }) else s)
        else
          let a : Accm :=
            { op := o.id, nsrc := e.nsrc, sfmt := e.sfmt, acc := e.acc, count := e.count, first := e.first, bad, added := 0,
              dr, lag := dr - ceilDiv m (levelRate (rowLevel row0)), row0, stride := e.sstride, worst := 0, ready := [] }
          let a := { a with worst := (List.range k).foldl (fun w j => max w (a.latency j)) 0 }
          s.modTile p fun t => { (t.addOp o) with accm := some a }

/-- Add one block row of an ACCM (R233). -/
def State.accmAdd (s : State) (p : Nat) (a : Accm) (k : Nat) (v : List Byte) : State :=
  let lacc := a.sfmt = 2
  let row := a.acc + k % a.count
  if k / a.count = 0 && a.first then
    (s.writeAcc p (row * accRowBytes lacc) v).setHalves p (accHalves lacc row) true
  else
    (List.range 64).foldl (fun s n =>
      let old := s.accEntry p lacc row n
      let t := leAt v (if lacc then 16 * n else 4 * n) (if lacc then 16 else 4)
      s.setAccEntry p lacc row n
        (if lacc then laccAdd old t
         else if a.sfmt = 1 then ofSigned 32 (sat32 (toSigned 32 old + toSigned 32 t))
         else addFp32 old t)) s

/-- The beat in which row `k` of an ACCM is added, whose bytes were complete at stamp `b` (R233): that of an ACCM without
contention, or as many beats later as its reads were late. A row outside the map is never late. -/
def Accm.addBeat (a : Accm) (issue k b : Nat) : Nat :=
  let free := issue + a.worst + (k + 1) * a.dr + 2
  if (a.rows k).any fun r => decide (r < mappedRows) then max free (b + 3 + a.lag + a.worst - a.latency k) else free

/-- Rows of an ACCM that are added in this beat (R233): in order, each once its beat has come and the contributions of
operations issued before the ACCM are in. -/
def Tile.accmDue (t : Tile) (a : Accm) (o : Op) (now : Nat) : Nat :=
  let rb := accRowBytes (a.sfmt = 2)
  (((List.range (o.n - a.added)).map (a.added + ·)).takeWhile fun k =>
    let row := a.acc + k % a.count
    match a.ready.find? (·.1 = k) with
    | some (_, b) => decide (a.addBeat o.issue k b ≤ now) && t.turn (o.issue + 1) (row * rb) (row * rb + rb)
    | none => false).length

/-- One beat of an ACCM: rows whose bytes have come, and that the adders have finished, are added (R233). -/
def State.accmBeat (s : State) (p : Nat) : State :=
  match (s.tile p).accm with
  | none => s
  | some a =>
    match (s.tile p).op? a.op with
    | none => s.modTile p fun t => { t with accm := none }
    | some o =>
      let now := s.stamp (p / 13)
      let rb := accRowBytes (a.sfmt = 2)
      let due := (s.tile p).accmDue a o now
      let s := (List.range due).foldl (fun s i =>
        s.accmAdd p a (a.added + i) (unitBytes o.buf ((a.added + i) * rb) rb)) s
      let a := { a with added := a.added + due, ready := a.ready.filter fun e => decide (a.added + due ≤ e.1) }
      let more := ((List.range (o.n - a.added)).map (a.added + ·)).filter fun k =>
        !(a.ready.any (·.1 = k)) && unitsReady o.buf (k * rb) rb
      let a := { a with ready := a.ready ++ more.map fun k => (k, now) }
      if a.added = o.n then
        let s := if a.bad then s.spoilRows p (a.sfmt = 2) ((List.range a.count).map (a.acc + ·)) else s
        s.modTile p fun t => { (t.modOp a.op fun o => { o with phase := 9 }) with accm := none }
      else s.modTile p fun t => { t with accm := some a }

/-! ### Shuffle (R226, R235) -/

/-- Distinct rows that byte ranges of one size touch, ascending. -/
def touchedRows (starts : List Nat) (len : Nat) : List Nat :=
  if len = 0 then []
  else
    let l := (starts.map fun a => (List.range ((a + len - 1) / 64 - a / 64 + 1)).map (a / 64 + ·)).flatten
    sortBy (fun a b => decide (a ≤ b)) l.eraseDups

/-- Source rows of the first stage of a SHUF: the rows a transpose reads, or the index rows of a permute. -/
def ShufE.sources (e : ShufE) : List Nat :=
  if e.op = 0 then
    if e.nc = 0 then [] else touchedRows ((List.range e.nr).map fun i => 64 * e.srow + 16 * e.spitch * i) (2 ^ e.esz * e.nc)
  else (List.range (ceilDiv e.n 32)).map (e.idx + ·)

/-- SHUF issues (R235). -/
def State.issueShuf (s : State) (p idx w : Nat) (t : Tile) : State :=
  let we := t.odtEntry (slotA w)
  let e := shufE we
  if odtKind we != 0xd then s.raiseTile p idx 0x300a
  else if t.shuf.isSome then s.raiseDeadline p idx 0x5013
  else if 1024 ≤ (s.tile p).trackers then s.raiseTile p idx 0x3009
  else
    match s.flagFor t (slotCF w) e.flagx with
    | .error c => s.raiseTile p idx c
    | .ok (flag, note) =>
      let s := if note = 0 then s else s.raiseTile p idx note
      let tbl := p / 13
      let src := e.sources
      let none_ := src.isEmpty || (e.op = 0 && e.nr = 0)
      let o : Op := { id := (s.tile p).nextOp, kind := .shuf, bundle := idx, issue := s.stamp tbl,
                      deadline := s.lastCount tbl (s.lastBeat tbl), tracked := !none_, flag, started := true,
                      reads := src.length, phase := if none_ then 9 else 0 }
      if none_ then (if flag.isSome then s.modTile p (·.addOp { o with reads := 0 }) else s)
      else
        let s := s.modTile p fun t => { (t.addOp o) with shuf := some (o.id, BitVec.ofNat 128 we) }
        (src.zipIdx).foldl (fun s r => s.reqRead p o r.1 0 64 (64 * r.2)) s

/-- The destination bytes of a transpose: later elements stand over earlier ones (R235). NR and NC run as their seven bits
spell them, above 64 too (DESIGN CHOICE, log entry 50: R226 gives 0 to 64 and no effect beyond). -/
def trnCells (e : ShufE) (src : List Nat) (buf : List (Nat × List Byte)) : List Host.Cell :=
  let z := 2 ^ e.esz
  let at_ (a : Nat) : Byte :=
    let i := src.findIdx (· = a / 64)
    (unitBytes buf (64 * i) 64).getD (a % 64) 0#8
  ((List.range e.nr).map fun i => (List.range e.nc).map fun j => (i, j)).flatten.foldl (fun m ij =>
    (List.range z).foldl (fun m b =>
      Map.put m (64 * e.drow + 16 * e.dpitch * ij.2 + z * ij.1 + b)
        (at_ (64 * e.srow + 16 * e.spitch * ij.1 + z * ij.2 + b))) m) []

/-- One beat of a SHUF: its stages follow when the reads before them are done (R235). -/
def State.shufBeat (s : State) (p : Nat) : State :=
  match (s.tile p).shuf with
  | none => s
  | some (id, we) =>
    match (s.tile p).op? id with
    | none => s.modTile p fun t => { t with shuf := none }
    | some o =>
      let e := shufE we.toNat
      let tbl := p / 13
      if o.reads ≠ 0 || o.phase = 9 then s
      else if e.op = 0 then
        let cells := trnCells e e.sources o.buf
        let rows := (cells.map fun c => c.1 / 64).eraseDups
        let s := rows.foldl (fun s row => s.reqWriteAt p 4 (s.ageAt (s.countIn tbl 6)) o row
          (.mask ((cells.filter fun c => c.1 / 64 = row).map fun c => (c.1 % 64, c.2)) o.id)) s
        s.modTile p (·.modOp id fun o => { o with phase := 9 })
      else if o.phase = 0 then
        let x (i : Nat) : Nat := leNat (((unitBytes o.buf (64 * (i / 32)) 64).drop (2 * (i % 32))).take 2)
        let o' := { o with phase := 1, reads := e.n, buf := [] }
        let s := s.modTile p (·.modOp id fun _ => o')
        (List.range e.n).foldl (fun s i => s.reqReadAt p (s.ageAt (s.countIn tbl 2)) o' (e.srow + x i) 0 64 (64 * i)) s
      else
        let s := (List.range e.n).foldl (fun s i =>
          s.reqWriteAt p 4 (s.ageAt (s.countIn tbl 2)) o (e.drow + i) (.write 0 (unitBytes o.buf (64 * i) 64) id)) s
        s.modTile p (·.modOp id fun o => { o with phase := 9 })

/-- The drain and the shuffle unit are free again once their operation has ended (R219): its writes are in their banks. -/
def Tile.freeUnits (t : Tile) : Tile :=
  let runs (id : Nat) : Bool := t.ops.any fun o => o.id == id && o.tracked
  { t with drain := t.drain.filter fun d => runs d.op, shuf := t.shuf.filter fun x => runs x.1 }

/-! ### The tick's last beat (R51, R114, R126) -/

/-- An engine's work still in flight at the last beat is cut off (R51, R102, R114). A pass whose last write, or a load
whose last chunk, falls in that beat finishes within it (R50). The planes that a cut-off pass has exchanged at its b0 stay
exchanged, in every cell (log entry 45). -/
def State.cutEngine (s : State) (p : Nat) (side : Bool) : State :=
  let t := s.tile p
  let now := s.stamp (p / 13)
  let e := (t.engine side).takeLoad side
  let stops (l : LoadOp) : Bool := !l.full
  let late (x : Pass) : Bool := decide (now < x.lastWrite side)
  let s := s.setEngine p side { e with load := e.load.filter fun l => !stops l, passes := e.passes.filter fun x => !late x }
  let s := match e.load with
    | some l => if stops l then s.raiseDeadline p l.bundle 0x5012 else s
    | none => s
  (e.passes.filter late).foldl (fun s x => (s.spoilRows p x.strict x.openRows).raiseDeadline p x.bundle 0x5012) s

/-- A slot-M operation with a tracker is cut off: it writes no flag (R51). -/
def State.cutOp (s : State) (p id : Nat) : State :=
  match (s.tile p).op? id with
  | some o =>
    let s := s.modTile p fun t =>
      let t := t.dropOp id
      { t with reqs := t.reqs.filter fun r => match r.use with
          | .toOp i _ _ _ => i != id
          | .write _ _ i => i != id
          | .mask _ i => i != id
          | _ => true }
    s.raiseDeadline p o.bundle 0x5012
  | none => s

/-- Does a tracked slot-M operation finish within the running beat (R50)? -/
def Tile.endsNow (t : Tile) (now : Nat) (o : Op) : Bool :=
  let waits := t.reqs.any fun r => match r.use with | .write _ _ i => i == o.id | .mask _ i => i == o.id | _ => false
  !waits && (o.phase == 9 ||
    (match t.accm with
     | some a => a.op == o.id && a.added + t.accmDue a o now == o.n
     | none => false))

/-- Every slot-M operation of a position that is still in flight is cut off (R51, R114). -/
def State.cutMatrix (s : State) (p : Nat) : State :=
  let s := (s.cutEngine p false).cutEngine p true
  let t := s.tile p
  let now := s.stamp (p / 13)
  let cut := t.ops.filter fun o =>
    o.tracked && (o.kind = .drain || o.kind = .accm || o.kind = .shuf) && !t.endsNow now o
  let gone (id : Nat) : Bool := cut.any fun o => o.id = id
  let s := match t.accm with
    | some a => if gone a.op then s.spoilRows p (a.sfmt = 2) a.openRows else s
    | none => s
  let s := s.modTile p fun t =>
    { t with drain := t.drain.filter fun d => !gone d.op, accm := t.accm.filter fun a => !gone a.op,
             shuf := t.shuf.filter fun x => !gone x.1 }
  cut.foldl (fun s o => s.cutOp p o.id) s

end Sys2Proof.Machine
end

