-- ==== Sys2Proof/Machine/Flags.lean ====
section
/-! DEFINITION. Conditions and flag words: pip compares (R131), pip branch conditions (R145), dealer counter
conditions (R198), and the value a completion flag carries (R207). -/

namespace Sys2Proof.Machine

/-- FCMP by fn (R131): NaN makes EQ, LT and LE false, and -0 equals +0. -/
def fcmp (fn a b : Nat) : Bool :=
  match (ofFp32 a).cmp (ofFp32 b), fn with
  | none, 3 => true
  | none, _ => false
  | some o, 0 => o == .eq
  | some o, 1 => o == .lt
  | some o, 2 => o != .gt
  | some _, _ => false

/-- ICMP by fn (R131). -/
def icmp (fn a b : Nat) : Bool :=
  let x := toSigned 32 a
  let y := toSigned 32 b
  match fn with
  | 0 => a == b
  | 1 => a != b
  | 2 => decide (x < y)
  | 3 => decide (x ≤ y)
  | 4 => decide (a < b)
  | _ => decide (a ≤ b)

/-- BR and BRK condition over the P of the active pips (R145). -/
def pipCond (cond : Nat) (ps : List Bool) : Bool :=
  match cond with
  | 0 => true
  | 1 => ps.all id
  | 2 => ps.any id
  | _ => ps.all (!·)

end Sys2Proof.Machine
end

