-- ==== Sys2Proof/Machine/Pips.lean ====
section
/-! DEFINITION. The pips (R121 to R148): issue, results on their way, memory instructions, the parameter cache, the
reduction tree, control, and one meaning per pip command. A pip command is the issue of the instruction at PC; it
changes nothing when that instruction is another one or cannot issue in this beat (R133). -/

namespace Sys2Proof.Machine

/-! ### Registers and results (R121, R133) -/

/-- Key of a pip register. -/
def pipKey (i r : Nat) : Nat := i * 32 + r
/-- Key of a pip's P among the results on their way. -/
def pipPKey (i : Nat) : Nat := 2048 + i

/-- A pip register as it stands; g0 reads 0 (R121). -/
def Pips.reg (x : Pips) (i r : Nat) : Nat := if r = 0 then 0 else (Map.get 0#32 x.regs (pipKey i r)).toNat
/-- A pip's P. -/
def Pips.cond (x : Pips) (i : Nat) : Bool := Map.get false x.p i
/-- Write a pip register; a write to g0 is discarded (R121). -/
def Pips.setReg (x : Pips) (i r : Nat) (v : Word) : Pips :=
  if r = 0 then x else { x with regs := Map.set 0#32 x.regs (pipKey i r) v }
/-- Write a pip's P. -/
def Pips.setCond (x : Pips) (i : Nat) (v : Bool) : Pips := { x with p := Map.set false x.p i v }
/-- A line of a pip's parameter cache (R139). -/
def Pips.line (x : Pips) (i idx : Nat) : Line := Map.get {} x.cache (i * 32 + idx)

/-- Put one result in its register or P. -/
def Pips.commit (x : Pips) (r : PipPend) : Pips :=
  if r.key < 2048 then x.setReg (r.key / 32) (r.key % 32) r.value
  else x.setCond (r.key - 2048) (r.value != 0)
/-- Results whose ready beat has come are in their registers (R133), each written in its own beat: a result of the
previous dispatch that becomes ready behind beat t + 1 replaces the g31 that the new dispatch set there (R124;
DESIGN CHOICE, log entry 46). -/
def Pips.settle (x : Pips) (now : Nat) : Pips :=
  { (sortBy (fun a b => decide (a.due ≤ b.due)) (x.pend.filter fun r => decide (r.due ≤ now))).foldl Pips.commit x with
    pend := x.pend.filter fun r => decide (now < r.due) }
/-- Put a result on its way. -/
def Pips.give (x : Pips) (i r due v : Nat) : Pips :=
  { x with pend := x.pend ++ [{ key := pipKey i r, due, value := BitVec.ofNat 32 v }] }
/-- Put a P on its way. -/
def Pips.giveCond (x : Pips) (i due : Nat) (v : Bool) : Pips :=
  { x with pend := x.pend ++ [{ key := pipPKey i, due, value := BitVec.ofNat 32 (b2n v) }] }
/-- A register of a pip has a result outstanding (R133). -/
def Pips.waits (x : Pips) (i r : Nat) : Bool :=
  r != 0 && (x.pend.any (fun q => q.key == pipKey i r) ||
    x.acc.any fun a => match a.use with
      | .load l | .fill l => l.any fun q => q.1 == i && q.2.1 == r
      | .store => false)

/-- The pips that the running dispatch selects (R124). -/
def Pips.active (x : Pips) : List Nat :=
  match x.run with
  | some d => (List.range 64).filter (bit d.mask)
  | none => []
/-- The lowest-numbered active pip (R135). -/
def Pips.lead (x : Pips) : Nat := x.active.headD 0
/-- The instruction of a pip at PC (R123). -/
def Pips.instr (x : Pips) (i : Nat) : PipFields := pipFields (Map.get 0#32 x.istore (i * 2048 + x.pc)).toNat

/-- Every register that a pip's instruction needs is ready (R133). -/
def Pips.ready (x : Pips) (i : Nat) : Bool :=
  let f := x.instr i
  f.fnOk && (f.reads ++ f.writes).all (fun r => !x.waits i r) &&
    (if f.op = 0x19 then !x.waits ((i + f.imm) % 64) f.a && !x.waits i f.a else true)
/-- The pip path is free (R133, R136): an instruction holds it for as many beats as its rows take, counted from its
issue beat, so the next one issues when the beat's grants serve what is left (log entry 15). -/
def Pips.pathFree (x : Pips) : Bool :=
  x.acc.all fun a => (List.range 3).all fun v => decide ((nth [] a.wait v).length ≤ levelRate v)

/-- May the instruction at PC issue at this stamp, and is it opcode `op` (R124, R125, R133)? A register that the lead alone
reads, and one that XCH reads in another pip, must be there in every active pip as well. -/
def Pips.canIssue (x : Pips) (now op : Nat) : Bool :=
  match x.run with
  | none => false
  | some d =>
    let f := x.instr x.lead
    decide (d.last < now) && f.op == op && x.active.all x.ready &&
    (if f.isMem then x.pathFree else true) &&
    (if f.op = 0x12 || f.op = 0x15 then x.active.all fun i => !x.waits i f.a else true) &&
    (if f.op = 0x1e then x.active.all fun i => !x.waits i (bits f.word 10 5) else true) &&
    (if f.op = 0x01 then x.acc.isEmpty && decide (x.memDone < now) else true)

/-! ### Sequencing (R146) -/

/-- `count_down` (R146): ends one iteration of each loop whose end is `e`, innermost first, until one continues. -/
def countDown (e : Nat) : List LoopFrame → Nat × List LoopFrame
  | [] => ((e + 1) % 2048, [])
  | f :: fs =>
    if f.stop = e then
      if f.left - 1 > 0 then (f.start, { f with left := f.left - 1 } :: fs)
      else countDown e fs
    else ((e + 1) % 2048, f :: fs)

/-- The instruction at PC has issued in this beat (R133). -/
def Pips.issued (x : Pips) (now : Nat) : Pips :=
  { x with run := x.run.map fun d => { d with last := now } }
/-- PC after an instruction that does not steer the sequencer (R146 at_end_of_body). -/
def Pips.advance (x : Pips) : Pips :=
  let (pc, st) := countDown x.pc x.stack
  { x with pc := pc, stack := st }

/-- The result of an instruction in each active pip: ready `n` beats after issue (R130, R133). -/
def Pips.each (x : Pips) (now n : Nat) (val : Pips → Nat → PipFields → Nat) : Pips :=
  (x.active.foldl (fun y i => y.give i (x.instr i).d (now + n) (val x i (x.instr i))) x).advance.issued now
/-- A condition in each active pip (R130). -/
def Pips.eachCond (x : Pips) (now : Nat) (val : Pips → Nat → PipFields → Bool) : Pips :=
  (x.active.foldl (fun y i => y.giveCond i (now + 1) (val x i (x.instr i))) x).advance.issued now

/-! ### Functions of the arithmetic opcodes (R131, R147, R148) -/

/-- FALU fn 0 to 6 on a format (R131). -/
def falu (f : Fmt) (fn a b : Nat) : Nat :=
  match fn with
  | 0 => f.encode (Val.sum [f.value a, f.value b])
  | 1 => f.encode (Val.sum [f.value a, (f.value b).negate])
  | 2 => f.encode ((f.value a).mul (f.value b))
  | 3 => fminmax f false a b
  | 4 => fminmax f true a b
  | 5 => if f.value a = .nan then f.encode .nan else a % 2 ^ (f.width - 1)
  | _ => if f.value a = .nan then f.encode .nan else a ^^^ 2 ^ (f.width - 1)

/-- Both BF16 lanes of a word (R130). -/
def lanes2 (g : Nat → Nat → Nat → Nat) (a b c : Nat) : Nat :=
  g (bits a 0 16) (bits b 0 16) (bits c 0 16) + g (bits a 16 16) (bits b 16 16) (bits c 16 16) * 2 ^ 16

/-- IALU (R131): wraps modulo 2^32; shifts use b[4:0]. -/
def ialu (fn a b : Nat) : Nat :=
  let sa := toSigned 32 a
  let sb := toSigned 32 b
  let n := b % 32
  match fn with
  | 0 => (a + b) % 2 ^ 32
  | 1 => (a + 2 ^ 32 - b) % 2 ^ 32
  | 2 => (a * b) % 2 ^ 32
  | 3 => a &&& b
  | 4 => a ||| b
  | 5 => a ^^^ b
  | 6 => (a * 2 ^ n) % 2 ^ 32
  | 7 => a / 2 ^ n
  | 8 => ofSigned 32 (sa / (2 ^ n : Nat))
  | 9 => if sa < sb then a else b
  | 10 => if sa < sb then b else a
  | 11 => min a b
  | _ => max a b

/-- `mix32` (R147). -/
def mix32 (x y : Nat) : Nat :=
  let z := x ^^^ ((y * 0x9e3779b9) % 2 ^ 32)
  let z := ((z ^^^ (z / 2 ^ 16)) * 0x85ebca6b) % 2 ^ 32
  let z := ((z ^^^ (z / 2 ^ 13)) * 0xc2b2ae35) % 2 ^ 32
  z ^^^ (z / 2 ^ 16)
/-- RND (R147). -/
def rndValue (fn a b : Nat) : Nat :=
  let z := mix32 a b
  if fn = 0 then z else fp32 (.fin false (z / 2 ^ 8) (-24))

/-- SFU (R93, R130). -/
def sfuValue (fn a : Nat) : Nat :=
  let v := ofFp32 a
  match fn with
  | 0 => sfuExp v
  | 1 => sfuRcp v
  | 2 => sfuRsq v
  | 3 => sfuSig v
  | _ => sfuSilu v

/-- Truncation toward zero, with R81 (R148 fn 0x03). -/
def truncInt32 (v : Val) : Nat :=
  match v with
  | .fin n m e =>
    let q := if 0 ≤ e then m * 2 ^ e.toNat else m / 2 ^ (-e).toNat
    ofSigned 32 (sat32 (if n then -(q : Int) else q))
  | v => encodeInt 32 v

/-- CVT (R148). -/
def cvtValue (fn a b : Nat) : Nat :=
  let v := ofFp32 a
  let byte (i : Nat) := bits a (8 * i) 8
  if fn = 0x00 then Fmt.bf16.encode v
  else if fn = 0x01 then Fmt.fp16.encode v
  else if fn = 0x02 then encodeInt 32 v
  else if fn = 0x03 then truncInt32 v
  else if fn = 0x04 then fp32 (Val.ofInt (toSigned 32 a))
  else if fn ≤ 0x06 then fp32 (Fmt.bf16.value (bits a (16 * (fn - 5)) 16))
  else if fn ≤ 0x08 then fp32 (Fmt.fp16.value (bits a (16 * (fn - 7)) 16))
  else if fn ≤ 0x0c then fp32 (Fmt.e4m3.value (byte (fn - 0x09)))
  else if fn ≤ 0x10 then fp32 (Fmt.e5m2.value (byte (fn - 0x0d)))
  else if fn = 0x11 then Fmt.e4m3.encode v
  else if fn = 0x12 then Fmt.e5m2.encode v
  else if fn ≤ 0x16 then ofSigned 32 (toSigned 8 (byte (fn - 0x13)))
  else if fn = 0x17 then encodeInt 8 (Val.ofInt (toSigned 32 a))
  else Fmt.bf16.encode v + Fmt.bf16.encode (ofFp32 b) * 2 ^ 16

/-! ### Reduction (R142) -/

/-- One level of the tree: node `j` combines 2j on the left with 2j + 1 on the right. -/
def redLevel {α : Type} (f : α → α → α) : List α → List α
  | a :: b :: l => f a b :: redLevel f l
  | l => l
/-- The six levels of the tree (R142). -/
def redTree {α : Type} (f : α → α → α) (d : α) (l : List α) : α :=
  ((List.range 6).foldl (fun l _ => redLevel f l) l).headD d

/-- Node operation of RED fn 0 to 7 (R142). -/
def redNode (fn a b : Nat) : Nat :=
  match fn with
  | 0 => addFp32 a b
  | 1 => fminmax .fp32 true a b
  | 2 => fminmax .fp32 false a b
  | 3 => (a + b) % 2 ^ 32
  | 4 => ialu 10 a b
  | 5 => ialu 9 a b
  | 6 => a &&& b
  | _ => a ||| b
/-- Identity of an inactive pip (R142). -/
def redIdentity : Nat → Nat
  | 0 => 0x80000000
  | 1 => 0xff800000
  | 2 => 0x7f800000
  | 3 => 0
  | 4 => 0x80000000
  | 5 => 0x7fffffff
  | 6 => 0xffffffff
  | _ => 0
/-- ARGMAX node (R142): the larger wins, NaN above every number, the left on equal; an inactive pip loses. -/
def argmaxNode (a b : Option (Nat × Nat)) : Option (Nat × Nat) :=
  match a, b with
  | none, b => b
  | a, none => a
  | some x, some y =>
    if ofFp32 x.1 = .nan then a
    else if ofFp32 y.1 = .nan then b
    else if (ofFp32 x.1).cmp (ofFp32 y.1) = some .lt then b
    else a

/-- The result of RED over the 64 pips: the value for d, and the winner's index for c. -/
def Pips.red (x : Pips) (fn : Nat) : Nat × Nat :=
  let on (i : Nat) : Bool := x.active.contains i
  if fn = 9 then (((List.range 64).filter fun i => on i && x.cond i).length, 0)
  else if fn = 8 then
    match redTree argmaxNode none ((List.range 64).map fun i =>
        if on i then some (x.reg i (x.instr i).a, i) else none) with
    | some (v, i) => (if ofFp32 v = .nan then fp32 .nan else v, i)
    | none => (0, 0)
  else
    (redTree (redNode fn) 0 ((List.range 64).map fun i =>
      if on i then x.reg i (x.instr i).a else redIdentity fn), 0)

/-! ### Memory instructions (R134 to R139) -/

/-- Byte address that a pip forms (R134, R135). The images of the pips may differ: LDS and STS take field a from the
lead's instruction, since the base is the lead's, and imm16 from each pip's own (DESIGN CHOICE, log entry 46). -/
def Pips.address (x : Pips) (i : Nat) : Nat :=
  let f := x.instr i
  if f.op = 0x12 || f.op = 0x15 then
    ofSigned 32 ((x.reg x.lead (x.instr x.lead).a : Int) + toSigned 16 f.imm * i)
  else (x.reg i f.a + f.simm) % 2 ^ 32
/-- Does a pip address map to memory (R134)? -/
def pipMapped (a : Nat) : Bool := bits a 23 9 == 0 && decide (bits a 0 23 / 64 < mappedRows)
/-- Row of a pip address; the sentinel row for an address that faults. -/
def pipRow (a : Nat) : Nat := if pipMapped a then bits a 0 23 / 64 else mappedRows

/-- Distinct rows of a list, one list per level (R136). -/
def rowsByLevel (l : List Nat) : List (List Nat) :=
  let u := (l.filter (· < mappedRows)).eraseDups
  (List.range 3).map fun v => u.filter (rowLevel · = v)

/-- The (row, cells) lists of stores: later pips replace earlier ones (R138). -/
def storeRows (l : List (Nat × Nat × Nat)) : List (Nat × List Host.Cell) :=
  l.foldl (fun m w =>
    Map.put m w.1 (putCells (Map.get [] m w.1) w.2.1 (leBytes 4 w.2.2))) []

/-- Put a load on the pip path. -/
def Pips.load (x : Pips) (now : Nat) (pips : List Nat) (fill : Bool) : Pips :=
  let l := pips.map fun i => (i, (x.instr i).d, pipRow (x.address i), bits (x.address i) 2 4)
  { x with acc := x.acc ++ [{ wait := rowsByLevel (l.map (·.2.2.1)), bank := [], got := [], stores := [],
                              use := if fill then .fill l else .load l, issue := now }] }
/-- Put a store on the pip path. -/
def Pips.store (x : Pips) (now : Nat) (pips : List Nat) : Pips :=
  let l := (pips.filter fun i => pipMapped (x.address i)).map fun i =>
    (pipRow (x.address i), 4 * bits (x.address i) 2 4, x.reg i (x.instr i).d)
  { x with acc := x.acc ++ [{ wait := rowsByLevel (l.map (·.1)), bank := [], got := [], stores := storeRows l,
                              use := .store, issue := now }] }

/-- Write what a finished memory instruction read (R136, R139). An LDP whose address faults writes 0 and leaves the line as it
was (DESIGN CHOICE, log entry 46: `ldp` would fill it with what the faulting read returns). -/
def Pips.finish (x : Pips) (a : PipAcc) : Pips :=
  let word (row w : Nat) : Word := BitVec.ofNat 32 (rowWord (Map.get [] a.got row) w)
  match a.use with
  | .store => x
  | .load l => l.foldl (fun y q => y.setReg q.1 q.2.1 (if q.2.2.1 < mappedRows then word q.2.2.1 q.2.2.2 else 0)) x
  | .fill l => l.foldl (fun y q =>
      if q.2.2.1 < mappedRows then
        let y := y.setReg q.1 q.2.1 (word q.2.2.1 q.2.2.2)
        let data := (List.range 16).map fun w => word q.2.2.1 w
        { y with cache := Map.set {} y.cache (q.1 * 32 + q.2.2.1 % 32)
                   { valid := true, tag := q.2.2.1 / 32, data } }
      else y.setReg q.1 q.2.1 0) x

/-- An access whose rows are all served (R136): it completes one beat after its last bank beat. One that touches no row
has no level that counts, and completes one beat after its issue (DESIGN CHOICE, log entry 46). -/
def PipAcc.served (a : PipAcc) (now : Nat) : Bool :=
  a.wait.all (·.isEmpty) && a.bank.isEmpty && decide (a.issue < now) && decide (a.seen < now)

/-! ### Starting a dispatch (R124, R237) -/

/-- Start a dispatch: g31, P, PC and the loop stack (R124). -/
def Pips.start (x : Pips) (now bundle entry mask arg : Nat) : Pips :=
  let x := (List.range 64).foldl (fun y i =>
    if bit mask i then (y.give i 31 (now + 1) arg).giveCond i (now + 1) false else y) x
  { x with pc := entry % 2048, stack := [], run := some { mask, issue := now, bundle, last := now + 1 } }

/-! ### The meanings -/

/-- The pips of a position with the results of the running beat in place. -/
def State.pipsAt (s : State) (p : Nat) : Pips := (s.tile p).pips.settle (s.stamp (p / 13))
/-- Replace the pips of a position. -/
def State.setPips (s : State) (p : Nat) (x : Pips) : State := s.modTile p fun t => { t with pips := x }
/-- Does the instruction `op` issue now at a position? -/
def State.pipIssues (s : State) (p op : Nat) : Bool := (s.pipsAt p).canIssue (s.stamp (p / 13)) op
/-- A pip command: the instruction's effect when it issues in this beat, nothing otherwise. -/
def State.pipRun (s : State) (p op : Nat) (f : Pips → Nat → Pips) : Res :=
  within p 208 (.next (if s.pipIssues p op then s.setPips p (f (s.pipsAt p) (s.stamp (p / 13))) else s))

/-- Value of MOVS `imm` (R132). -/
def State.special (s : State) (p i imm : Nat) : Nat :=
  let lt := s.ltileOf p
  match imm with
  | 0 => i
  | 1 => lt % 12
  | 2 => p / 13
  | 3 => lt
  | 4 => s.lnk.dev
  | 5 => s.tableBeat (p / 13)
  | 6 => s.tick % 2 ^ 32
  | 7 => s.tick / 2 ^ 32 % 2 ^ 16
  | _ => (s.table (p / 13)).phase

/-- NOP (R130). -/
def execPipNop (p : Nat) (s : State) : Res := s.pipRun p 0x00 fun x now => x.advance.issued now
/-- HALT (R125): the dispatch ends in its issue beat; its beats count as busy (R128). -/
def execHalt (p : Nat) (s : State) : Res :=
  within p 208 (.next (
    if s.pipIssues p 0x01 then
      let x := s.pipsAt p
      let now := s.stamp (p / 13)
      let busy := match x.run with | some d => now - d.issue | none => 0
      s.modTile p fun t => { t with pips := { x with run := none, ended := now + 1 },
                                    busy := { t.busy with pips := t.busy.pips + busy } }
    else s))
/-- FMA (R92, R130). -/
def execFma (p : Nat) (s : State) : Res := s.pipRun p 0x02 fun x now =>
  x.each now 4 fun x i f => fma .fp32 (x.reg i f.a) (x.reg i f.b) (x.reg i f.c)
/-- FALU (R130, R131). -/
def execFalu (p : Nat) (s : State) : Res := s.pipRun p 0x03 fun x now =>
  x.each now 4 fun x i f => falu .fp32 f.fn (x.reg i f.a) (x.reg i f.b)
/-- BFMA (R92, R130). -/
def execBfma (p : Nat) (s : State) : Res := s.pipRun p 0x04 fun x now =>
  x.each now 4 fun x i f => lanes2 (fma .bf16) (x.reg i f.a) (x.reg i f.b) (x.reg i f.c)
/-- BALU (R130, R131). -/
def execBalu (p : Nat) (s : State) : Res := s.pipRun p 0x05 fun x now =>
  x.each now 4 fun x i f => lanes2 (fun a b _ => falu .bf16 f.fn a b) (x.reg i f.a) (x.reg i f.b) 0
/-- FCMP (R131). -/
def execFcmp (p : Nat) (s : State) : Res := s.pipRun p 0x06 fun x now =>
  x.eachCond now fun x i f => fcmp f.fn (x.reg i f.a) (x.reg i f.b)
/-- IALU (R131). -/
def execIalu (p : Nat) (s : State) : Res := s.pipRun p 0x07 fun x now =>
  x.each now 1 fun x i f => ialu f.fn (x.reg i f.a) (x.reg i f.b)
/-- ICMP (R131). -/
def execIcmp (p : Nat) (s : State) : Res := s.pipRun p 0x08 fun x now =>
  x.eachCond now fun x i f => icmp f.fn (x.reg i f.a) (x.reg i f.b)
/-- SEL (R130). -/
def execSel (p : Nat) (s : State) : Res := s.pipRun p 0x09 fun x now =>
  x.each now 1 fun x i f => if x.cond i then x.reg i f.a else x.reg i f.b
/-- ADDI (R130). -/
def execAddi (p : Nat) (s : State) : Res := s.pipRun p 0x0a fun x now =>
  x.each now 1 fun x i f => (x.reg i f.a + f.simm) % 2 ^ 32
/-- LUI (R130). -/
def execLui (p : Nat) (s : State) : Res := s.pipRun p 0x0b fun x now =>
  x.each now 1 fun _ _ f => f.imm * 2 ^ 16
/-- ORI (R130). -/
def execOri (p : Nat) (s : State) : Res := s.pipRun p 0x0c fun x now =>
  x.each now 1 fun x i f => x.reg i f.a ||| f.imm
/-- CVT (R148). -/
def execCvt (p : Nat) (s : State) : Res := s.pipRun p 0x0d fun x now =>
  x.each now 2 fun x i f => cvtValue f.fn (x.reg i f.a) (x.reg i f.b)
/-- SFU (R93). -/
def execSfu (p : Nat) (s : State) : Res := s.pipRun p 0x0e fun x now =>
  x.each now 8 fun x i f => sfuValue f.fn (x.reg i f.a)
/-- MOVS (R132). -/
def execMovs (p : Nat) (s : State) : Res := s.pipRun p 0x0f fun x now =>
  x.each now 1 fun _ i f => s.special p i f.imm
/-- RND (R147). -/
def execRnd (p : Nat) (s : State) : Res := s.pipRun p 0x10 fun x now =>
  x.each now 2 fun x i f => rndValue f.fn (x.reg i f.a) (x.reg i f.b)

/-- A pip memory instruction issues (R134): the address fault of any of its pips is one record. -/
def State.pipMem (s : State) (p op : Nat) (who : Pips → List Nat) (f : Pips → Nat → List Nat → Pips) : Res :=
  within p 208 (.next (
    if s.pipIssues p op then
      let x := s.pipsAt p
      let l := who x
      let s1 := s.setPips p ((f x (s.stamp (p / 13)) l).advance.issued (s.stamp (p / 13)))
      match l.any (fun i => !pipMapped (x.address i)), x.run with
      | true, some d => s1.raiseTile p d.bundle 0x3001
      | _, _ => s1
    else s))

/-- LD (R134, R136). -/
def execLd (p : Nat) (s : State) : Res := s.pipMem p 0x11 Pips.active fun x now l => x.load now l false
/-- LDS (R135). -/
def execLds (p : Nat) (s : State) : Res := s.pipMem p 0x12 Pips.active fun x now l => x.load now l false
/-- An LDP that hits (R139). -/
def Pips.hits (x : Pips) (i : Nat) : Bool :=
  let a := x.address i
  pipMapped a && (x.line i (bits a 6 5)).valid && (x.line i (bits a 6 5)).tag == bits a 11 12
/-- LDP (R139): hits are ready in 2 beats, which is their completion beat (R125); the missing pips' rows go through the
pip path. -/
def execLdp (p : Nat) (s : State) : Res := s.pipMem p 0x13 Pips.active fun x now l =>
  let y := (l.filter x.hits).foldl (fun y i =>
    let a := x.address i
    { y.give i (x.instr i).d (now + 2) (nth 0#32 (x.line i (bits a 6 5)).data (bits a 2 4)).toNat with
      memDone := max y.memDone (now + 2) }) x
  let miss := l.filter fun i => !x.hits i
  if miss.isEmpty then y else { y with acc := (x.load now miss true).acc }
/-- ST (R134, R138). -/
def execSt (p : Nat) (s : State) : Res := s.pipMem p 0x14 Pips.active fun x now l => x.store now l
/-- STS (R135, R138). -/
def execSts (p : Nat) (s : State) : Res := s.pipMem p 0x15 Pips.active fun x now l => x.store now l
/-- STP (R130): in pips with P = 1 only. -/
def execStp (p : Nat) (s : State) : Res :=
  s.pipMem p 0x16 (fun x => x.active.filter x.cond) fun x now l => x.store now l

/-- PIP_MEMORY_COMPLETE (R136): the oldest access whose rows are served completes. -/
def execPipMemoryComplete (p : Nat) (s : State) : Res :=
  within p 208 (.next (
    let x := s.pipsAt p
    let now := s.stamp (p / 13)
    match takeFirst (fun a => a.served now) x.acc with
    | none => s
    | some (a, rest) => s.setPips p ({ x with acc := rest, memDone := max x.memDone now }.finish a)))

/-- A fill in flight that a PCINV overtakes still loads its registers and leaves no line (R141). -/
def PipAcc.unfill (a : PipAcc) : PipAcc :=
  { a with use := match a.use with | .fill l => .load l | u => u }
/-- PCINV (R140): in each active pip. -/
def execPcinv (p : Nat) (s : State) : Res := s.pipRun p 0x17 fun x now =>
  { x with cache := x.cache.filter fun l => !(x.active.contains (l.1 / 32)), acc := x.acc.map PipAcc.unfill }.advance.issued now
/-- RED (R142). ARGMAX with d = c leaves the winner's index, which is given behind its value (DESIGN CHOICE, log entry 46: R142
names both as written). -/
def execRed (p : Nat) (s : State) : Res := s.pipRun p 0x18 fun x now =>
  let fn := (x.instr x.lead).fn
  let (v, w) := x.red fn
  (x.active.foldl (fun y i =>
    let y := y.give i (x.instr i).d (now + 8) v
    if fn = 8 then y.give i (x.instr i).c (now + 8) w else y) x).advance.issued now
/-- XCH (R143). -/
def execXch (p : Nat) (s : State) : Res := s.pipRun p 0x19 fun x now =>
  x.each now 2 fun x i f => x.reg ((i + f.imm) % 64) f.a
/-- MXQ (R144): scale and element of each active pip. -/
def Pips.mxq (x : Pips) (i : Nat) : Nat :=
  let h := i / 32
  let f := (Fmt.ofCode (x.instr i).fn).getD .mxe4m3
  let v := (List.range 32).map fun j =>
    let k := 32 * h + j
    if x.active.contains k then ofFp32 (x.reg k (x.instr k).a) else .fin false 0 0
  let (scale, e) := toMx v f
  scale * 2 ^ 8 + nth 0 e (i % 32)
/-- MXQ (R144). -/
def execMxq (p : Nat) (s : State) : Res := s.pipRun p 0x1a fun x now => x.each now 10 fun x i _ => x.mxq i

/-- BR (R145). -/
def execBr (p : Nat) (s : State) : Res := s.pipRun p 0x1b fun x now =>
  let w := (x.instr x.lead).word
  if pipCond (bits w 11 2) (x.active.map x.cond) then { x with pc := bits w 0 11 }.issued now
  else x.advance.issued now
/-- BRK (R146). With no loop to leave, where PC goes is not stated: a free value (log entry 32). -/
def execBrk (p : Nat) (s : State) : Res :=
  let holds := fun x : Pips => pipCond (bits (x.instr x.lead).word 11 2) (x.active.map x.cond)
  match (s.pipsAt p).stack with
  | top :: rest => s.pipRun p 0x1c fun x now =>
    if holds x then
      let (pc, st) := countDown top.stop rest
      { x with pc := pc, stack := st }.issued now
    else x.advance.issued now
  | [] =>
    if s.pipIssues p 0x1c && holds (s.pipsAt p) then
      s.drawFree.1.pipRun p 0x1c fun x now => { x with pc := s.drawFree.2.toNat % 2048 }.issued now
    else s.pipRun p 0x1c fun x now => x.advance.issued now
/-- `loop` (R146). A LOOP or LOOPR with count 0 goes behind its own body, and does not count down an enclosing loop whose end
is the address of the LOOP itself (DESIGN CHOICE, log entry 46: `loop` and `at_end_of_body` both set pc). -/
def Pips.openLoop (x : Pips) (stop count : Nat) : Pips :=
  if count = 0 then
    let (pc, st) := countDown stop x.stack
    { x with pc := pc, stack := st }
  else { x with pc := (x.pc + 1) % 2048, stack := { start := (x.pc + 1) % 2048, stop, left := count } :: x.stack }
/-- LOOP (R146). -/
def execLoop (p : Nat) (s : State) : Res := s.pipRun p 0x1d fun x now =>
  let w := (x.instr x.lead).word
  (x.openLoop (bits w 15 11) (bits w 0 15)).issued now
/-- LOOPR (R146). -/
def execLoopr (p : Nat) (s : State) : Res := s.pipRun p 0x1e fun x now =>
  let w := (x.instr x.lead).word
  (x.openLoop (bits w 15 11) (min (x.reg x.lead (bits w 10 5)) (bits w 0 10))).issued now

/-- A tick boundary or a table's stop cuts a running dispatch (R126): it raises 0x5012. Results and loads that are
complete by the last beat stand, and store rows whose bank beat has come are written; the rest is lost. -/
def State.cutPips (s : State) (p last : Nat) : State :=
  let x := (s.tile p).pips
  match x.run with
  | none => s
  | some d =>
    let rows := (x.acc.map fun a => a.rowsDue last).flatten
    let x := (x.acc.filter (·.served last)).foldl Pips.finish (x.settle last)
    let s := (s.setPips p { x with run := none, pend := [], acc := [] }).pipRows p rows
    let s := s.modTile p fun t => { t with busy := { t.busy with pips := t.busy.pips + (last - d.issue) } }
    s.raiseDeadline p d.bundle 0x5012

end Sys2Proof.Machine
end

