-- ==== Sys2Proof/Machine/Dealer.lean ====
section
/-! DEFINITION. The dealer (R179 to R215): decode and issue of bundles, slots C, X and V, and the results that slot C
and slot X bring back. -/

namespace Sys2Proof.Machine

/-! ### Where the dealer stands (R181, R198, R199) -/

/-- Beats that the open repeats add to a body bundle's stamp (R199). -/
def repOffset (l : List RepFrame) : Nat := (l.map fun f => f.iter * f.period).sum
/-- The store index and the repeats after a bundle (R199). -/
def afterBundle (idx : Nat) : List RepFrame → Nat × List RepFrame
  | [] => (idx + 1, [])
  | f :: fs =>
    if f.start + f.len ≤ idx + 1 then
      if f.iter + 1 < f.iters then (f.start, { f with iter := f.iter + 1 } :: fs)
      else afterBundle idx fs
    else (idx + 1, f :: fs)
/-- A bundle of a tile's program store (R180). -/
def Tile.bundleAt (t : Tile) (idx : Nat) : Nat := (Map.get 0#128 t.store idx).toNat
/-- Stamp of a bundle under the open repeats. -/
def State.bundleStamp (s : State) (t : Tile) (idx : Nat) (reps : List RepFrame) : Nat :=
  s.tick * 65536 + bundleBeat (t.bundleAt idx) + repOffset reps
/-- The place behind the next `n` bundles in store order (R198). -/
def passBundles : Nat → Nat → List RepFrame → Nat × List RepFrame
  | 0, idx, reps => (idx, reps)
  | n + 1, idx, reps => let (i, r) := afterBundle idx reps; passBundles n i r

/-- The place that the dealer expects after a bundle that has not issued (R183): a repeat is taken with COUNT iterations,
whatever its counter will say. -/
def Tile.expected (t : Tile) (idx : Nat) (reps : List RepFrame) : Nat × List RepFrame :=
  let w := slotC (t.bundleAt idx)
  let e := t.odtEntry (slotA w)
  let l := loopE e
  if slotOp w = 0x08 && odtKind e = 5 && l.body ≠ 0 then
    if l.count = 0 then passBundles (l.body + 1) idx reps
    else
      (idx + 1, { start := idx + 1, len := l.body, iters := l.count, iter := 0, period := l.period,
                  ictr := if l.ien then some l.ictr else none } :: reps)
  else afterBundle idx reps

/-- The next `n` bundles of a program that the dealer expects from a place, each with its repeats (R183). -/
def Tile.ahead (t : Tile) : Nat → Nat → Nat → List RepFrame → List (Nat × List RepFrame)
  | 0, _, _, _ => []
  | n + 1, stop, idx, reps =>
    if stop ≤ idx then []
    else
      let (i, r) := t.expected idx reps
      (idx, reps) :: t.ahead n stop i r

/-! ### Slot X: what its read beat takes (R182, R202 to R215) -/

/-- The deadline count of a bundle's slot-X operation: its DLN beat, or the last beat of the tick (R200). -/
def State.deadlineOf (s : State) (p b : Nat) : Nat :=
  let c := slotC b
  let tbl := p / 13
  if slotOp c = 0x09 then s.lastCount tbl (bits c 0 16) else s.lastCount tbl (s.lastBeat tbl)

/-- Rows of a sending operation, requested λ + 1 beats before the slot's beat (R162, R209). -/
def sendReads (now j row n : Nat) : List (Nat × Nat × Nat × Nat × Nat) :=
  (List.range n).map fun i => (max now (j + i / 2 - rowLatency (row + i) - 1), row + i, 0, 64, 64 * i)

/-- Is a slot-X word one of the sending operations of R181? -/
def State.sending (s : State) (p : Nat) (t : Tile) (w : Nat) : Bool :=
  match slotOp w with
  | 0x03 | 0x04 | 0x07 | 0x08 => true
  | 0x0a =>
    let e := t.odtEntry (slotA w)
    odtKind e == 4 &&
      (match s.decodeGlobal (4 * (flagE e).gword) with
       | some (dev, lt, _) => dev != s.selfDev || lt != s.ltileOf p
       | none => false)
  | _ => false

/-- The address of a remote operation, formed at its read beat (R206): device, logical tile, byte offset; or the code
raised. Whether its device has a route is seen when it issues. -/
def State.remote (s : State) (a : Nat) : Except Nat (Nat × Nat × Nat) :=
  match s.decodeGlobal a with
  | none => .error 0x3001
  | some x => .ok x
/-- Is an operation toward another device that no port leads to (R206, R285)? -/
def State.noRoute (s : State) (o : Op) : Bool := o.dst.1 != s.selfDev && (s.routeUp o.dst.1).isNone

/-- The ring entry size that a PUSHR packs (R211): of the ring on this device; toward another device, of this tile's
ring of that number (log entry 24). -/
def State.pushrSize (s : State) (p : Nat) (e : RrefE) : Nat :=
  if e.dev = s.selfDev then ((s.tile (s.physOf e.ltile)).ring e.ring).esz else ((s.tile p).ring e.ring).esz

/-- What a slot-X word becomes at its read beat `now` for issue beat `j` (R182, R202): the code of a fault, or the
operation (none for NOP) and the code of a rejected flag address (0: none). `t` is the tile as the beat began. The stamped
beat of a circuit slot is the one before its send beat, as j is for a DMAW (R49, R209): a CSEND requests its rows λ + 1
beats before that (DEDUCED, log entry 51). -/
def State.xRead (s : State) (p idx w now j dl : Nat) (t : Tile) : Except Nat (Option Op × Nat) :=
  let ctr := t.counter
  let ea := t.odtEntry (slotA w)
  let eb := t.odtEntry (slotB w)
  let cf := slotCF w
  let base : Op := { id := (s.tile p).nextOp, kind := .fill, bundle := idx, issue := j, deadline := dl, tracked := true,
                     taken := now, flag := none, dst := (s.selfDev, s.ltileOf p, 0) }
  let done (o : Op) (flagx : Nat) : Except Nat (Option Op × Nat) :=
    match s.flagFor t cf flagx with
    | .error c => .error c
    | .ok (f, note) => .ok (some { o with flag := f }, note)
  -- an address that R206 turns away: the tracker is held until the issue beat, where the code is raised
  let refused (c : Nat) : Except Nat (Option Op × Nat) := .ok (some { base with kind := .dmaw }, c)
  if slotOp w = 0 || 0x0b < slotOp w then .ok (none, 0)
  else if 1024 ≤ (s.tile p).trackers then .error 0x3009
  else
    match slotOp w with
    | 0x01 =>
      if odtKind ea != 1 then .error 0x300a
      else
        let e := rangeE ea
        done { base with kind := .fill, n := e.nrows, arg := e.rowOf ctr, arg2 := ctr (bits w 8 4), started := true } e.flagx
    | 0x02 =>
      if odtKind ea != 1 || odtKind eb != 1 then .error 0x300a
      else
        let d := rangeE ea
        let r := rangeE eb
        let x := d.rowOf ctr
        let y := r.rowOf ctr
        if d.nrows != r.nrows then .error 0x300a
        else if x < y + d.nrows && y < x + d.nrows then .error 0x3006
        else
          done { base with kind := .copy, n := d.nrows, arg := x, arg2 := y, reads := d.nrows, started := true,
                           held := (List.range d.nrows).map fun i => { row := x + i, lo := 0, len := 64, srcOff := 64 * i } } d.flagx
    | 0x03 =>
      if odtKind ea != 2 || odtKind eb != 1 then .error 0x300a
      else
        let g := globalE ea
        let r := rangeE eb
        if g.nrows != r.nrows then .error 0x300a
        else
          match s.remote (64 * g.rowOf ctr) with
          | .error c => refused c
          | .ok (dev, lt, off) =>
            done { base with kind := .dmaw, n := g.nrows, dst := (dev, lt, off / 64), reads := g.nrows, nslots := ceilDiv g.nrows 2,
                             awaiting := b2n (dev == s.selfDev), later := sendReads now j (r.rowOf ctr) g.nrows } g.flagx
    | 0x04 =>
      if odtKind ea != 2 || odtKind eb != 1 then .error 0x300a
      else
        let g := globalE ea
        let d := rangeE eb
        if g.nrows != d.nrows then .error 0x300a
        else
          match s.remote (64 * g.rowOf ctr) with
          | .error c => refused c
          | .ok (dev, lt, off) =>
            done { base with kind := .dmar, n := g.nrows, dst := (dev, lt, off / 64), awaiting := g.nrows,
                             arg2 := d.rowOf ctr } g.flagx
    | 0x05 =>
      if odtKind ea != 1 then .error 0x300a
      else
        let e := rangeE ea
        let r := bits w 8 4
        let n := if bit w 3 then min (ctr (bits w 4 4)) e.nrows else e.nrows
        let rg := t.ring r
        if !rg.enabled || rg.prod != 0 then .error 0x3003
        else done { base with kind := .push, n, arg := r, arg2 := e.rowOf ctr, reads := ceilDiv (n * rg.esz) 64 } e.flagx
    | 0x06 =>
      if odtKind ea != 1 then .error 0x300a
      else
        let e := rangeE ea
        let r := bits w 8 4
        let n := if bit w 3 then min (ctr (bits w 4 4)) e.nrows else e.nrows
        let rg := t.ring r
        if !rg.enabled || rg.cons != 0 then .error 0x3003
        else done { base with kind := .pop, n := if rg.count = 0 then 0 else n, arg := r, arg2 := e.rowOf ctr, reads := 1 } e.flagx
    | 0x07 =>
      if odtKind ea != 6 || odtKind eb != 1 then .error 0x300a
      else
        let e := rrefE ea
        let r := rangeE eb
        match s.remote (globalAddr e.dev e.ltile 0) with
        | .error c => refused c
        | .ok (dev, lt, _) =>
          let esz := s.pushrSize p e
          let rows := ceilDiv (r.nrows * esz) 64
          done { base with kind := .pushr, n := r.nrows, arg := e.ring, arg2 := esz, dst := (dev, lt, 0), reads := rows,
                           nslots := ceilDiv (r.nrows * esz) 128, awaiting := b2n (dev == s.selfDev),
                           later := sendReads now j (r.rowOf ctr) rows } e.flagx
    | 0x08 =>
      if odtKind ea != 3 || odtKind eb != 1 || (circE ea).dir then .error 0x300a
      else
        let c := circE ea
        let r := rangeE eb
        let ce := circuitE (Map.get 0#64 (s.port c.port).sendTbl c.circuit).toNat
        let (ra, rb) := s.clockRatio (p / 13)
        let row := r.rowOf ctr
        done { base with kind := .csend, n := r.nrows, arg := c.circuit, arg2 := c.port, nslots := ceilDiv r.nrows 2, reads := r.nrows,
                         pp := bit w 1,
                         later := (List.range r.nrows).map fun i =>
                           let f := (ce.slotBeat (i / 2) - 1) * ra / rb
                           (max now (s.tick * 65536 + f - rowLatency (row + i) - 1), row + i, 0, 64, 64 * i) } c.flagx
    | 0x09 =>
      if odtKind ea != 3 || odtKind eb != 1 || !(circE ea).dir then .error 0x300a
      else
        let c := circE ea
        let r := rangeE eb
        done { base with kind := .crecv, n := r.nrows, arg := c.circuit, arg2 := r.rowOf ctr, nslots := ceilDiv r.nrows 2,
                         aux := c.port, started := true } c.flagx
    | 0x0a =>
      if odtKind ea != 4 then .error 0x300a
      else
        let f := flagE ea
        match s.remote (4 * f.gword) with
        | .error c => refused c
        | .ok (dev, lt, off) =>
          let here := dev = s.selfDev && lt = s.ltileOf p
          .ok (some { base with kind := .flagw, writes := b2n here, awaiting := b2n (!here), n := 1, dst := (dev, lt, 0),
                                flag := some { dev, ltile := lt, off, value := if f.ven then ctr f.vctr else f.value, mode := f.mode } }, 0)
    | _ =>
      if odtKind ea != 1 then .error 0x300a
      else
        let e := rangeE ea
        let row := e.rowOf ctr
        .ok (some { base with kind := .dgst, n := e.nrows, reads := e.nrows, arg := bits w 0 12, aux := s.roundCounter,
                              arg2 := (s.table (p / 13)).choice % 2 ^ 32, started := true,
                              later := (List.range e.nrows).map fun i => (j + i / 2, row + i, 0, 64, 64 * i) }, 0)

/-- Raise a code that a slot-X operation found at its read beat; 0x5010 to 0x5013 are not among them (R51). -/
def State.raiseX (s : State) (p idx code : Nat) : State := if code = 0 then s else s.raiseTile p idx code

/-- A slot-X operation takes its tracker (R203). -/
def State.takeOp (s : State) (p : Nat) (o : Op) : State := s.modTile p (·.addOp o)

/-- A slot-X operation of length zero completes in its issue beat (R203). -/
def Op.empty (o : Op) : Bool :=
  match o.kind with
  | .flagw => false
  | _ => o.n == 0

/-- The issue of an operation begins: an address fault found before is raised (R183), a CRECV claims its slots, and a RET result
is owed (R210). -/
def State.beginX (s : State) (p w : Nat) (o : Op) : State :=
  let s := if o.faulted && !o.started then s.raiseTile p o.bundle 0x3001 else s
  let s := s.modTile p (·.modOp o.id fun o => { o with started := o.started || (o.kind != .push && o.kind != .pop) })
  let s := if o.kind = .crecv then s.modTile p fun t => { t with crecvs := t.crecvs ++ [(o.aux, o.arg, o.id, 0)] } else s
  if (o.kind = .push || o.kind = .pop) && bit w 2 then
    s.modTile p fun t => { t with results := t.results ++
      [{ d := bits w 4 4, due := o.issue + 31, value := if o.n = 0 then some 0 else none, bundle := o.bundle, id := o.id }] }
  else s
/-- An operation that moves nothing completes at its issue. -/
def State.endEmpty (s : State) (p : Nat) (o : Op) : State :=
  let s := if o.kind = .dgst then s.modTile p fun t => { t with digests := t.digests ++ [digestOf s p o] } else s
  if o.flag.isSome then s.modTile p (·.modOp o.id fun o => { o with tracked := false, later := [], held := [] })
  else s.modTile p (·.dropOp o.id)
/-- What an operation that has begun asks for first. -/
def State.firstRows (s : State) (p : Nat) (o : Op) : State :=
  match o.kind with
  | .fill =>
    let d := (List.range 16).map (fun _ => leBytes 4 o.arg2)
    (List.range o.n).foldl (fun s i => s.reqWrite p 4 o (o.arg + i) 0 d.flatten) s
  | .copy => (List.range o.n).foldl (fun s i => s.reqRead p o (o.arg2 + i) 0 64 (64 * i)) s
  | .push => (List.range o.reads).foldl (fun s i => s.reqRead p o (o.arg2 + i) 0 64 (64 * i)) s
  | .pop =>
    let rg := (s.tile p).ring o.arg
    match rg.pieces rg.head.toNat 0 (min o.n rg.count * rg.esz) with
    | x :: _ => s.reqRead p o x.row x.lo x.len x.srcOff
    | [] => s
  | .dmar =>
    let size := if o.dst.1 ≠ s.selfDev then 64 else o.n
    let start := s.ageAt (s.countOfBeat (p / 13) (o.issue % 65536) + 1)
    let dst := s.farKey o.dst.1 o.dst.2.1
    (List.range (ceilDiv o.n size)).foldl (fun s i =>
      s.modTile p (·.push 3 o.rank start
        { src := s.ltileOf p, op := o.id, dst, arrive := 0, deadline := o.deadline, total := o.n,
          flag := none, poisoned := false, body := .rdReq (o.dst.2.2 + size * i) (min size (o.n - size * i)) })) s
  | .csend =>
    s.modTile p fun t => t.modOp o.id fun o => { o with poisoned := o.pp && decide (0 < (t.atStart o.issue).poison) }
  | .flagw =>
    match o.flag with
    | some f =>
      let s := s.modTile p (·.modOp o.id fun o => { o with flag := none })
      let beat := if o.writes = 1 then s.age + 1 else s.ageAt (s.countOfBeat (p / 13) (o.issue % 65536) + 1)
      s.sendFlag p f (some o.bundle) o.id o.rank beat o.deadline
    | none => s
  | _ => s

/-- What a slot-X operation does at its issue beat (R175, R209 to R215): its first requests, or its first slot. One with no
route ends here with 0x4002 (R206). A source row outside the map that a decoded bundle has met is raised now (R183). PP
takes the poisoned-slot count of this beat for every slot, as CRD does (DESIGN CHOICE, log entry 51). A CRECV claims its
circuit whatever its rows (R213). -/
def State.startX (s : State) (p id : Nat) (w : Nat) : State :=
  match (s.tile p).op? id with
  | none => s
  | some o =>
    if s.noRoute o then (s.modTile p (·.dropOp id)).raiseTile p o.bundle 0x4002
    else if o.empty then (s.beginX p w o).endEmpty p o
    else (s.beginX p w o).firstRows p o

/-! ### Slot C (R195 to R201) -/

/-- CRD (R196). A tracker taken in this beat does not count yet (R182). -/
def State.crd (s : State) (p : Nat) (t : Tile) (sel arg : Nat) : Option Nat :=
  let rg := t.ring (arg % 16)
  match sel with
  | 0 => some (if rg.enabled then rg.count else 0)
  | 1 => some (if rg.enabled then rg.size - rg.reserved else 0)
  | 2 => some (t.ops.filter fun o => o.tracked && decide (o.taken < s.stamp (p / 13))).length
  | 3 => some t.poison
  | 4 => some (s.tick % 2 ^ 32)
  | 5 => some (s.table (p / 13)).phase
  | _ => none

/-- SKIP condition (R198). -/
def skipCond (cond v : Nat) : Bool :=
  match cond with
  | 0 => true
  | 1 => v == 0
  | 2 => v != 0
  | 3 => decide (toSigned 32 v < 0)
  | 4 => decide (0 ≤ toSigned 32 v)
  | _ => false

/-- A counter write at the end of the running beat stands over the results that the same beat delivers (R182); what else
reads its operands in this beat finds the old value. -/
def Tile.writeCounter (t : Tile) (now d v : Nat) : Tile :=
  { (t.keepBefore now).setCounter d v with
    clds := t.clds.map fun c => if c.d = d && c.due ≤ now then { c with d := 16 } else c,
    results := t.results.map fun c => if c.d = d && c.due ≤ now then { c with d := 16 } else c }

/-- Decoded bundles that will not issue are removed (R183): their operations request source rows in this beat for the
last time, and leave at its end. -/
def State.removeDecoded (s : State) (p stop : Nat) : State :=
  let u := s.tile p
  let stays := (u.ahead (u.decoded.length + 1) stop u.next u.reps).map fun g => (g.1, s.bundleStamp u g.1 g.2)
  let out := u.decoded.filter fun x => !stays.contains (x.1, x.2.1)
  s.setTile p { u with
    decoded := u.decoded.filter fun x => stays.contains (x.1, x.2.1),
    ops := u.ops.map fun o => if out.any fun x => x.2.2.1 == o.id then { o with gone := true } else o }

/-- The next `n` bundles of a position do not issue (R198, R199). -/
def State.skipBundles (s : State) (p n stop : Nat) : State :=
  (s.modTile p fun u =>
    let (i, r) := passBundles n u.next u.reps
    { u with next := i, reps := r }).removeDecoded p stop

/-- CLD (R197): a class X read of one row; an unmapped row reads as zeros. -/
def State.issueCld (s : State) (p idx w now : Nat) (t : Tile) : State :=
  let e := t.odtEntry (bits w 8 10)
  if odtKind e != 1 then s.raiseTile p idx 0x300a
  else
    let row := (rangeE e).rowOf t.counter
    let id := (s.tile p).nextOp
    let c : Cld := { d := bits w 18 4, w := bits w 4 4, due := now + 31, value := if row < mappedRows then none else some 0,
                     bundle := idx, id }
    let s := s.modTile p fun t => { t with clds := t.clds ++ [c], nextOp := id + 1 }
    if row < mappedRows then
      s.modTile p (·.request { cls := 4, seq := issueOrder now 2, row, deadline := s.lastCount (p / 13) ((now + 31) % 65536),
                               since := s.age + 1, use := .toCld id })
    else s.raiseTile p idx 0x3001

/-- SETUP (R201). -/
def State.issueSetup (s : State) (p idx w now : Nat) (t : Tile) : State :=
  let e := t.odtEntry (bits w 0 10)
  if odtKind e != 1 then s.raiseTile p idx 0x300a
  else
    let r := rangeE e
    if r.nrows = 0 then s
    else
      let row := r.rowOf t.counter
      let id := (s.tile p).nextOp
      let good := (List.range r.nrows).filter fun i => decide (row + i < mappedRows)
      let c : Setup := { what := bits w 20 2, first := bits w 10 10, nrows := r.nrows, due := now + 31 + r.nrows, data := [],
                         got := r.nrows - good.length, bundle := idx, id }
      let s := s.modTile p fun t => { t with setups := t.setups ++ [c], nextOp := id + 1 }
      let dl := s.tickBase + s.tickLen - 1
      let s := good.foldl (fun s i =>
        s.modTile p (·.request { cls := 4, seq := issueOrder now 2, row := row + i, deadline := dl, since := s.age + 1,
                                 use := .toSetup id (64 * i) })) s
      if good.length < r.nrows then s.raiseTile p idx 0x3001 else s

/-- Slot C of a bundle (R195), its counter writes last in the beat (R182); where the dealer goes next. -/
def State.issueC (s : State) (p idx w now : Nat) (t : Tile) (stop : Nat) : State :=
  let d := bits w 18 4
  let ctr := t.counter
  let put (v : Nat) : State := s.modTile p fun u => u.writeCounter now d v
  let putO (v : Option Nat) : State := match v with | some v => put v | none => s
  match slotOp w with
  | 0x01 => put (bits w 0 18)
  | 0x02 => put (bits w 0 16 * 2 ^ 16 + ctr d % 2 ^ 16)
  | 0x03 => putO (copFn (bits w 0 4) (ctr (bits w 14 4)) (ctr (bits w 10 4)))
  | 0x04 => put (ofSigned 32 ((ctr (bits w 14 4) : Int) + toSigned 14 (bits w 0 14)))
  | 0x05 => s.issueCld p idx w now t
  | 0x06 => putO (s.crd p t (bits w 12 6) (bits w 0 12))
  | 0x07 =>
    if skipCond (bits w 15 3) (ctr d) then s.skipBundles p (bits w 0 12) stop else s
  | 0x08 =>
    let e := t.odtEntry (slotA w)
    if odtKind e != 5 then (s.raiseTile p idx 0x300a).removeDecoded p stop
    else
      let l := loopE e
      let n := if l.cen then min (ctr l.cctr) l.count else l.count
      if l.body = 0 then s.removeDecoded p stop
      else if n = 0 then s.skipBundles p l.body stop
      else
        (s.modTile p fun u =>
          { u with
            next := idx + 1,
            reps := { start := idx + 1, len := l.body, iters := n, iter := 0, period := l.period,
                      ictr := if l.ien then some l.ictr else none } :: t.reps }).removeDecoded p stop
  | 0x0a => s.issueSetup p idx w now t
  | _ => s

/-! ### Slot V and slot M (R217, R218, R237) -/

/-- Start a dispatch (R124, R237), unless the previous one has not ended (R125). -/
def State.dispatch (s : State) (p idx now entry mask arg : Nat) : State :=
  let x := s.pipsAt p
  if x.run.isSome || now < x.ended then s.raiseDeadline p idx 0x5013
  else if mask = 0 then s
  else s.setPips p (x.start now idx entry mask arg)

/-- Slot V (R218, R237). -/
def State.issueV (s : State) (p idx w now : Nat) (t : Tile) : State :=
  match slotOp w with
  | 0x01 =>
    let e := t.odtEntry (slotA w)
    if odtKind e != 0xe then s.raiseTile p idx 0x300a
    else
      let d := dispE e
      s.dispatch p idx now d.entry d.mask (if d.aen then t.counter d.actr else d.arg)
  | 0x02 => s.dispatch p idx now (bits w 11 11) (2 ^ 64 - 1) (t.counter (bits w 7 4))
  | _ => s

/-- Slot M (R217). -/
def State.issueM (s : State) (p idx w : Nat) (t : Tile) : State :=
  match slotOp w with
  | 0x01 => s.issueLoad p idx w false
  | 0x02 => s.issueLoad p idx w true
  | 0x03 => s.issuePass p idx w t
  | 0x04 => s.issueSpass p idx w t
  | 0x05 => s.issueDrain p idx w t
  | 0x06 => s.issueAccm p idx w t
  | 0x07 => s.issueShuf p idx w t
  | _ => s

/-! ### The dealer's commands -/

/-- Slot X at its issue beat: decoded before (R183), or read now. -/
def State.issueX (s : State) (p idx w now dl stamp : Nat) (t : Tile) : State :=
  match t.decoded.find? fun x => x.1 = idx && x.2.1 = stamp && x.2.2.1 + x.2.2.2 != 0 with
  | some (_, _, id, code) =>
    let s := s.raiseX p idx code
    if id = 0 then s else s.startX p id w
  | none =>
    match s.xRead p idx w now now dl t with
    | .error 0x3003 =>
      let s := if bit w 2 then
          s.modTile p fun u => { u with results := u.results ++
            [{ d := bits w 4 4, due := now + 31, value := some 0, bundle := idx, id := 0 }] }
        else s
      s.raiseX p idx 0x3003
    | .error c => s.raiseX p idx c
    | .ok (none, _) => s
    | .ok (some o, note) => ((s.raiseX p idx note).takeOp p o).startX p o.id w

/-- Issue the next bundle of a position in its stamped beat, and in no other (R49, R179). -/
def State.issueBundle (s : State) (p : Nat) : State :=
  let t := (s.tile p).atStart (s.stamp (p / 13))
  match t.run with
  | none => s
  | some (first, count) =>
    let stop := first + count
    let idx := t.next
    let stamp := s.bundleStamp t idx t.reps
    let now := s.stamp (p / 13)
    if stop ≤ idx || now ≠ stamp then s
    else
      let b := t.bundleAt idx
      let (nidx, nreps) := afterBundle idx t.reps
      let s := s.modTile p fun u => { u with bundle := idx, next := nidx, reps := nreps }
      let s := s.issueX p idx (slotX b) now (s.deadlineOf p b) stamp t
      let s := s.issueV p idx (slotV b) now t
      let s := s.issueM p idx (slotM b) t
      -- the iteration index, order 2 of R182, before slot C
      let s := s.modTile p fun u => t.reps.foldl (fun u f =>
        match f.ictr with
        | some c => if f.start = idx then u.writeCounter now c f.iter else u
        | none => u) u
      let s := s.modTile p fun u => { u with decoded := u.decoded.filter fun x => !(x.1 = idx && x.2.1 = stamp) }
      s.issueC p idx (slotC b) now t stop

/-- BUNDLE_ISSUE (R179). -/
def execBundleIssue (p : Nat) (s : State) : Res := within p 208 (.next (s.issueBundle p))

/-- The next undecoded bundle of a position: store index and stamp (R183). -/
def State.undecoded (s : State) (t : Tile) : Option (Nat × Nat) :=
  match t.run with
  | none => none
  | some (first, count) =>
    ((t.ahead (t.decoded.length + 1) (first + count) t.next t.reps).map fun g => (g.1, s.bundleStamp t g.1 g.2)).find?
      fun g => !(t.decoded.any fun x => x.1 == g.1 && x.2.1 == g.2)

/-- BUNDLE_DECODE (R183): from 16 beats before its issue beat, a bundle's sending operation takes its tracker, reads
its ODT entries and counters, and starts its source reads. -/
def execBundleDecode (p : Nat) (s : State) : Res :=
  within p 208 (.next (
    let now := s.stamp (p / 13)
    let t := (s.tile p).atStart now
    match s.undecoded t with
    | none => s
    | some (idx, stamp) =>
      if now + 16 < stamp then s
      else
        let b := t.bundleAt idx
        let w := slotX b
        if s.sending p t w then
          match s.xRead p idx w now stamp (s.deadlineOf p b) t with
          | .error c => s.modTile p fun u => { u with decoded := u.decoded ++ [(idx, stamp, 0, c)] }
          | .ok (none, _) => s.modTile p fun u => { u with decoded := u.decoded ++ [(idx, stamp, 0, 0)] }
          | .ok (some o, note) =>
            (s.takeOp p o).modTile p fun u => { u with decoded := u.decoded ++ [(idx, stamp, o.id, note)] }
        else s.modTile p fun u => { u with decoded := u.decoded ++ [(idx, stamp, 0, 0)] }))

/-- CLD_RESULT (R197): at the end of beat t + 31 the oldest due CLD's word enters its counter, or 0x5010. -/
def execCldResult (p : Nat) (s : State) : Res :=
  within p 208 (.next (
    let now := s.stamp (p / 13)
    match takeFirst (fun (c : Cld) => decide (c.due < now)) (s.tile p).clds with
    | none => s
    | some (c, rest) =>
      let s1 := s.modTile p fun t => { t with clds := rest }
      match c.value with
      | some v => s1.modTile p (·.landCounter c.d v.toNat)
      | none =>
        (s1.modTile p fun t => { t with reqs := t.reqs.filter fun r => r.use ≠ .toCld c.id }).raiseDeadline p c.bundle 0x5010))

/-- RING_RESULT_WRITE (R210): at the end of beat t + 31 the oldest due result enters its counter, or 0x5010. -/
def execRingResultWrite (p : Nat) (s : State) : Res :=
  within p 208 (.next (
    let now := s.stamp (p / 13)
    match takeFirst (fun (c : RingRes) => decide (c.due < now)) (s.tile p).results with
    | none => s
    | some (c, rest) =>
      let s1 := s.modTile p fun t => { t with results := rest }
      match c.value with
      | some v => s1.modTile p (·.landCounter c.d v.toNat)
      | none => s1.raiseDeadline p c.bundle 0x5010))

/-- Bits of the ring registers and of a handle that are not reserved (R11, R165, R171). -/
def ringBaseMask : Nat := 0x1ffff
def ringCfgMask : Nat := 0x80fdffff
def handleMask : Nat := 0xf1ffff1ffff

/-- Write the targets of a SETUP (R201); what lies past a target's capacity is not written, and reserved bits of rings and
handles stay 0 (R11). -/
def Tile.writeSetup (t : Tile) (c : Setup) : Tile :=
  match c.what with
  | 0 =>
    (List.range (4 * c.nrows)).foldl (fun t i =>
      if c.first + i < 1024 then
        { t with odt := Map.set 0#128 t.odt (c.first + i) (BitVec.ofNat 128 (leNat (readCells c.data (16 * i) 16))) }
      else t) t
  | 1 =>
    (List.range (4 * c.nrows)).foldl (fun t i =>
      if c.first + i < 16 then
        let w (k : Nat) : Word := BitVec.ofNat 32 (leNat (readCells c.data (16 * i + 4 * k) 4))
        t.setRing (c.first + i) { base := w 0 &&& BitVec.ofNat 32 ringBaseMask, cfg := w 1 &&& BitVec.ofNat 32 ringCfgMask, head := w 2, tail := w 3, reserve := w 3, pushes := [] }
      else t) t
  | 2 =>
    (List.range (8 * c.nrows)).foldl (fun t i =>
      if c.first + i < 32 then
        { t with handles := Map.set 0#64 t.handles (c.first + i) (BitVec.ofNat 64 (leNat (readCells c.data (8 * i) 8) &&& handleMask)) }
      else t) t
  | _ => t

/-- ODT words that a SETUP writes hold what was written: their parity and CRC-32C are taken anew (R395). -/
def State.setupFresh (s : State) (p : Nat) (c : Setup) : State :=
  let new (w : Nat) : Bool := c.what == 0 && decide (c.first ≤ w / 4) && decide (w / 4 < c.first + 4 * c.nrows)
  { s with tly := { s.tly with flips := s.tly.flips.filter fun f => !(f.1 == 1 && f.2.1 == p && new f.2.2.1) } }

/-- SETUP_WRITE (R201): at the end of beat t + 31 + NROWS all targets are written together, or 0x5010. -/
def execSetupWrite (p : Nat) (s : State) : Res :=
  within p 208 (.next (
    let now := s.stamp (p / 13)
    match takeFirst (fun (c : Setup) => decide (c.due < now)) (s.tile p).setups with
    | none => s
    | some (c, rest) =>
      let s1 := s.modTile p fun t => { t with setups := rest }
      if c.nrows ≤ c.got then (s1.modSeat p (·.writeSetup c)).setupFresh p c
      else
        (s1.modTile p fun t => { t with reqs := t.reqs.filter fun r =>
          match r.use with | .toSetup i _ => i != c.id | _ => true }).raiseDeadline p c.bundle 0x5010))

/-- A SETUP whose write beat lies past its tick's last beat is cut off (R51, R201). -/
def State.cutSetups (s : State) (p last : Nat) : State :=
  let out := (s.tile p).setups.filter fun c => decide (last < c.due)
  let s := s.modTile p fun t => { t with setups := t.setups.filter fun c => !decide (last < c.due) }
  out.foldl (fun s c => s.raiseDeadline p c.bundle 0x5012) s

end Sys2Proof.Machine
end

