-- ==== Sys2Proof/Machine/Fec.lean ====
section
/-! DEFINITION. What a frame is on the line (R260 to R262): the Reed-Solomon code of its codewords, encoded and decoded,
the order of its symbols over the wavelengths, and their PAM4 levels. R260 names the code as that of IEEE 802.3 Clause 91;
its field, its generator and the order of its parity symbols are taken from there (PRESUMED, log entry 43). -/

namespace Sys2Proof.Machine

/-! ### The field GF(2^10) -/

/-- Double an element: the field polynomial is x^10 + x^3 + 1. -/
def gfDouble (a : Nat) : Nat := if a < 512 then 2 * a else (2 * a) ^^^ 0x409
/-- The product of two elements. -/
def gfMul (a b : Nat) : Nat :=
  ((List.range 10).foldl (fun (r : Nat × Nat) i => (if bit b i then r.1 ^^^ r.2 else r.1, gfDouble r.2)) (0, a)).1
/-- A power of an element; the exponent counts modulo 1,023. -/
def gfPow (a n : Nat) : Nat :=
  ((List.range 10).foldl (fun (r : Nat × Nat) i => (if bit (n % 1023) i then gfMul r.1 r.2 else r.1, gfMul r.2 r.2)) (1, a)).1
/-- The inverse of a nonzero element. -/
def gfInv (a : Nat) : Nat := gfPow a 1022
/-- A power of the primitive element 2. -/
def gfRoot (n : Nat) : Nat := gfPow 2 n
/-- Sum of elements. -/
def gfSum (l : List Nat) : Nat := l.foldl (· ^^^ ·) 0
/-- A polynomial, lowest coefficient first, at a point. -/
def gfEval (p : List Nat) (x : Nat) : Nat := p.foldr (fun c a => c ^^^ gfMul a x) 0

/-! ### The code RS(544,514) (R260) -/

/-- Symbols of a codeword, and those that it can correct (R260). -/
def wordSymbols : Nat := 544
/-- Message symbols of a codeword (R262). -/
def messageSymbols : Nat := 514
/-- Parity symbols of a codeword (R262). -/
def paritySymbols : Nat := 30
/-- Symbols that a codeword corrects (R260). -/
def correctable : Nat := 15

/-- The generator without its leading coefficient, highest first: the product of x - 2^j for j below 30. -/
def generator : List Nat :=
  ((List.range paritySymbols).foldl (fun (g : List Nat) j =>
    ((g ++ [0]).zip (0 :: g)).map fun (c : Nat × Nat) => c.1 ^^^ gfMul (gfRoot j) c.2) [1]).drop 1

/-- The parity symbols behind a codeword's message symbols (R262): the remainder of the message by the generator. -/
def parityOf (msg : List Nat) : List Nat :=
  let g := generator
  msg.foldl (fun (r : List Nat) m =>
    let f := m ^^^ r.headD 0
    ((r.drop 1 ++ [0]).zip g).map fun (c : Nat × Nat) => c.1 ^^^ gfMul f c.2) (List.replicate paritySymbols 0)

/-- Errors of one codeword, as (symbol, changed bits): one entry for each changed symbol. -/
abbrev WordErrors := List (Nat × Nat)

/-- Add an error to those of a codeword. -/
def addError (l : WordErrors) (e : Nat × Nat) : WordErrors :=
  match l with
  | [] => if e.2 = 0 then [] else [e]
  | x :: xs =>
    if x.1 = e.1 then (if x.2 ^^^ e.2 = 0 then xs else (x.1, x.2 ^^^ e.2) :: xs) else x :: addError xs e

/-- The errors of codeword `c` of a frame. -/
def errorsOf (l : List SymbolError) (c : Nat) : WordErrors :=
  (l.filter fun e => e.word == c && decide (e.symbol < wordSymbols)).foldl (fun w e => addError w (e.symbol, e.bits % 1024)) []

/-- The locator of a symbol: symbol 0 is the highest power of the codeword. -/
def locator (symbol : Nat) : Nat := gfRoot (wordSymbols - 1 - symbol)
/-- The syndromes of a codeword's errors. -/
def syndromes (l : WordErrors) : List Nat :=
  (List.range paritySymbols).map fun j => gfSum (l.map fun e => gfMul e.2 (gfPow (locator e.1) j))

/-- State of the search for the shortest register that yields the syndromes: its connection polynomial, the previous
one, its length, the steps since the length last changed, and the discrepancy at that time. -/
structure Shortest where
  conn : List Nat
  prev : List Nat
  len : Nat
  gap : Nat
  disc : Nat

/-- One step of that search: syndrome `n`. -/
def Shortest.next (s : List Nat) (x : Shortest) (n : Nat) : Shortest :=
  let d := gfSum ((List.range (x.len + 1)).map fun i => gfMul (x.conn.getD i 0) (s.getD (n - i) 0))
  if d = 0 then { x with gap := x.gap + 1 }
  else
    let f := gfMul d (gfInv x.disc)
    let shifted := List.replicate x.gap 0 ++ x.prev.map (gfMul f)
    let conn := (List.range (max x.conn.length shifted.length)).map fun i => x.conn.getD i 0 ^^^ shifted.getD i 0
    if 2 * x.len ≤ n then { conn, prev := x.conn, len := n + 1 - x.len, gap := 1, disc := d }
    else { x with conn, gap := x.gap + 1 }

/-- The errors that a decoder of this code finds from the syndromes, none when it finds no codeword within 15 symbols. -/
def findErrors (s : List Nat) : Option WordErrors :=
  let x := (List.range paritySymbols).foldl (Shortest.next s) { conn := [1], prev := [1], len := 0, gap := 1, disc := 1 }
  let places := (List.range wordSymbols).filter fun i => gfEval x.conn (gfInv (locator i)) == 0
  if correctable < x.len || places.length ≠ x.len then none
  else
    let value := (List.range paritySymbols).map fun n =>
      gfSum ((List.range (n + 1)).map fun i => gfMul (x.conn.getD i 0) (s.getD (n - i) 0))
    let slope := (List.range x.conn.length).filterMap fun i => if i % 2 = 1 then some (i, x.conn.getD i 0) else none
    some (places.map fun i =>
      let y := gfInv (locator i)
      let d := gfSum (slope.map fun c => gfMul c.2 (gfPow y (c.1 - 1)))
      (i, gfMul (locator i) (gfMul (gfEval value y) (gfInv d))))

/-- What a decoder does to a codeword's errors (R260): up to 15 symbols are corrected; more are a failure, or lead to
another codeword. The errors that are left, and how many symbols were corrected. -/
def decodeWord (l : WordErrors) : Option (WordErrors × Nat) :=
  if l.length ≤ correctable then some ([], l.length)
  else (findErrors (syndromes l)).map fun e => (e.foldl addError l, e.length)

/-- Change bits of message symbols of codeword `c` (R262). -/
def changeSymbols (msg : List Byte) (c : Nat) (l : WordErrors) : List Byte :=
  l.foldl (fun m e =>
    if messageSymbols ≤ e.1 then m
    else (List.range 10).foldl (fun m i =>
      if bit e.2 i then
        let b := 5140 * c + 10 * e.1 + i
        m.modify (b / 8) fun x => x ^^^ BitVec.ofNat 8 (2 ^ (b % 8))
      else m) m) msg

/-- A frame behind its decoder: the message bytes, the codewords that failed, and the corrected symbols (R260, R262). -/
structure Decoded where
  msg : List Byte
  failed : List Nat
  corrected : Nat

/-- Decode a received frame (R260). -/
def decodeFrame (f : RxFrame) : Decoded :=
  if f.errors.isEmpty then { msg := f.msg, failed := [], corrected := 0 }
  else
    (List.range 16).foldl (fun (d : Decoded) c =>
      let l := errorsOf f.errors c
      match decodeWord l with
      | some (rest, n) => { d with msg := changeSymbols d.msg c rest, corrected := d.corrected + n }
      | none => { d with msg := changeSymbols d.msg c l, failed := d.failed ++ [c] })
      { msg := f.msg, failed := [], corrected := 0 }

/-! ### The line (R262) -/

/-- Symbols of codeword `c` of a frame's message bits, parity included (R262). -/
def wordOf (msg : Nat) (c : Nat) : List Nat :=
  let m := (List.range messageSymbols).map fun i => bits msg (5140 * c + 10 * i) 10
  m ++ parityOf m

/-- PAM4 level of a pair of bits, low bit first (R262). -/
def pam4 (b0 b1 : Bool) : Nat :=
  match b1, b0 with
  | false, false => 0
  | false, true => 1
  | true, true => 2
  | true, false => 3
/-- The five PAM4 levels of a symbol, from bit 0 (R262). -/
def symbolLevels (s : Nat) : List Nat := (List.range 5).map fun i => pam4 (bit s (2 * i)) (bit s (2 * i + 1))

/-- The levels that a sequence of symbols puts on each of the eight wavelengths (R262). -/
def wavelengths (symbols : List Nat) : List (List Nat) :=
  (List.range 8).map fun w => ((symbols.zipIdx.filter fun x => x.2 % 8 == w).map fun x => symbolLevels x.1).flatten

/-- A frame's message bytes on the line (R261, R262). -/
def frameLine (msg : List Byte) : List (List Nat) :=
  let n := leNat msg
  wavelengths ((List.range 16).map (wordOf n)).flatten

/-- One period of PRBS13, 8,191 bits: the sequence of x^13 + x^12 + x^2 + x + 1 (PRESUMED, log entry 43). -/
def prbs13 : Nat → Nat → List Bool
  | 0, _ => []
  | n + 1, s =>
    let b := (bit s 12).xor ((bit s 11).xor ((bit s 1).xor (bit s 0)))
    bit s 12 :: prbs13 n ((2 * s + b2n b) % 2 ^ 13)

/-- What a training port sends (R283): PRBS13, Gray coded on every wavelength. -/
def trainingLine : List (List Nat) :=
  let b := prbs13 8192 0x1fff
  List.replicate 8 ((List.range 4096).map fun i => pam4 (b.getD (2 * i) false) (b.getD (2 * i + 1) false))

end Sys2Proof.Machine
end

