-- ==== Sys2Proof/Machine/Plan.lean ====
section
/-! DEFINITION. Which program a table runs in which tick (R60, R63, R297), and which circuit entries are live in it
(R270). The tick boundary and the links read it. -/

namespace Sys2Proof.Machine

/-- The clock code whose programs a table runs (R55, R290). -/
def State.clockOf (s : State) (tbl : Nat) : Nat := (s.table tbl).clock

/-- The program of a table, section and role: the tick program of a slot, the drain or the entry program (R290). -/
def State.progOf (s : State) (tbl sect role slot clock : Nat) : Option Prog :=
  s.dck.cfg.progs.find? fun p =>
    p.table == tbl && p.section_ == sect && p.role == role && p.clock == clock && (role != 0 || p.slot == slot)

/-- What a table does in a tick: the phase that RCU.PHASE reads, whether its section cycle restarts at the tick after
the next boundary, and the role and slot of its program, none when it issues nothing. -/
structure Plan where
  phase : Nat
  cycle0 : Nat
  /-- role: 0 tick, 1 drain, 2 entry -/
  role : Option Nat
  switch : Option Switch

/-- The plan of a table for tick `t`, from its state in tick `t - 1` or `t` (R60, R63); `t0` is that earlier tick. -/
def Table.plan (x : Table) (t : Nat) : Plan :=
  let idle (ph : Nat) (role : Nat) : Option Nat := if ph = 0 then none else some role
  match x.switch with
  | some w =>
    if t < w.tick then { phase := x.phase, cycle0 := x.cycle0, role := idle x.phase 0, switch := some w }
    else if t = w.tick then { phase := x.phase, cycle0 := x.cycle0, role := idle x.phase 1, switch := some w }
    else { phase := w.phase, cycle0 := t + 1, role := idle w.phase 2, switch := none }
  | none => { phase := x.phase, cycle0 := x.cycle0, role := idle x.phase 0, switch := none }

/-- The plan of a table for a tick, under an accepted DECK_STOP (R297): tick T runs the drain program, the stop tick
nothing. -/
def State.planTick (s : State) (tbl t : Nat) : Plan :=
  let pl := (s.table tbl).plan t
  match s.dck.stop with
  | some w =>
    if w.tick ≤ t then { pl with role := none }
    else if !w.abort && w.tick = t + 1 then { pl with role := if pl.phase = 0 then none else some 1 }
    else pl
  | none => pl

/-- P of a section for a table (R63), 1 when it has no programs there. -/
def State.cycleOf (s : State) (tbl sect : Nat) : Nat :=
  match s.dck.cfg.progs.find? fun p => p.table == tbl && p.section_ == sect && p.role == 0 with
  | some p => max p.cycle 1
  | none => 1

/-- The slot of a section's cycle in a tick (R63); ticks count modulo 2^48 (R30). -/
def State.slotOf (s : State) (tbl sect cycle0 t : Nat) : Nat := ((t + 2 ^ 48 - cycle0 % 2 ^ 48) % 2 ^ 48) % s.cycleOf tbl sect

/-- The nominal program that a table runs in a tick, as circuit entries name it (R270). -/
def State.planProg (s : State) (tbl t : Nat) (pl : Plan) : Option Nat :=
  match pl.role with
  | none => none
  | some role =>
    (s.progOf tbl pl.phase role (if role = 0 then s.slotOf tbl pl.phase pl.cycle0 t else 0) 0).map (·.prog)

/-- The table's plan for the running tick or for the next one (a stopping table runs nothing). -/
def State.planFor (s : State) (tbl t : Nat) : Option (Nat × Nat) :=
  let x := s.table tbl
  if t = s.tick then
    match x.role, x.prog with
    | some r, some p => some (r, p)
    | _, _ => none
  else if x.stopping then none
  else
    let pl := s.planTick tbl t
    match pl.role, s.planProg tbl t pl with
    | some r, some p => some (r, p)
    | _, _ => none

/-- A receive entry is live in a tick (R270). -/
def State.liveAt (s : State) (c : CircuitE) (t : Nat) : Bool := s.planFor (c.ltile / 12) t == some (0, c.prog)

/-- A send entry schedules slots in this tick: live, or of a stopped table, whose slots leave poisoned (R28, R43). -/
def State.sendLive (s : State) (c : CircuitE) : Bool :=
  let x := s.table (c.ltile / 12)
  x.prog == some c.prog && (x.role == some 0 || x.role.isNone)

end Sys2Proof.Machine
end

