-- ==== Sys2Proof/Machine/Wire.lean ====
section
/-! DEFINITION. How packets and blocks are laid out on a link (R263, R265, R276), the LINK packets of virtual channel 3
(R275), and the loopback fibre between the device's own ports (R267). -/

namespace Sys2Proof.Machine

/-! ### Packets and blocks (R263, R265, R276) -/

/-- The 32 header bytes and the payload of a packet (R276). -/
def Packet.bytes (k : Packet) : List Byte :=
  leBytes 2 (k.dst % 1024 + k.hops % 16 * 1024) ++ leBytes 2 (k.src % 1024) ++ leBytes 1 k.ptype ++ [0] ++
  leBytes 2 k.payload.length ++ leBytes 8 k.addr ++ leBytes 8 k.deadline ++ leBytes 4 k.tag ++ leBytes 4 k.status ++ k.payload

/-- A packet from its bytes (R276). -/
def packetOf (l : List Byte) : Packet :=
  { dst := bits (leAt l 0 2) 0 10, hops := bits (leAt l 0 2) 10 4, src := bits (leAt l 2 2) 0 10, ptype := leAt l 4 1,
    addr := leAt l 8 8, deadline := leAt l 16 8, tag := leAt l 24 4, status := leAt l 28 4,
    payload := (l.drop 32).take (leAt l 6 2) }

/-- Consecutive pieces of at most `n` bytes. -/
def pieces (n : Nat) : Nat → List Byte → List (List Byte)
  | 0, _ => []
  | fuel + 1, l => if l.length ≤ n then [l] else l.take n :: pieces n fuel (l.drop n)

/-- The PKT blocks of a packet on a virtual channel (R276), before they take their SEQ. -/
def Packet.blocks (k : Packet) (vc : Nat) : List PktBlock :=
  let b := k.bytes
  let ps := pieces 124 b.length b
  (List.range ps.length).map fun i =>
    { seq := 0, vc, sop := i == 0, eop := i + 1 == ps.length, bytes := nth [] ps i }

/-- The four bytes of a block header (R265). -/
def blockHeader (typ poison void stamp : Nat) : List Byte :=
  let h := leBytes 3 (typ + 4 * poison + 8 * void + 256 * (stamp % 2 ^ 16))
  h ++ [BitVec.ofNat 8 (crc8 h)]

/-- A list of exactly `n` bytes: cut, or filled with zeros. -/
def padTo (n : Nat) (l : List Byte) : List Byte := l.take n ++ rep (n - l.length) 0#8

/-- The 132 bytes of a PKT block (R276). -/
def PktBlock.wire (b : PktBlock) : List Byte :=
  blockHeader 2 0 0 0 ++
  leBytes 4 (b.seq % 4096 + b.vc % 4 * 2 ^ 12 + b2n b.sop * 2 ^ 14 + b2n b.eop * 2 ^ 15 + b.bytes.length * 2 ^ 16) ++
  padTo 124 b.bytes

/-! ### LINK packets (R275): the bytes behind their header are log entry 44 -/

/-- The block of a LINK packet on VC 3: its SEQ is ignored (R276). -/
def linkBlock (ptype src dst : Nat) (payload : List Byte) : List Byte :=
  let k : Packet := { dst, hops := 1, src, ptype, addr := 0, deadline := 2 ^ 64 - 1, tag := 0, status := 0, payload }
  match k.blocks 3 with
  | b :: _ => b.wire
  | [] => []
/-- PTYPE of SYNC, FOLLOW and IDENT (R276). -/
def pSync : Nat := 0x40
def pFollow : Nat := 0x41
def pIdent : Nat := 0x42
/-- Payload of a SYNC packet. -/
def syncBytes (f : SyncFlit) : List Byte :=
  leBytes 2 f.dev ++ leBytes 2 f.rootDev ++ leBytes 1 f.depth ++ leBytes 1 f.state ++ leBytes 8 f.depart
/-- Payload of a FOLLOW packet. -/
def followBytes (f : FollowFlit) : List Byte := leBytes 8 f.peerDepart ++ leBytes 8 f.peerArrive
/-- Payload of an IDENT packet. -/
def identBytes (f : IdentFlit) : List Byte :=
  leBytes 2 f.dev ++ leBytes 1 f.group ++ leBytes 1 f.pos ++ leBytes 1 f.port ++ leBytes 1 f.grade

/-! ### Loopback (R267) -/

/-- The port at which a loopback port's fibre ends (R267). -/
def loopPeer (n : Nat) : Option Nat :=
  if n = 45 then some 46 else if n = 46 then some 45 else if n = 47 then some 47 else none
/-- What a port sends goes along its loopback fibre, when it has one. -/
def State.carry (s : State) (n : Nat) (w : Wire) : State :=
  match loopPeer n with
  | some m => s.modPort m fun x => { x with wire := x.wire ++ [w] }
  | none => s

/-- A frame on a fibre. -/
def Wire.frame? : Wire → Option (List Byte)
  | .frame m => some m
  | _ => none
/-- A SYNC on a fibre. -/
def Wire.sync? : Wire → Option SyncFlit
  | .sync f => some f
  | _ => none
/-- A FOLLOW on a fibre. -/
def Wire.follow? : Wire → Option FollowFlit
  | .follow f => some f
  | _ => none
/-- An IDENT on a fibre. -/
def Wire.ident? : Wire → Option IdentFlit
  | .ident f => some f
  | _ => none
/-- What arrives at a port: on a loopback port the oldest thing of a kind on its fibre, none when there is none; on every
other port what the outside sends. -/
def State.arrives {α : Type} (s : State) (n : Nat) (pick : Wire → Option α) (outside : α) : State × Option α :=
  match loopPeer n with
  | none => (s, some outside)
  | some _ =>
    match takeFirst (fun w => (pick w).isSome) (s.port n).wire with
    | some (w, rest) => (s.modPort n fun x => { x with wire := rest }, pick w)
    | none => (s, none)

/-- A LINK packet leaves a port: its block waits for VC 3's position, and a loopback fibre carries it (R267, R277). -/
def State.sendLink (s : State) (n ptype : Nat) (payload : List Byte) (w : Wire) : State :=
  (s.modPort n fun x => { x with linkq := x.linkq ++ [linkBlock ptype s.lnk.dev x.peerDev payload] }).carry n w

end Sys2Proof.Machine
end

