-- ==== Sys2Proof/Machine/Links.lean ====
section
/-! DEFINITION. The optical ports (R260 to R286): frames and blocks, circuits, the side channel, telemetry, and the way
a port comes up and goes down. -/

namespace Sys2Proof.Machine

/-! ### Light and port states (R268, R269, R283) -/

/-- Laser input of a port (R269). -/
def laserOf (n : Nat) : Nat := n / 8 * 2 + n % 8 / 4
/-- LASER.OK of a port's input (R269). -/
def State.lit (s : State) (n : Nat) : Bool := (Map.get {} s.lnk.lasers (laserOf n)).ok
/-- The state of a port on its way up: TRAIN, or DARK while the laser input is not in order (R269, R283). -/
def State.trainState (s : State) (n : Nat) : PortState := if s.lit n then .train else .dark

/-- The link of a running port goes down (R285): to TRAIN under AUTO, otherwise to FAULT. -/
def State.linkDown (s : State) (n : Nat) : State :=
  let st := if (s.port n).auto then .train else .fault
  (s.modPort n fun x => (x.flush.enter s.age st)).raisePort n 0x4007

/-- A port's side channel starts from 0 (R286). Packets that were forwarded to it meanwhile stay, and go out now (R281). -/
def Port.restart (x : Port) : Port :=
  let keep (v : Vc) : Vc := { txq := v.txq }
  { x.flush with vc0 := keep x.vc0, vc1 := keep x.vc1, vc2 := keep x.vc2 }

/-- A port comes UP (R283, R286): its side channel starts from 0; while a deck runs its circuits wait for a boundary. -/
def State.portUp (s : State) (n : Nat) : State :=
  let run := s.deckRuns
  s.modPort n fun x =>
    { x.restart.enter s.age .up with
      delayValid := false, gotSync := none, txBeat := s.now, ackAt := s.age, suspended := run }

/-- PORT_ENABLE (R268): an OFF port goes to DARK, and on to TRAIN when its light is there. -/
def execPortEnable (port : Nat) (s : State) : Res :=
  within port 64 (.next (
    let st := s.trainState port
    s.modPort port fun x =>
      if x.state = .off then { x.enter s.age st with enable := true, last := 0 } else { x with enable := true }))

/-- PORT_DISABLE (R268): the port goes to OFF at once. -/
def execPortDisable (port : Nat) (s : State) : Res :=
  within port 64 (.next (s.modPort port fun x => { x.flush.enter s.age .off with enable := false }))

/-- PORT_RETRAIN (R268): an enabled port goes to TRAIN from any state. -/
def execPortRetrain (port : Nat) (s : State) : Res :=
  within port 64 (.next (
    s.modPort port fun x => if x.enable then x.flush.enter s.age .train else x))

/-- Ports of a laser input (R269). -/
def portsOfLaser (i : Nat) : List Nat := (List.range 4).map (i / 2 * 8 + i % 2 * 4 + ·)

/-- LASER_LIGHT_GAIN (R269): the input's weakest wavelength is read. With +8.0 dBm its DARK ports go to TRAIN; below
it its ports are DARK, and a running link goes down: without AUTO it stays in FAULT (R285). -/
def execLaserLightGain (i : Nat) (power : BitVec 12) (s : State) : Res :=
  within i 16 (.next (
    let ok := decide (800 ≤ power.toInt)
    let x : Laser := Map.get {} s.lnk.lasers i
    let s1 := { s with lnk := { s.lnk with lasers := Map.set {} s.lnk.lasers i { x with power, ok } } }
    (portsOfLaser i).foldl (fun s n =>
      let st := (s.port n).state
      if ok then (if st = .dark then s.modPort n (·.enter s.age .train) else s)
      else if st = .up then
        (s.modPort n fun x => x.flush.enter s.age (if x.auto then .dark else .fault)).raisePort n 0x4007
      else if st = .off || st = .fault || st = .dark then s
      else s.modPort n (·.enter s.age .dark)) s1))

/-- LIGHT_LOSS (R285): no light reaches a port's input. -/
def execLightLoss (port : Nat) (s : State) : Res :=
  within port 64 (.next (
    let s1 := s.modPort port fun x => { x with light := false }
    if (s.port port).state = .up then s1.linkDown port else s1))

/-- TRAIN_SETTLED (R283): the equalisers have settled; the peer must have left training. -/
def execTrainSettled (port : Nat) (s : State) : Res :=
  within port 64 (.next (
    let x := s.port port
    if x.state = .train && !x.peerTraining then s.modPort port (·.enter s.age .lock) else s))

/-- 200 ms in fabric beats (R283). -/
def State.trainLimit (s : State) : Nat := match s.grade with | .a14 => 280000000 | .a12 => 252000000

/-- TRAIN_TIMEOUT (R283): a port still in TRAIN or LOCK after 200 ms enters FAULT with 0x400C. -/
def execTrainTimeout (port : Nat) (s : State) : Res :=
  within port 64 (.next (
    let x := s.port port
    if (x.state = .train || x.state = .lock) && decide (x.since + s.trainLimit ≤ s.age) then s.portFault port 0x400c else s))

/-- GRADE code (R4). -/
def Grade.code : Grade → Nat
  | .a14 => 1
  | .a12 => 2

/-- IDENT_RECEIVE (R283, R285): the peer's identity must be the expected one; without an expected peer the port stays.
A loopback port takes the packet that its fibre carries (R267). -/
def execIdentReceive (port : Nat) (f : IdentFlit) (s : State) : Res :=
  within port 64 (.next (
    match s.arrives port Wire.ident? f with
    | (s, none) => s
    | (s, some f) =>
      let x := s.port port
      if x.state ≠ .ident || !x.peerValid then s
      else if f.dev = x.peerDev && f.port = x.peerPort && f.grade = s.grade.code then s.portUp port
      else s.portFault port 0x400b))

/-- A beat is free on a port: no entry of its send table schedules it (R274). -/
def Port.freeBeat (x : Port) (beat : Nat) : Bool :=
  x.sendTbl.all fun e => ((circuitE e.2.toNat).slotAt beat).isNone

/-- Is this the first free beat of its 4,096 beats on a port (R275)? -/
def State.firstFree (s : State) (x : Port) : Bool :=
  x.freeBeat s.beat &&
    (List.range (s.now % 4096)).all fun i => !x.freeBeat ((s.now - s.now % 4096 + i) % s.tickLen)

/-- IDENT_SEND (R275): in the first free beat of every 4,096 beats, while the port is in IDENT or UP. -/
def execIdentSend (port : Nat) (s : State) : Res :=
  within port 64 (.next (
    let x := s.port port
    if (x.state = .ident || x.state = .up) && x.identAt != s.now / 4096 + 1 && s.firstFree x then
      let f : IdentFlit := { dev := s.lnk.dev, group := s.lnk.group, pos := s.lnk.pos, port, grade := s.grade.code }
      (((s.modPort port fun x => { x with identAt := s.now / 4096 + 1 }).sendLink port pIdent (identBytes f) (.ident f)).emit
        (.ident port f))
    else s))

/-! ### Blocks (R265) -/

/-- A FILL block (R265). -/
def fillBlock : List Byte := blockHeader 0 0 0 0 ++ rep 128 0#8

/-- A CIRC block of a send beat (R272): an idle slot is void; a poisoned one leaves with a zero payload. -/
def circBlock (count : Nat) (poison : Bool) (data : Option (List Byte)) : List Byte :=
  match data with
  | some d => blockHeader 1 (b2n poison) 0 count ++ (if poison then rep 128 0#8 else padTo 128 d)
  | none => blockHeader 1 (b2n poison) (b2n (!poison)) count ++ rep 128 0#8

/-! ### The transmitter (R272 to R279) -/

/-- Blocks that a VC's credit buffer holds (R275). -/
def vcSize : Nat → Nat
  | 2 => 64
  | _ => 512
/-- The sender may send a block on a VC (R278). -/
def Vc.hasCredit (v : Vc) (vc : Nat) : Bool := decide ((v.sent + 2 ^ 16 - v.credit) % 2 ^ 16 < vcSize vc)

/-- The oldest waiting packet of each input (R277). -/
def heads (l : List (Nat × Nat × Packet)) : List (Nat × Nat × Packet) :=
  l.foldl (fun h e => if h.any (·.1 == e.1) then h else h ++ [e]) []

/-- Remove the first packet of an input. -/
def dropInput (i : Nat) : List (Nat × Nat × Packet) → List (Nat × Nat × Packet)
  | [] => []
  | e :: es => if e.1 = i then es else e :: dropInput i es

/-- A contested router turn is won (R277): it advances the counter of the winner's table, or the device's (R378). -/
def State.countTurn (s : State) (input : Nat) : State :=
  if input < 208 then s.addChoice (input / 13) 1
  else { s with tly := { s.tly with choiceDev := min (s.tly.choiceDev + 1) (2 ^ 64 - 1) } }

/-- The input whose packet has the next turn on a VC (R277): round robin in ascending order of the inputs' numbers, tiles
before forwarded traffic before the HIF (log entry 4). -/
def Vc.nextInput (v : Vc) : Option (Nat × Nat × Packet) :=
  let least (l : List (Nat × Nat × Packet)) : Option (Nat × Nat × Packet) :=
    l.foldl (fun b e => match b with | some x => if e.1 < x.1 then some e else b | none => some e) none
  let hs := heads v.txq
  match least (hs.filter fun e => decide (v.turn ≤ e.1)) with
  | some e => some e
  | none => least hs

/-- Cut the next packet of a VC into blocks, when none is being sent (R276, R277). -/
def State.nextPacket (s : State) (n vc : Nat) : State :=
  let v := (s.port n).vc vc
  if !v.txb.isEmpty then s
  else
    match v.nextInput with
    | none => s
    | some (input, since, k) =>
      let s := s.modPort n fun x => x.modVc vc fun v =>
        { v with txb := k.blocks vc, txSince := since, txq := dropInput input v.txq, turn := input + 1 }
      if 1 < (heads v.txq).length then s.countTurn input else s

/-- A VC has a block to send (R277). -/
def Vc.waits (v : Vc) : Bool := !v.txb.isEmpty || !v.txq.isEmpty
/-- Some VC of a port waits for credit (R282). -/
def Port.starved (x : Port) : Bool := [0, 1, 2].any fun c => (x.vc c).waits && !(x.vc c).hasCredit c

/-- Send the next block of a VC (R278, R279), when it has one, credit for it and room to keep it. A packet starts only
then. -/
def State.sendBlock (s : State) (n vc : Nat) : State × Option PktBlock :=
  if !((s.port n).vc vc).hasCredit vc || 2048 ≤ (s.port n).replay.length then (s, none)
  else
    let s := s.nextPacket n vc
    let x := s.port n
    match (x.vc vc).txb with
    | [] => (s, none)
    | b :: bs =>
      let b := { b with seq := x.seq }
      (s.modPort n fun x =>
        { x.modVc vc fun v => { v with txb := bs, sent := (v.sent + 1) % 2 ^ 16 } with
          seq := (x.seq + 1) % 4096, replay := x.replay ++ [b],
          ackAt := if x.replay.isEmpty then s.age else x.ackAt }, some b)

/-- The PKT block of VCs 0 to 2 for a free position (R277): a resend, else VC 1, VC 0, VC 2 in this order. -/
def State.nextPkt (s : State) (n : Nat) : State × Option PktBlock :=
  let s := if (s.port n).starved then s.modPort n fun x => { x with stalled := true } else s
  match (s.port n).resend with
  | b :: bs => (s.modPort n fun x => { x with resend := bs }, some b)
  | [] =>
    match s.sendBlock n 1 with
    | (s, some b) => (s, some b)
    | (s, none) =>
      match s.sendBlock n 0 with
      | (s, some b) => (s, some b)
      | (s, none) => s.sendBlock n 2

/-- A PKT block left a port (R282). -/
def Port.countPkt (x : Port) : Port := { x with cPkt := min (x.cPkt + 1) (2 ^ 32 - 1) }

/-- The block of a position that no circuit slot takes: a LINK packet on a port in IDENT or UP, and on a port that is UP
any other PKT block (R275, R277). -/
def State.freePosition (s : State) (n : Nat) : State × List Byte :=
  let x := s.port n
  match x.linkq with
  | b :: bs =>
    if x.state = .ident || x.state = .up then (s.modPort n fun p => { p.countPkt with linkq := bs }, padTo 132 b)
    else (s, fillBlock)
  | [] =>
    if x.state = .up then
      match s.nextPkt n with
      | (s, some b) => (s.modPort n Port.countPkt, b.wire)
      | (s, none) => (s, fillBlock)
    else (s, fillBlock)

/-- One block position of a frame, standing for a send beat when that beat is past (R272). -/
def State.sendPosition (s : State) (n x : Nat) : State × List Byte :=
  let circ := if x < s.now then (s.port n).filled.find? (·.1 == x) else none
  match circ with
  | some (_, poison, data) =>
    (s.modPort n fun p => { p with filled := p.filled.filter (·.1 != x), cCirc := min (p.cCirc + 1) (2 ^ 32 - 1) },
     circBlock x poison data)
  | none => s.freePosition n

/-- The frame header (R263). -/
def State.frameHeader (s : State) (n : Nat) : List Byte :=
  let x := s.port n
  let h := ((List.range 8).map fun _ => [0xc3#8, 0x5a#8]).flatten ++ leBytes 6 x.frame ++
    leBytes 2 (s.lnk.dev % 1024 + n * 1024) ++ leBytes 2 x.expect ++
    leBytes 2 (match x.nak with | some q => q % 4096 + 4096 | none => 0) ++
    leBytes 2 x.vc0.freed ++ leBytes 2 x.vc1.freed ++ leBytes 2 x.vc2.freed ++
    leBytes 2 (b2n (!x.light) + 2 * b2n (x.state = .train)) ++ rep 76 0#8
  h ++ leBytes 4 (crc32c h)

/-- Do frames cross a port in its state (R283)? -/
def PortState.sends : PortState → Bool
  | .train | .lock | .ident | .up => true
  | _ => false

/-- FRAME_SEND (R261): the header, then 77 blocks (R272); the send beats up to now take the first positions. A port in
TRAIN sends PRBS13 in place of frames (R283). -/
def execFrameSend (port : Nat) (s : State) : Res :=
  within port 64 (.next (
    let x := s.port port
    if !x.state.sends then s
    else if x.state = .train then s.emit (.training port trainingLine)
    else
      let h := s.frameHeader port
      let (s1, body) := (List.range 77).foldl (fun (a : State × List (List Byte)) i =>
        let (s, b) := a.1.sendPosition port (x.txBeat + i)
        (s, b :: a.2)) (s, [])
      let msg := h ++ body.reverse.flatten
      ((s1.modPort port fun y =>
        { y with frame := (y.frame + 1) % 2 ^ 48, nak := none, txBeat := min s.now (x.txBeat + 77) }).carry port (.frame msg)).emit
        (.frame port msg (frameLine msg))))

/-! ### The receiver (R264 to R281) -/

/-- Codewords that message bytes `[o, o + n)` of a frame lie in decoded without failure (R262). -/
def codeOk (failed : List Nat) (o n : Nat) : Bool :=
  failed.all fun c => c < 8 * o / 5140 || (8 * (o + n) - 1) / 5140 < c

/-- A circuit block arrives (R273): it waits in the receive hold for its release beat, or is discarded with 0x4004. A
copy that arrives after its release beat is discarded (R51). -/
def State.recvCirc (s : State) (n stamp : Nat) (poison void : Bool) (data : List Byte) : State :=
  let b := s.now - (s.now + 2 ^ 16 - stamp) % 2 ^ 16
  let r := b + (if n < 48 then s.rcu.eqNear else s.rcu.eqFar)
  let t := (r / s.tickLen) % 2 ^ 48
  let beat := r % s.tickLen
  match (s.port n).recvTbl.find? fun e =>
    let c := circuitE e.2.toNat
    (c.slotAt beat).isSome && s.liveAt c t with
  | none => s.raisePort n 0x4004
  | some e =>
    let s := s.meetCircuit n (4096 + e.1)
    if r < s.now then s
    else
      s.modPort n fun x =>
        { x with hold := x.hold ++ [{ release := r, ltile := (circuitE e.2.toNat).ltile, entry := e.1, poison, void, data }] }

/-- A NAK is due with the next expected SEQ (R280). -/
def Port.askAgain (x : Port) : Port := { x with nak := some x.expect, dropping := true }

/-- Known packet types (R276). -/
def knownType (t : Nat) : Bool :=
  [0x01, 0x02, 0x03, 0x04, 0x05, 0x06, 0x10, 0x11, 0x12, 0x20, 0x30, 0x40, 0x41, 0x42].contains t

/-- Blocks leave a receive buffer (R278). -/
def Port.free (x : Port) (vc blocks : Nat) : Port := x.modVc vc fun v => { v with freed := (v.freed + blocks) % 2 ^ 16 }

/-- A whole packet has arrived (R276, R281): kept for this device, forwarded, or discarded. -/
def State.recvPacket (s : State) (n vc blocks : Nat) (k : Packet) : State :=
  if !knownType k.ptype then (s.modPort n (·.free vc blocks)).raisePort n 0x4009
  else if k.dst = s.selfDev then
    s.modPort n fun x => x.modVc vc fun v => { v with rxq := v.rxq ++ [(blocks, k)] }
  else
    let s := (s.modPort n (·.free vc blocks)).meetRoute k.dst
    let w := s.routeWord k.dst
    if k.hops ≤ 1 || !bit w 6 then s.raisePort n 0x4006
    else s.queuePacket (bits w 0 6) vc inForward { k with hops := k.hops - 1 }

/-- A readable PKT block arrives (R280): accepted in SEQ order, else a NAK is asked for. The blocks of a packet whose end
the sender gave up (R281) leave the buffer with the next packet's first block. -/
def State.recvPkt (s : State) (n word : Nat) (bytes : List Byte) : State :=
  let vc := bits word 12 2
  let x := s.port n
  if vc = 3 then
    (if bit word 14 && !knownType (packetOf bytes).ptype then s.raisePort n 0x4009 else s)
  else if bits word 0 12 ≠ x.expect then (if x.dropping then s else s.modPort n (·.askAgain))
  else
    let v := x.vc vc
    let sop := bit word 14
    let part := (if sop then [] else v.part) ++ bytes
    let count := (if sop then 0 else v.partBlocks) + 1
    let s := s.modPort n fun x =>
      { (if sop then x.free vc v.partBlocks else x).modVc vc fun v => { v with part := if bit word 15 then [] else part, partBlocks := if bit word 15 then 0 else count } with
        expect := (x.expect + 1) % 4096, dropping := false }
    if bit word 15 then s.recvPacket n vc count (packetOf part) else s

/-- The payload of block `i` of a frame lies in codewords that decoded (R266). -/
def blockGood (failed : List Nat) (i : Nat) : Bool := codeOk failed (120 + 132 * i) 128
/-- Block `i` of a frame is readable (R266, R276): its 132 bytes, and the codewords that failed. -/
def blockReadable (failed : List Nat) (i : Nat) (b : List Byte) : Bool :=
  let w := leAt b 0 3
  let n := bits (leAt b 4 4) 16 7
  codeOk failed (116 + 132 * i) 4 && leAt b 3 1 == crc8 (b.take 3) && bits w 0 2 != 3 &&
    !(bits w 0 2 == 2 && blockGood failed i && (n == 0 || 124 < n))
/-- A block raises 0x4008 (R266): it is unreadable, or a CIRC or PKT whose payload lies in a codeword that failed. -/
def blockFails (failed : List Nat) (i : Nat) (b : List Byte) : Bool :=
  !blockReadable failed i b || (bits (leAt b 0 3) 0 2 != 0 && !blockGood failed i)

/-- One received block (R266): its index, its 132 bytes, the codewords that failed. -/
def State.recvBlock (s : State) (n : Nat) (failed : List Nat) (i : Nat) (b : List Byte) : State :=
  let w := leAt b 0 3
  let data := b.drop 4
  let word := leAt data 0 4
  let good := blockGood failed i
  if !blockReadable failed i b then (s.modPort n (·.askAgain)).raisePort n 0x4008
  else if bits w 0 2 = 0 then s
  else if bits w 0 2 = 1 then
    if good then s.recvCirc n (bits w 8 16) (bit w 2) (bit w 3) data
    else (s.recvCirc n (bits w 8 16) true (bit w 3) (rep 128 0#8)).raisePort n 0x4008
  else if good then s.recvPkt n word ((data.drop 4).take (bits word 16 7))
  else (s.modPort n (·.askAgain)).raisePort n 0x4008

/-- Apply a good header's ACK (R280): blocks that it passes leave the replay buffer. -/
def Port.ack (x : Port) (now a : Nat) : Port :=
  match x.replay with
  | [] => x
  | b :: _ =>
    let n := (a + 4096 - b.seq) % 4096
    if n = 0 || x.replay.length < n then x else { x with replay := x.replay.drop n, ackAt := now }

/-- Apply a NAK (R280): resend from the named SEQ; the sixteenth for one SEQ gives FAULT with 0x4005. -/
def State.recvNak (s : State) (n q : Nat) : State :=
  let x := s.port n
  let k := if x.nakSeq = q then x.nakCount + 1 else 1
  let s := s.modPort n fun x =>
    { x with nakSeq := q, nakCount := k, cNaks := min (x.cNaks + 1) 255, resend := x.replay.dropWhile (·.seq != q) }
  if 16 ≤ k then s.portFault n 0x4005 else s

/-- Apply a good header on a port that is UP: ACK, NAK and CREDIT (R263, R264). -/
def State.recvHeader (s : State) (n : Nat) (h : List Byte) : State :=
  let c (i : Nat) : Nat := leAt h (28 + 2 * i) 2
  let s := s.modPort n fun x =>
    let x := x.ack s.age (bits (leAt h 24 2) 0 12)
    { x with vc0 := { x.vc0 with credit := c 0 }, vc1 := { x.vc1 with credit := c 1 }, vc2 := { x.vc2 with credit := c 2 } }
  let k := leAt h 26 2
  if bit k 12 then s.recvNak n (bits k 0 12) else s

/-- The 77 blocks of a frame in order; a port that has left UP ignores the rest. -/
def State.recvBlocks (s : State) (n : Nat) (failed : List Nat) : Nat → List Byte → State
  | i, l =>
    (List.range i).foldl (fun (a : State × List Byte) k =>
      if (a.1.port n).state = .up then (a.1.recvBlock n failed k (a.2.take 132), a.2.drop 132) else a) (s, l) |>.1

/-- A header is good: MARK and FCRC match (R264). -/
def goodHeader (h : List Byte) : Bool :=
  h.take 16 == ((List.range 8).map fun _ => [0xc3#8, 0x5a#8]).flatten && leAt h 112 4 == crc32c (h.take 112)

/-- A decoded frame comes in on a port (R264): flags and counters first; a port in LOCK counts good frames (R283); a port
that is UP applies the header and takes its blocks, and four bad headers in a row end the link (R285). A codeword that failed
raises 0x4008 even where no block reports it. -/
def State.takeFrame (s : State) (port : Nat) (f : Decoded) : State :=
    let h := f.msg.take 116
    let ok := goodHeader h
    let st := (s.port port).state
    if !st.sends then s
    else
      let s1 := s.modPort port fun x =>
        { x with
          light := true,
          cUncorr := min (x.cUncorr + f.failed.length) 255, cCorr := x.cCorr + f.corrected,
          peerFault := if ok then bit (leAt h 34 2) 0 else x.peerFault,
          peerTraining := if ok then bit (leAt h 34 2) 1 else x.peerTraining,
          badFrames := if ok then 0 else x.badFrames + 1,
          good := if ok && f.failed.isEmpty then x.good + 1 else 0 }
      match st with
      | .lock => if 64 ≤ (s1.port port).good then s1.modPort port (·.enter s.age .ident) else s1
      | .up =>
        if 4 ≤ (s1.port port).badFrames then s1.linkDown port
        else
          let s2 := if ok then s1.recvHeader port h else s1
          let told := (s2.port port).state == .up &&
            (List.range 77).any fun i => blockFails f.failed i (slice f.msg (116 + 132 * i) 132)
          (if f.failed.isEmpty || told then s2 else s2.raisePort port 0x4008).recvBlocks port f.failed 77 (f.msg.drop 116)
      | _ => s1

/-- FRAME_RECEIVE (R260, R264): the codewords that arrive are decoded, and the frame is taken. A loopback port receives
the oldest frame that its fibre carries, with the operand's symbol errors (R267). -/
def execFrameReceive (port : Nat) (f : RxFrame) (s : State) : Res :=
  within port 64 (.next (
    match s.arrives port Wire.frame? f.msg with
    | (s, none) => s
    | (s, some m) => s.takeFrame port (decodeFrame { f with msg := m })))

/-- ACK_TIMEOUT (R280): blocks outstanding and no ACK for 8,192 beats. -/
def execAckTimeout (port : Nat) (s : State) : Res :=
  within port 64 (.next (
    let x := s.port port
    if x.state = .up && !x.replay.isEmpty && decide (x.ackAt + 8192 ≤ s.age) then s.portFault port 0x4005 else s))

/-- The oldest packet of a VC that has waited 65,536 beats (R281) is gone: the rest of one that has begun to leave, or
one that waits for its turn; none when no packet has waited so long. -/
def Vc.discardOld (v : Vc) (now : Nat) : Option Vc :=
  let old (since : Nat) : Bool := decide (since + 65536 ≤ now)
  if !v.txb.isEmpty && old v.txSince then some { v with txb := [] }
  else (takeFirst (fun e => old e.2.1) v.txq).map fun r => { v with txq := r.2 }

/-- PACKET_WAIT_LIMIT (R281): the oldest packet that has waited 65,536 beats is discarded with 0x400A. -/
def execPacketWaitLimit (port : Nat) (s : State) : Res :=
  within port 64 (.next (
    match (List.range 3).find? fun v => (((s.port port).vc v).discardOld s.age).isSome with
    | none => s
    | some v => (s.modPort port fun x => x.modVc v fun y => (y.discardOld s.age).getD y).raisePort port 0x400a))

/-! ### Circuit slots are released (R45, R213) -/

/-- A poisoned slot reaches a tile (R213): it counts, and the CRECV that claims it remembers. -/
def State.poisonSlot (s : State) (p op : Nat) : State :=
  s.modTile p fun t =>
    { ((t.keepBefore (s.stamp (p / 13))).modOp op fun o => { o with slots := o.slots + 1, poisoned := true }) with
      poison := t.poison + 1 }

/-- A slot of a circuit with a CRECV that still has slots to take (R213): index `i` of the claim. -/
def State.takeSlot (s : State) (p port entry op i : Nat) (h : Option Held) : State :=
  let s := s.modTile p fun t => { t with crecvs := t.crecvs.map fun c =>
    if c.1 = port && c.2.1 = entry then (c.1, c.2.1, c.2.2.1, i + 1) else c }
  match (s.tile p).op? op with
  | none => if h.isNone then s.raiseDeadline p 0 0x5011 else s
  | some o =>
    if o.nslots ≤ i then (if h.isNone then s.raiseDeadline p o.bundle 0x5011 else s)
    else
      match h with
      | none => (s.poisonSlot p op).raiseDeadline p o.bundle 0x5011
      | some h =>
        if h.poison then (s.poisonSlot p op).raiseTile p o.bundle 0x4001
        else if h.void then s.modTile p (·.modOp op fun o => { o with slots := o.slots + 1 })
        else if 32 ≤ (s.tile p).landingCount then (s.poisonSlot p op).raiseExt p 0x3007
        else
          let no := (s.tile p).nextOp
          let s := s.modTile p fun t =>
            { (t.modOp op fun o => { o with slots := o.slots + 1 }) with nextOp := no + 1, landAt := s.age + 1 }
          (List.range (min 2 (o.n - 2 * i))).foldl (fun s k =>
            let row := o.arg2 + 2 * i + k
            if row < mappedRows then
              s.modTile p fun t => (t.modOp op fun o => { o with writes := o.writes + 1 }).request
                { cls := 3, seq := no, row, deadline := o.deadline, since := s.age,
                  use := .write 0 ((h.data.drop (64 * k)).take 64) op }
            else s.opFault p op) s

/-- The slot that a port's receive table schedules at this beat is released to its tile, or found absent (R51). -/
def State.releaseSlot (s : State) (n entry : Nat) (c : CircuitE) : State :=
  let p := s.physOf c.ltile
  let h := (s.port n).hold.find? fun x => x.release = s.now && x.entry = entry
  let s := s.modPort n fun x => { x with hold := x.hold.filter fun y => decide (s.now < y.release) }
  match (s.tile p).crecvs.find? fun x => x.1 = n && x.2.1 = entry with
  | some (_, _, op, i) => s.takeSlot p n entry op i h
  | none =>
    match h with
    | none => s.raiseDeadline p 0 0x5011
    | some h => if h.void then s else s.raiseExt p 0x4003

/-- CIRCUIT_SLOT_RELEASE (R45): once per beat and port. -/
def execCircuitSlotRelease (port : Nat) (s : State) : Res :=
  within port 64 (.next (
    if s.age < (s.port port).relAt then s
    else
      match (s.port port).recvTbl.find? fun e =>
        let c := circuitE e.2.toNat
        (c.slotAt s.beat).isSome && s.liveAt c s.tick with
      | none => s
      | some e =>
        ((s.modPort port fun x => { x with relAt := s.age + 1 }).meetCircuit port (4096 + e.1)).releaseSlot port e.1 (circuitE e.2.toNat)))

/-! ### Packets for this device -/

/-- Take the oldest packet of a VC when it is of the wanted kind; its blocks leave the buffer (R278). -/
def State.takePacket (s : State) (n vc : Nat) (want : Packet → Bool) : Option (State × Packet) :=
  match ((s.port n).vc vc).rxq with
  | [] => none
  | (b, k) :: rest =>
    if want k then
      some (s.modPort n fun x => (x.modVc vc fun v => { v with rxq := rest }).free vc b, k)
    else none

/-- Is the packet of a type? -/
def ofType (t : Nat) (k : Packet) : Bool := k.ptype == t

/-- The tile that a packet's global address names on this device (R7). -/
def State.packetTile (s : State) (a : Nat) : Option (Nat × Nat) :=
  let lt := bits a 23 8
  if lt / 12 < 16 && lt % 12 < s.seats then some (lt, bits a 0 23) else none

/-- The requester's key and its tracker, from SRC and TAG (R276). -/
def Packet.sender (k : Packet) : Nat × Nat := (256 * (k.src + 1) + bits k.tag 0 8, bits k.tag 8 10)

/-- Put slots that came in on a port toward a tile on the crossbar (R205): one per beat, behind those of the port's earlier
packets that still cross, so that they land in the order in which they left (R206, R214). -/
def State.cross (s : State) (port : Nat) (l : List XSlot) : State :=
  let first := ((s.xbar.filter fun x => x.port == port + 1).map fun x => x.arrive + 1).foldl max (s.age + 6)
  { s with xbar := s.xbar ++ (List.range l.length).filterMap fun i =>
      (l[i]?).map fun x => { x with arrive := first + i, port := port + 1 } }

/-- A packet's rows join the operation of another requester (R207): one acknowledgement per packet. A packet with another
deadline belongs to a later operation under the same tracker. -/
def Tile.growRx (t : Tile) (src op total : Nat) (deadline : Nat) : Tile :=
  if t.rx.any fun x => x.src = src && x.op = op && x.deadline = deadline then
    t.modRx src op fun x => { x with total := if total = 2 ^ 32 then x.total else x.total + total, owed := x.owed + 1 }
  else { t with rx := t.rx.filter fun x => !(x.src = src && x.op = op) }.openRx src op total deadline none

/-- RWR_RECEIVE (R209): the rows of a remote write go to the tile, two per slot. -/
def execRwrReceive (port : Nat) (s : State) : Res :=
  within port 64 (.next (
    match s.takePacket port 0 (ofType pRwr) with
    | none => s
    | some (s1, k) =>
      match s1.packetTile k.addr with
      | none => s1
      | some (lt, off) =>
        let (src, op) := k.sender
        let ps := pieces 128 k.payload.length k.payload
        if k.payload.isEmpty then s1
        else
          let rows := ceilDiv k.payload.length 64
          let s2 := s1.modTile (s1.physOf lt) (·.growRx src op rows k.deadline)
          s2.cross port ((List.range ps.length).map fun i =>
            { src, op, dst := lt, arrive := 0, deadline := k.deadline, total := rows, flag := none, poisoned := false,
              body := .rows (off / 64 + 2 * i) (ceilDiv (nth [] ps i).length 64) (padTo 128 (nth [] ps i)) })))

/-- RFLAG_RECEIVE (R194, R207, R208, R214): a flag word from another device. Its third payload word says whether it is a
FLAGW to acknowledge (1), or the completion flag behind the rows of an operation (2), which waits until every one of them
is in its bank; without the operation's rows it is not written. -/
def execRflagReceive (port : Nat) (s : State) : Res :=
  within port 64 (.next (
    match s.takePacket port 0 (ofType pRflag) with
    | none => s
    | some (s1, k) =>
      let (src, op) := k.sender
      let kind := leAt k.payload 8 4
      let f : FlagReq := { dev := bits k.addr 31 10, ltile := bits k.addr 23 8, off := bits k.addr 0 23,
                           value := leAt k.payload 0 4, mode := leAt k.payload 4 4 }
      if kind = 2 then
        let p := s1.physOf (leAt k.payload 12 4)
        s1.modTile p fun t => { t with rx := t.rx.map fun x =>
          if x.src = src && x.op = op && x.deadline = k.deadline then
            { x with flag := some f, total := max x.total (leAt k.payload 16 4) }
          else x }
      else
        match s1.packetTile k.addr with
        | none => s1
        | some (lt, _) =>
          s1.cross port [{ src, op := if kind = 1 then op else 0, dst := lt, arrive := 0, deadline := k.deadline, total := kind,
                           flag := none, poisoned := false, body := .flag f }]))

/-- RRD_RECEIVE (R209): rows of this device are asked for. -/
def execRrdReceive (port : Nat) (s : State) : Res :=
  within port 64 (.next (
    match s.takePacket port 0 (ofType pRrd) with
    | none => s
    | some (s1, k) =>
      match s1.packetTile k.addr with
      | none => s1
      | some (lt, off) =>
        let (src, op) := k.sender
        s1.cross port [{ src, op, dst := lt, arrive := 0, deadline := k.deadline, total := 0, flag := none, poisoned := false,
                           body := .rdReq (off / 64) (off % 64 + 1) }]))

/-- The tracked operation of a tile that a tracker number of a packet names. -/
def Tile.byTracker (t : Tile) (n : Nat) : Option Op := t.ops.find? fun o => o.tracked && o.id % 1024 == n

/-- Rows of another device come back to the SVC (R342): those from `row` on of a logical tile. -/
def SvcRead.reply (x : SvcRead) (dev lt row status : Nat) (data : List Byte) : SvcRead :=
  let mine (f : Nat × Nat × Nat × Nat) : Bool :=
    f.1 == dev && f.2.1 == lt && decide (row ≤ f.2.2.1) && decide (64 * (f.2.2.1 - row + 1) ≤ data.length)
  { x with far := x.far.filter fun f => !mine f, bad := x.bad || (status != 0 && x.far.any mine),
           buf := (x.far.filter mine).foldl (fun b f => writeCells b f.2.2.2 (slice data (64 * (f.2.2.1 - row)) 64)) x.buf }

/-- A reply to the SVC, whose TAG has the number of its read. -/
def State.svcReply (s : State) (k : Packet) : State :=
  let take (x : SvcRead) : SvcRead :=
    if x.id % 1024 = bits k.tag 8 10 then x.reply k.src (bits k.addr 23 8) (bits k.addr 6 17) (bits k.status 0 16) k.payload else x
  { s with svc := { s.svc with reads := s.svc.reads.map take } }

/-- RRSP_RECEIVE (R209): rows of a DMAR come back, two per slot, or rows that the SVC reads; ADDR names the first of them where
it was read. -/
def execRrspReceive (port : Nat) (s : State) : Res :=
  within port 64 (.next (
    match s.takePacket port 1 (ofType pRrsp) with
    | none => s
    | some (s1, k) =>
      let lt := bits k.tag 0 8
      if lt = noLtile then s1.svcReply k else
      match (s1.tile (s1.physOf lt)).byTracker (bits k.tag 8 10) with
      | none => s1
      | some o =>
        let ps := pieces 128 k.payload.length k.payload
        if k.payload.isEmpty then s1
        else
          s1.cross port ((List.range ps.length).map fun i =>
            { src := 256 * (k.src + 1), op := o.id, dst := lt, arrive := 0, deadline := k.deadline, total := 0,
              flag := none, poisoned := false,
              body := .rdReply (bits k.addr 6 17 - o.dst.2.2 + 2 * i) (ceilDiv (nth [] ps i).length 64)
                (padTo 128 (nth [] ps i)) })))

/-- RPUSH_RECEIVE (R211): entries for a ring of this device. -/
def execRpushReceive (port : Nat) (s : State) : Res :=
  within port 64 (.next (
    match s.takePacket port 0 (ofType pRpush) with
    | none => s
    | some (s1, k) =>
      match s1.packetTile k.addr with
      | none => s1
      | some (lt, off) =>
        let (src, op) := k.sender
        let data := k.payload.drop 4
        let ps := pieces 128 data.length data
        let s2 := s1.modTile (s1.physOf lt) (·.growRx src op (2 ^ 32) k.deadline)
        s2.cross port ((List.range ps.length).map fun i =>
          { src, op, dst := lt, arrive := 0, deadline := k.deadline, total := 0, flag := none, poisoned := false,
            body := .push (off % 16) (off / 16) (leAt k.payload 0 4 + 128 * i) (nth [] ps i) })))

/-- RACK_RECEIVE (R208, R211): an acknowledgement, or the status of a refused push. -/
def execRackReceive (port : Nat) (s : State) : Res :=
  within port 64 (.next (
    match s.takePacket port 1 (ofType pRack) with
    | none => s
    | some (s1, k) =>
      let p := s1.physOf (bits k.tag 0 8)
      match (s1.tile p).byTracker (bits k.tag 8 10) with
      | none => s1
      | some o =>
        (s1.modTile p fun t => { t with acks := t.acks ++ [(s.age, o.id, bits k.status 0 16)] }).takeAcks p))

/-! ### Telemetry (R282, R308) -/

/-- Blocks that wait on the VCs of a port (R282). -/
def Port.backlog (x : Port) : Nat :=
  ([x.vc0, x.vc1, x.vc2].map fun v =>
    v.txb.length + (v.txq.map fun e => ceilDiv (32 + e.2.2.payload.length) 124).sum).sum

/-- Copy a port's counters into LNK.CMAP and clear them (R282). -/
def Port.windowEnd (x : Port) : Port :=
  let w (v : Nat) : Word := BitVec.ofNat 32 v
  let bk := min x.backlog 0xffff
  { x with
    cmap := [w x.cCirc, w x.cPkt, w (max x.cBmax bk + bk * 2 ^ 16),
             w (x.cNaks + x.cStall * 2 ^ 8 + x.cUncorr * 2 ^ 16 + flog2 (x.cCorr + 1) * 2 ^ 24)],
    cCirc := 0, cPkt := 0, cBmax := 0, cNaks := 0, cStall := 0, cUncorr := 0, cCorr := 0 }

/-- TELEMETRY_WINDOW_END (R282): at a boundary where tick mod 2^WLOG is 0, the counters are copied, and with TEN the
64 records go to DEST. -/
def execTelemetryWindowEnd (s : State) : Res :=
  .next (
    if s.beat ≠ 0 || s.tick % 2 ^ s.lnk.wlog ≠ 0 then s
    else
      let s1 := (List.range 64).foldl (fun s n => s.modPort n Port.windowEnd) s
      if !s.lnk.ten then s1
      else
        let data := ((List.range 64).map fun n => ((s1.port n).cmap.map fun w => leBytes 4 w.toNat).flatten).flatten
        if s.lnk.dest = s.lnk.dev then
          s1.addTele s.now s.lnk.dev data
        else
          s1.sendPacket 2 inHif { dst := s.lnk.dest, hops := 15, src := s.lnk.dev, ptype := pTele, addr := s.now,
                                  deadline := noDeadline, tag := 0, status := 0, payload := data })

/-- TELE_RECEIVE (R282, R308): a TELE packet passes to the HIF's telemetry ring. -/
def execTeleReceive (port : Nat) (s : State) : Res :=
  within port 64 (.next (
    match s.takePacket port 2 (ofType pTele) with
    | none => s
    | some (s1, k) => s1.addTele k.addr k.src k.payload))

end Sys2Proof.Machine
end

