-- ==== Sys2Proof/Machine/Flash.lean ====
section
/-! DEFINITION. The flash's record stores (R404, R405): two banks a record, which of them is valid, and the calibration
record that keeps the trims (R390). -/

namespace Sys2Proof.Machine

/-- Bytes of a bank of a record (R404). -/
def FlashPart.size : FlashPart → Nat
  | .pattern _ => 8192
  | .calib => 2 ^ 18
  | _ => 4096
/-- A record's banks. -/
def Flash.record (f : Flash) : FlashPart → FlashRec
  | .pattern i => Map.get ([], []) f.patterns i
  | .calib => f.calib
  | .key i => Map.get ([], []) f.keys i
  | .boot => f.boot
  | .page i => Map.get ([], []) f.log i
/-- Replace a record's banks. -/
def Flash.setRecord (f : Flash) (w : FlashPart) (r : FlashRec) : Flash :=
  match w with
  | .pattern i => { f with patterns := Map.set ([], []) f.patterns i r }
  | .calib => { f with calib := r }
  | .key i => { f with keys := Map.set ([], []) f.keys i r }
  | .boot => { f with boot := r }
  | .page i => { f with log := Map.set ([], []) f.log i r }

/-- A bank's SEQ and payload, when it is valid (R405): MAGIC matches, LEN fits, the CRC matches. -/
def bankOf (size : Nat) (b : Bank) : Option (Nat × List Byte) :=
  let len := leAt b 8 4
  let pay := (b.drop 16).take len
  if b.take 4 == [0x46#8, 0x56#8, 0x32#8, 0x53#8] && decide (len + 16 ≤ size) && pay.length == len &&
      leAt b 12 4 == crc32c (b.take 12 ++ pay) then some (leAt b 4 4, pay)
  else none
/-- The bank that a read takes (R405), the second one or the first: the valid one with the higher SEQ. -/
def pickBank (size : Nat) (r : FlashRec) : Option Bool :=
  match bankOf size r.1, bankOf size r.2 with
  | some a, some b => some (decide (a.1 < b.1))
  | some _, none => some false
  | none, some _ => some true
  | none, none => none
/-- A bank of a record. -/
def bankAt (r : FlashRec) (second : Bool) : Bank := if second then r.2 else r.1
/-- What a record reads as (R405): SEQ and payload of the bank that wins, none when it is empty. -/
def recordOf (size : Nat) (r : FlashRec) : Option (Nat × List Byte) :=
  (pickBank size r).bind fun x => bankOf size (bankAt r x)
/-- The bank that a write takes (R405), the second one or the first: the one that is invalid or holds the lower SEQ. -/
def targetBank (size : Nat) (r : FlashRec) : Bool :=
  match bankOf size r.1, bankOf size r.2 with
  | none, _ => false
  | _, none => true
  | some a, some b => decide (b.1 < a.1)
/-- A record with the contents of one bank replaced. -/
def setBank (r : FlashRec) (second : Bool) (b : Bank) : FlashRec := if second then (r.1, b) else (b, r.2)
/-- A write of a record (R405). -/
def writeBank (size : Nat) (r : FlashRec) (seq : Nat) (payload : List Byte) : FlashRec :=
  setBank r (targetBank size r) (bankBytes seq payload)
/-- A write of a record whose header is never written (R405): its bank is left invalid, and the other one stands. -/
def spoilBank (size : Nat) (r : FlashRec) : FlashRec := setBank r (targetBank size r) []
/-- SEQ of the next write of a record (R405): the higher SEQ + 1, or 1. -/
def nextSeq (size : Nat) (r : FlashRec) : Nat := match recordOf size r with | some b => b.1 + 1 | none => 1

/-- What a record of the flash reads as. -/
def Flash.read (f : Flash) (w : FlashPart) : Option (Nat × List Byte) := recordOf w.size (f.record w)
/-- SEQ of the next write of a record of the flash. -/
def Flash.seq (f : Flash) (w : FlashPart) : Nat := nextSeq w.size (f.record w)

/-- A record is written and verified (R405), at once or at the one retry, else 0x9009 is raised; whether it verified. -/
def State.flashWrite (s : State) (w : FlashPart) (seq : Nat) (payload : List Byte) : State × Bool :=
  let m := s.mgc
  let old := m.flash.record w
  let bad := m.flashBad.contains m.flashWrites
  let new := if bad then spoilBank w.size old else writeBank w.size old seq payload
  let s1 := { s with mgc := { m with
    flashWrites := m.flashWrites + 1, flash := m.flash.setRecord w new, flashOpen := m.flashOpen ++ [(w, targetBank w.size old)] } }
  (if bad then s1.raiseMgc 0x9009 else s1, !bad)

/-- The power goes (R405): a bank that is being written has no header yet. -/
def Mgc.cutWrites (m : Mgc) : Flash :=
  m.flashOpen.foldl (fun f w => f.setRecord w.1 (setBank (f.record w.1) w.2 [])) m.flash

/-- A key slot as its record holds it (R402); an empty record is an empty slot. -/
def Flash.key (f : Flash) (i : Nat) : KeySlot :=
  match f.read (.key i) with
  | some (_, p) => { state := leAt p 0 1, x := leAt p 1 48, y := leAt p 49 48, print := leAt p 97 2 }
  | none => {}
/-- The bank that the boot control record names (R403, R404); bank A where it is empty (log entry 25). -/
def Flash.bootBank (f : Flash) : Nat := match f.read .boot with | some (_, p) => leAt p 0 1 % 2 | none => 0

/-- Bytes of the calibration record that hold the trims. -/
def trimBytes : Nat := 416
/-- What the calibration record holds (R390, R404): STEP and EVENTS by position, and then what it held before of wavelength
tables, engine latencies and rail trims, which nothing in the device changes (log entry 25). -/
def State.calibPayload (s : State) : List Byte :=
  ((List.range 208).flatMap fun p => leBytes 1 (Map.get 0 s.tly.trim p) ++ leBytes 1 (Map.get 0 s.tly.events p)) ++
    (match s.mgc.flash.read .calib with | some (_, p) => p.drop trimBytes | none => [])

/-- Write the calibration record when the trims or the event counts differ from it (R390, R405). -/
def State.saveCalib (s : State) : State :=
  let pay := s.calibPayload
  let f := s.mgc.flash
  if (match f.read .calib with | some b => b.2 == pay | none => s.tly.trim.isEmpty && s.tly.events.isEmpty) then s
  else (s.flashWrite .calib (f.seq .calib) pay).1

/-- Trims and event counts that a boot restores (R390, R405): every trim is 0 with an empty record. -/
def calibMap (b : Option (Nat × List Byte)) (field : Nat) : List (Nat × Nat) :=
  match b with
  | none => []
  | some b => (List.range 208).foldl (fun m p => Map.set 0 m p (leAt b.2 (2 * p + field) 1)) []

/-- A scan block whose CRC-32C does not match (R404, R405). -/
def Flash.scanBad (f : Flash) (b : Nat) : Bool :=
  f.scanCrc.any fun e => e.1 == b && e.2.toNat != crc32c (readCells f.scan (65536 * b) 65536)

end Sys2Proof.Machine
end

