-- ==== Sys2Proof/Machine/Tally.lean ====
section
/-! DEFINITION. The tally (R383 to R389) and the layer digests (R380 to R382): foot writes with their check, mismatches,
captures and verdicts, and digest records. -/

namespace Sys2Proof.Machine

/-! ### The check of a row (R383, R384) -/

/-- A finite value as an integer at exponent `q`, for `q` at most its own. -/
def Val.atExp (v : Val) (q : Int) : Int :=
  match v with
  | .fin n m e =>
    let x : Int := ((m * 2 ^ (e - q).toNat : Nat) : Int)
    if n then -x else x
  | _ => 0
/-- Exponent of a finite value. -/
def Val.expo : Val → Int
  | .fin _ _ e => e
  | _ => 0
/-- Is a value finite? -/
def Val.isFin : Val → Bool
  | .fin _ _ _ => true
  | _ => false
/-- A value times a natural number. -/
def Val.times (v : Val) (n : Nat) : Val := v.mul (.fin false n 0)

/-- The value of a foot term; none for a LACC term with a flag set (R384). -/
def Pass.termValue (x : Pass) (c : Nat) : Option Val :=
  if x.strict then
    if c / 2 ^ 124 = 0 || c / 2 ^ 124 % 16 = 0 then some (.fin (decide (laccL c < 0)) (laccL c).natAbs (-64)) else none
  else if x.isInt then some (Val.ofInt (toSigned 32 c))
  else
    let v := ofFp32 c
    if v.isFin then some v else none

/-- Unbiased exponent of an FP32 code; a subnormal or zero has -126. -/
def fp32Exp (c : Nat) : Int := max ((bits c 23 8 : Int) - 127) (-126)

/-- The sums of a check at a common exponent (R383, R384): predictions, sums, bound B1, exponent. -/
structure Check where
  p1 : Int
  p2 : Int
  s1 : Int
  s2 : Int
  b1 : Int
  expo : Int

/-- The check of block `h` of a row against the exact sums that predict it; none when the row is not compared. The bound's
exponent, and the terms that keep a row from being compared, are those of all the row's terms (R384). -/
def Pass.checkSums (x : Pass) (all : List Nat) (h : Nat) (exact : List Val) : Option Check :=
  let terms := (all.drop (32 * h)).take x.outputs
  if all.any (fun c => (x.termValue c).isNone) || exact.any (fun v => !v.isFin) then none
  else
    let y := terms.map fun c => (x.termValue c).getD .nan
    let idx (l : List Val) : List Val := l.zipIdx.map fun v => v.1.times v.2
    let e : Int := all.foldl (fun a c => max a (fp32Exp c)) (-126)
    let vs := [Val.sum exact, Val.sum (idx exact), Val.sum y, Val.sum (idx y)]
    let q := vs.foldl (fun a v => min a v.expo) (min 0 (e - 18))
    let v (i : Nat) : Int := (nth .nan vs i).atExp q
    some { p1 := v 0, p2 := v 1, s1 := v 2, s2 := v 3,
           b1 := if x.strict || x.isInt then 0 else ((2 ^ (e - 18 - q).toNat : Nat) : Int), expo := q }

/-- Does a check pass (R384)? -/
def Check.passes (c : Check) : Bool :=
  decide ((c.s1 - c.p1).natAbs ≤ c.b1.natAbs) && decide ((c.s2 - c.p2).natAbs ≤ 63 * c.b1.natAbs)

/-- The quotient of two integers, rounded to the nearest, halves upward; zero over zero is zero. -/
def roundDiv (a b : Int) : Int :=
  let (a, b) := if b < 0 then (-a, -b) else (a, b)
  (2 * a + b) / (2 * b)
/-- The disputed column (R386): n* = round(d2 / d1), when the location is valid. In REV n* is one of the 32 K-rows that the
sums run over (DEDUCED, log entry 50). -/
def Check.locate (c : Check) (outputs : Nat) : Option Nat :=
  let d1 := c.s1 - c.p1
  let d2 := c.s2 - c.p2
  let n := roundDiv d2 d1
  if d1 ≠ 0 && 0 ≤ n && decide (n < outputs) && decide ((d2 - n * d1).natAbs ≤ 63 * c.b1.natAbs) then some n.toNat else none

/-- Exact values of the outputs of a row, for block `h`. -/
def Pass.exacts (x : Pass) (q r h : Nat) : List Val :=
  (List.range x.outputs).map fun n =>
    match (x.blocks q r n)[h]? with
    | some b => blockExact b.1 b.2.1 b.2.2
    | none => .fin false 0 0
/-- The 64 recorded terms of a row: of its columns, or in REV of the 32 K-rows of block 0 and then of block 1 (R386). -/
def Pass.rowTerms (x : Pass) (q r : Nat) : List Nat :=
  (List.range 64).map fun n => Map.get 0 x.terms ((q * 128 + r) * 64 + n)

/-- The outcome of a row's check: compared and right, not compared, or a mismatch with its sums, its location and the
block that failed. -/
inductive RowCheck where
  | ok
  | unchecked
  | bad (c : Check) (loc : Option Nat) (blk : Nat)

/-- The check of a row whose last term has reached its foot (R383): in REV per block, in SLIDE one channel. -/
def Pass.checkRow (x : Pass) (q r : Nat) : RowCheck :=
  let terms := x.rowTerms q r
  if x.mode = .slide then
    let n := (r + x.id / 2) % 64
    if terms.any fun c => (x.termValue c).isNone then .unchecked
    else if [nth 0 terms n] = x.colTerms q r n then .ok
    else
      .bad ((x.checkSums terms 0 (x.exacts q r 0)).getD { p1 := 0, p2 := 0, s1 := 0, s2 := 0, b1 := 0, expo := 0 }) (some n) 0
  else if x.zeroLane (q * 128 + r) then .ok
  else
    let l := (List.range (if x.mode = .rev then 2 else 1)).map fun h => (h, x.checkSums terms h (x.exacts q r h))
    if l.any fun t => t.2.isNone then .unchecked
    else
      match l.find? fun t => t.2.any fun c => !c.passes with
      | some (h, some c) => .bad c (c.locate x.outputs) h
      | _ => .ok

/-! ### FOOT_WRITE -/

/-- The tally looks at a row whose last term has been written (R383 to R385): a mismatch acts four beats after that
term reached its foot. -/
def State.tallyRow (s : State) (p : Nat) (side : Bool) (x : Pass) (q r : Nat) : State :=
  let tbl := p / 13
  match x.checkRow q r with
  | .ok => s
  | .unchecked => s.modTable tbl fun t => { t with unchecked := min 255 (t.unchecked + 1) }
  | .bad c loc blk =>
    let cap : Capture := { pass := { x with terms := [] }, side, stream := q, row := r, terms := x.rowTerms q r, blk, p1 := c.p1, p2 := c.p2, s1 := c.s1,
                           s2 := c.s2, expo := c.expo, loc, busy := false, verdict := none, since := 0 }
    let m : Mismatch := { due := x.writeBeat side r (x.outputs - 1) - x.f + 4, capture := cap,
                          halves := accHalves x.strict (x.target q r), accRow := x.target q r }
    s.modTile p fun t =>
      { t with mismatches := t.mismatches.takeWhile (fun y => decide (y.due ≤ m.due)) ++
          m :: t.mismatches.dropWhile (fun y => decide (y.due ≤ m.due)) }

/-- The next output of a row reaches its accumulator entry (R98); `upset` stands for what a faulty array delivers. -/
def State.footWrite (s : State) (p : Nat) (side : Bool) (x : Pass) (q r : Nat) (upset : Option Nat) : State :=
  let key := q * 128 + r
  let n := Map.get 0 x.done key
  let good := x.colTerms q r n
  let ts := match upset with | some u => u :: good.drop 1 | none => good
  let row := x.target q r
  let s := (ts.zipIdx).foldl (fun s t => s.footTerm p x row (x.entry n) (x.first && t.2 == 0) t.1) s
  let y := { x with done := Map.put x.done key (n + 1),
                    terms := (ts.zipIdx).foldl (fun m t => Map.put m (key * 64 + 32 * t.2 + n) t.1) x.terms }
  let full := decide (n + 1 = x.outputs)
  let s := if full then s.tallyRow p side y q r else s
  let y := if full then { y with terms := y.terms.filter fun t => t.1 / 64 ≠ key } else y
  let e := (s.tile p).engine side
  s.setEngine p side { e with passes := e.passes.map fun z => if z.id = x.id then y else z }

/-- Outputs that a pass is to have written by a beat and has not, in the accumulator bytes [lo, hi): stream, row, output. -/
def Pass.owed (x : Pass) (side : Bool) (now lo hi : Nat) : List (Nat × Nat × Nat) :=
  let rb := accRowBytes x.strict
  ((List.range x.streams.length).map fun q =>
    ((List.range x.rows).map fun r =>
      let a := x.target q r * rb
      if decide (a < hi) && decide (lo < a + rb) && x.writes q r then
        (((List.range x.outputs).drop (Map.get 0 x.done (q * 128 + r))).filter fun n =>
          decide (x.writeBeat side r n ≤ now)).map fun n => (q, r, n)
      else []).flatten).flatten
/-- A foot write that is owed: its beat, the first-row beat of its pass, the pass, its stream and row. -/
structure Owed where
  beat : Nat
  b0 : Nat
  side : Bool
  id : Nat
  stream : Nat
  row : Nat

/-- The foot writes of passes that are owed by a beat, in the slot-M issue order of their passes, and of one pass in the
order of their beats (R98, R234, R238). -/
def owedOrder (l : List (Bool × Pass)) (now lo hi : Nat) : List Owed :=
  let all := (l.map fun e => (e.2.owed e.1 now lo hi).map fun o =>
    ({ beat := e.2.writeBeat e.1 o.2.1 o.2.2, b0 := e.2.b0, side := e.1, id := e.2.id, stream := o.1, row := o.2.1 } : Owed)).flatten
  sortBy (fun x y => decide (x.b0 < y.b0) || (x.b0 == y.b0 && decide (x.beat ≤ y.beat))) all

/-- The next output of a row of a pass has its turn (R238). -/
def Tile.footTurn (t : Tile) (x : Pass) (q r : Nat) : Bool :=
  let w := x.span q r (Map.get 0 x.done (q * 128 + r))
  t.turn x.b0 w.1 w.2

/-- The foot writes of passes that are owed by a beat, made now; one whose turn has not come waits. -/
def State.settle (s : State) (p : Nat) (l : List (Bool × Pass)) (now lo hi : Nat) : State :=
  (owedOrder l now lo hi).foldl (fun s o =>
    match ((s.tile p).engine o.side).passes.find? (·.id = o.id) with
    | none => s
    | some x => if (s.tile p).footTurn x o.stream o.row then s.footWrite p o.side x o.stream o.row none else s) s
/-- Before an ACCM adds a row, the writes to it, of this beat or before, of passes that issued before the ACCM are made
(R234). -/
def State.settleFeet (s : State) (p : Nat) : State :=
  let t := s.tile p
  match t.accm with
  | none => s
  | some a =>
    match t.op? a.op with
    | none => s
    | some o =>
      let now := s.stamp (p / 13)
      let rb := accRowBytes (a.sfmt = 2)
      let due := a.ready.filter fun e => decide (a.addBeat o.issue e.1 e.2 ≤ now)
      due.foldl (fun s e =>
        let lo := (a.acc + e.1 % a.count) * rb
        s.settle p ((s.tile p).allPasses.filter fun x => decide (x.2.b0 ≤ o.issue)) now lo (lo + rb)) s

/-- Every foot write of a position owed by this beat is made: those of the tick's last beat come before the cutoff (R50). -/
def State.settleTile (s : State) (p : Nat) : State :=
  s.settle p (s.tile p).allPasses (s.stamp (p / 13)) 0 (2 ^ 18)

/-- FOOT_WRITE (R98): after its beat, the next output of a row of a pass is written. It comes after the writes to its entry
of operations that issued earlier (R234, R238). -/
def execFootWrite (p pass stream row : Nat) (upset : Option Nat) (s : State) : Res :=
  within p 208 (.next (
    let side := pass % 2 = 1
    let t := s.tile p
    match (t.engine side).passes.find? (·.id = pass) with
    | none => s
    | some x =>
      let n := Map.get 0 x.done (stream * 128 + row)
      if decide (stream < x.streams.length) && x.writes stream row && decide (n < x.outputs) && decide (x.writeBeat side row n < s.stamp (p / 13)) && t.footTurn x stream row then
        s.footWrite p side x stream row upset
      else s))

/-! ### Mismatches, verdicts and captures (R385 to R389) -/

/-- Unit of a capture (R397): 0 FWD, 1 REV, 2 SLIDE, 3 side. -/
def Capture.unit (c : Capture) : Nat :=
  match c.pass.mode with
  | .fwd => 0 | .rev => 1 | .slide => 2 | _ => 3
/-- DETAIL of 0x8001 (R397). -/
def mismatchDetail (m : Mismatch) (captured : Bool) : Nat :=
  let c := m.capture
  m.accRow % 1024 + c.loc.getD 0 * 2 ^ 10 + b2n captured * 2 ^ 16 + b2n c.loc.isSome * 2 ^ 17 + b2n c.pass.strict * 2 ^ 18 +
    c.unit * 2 ^ 19 + nth 0 c.terms (32 * c.blk + c.loc.getD 0) % 2 ^ 32 * 2 ^ 32

/-- TALLY_MISMATCH (R385): the oldest failed check whose beat has come marks its rows invalid, raises 0x8001 and takes
the capture, or raises 0x8005 once when one is open (R388). -/
def execTallyMismatch (p : Nat) (s : State) : Res :=
  within p 208 (.next (
    let t := s.tile p
    match takeFirst (fun (m : Mismatch) => decide (m.due ≤ s.stamp (p / 13))) t.mismatches with
    | none => s
    | some (m, rest) =>
      let s1 := (s.setTile p { t with mismatches := rest }).setHalves p m.halves false
      let b := m.capture.pass.bundle
      match t.capture with
      | none =>
        (s1.raiseTile p b 0x8001 (mismatchDetail m true)).modTile p fun t =>
          { t with capture := some { m.capture with since := s.age } }
      | some c =>
        let s2 := s1.raiseTile p b 0x8001 (mismatchDetail m false)
        if c.busy then s2
        else (s2.raiseTile p b 0x8005).modTile p fun t => { t with capture := some { c with busy := true } }))

/-- The array's term and the reference's for a column, in REV of the block that failed (R387). -/
def Capture.compare (c : Capture) (n : Nat) : Nat × Nat :=
  (nth 0 c.terms (32 * c.blk + n), nth 0 (c.pass.colTerms c.stream c.row n) c.blk)
/-- The column whose reference settles the verdict: n*, or the first that differs (R387). In REV a block has 32 of them. -/
def Capture.disputed (c : Capture) : Option Nat :=
  match c.loc with
  | some n => some n
  | none => (List.range c.pass.outputs).find? fun n => (c.compare n).1 != (c.compare n).2
/-- Elements that the bit-serial reference recomputes, 288 beats each (R387). -/
def Capture.elements (c : Capture) : Nat :=
  match c.loc, c.disputed with
  | some _, _ => 1
  | none, some n => n + 1
  | none, none => c.pass.outputs

/-- Does the row pass once the disputed term is the reference's (R387)? -/
def Capture.mended (c : Capture) (n r : Nat) : Bool :=
  (c.pass.checkSums (c.terms.set (32 * c.blk + n) r) c.blk (c.pass.exacts c.stream c.row c.blk)).any fun k =>
    decide ((k.s1 - k.p1).natAbs ≤ k.b1.natAbs)

/-- The verdict of a capture (R387): 1 tally, 2 array, 3 tile suspect, with A and R. -/
def Capture.judge (c : Capture) : Nat × Nat × Nat :=
  match c.disputed with
  | none => (1, 0, 0)
  | some n =>
    let (a, r) := c.compare n
    if a = r then (1, a, r) else if c.mended n r then (2, a, r) else (3, a, r)

/-- TALLY_VERDICT (R387): the reference has recomputed the disputed element; the ladder, or abrupt substitution, is
ordered for the next boundary (R390). -/
def execTallyVerdict (p : Nat) (s : State) : Res :=
  within p 208 (.next (
    match (s.tile p).capture with
    | none => s
    | some c =>
      if c.verdict.isSome || s.age < c.since + 1 + 288 * c.elements then s
      else
        let (v, a, r) := c.judge
        let s1 := s.modTile p fun t => { t with capture := some { c with verdict := some v, loc := c.disputed } }
        let s2 := s1.raiseTile p c.pass.bundle (0x8001 + v) (a % 2 ^ 32 + r % 2 ^ 32 * 2 ^ 32)
        let s3 := s2.modTable (p / 13) fun t =>
          if v = 1 then { t with tallyV := min 255 (t.tallyV + 1) }
          else if v = 2 then { t with arrayV := min 255 (t.arrayV + 1) }
          else { t with tileV := min 255 (t.tileV + 1) }
        if v = 3 then { s3 with tly := { s3.tly with abrupt := s3.tly.abrupt ++ [p] } } else s3.suspect p))

/-- The operand rows of a captured row: its own, and in SLIDE the rows fed before it that its taps meet (R108, R386). -/
def Capture.operands (c : Capture) : List (Option (List Byte)) :=
  (List.range (if c.pass.mode = .slide then c.pass.width + 1 else 1)).map fun j =>
    if decide (j ≤ c.row) && c.pass.fed c.stream (c.row - j) then
      some (Map.get [] c.pass.samples (c.stream * 128 + (c.row - j)))
    else none
/-- A weight plane's bytes: format, element codes up to the last that is not 0, column scales. -/
def Plane.bytes (x : Plane) : List Byte :=
  let n := match x.elems.getLast? with | some e => e.1 + 1 | none => 0
  leBytes 1 x.fmt.code ++ leBytes 2 n ++ ((List.range n).flatMap fun i => leBytes 2 (Map.get 0 x.elems i)) ++
    (List.range 64).flatMap fun c => leBytes 1 (x.scale c)
/-- What identifies a capture (R386, R389): formats, mode and rate class, the weight tile with its scales, and the operand
rows. -/
def Capture.key (c : Capture) : List Byte :=
  let x := c.pass
  leBytes 1 c.unit ++ leBytes 1 x.afmt.code ++ leBytes 1 x.cfmt.code ++ leBytes 1 (b2n x.strict) ++ leBytes 1 x.width ++
    leBytes 1 x.s ++ leBytes 1 x.rho ++ (x.plane.getD {}).bytes ++
    c.operands.flatMap fun r => match r with | some l => leBytes 2 (l.length + 1) ++ l | none => leBytes 2 0
/-- What a capture holds beside (R386): the foot terms, P1, P2, S1 and S2 at their exponent. -/
def Capture.results (c : Capture) : List Byte :=
  (c.terms.flatMap fun t => leBytes 16 t) ++ leBytes 4 (ofSigned 32 c.expo) ++
    [c.p1, c.p2, c.s1, c.s2].flatMap fun v => leBytes 64 (ofSigned 512 v)
/-- Payload of a captured pattern (R389): hits, place in the order of storing, position, n*, verdict, length of its key, the
key, and the capture's results. -/
def patternPayload (hits order pos n verdict : Nat) (key results : List Byte) : List Byte :=
  leBytes 4 hits ++ leBytes 4 order ++ leBytes 1 pos ++ leBytes 1 n ++ leBytes 1 verdict ++ leBytes 2 key.length ++ key ++ results
/-- The stored patterns (R389): record and payload. -/
def Flash.stored (f : Flash) : List (Nat × List Byte) :=
  f.patterns.filterMap fun e => (recordOf 8192 e.2).map fun r => (e.1, r.2)
/-- The pattern is one of a position with a key (R389). -/
def samePattern (pos : Nat) (key : List Byte) (pay : List Byte) : Bool :=
  leAt pay 8 1 == pos && ((pay.drop 13).take (leAt pay 11 2)) == key
/-- The record that a new pattern takes (R389): a free one, else the oldest. -/
def Flash.freePattern (l : List (Nat × List Byte)) : Nat :=
  match (List.range 256).find? fun i => !l.any fun e => e.1 == i with
  | some i => i
  | none => ((sortBy (fun a b => decide (leAt a.2 4 4 ≤ leAt b.2 4 4)) l).head?.map (·.1)).getD 0

/-- Store a captured pattern (R389): a hit of one that is stored, or a record of its own. -/
def State.storePattern (s : State) (p : Nat) (c : Capture) : State :=
  let f := s.mgc.flash
  let l := f.stored
  match l.find? fun e => samePattern p c.key e.2 with
  | some (i, pay) => (s.flashWrite (.pattern i) (f.seq (.pattern i)) (leBytes 4 (leAt pay 0 4 + 1) ++ pay.drop 4)).1
  | none =>
    let i := Flash.freePattern l
    let order := l.foldl (fun a e => max a (leAt e.2 4 4)) 0 + 1
    (s.flashWrite (.pattern i) (f.seq (.pattern i))
      (patternPayload 0 order p (c.loc.getD 64) (c.verdict.getD 0) c.key c.results)).1

/-- CAPTURE_COPY (R388, R389): the MGC stores the open capture with its verdict, as far as the flash takes it (R405), and
closes it. -/
def execCaptureCopy (p : Nat) (s : State) : Res :=
  within p 208 (.next (
    match (s.tile p).capture with
    | none => s
    | some c => if c.verdict.isNone then s else (s.modTile p fun t => { t with capture := none }).storePattern p c))

/-! ### Digests (R381, R382) -/

/-- The 32 bytes of a digest record (R381). -/
def digestBytes (d : List Nat) (moved : Bool) (occ : Nat) : List Byte :=
  let f (i : Nat) : Nat := nth 0 d i
  leBytes 8 (f 0) ++ leBytes 8 (f 1) ++ leBytes 2 (f 2) ++ leBytes 1 (f 3) ++ leBytes 1 (f 4 + 2 * b2n moved) ++
    leBytes 4 (f 5) ++ leBytes 4 occ ++ leBytes 4 (f 6)

/-- The place of a position's digest among the posts (R382): tick and fabric beat of its post, then its logical tile. -/
def State.postKey (s : State) (p : Nat) (d : List Nat) : Nat × Nat × Nat :=
  (nth 0 d 7 / 65536, s.countOfBeat (p / 13) (nth 0 d 7 % 65536) - s.tickBase, nth 0 d 3)
/-- The post beat of a position's digest has come. -/
def State.postDue (s : State) (p : Nat) (d : List Nat) : Bool := decide (nth 0 d 7 ≤ s.stamp (p / 13))
/-- A digest has the next place in the buffer (R382): its beat has come, and none whose beat has come goes before it. -/
def State.postsNext (s : State) (p : Nat) (d : List Nat) : Bool :=
  s.postDue p d && s.tiles.all fun e => e.2.digests.all fun x => !s.postDue e.1 x || !keyLt (s.postKey e.1 x) (s.postKey p d)

/-- DIGEST_POST (R382): a finished DGST of the position enters the digest buffer in its turn, or is lost. -/
def execDigestPost (p : Nat) (s : State) : Res :=
  within p 208 (.next (
    let t := s.tile p
    match takeFirst (s.postsNext p) t.digests with
    | none => s
    | some (d, rest) =>
      let point := nth 0 d 2
      let choice := (s.table (p / 13)).choice
      let (posts, last) := Map.get (0, choice) t.occ point
      let s1 := s.setTile p { t with digests := rest, occ := Map.put t.occ point (posts + 1, choice) }
      if 4096 ≤ (s.tly.tail - s.tly.head).toNat then
        let s2 := { s1 with tly := { s1.tly with lost := min (2 ^ 32 - 1) (s1.tly.lost + 1), lostTold := true } }
        if s.tly.lostTold then s2 else s2.raiseMgc 0x8010
      else
        { s1 with tly := { s1.tly with
            tail := s1.tly.tail + 1, lostTold := false,
            buf := writeCells s1.tly.buf (32 * (s1.tly.tail.toNat % 4096))
              (digestBytes d (decide (last < choice)) (posts % 2 ^ 32)) } }))

end Sys2Proof.Machine
end

