-- ==== Sys2Proof/Machine/Beat.lean ====
section
/-! DEFINITION. What one beat does while no command is pending: the engines, memory ports and transfer engine of every
tile whose table beat begins, and the circuit slots and crossbar paths of the fabric beat. -/

namespace Sys2Proof.Machine

/-- Apply a function to each operation in flight, by number. -/
def State.eachOp (s : State) (p : Nat) (f : State → Nat → State) : State :=
  ((s.tile p).ops.map (·.id)).foldl f s

/-- Is a beat from a pass's b0 to its last accumulator write (R120)? -/
def Pass.runs (x : Pass) (side : Bool) (now : Nat) : Bool := decide (x.b0 ≤ now) && decide (now ≤ x.lastWrite side)

/-- Meter the quad for one beat, as the beat begins (R120, R236): passes from b0 to their last write, loads from the beat
behind their issue to that of their last chunk, ACCM and SHUF from the beat behind their issue to their last write. -/
def Tile.meter (t : Tile) (now : Nat) : Tile :=
  let runs (side : Bool) : Bool := (t.engine side).passes.any fun x => x.runs side now
  let loads (e : Engine) : Bool := e.load.any fun l => decide (l.issue < now) && !l.full
  let strict := t.allPasses.any fun x => x.2.strict && x.2.runs x.1 now
  let on := runs false || runs true || loads t.quad || loads t.side ||
    t.ops.any fun o => (o.kind = .accm || o.kind = .shuf) && o.tracked && decide (o.issue < now)
  if on then
    { t with busy := { t.busy with quad := t.busy.quad + b2n (!strict), quadStrict := t.busy.quadStrict + b2n strict } }
  else t

/-- The work of one table beat of a tile. Reads of the beat see what was there before its writes (R157). -/
def State.tileWork (s : State) (p : Nat) : State :=
  let now := s.stamp (p / 13)
  let s := s.modTile p fun t => t.meter now
  let s := ((s.engineBeat p false).engineBeat p true).drainBeat p
  let s := s.eachOp p fun s id => s.askLater p id
  let s := (s.grantBeat p).bankBeat p
  let s := s.eachOp p fun s id => (s.releaseHeld p id).popHead p id
  let s := ((s.settleFeet p).accmBeat p).shufBeat p
  let s := s.eachOp p fun s id => (s.pumpOp p id).finishOp p id
  let s := ((s.finishRx p).retirePasses p false).retirePasses p true
  s.modTile p Tile.freeUnits

/-- One table beat of a tile; TICK_END_CUTOFF may have done its work before. -/
def State.tileBeat (s : State) (p : Nat) : State :=
  if (s.tile p).worked then s.modTile p fun t => { t with worked := false } else s.tileWork p

/-- The last beat of the tick ends for a position before the count advances: its work is done now (R50, R126). -/
def State.endBeat (s : State) (p : Nat) : State :=
  if s.tableEdge (p / 13) && !(s.tile p).worked then
    ((s.takeAcks p).tileWork p).modTile p fun t => { t with worked := true }
  else s

/-- The next slot of the CSEND on a circuit, if one runs (R212): poisoned when its rows were not ready by the slot's stamped
beat, the one before its send beat (R49, R162), or by PP. With its last slot the CSEND completes. -/
def State.fillFrom (s : State) (n entry p : Nat) : State × Bool × Option (List Byte) :=
  match (s.tile p).ops.find? fun o => o.kind = .csend && o.started && o.arg == entry && o.arg2 == n && o.slots < o.nslots with
  | none => (s, false, none)
  | some o =>
    let bytes := min 128 (64 * o.n - 128 * o.slots)
    let (a, b) := s.clockRatio (p / 13)
    let stamped := s.tick * 65536 + (s.beat - 1) * a / b
    let ready := o.seen.any fun e => e.1 == o.slots && decide (e.2 < stamped)
    let last := decide (o.nslots ≤ o.slots + 1)
    let step (t : Tile) : Tile :=
      let t := t.modOp o.id fun o =>
        { o with slots := o.slots + 1, cut := o.cut || !ready, tracked := o.tracked && ready, flag := if ready then o.flag else none }
      if last && (o.cut || !ready) then t.dropOp o.id else t
    let s := s.modTile p step
    let s := if !ready && !o.cut then s.raiseDeadline p o.bundle 0x5010 else s.finishOp p o.id
    (s, o.poisoned || !ready, some (unitBytes o.buf (128 * o.slots) bytes))

/-- The circuit slot that a port's send table schedules in this beat (R272), and the position whose path carries it. -/
def State.circuitBeat (s : State) (n : Nat) : State × Option Nat :=
  match (s.port n).sendTbl.find? fun e =>
    let c := circuitE e.2.toNat
    (c.slotAt s.beat).isSome && s.sendLive c with
  | none => (s, none)
  | some e =>
    let s := s.meetCircuit n e.1
    let c := circuitE e.2.toNat
    let p := s.physOf c.ltile
    let dead := (s.table (c.ltile / 12)).role.isNone
    let (s, poison, data) := if dead then (s, true, none) else s.fillFrom n e.1 p
    let s := s.modPort n fun x =>
      if x.state = .up && !x.suspended then { x with filled := x.filled ++ [(s.now, poison, data)] } else x
    (s, some p)

/-- Everything of one beat, before the count advances. -/
def State.beatWork (s : State) : State :=
  let tiles := s.tiles.map (·.1)
  let s := tiles.foldl (fun s p => s.takeAcks p) s
  let s := tiles.foldl (fun s p => if s.tableEdge (p / 13) then s.tileBeat p else s) s
  let (s, taken) := (s.ports.map (·.1)).foldl (fun (a : State × List Nat) n =>
    let (s, t) := a.1.circuitBeat n
    (s, t.toList ++ a.2)) (s, [])
  tiles.foldl (fun s p => s.outBeat p (taken.contains p)) s

end Sys2Proof.Machine
end

