-- ==== Sys2Proof/Machine/Crypto.lean ====
section
/-! DEFINITION. The signature check of decks and keys (R291, R402): SHA-384, and ECDSA over the curve P-384. Both are
public standards that the spec names; what the spec does not say of them is taken from those standards (PRESUMED, log entry 27). -/

namespace Sys2Proof.Machine

/-! ### SHA-384

A message is padded, cut into blocks of sixteen 64-bit words, and each block updates a chain of eight words. The words of
the standard that look arbitrary are roots of the first primes, so they are computed here and not listed. -/

/-- The largest `r + e` with `e` below 2^n whose `k`-th power is at most `x`. -/
def rootFrom (k x : Nat) : Nat → Nat → Nat
  | 0, r => r
  | n + 1, r => rootFrom k x n (if (r + 2 ^ n) ^ k ≤ x then r + 2 ^ n else r)
/-- The first 64 bits behind the point of the `k`-th root of `x`. -/
def rootFraction (k x : Nat) : Nat := rootFrom k (x * 2 ^ (64 * k)) 70 0 % 2 ^ 64
/-- The primes below 410: the first eighty. -/
def shaPrimes : List Nat :=
  (List.range 410).filter fun n => decide (1 < n) && [2, 3, 5, 7, 11, 13, 17, 19].all fun d => n == d || n % d != 0
/-- What each of the eighty rounds adds. -/
def shaSalt : List Nat := shaPrimes.map (rootFraction 3)
/-- The chain before the first block: from the ninth prime to the sixteenth. -/
def shaStart : List Nat := ((shaPrimes.drop 8).take 8).map (rootFraction 2)

/-- A sum of words modulo 2^64. -/
def sum64 (l : List Nat) : Nat := l.sum % 2 ^ 64
/-- Copies of a word turned right by each amount of a list, with the word shifted right by `s`, combined by exclusive or. -/
def turned (l : List Nat) (s x : Nat) : Nat := l.foldl (fun acc n => acc ^^^ (x * 2 ^ 64 + x) >>> n % 2 ^ 64) (x >>> s)

/-- A number from bytes, most significant first. -/
def beNat (l : List Byte) : Nat := l.foldl (fun a b => a * 256 + b.toNat) 0
/-- `n` bytes of a number, most significant first. -/
def beBytes (n x : Nat) : List Byte := (leBytes n x).reverse

/-- The eighty words that a block spreads into, from its last sixteen so far, newest first. -/
def shaSpread : Nat → List Nat → List Nat
  | 0, l => l
  | n + 1, l => shaSpread n (sum64 [nth 0 l 15, nth 0 l 6, turned [1, 8] 7 (nth 0 l 14), turned [19, 61] 6 (nth 0 l 1)] :: l)

/-- One round: `kw` is the salt and the word of the block, and the chain moves one place on. -/
def shaTurn (chain : List Nat) (kw : Nat × Nat) : List Nat :=
  let at_ := nth 0 chain
  let pick := at_ 6 ^^^ (at_ 4 &&& (at_ 5 ^^^ at_ 6))
  let most := (at_ 0 &&& (at_ 1 ||| at_ 2)) ||| (at_ 1 &&& at_ 2)
  let fresh := kw.1 + kw.2 + at_ 7 + pick + turned [14, 18, 41] 64 (at_ 4)
  (sum64 [fresh, most, turned [28, 34, 39] 64 (at_ 0)] :: chain.take 3) ++ sum64 [at_ 3, fresh] :: (chain.drop 4).take 3

/-- The chain after a block of 128 bytes. -/
def shaBlock (chain : List Nat) (blk : List Byte) : List Nat :=
  let newest := ((List.range 16).map fun i => beNat ((blk.drop (120 - 8 * i)).take 8))
  let out := (shaSalt.zip (shaSpread 64 newest).reverse).foldl shaTurn chain
  List.zipWith (fun x y => sum64 [x, y]) chain out

/-- SHA-384: the first 48 bytes of the chain. The padding is a one bit, zeros, and the length in bits as 16 bytes. -/
def sha384 (msg : List Byte) : List Byte :=
  let n := ceilDiv (msg.length + 17) 128
  let all := msg ++ 0x80#8 :: rep (128 * n - msg.length - 17) 0#8 ++ beBytes 16 (8 * msg.length)
  let chain := (List.range n).foldl (fun c i => shaBlock c ((all.drop (128 * i)).take 128)) shaStart
  (chain.flatMap (beBytes 8)).take 48

/-! ### ECDSA over P-384 -/

/-- The field prime. -/
def p384 : Nat := 2 ^ 384 - 2 ^ 128 - 2 ^ 96 + 2 ^ 32 - 1
/-- The order of the base point. -/
def n384 : Nat := 0xffffffffffffffffffffffffffffffffffffffffffffffffc7634d81f4372ddf581a0db248b0a77aecec196accc52973
/-- The curve coefficient b. -/
def b384 : Nat := 0xb3312fa7e23ee7e4988e056be3f82d19181d9c6efe8141120314088f5013875ac656398d8a2ed19d2a85c8edd3ec2aef
/-- The base point. -/
def gx384 : Nat := 0xaa87ca22be8b05378eb1c71ef320ad746e1d3b628ba79b9859f741e082542a385502f25dbf55296c3a545e3872760ab7
def gy384 : Nat := 0x3617de4a96262c6f5d9e98bf9292dc29f8f41dbd289a147ce9da3113b5f0b8c00a60b1ce1d7e819d7a431d7c90ea0e5f

/-- Power modulo `m` with an exponent below 2^fuel. -/
def powMod (m : Nat) : Nat → Nat → Nat → Nat
  | 0, _, _ => 1
  | fuel + 1, b, e =>
    let r := powMod m fuel (b * b % m) (e / 2)
    if e % 2 = 1 then r * b % m else r
/-- Inverse modulo a prime below 2^384. -/
def invMod (m x : Nat) : Nat := powMod m 384 (x % m) (m - 2)

/-- A point in projective form (x / z^2, y / z^3); z = 0 is the point at infinity. -/
abbrev Pt := Nat × Nat × Nat

/-- Subtraction in the field. -/
def subP (a b : Nat) : Nat := (a + p384 - b % p384) % p384
/-- Twice a point. -/
def Pt.dbl (q : Pt) : Pt :=
  let (x, y, z) := q
  if z = 0 || y = 0 then (1, 1, 0)
  else
    let z2 := z * z % p384
    let y2 := y * y % p384
    let s := 4 * x * y2 % p384
    let m := 3 * subP x z2 * (x + z2) % p384
    let x' := subP (m * m) (2 * s)
    (x', subP (m * subP s x') (8 * y2 * y2), 2 * y * z % p384)
/-- The sum of two points. -/
def Pt.add (a b : Pt) : Pt :=
  let (x1, y1, z1) := a
  let (x2, y2, z2) := b
  if z1 = 0 then b
  else if z2 = 0 then a
  else
    let u1 := x1 * z2 * z2 % p384
    let u2 := x2 * z1 * z1 % p384
    let s1 := y1 * z2 * z2 * z2 % p384
    let s2 := y2 * z1 * z1 * z1 % p384
    if u1 = u2 then (if s1 = s2 then Pt.dbl a else (1, 1, 0))
    else
      let h := subP u2 u1
      let r := subP s2 s1
      let h2 := h * h % p384
      let h3 := h2 * h % p384
      let v := u1 * h2 % p384
      let x' := subP (subP (r * r) h3) (2 * v)
      (x', subP (r * subP v x') (s1 * h3), h * z1 * z2 % p384)
/-- A multiple of a point, with a factor below 2^fuel. -/
def Pt.times : Nat → Nat → Pt → Pt
  | 0, _, _ => (1, 1, 0)
  | fuel + 1, k, q =>
    let r := Pt.times fuel (k / 2) (Pt.dbl q)
    if k % 2 = 1 then Pt.add q r else r

/-- A point of the curve other than infinity. -/
def onCurve (x y : Nat) : Bool :=
  decide (x < p384) && decide (y < p384) && (y * y) % p384 == (x * x * x + (p384 - 3) * x + b384) % p384

/-- An ECDSA P-384 signature with SHA-384 over a message verifies under a public key (R291, R402). -/
def ecdsaOk (x y r s : Nat) (msg : List Byte) : Bool :=
  if r = 0 || s = 0 || n384 ≤ r || n384 ≤ s || !onCurve x y then false
  else
    let e := beNat (sha384 msg)
    let w := invMod n384 s
    let (px, _, pz) := Pt.add (Pt.times 384 (e * w % n384) (gx384, gy384, 1)) (Pt.times 384 (r * w % n384) (x, y, 1))
    pz != 0 && (px * invMod p384 (pz * pz % p384) % p384) % n384 == r

/-- The 97 bytes of an uncompressed point (R401). -/
def pointBytes (x y : Nat) : List Byte := 0x04#8 :: beBytes 48 x ++ beBytes 48 y
/-- PRINT of a public key (R298): the first two bytes of its SHA-384. -/
def printOf (x y : Nat) : Nat := leAt (sha384 (pointBytes x y)) 0 2

end Sys2Proof.Machine
end

