-- ==== Sys2Proof/Machine/DeckFmt.lean ====
section
/-! DEFINITION. The deck file (R288 to R294, R420 to R425): header, directory, sections, and the checks of the
validator that read a section's form alone (R13, R66, R166, R174, R271, R274, R281, R290, R380, R420 to R424). -/

namespace Sys2Proof.Machine

/-! ### A deck and its sections (R288, R289) -/

/-- A failed check: code, and byte offset in the deck of the first item at fault (R425). -/
abbrev Fail := Nat × Nat

/-- A directory entry with its section's bytes (R289). -/
structure Sect where
  idx : Nat
  typ : Nat
  scope : Nat
  off : Nat
  size : Nat
  body : List Byte
  deriving DecidableEq, Repr

/-- A deck as the validator reads it, with what it knows of the device. -/
structure DeckIn where
  bytes : List Byte
  sects : List Sect
  grade : Grade
  /-- active seats of a table (Grades) -/
  seats : Nat
  deriving DecidableEq, Repr

/-- A little-endian field of the deck (R14). -/
def DeckIn.at_ (d : DeckIn) (off n : Nat) : Nat := leAt d.bytes off n
/-- TICK_EXP (R288). -/
def DeckIn.k (d : DeckIn) : Nat := d.at_ 16 1
/-- PHASES (R288). -/
def DeckIn.phases (d : DeckIn) : Nat := d.at_ 17 1
/-- DEVICES (R288). -/
def DeckIn.devices (d : DeckIn) : Nat := d.at_ 12 2
/-- DEVINDEX (R288). -/
def DeckIn.devIndex (d : DeckIn) : Nat := bits (d.at_ 14 2) 0 10
/-- LENGTH (R288). -/
def DeckIn.length (d : DeckIn) : Nat := d.at_ 24 8
/-- NSECT (R288). -/
def DeckIn.nsect (d : DeckIn) : Nat := d.at_ 18 2
/-- DIROFF (R288). -/
def DeckIn.dirOff (d : DeckIn) : Nat := d.at_ 32 8

/-- Section types (R289). -/
def tProg : Nat := 1
def tOdt : Nat := 2
def tPip : Nat := 3
def tRing : Nat := 4
def tScirc : Nat := 5
def tRcirc : Nat := 6
def tRoutes : Nat := 7
def tDir : Nat := 8
def tPower : Nat := 9
def tDigest : Nat := 10
def tServe : Nat := 11
def tLearn : Nat := 12
def tInit : Nat := 13
/-- SCOPE of a section that belongs to the device (R289). -/
def scopeAll : Nat := 0xFFFF

/-- The directory's entries as the bytes give them (R289). -/
def sectsOf (bytes : List Byte) : List Sect :=
  let dir := leAt bytes 32 8
  (List.range (leAt bytes 18 2)).map fun i =>
    let o := dir + 32 * i
    let off := leAt bytes (o + 8) 8
    let size := leAt bytes (o + 16) 8
    { idx := i, typ := leAt bytes o 2, scope := leAt bytes (o + 2) 2, off, size, body := (bytes.drop off).take size }

/-- A section by type and scope. -/
def DeckIn.sect? (d : DeckIn) (typ scope : Nat) : Option Sect := d.sects.find? fun x => x.typ == typ && x.scope == scope
/-- A section's bytes, none when it is absent. -/
def DeckIn.body (d : DeckIn) (typ scope : Nat) : List Byte := match d.sect? typ scope with | some x => x.body | none => []
/-- A section's offset in the deck. -/
def DeckIn.base (d : DeckIn) (typ scope : Nat) : Nat := match d.sect? typ scope with | some x => x.off | none => 0
/-- A logical tile of the grade (R5). -/
def DeckIn.hasTile (d : DeckIn) (t : Nat) : Bool := decide (t < 192) && decide (t % 12 < d.seats)
/-- Scopes of the sections of a type. -/
def DeckIn.scopes (d : DeckIn) (typ : Nat) : List Nat := (d.sects.filter (·.typ == typ)).map (·.scope)

/-- The first element that a function accepts. -/
def firstSome {α β : Type} (l : List α) (f : α → Option β) : Option β := l.findSome? f
/-- A failure when a condition holds. -/
def failIf (c : Bool) (code off : Nat) : Option Fail := if c then some (code, off) else none
/-- Whole `w`-byte little-endian words of a byte string. -/
def wordsOf (w : Nat) (l : List Byte) : List Nat := (List.range (l.length / w)).map fun i => leAt l (w * i) w
/-- Index of the first nonzero byte of a list. -/
def firstNonzero (l : List Byte) : Option Nat := l.findIdx? (· != 0#8)
/-- Do two ranges of given lengths share an element? -/
def overlaps (a n b m : Nat) : Bool := decide (0 < n) && decide (0 < m) && decide (a < b + m) && decide (b < a + n)

/-! ### Header and directory checks (R13, R289, R293) -/

/-- A reserved field of `n` bytes that is not zero: 0x100B at its first byte (R13, R425). -/
def reservedAt (bytes : List Byte) (lo n : Nat) : Option Fail :=
  failIf (firstNonzero ((bytes.drop lo).take n)).isSome 0x100B lo

/-- The reserved header fields, in ascending byte order, and those of the signature block (R13, R291, R293). -/
def DeckIn.headerReserved (d : DeckIn) : Option Fail :=
  firstSome [
    failIf (decide (d.at_ 14 2 / 2 ^ 10 ≠ 0)) 0x100B 14,
    failIf (decide (d.phases / 8 ≠ 0)) 0x100B 17,
    reservedAt d.bytes 57 7,
    reservedAt d.bytes 128 128,
    reservedAt d.bytes (d.length - 32) 32,
    failIf (d.phases == 0) 0x100A 17] id

/-- SCOPE lies in the range of a section's type (R289). -/
def DeckIn.scopeOk (d : DeckIn) (x : Sect) : Bool :=
  if x.typ ≤ 4 || x.typ == tInit then d.hasTile x.scope
  else if x.typ ≤ 6 then decide (x.scope < 64)
  else x.scope == scopeAll

/-- One directory entry against the earlier ones (R289), with the offset of the field at fault. -/
def DeckIn.entryBad (d : DeckIn) (earlier : List Sect) (x : Sect) : Option Fail :=
  let o := d.dirOff + 32 * x.idx
  let last := d.length - 128
  firstSome [
    failIf (x.typ == 0 || decide (13 < x.typ)) 0x100B o,
    reservedAt d.bytes (o + 4) 4,
    reservedAt d.bytes (o + 24) 8,
    failIf (!d.scopeOk x) 0x100A (o + 2),
    failIf (x.off % 64 != 0 || decide (x.off < 256) || decide (last < x.off + x.size)) 0x100A (o + 8),
    failIf (overlaps x.off x.size d.dirOff (32 * d.nsect) || earlier.any fun y => overlaps x.off x.size y.off y.size) 0x100A (o + 8),
    failIf (earlier.any fun y => y.typ == x.typ && y.scope == x.scope) 0x100A (o + 2)] id

/-- The directory is out of place (R289). -/
def DeckIn.dirPlace (d : DeckIn) : Option Fail :=
  failIf (d.dirOff % 64 != 0 || decide (d.dirOff < 256) || decide (d.length - 128 < d.dirOff + 32 * d.nsect)) 0x100A d.dirOff
/-- The checks of the directory's entries (R289). -/
def DeckIn.dirBad (d : DeckIn) : Option Fail :=
  firstSome d.sects fun x => d.entryBad (d.sects.take x.idx) x

/-! ### Checks that run as part of a section (R293) -/

/-- A check: the label of the rule that sets it, the sections it reads (type, scope), and what it finds. -/
structure DeckCheck where
  label : Nat
  reads : List (Nat × Nat)
  bad : Option Fail
  deriving DecidableEq, Repr

/-- The directory index as part of which a check runs (R293): the last of the sections it reads. -/
def DeckIn.place (d : DeckIn) (c : DeckCheck) : Option Nat :=
  d.sects.foldl (fun a x => if c.reads.contains (x.typ, x.scope) then some x.idx else a) none

/-- The failing check with the lowest label, the first of equals (R293). -/
def lowestFail : List DeckCheck → Option (Nat × Fail)
  | [] => none
  | c :: cs =>
    match c.bad, lowestFail cs with
    | some f, some (l, g) => if l < c.label then some (l, g) else some (c.label, f)
    | some f, none => some (c.label, f)
    | none, r => r

/-! ### PROGDIR (R290) -/

/-- A program directory entry as its bytes give it (R290), with its index. -/
structure DirRow where
  idx : Nat
  prog : Nat
  table : Nat
  attr : Nat
  slot : Nat
  cycle : Nat
  rsv : Bool
  deriving DecidableEq, Repr

/-- Section, role and clock of ATTR (R290). -/
def DirRow.sec (r : DirRow) : Nat := bits r.attr 0 2
def DirRow.role (r : DirRow) : Nat := bits r.attr 2 2
def DirRow.clock (r : DirRow) : Nat := bits r.attr 4 2

/-- Rows of PROGDIR. -/
def DeckIn.dirRows (d : DeckIn) : List DirRow :=
  let b := d.body tDir scopeAll
  (List.range (b.length / 16)).map fun i =>
    let o := 16 * i
    { idx := i, prog := leAt b o 2, table := leAt b (o + 2) 1, attr := leAt b (o + 3) 1, slot := leAt b (o + 4) 2,
      cycle := leAt b (o + 8) 4, rsv := leAt b (o + 6) 2 != 0 || leAt b (o + 12) 4 != 0 }

/-- A program's row (R290). -/
def DeckIn.dirRow? (d : DeckIn) (prog : Nat) : Option DirRow := d.dirRows.find? (·.prog == prog)
/-- The row's offset in the deck. -/
def DeckIn.dirAt (d : DeckIn) (r : DirRow) : Nat := d.base tDir scopeAll + 16 * r.idx

/-- A row's own faults (R290): 0x100F. -/
def DeckIn.rowBad (d : DeckIn) (r : DirRow) : Bool :=
  (d.dirRows.take r.idx).any (·.prog == r.prog) || r.sec == 0 || !bit d.phases (r.sec - 1) || decide (15 < r.table) ||
    r.role == 3 || r.clock == 3 || decide (r.attr / 64 ≠ 0) || r.cycle == 0 || decide (65536 < r.cycle) ||
    (r.role == 0 && decide (r.cycle ≤ r.slot)) || (r.role != 0 && r.slot != 0)

/-- The rows of a table's section at a clock have the shape of R290: one drain, one entry, and one tick program for
each slot of one common P. -/
def shapeOk (l : List DirRow) : Bool :=
  let ticks := l.filter (·.role == 0)
  let p := (ticks.map (·.cycle)).headD 0
  (l.filter (·.role == 1)).length == 1 && (l.filter (·.role == 2)).length == 1 && ticks.all (·.cycle == p) &&
    ticks.length == p && (List.range ticks.length).all fun i => ticks.any (·.slot == i)

/-- Rows of the same table, section and clock. -/
def DeckIn.group (d : DeckIn) (r : DirRow) (clock : Nat) : List DirRow :=
  d.dirRows.filter fun x => x.table == r.table && x.sec == r.sec && x.clock == clock
/-- P of a group. -/
def cycleOfRows (l : List DirRow) : Nat := ((l.filter (·.role == 0)).map (·.cycle)).headD 0

/-- The PROGDIR check (R290): rows, then the shapes; a variant of another shape, or of a clock that the grade has not,
gives 0x1010. -/
def DeckIn.progdirBad (d : DeckIn) : Option Fail :=
  match d.dirRows.find? d.rowBad with
  | some r => some (0x100F, d.dirAt r)
  | none =>
    match d.dirRows.find? fun r => r.clock == 0 && !shapeOk (d.group r 0) with
    | some r => some (0x100F, d.dirAt r)
    | none =>
      (d.dirRows.find? fun r => r.clock != 0 &&
        (!shapeOk (d.group r r.clock) || cycleOfRows (d.group r r.clock) != cycleOfRows (d.group r 0) ||
          (d.grade == .a12 && r.clock == 1))).map fun r => (0x1010, d.dirAt r)

/-! ### POWER (R66, R424) -/

/-- A POWER entry (R424): offset in the section, PROG, TOKENS, PORTS. -/
def DeckIn.powerRows (d : DeckIn) : List (Nat × Nat × Nat × Nat) :=
  let b := d.body tPower scopeAll
  (List.range (b.length / 8)).map fun i => (8 * i, leAt b (8 * i) 2, leAt b (8 * i + 2) 2, leAt b (8 * i + 4) 1)

/-- R66: 64 tokens a table, and 1,080 for the device with 2 for each active port, in sixteenths. -/
def DeckIn.powerSum (d : DeckIn) : Option Fail :=
  let base := d.base tPower scopeAll
  let rows := d.powerRows
  match rows.find? fun r => decide (1024 < r.2.2.1) with
  | some r => some (0x1011, base + r.1)
  | none =>
    let most (t : Nat) : Nat := rows.foldl (fun a r => match d.dirRow? r.2.1 with
      | some x => if x.table == t then max a r.2.2.1 else a
      | none => a) 0
    let sum := (List.range 16).foldl (fun a t => a + most t) 0
    let ports := rows.foldl (fun a r => max a r.2.2.2) 0
    failIf (decide (1080 * 16 < sum + 32 * ports)) 0x1011 base

/-- R424: every listed program has exactly one entry, and the values lie in their ranges. -/
def DeckIn.powerBad (d : DeckIn) : Option Fail :=
  let base := d.base tPower scopeAll
  let rows := d.powerRows
  match rows.find? fun r => (d.dirRow? r.2.1).isNone || decide (1024 < r.2.2.1) || decide (64 < r.2.2.2) ||
      (rows.any fun q => q.1 < r.1 && q.2.1 == r.2.1) with
  | some r => some (0x1011, base + r.1)
  | none => failIf (d.dirRows.any fun x => rows.all fun r => r.2.1 != x.prog) 0x1011 base

/-! ### PROGRAMS (R422, R423) -/

/-- A range record: offset in the section, PROG, FIRST, COUNT, reserved bytes zero. -/
structure RangeRec where
  at_ : Nat
  prog : Nat
  first : Nat
  count : Nat
  clean : Bool
  deriving DecidableEq, Repr

/-- The range records that a PROGRAMS section holds whole. -/
def rangeRecs (b : List Byte) : List RangeRec :=
  (List.range (min (leAt b 0 4) ((b.length - 4) / 8))).map fun i =>
    let o := 4 + 8 * i
    { at_ := o, prog := leAt b o 2, first := leAt b (o + 2) 2, count := leAt b (o + 4) 2, clean := leAt b (o + 6) 2 == 0 }
/-- Where the bundles of a PROGRAMS section begin (R422). -/
def bundlesAt (b : List Byte) : Nat := ceilDiv (4 + 8 * leAt b 0 4) 16 * 16
/-- The bundles of a PROGRAMS section. -/
def bundlesOf (b : List Byte) : List Nat := wordsOf 16 (b.drop (bundlesAt b))

/-- R423, but for what PROGDIR decides: ranges past the store, and the section's form. -/
def DeckIn.programsBad (d : DeckIn) (t : Nat) : Option Fail :=
  let b := d.body tProg t
  let base := d.base tProg t
  let l := rangeRecs b
  let n := (bundlesOf b).length
  if b.isEmpty then none
  else
    firstSome [
      failIf (decide (b.length < 4 + 8 * leAt b 0 4) || (b.length - bundlesAt b) % 16 != 0) 0x100A base,
      (l.find? fun r => decide (0 < r.count) && decide (16384 < r.first + r.count)).map fun r => (0x1050, base + r.at_),
      (l.find? fun r => !r.clean).map fun r => (0x100B, base + r.at_),
      (l.find? fun r => (decide (0 < r.count) && decide (n < r.first + r.count)) ||
        l.any fun q => q.at_ < r.at_ && (q.prog == r.prog || overlaps q.first q.count r.first r.count)).map
          fun r => (0x100A, base + r.at_)] id

/-- R423: a range names a PROG that PROGDIR does not list for the tile's table. -/
def DeckIn.rangesListed (d : DeckIn) (t : Nat) : Option Fail :=
  ((rangeRecs (d.body tProg t)).find? fun r => !(d.dirRows.any fun x => x.prog == r.prog && x.table == t / 12)).map
    fun r => (0x100F, d.base tProg t + r.at_)

/-! ### Reserved bits (R13) -/

/-- Some bit of `w` outside the allowed ones (given as ranges: first bit, width) below `n` is set. -/
def strayBits (w n : Nat) (allowed : List (Nat × Nat)) : Bool :=
  (allowed.foldl (fun x a => putBits x a.1 a.2 0) (w % 2 ^ n)) != 0

/-- A slot-C word with a reserved opcode, code or operand bit (R195, R196, R198, R201). -/
def slotCReserved (w : Nat) : Bool :=
  match slotOp w with
  | 0x00 => strayBits w 22 []
  | 0x01 | 0x04 => false
  | 0x02 => strayBits w 22 [(18, 4), (0, 16)]
  | 0x03 => strayBits w 22 [(10, 12), (0, 4)] || decide (10 < bits w 0 4)
  | 0x05 => strayBits w 22 [(4, 18)]
  | 0x06 => decide (5 < bits w 12 6)
  | 0x07 => strayBits w 22 [(15, 7), (0, 12)] || decide (4 < bits w 15 3)
  | 0x08 => strayBits w 22 [(12, 10)]
  | 0x09 => strayBits w 22 [(0, 16)]
  | 0x0a => bits w 20 2 == 3
  | _ => true
/-- A slot-X word with a reserved opcode or operand bit (R202). -/
def slotXReserved (w : Nat) : Bool :=
  match slotOp w with
  | 0x00 => strayBits w 22 []
  | 0x01 => strayBits w 22 [(8, 14), (0, 1)]
  | 0x02 | 0x03 | 0x04 | 0x05 | 0x06 | 0x07 | 0x09 => bit w 1
  | 0x08 | 0x0b => false
  | 0x0a => strayBits w 22 [(12, 10)]
  | _ => true
/-- A slot-V word with a reserved opcode or operand bit (R218). -/
def slotVReserved (w : Nat) : Bool :=
  match slotOp w with
  | 0x00 => strayBits w 22 []
  | 0x01 => strayBits w 22 [(12, 10)]
  | 0x02 => strayBits w 22 [(7, 15)]
  | _ => true
/-- A slot-M word with a reserved opcode, format code or operand bit (R70, R217). -/
def slotMReserved (w : Nat) : Bool :=
  match slotOp w with
  | 0x00 => strayBits w 22 []
  | 0x01 | 0x02 => strayBits w 22 [(8, 14)] || bits w 8 4 == 0xF
  | 0x03 | 0x04 => strayBits w 22 [(2, 20)]
  | 0x05 | 0x06 | 0x07 => strayBits w 22 [(12, 10), (0, 1)]
  | _ => true
/-- A bundle with a reserved encoding. -/
def bundleReserved (w : Nat) : Bool :=
  slotCReserved (slotC w) || slotXReserved (slotX w) || slotVReserved (slotV w) || slotMReserved (slotM w)

/-- An ODT entry with a reserved kind, bit, mode or format code (R13, R70, R186 to R192, R220 to R227). -/
def odtReserved (e : Nat) : Bool :=
  let from_ (lo : Nat) : Bool := bits e lo (124 - lo) != 0
  match odtKind e with
  | 0x0 => from_ 0
  | 0x1 => from_ 66
  | 0x2 => from_ 84
  | 0x3 => from_ 29
  | 0x4 => from_ 78 || (flagE e).mode == 3
  | 0x5 => from_ 50
  | 0x6 => from_ 32
  | 0x7 => from_ 87 || (passE e).afmt == 0xF
  | 0x8 | 0x9 => false
  | 0xa => from_ 64 || (sideE e).afmt == 0xF || (sideE e).cfmt == 0xF
  | 0xb => from_ 77 || (drainE e).dfmt == 0xF
  | 0xc => from_ 79
  | 0xd => from_ 104
  | 0xe => from_ 112
  | _ => true

/-- Static ODT entries of a tile (R186). -/
def DeckIn.odtWords (d : DeckIn) (t : Nat) : List Nat := wordsOf 16 ((d.body tOdt t).take 16384)
/-- A static ODT entry; those not given are EMPTY. -/
def DeckIn.odt (d : DeckIn) (t i : Nat) : Nat := nth 0 (d.odtWords t) i

/-- A SEL entry that some entry names with MASKSRC 2 has bits [123:64] reserved (R222). -/
def DeckIn.laneSel (d : DeckIn) (t i : Nat) : Bool :=
  (d.odtWords t).any fun e => (odtKind e == 7 && (passE e).masksrc == 2 && (passE e).maskx == i) ||
    (odtKind e == 0xa && (sideE e).masksrc == 2 && (sideE e).maskx == i)

/-- R13 over a tile's ODT: the first entry at fault. -/
def DeckIn.odtBad (d : DeckIn) (t : Nat) : Option Fail :=
  ((d.odtWords t).zipIdx.find? fun x => odtReserved x.1 ||
    (odtKind x.1 == 9 && bits x.1 64 60 != 0 && d.laneSel t x.2)).map fun x => (0x100B, d.base tOdt t + 16 * x.2)

/-- A static address of no tile of the grade, or of a device beyond the job's (R7), as a row. -/
def DeckIn.noPlace (d : DeckIn) (row : Nat) : Bool := !d.hasTile (bits row 17 8) || decide (d.devices ≤ bits row 25 10)
/-- A static GLOBAL, FLAG or RREF entry names no tile or no device (R7, R188, R190, R192). A GLOBAL whose counter moves it is
formed at run time. -/
def DeckIn.entryNowhere (d : DeckIn) (e : Nat) : Bool :=
  match odtKind e with
  | 2 =>
    let g := globalE e
    (!g.ien || g.istride == 0) && (d.noPlace g.grow || (decide (0 < g.nrows) && d.noPlace (g.grow + g.nrows - 1)))
  | 4 => d.noPlace ((flagE e).gword / 16)
  | 6 => d.noPlace ((rrefE e).ltile * 2 ^ 17 + (rrefE e).dev * 2 ^ 25)
  | _ => false
/-- Status of a deck that R7 rejects. -/
def staticAddressCode : Nat := 0x1001 + Config.staticAddress % 0xFFF
/-- R7 over a tile's ODT. -/
def DeckIn.addressBad (d : DeckIn) (t : Nat) : Option Fail :=
  ((d.odtWords t).zipIdx.find? fun x => d.entryNowhere x.1).map fun x => (staticAddressCode, d.base tOdt t + 16 * x.2)

/-- R13 over a tile's bundles. -/
def DeckIn.bundlesBad (d : DeckIn) (t : Nat) : Option Fail :=
  let b := d.body tProg t
  ((bundlesOf b).zipIdx.find? fun x => bundleReserved x.1).map fun x => (0x100B, d.base tProg t + bundlesAt b + 16 * x.2)

/-! ### Rings and handles (R165, R166, R171, R174) -/

/-- Ring images: RING_BASE, RING_CFG (R289). -/
def ringImages (b : List Byte) : List (Nat × Nat) := (List.range 16).map fun r => (leAt b (16 * r) 4, leAt b (16 * r + 4) 4)
/-- Handle images. -/
def handleImages (b : List Byte) : List Nat := (List.range 32).map fun h => leAt b (256 + 8 * h) 8
/-- Bytes of an enabled ring: first byte, length. -/
def ringSpan (x : Nat × Nat) : Nat × Nat := (64 * bits x.1 0 17, bits x.2 0 17 * (32 * 2 ^ bits x.2 18 2))
/-- Is a number a power of two? -/
def powerOfTwo (n : Nat) : Bool := n != 0 && 2 ^ flog2 n == n

/-- The first ring that R166 rejects. -/
def ringBad (l : List (Nat × Nat)) : Option Nat :=
  let on (x : Nat × Nat) : Bool := bit x.2 31
  (l.zipIdx.find? fun x => on x.1 &&
    (!powerOfTwo (bits x.1.2 0 17) || decide (0x610000 < (ringSpan x.1).1 + (ringSpan x.1).2) ||
      (l.take x.2).any fun y => on y && overlaps (ringSpan x.1).1 (ringSpan x.1).2 (ringSpan y).1 (ringSpan y).2)).map (·.2)
/-- The first handle that R174 rejects. -/
def handleBad (l : List Nat) : Option Nat :=
  (l.zipIdx.find? fun x => bits x.1 40 2 != 0 && decide (99328 < bits x.1 0 17 + bits x.1 20 17)).map (·.2)

/-- R13 over a RINGHND section. -/
def ringReserved (b : List Byte) : Option Nat :=
  match (ringImages b).zipIdx.find? fun x => bits x.1.1 17 15 != 0 || bit x.1.2 17 || bits x.1.2 24 7 != 0 with
  | some x => some (16 * x.2)
  | none => ((handleImages b).zipIdx.find? fun x => bits x.1 17 3 != 0 || bits x.1 37 3 != 0 || bits x.1 44 20 != 0).map
      fun x => 256 + 8 * x.2

/-! ### Circuits (R270, R271, R274) -/

/-- Entries of a circuit section with their indexes. -/
def DeckIn.circuits (d : DeckIn) (typ port : Nat) : List (CircuitE × Nat) :=
  ((wordsOf 8 (d.body typ port)).map circuitE).zipIdx
/-- One circuit entry, all zero past the section's end. -/
def DeckIn.circuit (d : DeckIn) (typ port i : Nat) : CircuitE := circuitE (leAt (d.body typ port) (8 * i) 8)
/-- Beats of an entry's slots. -/
def CircuitE.beats (c : CircuitE) : List Nat := (List.range c.count).map c.slotBeat
/-- Two entries can be live together (R271). -/
def CircuitE.together (a b : CircuitE) : Bool := a.ltile / 12 != b.ltile / 12 || a.prog == b.prog
/-- Two entries share a beat. -/
def CircuitE.collide (a b : CircuitE) : Bool := a.together b && (a.beats.any fun x => (b.slotAt x).isSome)

/-- R271 for one circuit section: slots past the tick, two entries on one beat, STRIDE 0, no such tile. -/
def DeckIn.circBad (d : DeckIn) (typ port : Nat) : Option Fail :=
  let l := d.circuits typ port
  (l.find? fun x => (x.1.beats.any fun b => decide (2 ^ d.k ≤ b)) || (decide (1 < x.1.count) && x.1.stride == 0) ||
    !d.hasTile x.1.ltile || (l.take x.2).any fun y => y.1.collide x.1).map fun x => (0x1058, d.base typ port + 8 * x.2)

/-- R271 for the circuits of one direction over all ports: two entries of one tile on one beat. -/
def DeckIn.tileCircBad (d : DeckIn) (typ : Nat) : Option Fail :=
  let all := (d.scopes typ).flatMap fun p => (d.circuits typ p).map fun x => (x.1, p, x.2)
  (all.zipIdx.find? fun x => (all.take x.2).any fun y => y.1.ltile == x.1.1.ltile && y.1.collide x.1.1).map fun x =>
    (0x1058, d.base typ x.1.2.1 + 8 * x.1.2.2)

/-- R274: beats 64 and 1,024 are free on the port, and one beat of each aligned window of 64. -/
def DeckIn.freeBad (d : DeckIn) (port : Nat) : Option Fail :=
  let l := (d.circuits tScirc port).map (·.1)
  let busy (b : Nat) : Bool := l.any fun c => (c.slotAt b).isSome
  failIf (busy 64 || busy 1024 || (List.range (2 ^ d.k / 64)).any fun w => (List.range 64).all fun i => busy (64 * w + i))
    0x1058 (d.base tScirc port)

/-! ### The other sections' own checks -/

/-- R281: a route through a loopback port to another device. -/
def DeckIn.routesBad (d : DeckIn) : Option Fail :=
  ((wordsOf 4 (d.body tRoutes scopeAll)).zipIdx.find? fun x =>
    bit x.1 6 && decide (45 ≤ bits x.1 0 6) && decide (bits x.1 0 6 ≤ 47) && x.2 != d.devIndex).map fun x =>
      (0x1059, d.base tRoutes scopeAll + 4 * x.2)

/-- Digest points: offset in the section, POINT, LTILE (R380). -/
def DeckIn.digestRows (d : DeckIn) : List (Nat × Nat × Nat) :=
  let b := d.body tDigest scopeAll
  (List.range (min (leAt b 0 4) ((b.length - 4) / 8))).map fun i => (4 + 8 * i, bits (leAt b (4 + 8 * i) 2) 0 12, leAt b (6 + 8 * i) 1)
/-- R380: two entries declare one pair. -/
def DeckIn.digestBad (d : DeckIn) : Option Fail :=
  let l := d.digestRows
  if 65536 < leAt (d.body tDigest scopeAll) 0 4 then some (0x1067, d.base tDigest scopeAll)
  else (l.find? fun r => l.any fun q => q.1 < r.1 && q.2 == r.2).map fun r => (0x1067, d.base tDigest scopeAll + r.1)

/-- R421: an INIT section's form. -/
def DeckIn.initBad (d : DeckIn) (t : Nat) : Option Fail :=
  let b := d.body tInit t
  let rows := (b.length - 4) / 64
  failIf (!b.isEmpty && (decide (b.length < 4) || (b.length - 4) % 64 != 0 || (decide (0 < rows) && decide (99328 < leAt b 0 4 + rows))))
    0x100A (d.base tInit t)

/-- COUNT and ILEN of a PIPIMG section (R420). -/
def pipCount (b : List Byte) : Nat := leAt b 0 4
def pipLen (b : List Byte) : Nat := leAt b 4 4
/-- R420: a PIPIMG section's form. -/
def DeckIn.pipForm (d : DeckIn) (t : Nat) : Option Fail :=
  let b := d.body tPip t
  failIf (!b.isEmpty && (decide (b.length < 16) || !(pipCount b == 1 || pipCount b == 64) || pipLen b % 4 != 0 || decide (pipLen b < 4) ||
    decide (8192 < pipLen b) || b.length != 16 + pipCount b * pipLen b)) 0x100A (d.base tPip t)

/-- Length that a SERVE section's own counts give (R326). -/
def serveLen (b : List Byte) : Nat := 16 + 1024 + 16 * leAt b 4 2 + 16 * leAt b 6 2 + 1536
/-- Length that a LEARN section's own counts give (R354). -/
def learnLen (b : List Byte) : Nat := 16 + 64 * leAt b 0 2 + 16 * leAt b 2 2

/-- R422: a section's SIZE fits its content. -/
def sizeBad (x : Sect) : Bool :=
  let n := x.size
  if n == 0 then false
  else if x.typ == tOdt then n % 16 != 0 || decide (16384 < n)
  else if x.typ == tRing then n != 512
  else if x.typ == tScirc || x.typ == tRcirc then n % 8 != 0 || decide (32768 < n)
  else if x.typ == tRoutes then n != 4096
  else if x.typ == tDir then n % 16 != 0
  else if x.typ == tPower then n % 8 != 0
  else if x.typ == tDigest then n != 4 + 8 * leAt x.body 0 4
  else if x.typ == tServe then n != serveLen x.body
  else if x.typ == tLearn then n != learnLen x.body
  else false

/-- Reserved bytes of `n` records of `size` bytes from an offset of a section: the first record with a nonzero one. -/
def recordsReserved (b : List Byte) (first size n : Nat) (rsv : List (Nat × Nat)) : Option Nat :=
  firstSome (List.range n) fun i => firstSome rsv fun r =>
    (firstNonzero ((b.drop (first + size * i + r.1)).take r.2)).map fun j => first + size * i + r.1 + j

/-- R13 over a SERVE section (R326, R336, R343): offset in the section. The codes of SFMT and, where R336 does not name
another code, the reserved CFMT are format codes. -/
def serveReserved (b : List Byte) : Option Nat :=
  let ns := leAt b 4 2
  let ng := leAt b 6 2
  let s0 := 16 + 1024
  let g0 := s0 + 16 * ns
  let l0 := g0 + 16 * ng
  firstSome [
    recordsReserved b 8 8 1 [(0, 8)],
    recordsReserved b 16 64 16 [(35, 1), (52, 12)],
    firstSome (List.range ns) fun i =>
      let o := s0 + 16 * i
      if decide (leAt b o 1 / 32 ≠ 0) then some o
      else if decide (1 < leAt b (o + 1) 1) then some (o + 1)
      else if leAt b (o + 2) 2 != 0 then some (o + 2)
      else if bits (leAt b (o + 8) 8) 35 29 != 0 then some (o + 8)
      else none,
    firstSome (List.range ng) fun i => if bits (leAt b (g0 + 16 * i) 16) 106 22 != 0 then some (g0 + 16 * i) else none,
    firstSome (List.range 192) fun i =>
      let e := leAt b (l0 + 8 * i) 8
      if bits e 36 28 != 0 || (bits e 17 15 == 0 && bits e 32 4 == 0xF) then some (l0 + 8 * i) else none] id

/-- R13 over a LEARN section (R354 to R356). -/
def learnReserved (b : List Byte) : Option Nat :=
  let na := leAt b 0 2
  firstSome [
    recordsReserved b 4 12 1 [(0, 12)],
    firstSome (List.range na) fun i =>
      let o := 16 + 64 * i
      if decide (leAt b (o + 2) 1 / 16 ≠ 0) then some (o + 2)
      else if decide (leAt b (o + 3) 1 / 16 ≠ 0) then some (o + 3)
      else recordsReserved b o 64 1 [(27, 37)],
    recordsReserved b (16 + 64 * na) 16 (leAt b 2 2) [(2, 2), (12, 4)]] id

/-- R13 over one section's own bytes, but for a PROGRAMS section's range records (R423). -/
def DeckIn.sectReserved (d : DeckIn) (x : Sect) : Option Fail :=
  let b := x.body
  let at_ (o : Option Nat) : Option Fail := o.map fun i => (0x100B, x.off + i)
  if b.isEmpty then none
  else if x.typ == tProg then d.bundlesBad x.scope
  else if x.typ == tOdt then d.odtBad x.scope
  else if x.typ == tPip then at_ (recordsReserved b 8 8 1 [(0, 8)])
  else if x.typ == tRing then at_ (ringReserved b)
  else if x.typ == tRoutes then at_ (((wordsOf 4 b).zipIdx.find? fun w => decide (w.1 / 2 ^ 7 ≠ 0)).map fun w => 4 * w.2)
  else if x.typ == tDir then at_ ((d.dirRows.find? (·.rsv)).map fun r => 16 * r.idx)
  else if x.typ == tPower then at_ (recordsReserved b 0 8 (b.length / 8) [(5, 3)])
  else if x.typ == tDigest then
    at_ (firstSome d.digestRows fun r =>
      if decide (leAt b r.1 2 / 2 ^ 12 ≠ 0) || leAt b (r.1 + 3) 1 != 0 then some r.1 else none)
  else if x.typ == tServe then at_ (serveReserved b)
  else if x.typ == tLearn then at_ (learnReserved b)
  else none

/-- The checks that read one section's form, or the directories beside it. -/
def DeckIn.formChecks (d : DeckIn) : List DeckCheck :=
  let all := scopeAll
  let dir := (tDir, all)
  (d.sects.flatMap fun x =>
    let me := (x.typ, x.scope)
    [{ label := 13, reads := [me], bad := d.sectReserved x },
     { label := 422, reads := [me], bad := failIf (sizeBad x) 0x100A x.off }]) ++
  ((d.scopes tProg).flatMap fun t =>
    let me := (tProg, t)
    [{ label := 180, reads := [me], bad := failIf (decide (16384 < (bundlesOf (d.body tProg t)).length)) 0x1050
        (d.base tProg t + bundlesAt (d.body tProg t) + 16 * 16384) },
     { label := 423, reads := [me], bad := d.programsBad t },
     { label := 423, reads := [me, dir], bad := d.rangesListed t }]) ++
  ((d.scopes tOdt).map fun t => { label := 7, reads := [(tOdt, t)], bad := d.addressBad t }) ++
  ((d.scopes tPip).map fun t => { label := 420, reads := [(tPip, t)], bad := d.pipForm t }) ++
  ((d.scopes tInit).map fun t => { label := 421, reads := [(tInit, t)], bad := d.initBad t }) ++
  ((d.scopes tRing).flatMap fun t =>
    let b := d.body tRing t
    let me := (tRing, t)
    if b.isEmpty then []
    else
      [{ label := 166, reads := [me], bad := (ringBad (ringImages b)).map fun r => (0x1047, d.base tRing t + 16 * r) },
       { label := 174, reads := [me], bad := (handleBad (handleImages b)).map fun h => (0x1048, d.base tRing t + 256 + 8 * h) }]) ++
  ([tScirc, tRcirc].flatMap fun typ =>
    ((d.scopes typ).map fun p => { label := 271, reads := [(typ, p)], bad := d.circBad typ p }) ++
    [{ label := 271, reads := (d.scopes typ).map fun p => (typ, p), bad := d.tileCircBad typ }]) ++
  ((d.scopes tScirc).map fun p => { label := 274, reads := [(tScirc, p)], bad := d.freeBad p }) ++
  [{ label := 290, reads := [dir], bad := d.progdirBad },
   { label := 66, reads := [dir, (tPower, all)], bad := d.powerSum },
   { label := 424, reads := [dir, (tPower, all)], bad := d.powerBad },
   { label := 281, reads := [(tRoutes, all)], bad := d.routesBad },
   { label := 380, reads := [(tDigest, all)], bad := d.digestBad }]

end Sys2Proof.Machine
end

