-- ==== Sys2Proof/Machine/DeckProg.lean ====
section
/-! DEFINITION. The validator's checks of tick programs (R55, R84, R90, R101, R107, R110, R115, R117, R177, R181, R193,
R197 to R201, R210, R212, R213, R228, R239, R357, R358, R380, R385): a tile's programs with its ODT, its circuits and PROGDIR. -/

namespace Sys2Proof.Machine

/-! ### Programs and their beats (R53, R54, R181, R199) -/

/-- Table clock of a clock code as a ratio of the fabric clock (R53, R57). -/
def ratioOf (g : Grade) (clock : Nat) : Nat × Nat :=
  match g, clock with
  | _, 0 => (1, 1)
  | .a14, 1 => (9, 10)
  | .a14, _ => (4, 5)
  | .a12, _ => (8, 9)

/-- A range of a tile with its directory row. -/
structure ProgIn where
  rec_ : RangeRec
  row : DirRow
  deriving DecidableEq, Repr

/-- A range whose PROG is not listed for the table is read as a nominal tick program; R423 rejects it. -/
def noRow (prog t : Nat) : DirRow :=
  { idx := 0, prog, table := t / 12, attr := 1, slot := 0, cycle := 1, rsv := false }
/-- The programs of a tile (R422). -/
def DeckIn.progs (d : DeckIn) (t : Nat) : List ProgIn :=
  (rangeRecs (d.body tProg t)).map fun r =>
    { rec_ := r, row := (d.dirRows.find? fun x => x.prog == r.prog && x.table == t / 12).getD (noRow r.prog t) }
/-- A bundle of a tile's section. -/
def DeckIn.bundle (d : DeckIn) (t i : Nat) : Nat := nth 0 (bundlesOf (d.body tProg t)) i
/-- A bundle's offset in the deck. -/
def DeckIn.bundleOff (d : DeckIn) (t i : Nat) : Nat := d.base tProg t + bundlesAt (d.body tProg t) + 16 * i

/-- Last beat of a program's tick: 2^k - 1, or T - 1 in a derated variant (R53, R181). -/
def DeckIn.lastOf (d : DeckIn) (clock : Nat) : Nat :=
  let (a, b) := ratioOf d.grade clock
  2 ^ d.k * a / b - 1
/-- Fabric beat of a table beat (R54). -/
def DeckIn.fabric (d : DeckIn) (clock j : Nat) : Nat :=
  let (a, b) := ratioOf d.grade clock
  ceilDiv (j * b) a

/-- The LOOP entry of a bundle's REP, when its static entry is one (R199). -/
def DeckIn.repOf (d : DeckIn) (t w : Nat) : Option LoopE :=
  let c := slotC w
  let e := d.odt t (slotA c)
  if slotOp c == 0x08 && odtKind e == 5 then some (loopE e) else none

/-- A bundle's issue: beat, store index, and the index counter with its value that the iteration's first bundle sets. -/
abbrev Issue := Nat × Nat × Option (Nat × Nat)
/-- The issues of a program with its repeats expanded (R181, R199), each of at least `least` iterations. `index` goes with the
first of them. -/
def DeckIn.expand (d : DeckIn) (t least : Nat) : Nat → Nat → Nat → Nat → Option (Nat × Nat) → Nat → List Issue
  | 0, _, _, _, _, _ => []
  | fuel + 1, depth, stop, base, index, i =>
    if stop ≤ i then []
    else
      let w := d.bundle t i
      let me := (bundleBeat w + base, i, index)
      match d.repOf t w with
      | some l =>
        if depth == 0 then me :: d.expand t least fuel depth stop base none (i + 1)
        else
          let e := min stop (i + 1 + l.body)
          me :: ((List.range (max least l.count)).flatMap fun k =>
            d.expand t least fuel (depth - 1) e (base + k * l.period) (if l.ien then some (l.ictr, k) else none) (i + 1)) ++
            d.expand t least fuel depth stop base none e
      | none => me :: d.expand t least fuel depth stop base none (i + 1)

/-- The issues of a program, with the index counters that they set. -/
def DeckIn.indexed (d : DeckIn) (t : Nat) (p : ProgIn) : List Issue :=
  d.expand t 0 (p.rec_.count + 1) 2 (p.rec_.first + p.rec_.count) 0 none p.rec_.first
/-- The issues of a program: beat and store index. -/
def DeckIn.items (d : DeckIn) (t : Nat) (p : ProgIn) : List (Nat × Nat) := (d.indexed t p).map fun x => (x.1, x.2.1)

/-- The same with one iteration of a body whose COUNT is 0: a check of a bundle holds for one that never issues too. -/
def DeckIn.itemsOnce (d : DeckIn) (t : Nat) (p : ProgIn) : List (Nat × Nat) :=
  (d.expand t 1 (p.rec_.count + 1) 2 (p.rec_.first + p.rec_.count) 0 none p.rec_.first).map fun x => (x.1, x.2.1)

/-- Sections that a check of a tile's programs reads. -/
def progReads (t : Nat) : List (Nat × Nat) := [(tProg, t), (tOdt, t), (tDir, scopeAll)]

/-- The first bundle of a tile's programs, by range and store index, that a test finds at fault. -/
def DeckIn.findBundle (d : DeckIn) (t code : Nat) (test : ProgIn → Nat → Nat → Bool) : Option Fail :=
  firstSome (d.progs t) fun p =>
    ((List.range p.rec_.count).find? fun i => test p (p.rec_.first + i) (d.bundle t (p.rec_.first + i))).map fun i =>
      (code, d.bundleOff t (p.rec_.first + i))

/-- The first issue of a tile's programs, in expanded order, that a test finds at fault: it sees the program, the beat
and the bundle. A body whose COUNT is 0 counts once. -/
def DeckIn.findIssue (d : DeckIn) (t code : Nat) (test : ProgIn → Nat → Nat → Bool) : Option Fail :=
  firstSome (d.progs t) fun p =>
    ((d.itemsOnce t p).find? fun x => test p x.1 (d.bundle t x.2)).map fun x => (code, d.bundleOff t x.2)

/-- A program's issues as beat, store index and bundle. -/
def DeckIn.issues (d : DeckIn) (t : Nat) (p : ProgIn) : List (Nat × Nat × Nat) :=
  (d.items t p).map fun x => (x.1, x.2, d.bundle t x.2)

/-! ### R181: stamps -/

/-- A slot-X word of a tile is one of the sending operations (R181). -/
def DeckIn.sends (d : DeckIn) (t w : Nat) : Bool :=
  match slotOp w with
  | 0x03 | 0x04 | 0x07 | 0x08 => true
  | 0x0a =>
    let e := d.odt t (slotA w)
    let a := 4 * (flagE e).gword
    odtKind e == 4 && !(bits a 31 10 == d.devIndex && bits a 23 8 == t)
  | _ => false

/-- Issue beats that fail to increase. -/
def notRising : List (Nat × Nat) → Option Nat
  | [] => none
  | [_] => none
  | a :: b :: l => if b.1 ≤ a.1 then some b.2 else notRising (b :: l)

/-- R181: issue beats that do not rise or pass the tick; BEAT bits past k, and sending operations stamped below beat 16, in
every bundle, whether or not a repeat issues it. -/
def DeckIn.stampBad (d : DeckIn) (t : Nat) : Option Fail :=
  let one (p : ProgIn) : Option Fail :=
    let l := d.items t p
    firstSome [notRising l, (l.find? fun x => decide (d.lastOf p.row.clock < x.1)).map (·.2)] fun o =>
      o.map fun i => (0x1051, d.bundleOff t i)
  firstSome [firstSome (d.progs t) one,
    d.findBundle t 0x1051 fun _ _ w => decide (2 ^ d.k ≤ bundleBeat w) || (decide (bundleBeat w < 16) && d.sends t (slotX w))] id

/-! ### R193: kinds of the entries that operations name -/

/-- FLAGX of an entry by its kind (R187 to R192, R224 to R226). -/
def flagxOf (e : Nat) : Nat :=
  match odtKind e with
  | 1 => (rangeE e).flagx
  | 2 => (globalE e).flagx
  | 3 => (circE e).flagx
  | 6 => (rrefE e).flagx
  | 0xb => (drainE e).flagx
  | 0xc => (collE e).flagx
  | _ => (shufE e).flagx

/-- Some entry that a bundle's operations name is of another kind (R193). -/
def DeckIn.kindBad (d : DeckIn) (t w : Nat) : Bool :=
  let e (i : Nat) : Nat := d.odt t i
  let is (i k : Nat) : Bool := odtKind (e i) == k
  let flag (s : Nat) : Bool := !slotCF s || is (flagxOf (e (slotA s))) 4
  let mask (src x : Nat) : Bool := src == 0 || src == 3 || is x 9
  let c := slotC w
  let x := slotX w
  let v := slotV w
  let m := slotM w
  let a := slotA x
  let b := slotB x
  let okC := match slotOp c with
    | 0x05 => is (bits c 8 10) 1
    | 0x08 => is (slotA c) 5
    | 0x0a => is (bits c 0 10) 1
    | _ => true
  let okX := match slotOp x with
    | 0x01 | 0x05 | 0x06 => is a 1 && flag x
    | 0x02 => is a 1 && is b 1 && (rangeE (e a)).nrows == (rangeE (e b)).nrows && flag x
    | 0x03 | 0x04 => is a 2 && is b 1 && flag x
    | 0x07 => is a 6 && is b 1 && flag x
    | 0x08 => is a 3 && is b 1 && !(circE (e a)).dir && flag x
    | 0x09 => is a 3 && is b 1 && (circE (e a)).dir && flag x
    | 0x0a => is a 4
    | 0x0b => is a 1
    | _ => true
  let okV := slotOp v != 1 || is (slotA v) 0xe
  let okM := match slotOp m with
    | 0x03 =>
      let p := passE (e (slotA m))
      is (slotA m) 7 && is p.streamx 8 && mask p.masksrc p.maskx
    | 0x04 =>
      let p := sideE (e (slotA m))
      is (slotA m) 0xa && mask p.masksrc p.maskx
    | 0x05 => is (slotA m) 0xb && flag m
    | 0x06 => is (slotA m) 0xc && flag m
    | 0x07 => is (slotA m) 0xd && flag m
    | _ => true
  !(okC && okX && okV && okM)

/-! ### What operations read and write (R182, R197, R201, R210, R358) -/

/-- The counter of an entry's index, when it has one. -/
def indexCtr (e : Nat) : List Nat :=
  match odtKind e with
  | 1 => if (rangeE e).ien then [(rangeE e).ictr] else []
  | 2 => if (globalE e).ien then [(globalE e).ictr] else []
  | 4 => if (flagE e).ven then [(flagE e).vctr] else []
  | 0xb => if (drainE e).ien then [(drainE e).ictr] else []
  | 0xc => if (collE e).ien then [(collE e).ictr] else []
  | _ => []

/-- ODT entries that a slot reads: of slot C, X, V or M, by the slot's word. -/
def DeckIn.entriesRead (d : DeckIn) (t slot w : Nat) : List Nat :=
  let flag (a : Nat) : List Nat := if slotCF w then [a, flagxOf (d.odt t a)] else [a]
  let mask (src x : Nat) : List Nat := if src == 1 || src == 2 then [x] else []
  match slot, slotOp w with
  | 0, 0x05 => [bits w 8 10]
  | 0, 0x08 => [slotA w]
  | 0, 0x0a => [bits w 0 10]
  | 1, 0x01 | 1, 0x05 | 1, 0x06 => flag (slotA w)
  | 1, 0x02 | 1, 0x03 | 1, 0x04 | 1, 0x07 | 1, 0x08 | 1, 0x09 => slotB w :: flag (slotA w)
  | 1, 0x0a | 1, 0x0b => [slotA w]
  | 2, 0x01 => [slotA w]
  | 3, 0x03 =>
    let p := passE (d.odt t (slotA w))
    slotA w :: p.streamx :: mask p.masksrc p.maskx
  | 3, 0x04 =>
    let p := sideE (d.odt t (slotA w))
    slotA w :: mask p.masksrc p.maskx
  | 3, 0x05 | 3, 0x06 | 3, 0x07 => flag (slotA w)
  | _, _ => []

/-- Counters that a slot reads. -/
def DeckIn.ctrsRead (d : DeckIn) (t slot w : Nat) : List Nat :=
  let own := match slot, slotOp w with
    | 0, 0x02 => [bits w 18 4]
    | 0, 0x03 => [bits w 14 4, bits w 10 4]
    | 0, 0x04 => [bits w 14 4]
    | 0, 0x07 => if bits w 15 3 == 0 then [] else [bits w 18 4]
    | 0, 0x08 => let l := loopE (d.odt t (slotA w)); if l.cen then [l.cctr] else []
    | 1, 0x01 => [bits w 8 4]
    | 1, 0x05 | 1, 0x06 => if bit w 3 then [bits w 4 4] else []
    | 2, 0x01 => let x := dispE (d.odt t (slotA w)); if x.aen then [x.actr] else []
    | 2, 0x02 => [bits w 7 4]
    | 3, 0x03 | 3, 0x04 => (if bit w 7 then [bits w 8 4] else []) ++ (if bit w 2 then [bits w 3 4] else [])
    | _, _ => []
  own ++ (d.entriesRead t slot w).flatMap fun i => indexCtr (d.odt t i)

/-- Slot words of a bundle: C, X, V, M. -/
def slotsOf (w : Nat) : List (Nat × Nat) := [(0, slotC w), (1, slotX w), (2, slotV w), (3, slotM w)]
/-- The read beat of a slot of a bundle that issues at `beat` (R182, R183). -/
def DeckIn.readBeat (d : DeckIn) (t beat : Nat) (x : Nat × Nat) : Nat :=
  if x.1 == 1 && d.sends t x.2 then beat - 16 else beat

/-- Some slot of the program's issues, with a property, reads in beats `lo` to `hi`. -/
def DeckIn.readsWithin (d : DeckIn) (t lo hi : Nat) (l : List (Nat × Nat × Nat)) (f : Nat × Nat → Bool) : Bool :=
  l.any fun x => decide (lo ≤ x.1) && decide (x.1 ≤ hi + 16) && (slotsOf x.2.2).any fun y =>
    f y && decide (lo ≤ d.readBeat t x.1 y) && decide (d.readBeat t x.1 y ≤ hi)

/-- The first issue of a tile's programs that a test of program, beat, bundle and the program's other issues rejects. -/
def DeckIn.findHazard (d : DeckIn) (t code : Nat) (test : ProgIn → List (Nat × Nat × Nat) → Nat → Nat → Bool) : Option Fail :=
  firstSome (d.progs t) fun p =>
    let l := d.issues t p
    (l.find? fun x => test p l x.1 x.2.2).map fun x => (code, d.bundleOff t x.2.1)

/-- The hazard of R197: a slot reads ctr[c] in beats t + 1 to t + 31. -/
def DeckIn.ctrHazard (d : DeckIn) (t c beat : Nat) (l : List (Nat × Nat × Nat)) : Bool :=
  d.readsWithin t (beat + 1) (beat + 31) l fun y => (d.ctrsRead t y.1 y.2).contains c

/-- R197: a CLD whose result would come after the tick, then one whose counter is read too early. -/
def DeckIn.cldBad (d : DeckIn) (t : Nat) : Option Fail :=
  firstSome [
    d.findIssue t 0x1052 fun p b w => slotOp (slotC w) == 0x05 && decide (d.lastOf p.row.clock < b + 31),
    d.findHazard t 0x1053 fun _ l b w => slotOp (slotC w) == 0x05 && d.ctrHazard t (bits (slotC w) 18 4) b l] id

/-- A PUSH or POP with RET (R210). -/
def retOp (w : Nat) : Bool := (slotOp w == 0x05 || slotOp w == 0x06) && bit w 2
/-- R210. -/
def DeckIn.retBad (d : DeckIn) (t : Nat) : Option Fail :=
  firstSome [
    d.findIssue t 0x1052 fun p b w => retOp (slotX w) && decide (d.lastOf p.row.clock < b + 31),
    d.findHazard t 0x1053 fun _ l b w => retOp (slotX w) && d.ctrHazard t (bits (slotX w) 4 4) b l] id

/-- R200: a DLN beat at or before the issue, or past the tick. -/
def DeckIn.dlnBad (d : DeckIn) (t : Nat) : Option Fail :=
  d.findIssue t 0x1052 fun p b w => slotOp (slotC w) == 0x09 &&
    (decide (bits (slotC w) 0 16 ≤ b) || decide (d.lastOf p.row.clock < bits (slotC w) 0 16))

/-! ### R198, R199: SKIP and REP -/

/-- The repeats of a program: index of the REP, first and past-last index of its body. -/
def DeckIn.reps (d : DeckIn) (t : Nat) (p : ProgIn) : List (Nat × Nat × Nat) :=
  (List.range p.rec_.count).filterMap fun i =>
    let j := p.rec_.first + i
    (d.repOf t (d.bundle t j)).map fun l => (j, j + 1, j + 1 + l.body)

/-- R198. -/
def DeckIn.skipBad (d : DeckIn) (t : Nat) : Option Fail :=
  d.findBundle t 0x1052 fun p i w =>
    let n := bits (slotC w) 0 12
    slotOp (slotC w) == 0x07 && n != 0 && (decide (p.rec_.first + p.rec_.count ≤ i + n) ||
      (d.reps t p).any fun r =>
        let holds := decide (r.2.1 ≤ i) && decide (i < r.2.2)
        if holds then decide (r.2.2 ≤ i + n)
        else
          overlaps (i + 1) n r.2.1 (r.2.2 - r.2.1) && !(decide (i + 1 ≤ r.2.1) && decide (r.2.2 ≤ i + 1 + n)))

/-- R199: a body outside its program or its outer body, or three deep. -/
def DeckIn.repBad (d : DeckIn) (t : Nat) : Option Fail :=
  d.findBundle t 0x1052 fun p i _ =>
    (d.reps t p).any fun r => r.1 == i && (decide (p.rec_.first + p.rec_.count < r.2.2) ||
      (d.reps t p).any (fun q => decide (q.2.1 ≤ i) && decide (i < q.2.2) && decide (q.2.2 < r.2.2)) ||
      decide (2 ≤ ((d.reps t p).filter fun q => decide (q.2.1 ≤ i) && decide (i < q.2.2)).length))

/-! ### R201: SETUP -/

/-- A SETUP word's target first and past-last element, and the beats it takes, from its static entry. -/
def DeckIn.setupSpan (d : DeckIn) (t w : Nat) : Nat × Nat × Nat :=
  let n := (rangeE (d.odt t (bits w 0 10))).nrows
  let first := bits w 10 10
  (first, first + (if bits w 20 2 == 2 then 8 else 4) * n, 31 + n)
/-- Capacity of a SETUP target. -/
def setupCap (what : Nat) : Nat := match what with | 0 => 1024 | 1 => 16 | _ => 32
/-- A bundle's SETUP with a RANGE entry. -/
def DeckIn.isSetup (d : DeckIn) (t w : Nat) : Bool := slotOp (slotC w) == 0x0a && odtKind (d.odt t (bits (slotC w) 0 10)) == 1
/-- A slot reads a target of a SETUP: ODT entries, or rings (by PUSH, POP and CRD). -/
def DeckIn.readsTarget (d : DeckIn) (t what lo hi : Nat) (y : Nat × Nat) : Bool :=
  let within_ (i : Nat) : Bool := decide (lo ≤ i) && decide (i < hi)
  match what with
  | 0 => (d.entriesRead t y.1 y.2).any within_
  | 1 =>
    match y.1, slotOp y.2 with
    | 1, 0x05 | 1, 0x06 => within_ (bits y.2 8 4)
    | 0, 0x06 => decide (bits y.2 12 6 ≤ 1) && within_ (bits y.2 0 4)
    | _, _ => false
  | _ => false

/-- R201, but for the images of rings and handles. -/
def DeckIn.setupBad (d : DeckIn) (t : Nat) : Option Fail :=
  firstSome [
    d.findIssue t 0x1052 fun p b w =>
      let c := slotC w
      let (_, hi, n) := d.setupSpan t c
      d.isSetup t w && (decide (d.lastOf p.row.clock < b + n) || (n != 31 && decide (setupCap (bits c 20 2) < hi)) ||
        (bits c 20 2 != 0 && p.row.role != 2)),
    d.findHazard t 0x1053 fun _ l b w =>
      let c := slotC w
      let (lo, hi, n) := d.setupSpan t c
      d.isSetup t w && d.readsWithin t (b + 1) (b + n) l fun y => d.readsTarget t (bits c 20 2) lo hi y] id

/-- Bytes of a tile's rows that an INIT section gives, when it gives them all. -/
def DeckIn.initRows (d : DeckIn) (t row n : Nat) : Option (List Byte) :=
  let b := d.body tInit t
  let first := leAt b 0 4
  if !b.isEmpty && decide (first ≤ row) && decide (4 + 64 * (row + n - first) ≤ b.length) then
    some ((b.drop (4 + 64 * (row - first))).take (64 * n))
  else none

/-- R201 with R166 and R174: the ring and handle images of a SETUP whose rows the deck gives, over those of RINGHND. -/
def DeckIn.setupImageBad (d : DeckIn) (t what code : Nat) : Option Fail :=
  d.findBundle t code fun _ _ w =>
    let c := slotC w
    let e := rangeE (d.odt t (bits c 0 10))
    let first := bits c 10 10
    d.isSetup t w && bits c 20 2 == what && !e.ien &&
      match d.initRows t e.row e.nrows with
      | none => false
      | some l =>
        let r := d.body tRing t
        if what == 1 then
          let image := (ringImages r).zipIdx.map fun x =>
            if first ≤ x.2 && x.2 < first + 4 * e.nrows then
              (leAt l (16 * (x.2 - first)) 4, leAt l (16 * (x.2 - first) + 4) 4)
            else x.1
          (ringBad image).isSome
        else (handleBad (wordsOf 8 l)).isSome

/-! ### Circuits in programs (R55, R212, R213, R239) -/

/-- The nominal program of a program's place (R55, R270). -/
def DeckIn.nominal (d : DeckIn) (r : DirRow) : Option DirRow :=
  d.dirRows.find? fun x => x.clock == 0 && x.table == r.table && x.sec == r.sec && x.role == r.role && (r.role != 0 || x.slot == r.slot)

/-- The circuit entry of a CSEND or CRECV, when it is live in the program for this tile (R270). -/
def DeckIn.liveCircuit (d : DeckIn) (t : Nat) (p : ProgIn) (w : Nat) : Option CircuitE :=
  let e := circE (d.odt t (slotA w))
  let c := d.circuit (if e.dir then tRcirc else tScirc) e.port e.circuit
  if p.row.role == 0 && decide (0 < c.count) && c.ltile == t && (d.nominal p.row).any (·.prog == c.prog) then some c else none

/-- Is a slot-X word a CSEND with a send entry, or a CRECV with a receive entry, and a RANGE? -/
def DeckIn.isCirc (d : DeckIn) (t : Nat) (send : Bool) (w : Nat) : Bool :=
  slotOp w == (if send then 0x08 else 0x09) && odtKind (d.odt t (slotA w)) == 3 && (circE (d.odt t (slotA w))).dir == !send &&
    odtKind (d.odt t (slotB w)) == 1
/-- Rows of a CSEND or CRECV. -/
def DeckIn.circRows (d : DeckIn) (t w : Nat) : Nat := (rangeE (d.odt t (slotB w))).nrows

/-- R212: in every bundle, and for two that issue in one tick on one circuit. -/
def DeckIn.csendBad (d : DeckIn) (t : Nat) : Option Fail :=
  let key (y : Nat) : Nat × Nat := ((circE (d.odt t (slotA y))).port, (circE (d.odt t (slotA y))).circuit)
  firstSome (d.progs t) fun p =>
    let l := (d.issues t p).filter fun y => d.isCirc t true (slotX y.2.2)
    ((d.itemsOnce t p).find? fun z =>
      let x := slotX (d.bundle t z.2)
      d.isCirc t true x &&
        ((match d.liveCircuit t p x with
          | none => d.circRows t x != 0
          | some c => c.first != d.fabric p.row.clock z.1 + 1 || decide (c.count < ceilDiv (d.circRows t x) 2)) ||
         (l.any (fun y => y.1 == z.1 && y.2.1 == z.2) &&
          l.any fun y => decide (y.1 < z.1) && key (slotX y.2.2) == key x))).map fun z => (0x1055, d.bundleOff t z.2)

/-- R213. -/
def DeckIn.crecvBad (d : DeckIn) (t : Nat) : Option Fail :=
  d.findIssue t 0x1055 fun p b w =>
    let x := slotX w
    d.isCirc t false x && match d.liveCircuit t p x with
      | none => d.circRows t x != 0
      | some c => decide (c.first ≤ d.fabric p.row.clock b) || decide (2 * c.count < d.circRows t x)

/-- Sections that a check of a tile's circuits reads. -/
def DeckIn.circReads (d : DeckIn) (t typ : Nat) : List (Nat × Nat) :=
  progReads t ++ ((d.odtWords t).filter (odtKind · == 3)).map fun e => (typ, (circE e).port)

/-- Rows of an accumulator block in tile memory (R233). -/
def collRows (e : CollE) : Nat := ceilDiv (e.count * accRowBytes (e.sfmt == 2)) 64

/-- The first table beat that begins at a fabric beat or behind it (R53, R54). -/
def DeckIn.tableFrom (d : DeckIn) (clock x : Nat) : Nat :=
  let (a, b) := ratioOf d.grade clock
  ceilDiv (x * a) b

/-- R239: an ACCM reads a row that a CRECV of its tick writes at or after its issue. The rows of an entry whose index is a
counter may be any, in the slowest bank (log entry 30). -/
def DeckIn.accmOrderBad (d : DeckIn) (t : Nat) : Option Fail :=
  d.findHazard t 0x1057 fun p l b w =>
    let m := slotM w
    let e := collE (d.odt t (slotA m))
    slotOp m == 0x06 && odtKind (d.odt t (slotA m)) == 0xc &&
      l.any fun y =>
        let x := slotX y.2.2
        let r := rangeE (d.odt t (slotB x))
        d.isCirc t false x && match d.liveCircuit t p x with
          | none => false
          | some c => (List.range r.nrows).any fun i =>
            let row := r.row + i
            let meets := e.ien || r.ien || (List.range e.nsrc).any fun s => decide (e.srow + s * e.sstride ≤ row) &&
              decide (row < e.srow + s * e.sstride + collRows e)
            let latency := if r.ien then 9 else rowLatency row
            meets && decide (b ≤ d.tableFrom p.row.clock (c.slotBeat (i / 2)) + latency)

/-- A slot-X word acts on the interface (R49): a circuit, a remote operation, or a digest post. -/
def DeckIn.interface (d : DeckIn) (t w : Nat) : Bool := d.sends t w || slotOp w == 0x09 || slotOp w == 0x0b
/-- What an interface action does, as two schedules must agree on it (log entry 30): its operation, what it acts on (a circuit,
a global address, a ring or a flag; a digest's point), and its rows. -/
def DeckIn.actionKey (d : DeckIn) (t x : Nat) : Nat × Nat × Nat :=
  if slotOp x == 0x0b then (0x0b, bits x 0 12, (rangeE (d.odt t (slotA x))).nrows)
  else (slotOp x, d.odt t (slotA x), if slotOp x == 0x0a then 0 else (rangeE (d.odt t (slotB x))).nrows)
/-- The interface actions of a program: fabric beat, and what they do (R54). -/
def DeckIn.actions (d : DeckIn) (t : Nat) (p : ProgIn) : List (Nat × Nat × Nat × Nat) :=
  ((d.issues t p).filter fun x => d.interface t (slotX x.2.2)).map fun x =>
    (d.fabric p.row.clock x.1 + 1, d.actionKey t (slotX x.2.2))

/-- A program is a variant at a derated clock (R55). -/
def ProgIn.derated (p : ProgIn) : Bool := p.row.clock != 0 && p.row.clock != 3
/-- R55: every interface action of a nominal program lands on the same fabric beat in its variants, at most 2^k - 1, and a
variant has no others. A tile without bundles for a variant has no actions in it. -/
def DeckIn.variantBad (d : DeckIn) (t : Nat) : Option Fail :=
  let same (p : ProgIn) : Bool :=
    match (d.nominal p.row).bind fun n => (d.progs t).find? fun q => q.row.prog == n.prog with
    | some q => d.actions t p == d.actions t q
    | none => (d.actions t p).isEmpty
  let missing (q : ProgIn) : Bool :=
    q.row.clock == 0 && !(d.actions t q).isEmpty &&
      d.dirRows.any fun r => r.table == t / 12 && r.clock != 0 && r.clock != 3 && (d.nominal r).any (·.prog == q.row.prog) &&
        (d.progs t).all fun p => p.row.prog != r.prog
  ((d.progs t).find? fun p => missing p ||
    (p.derated && (!same p || (d.actions t p).any fun a => decide (2 ^ d.k ≤ a.1)))).map fun p =>
      (0x1010, d.base tProg t + p.rec_.at_)

/-- R55: a table's variant covers every program in which the table has bundles. -/
def DeckIn.variantCover (d : DeckIn) (tbl : Nat) : Option Fail :=
  let clocks := ((d.dirRows.filter fun r => r.table == tbl && r.clock != 0 && r.clock != 3).map (·.clock)).eraseDups
  let used := ((List.range 12).flatMap fun i => (d.progs (12 * tbl + i)).filter fun p => p.row.clock == 0 && decide (0 < p.rec_.count))
  (used.find? fun p => clocks.any fun c => !(d.dirRows.any fun x => x.clock == c && x.table == tbl && x.sec == p.row.sec &&
    x.role == p.row.role && (p.row.role != 0 || x.slot == p.row.slot))).map fun p => (0x1010, d.dirAt p.row)

/-! ### Matrix operations (R84, R90, R101, R107, R110, R115, R117, R228) -/

/-- Integer format codes (R84). -/
def intCode (f : Nat) : Bool := f == 0xb || f == 0xc
/-- Formats of the side array (R117). -/
def sideFmt (f : Nat) : Bool := f == 1 || f == 3 || f == 4
/-- Formats of slide mode (R107). -/
def slideFmt (f : Nat) : Bool := f == 1 || f == 2 || f == 3 || f == 4 || f == 0xb
/-- Formats of a matrix pass (R83). -/
def passFmt (f : Nat) : Bool := decide (1 ≤ f) && decide (f ≤ 0xc)

/-- The PASS entry of a bundle. -/
def DeckIn.passOf (d : DeckIn) (t w : Nat) : Option PassE :=
  let e := d.odt t (slotA (slotM w))
  if slotOp (slotM w) == 0x03 && odtKind e == 7 then some (passE e) else none
/-- The SIDE entry of a bundle. -/
def DeckIn.sideOf (d : DeckIn) (t w : Nat) : Option SideE :=
  let e := d.odt t (slotA (slotM w))
  if slotOp (slotM w) == 0x04 && odtKind e == 0xa then some (sideE e) else none
/-- A bundle's slot-M operation of an opcode, with an entry of a kind. -/
def DeckIn.mEntry (d : DeckIn) (t w op kind : Nat) : Option Nat :=
  let e := d.odt t (slotA (slotM w))
  if slotOp (slotM w) == op && odtKind e == kind then some e else none
/-- The STREAMS entry of a pass, zero when it is of another kind. -/
def DeckIn.streamsOf (d : DeckIn) (t : Nat) (p : PassE) : Nat :=
  let e := d.odt t p.streamx
  if odtKind e == 8 then e else 0
/-- Rows that each stream of a pass writes (R108, R230). -/
def PassE.outRows (p : PassE) : Nat := if p.mode == 2 then p.rows - p.width else p.rows

/-- The formats that the quad's planes may hold, active and shadow (log entry 30). -/
abbrev PlaneFmts := List (Nat × Nat)
/-- Two sets of formats as one. -/
def joinFmts (a b : PlaneFmts) : PlaneFmts := (a ++ b).eraseDups
/-- One bundle's effect on the formats: LOAD, and a pass that swaps. -/
def DeckIn.fmtStep (d : DeckIn) (t w : Nat) (s : PlaneFmts) : PlaneFmts :=
  let m := slotM w
  if slotOp m == 0x01 then (s.map fun x => (x.1, bits m 8 4)).eraseDups
  else match d.passOf t w with
    | some p => if p.swap && decide (0 < p.rows) then s.map fun x => (x.2, x.1) else s
    | none => s

/-- The formats at a bundle's pass, after its swap. -/
def DeckIn.fmtAt (d : DeckIn) (t w : Nat) (s : PlaneFmts) : List Nat := (d.fmtStep t w s).map (·.1)

/-- Trace the plane formats through every path of a program (R101): the state before each bundle that a path reaches.
A SKIP's target keeps the states that jump to it; a body with CEN may run any number of times up to COUNT. -/
def DeckIn.traceFmt (d : DeckIn) (t : Nat) : Nat → Nat → Nat → List (Nat × PlaneFmts) → PlaneFmts →
    List (Nat × PlaneFmts) × PlaneFmts
  | 0, _, _, _, s => ([], s)
  | fuel + 1, stop, i, jumps, s =>
    if stop ≤ i then ([], joinFmts s (jumps.flatMap (·.2)))
    else
      let s := joinFmts s ((jumps.filter (·.1 == i)).flatMap (·.2))
      let jumps := jumps.filter (·.1 != i)
      let w := d.bundle t i
      let s' := d.fmtStep t w s
      let c := slotC w
      if slotOp c == 0x07 && bits c 0 12 != 0 then
        let target := min stop (i + 1 + bits c 0 12)
        let r := d.traceFmt t fuel stop (i + 1) (jumps ++ [(target, s')]) (if bits c 15 3 == 0 then [] else s')
        ((i, s) :: r.1, r.2)
      else match d.repOf t w with
        | some l =>
          let e := min stop (i + 1 + l.body)
          let start : List (Nat × PlaneFmts) × PlaneFmts × PlaneFmts := ([], s', if l.cen || l.count == 0 then s' else [])
          let body := (List.range l.count).foldl (fun a _ =>
            let r := d.traceFmt t fuel e (i + 1) [] a.2.1
            (a.1 ++ r.1, r.2, if l.cen then joinFmts a.2.2 r.2 else r.2)) start
          let r := d.traceFmt t fuel stop e jumps body.2.2
          ((i, s) :: body.1 ++ r.1, r.2)
        | none =>
          let r := d.traceFmt t fuel stop (i + 1) jumps s'
          ((i, s) :: r.1, r.2)

/-- A program's trace from given formats. -/
def DeckIn.traceFrom (d : DeckIn) (t : Nat) (p : ProgIn) (s : PlaneFmts) : List (Nat × PlaneFmts) × PlaneFmts :=
  d.traceFmt t (p.rec_.count + 1) (p.rec_.first + p.rec_.count) p.rec_.first [] s

/-- A place of a table's schedule: section, role, slot (R290). -/
abbrev Place := Nat × Nat × Nat
/-- A number of its own for each. -/
def placeKey (x : Place) : Nat := x.1 + 4 * (x.2.1 + 4 * x.2.2)
/-- Where a program runs. -/
def DirRow.place (r : DirRow) : Place := (r.sec, r.role, r.slot)
/-- The places of a tile's table. -/
def DeckIn.placesOf (d : DeckIn) (t : Nat) : List Place :=
  (d.dirRows.filter fun r => r.table == t / 12 && r.clock == 0).map DirRow.place
/-- The formats that a place may begin with, from those that each place ends with (R60, R63, R102): an entry program follows the
load of the deck or a drain, the first slot an entry program or the last slot, a drain any slot. -/
def startFmts (places : List Place) (ends : List (Nat × PlaneFmts)) (x : Place) : PlaneFmts :=
  let slots := (places.filter fun y => y.1 == x.1 && y.2.1 == 0).length
  let after (f : Place → Bool) : PlaneFmts := ((places.filter f).flatMap fun y => Map.get [] ends (placeKey y)).eraseDups
  match x.2.1 with
  | 2 => joinFmts [(3, 3)] (after fun y => y.2.1 == 1)
  | 0 =>
    if x.2.2 = 0 then after fun y => y.1 == x.1 && (y.2.1 == 2 || (y.2.1 == 0 && y.2.2 + 1 == slots))
    else after fun y => y.1 == x.1 && y.2.1 == 0 && y.2.2 + 1 == x.2.2
  | _ => after fun y => y.1 == x.1 && y.2.1 == 0
/-- One more round over the places: a tile without bundles in a place passes its planes on. -/
def DeckIn.fmtRound (d : DeckIn) (t : Nat) (ends : List (Nat × PlaneFmts)) : List (Nat × PlaneFmts) :=
  let places := d.placesOf t
  places.foldl (fun ends x =>
    let s := startFmts places ends x
    let run := (d.progs t).filter fun p => p.row.place == x
    let out := if run.isEmpty then s else run.flatMap fun p => (d.traceFrom t p s).2
    Map.set [] ends (placeKey x) (joinFmts (Map.get [] ends (placeKey x)) out)) ends
/-- Rounds until nothing is added. -/
def DeckIn.fmtRounds (d : DeckIn) (t : Nat) : Nat → List (Nat × PlaneFmts) → List (Nat × PlaneFmts)
  | 0, ends => ends
  | fuel + 1, ends =>
    let next := d.fmtRound t ends
    if next = ends then ends else d.fmtRounds t fuel next

/-- The traced states of a program, from every state that it may begin in. -/
def DeckIn.traced (d : DeckIn) (t : Nat) (p : ProgIn) : List (Nat × PlaneFmts) :=
  let places := d.placesOf t
  (d.traceFrom t p (startFmts places (d.fmtRounds t (256 * places.length) []) p.row.place)).1

/-- The first pass that some path reaches with a weight format that a test rejects. -/
def DeckIn.findPass (d : DeckIn) (t code : Nat) (test : PassE → Nat → Bool) : Option Fail :=
  firstSome (d.progs t) fun p =>
    ((d.traced t p).find? fun x => match d.passOf t (d.bundle t x.1) with
      | some q => (d.fmtAt t (d.bundle t x.1) x.2).any fun f => test q f
      | none => false).map fun x => (code, d.bundleOff t x.1)

/-- R84: a floating-point and an integer operand. -/
def DeckIn.mixBad (d : DeckIn) (t : Nat) : Option Fail := d.findPass t 0x1040 fun p f => intCode p.afmt != intCode f

/-- What the trace of R90 knows (log entry 30): the terms in the half-rows of a tile's accumulator, LACC view; the most terms
that a memory row of this device's tiles holds at any time; those that the tile's own last write left in one of its rows, and
the most that another tile writes there; the most that may stand in any row of a tile; the most in a ring, or on a loopback
circuit; the counters whose value is static. Memory rows count as tile * 2^17 + row. -/
structure SumTrace where
  acc : List (Nat × Nat) := []
  mem : List (Nat × Nat) := []
  own : List (Nat × Nat) := []
  far : List (Nat × Nat) := []
  any : List (Nat × Nat) := []
  chan : List (Nat × Nat) := []
  ctrs : List (Nat × Option Nat) := []
  deriving DecidableEq, Repr

/-- A counter's static value. -/
def SumTrace.ctr (x : SumTrace) (c : Nat) : Option Nat := Map.get none x.ctrs c
/-- Every counter of an entry's index is known. -/
def SumTrace.knows (x : SumTrace) (e : Nat) : Bool := (indexCtr e).all fun c => (x.ctr c).isSome
/-- Its value, for an entry whose index is known. -/
def SumTrace.val (x : SumTrace) (c : Nat) : Nat := (x.ctr c).getD 0
/-- Terms enter half-rows of the accumulator: each with its own number. -/
def SumTrace.add (x : SumTrace) (first : Bool) (keys : List (Nat × Nat)) : SumTrace :=
  { x with acc := keys.foldl (fun m k => Map.set 0 m k.1 ((if first then 0 else Map.get 0 m k.1) + k.2)) x.acc }
/-- Half-rows of `n` rows from a row, each with a number of terms. -/
def halvesOf (a n terms : Nat) : List (Nat × Nat) := (List.range (2 * n)).map fun i => (2 * a + i, terms)
/-- The same where the row offset is a counter that is not static: every row from the first one on may be the target. -/
def SumTrace.addAny (x : SumTrace) (first : Bool) (a terms : Nat) : SumTrace :=
  { x with acc := (List.range (512 - 2 * a)).foldl (fun m i =>
      let old := Map.get 0 m (2 * a + i)
      Map.set 0 m (2 * a + i) (if first then max old terms else old + terms)) x.acc }

/-- Raise an entry of a list of maxima. -/
def raiseTo (m : List (Nat × Nat)) (k n : Nat) : List (Nat × Nat) := Map.set 0 m k (max (Map.get 0 m k) n)
/-- The terms that a read of a memory row may find. -/
def SumTrace.read (x : SumTrace) (k : Nat) : Nat :=
  max (Map.get 0 x.any (k / 2 ^ 17)) (max (Map.get 0 x.far k) (match x.own.find? (·.1 == k) with | some e => e.2 | none => Map.get 0 x.mem k))
/-- The most that a read of some row of a tile, from a row on, may find. -/
def SumTrace.most (x : SumTrace) (k : Nat) : Nat :=
  x.mem.foldl (fun n e => if e.1 / 2 ^ 17 == k / 2 ^ 17 && decide (k ≤ e.1) then max n e.2 else n) (Map.get 0 x.any (k / 2 ^ 17))
/-- A program of tile `t` writes a row. -/
def SumTrace.put (t : Nat) (x : SumTrace) (e : Nat × Nat) : SumTrace :=
  let x := { x with mem := raiseTo x.mem e.1 e.2 }
  if e.1 / 2 ^ 17 = t then { x with own := Map.put x.own e.1 e.2 } else { x with far := raiseTo x.far e.1 e.2 }

/-- A place in the memory of this device's tiles: a row, or some row from it on when its counter is not static. -/
abbrev SumSpot := Nat × Bool
/-- What `n` rows from a place hold, row by row. -/
def SumTrace.rows (x : SumTrace) (s : Option SumSpot) (n : Nat) : List Nat :=
  match s with
  | some (k, true) => (List.range n).map fun i => x.read (k + i)
  | some (k, false) => rep n (x.most k)
  | none => rep n 0
/-- Rows of terms reach a place; nothing is known of another device's. -/
def SumTrace.store (t : Nat) (x : SumTrace) (s : Option SumSpot) (l : List Nat) : SumTrace :=
  match s with
  | some (k, true) => (l.zipIdx.map fun e => (k + e.2, e.1)).foldl (SumTrace.put t) x
  | some (k, false) => { x with any := raiseTo x.any (k / 2 ^ 17) (l.foldl max 0) }
  | none => x
/-- The place of a RANGE or GLOBAL entry's rows (R187, R188). -/
def DeckIn.sumSpot (d : DeckIn) (t e : Nat) (x : SumTrace) : Option SumSpot :=
  let ok := x.knows e
  let val (c : Nat) : Nat := if ok then x.val c else 0
  if odtKind e == 1 then some (t * 2 ^ 17 + (rangeE e).rowOf val, ok)
  else if odtKind e == 2 && bits ((globalE e).rowOf val) 25 10 == d.devIndex then some (bits ((globalE e).rowOf val) 0 25, ok)
  else none
/-- Key of a ring among the places between tiles, and that of a loopback circuit by its sending port. -/
def ringChan (t r : Nat) : Nat := 16 * t + r
def loopChan (port : Nat) : Nat := 2 ^ 16 + port
/-- The memory rows that entries of a tile's ring take (R165). -/
def DeckIn.entryRows (d : DeckIn) (t r n : Nat) : Nat := ceilDiv (n * 32 * 2 ^ bits (nth (0, 0) (ringImages (d.body tRing t)) r).2 18 2) 64

/-- A pass adds one term to each output, two in gradient mode. -/
def DeckIn.sumPass (d : DeckIn) (t w : Nat) (x : SumTrace) : SumTrace :=
  let c := slotM w
  let at_ := if bit c 7 then x.ctr (bits c 8 4) else some 0
  match d.passOf t w, d.sideOf t w with
  | some p, _ =>
    if !p.strict then x
    else (List.range 4).foldl (fun x q =>
      if (streamE (d.streamsOf t p) q).1 && p.outRows != 0 then
        match at_ with
        | none => x.addAny p.first (nth 0 p.acc q) (if p.mode == 1 then 2 else 1)
        | some o =>
          let a := nth 0 p.acc q + o
          x.add p.first (if p.mode == 1 then (List.range p.outRows).map fun r => (2 * (a + r) + p.half, 2) else halvesOf a p.outRows 1)
      else x) x
  | none, some p =>
    if !p.strict || p.rows == 0 then x
    else match at_ with
      | none => x.addAny p.first p.acc 1
      | some o => x.add p.first (halvesOf (p.acc + o) p.rows 1)
  | none, none => x
/-- An ACCM adds to each half-row the terms of each block's 8 memory rows, at least 1; a DRAIN to LACC carries them out, and
CLEAR ends them. A SHUF moves rows: any row from SROW on may be permuted, and a transpose mixes those that it reads. -/
def DeckIn.sumMove (d : DeckIn) (t w : Nat) (x : SumTrace) : SumTrace :=
  let at_ (row : Nat) : Nat := t * 2 ^ 17 + row
  match d.mEntry t w 0x05 0xb, d.mEntry t w 0x06 0xc, d.mEntry t w 0x07 0xd with
  | some e, _, _ =>
    let y := drainE e
    if y.sview != 2 then x
    else
      let drow := y.drow + (if y.ien then x.val y.ictr else 0)
      let x := if y.dfmt == 0xe then
        SumTrace.store t x (some (at_ drow, x.knows e)) ((List.range (16 * y.count)).map fun i => Map.get 0 x.acc (2 * y.srow + i / 8)) else x
      if y.clear then x.add true (halvesOf y.srow y.count 0) else x
  | none, some e, _ =>
    let y := collE e
    if y.sfmt != 2 then x
    else
      let srow := y.srow + (if y.ien then x.val y.ictr else 0)
      let block (k : Nat) : Nat := if x.knows e then (List.range 8).foldl (fun n i => max n (x.read (k + i))) 1 else max 1 (x.most (at_ y.srow))
      (List.range y.nsrc).foldl (fun x s =>
        x.add (y.first && s == 0) ((List.range (2 * y.count)).map fun h => (2 * y.acc + h, block (at_ (srow + s * y.sstride + 8 * h))))) x
  | none, none, some e =>
    let y := shufE e
    if y.op == 0 then
      let n := y.sources.foldl (fun n r => max n (x.read (at_ r))) 0
      let out := ((List.range y.nc).flatMap fun j =>
        let a := 64 * y.drow + 16 * y.dpitch * j
        let len := 2 ^ y.esz * y.nr
        if len = 0 then [] else (List.range ((a + len - 1) / 64 - a / 64 + 1)).map (a / 64 + ·)).eraseDups
      out.foldl (fun x r => SumTrace.put t x (at_ r, n)) x
    else SumTrace.store t x (some (at_ y.drow, true)) (rep y.n (x.most (at_ y.srow)))
  | none, none, none => x
/-- The transfer engine moves the terms with the rows (R202 to R213): between tiles of this device, through rings, and over
the loopback ports. A FILL leaves none. -/
def DeckIn.sumCopy (d : DeckIn) (t w : Nat) (x : SumTrace) : SumTrace :=
  let v := slotX w
  let a := d.odt t (slotA v)
  let b := d.odt t (slotB v)
  let n := (rangeE b).nrows
  let spot (e : Nat) : Option SumSpot := d.sumSpot t e x
  let into (k : Nat) (l : List Nat) : SumTrace := { x with chan := raiseTo x.chan k (l.foldl max 0) }
  match slotOp v with
  | 0x01 => SumTrace.store t x (spot a) (rep (rangeE a).nrows 0)
  | 0x02 | 0x03 => SumTrace.store t x (spot a) (x.rows (spot b) n)
  | 0x04 => SumTrace.store t x (spot b) (x.rows (spot a) n)
  | 0x05 => into (ringChan t (bits v 8 4)) (x.rows (spot a) (d.entryRows t (bits v 8 4) (rangeE a).nrows))
  | 0x06 => SumTrace.store t x (spot a) (rep (d.entryRows t (bits v 8 4) (rangeE a).nrows) (Map.get 0 x.chan (ringChan t (bits v 8 4))))
  | 0x07 =>
    let e := rrefE a
    if odtKind a == 6 && e.dev == d.devIndex then into (ringChan e.ltile e.ring) (x.rows (spot b) (d.entryRows e.ltile e.ring n)) else x
  | 0x08 => if odtKind a == 3 then into (loopChan (circE a).port) (x.rows (spot b) n) else x
  | 0x09 =>
    match loopPeer (circE a).port with
    | some m => if odtKind a == 3 then SumTrace.store t x (spot b) (rep n (Map.get 0 x.chan (loopChan m))) else x
    | none => x
  | _ => x
/-- Counters after a bundle: slot C with static operands; a result that arrives later is not static. -/
def DeckIn.sumCtrs (w : Nat) (index : Option (Nat × Nat)) (x : SumTrace) : List (Nat × Option Nat) :=
  let c := slotC w
  let v := slotX w
  let m := if retOp v then Map.set none x.ctrs (bits v 4 4) none else x.ctrs
  let m := match index with | some i => Map.set none m i.1 (some i.2) | none => m
  let set (o : Option Nat) : List (Nat × Option Nat) := Map.set none m (bits c 18 4) o
  match slotOp c with
  | 0x01 => set (some (bits c 0 18))
  | 0x02 => set ((x.ctr (bits c 18 4)).map fun n => bits c 0 16 * 2 ^ 16 + n % 2 ^ 16)
  | 0x03 => set (match x.ctr (bits c 14 4), x.ctr (bits c 10 4) with | some a, some b => copFn (bits c 0 4) a b | _, _ => none)
  | 0x04 => set ((x.ctr (bits c 14 4)).map fun n => ofSigned 32 ((n : Int) + toSigned 14 (bits c 0 14)))
  | 0x05 | 0x06 => set none
  | _ => m
/-- A program adds to the trace; the bundle at which a half-row passes 2^15 terms. -/
def DeckIn.sumProg (d : DeckIn) (t : Nat) (p : ProgIn) (x : SumTrace) : SumTrace × Option Nat :=
  (d.indexed t p).foldl (fun (a : SumTrace × Option Nat) i =>
    let w := d.bundle t i.2.1
    let x := d.sumCopy t w (d.sumMove t w (d.sumPass t w a.1))
    ({ x with ctrs := DeckIn.sumCtrs w i.2.2 a.1 },
     if a.2.isNone && x.acc.any (fun e => decide (2 ^ 15 < e.2)) then some i.2.1 else a.2)) ({ x with ctrs := [] }, none)
/-- The programs of a tile by section and clock, in the order in which one pass through the section runs them. -/
def DeckIn.passesOf (d : DeckIn) (t : Nat) : List (List ProgIn) :=
  let l := d.progs t
  let order (p : ProgIn) : Nat := match p.row.role with | 2 => 0 | 0 => 1 + p.row.slot | _ => 2 ^ 17
  ((l.map fun p => (p.row.sec, p.row.clock)).eraseDups).map fun k =>
    sortBy (fun a b => decide (order a ≤ order b)) (l.filter fun p => p.row.sec == k.1 && p.row.clock == k.2)
/-- One round over every tile's programs: what passes between them, and the first program at fault. -/
def DeckIn.sumRound (d : DeckIn) (x : SumTrace) : SumTrace × Option Fail :=
  (d.scopes tProg).foldl (fun a t => (d.passesOf t).foldl (fun a l =>
    let r := l.foldl (fun (r : SumTrace × Option Nat) p =>
      let q := d.sumProg t p r.1
      (q.1, match r.2 with | some i => some i | none => q.2)) (a.1, none)
    ({ r.1 with acc := [], own := [] },
     match a.2 with | some f => some f | none => r.2.map fun i => (0x1041, d.bundleOff t i))) a) (x, none)
/-- R90: at most 2^15 terms in an output, with those that a block from another tile of this device brings. -/
def DeckIn.sumBad (d : DeckIn) : Option Fail :=
  (d.sumRound ((d.scopes tProg).foldl (fun x _ => (d.sumRound x).1) {})).2

/-- Targets of a pass's streams, as first row and rows. -/
def DeckIn.passTargets (d : DeckIn) (t : Nat) (p : PassE) : List (Nat × Nat) :=
  (List.range 4).filterMap fun q =>
    if (streamE (d.streamsOf t p) q).1 && decide (0 < p.outRows) then some (nth 0 p.acc q, p.outRows) else none
/-- Last accumulator row of a view, plus 1 (R101). -/
def accRows (lacc : Bool) : Nat := if lacc then 256 else 1024

/-- R101: a stream's target rows ACCa to ACCa + ROWS - 1 past the view, and targets of two streams that overlap. -/
def DeckIn.targetBad (d : DeckIn) (t : Nat) : Option Fail :=
  d.findBundle t 0x1042 fun _ _ w => match d.passOf t w with
    | some p =>
      let l := d.passTargets t { p with mode := 0 }
      (l.any fun x => decide (accRows p.strict < x.1 + x.2)) ||
        l.zipIdx.any fun x => (l.take x.2).any fun y => overlaps x.1.1 x.1.2 y.1 y.2
    | none => false

/-- R107: formats of slide mode, of activations and of the traced weights. -/
def DeckIn.slideBad (d : DeckIn) (t : Nat) : Option Fail :=
  firstSome [
    d.findBundle t 0x1043 fun _ _ w => (d.passOf t w).any fun p => p.mode == 2 && !slideFmt p.afmt,
    d.findPass t 0x1043 fun p f => p.mode == 2 && !slideFmt f] id
/-- R110: gradient formats. -/
def DeckIn.revBad (d : DeckIn) (t : Nat) : Option Fail :=
  d.findBundle t 0x1043 fun _ _ w => (d.passOf t w).any fun p => p.mode == 1 && (p.afmt == 9 || p.afmt == 0xc)
/-- R115: a conversion that is not listed. -/
def drainOk (e : DrainE) : Bool :=
  match e.sview with
  | 0 => decide (e.dfmt ≤ 0xa)
  | 1 => e.dfmt == 0xd || e.dfmt == 0xb || e.dfmt == 0xc || e.dfmt == 0
  | 2 => e.dfmt == 0xe || e.dfmt == 0 || e.dfmt == 1 || e.dfmt == 2 || e.dfmt == 0xd
  | _ => true
/-- R115. -/
def DeckIn.convBad (d : DeckIn) (t : Nat) : Option Fail :=
  d.findBundle t 0x1044 fun _ _ w => (d.mEntry t w 0x05 0xb).any fun e => !drainOk (drainE e)
/-- R117: formats of the side array. -/
def DeckIn.sideBad (d : DeckIn) (t : Nat) : Option Fail :=
  d.findBundle t 0x1043 fun _ _ w =>
    (slotOp (slotM w) == 0x02 && !sideFmt (bits (slotM w) 8 4)) ||
      (d.sideOf t w).any fun p => !sideFmt p.afmt || (p.mode == 1 && !sideFmt p.cfmt)

/-- R177: a COPY whose static ranges share a row. -/
def DeckIn.copyBad (d : DeckIn) (t : Nat) : Option Fail :=
  d.findBundle t 0x1049 fun _ _ w =>
    let x := slotX w
    let a := d.odt t (slotA x)
    let b := d.odt t (slotB x)
    slotOp x == 0x02 && odtKind a == 1 && odtKind b == 1 && !(rangeE a).ien && !(rangeE b).ien &&
      overlaps (rangeE a).row (rangeE a).nrows (rangeE b).row (rangeE b).nrows

/-- Bits of an element by format code. -/
def codeBits (f : Nat) : Nat := match Fmt.ofCode f with | some x => x.width | none => 0
/-- MX formats by code. -/
def codeMx (f : Nat) : Bool := match Fmt.ofCode f with | some x => x.isMx | none => false
/-- Bytes of a row of `n` elements. -/
def rowSpan (f n : Nat) : Nat := n * codeBits f / 8
/-- A row range of the operand buffer runs past byte 0xFFFF. -/
def pastBuffer (addr stride rows bytes : Nat) : Bool := decide (0 < rows) && decide (65536 < 16 * addr + 16 * stride * (rows - 1) + bytes)

/-- R228: accumulator ranges past their view. -/
def DeckIn.accRangeBad (d : DeckIn) (t : Nat) : Option Fail :=
  d.findBundle t 0x1042 fun _ _ w =>
    ((d.passOf t w).any fun p => (d.passTargets t p).any fun x => decide (accRows p.strict < x.1 + x.2)) ||
    ((d.sideOf t w).any fun p => decide (0 < p.rows) && decide (accRows p.strict < p.acc + p.rows)) ||
    ((d.mEntry t w 0x05 0xb).any fun e =>
      let x := drainE e
      x.sview != 3 && decide (0 < x.count) && decide (accRows (x.sview == 2) < x.srow + x.count)) ||
    ((d.mEntry t w 0x06 0xc).any fun e =>
      let x := collE e
      x.sfmt != 3 && decide (0 < x.count) && decide (0 < x.nsrc) && decide (accRows (x.sfmt == 2) < x.acc + x.count))

/-- R228 with R83: formats outside the matrix formats. -/
def DeckIn.operandFmtBad (d : DeckIn) (t : Nat) : Option Fail :=
  d.findBundle t 0x1043 fun _ _ w =>
    (slotOp (slotM w) == 0x01 && !passFmt (bits (slotM w) 8 4)) || (d.passOf t w).any fun p => !passFmt p.afmt

/-- R228: the other faults of a PASS. -/
def DeckIn.passBad (d : DeckIn) (t : Nat) (p : PassE) : Bool :=
  let st := d.streamsOf t p
  let sel := d.odt t p.maskx
  p.mode == 3 || p.masksrc == 3 || decide (128 < p.rows) ||
    (List.range 4).any fun q =>
      let (en, addr, stride, scale) := streamE st q
      en && decide (0 < p.rows) &&
        (pastBuffer addr stride p.rows (rowSpan p.afmt (if p.mode == 0 then 32 else 64)) ||
          (codeMx p.afmt && decide (65536 < 16 * scale + (if p.mode == 1 then 2 else 1) * p.rows))) ||
        (p.masksrc == 2 && decide (65535 < selLane sel q + p.rows - 1))
/-- R228: the other faults of an SPASS. -/
def DeckIn.spassBad (d : DeckIn) (t : Nat) (p : SideE) : Bool :=
  p.masksrc == 3 || decide (128 < p.rows) || (p.mode == 1 && p.swap) ||
    (decide (0 < p.rows) &&
      ((if p.mode == 0 then pastBuffer p.src p.stride p.rows (rowSpan p.afmt 16) else pastBuffer p.src 1 p.rows 16) ||
        (p.masksrc == 2 && decide (65535 < selLane (d.odt t p.maskx) 0 + p.rows - 1))))
/-- R228: the faults of a SHUF. -/
def shufBad (e : ShufE) : Bool :=
  let z := 2 ^ e.esz
  decide (2 ≤ e.op) || e.esz == 3 || decide (256 < e.n) ||
    (e.op == 0 && ((decide (1 < e.nc) && decide (e.dpitch < ceilDiv (e.nr * z) 16)) ||
      (decide (1 < e.nr) && decide (e.spitch < ceilDiv (e.nc * z) 16))))
/-- R228, R229: a weight tile past the operand buffer's end. -/
def loadPast (w : Nat) : Bool :=
  let f := bits w 8 4
  let n := if slotOp w == 0x02 then 16 else 32
  decide (65536 < 64 * slotA w + 8 * n * codeBits f + (if codeMx f then 64 else 0))
/-- R228: descriptors. -/
def DeckIn.descBad (d : DeckIn) (t : Nat) : Option Fail :=
  d.findBundle t 0x1056 fun _ _ w =>
    ((d.passOf t w).any (d.passBad t)) || ((d.sideOf t w).any (d.spassBad t)) ||
    ((slotOp (slotM w) == 0x01 || slotOp (slotM w) == 0x02) && loadPast (slotM w)) ||
    ((d.mEntry t w 0x05 0xb).any fun e => (drainE e).sview == 3) ||
    ((d.mEntry t w 0x06 0xc).any fun e => (collE e).sfmt == 3 || decide (16 < (collE e).nsrc)) ||
    ((d.mEntry t w 0x07 0xd).any fun e => shufBad (shufE e))

/-- Slot-M opcode of the operation that names a descriptor of a kind (R220 to R226). -/
def mOpOf (kind : Nat) : Nat :=
  match kind with | 7 => 0x03 | 0xa => 0x04 | 0xb => 0x05 | 0xc => 0x06 | 0xd => 0x07 | _ => 0
/-- A descriptor has a reserved mode (R220 to R226). -/
def modeReserved (e : Nat) : Bool :=
  match odtKind e with
  | 7 => (passE e).mode == 3 || (passE e).masksrc == 3
  | 0xa => (sideE e).masksrc == 3
  | 0xb => (drainE e).sview == 3
  | 0xc => (collE e).sfmt == 3
  | 0xd => decide (2 ≤ (shufE e).op) || (shufE e).esz == 3
  | _ => false
/-- R13: a reserved mode in a static descriptor that no operation reaches; R228 names another code for the others. -/
def DeckIn.modeBad (d : DeckIn) (t : Nat) : Option Fail :=
  let named := (d.progs t).flatMap fun p => (List.range p.rec_.count).map fun i =>
    let m := slotM (d.bundle t (p.rec_.first + i))
    (slotOp m, slotA m)
  ((d.odtWords t).zipIdx.find? fun x => modeReserved x.1 && !named.contains (mOpOf (odtKind x.1), x.2)).map fun x =>
    (0x100B, d.base tOdt t + 16 * x.2)

/-- A DGST whose point and tile no DIGEST entry declares (R380). -/
def DeckIn.dgstBad (d : DeckIn) (t : Nat) : Option Fail :=
  d.findBundle t 0x1067 fun _ _ w => slotOp (slotX w) == 0x0b && !(d.digestRows.any fun r => r.2 == (bits (slotX w) 0 12, t))

/-! ### R385: an unchecked row is read too early -/

/-- s and ρ of a pass by its operand formats (R83, R96). -/
def stepOf (a b : Nat) (strict : Bool) : Nat × Nat :=
  let cls (f : Nat) : Nat := if f == 9 || f == 0xc then 0 else if f == 1 || f == 2 then 2 else 1
  match max (cls a) (cls b), strict with
  | 0, false => (1, 2)
  | 0, true => (2, 2)
  | 1, false => (1, 1)
  | 1, true => (2, 1)
  | _, false => (2, 1)
  | _, true => (4, 1)

/-- The rows of a pass that issues at `beat`: bytes of the accumulator row and b_last, for weights of a format. -/
def passLast (p : PassE) (acc beat f : Nat) : List (Nat × Nat × Nat) :=
  let (s, rho) := stepOf p.afmt f p.strict
  let rb := accRowBytes p.strict
  let skip := if p.mode == 2 then p.width else 0
  (List.range p.outRows).map fun r => ((acc + r) * rb, rb, beat + 1 + s * ((r + skip) / rho + 95))
/-- The same for an SPASS (R118, R119). -/
def spassLast (p : SideE) (beat f : Nat) : List (Nat × Nat × Nat) :=
  let rb := accRowBytes p.strict
  (List.range p.rows).map fun r =>
    if p.mode == 1 then
      let (s, _) := stepOf p.afmt p.cfmt false
      ((p.acc + r) * rb, rb, beat + 1 + 16 * s * (r + 1))
    else
      let (s, _) := stepOf p.afmt f p.strict
      ((p.acc + r) * rb, rb, beat + 1 + s * (r + 79))

/-- Accumulator rows that a DRAIN or ACCM reads: bytes and read beat (R116, R233). -/
def DeckIn.accReads (d : DeckIn) (t beat w : Nat) : List (Nat × Nat × Nat) :=
  match d.mEntry t w 0x05 0xb, d.mEntry t w 0x06 0xc with
  | some e, _ =>
    let x := drainE e
    let rb := accRowBytes (x.sview == 2)
    let width := match rowLevel x.drow with | 0 => 512 | 1 => 256 | _ => 128
    let dr := max (if x.sview == 2 then 4 else 1) (ceilDiv (8 * codeBits x.dfmt) width)
    (List.range x.count).map fun i => ((x.srow + i) * rb, rb, beat + 1 + dr * i)
  | none, some e =>
    let x := collE e
    let rb := accRowBytes (x.sfmt == 2)
    let dr := max (ceilDiv (if x.sfmt == 2 then 16 else 4) (levelRate (rowLevel x.srow))) (if x.sfmt == 2 then 4 else 1)
    (List.range x.count).filterMap fun i =>
      if x.first && decide (x.nsrc ≤ 1) then none
      else
        let j := if x.first then x.count + i else i
        some ((x.acc + i) * rb, rb, beat + rowLatency x.srow + (j + 1) * dr + 2)
  | none, none => []

/-- The checked rows of a bundle's pass, at each weight format that a path may bring; counter offsets are not static. -/
def DeckIn.checkedRows (d : DeckIn) (t : Nat) (fs : List Nat) (beat w : Nat) : List (Nat × Nat × Nat) :=
  if bit (slotM w) 7 then []
  else match d.passOf t w, d.sideOf t w with
    | some p, _ => (p.afmt :: fs).flatMap fun f => (List.range 4).flatMap fun q =>
        if (streamE (d.streamsOf t p) q).1 then passLast p (nth 0 p.acc q) beat f else []
    | none, some p => [1, 3].flatMap fun f => if f == 1 && p.mode == 0 && p.afmt != 1 then [] else spassLast p beat f
    | none, none => []

/-- R385: a DRAIN or ACCM reads a row before beat b_last + 5. -/
def DeckIn.latencyBad (d : DeckIn) (t : Nat) : Option Fail :=
  firstSome (d.progs t) fun p =>
    let l := d.issues t p
    let fs := ((d.traced t p).flatMap fun x => d.fmtAt t (d.bundle t x.1) x.2).eraseDups
    let rows := l.flatMap fun x => (d.checkedRows t fs x.1 x.2.2).map fun r => (x.1, r)
    (l.find? fun x => (d.accReads t x.1 x.2.2).any fun a => rows.any fun r =>
      decide (r.1 ≤ x.1) && overlaps a.1 a.2.1 r.2.1 r.2.2.1 && decide (a.2.2 < r.2.2.2 + 5)).map fun x => (0x1068, d.bundleOff t x.2.1)

/-- The checks of programs, tile by tile and table by table. -/
def DeckIn.progChecks (d : DeckIn) : List DeckCheck :=
  ((d.scopes tProg).flatMap fun t =>
    let rd := progReads t
    let po := [(tProg, t), (tOdt, t)]
    let ring := rd ++ [(tInit, t), (tRing, t)]
    [{ label := 55, reads := rd, bad := d.variantBad t },
     { label := 84, reads := rd, bad := d.mixBad t },
     { label := 101, reads := po, bad := d.targetBad t },
     { label := 107, reads := rd, bad := d.slideBad t },
     { label := 110, reads := po, bad := d.revBad t },
     { label := 115, reads := po, bad := d.convBad t },
     { label := 117, reads := po, bad := d.sideBad t },
     { label := 166, reads := ring, bad := d.setupImageBad t 1 0x1047 },
     { label := 174, reads := ring, bad := d.setupImageBad t 2 0x1048 },
     { label := 177, reads := po, bad := d.copyBad t },
     { label := 181, reads := rd, bad := d.stampBad t },
     { label := 193, reads := po, bad := d.findBundle t 0x1054 fun _ _ w => d.kindBad t w },
     { label := 197, reads := rd, bad := d.cldBad t },
     { label := 198, reads := po, bad := d.skipBad t },
     { label := 199, reads := po, bad := d.repBad t },
     { label := 200, reads := rd, bad := d.dlnBad t },
     { label := 201, reads := rd, bad := d.setupBad t },
     { label := 210, reads := rd, bad := d.retBad t },
     { label := 212, reads := d.circReads t tScirc, bad := d.csendBad t },
     { label := 213, reads := d.circReads t tRcirc, bad := d.crecvBad t },
     { label := 228, reads := po, bad := d.accRangeBad t },
     { label := 228, reads := po, bad := d.operandFmtBad t },
     { label := 228, reads := po, bad := d.descBad t },
     { label := 239, reads := d.circReads t tRcirc, bad := d.accmOrderBad t },
     { label := 380, reads := [(tProg, t), (tDigest, scopeAll)], bad := d.dgstBad t },
     { label := 385, reads := rd, bad := d.latencyBad t }]) ++
  ((d.scopes tOdt).map fun t => { label := 13, reads := [(tOdt, t), (tProg, t)], bad := d.modeBad t }) ++
  [{ label := 90, reads := (tDir, scopeAll) :: (d.scopes tProg).flatMap fun t => [(tProg, t), (tOdt, t)], bad := d.sumBad }] ++
  ((List.range 16).map fun tbl =>
    { label := 55, reads := (tDir, scopeAll) :: (List.range 12).map fun i => (tProg, 12 * tbl + i), bad := d.variantCover tbl })

end Sys2Proof.Machine
end

