-- ==== Sys2Proof/Machine/DeckPip.lean ====
section
/-! DEFINITION. The validator's checks of pip images and dispatches (R123, R127, R137, R143, R145, R146, R420). -/

namespace Sys2Proof.Machine

/-! ### Images (R123, R143, R145) -/

/-- An instruction word of a pip's image; past its end it is 0 (R420). -/
def imageWord (b : List Byte) (pip a : Nat) : Nat :=
  if a < pipLen b / 4 then leAt b (16 + (if pipCount b == 1 then 0 else pip) * pipLen b + 4 * a) 4 else 0
/-- Pips with an image of their own: one stands for all when the deck gives one image. -/
def imagePips (b : List Byte) : List Nat := if pipCount b == 64 then List.range 64 else [0]

/-- Some two of a list differ. -/
def mixed (l : List Nat) : Bool := l.any fun x => x != l.headD 0

/-- A word with a reserved opcode or function code (R130, R131, R148), but for XCH's distance. -/
def pipReserved (w : Nat) : Bool := !(pipFields w).fnOk && (pipFields w).op != 0x19

/-- R123 at one address: images that differ where they may not, or a reserved code. -/
def imageAddrBad (b : List Byte) (a : Nat) : Option Nat :=
  let ws := (imagePips b).map fun p => imageWord b p a
  let op := (pipFields (ws.headD 0)).op
  let fns := ws.map fun w => bits w 0 6
  let steer := op == 0x01 || decide (0x1b ≤ op && op ≤ 0x1e)
  if mixed (ws.map fun w => bits w 26 6) || (steer && mixed ws) || (op == 0x18 && mixed fns) ||
      (op == 0x1a && (mixed (fns.take 32) || mixed (fns.drop 32))) then some 0
  else ws.findIdx? pipReserved

/-- R123. -/
def DeckIn.imageBad (d : DeckIn) (t : Nat) : Option Fail :=
  let b := d.body tPip t
  firstSome (List.range (pipLen b / 4)) fun a =>
    (imageAddrBad b a).map fun p => (0x1046, d.base tPip t + 16 + p * pipLen b + 4 * a)

/-- R143: an XCH distance outside -63 to 63. -/
def DeckIn.xchBad (d : DeckIn) (t : Nat) : Option Fail :=
  let b := d.body tPip t
  firstSome (List.range (pipLen b / 4)) fun a =>
    ((imagePips b).find? fun p =>
      let f := pipFields (imageWord b p a)
      f.op == 0x19 && !f.fnOk).map fun p => (0x1046, d.base tPip t + 16 + p * pipLen b + 4 * a)

/-- The loops of an image: address of the LOOP or LOOPR, and its end (R130). -/
def loopsOf (b : List Byte) : List (Nat × Nat) :=
  (List.range (pipLen b / 4)).filterMap fun a =>
    let w := imageWord b 0 a
    let op := bits w 26 6
    if op == 0x1d || op == 0x1e then some (a, bits w 15 11) else none
/-- An address lies in a loop's body (R146). -/
def inBody (l : Nat × Nat) (a : Nat) : Bool := decide (l.1 < a) && decide (a ≤ l.2)

/-- R145 at one address. -/
def controlBad (b : List Byte) (loops : List (Nat × Nat)) (a : Nat) : Bool :=
  let w := imageWord b 0 a
  let op := bits w 26 6
  if op == 0x1b then
    let target := bits w 0 11
    decide (target ≤ a) || loops.any fun l => inBody l a != inBody l target
  else if op == 0x1d || op == 0x1e then
    let e := bits w 15 11
    decide (e ≤ a) || decide (4 ≤ (loops.filter (inBody · a)).length) ||
      loops.any fun l => decide (l.1 < a) && decide (a < l.2) && decide (l.2 < e)
  else false
/-- R145. -/
def DeckIn.controlFault (d : DeckIn) (t : Nat) : Option Fail :=
  let b := d.body tPip t
  let loops := loopsOf b
  ((List.range (pipLen b / 4)).find? (controlBad b loops)).map fun a => (0x1046, d.base tPip t + 16 + 4 * a)

/-! ### Worst-case time of a dispatch (R127, R133, R136, R137, R146) -/

/-- How far a path has come: the first beat in which the next instruction may issue, the beats in which registers (by
pip * 64 + register) are ready, the pip path is free, and the last memory instruction is complete. -/
structure Timing where
  now : Nat
  ready : List (Nat × Nat) := []
  path : Nat := 0
  mem : Nat := 0
  deriving DecidableEq, Repr

/-- The later of two, item by item. -/
def Timing.join (a b : Timing) : Timing :=
  { now := max a.now b.now, ready := b.ready.foldl (fun m e => Map.set 0 m e.1 (max (Map.get 0 m e.1) e.2)) a.ready,
    path := max a.path b.path, mem := max a.mem b.mem }
/-- Of two paths, one of which may not exist. -/
def joinPath (a b : Option Timing) : Option Timing :=
  match a, b with
  | some x, some y => some (x.join y)
  | some x, none => some x
  | none, y => y
/-- Beats from the path's next issue; what has already come is left out. -/
def Timing.relative (a : Timing) : Timing :=
  { now := 0, ready := (a.ready.filter fun e => decide (a.now < e.2)).map fun e => (e.1, e.2 - a.now), path := a.path - a.now,
    mem := a.mem - a.now }
/-- The same, later by some beats. -/
def Timing.later (a : Timing) (n : Nat) : Timing :=
  { now := a.now + n, ready := a.ready.map fun e => (e.1, e.2 + n), path := a.path + n, mem := a.mem + n }

/-- Ready of an opcode that is no memory instruction (R130). -/
def readyOf (op : Nat) : Nat :=
  match op with
  | 0x02 | 0x03 | 0x04 | 0x05 => 4
  | 0x0d | 0x10 | 0x19 => 2
  | 0x0e | 0x18 => 8
  | 0x1a => 10
  | _ => 1
/-- Rows that the validator counts for a memory instruction (R137). -/
def rowsCounted (f : PipFields) : Nat :=
  if f.op == 0x12 || f.op == 0x15 then
    let s := (toSigned 16 f.imm).natAbs
    if s == 0 then 1 else min 64 (63 * s / 64 + 2)
  else 64
/-- What a dispatch runs: its tile's images and its active pips. -/
structure PipRun where
  image : List Byte
  pips : List Nat
  deriving DecidableEq, Repr
/-- The pip that stands for a pip. -/
def PipRun.rep (r : PipRun) (i : Nat) : Nat := if pipCount r.image == 64 then i else 0
/-- The instruction of a pip at an address. -/
def PipRun.instr (r : PipRun) (i a : Nat) : PipFields := pipFields (imageWord r.image i a)
/-- Keys of the registers that an instruction must wait for (R133). -/
def PipRun.waits (r : PipRun) (a : Nat) : List Nat :=
  r.pips.flatMap fun i =>
    let f := r.instr i a
    (f.reads ++ f.writes).map (i * 64 + ·) ++
      (if f.op == 0x19 then [r.rep ((i + f.imm) % 64) * 64 + f.a, i * 64 + f.a] else []) ++
      (if f.op == 0x12 || f.op == 0x15 then [i * 64 + f.a] else []) ++
      (if f.op == 0x1e then [i * 64 + bits f.word 10 5] else [])
/-- An instruction issues as early as R133 and R125 let it, in the worst case: its issue beat and the path after it. -/
def PipRun.issue (r : PipRun) (a : Nat) (t : Timing) : Nat × Timing :=
  let f := r.instr (r.pips.headD 0) a
  let regs := (r.waits a).filter (· % 64 != 0)
  let at_ := regs.foldl (fun n k => max n (Map.get 0 t.ready k)) t.now
  let at_ := if f.isMem then max at_ t.path else if f.op == 0x01 then max at_ (t.mem + 1) else at_
  let rows := r.pips.foldl (fun n i => max n (rowsCounted (r.instr i a))) 0
  let due := if f.isMem then at_ + 9 + ceilDiv rows 2 else at_ + readyOf f.op
  let ready := r.pips.foldl (fun m i => (r.instr i a).writes.foldl (fun m d => if d == 0 then m else Map.set 0 m (i * 64 + d) due) m) t.ready
  (at_, { now := at_ + 1, ready, path := if f.isMem then at_ + ceilDiv rows 2 else t.path, mem := if f.isMem then max t.mem due else t.mem })

/-- How a region ends: past its last address, by BRK, and the latest HALT in it, whose issue beat is its `now`. -/
structure PathOut where
  fall : Option Timing := none
  brk : Option Timing := none
  halt : Option Timing := none
  deriving DecidableEq, Repr

/-- The state in which a loop's body runs longest: its entry joined with its own ends until nothing changes. -/
def loopEntry (body : Timing → PathOut) : Nat → Timing → Timing
  | 0, t => t
  | fuel + 1, t =>
    match joinPath (body t).fall (body t).brk with
    | none => t
    | some e =>
      let t' := t.join e.relative
      if t' = t then t else loopEntry body fuel t'

/-- Every path through the addresses `pc` to `stop` (R127, R146): branches go forward, a loop counts as its count times
its body's worst case, a BRK ends its loop no later, a LOOPR may run its body no time at all. -/
def PipRun.region (r : PipRun) : Nat → Nat → Nat → List (Nat × Timing) → Option Timing → PathOut
  | 0, _, _, _, s => { fall := s }
  | fuel + 1, stop, pc, jumps, s =>
    if stop < pc then { fall := jumps.foldl (fun a j => joinPath a (some j.2)) s }
    else
      match (jumps.filter (·.1 == pc)).foldl (fun a j => joinPath a (some j.2)) s with
      | none => r.region fuel stop (pc + 1) jumps none
      | some t =>
        let jumps := jumps.filter (·.1 != pc)
        let w := imageWord r.image (r.pips.headD 0) pc
        let op := bits w 26 6
        let (at_, t') := r.issue pc t
        if op == 0x01 then
          let o := r.region fuel stop (pc + 1) jumps none
          { o with halt := joinPath (some { t' with now := at_ }) o.halt }
        else if op == 0x1b then
          r.region fuel stop (pc + 1) (jumps ++ [(bits w 0 11, t')]) (if bits w 11 2 == 0 then none else some t')
        else if op == 0x1c then
          let o := r.region fuel stop (pc + 1) jumps (if bits w 11 2 == 0 then none else some t')
          { o with brk := joinPath (some t') o.brk }
        else if op == 0x1d || op == 0x1e then
          let e := max (pc + 1) (bits w 15 11)
          let n := if op == 0x1d then bits w 0 15 else bits w 0 10
          if n == 0 then r.region fuel stop (pc + 1) (jumps ++ [(e + 1, t')]) none
          else
            let past := if op == 0x1e then jumps ++ [(e + 1, t')] else jumps
            let body (x : Timing) : PathOut := r.region fuel e (pc + 1) [] (some x)
            let o := body (loopEntry body 256 t'.relative)
            match joinPath o.fall o.brk with
            | none =>
              let rest := r.region fuel stop (e + 1) past none
              { rest with halt := joinPath (o.halt.map (·.later t'.now)) rest.halt }
            | some x =>
              let after := (x.relative.later (t'.now + n * x.now)).join t'
              let rest := r.region fuel stop (e + 1) past (some after)
              { rest with halt := joinPath (o.halt.map (·.later (t'.now + (n - 1) * x.now))) rest.halt }
        else r.region fuel stop (pc + 1) jumps (some t')

/-- A dispatch that issues at beat `t`, with registers whose results an earlier dispatch left on their way (R133: HALT waits
for memory alone): its latest HALT, and whether a path passes address 2,047. -/
def PipRun.worst (r : PipRun) (entry t : Nat) (ready : List (Nat × Nat)) : Option Timing × Bool :=
  let o := r.region 2050 2047 entry [] (some { now := t + 2, ready })
  (o.halt, o.fall.isSome)
/-- Registers whose results a dispatch of the tick before may have left on their way (R127's worst case): HALT issued in that
tick's last beat, and the instruction one beat before it. -/
def PipRun.leftover (r : PipRun) : List (Nat × Nat) :=
  (List.range (pipLen r.image / 4)).foldl (fun m a => (imagePips r.image).foldl (fun m i =>
    let f := r.instr i a
    let n := if f.isMem then 0 else readyOf f.op - 2
    f.writes.foldl (fun m d => if d == 0 || n == 0 then m else raiseTo m (i * 64 + d) n) m) m) []

/-- Entry and mask of a bundle's dispatch, when it starts one. -/
def DeckIn.dispatchOf (d : DeckIn) (t w : Nat) : Option (Nat × Nat) :=
  let v := slotV w
  let e := d.odt t (slotA v)
  if slotOp v == 1 && odtKind e == 0xe then (if (dispE e).mask == 0 then none else some ((dispE e).entry, (dispE e).mask))
  else if slotOp v == 2 then some (bits v 11 11, 2 ^ 64 - 1)
  else none

/-- A bundle dispatches, with or without active pips (R237). -/
def DeckIn.dispatches (d : DeckIn) (t w : Nat) : Bool :=
  slotOp (slotV w) == 2 || (slotOp (slotV w) == 1 && odtKind (d.odt t (slotA (slotV w))) == 0xe)
/-- R127: the dispatches of a program in the order of their beats, each with what the one before left on its way. -/
def DeckIn.dispatchBad (d : DeckIn) (t : Nat) : Option Fail :=
  let b := d.body tPip t
  firstSome (d.progs t) fun p =>
    let all := d.issues t p
    let l := all.filterMap fun x => (d.dispatchOf t x.2.2).map fun e => (x.1, x.2.1, e)
    (l.foldl (fun (a : Option Fail × List (Nat × Nat)) x =>
      match a.1 with
      | some f => (some f, a.2)
      | none =>
        let active := (List.range 64).filter (bit x.2.2.2)
        let r : PipRun := { image := b, pips := if pipCount b == 64 then active else [0] }
        let (h, past) := r.worst x.2.2.1 x.1 a.2
        let last := match h with | some y => y.now | none => x.1
        if decide (d.lastOf p.row.clock < last) || all.any (fun y => d.dispatches t y.2.2 && decide (x.1 < y.1) && decide (y.1 ≤ last)) then
          (some (0x1045, d.bundleOff t x.2.1), a.2)
        else if past then (some (0x1046, d.bundleOff t x.2.1), a.2)
        else (none, match h with | some y => y.ready | none => a.2))
      (none, ({ image := b, pips := [0] } : PipRun).leftover)).1

/-- The checks of pip images and dispatches. -/
def DeckIn.pipChecks (d : DeckIn) : List DeckCheck :=
  ((d.scopes tPip).flatMap fun t =>
    [{ label := 123, reads := [(tPip, t)], bad := d.imageBad t },
     { label := 143, reads := [(tPip, t)], bad := d.xchBad t },
     { label := 145, reads := [(tPip, t)], bad := d.controlFault t }]) ++
  ((d.scopes tProg).map fun t =>
    { label := 127, reads := progReads t ++ [(tPip, t)], bad := d.dispatchBad t })

end Sys2Proof.Machine
end

