-- ==== Sys2Proof/Machine/HostMem.lean ====
section
/-! DEFINITION. The host window (R9, R23, R24, R163, R169, R172 to R174, R250 to R254, R301): BAR2 accesses, HDMA rows,
and writes of a tile's ring counters. -/

namespace Sys2Proof.Machine

/-- The row pieces of `n` bytes from a byte offset: row, first byte, length, offset in the data (R156). -/
def spanRows (off n : Nat) : List PWrite :=
  if n = 0 then []
  else
    (List.range ((off + n - 1) / 64 + 1 - off / 64)).map fun i =>
      let row := off / 64 + i
      let lo := max off (64 * row) - 64 * row
      let hi := min (off + n) (64 * row + 64) - 64 * row
      { row, lo, len := hi - lo, srcOff := 64 * row + lo - off }

/-- The position that serves a BAR2 access to a position (R23). -/
def State.serves (s : State) (p : Nat) : Option Nat :=
  match s.posKind p with
  | .seat _ | .joker _ => some p
  | .replaced => some (p / 13 * 13 + 12)
  | _ => none

/-- Window, position and offset of a BAR2 address of a function (R301); none for a position that does not exist. -/
def bar2Decode (fn : Fn) (addr : Nat) : Option (Nat × Nat × Nat) :=
  match fn with
  | .pf => if bits addr 23 8 < 208 then some (bits addr 31 6, bits addr 23 8, bits addr 0 23) else none
  | .vf n => if bits addr 23 4 ≤ 12 then some (bits addr 27 6, 13 * n + bits addr 23 4, bits addr 0 23) else none

/-- Report what rows of one privileged request met (R173, R301): 0x3001 only while a deck runs, then 0x3002. -/
def State.reportRows (s : State) (p : Nat) (unmapped denied : Bool) : State :=
  let s := if unmapped && s.deckRuns then s.raiseExt p 0x3001 else s
  if denied then s.raiseExt p 0x3002 else s

/-- VDD_SRAM is off: a stop has turned it off (R409), or a rail failed at power-up (R412). Contents are lost. -/
def State.sramOff (s : State) : Bool := (s.mgc.tstop || s.mgc.dead) && !s.mgc.rails.contains 1

/-! ### Ring counters written by the host or the MGC (R169) -/

/-- A function reaches a position's control window, in the state that R23 gives it. -/
def State.reachesWindow (s : State) (fn : Fn) (p : Nat) : Bool :=
  match s.posKind p with
  | .seat _ | .joker _ => (match fn with | .pf => true | .vf n => n == p / 13)
  | .idleJoker => fn == .pf
  | _ => false

/-- The user code of PROD and CONS (R165): 2 host, 3 MGC. -/
def userCode (mgc : Bool) : Nat := if mgc then 3 else 2

/-- A TAIL write (R169). On a ring that is not enabled it has no effect, whichever user PROD names, and raises nothing (DESIGN
CHOICE, log entry 51: R165 has 0x3003 for pushes and pops alone). -/
def State.writeTail (s : State) (user p r : Nat) (v : Word) : State :=
  let g := (s.tile p).ring r
  if !g.enabled || g.prod ≠ user then s
  else
    let new := (v - g.head).toNat
    if g.count ≤ new && new ≤ g.size then s.modTile p (·.setRing r { g with tail := v, reserve := v })
    else s.raiseExt p 0x3004

/-- A HEAD write (R169). On a ring that is not enabled it has no effect, as a TAIL write (log entry 51). -/
def State.writeHead (s : State) (user p r : Nat) (v : Word) : State :=
  let g := (s.tile p).ring r
  if !g.enabled || g.cons ≠ user then s
  else if (v - g.head).toNat ≤ g.count then s.modTile p (·.setRing r { g with head := v })
  else s.raiseExt p 0x3004

/-! ### HDMA rows (R304) and the wait limit (R163) -/

/-- One row of an HDMA command is settled without a grant. -/
def State.hdmaSettle (s : State) (fn ring off n : Nat) : State :=
  let f := fnOf fn
  let r := s.cr f ring
  s.setCr f ring { r with run := r.run.map fun c =>
    { c with left := c.left - 1, buf := writeCells c.buf off (rep n 0#8) } }

end Sys2Proof.Machine
end

