-- ==== Sys2Proof/Machine/HostIf.lean ====
section
/-! DEFINITION. The host interface's rings (R302, R303), the publication of records (R305 to R308), command
completions, and the accesses that a lead forwards to its followers (R311 to R313). -/

namespace Sys2Proof.Machine

/-! ### Functions and rings (R302) -/

/-- A function exists (R302): the physical one, or virtual functions 0 to 15. -/
def fnOk : Fn → Bool
  | .pf => true
  | .vf n => decide (n < 16)
/-- Command rings of a function (R302). -/
def cmdRings : Nat := 4
/-- Record rings of a function (R302): 18, or one in a virtual function. -/
def recRings : Fn → Nat
  | .pf => 18
  | .vf _ => 1
/-- Fabric beats of a microsecond (Grades). -/
def State.usBeats (s : State) : Nat := match s.grade with | .a14 => 1400 | .a12 => 1260

/-- A write of a command ring's TAIL (R303). -/
def State.writeCrTail (s : State) (f : Fn) (i : Nat) (v : Word) : State :=
  let r := s.cr f i
  let new := (v - r.head).toNat
  if (r.tail - r.head).toNat ≤ new && new ≤ 2 ^ r.sizeLog then s.setCr f i { r with tail := v } else s.raiseMgc 0x2001

/-- A write of a record ring's HEAD (R303). -/
def State.writeRrHead (s : State) (f : Fn) (j : Nat) (v : Word) : State :=
  let r := s.rr f j
  if (v - r.head).toNat ≤ (r.prod - r.head).toNat then s.setRr f j { r with head := v } else s.raiseMgc 0x2001

/-- A write of a command ring's CFG (R302): the size only while the ring is off, and the counters restart with it. -/
def CmdRing.writeCfg (r : CmdRing) (v : Nat) : CmdRing :=
  let size := bits v 0 5
  let on := bit v 31
  if r.enable then { r with enable := on }
  else
    let r := { r with sizeLog := if 6 ≤ size && size ≤ 16 then size else r.sizeLog, enable := on }
    if on then { r with tail := 0, head := 0 } else r

/-- A write of a record ring's CFG (R302). -/
def RecRing.writeCfg (r : RecRing) (f : Fn) (v : Nat) : RecRing :=
  let size := bits v 0 5
  let vec := bits v 5 11
  let on := bit v 31
  let r0 := { r with holdoff := bits v 16 8, inten := bit v 30, enable := on }
  if r.enable then r0
  else
    let r1 := { r0 with
      sizeLog := if 6 ≤ size && size ≤ 20 then size else r.sizeLog,
      vector := if f = .pf || vec < 112 then vec else r.vector }
    if on then { r1 with head := 0, prod := 0 } else r1

/-- HOST_RING_ENABLE (R302): a CFG write. -/
def execHostRingEnable (fn : Fn) (record : Bool) (ring : Nat) (cfg : Word) (s : State) : Res :=
  if !fnOk fn then .fault .noSuchUnit
  else if record then
    within ring (recRings fn) (.next (s.setRr fn ring ((s.rr fn ring).writeCfg fn cfg.toNat)))
  else within ring cmdRings (.next (s.setCr fn ring ((s.cr fn ring).writeCfg cfg.toNat)))

/-! ### Completions (R304 to R306) -/

/-- Source byte of a function's command completions (R306). -/
def fnSrc : Fn → Nat
  | .pf => srcMgc
  | .vf n => srcTable n

/-- Raise a command completion (R304): FLAGS bit 0 suppresses that of a successful command. -/
def State.complete (s : State) (f : Fn) (status tag : Nat) (quiet : Bool) : State :=
  if quiet && status == 0 then s else s.raise (fnSrc f) 0 status tag 0

/-- Complete a command that never started, or that its follower cannot complete: its record carries its window (R306), and
takes the next SSEQ of that window's source (R418). -/
def State.completeAt (s : State) (f : Fn) (win status tag : Nat) (quiet : Bool) : State :=
  if win = 0 then s.complete f status tag quiet
  else if quiet && status == 0 then s
  else
    let key := qKey win (fnSrc f)
    let q := s.queue key
    let q1 := q.raise (s.owed key) { status, kind := 0, src := fnSrc f, win, sseq := q.sseq, stamp := s.roundCounter, tag, detail := 0 }
    s.setQueue key { q1 with own := q.own + 1 }

/-- Request-table entries whose terminal record has left the waiting line of a queue are freed (R317). -/
def State.freeEntries (s : State) (key : Nat) : State :=
  let waits (e : Nat × Nat) : Bool :=
    qKey 0 (srcTable e.1) != key || (s.queue key).waiting.any fun r => r.kind == 1 && r.tag == e.2
  { s with svc := { s.svc with ended := s.svc.ended.filter waits } }
/-- Records that wait enter a queue as soon as room appears (R306). -/
def State.settleQueue (s : State) (key : Nat) : State :=
  let q := s.queue key
  if q.waiting.isEmpty then s else (s.setQueue key (SrcQ.settle (s.owed key) q.waiting.length q)).freeEntries key

/-- A FENCE of a function may complete: no earlier-fetched command of its window is in progress (R304). -/
def State.fenceReady (s : State) (f : Fn) (c : CmdRun) : Bool :=
  c.op == 1 && c.win == 0 && runRings.all fun i => match (s.cr f i).run with
    | some x => x.win != c.win || decide (c.order ≤ x.order)
    | none => true

/-- A ring's place is free; the place kept for its completion is room again (R306). -/
def State.clearRun (s : State) (f : Fn) (i : Nat) : State :=
  match (s.cr f i).run with
  | some c => (s.setCr f i { s.cr f i with run := none }).settleQueue (qKey c.win (fnSrc f))
  | none => s
/-- Take a ring's command away, and complete it. -/
def State.dropRun (s : State) (f : Fn) (i status : Nat) : State :=
  match (s.cr f i).run with
  | some c => (s.complete f status c.tag (bit c.flags 0)).clearRun f i
  | none => s

/-- Complete the fences of a function that may complete. -/
def State.settleFences (s : State) (f : Fn) : State :=
  runRings.foldl (fun s _ => runRings.foldl (fun s i =>
    match (s.cr f i).run with
    | some c => if s.fenceReady f c then s.dropRun f i 0 else s
    | none => s) s) s

/-- Free a ring's place for its next command (R304); fences that waited for it complete. -/
def State.freeRing (s : State) (f : Fn) (i : Nat) : State := (s.clearRun f i).settleFences f

/-- Complete the command in progress on a ring. -/
def State.endRun (s : State) (f : Fn) (i status : Nat) : State :=
  match (s.cr f i).run with
  | some c => (s.complete f status c.tag (bit c.flags 0)).freeRing f i
  | none => s

/-- A forwarded command whose window is gone ends (R311, R314): its follower can no longer complete it. The status is not
stated beyond its class (R17): a free value (log entry 19). -/
def State.endForwarded (s : State) (f : Fn) : State :=
  (List.range cmdRings).foldl (fun s i =>
    match (s.cr f i).run with
    | some c =>
      if c.win = 0 then s
      else
        let (s1, w) := s.drawFree
        (s1.completeAt f c.win (0x2001 + w.toNat % 0xFFF) c.tag (bit c.flags 0)).freeRing f i
    | none => s) s

/-- The queue that takes a completion has room for it and for those already owed (R306). -/
def State.completionRoom (s : State) (f : Fn) (win : Nat) : Bool :=
  let q := s.queue (qKey win (fnSrc f))
  decide (q.recs.length + (s.runs f win).length < queueMax)

/-! ### Publication (R305, R307, R308) -/

/-- The 32 bytes of a record (R305). -/
def Rec.bytes (r : Rec) (phase : Bool) : List Byte :=
  leBytes 2 r.status ++ leBytes 1 r.kind ++ leBytes 1 r.src ++ leBytes 1 (r.win % 64) ++ leBytes 1 (b2n phase) ++
  leBytes 2 r.sseq ++ leBytes 8 r.stamp ++ leBytes 8 r.tag ++ leBytes 8 r.detail

/-- A record from its 32 bytes, with the window that a lead gives it (R312). -/
def recOf (l : List Byte) (win : Nat) : Rec :=
  { status := leAt l 0 2, kind := leAt l 2 1, src := leAt l 3 1, win, sseq := leAt l 6 2, stamp := leAt l 8 8,
    tag := leAt l 16 8, detail := leAt l 24 8 }

/-- The record ring that takes a source's records (R306): function and ring. -/
def State.ringOf (s : State) (src : Nat) : Fn × Nat :=
  if src < 16 then (if s.hif.sriov then (.vf src, 0) else (.pf, src)) else (.pf, 16)

/-- Queues of a ring, in ascending window and source. -/
def State.ringQueues (s : State) (f : Fn) (j : Nat) : List Nat :=
  (s.hif.queues.map (·.1)).filter fun k => s.ringOf (k % 256) == (f, j)

/-- Entries that a record ring still takes (R307). -/
def RecRing.room (r : RecRing) : Nat := 2 ^ r.sizeLog - (r.prod - r.head).toNat
/-- PHASE of the next record (R305). -/
def RecRing.phase (r : RecRing) : Bool := !bit r.prod.toNat r.sizeLog

/-- Write one 32-byte entry of a record ring. -/
def State.putEntry (s : State) (f : Fn) (j : Nat) (data : Bool → List Byte) : State :=
  let r := s.rr f j
  (s.setRr f j { r with prod := r.prod + 1 }).emit
    (.hostWrite (r.base.toNat + 32 * (r.prod.toNat % 2 ^ r.sizeLog)) (data r.phase))

/-- Take up to `n` records of a queue, oldest first; waiting records move into the room (R306). -/
def State.takeRecs (s : State) (key n : Nat) : State × List Rec :=
  let q := s.queue key
  let l := q.recs.take n
  ((s.setQueue key { q with recs := q.recs.drop n }).settleQueue key, l)

/-- Take a batch from the queues of a ring. -/
def State.takeBatch (s : State) (keys : List Nat) (room : Nat) : State × List Rec :=
  keys.foldl (fun a k =>
    let (s', l) := a.1.takeRecs k (room - a.2.length)
    (s', a.2 ++ l)) (s, [])

/-- The 33 entries of a telemetry packet (R308). -/
def State.putTele (s : State) (t : Nat × Nat × Nat × Nat × List Byte) : State :=
  let head : Rec := { status := 0, kind := 5, src := srcMgc, win := 0, sseq := t.2.1, stamp := t.1, tag := t.2.2.1,
                      detail := t.2.2.2.1 % 1024 }
  (List.range 32).foldl (fun s e => s.putEntry .pf 17 fun _ => padTo 32 ((t.2.2.2.2.drop (32 * e)).take 32))
    (s.putEntry .pf 17 (head.bytes ·))

/-- Telemetry packets that a ring takes whole. -/
def State.putTeles (s : State) : Nat → State
  | 0 => s
  | n + 1 =>
    match s.lnk.tele with
    | [] => s
    | t :: ts =>
      if 33 ≤ (s.rr .pf 17).room then
        State.putTeles ({ s with lnk := { s.lnk with tele := ts } }.putTele t) n
      else s

/-- The first device vector of a function's MSI-X table (R310). -/
def vectorBase : Fn → Nat
  | .pf => 0
  | .vf n => 256 + 112 * n
/-- Vectors of a function's MSI-X table (R310): the physical function has all 2,048 while SR-IOV is disabled. -/
def State.vectors (s : State) (f : Fn) : Nat :=
  match f, s.hif.sriov with
  | .pf, false => 2048
  | .pf, true => 256
  | .vf _, false => 0
  | .vf _, true => 112

/-- Send an MSI-X message of a function's vector, or keep it pending while the vector is masked (R310). A vector that is not
in the function's table sends none. -/
def State.sendMsix (s : State) (f : Fn) (vector : Nat) : State :=
  if s.vectors f ≤ vector then s
  else
    let v := vectorBase f + vector
    if bit (Map.get 0#32 s.hif.msix (4 * v + 3)).toNat 0 then
      { s with hif := { s.hif with pba := if s.hif.pba.contains v then s.hif.pba else s.hif.pba ++ [v] } }
    else s.emit (.msix f vector)
/-- The vectors of a function's table are as after reset (R314). -/
def State.clearVectors (s : State) (f : Fn) : State :=
  let mine (v : Nat) : Bool := decide (vectorBase f ≤ v) && decide (v < vectorBase f + s.vectors f)
  { s with hif := { s.hif with msix := s.hif.msix.filter fun e => !mine (e.1 / 4), pba := s.hif.pba.filter fun v => !mine v } }

/-- Send a ring's message now; HOLDOFF restarts (R307). -/
def State.sendMsg (s : State) (f : Fn) (j : Nat) : State :=
  let r := s.rr f j
  (s.setRr f j { r with lastMsg := some s.age, heldMsg := false }).sendMsix f r.vector

/-- HOLDOFF has elapsed since the ring's last message (R307). -/
def State.holdoffOver (s : State) (r : RecRing) : Bool :=
  match r.lastMsg with
  | none => true
  | some t => decide (t + r.holdoff * s.usBeats ≤ s.age)

/-- Announce a publication (R307): at once, or held until HOLDOFF ends; a KIND 3 record is announced at once. -/
def State.announce (s : State) (f : Fn) (j : Nat) (notice : Bool) : State :=
  let r := s.rr f j
  if !r.inten then s
  else if notice || s.holdoffOver r then s.sendMsg f j
  else s.setRr f j { r with heldMsg := true }

/-- After a batch: PROD goes to the PIDX address, then the message (R253, R307). -/
def State.publishEnd (s : State) (f : Fn) (j : Nat) (notice : Bool) : State :=
  let r := s.rr f j
  (s.emit (.hostWrite r.pidx.toNat (leBytes 4 r.prod.toNat))).announce f j notice

/-! ### Packets between lead and follower (R312) -/

/-- The 8-byte host header (R312). -/
def hostHeader (sub func reqid nbytes : Nat) : List Byte :=
  leBytes 8 (sub % 256 + func % 32 * 2 ^ 8 + reqid % 2 ^ 16 * 2 ^ 16 + nbytes % 2 ^ 13 * 2 ^ 32)

/-- Send a register or host packet (R312). -/
def State.sendHost (s : State) (vc ptype dst addr sub func reqid nbytes status : Nat) (data : List Byte) : State :=
  s.sendPacket vc inHif { dst, hops := 15, src := 0, ptype, addr, deadline := noDeadline, tag := 0, status,
                          payload := hostHeader sub func reqid nbytes ++ data }

/-- SUB, FUNC, REQID and NBYTES of a packet (R312). -/
def Packet.sub (k : Packet) : Nat := leAt k.payload 0 1
def Packet.func (k : Packet) : Nat := bits (leAt k.payload 0 8) 8 5
def Packet.reqid (k : Packet) : Nat := leAt k.payload 2 2
def Packet.nbytes (k : Packet) : Nat := bits (leAt k.payload 0 8) 32 13
/-- What follows the host header. -/
def Packet.data (k : Packet) : List Byte := k.payload.drop 8

/-- The window of a follower by its device (R311). -/
def State.winOf (s : State) (dev : Nat) : Option Nat :=
  (List.range 64).find? fun w => w != 0 && Map.get false s.hif.folValid w && Map.get 0 s.hif.folDev w == dev
/-- The device of a valid window (R311). -/
def State.follower (s : State) (win : Nat) : Option Nat :=
  if win ≠ 0 && Map.get false s.hif.folValid win then some (Map.get 0 s.hif.folDev win) else none

/-- A packet comes from the lead of this follower (R311). -/
def State.fromLead (s : State) (k : Packet) : Bool := s.hif.leadValid && k.src == s.hif.leadDev && decide (k.func ≤ 16)
/-- A packet comes from a follower of this lead. -/
def State.fromFollower (s : State) (k : Packet) : Bool := (s.winOf k.src).isSome && decide (k.func ≤ 16)

/-- Take the next packet of a type and SUB (R312). A packet of the type with a reserved SUB, or from a device that may
not send it, is discarded with 0x2005. -/
def State.takeHost (s : State) (n vc ptype sub : Nat) (known : Nat → Bool) (from_ : Packet → Bool) : State × Option Packet :=
  match s.takePacket n vc (fun k => ofType ptype k && (k.sub == sub || !known k.sub)) with
  | none => (s, none)
  | some (s1, k) => if k.sub == sub && from_ k then (s1, some k) else (s1.raiseMgc 0x2005, none)

/-- SUB values of register packets and of HOST packets (R312). -/
def subReg (x : Nat) : Bool := x == 0
def subHost (x : Nat) : Bool := decide (1 ≤ x && x ≤ 8)

/-- A BAR2 address of a function from a follower window's offset (R301, R312). -/
def windowOffset (f : Fn) (addr : Nat) : Nat := match f with | .pf => bits addr 0 31 | .vf _ => bits addr 0 27

/-! ### Accesses that a lead forwards (R313) -/

/-- Record a follower read that waits for its reply (R313). -/
def State.awaitReply (s : State) (win : Nat) (f : Fn) (off len : Nat) (reg : Bool) : State :=
  { s with hif := { s.hif with
      folReqs := s.hif.folReqs ++ [{ id := s.hif.nextReq, win, fn := f, off, len, reg, since := s.age }],
      nextReq := (s.hif.nextReq + 1) % 2 ^ 16 } }

/-- Base of the follower aperture in BAR0 (R300). -/
def apertureBase : Nat := 0x2000000

/-- Forward an access to a window (R312, R313); a window with no valid follower reads zeros and ignores writes (R301). -/
def State.forwardTo (s : State) (f : Fn) (win : Nat) (a : FolAccess) : State :=
  match a with
  | .regRead off =>
    match s.follower win with
    | some d => (s.sendHost 0 pRegrd d off 0 0 s.hif.nextReq 0 0 []).awaitReply win f (apertureBase + off) 4 true
    | none => s.emit (.readData f (apertureBase + off) (rep 4 0#8))
  | .regWrite off v =>
    match s.follower win with
    | some d => s.sendHost 0 pRegwr d off 0 0 0 0 0 (leBytes 4 v.toNat)
    | none => s
  | .bar2Read off len =>
    match s.follower win with
    | some d => (s.sendHost 0 pHost d (windowOffset f off) 2 (fnKey f) s.hif.nextReq len 0 []).awaitReply win f off len false
    | none => s.emit (.readData f off (rep len 0#8))
  | .bar2Write off data =>
    match s.follower win with
    | some d => s.sendHost 0 pHost d (windowOffset f off) 1 (fnKey f) 0 0 0 data
    | none => s
  | .command bytes =>
    match s.follower win with
    | some d => s.sendHost 0 pHost d 0 4 (fnKey f) 0 0 0 bytes
    | none => s

/-- FOLLOWER_TIMEOUT (R313): a follower read without a reply within 32 µs completes with zeros. -/
def execFollowerTimeout (req : Nat) (s : State) : Res :=
  .next (
    match takeFirst (fun r => r.id == req && decide (r.since + 32 * s.usBeats ≤ s.age)) s.hif.folReqs with
    | none => s
    | some (r, rest) =>
      ({ s with hif := { s.hif with folReqs := rest, folTimeout := true } }.emit
        (.readData r.fn r.off (rep r.len 0#8))).raiseMgc 0x2006)

/-- A reply to a follower read of a kind completes the host's read (R313); a late one is discarded. -/
def State.replyArrived (s : State) (k : Packet) (reg : Bool) : State :=
  match takeFirst (fun r => r.id == k.reqid && r.reg == reg && s.follower r.win == some k.src) s.hif.folReqs with
  | none => s
  | some (r, rest) =>
    { s with hif := { s.hif with folReqs := rest } }.emit (.readData r.fn r.off (padTo r.len k.data))

/-- REGRSP_RECEIVE (R312). -/
def execRegrspReceive (port : Nat) (s : State) : Res :=
  within port 64 (.next (
    match s.takeHost port 1 pRegrsp 0 subReg s.fromFollower with
    | (s1, some k) => s1.replyArrived k true
    | (s1, none) => s1))

/-- HOST_READ_DATA (R312). -/
def execHostReadData (port : Nat) (s : State) : Res :=
  within port 64 (.next (
    match s.takeHost port 1 pHost 3 subHost s.fromFollower with
    | (s1, some k) => s1.replyArrived k false
    | (s1, none) => s1))

/-- HOST_READ_REQUEST (R312): the lead reads host memory for a follower and replies with SUB 0x07; a failed read
carries 0x2004 in STATUS. -/
def execHostReadRequest (port : Nat) (d : HostBytes) (s : State) : Res :=
  within port 64 (.next (
    match s.takeHost port 0 pHost 6 subHost s.fromFollower with
    | (s1, some k) =>
      let ok := d.ok && decide (k.nbytes ≤ d.data.length)
      s1.sendHost 1 pHost k.src k.addr 7 k.func k.reqid k.nbytes (if ok then 0 else 0x2004) (d.data.take k.nbytes)
    | (s1, none) => s1))

/-- HOST_WRITE (R312): the lead writes host memory for a follower. -/
def execHostWrite (port : Nat) (s : State) : Res :=
  within port 64 (.next (
    match s.takeHost port 0 pHost 8 subHost s.fromFollower with
    | (s1, some k) => s1.emit (.hostWrite k.addr k.data)
    | (s1, none) => s1))

/-! ### Records cross from follower to lead (R312), and reach their rings (R307) -/

/-- The ring of a lead whose forwarded command a KIND 0 record ends: function and ring. -/
def State.forwarded (s : State) (r : Rec) : Option (Fn × Nat) :=
  let f : Fn := if r.src < 16 then .vf r.src else .pf
  ((List.range cmdRings).find? fun i => match (s.cr f i).run with
    | some c => c.win == r.win && c.win != 0 && c.tag == r.tag
    | none => false).map fun i => (f, i)

/-- HOST_RECORD (R312, R418): the record joins its source's queue with WIN := w, when the queue has room; a completion frees
the ring whose command it ends, and is not kept when the command succeeded and suppresses its record (R304). SSEQ runs on
over the records that the lead itself raised for that source, and over a completion not kept (log entry 48). -/
def execHostRecord (port : Nat) (s : State) : Res :=
  within port 64 (.next (
    match s.takeHost port 1 pHost 5 subHost s.fromFollower with
    | (s1, some k) =>
      let r0 := recOf k.data ((s.winOf k.src).getD 0)
      let key := qKey r0.win r0.src
      let q := s1.queue key
      let r := { r0 with sseq := (r0.sseq + q.own) % 65536 }
      let store (s : State) : State := s.setQueue key { q with recs := q.recs ++ [r], sseq := nextSeq16 r.sseq }
      match r.kind, s1.forwarded r with
      | 0, some (f, i) =>
        if r.status == 0 && ((s1.cr f i).run.any fun c => bit c.flags 0) then
          (s1.setQueue key { q with own := (q.own + 65535) % 65536 }).freeRing f i
        else if queueMax ≤ q.recs.length then s
        else (store s1).freeRing f i
      | _, _ => if queueMax ≤ q.recs.length + s1.owed key then s else store s1
    | (s1, none) => s1))

/-- Ask the lead for `n` bytes of host memory for a read of a function's command, in packets of at most 4,096 bytes. -/
def State.askLead (s : State) (f : Fn) (key addr n : Nat) : State :=
  (List.range (ceilDiv n 4096)).foldl (fun s i =>
    let id := s.hif.nextReq
    ({ s with hif := { s.hif with hostReads := s.hif.hostReads ++ [(id, fnKey f, key, 4096 * i)],
                                  nextReq := (id + 1) % 2 ^ 16 } }).sendHost
      0 pHost s.hif.leadDev (addr + 4096 * i) 6 (fnKey f) id (min 4096 (n - 4096 * i)) 0 []) s
/-- A read of host memory by the command that a follower runs for a function (R312). -/
def State.getHost (s : State) (f : Fn) (key addr n : Nat) : State :=
  let r := s.cr f 4
  (s.setCr f 4 { r with run := r.run.map fun c => { c with gets := c.gets ++ [{ key, addr, len := n, left := n }] } }).askLead
    f key addr n
/-- A read of the command that a follower runs for a function, by its key. -/
def State.get? (s : State) (f : Fn) (key : Nat) : Option HostGet :=
  match (s.cr f 4).run with
  | some c => c.gets.find? (·.key == key)
  | none => none
/-- A part of a read has come, or failed. -/
def HostGet.put (g : HostGet) (off : Nat) (ok : Bool) (data : List Byte) : HostGet :=
  { g with left := g.left - min 4096 (g.len - off), stop := if ok then g.stop else some (min off (g.stop.getD g.len)),
           buf := if ok then writeCells g.buf off data else g.buf }
/-- The bytes that a read has brought, up to the first that failed. -/
def HostGet.bytes (g : HostGet) : List Byte := readCells g.buf 0 (g.stop.getD g.len)

/-- Send a ring's records to the lead, one per packet (R312). -/
def State.publishToLead (s : State) (f : Fn) (j : Nat) : State :=
  if (s.routeUp s.hif.leadDev).isNone then s
  else
    let (s1, l) := s.takeBatch (s.ringQueues f j) (queueMax * 64)
    l.foldl (fun s r => s.sendHost 1 pHost s.hif.leadDev 0 5 (fnKey f) 0 0 0 (r.bytes false)) s1

/-- RECORD_PUBLISH (R307): every record that the ring can take now, then PROD, then the message. A follower's records go
to its lead (R312). -/
def execRecordPublish (fn : Fn) (ring : Nat) (s : State) : Res :=
  if !fnOk fn then .fault .noSuchUnit
  else within ring (recRings fn) (.next (
    if s.hif.leadValid then s.publishToLead fn ring
    else if !(s.rr fn ring).enable then s
    else if fn = .pf && ring = 17 then
      let s1 := s.putTeles s.lnk.tele.length
      if (s1.rr fn ring).prod = (s.rr fn ring).prod then s else s1.publishEnd fn ring false
    else
      let (s1, l) := s.takeBatch (s.ringQueues fn ring) (s.rr fn ring).room
      if l.isEmpty then s
      else (l.foldl (fun s r => s.putEntry fn ring (r.bytes ·)) s1).publishEnd fn ring (l.any (·.kind == 3))))

/-- HOLDOFF_EXPIRE (R307): one message announces what was published during HOLDOFF. -/
def execHoldoffExpire (fn : Fn) (ring : Nat) (s : State) : Res :=
  if !fnOk fn then .fault .noSuchUnit
  else within ring (recRings fn) (.next (
    let r := s.rr fn ring
    if r.heldMsg && r.inten && s.holdoffOver r then s.sendMsg fn ring else s))

end Sys2Proof.Machine
end

