-- ==== Sys2Proof/Machine/Serving.lean ====
section
/-! DEFINITION. Serving (R317 to R350), first part: descriptors and their intake, terminal records, delivered tokens,
and the parked record's coding. -/

namespace Sys2Proof.Machine

/-! ### Writes to host memory (R312, R324) -/

/-- A posted write to host memory: a follower's goes to its lead, in packets (R312). -/
def State.hostStore (s : State) (f : Fn) (addr : Nat) (data : List Byte) : State :=
  if s.hif.leadValid then
    let ps := pieces 4088 data.length data
    ((List.range ps.length).foldl (fun s i =>
      s.sendHost 0 pHost s.hif.leadDev (addr + 4088 * i) 8 (fnKey f) 0 0 0 (nth [] ps i)) s)
  else s.emit (.hostWrite addr data)

/-- The function whose table a record's source is, for host writes of the SVC. -/
def State.tableFn (s : State) (tbl : Nat) : Fn := if s.hif.sriov then .vf tbl else .pf

/-! ### Descriptors (R320, R321) -/

/-- A descriptor's fields (R320). -/
structure Desc where
  id : Nat
  op : Nat
  table : Nat
  cust : Nat
  adnum : Nat
  dmax : Nat
  flags : Nat
  src : Nat
  plen : Nat
  maxNew : Nat
  out : Nat
  outCap : Nat
  progress : Nat
  seed : Nat
  temp : Nat
  topk : Nat
  stops : List Nat
  xsrc : Nat
  deriving DecidableEq, Repr

/-- The fields of 128 bytes (R320). -/
def descOf (l : List Byte) : Desc :=
  { id := leAt l 0 8, op := leAt l 8 1, table := bits (leAt l 9 1) 0 4, cust := bits (leAt l 10 2) 0 12,
    adnum := leAt l 12 2, dmax := leAt l 14 1, flags := leAt l 15 1, src := leAt l 16 8, plen := leAt l 24 4,
    maxNew := leAt l 28 4, out := leAt l 32 8, outCap := leAt l 40 4, progress := leAt l 44 4, seed := leAt l 48 8,
    temp := leAt l 56 4, topk := leAt l 60 2, stops := [leAt l 64 4, leAt l 68 4, leAt l 72 4, leAt l 76 4],
    xsrc := leAt l 80 8 }

/-- A reserved OP or a reserved bit is set (R320, R321). -/
def descReserved (l : List Byte) : Bool :=
  let op := leAt l 8 1
  op == 0 || decide (6 < op) || bits (leAt l 9 1) 4 4 != 0 || bits (leAt l 10 2) 12 4 != 0 ||
    bits (leAt l 15 1) 2 6 != 0 || leAt l 62 2 != 0 || leAt l 88 40 != 0

/-- Does the request code make a request (GENERATE, SCORE, RESUME)? -/
def isRequestOp (op : Nat) : Bool := op == 1 || op == 2 || op == 5

/-- Every field lies in its range (R320). -/
def Desc.inRange (d : Desc) : Bool :=
  (d.op == 6 || d.id != 0) &&
  (decide (d.adnum < 4096) || d.adnum == 0xFFFF) &&
  decide (d.dmax ≤ 8) && decide (d.topk ≤ 1024) && decide (d.temp < 0x7F800000) &&
  (if d.op == 1 || d.op == 2 then decide (1 ≤ d.plen && d.plen < 2 ^ 24)
   else if d.op == 5 then decide (d.plen < 2 ^ 24)
   else if d.op == 4 then decide (64 ≤ d.plen && d.plen ≤ 2 ^ 31)
   else true) &&
  (if d.op == 1 || d.op == 5 then decide (d.maxNew < 2 ^ 24 && d.maxNew ≤ d.outCap) else true) &&
  (if isRequestOp d.op then d.out % 8 == 0 else true)

/-- The table admits through this function (R321). -/
def State.tablePermits (s : State) (fn : Fn) (tbl : Nat) : Bool :=
  (match fn with | .pf => true | .vf n => n == tbl) && s.deckRuns && (s.serveTable tbl).role == 1

/-- Requests of a table (R317). -/
def State.reqsOf (s : State) (tbl : Nat) : List Request := s.svc.reqs.filter (·.table == tbl)

/-- Request-table entries of a table (R317): those of its requests, and those whose terminal record waits (R306). -/
def State.entriesOf (s : State) (tbl : Nat) : Nat := (s.reqsOf tbl).length + (s.svc.ended.filter (·.1 == tbl)).length

/-- An adapter slot lies in a table's range (R326). -/
def ServeTable.hasSlot (x : ServeTable) (slot : Nat) : Bool := decide (x.slot0 ≤ slot && slot < x.slot0 + x.nslot)

/-- The first check of R321 that a descriptor fails. CUST, ADNUM and the quota are checked for requests only (R351). -/
def State.descCode (s : State) (fn : Fn) (l : List Byte) : Option Nat :=
  let d := descOf l
  let x := s.serveTable d.table
  if descReserved l then some 0x6002
  else if !s.tablePermits fn d.table then some 0x6004
  else if !d.inRange then some 0x6005
  else if !isRequestOp d.op then none
  else if (s.svc.cust d.cust).weight == 0 || (s.svc.cust d.cust).table != d.table then some 0x6006
  else if d.adnum != 0xFFFF && (!(s.svc.ad d.adnum).valid || !x.hasSlot (s.svc.ad d.adnum).slot) then some 0x6008
  else if x.rquota ≤ s.entriesOf d.table then some 0x6003
  else none

/-! ### Terminal records (R322, R323, R347) -/

/-- DETAIL of a terminal record (R323). -/
def termDetail (delivered end_ : Nat) (dup lossy : Bool) (version : Nat) : Nat :=
  delivered % 2 ^ 32 + end_ % 256 * 2 ^ 32 + b2n dup * 2 ^ 40 + b2n lossy * 2 ^ 41 + version % 65536 * 2 ^ 48

/-- DETAIL with DUP set (R347). -/
def withDup (detail : Nat) : Nat := putBits detail 40 1 1

/-- Raise a terminal record on a table's source (R322). -/
def State.terminal (s : State) (tbl status id detail : Nat) : State := s.raise (srcTable tbl) 1 status id detail

/-- Put an ID at the end of the window of recent IDs (R347). -/
def Svc.remember (v : Svc) (id : Nat) (ended : Option (Nat × Nat)) : Svc :=
  let l := v.window.filter (fun e => e.1 != id) ++ [(id, ended)]
  { v with window := l.drop (l.length - 65536) }

/-- Note in the window how a request ended (R347). -/
def Svc.noteEnd (v : Svc) (id status detail : Nat) : Svc :=
  { v with window := v.window.map fun e => if e.1 == id then (id, some (status, detail)) else e }
/-- IDs that fail with 0x6002 or 0x6005 are not kept (R347). -/
def notKept (code : Nat) : Bool := code == 0x6002 || code == 0x6005

/-- One pin of an adapter slot is gone (R334): a retiring slot without pins is free. -/
def Svc.unpin (v : Svc) (slot : Nat) : Svc :=
  let x := v.slot slot
  let x := { x with pins := x.pins - 1 }
  v.setSlot slot (if x.state == 2 && x.pins == 0 then { x with state := 0 } else x)

/-- Pin a request to a slot and version (R335). -/
def Svc.pin (v : Svc) (slot : Nat) : Svc :=
  let x := v.slot slot
  v.setSlot slot { x with pins := x.pins + 1 }

/-- Version that a request is pinned to, 0 without an adapter (R323). -/
def Request.version (q : Request) : Nat := match q.pin with | some (_, v) => v | none => 0

/-- Source number of the rows of restored segments. -/
def restoreSrc : Nat := svcKeep + 2 ^ 20
/-- A row of a request's restore. -/
def RowUse.restores (u : RowUse) (id : Nat) : Bool := match u with | .writeRx _ _ x y => x == restoreSrc && y == id | _ => false
/-- A request's restore stops (R341): none of its rows is written any more. -/
def State.stopRestore (s : State) (q : Request) : State :=
  if q.state == .restoring then
    { s with tiles := s.tiles.map fun (e : Nat × Tile) =>
      (e.1, { e.2 with reqs := e.2.reqs.filter fun r => !r.use.restores q.id, bank := e.2.bank.filter fun b => !b.use.restores q.id }) }
  else s

/-- End a request (R317, R322, R347): its terminal record, those of its duplicates, its entry and its pin. The entry stays
counted while the record waits for its queue (R306). DELIVERED has the score of a SCORE that ends scored (R323). -/
def State.endRequest (s : State) (q : Request) (status end_ : Nat) : State :=
  let detail := termDetail (if end_ = 3 then q.score else q.delivered) end_ false q.lossy q.version
  let s1 := (s.stopRestore q).terminal q.table status q.id detail
  let s2 := (List.range q.dups).foldl (fun s _ => s.terminal q.table status q.id (withDup detail)) s1
  let v := s2.svc.noteEnd q.id status detail
  let v := { v with window := if notKept status then v.window.filter (·.1 != q.id) else v.window,
                    reads := v.reads.filter (·.key != SvcKey.park q.id) }
  let held := (s1.queue (qKey 0 (srcTable q.table))).waiting.any fun r => r.kind == 1 && r.tag == q.id
  let v := { v with reqs := v.reqs.filter (·.id != q.id), ended := if held then v.ended ++ [(q.table, q.id)] else v.ended }
  { s2 with svc := match q.pin with | some (slot, _) => v.unpin slot | none => v }

/-- END of a request that did not complete (R323). -/
def endNone : Nat := 0xFF

/-- End every request that a test picks (R348, R349). -/
def State.endAll (s : State) (p : Request → Bool) (status : Nat) : State :=
  (s.svc.reqs.filter p).foldl (fun s q => s.endRequest q status endNone) s

/-- A request by its ID. -/
def State.req? (s : State) (id : Nat) : Option Request := s.svc.reqs.find? (·.id == id)
/-- Change a request. -/
def State.modReq (s : State) (id : Nat) (f : Request → Request) : State :=
  { s with svc := { s.svc with reqs := s.svc.reqs.map fun q => if q.id == id then f q else q } }

/-! ### The parked record (R343, R344) -/

/-- Literal bytes before the next run of two zeros, at most `n`. -/
def literalRun : Nat → List Byte → Nat
  | 0, _ => 0
  | _, [] => 0
  | _, [_] => 1
  | n + 1, a :: b :: l => if a == 0#8 && b == 0#8 then 0 else 1 + literalRun n (b :: l)

/-- Zero bytes at the front, at most `n`. -/
def zeroRun : Nat → List Byte → Nat
  | 0, _ => 0
  | _, [] => 0
  | n + 1, a :: l => if a == 0#8 then 1 + zeroRun n l else 0

/-- Codec 1 (R344): a run of two zeros or more becomes one control byte. -/
def zeroCode : Nat → List Byte → List Byte
  | 0, _ => []
  | _, [] => []
  | fuel + 1, l =>
    let z := zeroRun 129 l
    if 2 ≤ z then BitVec.ofNat 8 (126 + z) :: zeroCode fuel (l.drop z)
    else
      let n := literalRun 128 l
      BitVec.ofNat 8 (n - 1) :: l.take n ++ zeroCode fuel (l.drop n)

/-- Decode codec 1 (R344). -/
def zeroDecode : Nat → List Byte → List Byte
  | 0, _ => []
  | _, [] => []
  | fuel + 1, c :: l =>
    if c.toNat ≤ 127 then l.take (c.toNat + 1) ++ zeroDecode fuel (l.drop (c.toNat + 1))
    else rep (c.toNat - 126) 0#8 ++ zeroDecode fuel l

/-- The element format of a state-map entry (R343). -/
def StateMap.fmt (m : StateMap) : Fmt := if m.bf16 then .bf16 else .fp32
/-- Bytes of an element of a state-map entry. -/
def StateMap.elem (m : StateMap) : Nat := if m.bf16 then 2 else 4

/-- The MX format of codec 2 (R344), code 0xA. -/
def lossyFmt : Fmt := (Fmt.ofCode 0xA).getD .fp32

/-- Codec 2 (R344): each 32 elements become a scale byte and 32 element bytes. -/
def lossyCode (m : StateMap) (raw : List Byte) : List Byte :=
  let n := 32 * m.elem
  ((List.range (raw.length / n)).map fun b =>
    let v := (List.range 32).map fun i => m.fmt.value (leAt raw (n * b + m.elem * i) m.elem)
    let (sc, es) := toMx v lossyFmt
    BitVec.ofNat 8 sc :: es.map (BitVec.ofNat 8 ·)).flatten

/-- Restore codec 2 (R345): each element is scaled and rounded to the entry's format by R80. -/
def lossyDecode (m : StateMap) (l : List Byte) : List Byte :=
  ((List.range (l.length / 33)).map fun b =>
    let sc := leAt l (33 * b) 1
    ((List.range 32).map fun i =>
      leBytes m.elem (m.fmt.encode (mxValue lossyFmt sc (leAt l (33 * b + 1 + i) 1)))).flatten).flatten

/-- Pad to a multiple of 16 bytes (R344). -/
def pad16 (l : List Byte) : List Byte := l ++ rep (16 * ceilDiv l.length 16 - l.length) 0#8

/-- One segment (R344): its header, its coded bytes, and whether it is lossy. -/
def segmentOf (idx : Nat) (m : StateMap) (lossy : Bool) (raw : List Byte) : List Byte × Bool :=
  let head (codec n : Nat) : List Byte :=
    leBytes 2 idx ++ leBytes 1 codec ++ leBytes 1 0 ++ leBytes 4 raw.length ++ leBytes 4 n ++ leBytes 4 0
  if lossy && m.lossy then
    let c := lossyCode m raw
    (head 2 c.length ++ pad16 c, true)
  else
    let c := zeroCode raw.length raw
    if c.length < raw.length then (head 1 c.length ++ pad16 c, false) else (head 0 raw.length ++ pad16 raw, false)

/-- MAGIC of a parked record (R343). -/
def parkMagic : List Byte := leBytes 8 0x004B524150325646

/-- The 64-byte header of a parked record (R343) over its segments. -/
def parkHeader (q : Request) (jobId nseg : Nat) (lossy : Bool) (pos last : Nat) (segs : List Byte) : List Byte :=
  let h := parkMagic ++ leBytes 2 1 ++ leBytes 1 (b2n lossy) ++ leBytes 1 0 ++ leBytes 4 nseg ++ leBytes 8 jobId ++
    leBytes 8 q.id ++ leBytes 4 pos ++ leBytes 4 last ++ leBytes 8 q.seed ++ leBytes 2 q.cust ++
    leBytes 2 (q.ad.getD 0xFFFF) ++ leBytes 4 q.version ++ leBytes 4 (64 + segs.length)
  h ++ leBytes 4 (crc32c (h ++ segs))

/-- The segments of a record's bytes behind its header (R344): map index, codec, coded bytes. -/
def segments : Nat → List Byte → Option (List (Nat × Nat × List Byte))
  | 0, _ => some []
  | n + 1, l =>
    let len := leAt l 8 4
    if l.length < 16 || l.length < 16 + len then none
    else (segments n (l.drop (16 + 16 * ceilDiv len 16))).map fun r => (leAt l 0 2, leAt l 2 1, (l.drop 16).take len) :: r

/-- A parked record is whole and of this deck (R345). -/
def parkedOk (l : List Byte) (jobId : Nat) : Bool :=
  let n := leAt l 56 4
  decide (64 ≤ n) && decide (n ≤ l.length) && l.take 8 == parkMagic && leAt l 8 2 == 1 && leAt l 16 8 == jobId &&
    leAt l 60 4 == crc32c (l.take 60 ++ (l.take n).drop 64) && (segments (leAt l 12 4) ((l.take n).drop 64)).isSome

/-- The slot that holds a version of an adapter in a table's range (R345). -/
def State.resident (s : State) (tbl ad version : Nat) : Option Nat :=
  (s.svc.slots.find? fun e => (s.serveTable tbl).hasSlot e.1 && (e.2.state == 1 || e.2.state == 2) &&
    e.2.ad == ad && e.2.version == version).map (·.1)

/-! ### Intake (R318, R319, R347) -/

/-- An intake source: one command ring of one function of one window (R319). This device serves one window, its own. -/
def sourceOf (d : DescIn) : Nat := fnKey d.fn * 8 + d.ring

/-- The SERVE command that delivers a descriptor (R304, R318). -/
def State.serving (s : State) (d : DescIn) : Bool :=
  fnOk d.fn && match (s.cr d.fn d.ring).run with
    | some c => c.op == 8 && decide (0 < c.left)
    | none => false

/-- One descriptor of a SERVE command is taken in; the last one completes it (R318). -/
def State.descTaken (s : State) (d : DescIn) : State :=
  let r := s.cr d.fn d.ring
  let s1 := s.setCr d.fn d.ring { r with run := r.run.map fun c => { c with left := c.left - 1 } }
  match (s1.cr d.fn d.ring).run with
  | some c => if c.left == 0 then s1.endRun d.fn d.ring c.status else s1
  | none => s1

/-- Note the intake source of a table in the running tick (R319). -/
def State.noteSource (s : State) (d : DescIn) : State :=
  let tbl := (descOf d.bytes).table
  let l := Map.get [] s.svc.sources tbl
  if l.contains (sourceOf d) then s
  else { s with svc := { s.svc with sources := Map.set [] s.svc.sources tbl (l ++ [sourceOf d]) } }

/-- A descriptor that a follower's SVC reads through its lead (R312, R318), and its place in its command. -/
def State.viaLead (s : State) (d : DescIn) : Bool := s.hif.leadValid && d.ring == 4
def State.descIdx (s : State) (d : DescIn) : Nat :=
  match (s.cr d.fn d.ring).run with
  | some c => c.len - c.left
  | none => 0
/-- The descriptor of an event: on a follower its bytes are those that its lead has sent, once they have come. -/
def State.descHere (s : State) (d : DescIn) : Option DescIn :=
  if s.viaLead d then
    match s.get? d.fn 1 with
    | some g => if g.left == 0 then some { d with bytes := padTo 128 (slice g.bytes (128 * s.descIdx d) 128) } else none
    | none => none
  else some d
/-- Key of a read for the descriptor in place `k`: part 0 its prompt or the parked record's header, 1 the extra prompt, 2 the
rest of the record. -/
def partKey (k part : Nat) : Nat := 2 + 3 * k + part
/-- The bytes that a part of a descriptor names: on a follower those that its lead has sent, once they have come; else what
host memory has answered. -/
def State.partOf (s : State) (d : DescIn) (part : Nat) (own : List Byte) : Option (List Byte) :=
  if s.viaLead d then
    match s.get? d.fn (partKey (s.descIdx d) part) with
    | some g => if g.left == 0 then some g.bytes else none
    | none => some []
  else some own
/-- Tokens that a part of a descriptor names. -/
def State.tokensOf (s : State) (d : DescIn) (part : Nat) (own : List Word) : Option (List Word) :=
  if s.viaLead d then (s.partOf d part []).map fun l => (List.range (l.length / 4)).map fun i => BitVec.ofNat 32 (leAt l (4 * i) 4)
  else some own

/-- A descriptor event: it comes from a SERVE command in progress, and its OP is the event's, or reserved. A reserved
OP is no request, so it raises a fault record (R321). `k` takes it, with what it names, when that is there. -/
def State.takeDesc {α : Type} (s : State) (d0 : DescIn) (op : Nat) (named : Option α) (k : State → DescIn → α → State) : State :=
  match s.descHere d0 with
  | none => s
  | some d =>
    let x := descOf d.bytes
    let reserved := x.op == 0 || decide (6 < x.op)
    if !s.serving d then s
    else if reserved then ((s.noteSource d).raise (srcTable x.table) 2 0x6002 x.id 0).descTaken d
    else if x.op == op then
      match named with
      | some a => (k (s.noteSource d) d a).descTaken d
      | none => s
    else s

/-- A request ends at intake (R321, R345). -/
def State.failIntake (s : State) (x : Desc) (code : Nat) : State :=
  let detail := termDetail 0 endNone false false 0
  let s1 := s.terminal x.table code x.id detail
  if notKept code then s1
  else { s1 with svc := s1.svc.remember x.id (some (code, detail)) }

/-- A duplicate (R347): attached to its original, or answered from the window. -/
def State.duplicate (s : State) (x : Desc) : Option State :=
  match s.req? x.id with
  | some q =>
    if q.dups < 255 then some (s.modReq x.id fun q => { q with dups := q.dups + 1 })
    else some (s.terminal q.table 0x6007 x.id (termDetail 0 endNone true false 0))
  | none =>
    match s.svc.window.find? (·.1 == x.id) with
    | some (_, some (status, detail)) => some (s.terminal x.table status x.id (withDup detail))
    | _ =>
      match s.svc.ended.find? (·.2 == x.id) with
      | some e =>
        ((s.queue (qKey 0 (srcTable e.1))).waiting.find? fun r => r.kind == 1 && r.tag == x.id).map fun r =>
          s.terminal e.1 r.status x.id (withDup r.detail)
      | none => none

/-- A new request-table entry from a descriptor (R317, R320). -/
def State.newRequest (s : State) (x : Desc) (prompt : List Word) : Request :=
  { id := x.id, order := s.svc.nextOrder, intake := s.tick, table := x.table, isScore := x.op == 2, cust := x.cust,
    ad := if x.adnum == 0xFFFF then none else some x.adnum,
    dmax := min x.dmax (s.serveTable x.table).draftMax, maxNew := x.maxNew, out := x.out, outCap := x.outCap,
    progress := x.progress, seed := x.seed, temp := x.temp, topk := x.topk, stops := x.stops, state := .queued,
    slot := none, prompt := (prompt.take x.plen).map (·.toNat), pos := 0, ready := none, drafts := [], steps := [],
    result := none, delivered := 0, pin := none, lossy := false, dcur := min x.dmax (s.serveTable x.table).draftMax,
    streak := 0, wait := 0, accept := 0, cancelled := false, parkTo := none, dups := 0, restore := [], resume := false }

/-- The request table and the window of request numbers with a new request (R317, R320). -/
def Svc.enter (v : Svc) (id : Nat) (q : Request) : Svc :=
  let w := v.remember id none
  { w with nextOrder := v.nextOrder + 1, reqs := w.reqs ++ [q] }

/-- Put a new request into the table, unless MAXNEW 0 ends it at once (R320). -/
def State.enter (s : State) (x : Desc) (q : Request) : State :=
  let s1 := { s with svc := s.svc.enter x.id q }
  if x.op != 2 && x.maxNew == 0 then s1.endRequest q 0 0 else s1

/-- A GENERATE or SCORE descriptor (R320, R321, R347). A prompt that host memory did not answer whole ends it 0x2004. -/
def State.takePrompted (s : State) (d : DescIn) (prompt : List Word) : State :=
  let x := descOf d.bytes
  match s.duplicate x with
  | some s1 => s1
  | none =>
    match s.descCode d.fn d.bytes with
    | some c => s.failIntake x c
    | none =>
      if prompt.length < x.plen then s.failIntake x 0x2004
      else s.enter x (s.newRequest x prompt)

/-- A RESUME descriptor (R345). SEED is the record's (R343): with it the request goes on as it would have done (R346). -/
def State.takeResume (s : State) (d : DescIn) (rec_ : List Byte) (prompt : List Word) : State :=
  let x := descOf d.bytes
  match s.duplicate x with
  | some s1 => s1
  | none =>
    match s.descCode d.fn d.bytes with
    | some c => s.failIntake x c
    | none =>
      if !parkedOk rec_ s.dck.jobId then s.failIntake x 0x6040
      else
        let version := leAt rec_ 52 4
        let last := leAt rec_ 36 4
        let home := s.resident x.table x.adnum version
        if x.adnum != 0xFFFF && home.isNone && !bit x.flags 1 then s.failIntake x 0x6041
        else if last == 0xFFFFFFFF && x.plen == 0 then s.failIntake x 0x6005
        else if prompt.length < x.plen then s.failIntake x 0x2004
        else
          let pin : Option (Nat × Nat) :=
            if x.adnum == 0xFFFF then none
            else match home with
              | some slot => some (slot, version)
              | none => some ((s.svc.ad x.adnum).slot, (s.svc.ad x.adnum).version)
          let s1 := match pin with
            | some (slot, _) => { s with svc := s.svc.pin slot }
            | none => s
          let q := s1.newRequest x prompt
          s1.enter x { q with
            pos := leAt rec_ 32 4, seed := leAt rec_ 40 8, ready := if x.plen == 0 then some last else none, pin, lossy := bit (leAt rec_ 10 1) 0,
            restore := (segments (leAt rec_ 12 4) ((rec_.take (leAt rec_ 56 4)).drop 64)).getD [], resume := true }

/-- A CANCEL, PARK or BIND descriptor (R321, R331): one that fails a check raises a fault record; the others take
effect at the next boundary. -/
def State.takeAct (s : State) (d : DescIn) : State :=
  let x := descOf d.bytes
  match s.descCode d.fn d.bytes with
  | some c => s.raise (srcTable x.table) 2 c x.id 0
  | none => { s with svc := { s.svc with acts := s.svc.acts ++ [(s.tick, x.table, d.bytes)] } }

/-- GENERATE (R320). -/
def execGenerate (d : DescIn) (prompt : List Word) (s : State) : Res :=
  .next (s.takeDesc d 1 (s.tokensOf d 0 prompt) fun s d l => s.takePrompted d l)
/-- SCORE (R320). -/
def execScore (d : DescIn) (prompt : List Word) (s : State) : Res :=
  .next (s.takeDesc d 2 (s.tokensOf d 0 prompt) fun s d l => s.takePrompted d l)
/-- CANCEL (R341). -/
def execCancel (d : DescIn) (s : State) : Res := .next (s.takeDesc d 3 (some ()) fun s d _ => s.takeAct d)
/-- PARK (R342). -/
def execPark (d : DescIn) (s : State) : Res := .next (s.takeDesc d 4 (some ()) fun s d _ => s.takeAct d)
/-- The parked record and the extra prompt that a RESUME names. -/
def State.resumeParts (s : State) (d : DescIn) (record : List Byte) (prompt : List Word) : Option (List Byte × List Word) :=
  match s.partOf d 0 record, s.partOf d 2 [], s.tokensOf d 1 prompt with
  | some h, some r, some l => some (if s.viaLead d then h ++ r else h, l)
  | _, _, _ => none
/-- RESUME (R345). -/
def execResume (d : DescIn) (record : List Byte) (prompt : List Word) (s : State) : Res :=
  .next (s.takeDesc d 5 (s.resumeParts d record prompt) fun s d x => s.takeResume d x.1 x.2)
/-- BIND (R334). -/
def execBind (d : DescIn) (s : State) : Res := .next (s.takeDesc d 6 (some ()) fun s d _ => s.takeAct d)

/-! ### Delivered tokens (R324, R325) -/

/-- Deliver one token: its place in OUT, then COUNT, then a progress notice when COUNT passes a multiple. -/
def State.deliverToken (s : State) (q : Request) (tok : Nat) : State × Request :=
  let f := s.tableFn q.table
  let n := q.delivered + 1
  let s1 := (s.hostStore f (q.out + 16 + 4 * q.delivered) (leBytes 4 tok)).hostStore f q.out (leBytes 4 n ++ rep 12 0#8)
  let s2 := if q.progress != 0 && n % q.progress == 0 then s1.raise (srcTable q.table) 3 0x0012 0 n else s1
  (s2, { q with delivered := n })

/-- A write to OUT fails on PCIe (R349): the token is not delivered, and its request ends FAILED 0x2004. -/
def Request.outFailed (q : Request) : Request := { q with result := some (0x2004, endNone) }

/-- Deliver the tokens of a step in order, up to a stop token or MAXNEW (R324, R338), unless the write to OUT fails (R349). -/
def State.deliverTokens (s : State) (fails : Bool) (q : Request) : List Nat → State × Request
  | [] => (s, q)
  | t :: ts =>
    if fails then (s, q.outFailed)
    else
      let (s1, q1) := s.deliverToken q t
      if q.stops.contains t && t != 0xFFFFFFFF then (s1, { q1 with result := some (0, 1) })
      else if q1.maxNew ≤ q1.delivered then (s1, { q1 with result := some (0, 0) })
      else s1.deliverTokens fails q1 ts

/-! ### Results (R328, R330, R338, R339) -/

/-- A result record (R328). -/
structure ResultRec where
  token : Nat
  reason : Nat
  valid : Bool
  poison : Bool
  drafts : List Nat
  deriving DecidableEq, Repr

/-- The fields of a result record's row. -/
def resultOf (l : List Byte) : ResultRec :=
  { token := leAt l 0 4, reason := leAt l 4 2, valid := bit (leAt l 6 1) 0, poison := bit (leAt l 6 1) 1,
    drafts := (List.range (min 8 (leAt l 7 1))).map fun j => leAt l (8 + 4 * j) 4 }

/-- Drafts accepted (R338): those whose token was sampled by the lane before, up to the first that was not. -/
def acceptedDrafts : List Nat → List Nat → Nat
  | d :: ds, r :: rs => if d == r then 1 + acceptedDrafts ds rs else 0
  | _, _ => 0

/-- adapt (R339): the request and the full rejections to count. -/
def Request.adapt (q : Request) (x : ServeTable) (d a : Nat) : Request × Nat :=
  if 0 < d && a == 0 then
    let k := q.streak + 1
    (if x.nrej ≤ k then { q with dcur := 0, wait := x.probe, streak := x.nrej - 1 } else { q with streak := k }, 1)
  else if 0 < d then ({ q with streak := 0, dcur := min (a + 1) q.dmax }, 0)
  else if 0 < q.dmax && 0 < q.wait then
    ({ q with wait := q.wait - 1, dcur := if q.wait == 1 then 1 else q.dcur }, 0)
  else (q, 0)

/-! ### Rows that the SVC reads (R160, R172, R173, R330) -/

/-- Begin a read of rows for a purpose. -/
def State.openRead (s : State) (key : SvcKey) (fails : List Nat) : State × Nat :=
  ({ s with svc := { s.svc with reads := s.svc.reads ++ [{ id := s.svc.nextRead, key, fails }], nextRead := s.svc.nextRead + 1 } },
   s.svc.nextRead)
/-- A read of rows is over. -/
def State.closeRead (s : State) (id : Nat) : State :=
  { s with svc := { s.svc with reads := s.svc.reads.filter (·.id != id) } }
/-- The read for a purpose. -/
def State.read? (s : State) (key : SvcKey) : Option SvcRead := s.svc.reads.find? (·.key == key)

/-- Ask for `n` rows of a position for a read (R160): class L requests. Rows that a handle of user 2 denies, or that have no
memory, read as zeros and are reported, unless the rule reports nothing (`quiet`, R367). With VDD_SRAM off the contents are
lost, and a row reads as free values (log entry 5). -/
def State.askSvcRows (s : State) (id p row n off : Nat) (quiet : Bool) : State :=
  let un (i : Nat) : Bool := decide (mappedRows ≤ row + i)
  let no (i : Nat) : Bool := !un i && !s.mayAccess p 2 false (row + i)
  let bad := (List.range n).any fun i => un i || no i
  if s.sramOff then
    s.modRead id fun x => { x with
      bad := x.bad || bad, buf := writeCells x.buf off ((List.range (64 * n)).map fun i => Config.lostByte (memKey p (64 * row) + i)) }
  else
    let good := (List.range n).filter fun i => !un i && !no i
    let seq := (s.tile p).nextOp
    let s1 := s.modTile p fun t => { t with nextOp := seq + 1 }
    let s2 := good.foldl (fun s i => s.modTile p (·.request
      { cls := 3, seq, row := row + i, deadline := noDeadline, since := s.age, use := .toSvc id (off + 64 * i) })) s1
    let s3 := s2.modRead id fun x =>
      { x with rows := x.rows ++ good.map fun i => (p, row + i, off + 64 * i), bad := x.bad || bad }
    if quiet then s3 else s3.reportRows p ((List.range n).any un) ((List.range n).any no)

/-- A tick ends before every row of a read has been sampled: the others are sampled then (DESIGN CHOICE, log entry 21). -/
def State.forceRead (s : State) (id : Nat) : State :=
  let mine (u : RowUse) : Bool := match u with | .toSvc x _ => x == id | _ => false
  let s1 := s.modRead id fun x =>
    { x with rows := [], buf := x.rows.foldl (fun b r => writeCells b r.2.2 (s.readRow r.1 r.2.1)) x.buf }
  { s1 with tiles := s1.tiles.map fun (e : Nat × Tile) =>
      (e.1, { e.2 with reqs := e.2.reqs.filter fun r => !mine r.use, bank := e.2.bank.filter fun b => !mine b.use }) }

/-- The result records of a step (R328, R330) in what was read: one row per lane. -/
def SvcRead.records (x : SvcRead) (lane n : Nat) : List ResultRec :=
  (List.range n).map fun i => resultOf (readCells x.buf (64 * (lane + i)) 64)

/-- How the records of a step end its request, if they do (R330): poison, or a sampled lane without a result. -/
def stepFault (r : StepRun) (l : List ResultRec) : Option Nat :=
  let sampled (i : Nat) : Bool := r.gen || (r.sampled && i + 1 == r.n)
  (List.range l.length).findSome? fun i =>
    let x := nth (resultOf []) l i
    if x.poison then some (if x.reason == 0 then 0x6032 else x.reason)
    else if sampled i && !x.valid then some 0x6031
    else none

/-- The results of a generation step (R338, R339). -/
def State.genResult (s : State) (fails : Bool) (q : Request) (r : StepRun) (l : List ResultRec) : State × Request :=
  let toks := l.map (·.token)
  let a := acceptedDrafts (r.tokens.drop 1) toks
  let (s1, q1) := s.deliverTokens fails q (toks.take (a + 1))
  let (q2, rej) := q1.adapt (s.serveTable q.table) (r.n - 1) a
  let tb := s1.svc.table q.table
  let s2 := { s1 with svc := s1.svc.setTable q.table { tb with
    fullRej := satTo (2 ^ 32 - 1) (tb.fullRej + rej), accepted := satTo (2 ^ 32 - 1) (tb.accepted + a) } }
  (s2, { q2 with accept := a, pos := r.pos + a + 1, ready := some (nth 0 toks a), drafts := (nth (resultOf []) l a).drafts })

/-- The results of one step of a request (R330); `fails` when its writes to OUT fail (R349). -/
def State.stepResult (s1 : State) (fails : Bool) (q : Request) (r : StepRun) (l : List ResultRec) : State × Request :=
  let q := { q with steps := q.steps.map fun x => if x.tick == r.tick && x.lane == r.lane then { x with read := true } else x }
  match (s1.table q.table).dfault, stepFault r l with
  | some c, _ => (s1, { q with result := some (c, endNone) })
  | none, some c => (s1, { q with result := some (c, endNone) })
  | none, none =>
    if r.gen then s1.genResult fails q r l
    else if !r.sampled then (s1, q)
    else
      let x := nth (resultOf []) l (r.n - 1)
      if q.isScore then
        if fails then (s1, q.outFailed)
        else (s1.hostStore (s1.tableFn q.table) q.out (leBytes 4 x.token), { q with score := x.token, result := some (0, 3) })
      else
        let (s2, q2) := s1.deliverTokens fails q [x.token]
        (s2, { q2 with ready := some x.token, drafts := x.drafts, accept := 0 })

/-- The steps of a request whose results are read in a tick (R330), oldest first. -/
def Request.due (q : Request) (step t : Nat) : List StepRun := q.steps.filter fun r => !r.read && decide (r.tick + step ≤ t + 1)

/-- The results that are due in a tick for one request, from what was read. A request that a fault has ended takes no more. -/
def State.readRequest (s : State) (t : Nat) (x : SvcRead) (q : Request) : State :=
  let (s1, q1) := (q.due (s.serveTable q.table).step t).foldl (fun (a : State × Request) r =>
    if a.2.result.isSome then a else a.1.stepResult (x.fails.contains q.id) a.2 r (x.records r.lane r.n)) (s, q)
  s1.modReq q.id fun _ => q1

/-- The results of a table that are due in a tick (R330). -/
def State.readResults (s : State) (tbl t : Nat) (x : SvcRead) : State :=
  (s.reqsOf tbl).foldl (fun s q => s.readRequest t x q) s

/-- Steps of a table whose results are due in a tick. -/
def State.dueSteps (s : State) (tbl t : Nat) : List StepRun :=
  (s.reqsOf tbl).flatMap fun q => if q.result.isSome then [] else q.due (s.serveTable tbl).step t
/-- Ask for the result records of a table that are due in a tick (R330), unless they are being read. -/
def State.askResults (s : State) (tbl t : Nat) (fails : List Nat) : State :=
  let due := s.dueSteps tbl t
  if (s.read? (.results tbl)).isSome || due.isEmpty then s
  else
    let x := s.serveTable tbl
    let (s1, id) := s.openRead (.results tbl) fails
    due.foldl (fun s r => s.askSvcRows id (s.physOf x.resTile) (x.resRow + r.lane) r.n (64 * r.lane) false) s1
/-- The result records that are due in a tick end their steps, once the last row has been sampled, or at the tick's end. -/
def State.takeResults (s : State) (tbl t : Nat) : State :=
  match s.read? (.results tbl) with
  | some x =>
    let s1 := s.forceRead x.id
    (s1.closeRead x.id).readResults tbl t ((s1.read? (.results tbl)).getD x)
  | none => s

/-- RESULT_READ (R330): from RBEAT of a tick on, the rows are asked for; each is sampled at its bank beat. -/
def execResultRead (r : ResultIn) (s : State) : Res :=
  within r.table 16 (.next (
    if s.deckRuns && (s.serveTable r.table).role == 1 && decide ((s.serveTable r.table).rbeat ≤ s.tableBeat r.table) then
      s.askResults r.table s.tick r.outFails
    else s))

/-! ### Input records and lane maps (R327, R329, R330) -/

/-- Request the class L writes of SVC data (R255): rows that a handle of user 2 denies, or that have no memory, are not
written (R172, R173). They belong to `(src, op)`. -/
def State.svcRows (s : State) (p src op end_ off : Nat) (data : List Byte) : State :=
  let rows := spanRows off data.length
  let bad := rows.any fun w => decide (mappedRows ≤ w.row)
  let no (w : PWrite) : Bool := decide (w.row < mappedRows) && !s.mayAccess p 2 true w.row
  let seq := (s.tile p).nextOp
  let s1 := s.modTile p fun t => { t with nextOp := seq + 1 }
  let s2 := rows.foldl (fun s' w =>
    if w.row < mappedRows && !no w then
      s'.modTile p (·.request { cls := 3, seq, row := w.row, deadline := end_, since := s.age,
                                use := .writeRx w.lo ((data.drop w.srcOff).take w.len) src op })
    else s') s1
  s2.reportRows p bad (rows.any no)

/-- The class L writes of the running tick, with the entry `(src, op)` that counts them. -/
def State.svcWrites (s : State) (p src op off : Nat) (data : List Byte) : State :=
  let n := (spanRows off data.length).length
  let end_ := s.tickBase + s.tickLen - 1
  (s.modTile p fun t =>
    if t.rx.any fun x => x.src == src && x.op == op then t.modRx src op fun x => { x with total := x.total + n }
    else { t with rx := t.rx ++ [{ src, op, total := n, done := 0, bad := false, flag := none, deadline := end_, acked := true }] }
  ).svcRows p src op end_ off data

/-- Rows of `(src, op)` still wait for their grant or their bank beat somewhere on the device. -/
def State.svcBusy (s : State) (src op : Nat) : Bool :=
  let mine (u : RowUse) : Bool := match u with | .writeRx _ _ x y => x == src && y == op | _ => false
  s.tiles.any fun e => (e.2.reqs.any fun r => mine r.use) || e.2.bank.any fun b => mine b.use

/-- Source number of a table's input records. -/
def inputSrc (tbl : Nat) : Nat := svcSrc + tbl

/-- The input records of a tick are judged (R330): when a row has not reached its bank, every request with a lane in the
tick ends FAILED 0x6030. -/
def State.judgeInputs (s : State) (tbl : Nat) : State :=
  let p := s.physOf (s.serveTable tbl).inTile
  match takeFirst (fun r => r.src == inputSrc tbl) (s.tile p).rx with
  | none => s
  | some (r, rest) =>
    let s1 := s.modTile p fun t => { t with rx := rest }
    if r.total ≤ r.done then s1
    else s1.endAll (fun q => q.table == tbl && q.steps.any (·.tick == s.tick)) 0x6030

/-- INPUT_RECORD_DEADLINE (R330): at IDONE. -/
def execInputRecordDeadline (tbl : Nat) (s : State) : Res :=
  within tbl 16 (.next (if s.tableBeat tbl < (s.serveTable tbl).idone then s else s.judgeInputs tbl))

/-- The lane state of a lane-map entry (R329). -/
def laneOf (e : Nat) : Lane := { full := bit e 15, adapter := bit e 12, aslot := bits e 0 12 }

/-- The SVC asks for the lane map of a FOLLOW table for the next tick (R329), once in a tick. -/
def State.askLanes (s : State) (tbl : Nat) : State :=
  if s.svc.mapsRead.contains tbl then s
  else
    let x := s.serveTable tbl
    let (s1, id) := { s with svc := { s.svc with mapsRead := s.svc.mapsRead ++ [tbl] } }.openRead (.lanes tbl) []
    s1.askSvcRows id (s1.physOf x.mapTile) x.mapRow (ceilDiv (2 * x.nlane) 64) 0 false

/-- The lane map of a FOLLOW table has been read (R329), or the tick ends. -/
def State.takeLanes (s : State) (tbl : Nat) : State :=
  match s.read? (.lanes tbl) with
  | none => s
  | some x0 =>
    let s1 := s.forceRead x0.id
    let l := ((s1.read? (.lanes tbl)).getD x0).buf
    let x := s.serveTable tbl
    let lanes := (List.range x.nlane).foldl (fun m i => Map.set {} m (x.lane0 + i) (laneOf (leNat (readCells l (2 * i) 2)))) s1.svc.nextLanes
    { s1 with svc := { s1.svc with nextLanes := lanes } }.closeRead x0.id

/-- LANE_MAP_SAMPLE (R329): from RBEAT of the preceding tick. -/
def execLaneMapSample (tbl : Nat) (s : State) : Res :=
  within tbl 16 (.next (
    let x := s.serveTable tbl
    if s.deckRuns && x.role == 2 && decide (x.rbeat ≤ s.tableBeat tbl) then s.askLanes tbl else s))

/-- Each FOLLOW table takes its lane state at the boundary (R329): a map that no LANE_MAP_SAMPLE has asked for is read then. -/
def State.sampleRest (s : State) : State :=
  (List.range 16).foldl (fun s tbl => if s.deckRuns && (s.serveTable tbl).role == 2 then (s.askLanes tbl).takeLanes tbl else s) s

/-! ### Gathers (R336, R337) -/

/-- A gather entry of the deck. -/
def State.gatherCfg (s : State) (g : Nat) : Option GatherCfg := s.dck.cfg.gathers[g]?
/-- Source number of a gather entry, less `svcSrc`. -/
def gatherSrc (g : Nat) : Nat := 32 + g
/-- CROWS of a chunk format (R336): 16 for FP8, 32 for BF16. -/
def chunkRows (cfmt : Nat) : Nat := if cfmt == 1 then 32 else 16

/-- Start the copy of one lane (R337): the gather-list record, and the chunk's rows. A source row without memory, or that a
handle denies, reads as zeros, which are written; a row that may not be written is not (R151, R173). Neither makes the lane
late. -/
def State.gatherLane (s : State) (g : Nat) (c : GatherCfg) (p i : Nat) : State :=
  let (adbase, srows, cfmt) := Map.get (0, 0, 0) s.dck.cfg.layout c.ltile
  let lane := c.lanef + i
  let l := Map.get {} s.svc.lanes lane
  let on := l.full && l.adapter
  let n := chunkRows cfmt
  let dst := c.dest + n * i
  let src := adbase + l.aslot * srows + n * c.j
  let item := leBytes 16 (64 * dst % 65536 + (16 * c.ubase + 32 * i) % 65536 * 2 ^ 16 + b2n (!on) * 2 ^ 32)
  let s1 := s.svcWrites p (svcSrc + gatherSrc g) lane (16 * c.list + 16 * i) item
  if !on then s1
  else
    let seq := (s1.tile p).nextOp
    let end_ := s.tickBase + s.tickLen - 1
    let rows := List.range n
    let un (row : Nat) : Bool := decide (mappedRows ≤ row)
    let no (write : Bool) (row : Nat) : Bool := !un row && !s.mayAccess p 2 write row
    let into := rows.filter fun r => !un (dst + r) && !no true (dst + r)
    let s2 := s1.modTile p fun t =>
      { (t.modRx (svcSrc + gatherSrc g) lane fun x => { x with total := x.total + into.length }) with nextOp := seq + 1 }
    let s3 := into.foldl (fun s' r =>
      if un (src + r) || no false (src + r) then
        s'.modTile p (·.request { cls := 3, seq, row := dst + r, deadline := end_, since := s.age + 1,
                                  use := .writeRx 0 (rep 64 0#8) (svcSrc + gatherSrc g) lane })
      else s'.modTile p (·.request { cls := 3, seq, row := src + r, deadline := end_, since := s.age + 1,
                                     use := .toGather (gatherSrc g) lane (dst + r) })) s2
    s3.reportRows p (rows.any fun r => un (src + r) || un (dst + r)) (rows.any fun r => no false (src + r) || no true (dst + r))

/-- GATHER (R337): in every tick, from START, for each lane of a gather entry. -/
def execGather (g : Nat) (s : State) : Res :=
  .next (
    match s.gatherCfg g with
    | none => s
    | some c =>
      let p := s.physOf c.ltile
      if !s.deckRuns || s.tableBeat (c.ltile / 12) < c.start || s.svc.gathering.contains g then s
      else
        (List.range c.nl).foldl (fun s i => s.gatherLane g c p i)
          { s with svc := { s.svc with gathering := s.svc.gathering ++ [g] } })

/-- The canonical NaN row of a chunk format (R73). -/
def nanRow (cfmt : Nat) : List Byte :=
  let f := (Fmt.ofCode cfmt).getD .bf16
  let e := leBytes (f.width / 8) (f.encode .nan)
  ((List.range (64 / e.length)).map fun _ => e).flatten

/-- The gathers of a tick are judged (R337): a lane whose rows are not in place has its chunk filled with the canonical NaN
of CFMT, as rows of the adapter engine (R255), and 0x6030 is raised on the tile's table. -/
def State.judgeGather (s : State) (g : Nat) : State :=
  match s.gatherCfg g with
  | none => s
  | some c =>
    let p := s.physOf c.ltile
    let (_, _, cfmt) := Map.get (0, 0, 0) s.dck.cfg.layout c.ltile
    let src := svcSrc + gatherSrc g
    let mine := (s.tile p).rx.filter (·.src == src)
    if mine.isEmpty then s
    else
      let late := (mine.filter fun x => decide (x.done < x.total)).map (·.op)
      let keep (r : RowReq) : Bool := match r.use with
        | .toGather k _ _ => k != gatherSrc g
        | .writeRx _ _ k _ => k != src
        | _ => true
      let s1 := s.modTile p fun t =>
        { t with rx := t.rx.filter (·.src != src), reqs := t.reqs.filter keep,
                 bank := t.bank.filter fun b => match b.use with
                   | .toGather k _ _ => k != gatherSrc g
                   | .writeRx _ _ k _ => k != src
                   | _ => true }
      let s2 := late.foldl (fun s lane =>
        s.svcRows p (svcKeep + gatherSrc g) lane noDeadline (64 * (c.dest + chunkRows cfmt * (lane - c.lanef)))
          ((List.range (chunkRows cfmt)).flatMap fun _ => nanRow cfmt)) s1
      if late.isEmpty then s2 else s2.raise (srcTable (c.ltile / 12)) 2 0x6030 (faultTag c.ltile 0 true) 0

/-- GATHER_DEADLINE (R337): at DONE. -/
def execGatherDeadline (g : Nat) (s : State) : Res :=
  .next (
    match s.gatherCfg g with
    | none => s
    | some c => if s.tableBeat (c.ltile / 12) < c.done then s else s.judgeGather g)

/-! ### Parking and restoring (R342 to R345) -/

/-- The rows of a state slot for a state-map entry (R343): device, logical tile, first row, when they exist. -/
def State.slotRows (s : State) (m : StateMap) (slot : Nat) : Option (Nat × Nat × Nat) :=
  match s.decodeGlobal (64 * m.grow) with
  | some (dev, lt, off) => some (dev, lt, off / 64 + slot * m.rows)
  | none => none

/-- State-map entries of a table with their indexes (R343). -/
def State.mapOf (s : State) (tbl : Nat) : List (Nat × StateMap) :=
  ((List.range s.dck.cfg.stateMap.length).zip s.dck.cfg.stateMap).filter (·.2.table == tbl)

/-- A packet of the SVC to another device's memory (R209): it belongs to no tile's tracker, and has the number of its read. -/
def State.svcPacket (s : State) (ptype id dev lt off : Nat) (payload : List Byte) : State :=
  s.sendPacket 0 inHif { dst := dev, hops := 15, src := 0, ptype, addr := globalAddr dev lt off, deadline := noDeadline,
                         tag := packetTag noLtile id, status := 0, payload }

/-- Ask for the rows of one state-map entry's slot (R342), whose bytes come at an offset of the read: on this device as class L
requests, on another as RRD packets of at most 64 rows. A device without a route that is UP raises 0x4002 (R206). -/
def State.askEntry (s : State) (id tbl : Nat) (m : StateMap) (slot off : Nat) : State :=
  match s.slotRows m slot with
  | none => s.modRead id fun x => { x with bad := true }
  | some (dev, lt, row) =>
    if dev == s.selfDev then s.askSvcRows id (s.physOf lt) row m.rows off false
    else if (s.routeUp dev).isNone then (s.raiseSvc tbl 0x4002).modRead id fun x => { x with bad := true }
    else
      let s1 := s.modRead id fun x => { x with far := x.far ++ (List.range m.rows).map fun i => (dev, lt, row + i, off + 64 * i) }
      (List.range (ceilDiv m.rows 64)).foldl (fun s i =>
        s.svcPacket pRrd id dev lt (64 * (row + 64 * i) + (min 64 (m.rows - 64 * i) - 1)) []) s1

/-- State-map entries of a table with the offsets of their rows in a read of them all. -/
def State.mapAt (s : State) (tbl : Nat) : List (Nat × StateMap × Nat) :=
  ((s.mapOf tbl).foldl (fun (a : List (Nat × StateMap × Nat) × Nat) m => (a.1 ++ [(m.1, m.2, a.2)], a.2 + 64 * m.2.rows)) ([], 0)).1

/-- A PARK begins (R342): the SVC asks for the rows of the target's state slot, for every entry of its table. -/
def State.askSlot (s : State) (q : Request) : State :=
  match q.slot with
  | none => s
  | some slot =>
    let (s1, id) := s.openRead (.park q.id) []
    (s1.mapAt q.table).foldl (fun s m => s.askEntry id q.table m.2.1 slot m.2.2) s1

/-- The segments of a park in what was read: the bytes, and whether some segment is lossy. -/
def State.parkSegments (s : State) (q : Request) (lossy : Bool) (x : SvcRead) : List Byte × Bool :=
  (s.mapAt q.table).foldl (fun a m =>
    let (seg, lo) := segmentOf m.1 m.2.1 lossy (readCells x.buf m.2.2 (64 * m.2.1.rows))
    (a.1 ++ seg, a.2 || lo)) ([], false)

/-- A park stops (R342): 0x6042, and the request is ACTIVE again at the next boundary. -/
def State.stopPark (s : State) (q : Request) : State :=
  (s.raiseSvc q.table 0x6042).modReq q.id fun q => { q with parkTo := none }

/-- PARK_COMPLETE (R342): once every row is in, the record is written with its header last, and the request ends COMPLETE
with END 2; or the park stops. With `giveUp` the SVC waits no longer for rows of other devices: they count as unreachable,
0x4002 (DESIGN CHOICE, log entry 21: no rule says how long it waits). -/
def execParkComplete (reqid : Nat) (giveUp : Bool) (s : State) : Res :=
  .next (
    match s.req? reqid with
    | none => s
    | some q =>
      match q.state, q.parkTo with
      | .parking, some (dst, cap, lossy) =>
        let x : SvcRead := (s.read? (.park reqid)).getD { id := s.svc.nextRead, key := .park reqid }
        if !x.rows.isEmpty || (!x.far.isEmpty && !giveUp) then s
        else
          let s0 := s.closeRead x.id
          if !x.far.isEmpty then (s0.raiseSvc q.table 0x4002).stopPark q
          else
            let (segs, lo) := if q.slot.isSome then s.parkSegments q lossy x else ([], false)
            if x.bad || decide (cap < 64 + segs.length) then s0.stopPark q
            else
              let held := q.slot.isSome
              let head := parkHeader q s.dck.jobId (if held then (s.mapOf q.table).length else 0) lo
                (if held then q.pos else 0) (if held then q.ready.getD 0xFFFFFFFF else 0xFFFFFFFF) segs
              let f := s.tableFn q.table
              let s1 := if segs.isEmpty then s0 else s0.hostStore f (dst + 64) segs
              (s1.hostStore f dst head).endRequest { q with lossy := q.lossy || lo } (if q.cancelled then 0x0011 else 0) 2
      | _, _ => s)

/-- The bytes of a restored segment (R344, R345). -/
def restoreBytes (m : StateMap) (codec : Nat) (l : List Byte) : List Byte :=
  if codec == 1 then zeroDecode l.length l else if codec == 2 then lossyDecode m l else l

/-- Restore one segment into a state slot (R255, R345): rows of this device go as class L rows under the handles of user 2,
those of another device as remote writes (R209), 0x4002 for one that has no route (R206). -/
def State.restoreSegment (s : State) (id slot : Nat) (g : Nat × Nat × List Byte) : State :=
  match s.dck.cfg.stateMap[g.1]? with
  | none => s
  | some m =>
    match s.slotRows m slot with
    | none => s
    | some (dev, lt, row) =>
      let data := (restoreBytes m g.2.1 g.2.2).take (64 * m.rows)
      if dev == s.selfDev then s.svcRows (s.physOf lt) restoreSrc id noDeadline (64 * row) data
      else if (s.routeUp dev).isNone then s.raiseSvc m.table 0x4002
      else
        let ps := pieces 4096 data.length data
        (List.range ps.length).foldl (fun s i => s.svcPacket pRwr 0 dev lt (64 * row + 4096 * i) (nth [] ps i)) s

/-- A RESUME takes a state slot and is RESTORING (R345): its segments go out. -/
def State.beginRestore (s : State) (q : Request) (slot : Nat) : State :=
  (q.restore.foldl (fun s g => s.restoreSegment q.id slot g) s).modReq q.id fun q => { q with state := .restoring, slot := some slot, restore := [] }

/-- RESTORE_COMPLETE (R345): the rows of the segments are in the request's slot, and it is ACTIVE. -/
def execRestoreComplete (reqid : Nat) (s : State) : Res :=
  .next (
    match s.req? reqid with
    | none => s
    | some q =>
      if q.state == .restoring && !s.svcBusy restoreSrc reqid then s.modReq reqid fun q => { q with state := .active } else s)

end Sys2Proof.Machine
end

