-- ==== Sys2Proof/Machine/DeckServe.lean ====
section
/-! DEFINITION. The SERVE and LEARN sections: what they configure, and the validator's checks of them (R326, R336, R343,
R354 to R358). -/

namespace Sys2Proof.Machine

/-! ### What a SERVE section holds (R326, R336, R343) -/

/-- The SERVE section's bytes, none unless they have the length that its counts give (R326, R422). -/
def DeckIn.serve (d : DeckIn) : List Byte :=
  let b := d.body tServe scopeAll
  if b.length != 0 && b.length == serveLen b then b else []
/-- The LEARN section's bytes, likewise (R354). -/
def DeckIn.learn (d : DeckIn) : List Byte :=
  let b := d.body tLearn scopeAll
  if b.length != 0 && b.length == learnLen b then b else []

/-- Offset of table record `t` in a SERVE section (R326). -/
def tableAt (t : Nat) : Nat := 16 + 64 * t
/-- Offset of state-map entry `i`. -/
def stateAt (i : Nat) : Nat := 1040 + 16 * i
/-- Offset of gather entry `i`. -/
def gatherAt (b : List Byte) (i : Nat) : Nat := stateAt (leAt b 4 2) + 16 * i
/-- Offset of the layout record of a tile. -/
def layoutAt (b : List Byte) (t : Nat) : Nat := gatherAt b (leAt b 6 2) + 8 * t

/-- A table record as its bytes give it (R326). -/
def rawTable (b : List Byte) (t : Nat) : ServeTable :=
  let f (o n : Nat) : Nat := leAt b (tableAt t + o) n
  { role := f 0 1, fair := f 1 1, step := f 2 2, lane0 := f 4 2, nlane := f 6 2, chunkMax := f 8 2, draftMax := f 10 1,
    nrej := f 11 1, probe := f 12 2, sslots := f 14 2, rquota := f 16 4, slot0 := f 20 2, nslot := f 22 2, period := f 24 4,
    kittyMax := f 28 4, inTile := f 32 1, resTile := f 33 1, mapTile := f 34 1, inRow := f 36 4, resRow := f 40 4,
    mapRow := f 44 4, idone := f 48 2, rbeat := f 50 2 }
/-- A table record with its zeros that stand for a value (R326). -/
def serveTableOf (b : List Byte) (t : Nat) : ServeTable :=
  let r := rawTable b t
  { r with nrej := if r.nrej == 0 then 4 else r.nrej, probe := if r.probe == 0 then 16 else r.probe }
/-- State-map entries (R343). -/
def stateMapOf (b : List Byte) : List StateMap :=
  (List.range (leAt b 4 2)).map fun i =>
    let o := stateAt i
    { table := bits (leAt b o 1) 0 4, lossy := bit (leAt b o 1) 4, bf16 := leAt b (o + 1) 1 == 1, rows := leAt b (o + 4) 4,
      grow := bits (leAt b (o + 8) 8) 0 35 }
/-- Gather entries (R336). -/
def gathersOf (b : List Byte) : List GatherCfg :=
  (List.range (leAt b 6 2)).map fun i =>
    let e := leAt b (gatherAt b i) 16
    { ltile := bits e 0 8, j := bits e 8 8, lanef := bits e 16 16, nl := bits e 32 8, dest := bits e 40 10, list := bits e 50 12,
      ubase := bits e 62 12, start := bits e 74 16, done := bits e 90 16 }
/-- Adapter-layout record of a tile: ADBASE, SROWS, CFMT (R336). -/
def layoutOf (b : List Byte) (t : Nat) : Nat × Nat × Nat :=
  if b.isEmpty || decide (191 < t) then (0, 0, 0)
  else
    let e := leAt b (layoutAt b t) 8
    (bits e 0 17, bits e 17 15, bits e 32 4)

/-- Adapter slots that exist: one past the highest slot of any ADMIT table's range (R336). -/
def slotCount (b : List Byte) : Nat :=
  (List.range 16).foldl (fun n t =>
    let r := rawTable b t
    if r.role == 1 && decide (0 < r.nslot) then max n (r.slot0 + r.nslot) else n) 0
/-- Rows of a tile that a table record's areas take: first row, rows (R327, R328, R329). -/
def laneAreas (r : ServeTable) (t : Nat) : List (Nat × Nat) :=
  (if r.role == 1 && r.inTile == t then [(r.inRow, ceilDiv r.nlane 2)] else []) ++
  (if r.role == 1 && r.resTile == t then [(r.resRow, r.nlane)] else []) ++
  (if r.role == 2 && r.mapTile == t then [(r.mapRow, ceilDiv r.nlane 32)] else [])
/-- Rows of a tile of this device that a state-map entry takes (R343). -/
def DeckIn.stateArea (d : DeckIn) (b : List Byte) (m : StateMap) (t : Nat) : List (Nat × Nat) :=
  if bits m.grow 25 10 == d.devIndex && bits m.grow 17 8 == t then [(bits m.grow 0 17, (rawTable b m.table).sslots * m.rows)] else []
/-- Rows of a tile that its adapter layout takes (R336). -/
def layoutArea (b : List Byte) (t : Nat) : Nat × Nat :=
  let (base, srows, _) := layoutOf b t
  (base, slotCount b * srows)

/-! ### R326 -/

/-- A field of a serving table's record lies outside its range (R326). A record of ROLE 0 serves nothing, so only its
ROLE and FAIR are read (log entry 31). -/
def DeckIn.tableRange (d : DeckIn) (r : ServeTable) : Bool :=
  let area (t row n : Nat) : Bool := !d.hasTile t || decide (99328 < row + n)
  decide (2 < r.role) || decide (2 < r.fair) ||
  (r.role != 0 &&
    (decide (1024 < r.step) || (r.role == 1 && r.step == 0) || decide (4096 < r.nlane) || decide (65536 < r.lane0 + r.nlane) ||
      (decide (0 < r.nlane) && (r.chunkMax == 0 || decide (r.nlane < r.chunkMax))) || decide (8 < r.draftMax) ||
      decide (15 < r.nrej) || decide (65536 < r.rquota) || decide (r.rquota < r.sslots) || decide (4096 < r.nslot) ||
      decide (4096 < r.slot0 + r.nslot) || decide (2 ^ 24 < r.period) || (r.fair != 1 && r.period == 0) ||
      (r.role == 1 && (area r.inTile r.inRow (ceilDiv r.nlane 2) || area r.resTile r.resRow r.nlane)) ||
      (r.role == 2 && area r.mapTile r.mapRow (ceilDiv r.nlane 32))))
/-- The beats of a serving table's record (R326). -/
def DeckIn.tableBeats (d : DeckIn) (r : ServeTable) : Bool :=
  r.role != 0 && (decide (r.idone < ceilDiv r.nlane 4 + 24) || decide (r.rbeat ≤ r.idone) ||
    decide (2 ^ d.k - 1 < r.rbeat + ceilDiv r.nlane 2 + 24))
/-- R326: offset of the header, or of the first table record at fault. -/
def DeckIn.serveBad (d : DeckIn) : Option Fail :=
  let b := d.serve
  let base := d.base tServe scopeAll
  let vocab := leAt b 0 4
  let rec_ (t : Nat) : ServeTable := rawTable b t
  let clash (t u : Nat) : Bool :=
    let x := rec_ t
    let y := rec_ u
    x.role != 0 && y.role != 0 && (overlaps x.lane0 x.nlane y.lane0 y.nlane ||
      (x.role == 1 && y.role == 1 && overlaps x.slot0 x.nslot y.slot0 y.nslot))
  let quota (t : Nat) : Nat := (List.range (t + 1)).foldl (fun n u => n + (if (rec_ u).role == 0 then 0 else (rec_ u).rquota)) 0
  if b.isEmpty then none
  else if vocab == 0 || decide (2 ^ 31 < vocab) then some (0x1060, base)
  else ((List.range 16).find? fun t => (List.range t).any (clash t) || decide (65536 < quota t) || d.tableBeats (rec_ t) ||
    d.tableRange (rec_ t)).map fun t => (0x1060, base + tableAt t)

/-! ### R336 -/

/-- R336, 0x1062: the adapter layout. A record with SROWS 0 holds nothing (log entry 31). -/
def DeckIn.layoutBad (d : DeckIn) : Option Fail :=
  let b := d.serve
  let base := d.base tServe scopeAll
  let n := slotCount b
  let bytes (t : Nat) : Nat := (List.range (t + 1)).foldl (fun a u => a + n * (layoutOf b u).2.1 * 64) 0
  let others (t : Nat) : List (Nat × Nat) :=
    ((List.range 16).flatMap fun u => laneAreas (rawTable b u) t) ++ (stateMapOf b).flatMap fun m => d.stateArea b m t
  if b.isEmpty then none
  else ((List.range 192).find? fun t =>
    let (_, srows, cfmt) := layoutOf b t
    let (first, rows) := layoutArea b t
    decide (0 < srows) && (decide (99328 < first + rows) || ((others t).any fun a => overlaps first rows a.1 a.2) ||
      decide (96 * 2 ^ 20 < bytes t) || !(cfmt == 1 || cfmt == 3 || cfmt == 4))).map fun t => (0x1062, base + layoutAt b t)

/-- R336, 0x1063: the gather entries. -/
def DeckIn.gatherBad (d : DeckIn) : Option Fail :=
  let b := d.serve
  let base := d.base tServe scopeAll
  if b.isEmpty then none
  else ((gathersOf b).zipIdx.find? fun x =>
    let g := x.1
    let (_, srows, cfmt) := layoutOf b g.ltile
    let c := chunkRows cfmt
    decide (g.done < g.start + ceilDiv (g.nl * c) 2 + 24) || decide (2 ^ d.k ≤ g.done) || decide (1024 < g.dest + g.nl * c) ||
      decide (65536 < 16 * g.list + 16 * g.nl) || decide (srows ≤ g.j * c) || decide (128 < g.nl) || !d.hasTile g.ltile).map
        fun x => (0x1063, base + gatherAt b x.2)

/-! ### R343 -/

/-- R343. -/
def DeckIn.stateMapBad (d : DeckIn) : Option Fail :=
  let b := d.serve
  let base := d.base tServe scopeAll
  let l := stateMapOf b
  let span (m : StateMap) : Nat × Nat := (bits m.grow 0 17, (rawTable b m.table).sslots * m.rows)
  (l.zipIdx.find? fun x =>
    let m := x.1
    !d.hasTile (bits m.grow 17 8) || decide (d.devices ≤ bits m.grow 25 10) ||
      m.rows == 0 || decide (99328 < m.rows) || decide (99328 < (span m).1 + (span m).2) ||
      (l.take x.2).any fun y => bits y.grow 17 18 == bits m.grow 17 18 &&
        overlaps (span m).1 (span m).2 (span y).1 (span y).2).map fun x => (0x1061, base + stateAt x.2)

/-! ### R354 to R358 -/

/-- Offset of adapter record `i` in a LEARN section. -/
def adapterAt (i : Nat) : Nat := 16 + 64 * i
/-- Offset of area record `i`. -/
def areaAt (b : List Byte) (i : Nat) : Nat := adapterAt (leAt b 0 2) + 16 * i
/-- Adapter records (R355). -/
def learnRecsOf (b : List Byte) : List LearnRec :=
  (List.range (leAt b 0 2)).map fun i =>
    let f (o n : Nat) : Nat := leAt b (adapterAt i + o) n
    { adnum := f 0 2, ltable := bits (f 2 1) 0 4, atable := bits (f 3 1) 0 4, slotA := f 4 2, slotB := f 6 2, grantRow := f 8 8,
      pubRow := f 16 8, ncontrib := f 24 2, rank := f 26 1 }
/-- An area record (R356). -/
structure Area where
  kind : Nat
  ltile : Nat
  first : Nat
  count : Nat
  deriving DecidableEq, Repr
/-- Area records (R356). -/
def areasOf (b : List Byte) : List Area :=
  (List.range (leAt b 2 2)).map fun i =>
    let f (o n : Nat) : Nat := leAt b (areaAt b i + o) n
    { kind := f 0 1, ltile := f 1 1, first := f 4 4, count := f 8 4 }

/-- A global row that names a mapped row of this device (R355, R357). -/
def DeckIn.ownRow (d : DeckIn) (g : Nat) : Bool :=
  decide (g < 2 ^ 35) && bits g 25 10 == d.devIndex && d.hasTile (bits g 17 8) && decide (bits g 0 17 < 99328)
/-- An adapter record against the section's earlier ones (R357). -/
def DeckIn.adapterBad (d : DeckIn) (earlier : List LearnRec) (r : LearnRec) : Bool :=
  let t := rawTable d.serve r.atable
  let inSlots (s : Nat) : Bool := decide (t.slot0 ≤ s) && decide (s < t.slot0 + t.nslot)
  decide (4095 < r.adnum) || r.slotA == r.slotB || r.ncontrib == 0 || decide (r.rank < 8) || decide (64 < r.rank) || r.rank % 8 != 0 ||
    d.serve.isEmpty || t.role != 1 || !inSlots r.slotA || !inSlots r.slotB || (earlier.any (·.adnum == r.adnum)) ||
    !d.ownRow r.grantRow || !d.ownRow r.pubRow ||
    (earlier.any fun q => [q.grantRow, q.pubRow].any fun g => g == r.grantRow || g == r.pubRow)
/-- Rows of a tile that a RETAIN area must leave alone (R357): rings, state-map slots, the adapter layout. -/
def DeckIn.servingRows (d : DeckIn) (t : Nat) : List (Nat × Nat) :=
  let b := d.serve
  let ring (x : Nat × Nat) : Option (Nat × Nat) :=
    if bit x.2 31 then some ((ringSpan x).1 / 64, ceilDiv (ringSpan x).2 64) else none
  ((ringImages (d.body tRing t)).filterMap ring) ++ ((stateMapOf b).flatMap fun m => d.stateArea b m t) ++ [layoutArea b t]
/-- An area record against the others (R357). -/
def DeckIn.areaBad (d : DeckIn) (l : List Area) (a : Area) (i : Nat) : Bool :=
  let size := if a.kind == 2 then 256 else 99328
  let meets (x : Area) : Bool := x.ltile == a.ltile && overlaps a.first a.count x.first x.count
  decide (2 < a.kind) || !d.hasTile a.ltile || decide (size ≤ a.first) || decide (size < a.count) ||
    (l.zipIdx.any fun x => (decide (x.2 < i) && x.1.kind == a.kind && meets x.1) ||
      (a.kind == 0 && x.1.kind == 1 && meets x.1)) ||
    (a.kind == 0 && (d.servingRows a.ltile).any fun r => overlaps a.first a.count r.1 r.2)
/-- R357. -/
def DeckIn.learnBad (d : DeckIn) : Option Fail :=
  let b := d.learn
  let base := d.base tLearn scopeAll
  let recs := learnRecsOf b
  let areas := areasOf b
  if b.isEmpty then none
  else if decide (256 < leAt b 0 2) || decide (4096 < leAt b 2 2) then some (0x1064, base)
  else match recs.zipIdx.find? fun x => d.adapterBad (recs.take x.2) x.1 with
    | some x => some (0x1064, base + adapterAt x.2)
    | none => (areas.zipIdx.find? fun x => d.areaBad areas x.1 x.2).map fun x => (0x1064, base + areaAt b x.2)

/-- A tile's rows of one kind that the deck declares (R356). -/
def DeckIn.areaRows (d : DeckIn) (kind t : Nat) : List (Nat × Nat) :=
  ((areasOf d.learn).filter fun a => a.kind == kind && a.ltile == t).map fun a => (a.first, a.count)
/-- Rows at byte spans. -/
def rowsOfBytes (first n : Nat) : Nat × Nat := if n == 0 then (0, 0) else (first / 64, (first + n - 1) / 64 - first / 64 + 1)
/-- A static RANGE entry's rows (R187). -/
def DeckIn.staticRange (d : DeckIn) (t i : Nat) : List (Nat × Nat × Nat) :=
  let e := d.odt t i
  if odtKind e == 1 && !(rangeE e).ien then [(t, (rangeE e).row, (rangeE e).nrows)] else []
/-- The row of a FLAG entry's word, on this device. -/
def DeckIn.flagRow (d : DeckIn) (t i : Nat) : List (Nat × Nat × Nat) :=
  let w := 4 * (flagE (d.odt t i)).gword
  if odtKind (d.odt t i) == 4 && bits w 31 10 == d.devIndex then [(bits w 23 8, bits w 6 17, 1)] else []
/-- The rows of the completion flags that a bundle's operations write (R207). -/
def DeckIn.flagWrites (d : DeckIn) (t w : Nat) : List (Nat × Nat × Nat) :=
  let x := slotX w
  let m := slotM w
  (if slotCF x && decide (1 ≤ slotOp x) && decide (slotOp x ≤ 9) then d.flagRow t (flagxOf (d.odt t (slotA x))) else []) ++
  (if slotCF m && decide (5 ≤ slotOp m) && decide (slotOp m ≤ 7) then d.flagRow t (flagxOf (d.odt t (slotA m))) else [])
/-- Memory rows that a slot-X operation writes by a static range on this device: tile, first row, rows (R202, R210, R358). -/
def DeckIn.xWrites (d : DeckIn) (t x : Nat) : List (Nat × Nat × Nat) :=
  let a := d.odt t (slotA x)
  match slotOp x with
  | 0x01 | 0x02 => d.staticRange t (slotA x)
  | 0x06 => (d.staticRange t (slotA x)).map fun r => (r.1, r.2.1, d.entryRows t (bits x 8 4) r.2.2)
  | 0x04 | 0x09 => d.staticRange t (slotB x)
  | 0x03 =>
    let g := globalE a
    if odtKind a == 2 && !g.ien && bits g.grow 25 10 == d.devIndex then [(bits g.grow 17 8, bits g.grow 0 17, g.nrows)] else []
  | 0x0a => d.flagRow t (slotA x)
  | _ => []
/-- Memory rows that a slot-M operation writes by a static range (R115, R235, R358). -/
def DeckIn.mWrites (d : DeckIn) (t w : Nat) : List (Nat × Nat × Nat) :=
  match d.mEntry t w 0x05 0xb, d.mEntry t w 0x07 0xd with
  | some e, _ =>
    let x := drainE e
    if x.ien then []
    else
      let rows := ceilDiv (x.count * 64 * codeBits x.dfmt / 8) 64
      (t, x.drow, rows) :: (if codeMx x.dfmt then [(t, x.scrow, ceilDiv (2 * x.count) 64)] else [])
  | none, some e =>
    let x := shufE e
    let z := 2 ^ x.esz
    if x.op == 0 then
      if x.nr == 0 then []
      else (List.range x.nc).map fun j =>
        let r := rowsOfBytes (64 * x.drow + 16 * x.dpitch * j) (z * x.nr)
        (t, r.1, r.2)
    else [(t, x.drow, x.n)]
  | none, none => []
/-- Rows that a dispatch's pip stores write where the validator traces the address: a store whose base is g0, which reads
0 (R121, log entry 31). -/
def DeckIn.pipWrites (d : DeckIn) (t w : Nat) : List (Nat × Nat × Nat) :=
  let b := d.body tPip t
  match d.dispatchOf t w with
  | none => []
  | some (entry, mask) =>
    (List.range (pipLen b / 4)).flatMap fun a =>
      if a < entry then []
      else (List.range 64).flatMap fun i =>
        let f := pipFields (imageWord b i a)
        let addr := if f.op == 0x15 then ofSigned 32 (toSigned 16 f.imm * i) else f.simm
        if bit mask i && f.a == 0 && (f.op == 0x14 || f.op == 0x15 || f.op == 0x16) && decide (addr < 2 ^ 23) then [(t, addr / 64, 1)]
        else []
/-- R358, 0x1066: a static write of a FROZEN row. -/
def DeckIn.frozenBad (d : DeckIn) (t : Nat) : Option Fail :=
  if (areasOf d.learn).any (·.kind == 1) then
    d.findBundle t 0x1066 fun _ _ w =>
      (d.xWrites t (slotX w) ++ d.mWrites t w ++ d.flagWrites t w ++ d.pipWrites t w).any fun r =>
        (d.areaRows 1 r.1).any fun a => overlaps r.2.1 r.2.2 a.1 a.2
  else none
/-- R358, 0x1065: a PASS or ACCM whose static target rows fall in a GRAD area without LACC; with a counter offset (CEN) they
are not static. Rows of the FP32 view are compared by their half-slots (R111). -/
def DeckIn.gradBad (d : DeckIn) (t : Nat) : Option Fail :=
  let areas := (d.areaRows 2 t).map fun a => (4 * a.1, 4 * a.2)
  let hit (first n : Nat) : Bool := areas.any fun a => overlaps first n a.1 a.2
  if areas.isEmpty then none
  else d.findBundle t 0x1065 fun _ _ w =>
    (!bit (slotM w) 7 && (d.passOf t w).any fun p => !p.strict && (d.passTargets t p).any fun x => hit x.1 x.2) ||
    ((d.mEntry t w 0x06 0xc).any fun e => (collE e).sfmt != 2 && decide (0 < (collE e).nsrc) && hit (collE e).acc (collE e).count)

/-- The checks of the SERVE and LEARN sections. -/
def DeckIn.serveChecks (d : DeckIn) : List DeckCheck :=
  let serve := (tServe, scopeAll)
  let learn := (tLearn, scopeAll)
  let rings := ((areasOf d.learn).filter (·.kind == 0)).map fun a => (tRing, a.ltile)
  [{ label := 326, reads := [serve], bad := d.serveBad },
   { label := 336, reads := [serve], bad := d.layoutBad },
   { label := 336, reads := [serve], bad := d.gatherBad },
   { label := 343, reads := [serve], bad := d.stateMapBad },
   { label := 357, reads := learn :: serve :: rings, bad := d.learnBad }] ++
  (d.scopes tProg).flatMap fun t =>
    let prog := [learn, (tProg, t), (tOdt, t)]
    [{ label := 358, reads := prog ++ [(tPip, t), (tRing, t)], bad := d.frozenBad t },
     { label := 358, reads := prog, bad := d.gradBad t }]

end Sys2Proof.Machine
end

