-- ==== Sys2Proof/Machine/Learning.lean ====
section
/-! DEFINITION. Grants and publication of adapter versions (R364 to R370). -/

namespace Sys2Proof.Machine

/-- Phase code of LEARN (R58). -/
def phaseLearn : Nat := 3

/-- An adapter record of the deck (R355). -/
def State.learnRec (s : State) (i : Nat) : Option LearnRec := s.dck.cfg.learn[i]?

/-- The slot that a grant of a record targets (R364): SLOTB while the directory holds SLOTA, else SLOTA. -/
def State.grantTarget (s : State) (r : LearnRec) : Nat :=
  let d := s.svc.ad r.adnum
  if d.valid && d.slot == r.slotA then r.slotB else r.slotA

/-- The version that a grant of a record carries (R364). -/
def State.grantVersion (s : State) (r : LearnRec) : Nat :=
  let d := s.svc.ad r.adnum
  if d.valid then d.version + 1 else 1

/-- The grant word's row (R365). -/
def grantRowBytes (slot version : Nat) : List Byte := leBytes 8 (slot % 4096 + 2 ^ 31 + version % 2 ^ 32 * 2 ^ 32) ++ rep 56 0#8

/-- Position and row of a global row of this device (R355). -/
def State.rowHere (s : State) (grow : Nat) : Option (Nat × Nat) :=
  (s.decodeGlobal (64 * grow)).map fun x => (s.physOf x.2.1, x.2.2 / 64)

/-- Make a grant (R364, R365): the slot is granted and its word written, unless a handle denies the row. -/
def State.makeGrant (s : State) (i : Nat) (r : LearnRec) : State :=
  let slot := s.grantTarget r
  let version := s.grantVersion r
  match s.rowHere r.grantRow with
  | none => s
  | some (p, row) =>
    let ok := s.mayAccess p 2 true row
    let s1 := s.svcRows p (svcKeep + 2 ^ 18 + i) 0 noDeadline (64 * row) (grantRowBytes slot version)
    if !ok then { s1 with svc := s1.svc.setRec i { s1.svc.rec_ i with slot, gstate := 0 } }
    else
      let v := s1.svc.setSlot slot { s1.svc.slot slot with state := 3, ad := r.adnum, version }
      { s1 with svc := v.setRec i { v.rec_ i with slot, gstate := 2, grantVer := version, overTold := false, sample := none } }

/-- Start a grant at the entry tick of LTABLE's switch into LEARN (R364). -/
def State.startGrant (s : State) (i : Nat) (r : LearnRec) : State :=
  let slot := s.grantTarget r
  match (s.svc.slot slot).state with
  | 0 => s.makeGrant i r
  | 2 => { s with svc := s.svc.setRec i { s.svc.rec_ i with slot, gstate := 1 } }
  | _ => s.raiseSvc r.ltable 0x7002

/-- A waiting grant is made once its target slot is free (R364); that is a choice of LTABLE (R378). -/
def State.retryGrant (s : State) (i : Nat) (r : LearnRec) : State :=
  if (s.svc.rec_ i).gstate == 1 && (s.table r.ltable).phase == phaseLearn && (s.svc.slot (s.grantTarget r)).state == 0 then
    let s1 := s.makeGrant i r
    if (s1.svc.rec_ i).gstate == 2 then s1.addChoice r.ltable 1 else s1
  else s

/-- GRANT_FROM_WAITING (R364): at a boundary. -/
def execGrantFromWaiting (idx : Nat) (s : State) : Res :=
  .next (
    match s.learnRec idx with
    | some r => if s.deckRuns && s.beat == 0 then s.retryGrant idx r else s
    | none => s)

/-- The SVC asks for PUBROW of a record whose grant stands (R367), once in a tick. A row that is denied or has no memory gives no
sample, and nothing is raised. -/
def State.askPub (s : State) (i : Nat) (r : LearnRec) : State :=
  let x := s.svc.rec_ i
  match s.rowHere r.pubRow with
  | none => s
  | some (p, row) =>
    if s.deckRuns && x.gstate == 2 && !x.asked then
      let (s1, id) := { s with svc := s.svc.setRec i { x with asked := true } }.openRead (.pub i) []
      s1.askSvcRows id p row 1 0 true
    else s
/-- PUBROW has been sampled (R367), or the tick ends. -/
def State.takePub (s : State) (i : Nat) : State :=
  match s.read? (.pub i) with
  | none => s
  | some x0 =>
    let s1 := s.forceRead x0.id
    let x := (s1.read? (.pub i)).getD x0
    let y := s1.svc.rec_ i
    { s1 with svc := s1.svc.setRec i { y with sample := if x.bad then none else some (readCells x.buf 0 64) } }.closeRead x0.id

/-- The fabric beat of a tick in which publications are sampled (R367). -/
def State.pubBeat (s : State) : Nat := s.tickLen - 64
/-- Records with their indexes. -/
def State.learnRecs (s : State) : List (Nat × LearnRec) := (List.range s.dck.cfg.learn.length).zip s.dck.cfg.learn
/-- At fabric beat 2^k - 64 of every tick the SVC samples PUBROW of each record whose grant stands (R367). -/
def State.samplePubs (s : State) : State :=
  if s.beat = s.pubBeat then s.learnRecs.foldl (fun s r => s.askPub r.1 r.2) s else s

/-- PUBLICATION_SAMPLE (R367): in fabric beat 2^k - 64 of a tick, before that beat's work samples the records that are left. -/
def execPublicationSample (idx : Nat) (s : State) : Res :=
  .next (
    match s.learnRec idx with
    | none => s
    | some r => if s.beat = s.pubBeat then s.askPub idx r else s)

/-- Reads of the SVC that have all their rows are used: results (R330), lane maps (R329), publications (R367). A park's waits for
PARK_COMPLETE. -/
def State.takeReads (s : State) : State :=
  (s.svc.reads.filter fun x => x.rows.isEmpty && x.far.isEmpty).foldl (fun s x =>
    match x.key with
    | .results tbl => s.takeResults tbl s.tick
    | .lanes tbl => s.takeLanes tbl
    | .pub i => s.takePub i
    | .park _ => s) s

/-- The decision on one record's sample (R367); an acceptance is a choice of ATABLE (R378). A sample that the tick's end came
before is taken now. -/
def State.decide1 (s : State) (i : Nat) (r : LearnRec) : State :=
  let s := (s.askPub i r).takePub i
  let x := { s.svc.rec_ i with asked := false }
  let s0 := { s with svc := s.svc.setRec i { x with sample := none } }
  match x.gstate, x.sample with
  | 2, some row =>
    let same := leAt row 0 2 == r.adnum && bits (leAt row 4 4) 0 12 == x.slot && leAt row 8 4 == x.grantVer
    let count := leAt row 12 4
    if same && count == r.ncontrib then
      let d := s.svc.ad r.adnum
      let o := s.svc.slot d.slot
      let v := if d.valid then s0.svc.setSlot d.slot { o with state := if o.pins == 0 then 0 else 2 } else s0.svc
      let v := v.setSlot x.slot { v.slot x.slot with state := 1, ad := r.adnum, version := x.grantVer }
      let v := { v with dir := Map.set {} v.dir r.adnum { slot := x.slot, valid := true, version := x.grantVer } }
      let v := v.setRec i { x with gstate := 0, sample := none, version := x.grantVer,
                                   published := satTo (2 ^ 32 - 1) (x.published + 1), step := leAt row 16 4 }
      ({ s0 with svc := v }.addChoice r.atable 1).raise (srcTable r.ltable) 3 0x0013 0
        (r.adnum % 4096 + x.slot % 4096 * 2 ^ 12 + x.grantVer % 2 ^ 32 * 2 ^ 32)
    else if same && decide (r.ncontrib < count) && !x.overTold then
      { s0 with svc := s0.svc.setRec i { x with sample := none, overTold := true } }.raiseSvc r.ltable 0x7003
    else s0
  | _, _ => s0

/-- A grant that no acceptance ended is withdrawn (R368): its slot is free. -/
def State.withdraw (s : State) (i : Nat) : State :=
  let x := s.svc.rec_ i
  let v := if x.gstate == 2 then s.svc.setSlot x.slot { s.svc.slot x.slot with state := 0 } else s.svc
  { s with svc := v.setRec i { x with gstate := 0, sample := none } }

/-- Decisions at a boundary, between steps 3 and 4 of R331 (R368). -/
def State.decideAll (s : State) : State := s.learnRecs.foldl (fun s r => s.decide1 r.1 r.2) s

/-- Grants made and withdrawn at a boundary (R364, R368); `entered` lists the tables whose entry tick into LEARN begins. -/
def State.grantAll (s : State) (entered : List Nat) : State :=
  s.learnRecs.foldl (fun s r =>
    if (s.table r.2.ltable).phase != phaseLearn then s.withdraw r.1
    else if entered.contains r.2.ltable then s.startGrant r.1 r.2
    else s.retryGrant r.1 r.2) s

/-- An adapter number has a grant standing or waiting (R368). -/
def State.grantOpen (s : State) (ad : Nat) : Bool := s.learnRecs.any fun r => r.2.adnum == ad && (s.svc.rec_ r.1).gstate != 0

end Sys2Proof.Machine
end

