-- ==== Sys2Proof/Machine/Admission.lean ====
section
/-! DEFINITION. Serving (R317 to R350), second part: what the SVC does at a tick boundary (R331), in that order. -/

namespace Sys2Proof.Machine

/-! ### Step 1: results and finished requests (R330, R331, R341, R349) -/

/-- End one request whose results are in (R331): a deadline fault of the tick gives its code (R349); a cancelled request
whose last token came ends COMPLETE_BEFORE_CANCEL, and one without lanes in flight CANCELLED (R341). -/
def State.finishRequest (s : State) (id : Nat) : State :=
  match s.req? id with
  | none => s
  | some q =>
    let status : Option (Nat × Nat) :=
      if q.steps.any (·.read) then
        match (s.table q.table).dfault with
        | some c => some (c, endNone)
        | none => q.result
      else q.result
    let q := { q with steps := q.steps.filter (!·.read) }
    match status with
    | some (c, e) => s.endRequest q (if q.cancelled && c == 0 then 0x0011 else c) e
    | none =>
      if q.cancelled && q.steps.isEmpty && q.state != .parking then s.endRequest q 0x6001 endNone
      else s.modReq id fun _ => { q with state := if q.state == .parking && q.parkTo.isNone then .active else q.state }

/-- Step 1 of R331 at the boundary that begins tick `t`. Results that no RESULT_READ has asked for are read now. -/
def State.finishResults (s : State) (tbl t : Nat) : State :=
  let s := (s.askResults tbl (t - 1) []).takeResults tbl (t - 1)
  (s.reqsOf tbl).foldl (fun s q => s.finishRequest q.id) s

/-! ### Step 2: budget periods (R333) -/

/-- The refill of R333 for each customer of a table, in ascending order. -/
def State.refill (s : State) (tbl : Nat) : State :=
  let x := s.serveTable tbl
  let cs := (s.svc.custs.filter fun e => e.2.table == tbl).map (·.1)
  cs.foldl (fun s c =>
    let k := s.svc.cust c
    let tb := s.svc.table tbl
    let pos := (max k.balance 0).toNat
    let k' := { k with balance := (k.budget : Int) + min k.balance 0 }
    { s with svc := (s.svc.setTable tbl { tb with kitty := min (tb.kitty + pos) x.kittyMax }).setCust c k' }) s

/-- A boundary where the budget period of a table ends (R333), in every mode. -/
def State.periodEnds (s : State) (tbl t : Nat) : Bool :=
  let x := s.serveTable tbl
  x.role == 1 && x.period != 0 && t % x.period == 0 && (s.svc.table tbl).refilled != some t

/-- Apply a budget period once (R333). -/
def State.applyPeriod (s : State) (tbl t : Nat) : State :=
  if s.periodEnds tbl t then
    let s1 := s.refill tbl
    { s1 with svc := s1.svc.setTable tbl { s1.svc.table tbl with refilled := some t } }
  else s

/-- BUDGET_PERIOD_END (R333): at a boundary where tick mod PERIOD is 0, unless the boundary has applied it. -/
def execBudgetPeriodEnd (tbl : Nat) (s : State) : Res :=
  within tbl 16 (.next (if s.deckRuns && s.beat == 0 then s.applyPeriod tbl s.tick else s))

/-! ### Step 3: CANCEL, then PARK and BIND (R334, R341, R342) -/

/-- A CANCEL takes effect (R341). -/
def State.applyCancel (s : State) (tbl id : Nat) : State :=
  let s := s.addChoice tbl 1
  match s.reqsOf tbl |>.find? (·.id == id) with
  | none => s.raiseSvc tbl 0x6011
  | some q =>
    match q.state with
    | .parking => s.modReq id fun q => { q with cancelled := true }
    | .active => if q.steps.isEmpty then s.endRequest q 0x6001 endNone else s.modReq id fun q => { q with cancelled := true }
    | .queued | .restoring => s.endRequest q 0x6001 endNone

/-- A PARK is noted on its target (R342); a target that is gone makes it void. -/
def State.notePark (s : State) (tbl : Nat) (x : Desc) : State :=
  match s.reqsOf tbl |>.find? (·.id == x.id) with
  | some q =>
    if q.parkTo.isNone && q.state != .parking then
      s.modReq x.id fun q => { q with parkTo := some (x.src, x.plen, bit x.flags 0) }
    else s
  | none => s

/-- The PARKs of a table that take effect at this boundary (R342): their targets have no lanes in flight. A target
that is being restored parks once it is ACTIVE. -/
def State.applyParks (s : State) (tbl : Nat) : State :=
  (s.reqsOf tbl).foldl (fun s q =>
    if q.parkTo.isSome && q.steps.isEmpty && (q.state == .active || q.state == .queued) && !q.cancelled then
      ((s.addChoice tbl 1).askSlot q).modReq q.id fun q => { q with state := .parking }
    else s) s

/-- A BIND takes effect (R334): the slot lies in the range and is free, and the rank is 8 to 64 and a multiple of 8; an adapter
number with a grant standing or waiting is refused (R368). -/
def State.applyBind (s : State) (tbl : Nat) (x : Desc) : State :=
  let slot := x.plen % 4096
  let rank := x.maxNew % 128
  let ok := (s.serveTable tbl).hasSlot slot && (s.svc.slot slot).state == 0 && decide (8 ≤ rank && rank ≤ 64) &&
    rank % 8 == 0 && decide (x.adnum < 4096) && !s.grantOpen x.adnum
  if !ok then s.raiseSvc tbl 0x6044
  else
    let old := s.svc.ad x.adnum
    let version := if old.valid then old.version + 1 else 1
    let o := s.svc.slot old.slot
    let v := if old.valid then s.svc.setSlot old.slot { o with state := if o.pins == 0 then 0 else 2 } else s.svc
    let v := v.setSlot slot { (v.slot slot) with state := 1, ad := x.adnum, version }
    { s with svc := { v with dir := Map.set {} v.dir x.adnum { slot, valid := true, version } } }

/-- Step 3 of R331: descriptors taken in before this tick, in their order. -/
def State.applyActs (s : State) (tbl t : Nat) : State :=
  let mine := s.svc.acts.filter fun a => a.2.1 == tbl && decide (a.1 < t)
  let s := { s with svc := { s.svc with acts := s.svc.acts.filter fun a => !(a.2.1 == tbl && decide (a.1 < t)) } }
  let of (op : Nat) := (mine.map fun a => descOf a.2.2).filter (·.op == op)
  let s := (of 3).foldl (fun s x => s.applyCancel tbl x.id) s
  let s := (of 4).foldl (fun s x => s.notePark tbl x) s
  let s := s.applyParks tbl
  (of 6).foldl (fun s x => s.applyBind tbl x) s

/-! ### Step 4: phase effects (R348) -/

/-- At tick T of a GO that takes the table out of GEN or SCORE, its ACTIVE, PARKING and RESTORING requests end (R348). -/
def State.phaseEffects (s : State) (tbl t : Nat) : State :=
  let x := s.table tbl
  match x.switch with
  | some w =>
    if w.tick == t && (x.phase == 1 || x.phase == 2) && w.phase != x.phase then
      s.endAll (fun q => q.table == tbl && q.state != .queued) 0x6052
    else s
  | none => s

/-! ### Step 5: admission (R331 to R333, R335, R338) -/

/-- The key of order() (R332): intake order in BUDGET mode, else VT, customer, intake order. -/
def State.orderKey (s : State) (q : Request) : Nat × Nat × Nat :=
  if (s.serveTable q.table).fair == 0 then (0, 0, q.order) else ((s.svc.cust q.cust).vt, q.cust, q.order)

/-- First of order() (R331). -/
def State.firstOf (s : State) (l : List Request) : Option Request :=
  l.foldl (fun b q => match b with
    | none => some q
    | some x => if keyLt (s.orderKey q) (s.orderKey x) then some q else some x) none

/-- The lowest free state slot of a table (R331). -/
def State.freeSlot (s : State) (tbl : Nat) : Option Nat :=
  let used := (s.reqsOf tbl).filterMap (·.slot)
  (List.range (s.serveTable tbl).sslots).find? fun i => !used.contains i

/-- charge (R332, R333): VT and USED always; the kitty or the balance in BUDGET and CAPPED modes. A customer whose
WEIGHT was set to 0 meanwhile has no stated lane cost: its VT grows by a free value (log entry 26). -/
def State.charge (s : State) (tbl : Nat) (q : Request) (u : Nat) (kitty : Bool) : State :=
  let k := s.svc.cust q.cust
  let (s, cost) := if k.weight == 0 then let (s1, w) := s.drawFree; (s1, w.toNat) else (s, 2 ^ 20 / k.weight)
  let k := { k with vt := (k.vt + u * cost) % 2 ^ 64, used := satTo (2 ^ 32 - 1) (k.used + u) }
  let tb := { s.svc.table tbl with vlast := k.vt }
  let (k, tb) :=
    if (s.serveTable tbl).fair == 1 then (k, tb)
    else if kitty then (k, { tb with kitty := tb.kitty - u })
    else ({ k with balance := k.balance - (u : Int) }, tb)
  { s with svc := (s.svc.setCust q.cust k).setTable tbl tb }

/-- The running admission of one table: the state, the next lane, and the input records placed. -/
structure Placing where
  s : State
  lane : Nat
  recs : List (Nat × List Byte)
  deriving DecidableEq, Repr

/-- FLAGS of an input record (R327, R331): of place `i` of `m` tokens. -/
def laneFlags (q : Request) (gen ends : Bool) (i m : Nat) : Nat :=
  let last := ends && i + 1 == m
  1 + b2n (gen || last) * 2 + b2n q.pin.isSome * 4 + b2n (gen && i != 0) * 8 + b2n (q.isScore && last) * 16 +
    b2n (q.pos + i == 0) * 32

/-- An input record (R327). -/
def inputRecord (q : Request) (gen ends : Bool) (tok i m : Nat) : List Byte :=
  leBytes 4 tok ++ leBytes 4 (q.pos + i) ++ leBytes 8 q.seed ++ leBytes 4 q.temp ++ leBytes 2 q.topk ++
  leBytes 2 (q.slot.getD 0) ++ leBytes 2 (((q.pin.map (·.1)).getD 0) % 4096) ++ leBytes 1 (laneFlags q gen ends i m) ++
  leBytes 1 q.accept ++ leBytes 4 0

/-- place (R331): put tokens of a request on lanes from the next one; `n` lanes are taken. -/
def Placing.place (a : Placing) (tbl t n : Nat) (q : Request) (toks : List Nat) (gen ends : Bool) : Placing :=
  let m := toks.length
  let lane0 := (a.s.serveTable tbl).lane0
  let state : Lane := { full := true, adapter := q.pin.isSome, aslot := (q.pin.map (·.1)).getD 0 }
  let lanes := (List.range m).foldl (fun l i => Map.set {} l (lane0 + a.lane + i) state) a.s.svc.lanes
  let recs := (List.range m).foldl (fun l i => Map.put l (a.lane + i) (inputRecord q gen ends (nth 0 toks i) i m)) a.recs
  let run : StepRun := { tick := t, lane := a.lane, n := m, tokens := toks, pos := q.pos, gen, sampled := gen || ends, read := false }
  let q1 := { q with steps := q.steps ++ [run] }
  let q2 := if gen then { q1 with ready := none, drafts := [] } else { q1 with prompt := q.prompt.drop m, pos := q.pos + m }
  { s := { a.s with svc := { a.s.svc with lanes } }.modReq q.id fun _ => q2, lane := a.lane + n, recs }

/-- A request of a table waits for a generation step (R331). -/
def Request.genReady (q : Request) : Bool :=
  q.state == .active && q.ready.isSome && q.prompt.isEmpty && !q.cancelled && q.result.isNone && !q.steps.any (·.gen)

/-- Generation steps first, the trump rule (R331). -/
def Placing.admitGen (tbl t : Nat) : Nat → List Nat → Placing → Placing
  | 0, _, a => a
  | fuel + 1, ids, a =>
    let free := (a.s.serveTable tbl).nlane - a.lane
    match a.s.firstOf ((a.s.reqsOf tbl).filter fun q => ids.contains q.id) with
    | none => a
    | some q =>
      if free == 0 then a
      else
        let n := min (1 + q.dcur) free
        let toks := q.ready.getD 0 :: q.drafts.take (n - 1)
        let a := a.place tbl t n q toks true false
        Placing.admitGen tbl t fuel (ids.filter (· != q.id)) { a with s := a.s.charge tbl q n false }

/-- A request may draw on a pool (R331). -/
def State.eligible (s : State) (tbl : Nat) (q : Request) (kitty : Bool) : Bool :=
  if (s.serveTable tbl).fair == 1 then true
  else if kitty then decide (0 < (s.svc.table tbl).kitty)
  else decide (0 < (s.svc.cust q.cust).balance)

/-- What a pool still gives a request (R331), none for no bound. -/
def State.avail (s : State) (tbl : Nat) (q : Request) (kitty : Bool) : Option Nat :=
  if (s.serveTable tbl).fair == 1 then none
  else if kitty then some (s.svc.table tbl).kitty
  else some (s.svc.cust q.cust).balance.toNat

/-- A table takes another request into its lanes (R306): its queue has room for a terminal record for every request in flight,
plus 64. A request is in flight once it holds a state slot (DEDUCED, log entry 21). -/
def State.mayAdmit (s : State) (tbl : Nat) : Bool :=
  let q := s.queue (qKey 0 (srcTable tbl))
  decide (((s.reqsOf tbl).filter (·.slot.isSome)).length + 64 + q.recs.length + q.waiting.length ≤ queueMax)

/-- A request of the table's phase has prompt tokens to place in tick `t`, and a state slot held or free (R331). -/
def State.canChunk (s : State) (tbl t : Nat) (q : Request) : Bool :=
  !q.prompt.isEmpty && !q.cancelled && q.result.isNone && !q.steps.any (·.tick == t) && decide (q.intake < t) &&
    (q.state == .active || (q.state == .queued && !q.resume && s.mayAdmit tbl)) && (q.slot.isSome || (s.freeSlot tbl).isSome)

/-- Give a request its state slot and its pin at its first lane (R331, R335). -/
def State.seat (s : State) (tbl : Nat) (q : Request) : State × Request :=
  let q := { q with state := .active, slot := some (q.slot.getD ((s.freeSlot tbl).getD 0)) }
  match q.pin, q.ad with
  | none, some a =>
    let e := s.svc.ad a
    ({ s with svc := s.svc.pin e.slot }, { q with pin := some (e.slot, e.version) })
  | _, _ => (s, q)

/-- Prompt chunks from one pool (R331). A token at or above VOCAB ends its request at the chunk that holds it (R321). -/
def Placing.admitPool (tbl t : Nat) (kitty : Bool) : Nat → List Nat → Placing → Placing
  | 0, _, a => a
  | fuel + 1, ids, a =>
    let x := a.s.serveTable tbl
    let free := x.nlane - a.lane
    let cand := (a.s.reqsOf tbl).filter fun q => ids.contains q.id && a.s.canChunk tbl t q && a.s.eligible tbl q kitty
    match a.s.firstOf cand with
    | none => a
    | some q =>
      if free == 0 then a
      else
        let most := min (min q.prompt.length x.chunkMax) free
        let c := match a.s.avail tbl q kitty with
          | none => most
          | some v => min most v
        let toks := q.prompt.take c
        let rest := ids.filter (· != q.id)
        if toks.any fun w => decide (a.s.dck.cfg.vocab ≤ w) then
          Placing.admitPool tbl t kitty fuel rest { a with s := a.s.endRequest q 0x6005 endNone }
        else
          let (s1, q1) := a.s.seat tbl q
          let a := ({ a with s := s1 } : Placing).place tbl t c q1 toks false (c == q.prompt.length)
          Placing.admitPool tbl t kitty fuel rest { a with s := a.s.charge tbl q c kitty }

/-- A RESUME takes a state slot and is RESTORING (R345), in the table's order, before new lanes are filled. -/
def State.startRestores (tbl t : Nat) : Nat → State → State
  | 0, s => s
  | fuel + 1, s =>
    let waiting := (s.reqsOf tbl).filter fun q => q.state == .queued && q.resume && !q.cancelled && decide (q.intake < t)
    match s.firstOf waiting, s.freeSlot tbl with
    | some q, some slot => if s.mayAdmit tbl then State.startRestores tbl t fuel (s.beginRestore q slot) else s
    | _, _ => s

/-- Customers of the table's candidates at this boundary: those new to it start no earlier than VLAST (R332). -/
def State.wakeCustomers (s : State) (tbl : Nat) (l : List Request) : State :=
  let mine := s.svc.custs.filter fun e => e.2.table == tbl
  let vlast := (s.svc.table tbl).vlast
  mine.foldl (fun s e =>
    let has := l.any (·.cust == e.1)
    let k := e.2
    let k' := { k with hadCand := has, vt := if has && !k.hadCand then max k.vt vlast else k.vt }
    { s with svc := s.svc.setCust e.1 k' }) s

/-- The rebase of virtual time (R332). Customers that no register write has named belong to table 0 with VT 0. VLAST, the VT
of one of these customers, falls with it (DEDUCED, log entry 21); a table without customers has nothing to rebase. -/
def State.rebaseVt (s : State) (tbl : Nat) : State :=
  let mine := s.svc.custs.filter fun e => e.2.table == tbl
  if !mine.isEmpty && (tbl != 0 || s.svc.custs.length == 4096) && mine.all (fun e => decide (2 ^ 62 ≤ e.2.vt)) then
    let tb := s.svc.table tbl
    let s1 : State := { s with svc := s.svc.setTable tbl { tb with vlast := tb.vlast - 2 ^ 61 } }
    mine.foldl (fun s e => { s with svc := s.svc.setCust e.1 { e.2 with vt := e.2.vt - 2 ^ 61 } }) s1
  else s

/-- The phase in which a request is admitted (R331): GEN 1, SCORE 2. -/
def Request.phase (q : Request) : Nat := if q.isScore then 2 else 1

/-- Step 5 of R331: admission into the table's lanes for tick `t`, then the input records of every lane (R327, R330). -/
def State.admitRequests (s : State) (tbl t : Nat) : State :=
  let x := s.serveTable tbl
  let tb := s.table tbl
  let open_ := !tb.closing && (tb.phase == 1 || tb.phase == 2) && !tb.failed && !tb.recovering
  let mine (s : State) : List Request := (s.reqsOf tbl).filter fun q => open_ && q.phase == tb.phase
  let s := if open_ && tb.phase == 1 then State.startRestores tbl t (s.reqsOf tbl).length s else s
  let gen := (mine s).filter (·.genReady)
  let cand := (mine s).filter fun q => s.canChunk tbl t q && (s.eligible tbl q false || s.eligible tbl q true)
  let s := s.rebaseVt tbl
  let s := s.wakeCustomers tbl (gen ++ cand)
  let ids := (mine s).map (·.id)
  let a : Placing := { s, lane := 0, recs := [] }
  let a := Placing.admitGen tbl t gen.length (gen.map (·.id)) a
  let a := Placing.admitPool tbl t false ids.length ids a
  let a := if x.fair == 1 then a else Placing.admitPool tbl t true ids.length ids a
  let data := ((List.range x.nlane).map fun i =>
    let r := Map.get [] a.recs i
    if r.isEmpty then rep 32 0#8 else r).flatten
  if x.nlane == 0 then a.s else a.s.svcWrites (a.s.physOf x.inTile) (inputSrc tbl) 0 (64 * x.inRow) data

/-! ### The boundary (R319, R329, R331, R350) -/

/-- Register writes of customers take effect at the boundary (R350). -/
def Cust.settle (k : Cust) : Cust :=
  { k with weight := k.newWeight.getD k.weight, table := k.newTable.getD k.table, budget := k.newBudget.getD k.budget,
           newWeight := none, newTable := none, newBudget := none }

/-- Choices of the tick just ended: m - 1 for m intake sources of a table (R319). -/
def State.countSources (s : State) : State :=
  let s1 := s.svc.sources.foldl (fun s e => s.addChoice e.1 (e.2.length - 1)) s
  { s1 with svc := { s1.svc with sources := [] } }

/-- Fold over the ADMIT tables of a running deck in ascending order. -/
def State.eachAdmit (s : State) (f : State → Nat → State) : State :=
  if s.deckRuns then (List.range 16).foldl (fun s tbl => if (s.serveTable tbl).role == 1 then f s tbl else s) s else s

/-- The SVC's work at the boundary that begins tick `t` (R331, R368): steps 1 to 3 of every ADMIT table, the decisions
on publications, then grants, phase effects and admission. -/
def State.serveBoundary (s : State) (t : Nat) (entered : List Nat) : State :=
  let s := s.eachAdmit fun s tbl => ((s.finishResults tbl t).applyPeriod tbl t).applyActs tbl t
  let s := s.decideAll.grantAll entered
  s.eachAdmit fun s tbl => (s.phaseEffects tbl t).admitRequests tbl t

/-- Requests that the whole device, or a table, ends (R348, R349). -/
def State.endDevice (s : State) (code : Nat) : State := s.endAll (fun _ => true) code
def State.endTable (s : State) (tbl code : Nat) : State := s.endAll (fun q => q.table == tbl) code

/-- Gathers and input records of the tick that has ended are over. -/
def Tile.dropSvc (t : Tile) : Tile :=
  { t with rx := t.rx.filter fun x => decide (x.src < svcSrc), reqs := t.reqs.filter fun r => !r.use.ofTick,
           bank := t.bank.filter fun b => !b.use.ofTick }

/-- The SVC at the boundary that begins tick `t`. The lane maps of FOLLOW tables give their lanes (R329), and admission
the others. `entered` lists the tables whose entry tick into LEARN begins (R364). -/
def State.svcBoundary (s : State) (t : Nat) (entered : List Nat) : State :=
  let s := s.countSources.sampleRest
  let v := { s.svc with custs := s.svc.custs.map fun (e : Nat × Cust) => (e.1, e.2.settle), lanes := s.svc.nextLanes, nextLanes := [], mapsRead := [], gathering := [] }
  let s := { s with svc := v, tiles := s.tiles.map fun (e : Nat × Tile) => (e.1, e.2.dropSvc) }
  s.serveBoundary t entered

end Sys2Proof.Machine
end

