-- ==== Sys2Proof/Machine/Rcu.lean ====
section
/-! DEFINITION. The round counter's commands (R30 to R62): accesses to RCU.NOW and RCU.CONFIG, the sync exchange,
holdover, and the acceptance of phase switches. -/

namespace Sys2Proof.Machine

/-! ### RCU.NOW and RCU.CONFIG (R31, R35) -/

/-- Latch bits [63:32] of RCU.NOW, the round counter (R30, R31). -/
def State.latchNow (s : State) : State :=
  { s with rcu := { s.rcu with latch := BitVec.ofNat 32 (s.roundCounter / 2 ^ 32) } }

/-- What TICK_EXP shows (R35): k, in four bits; for k = 16 a value that is not stated (log entry 40). -/
def tickExp (k : Nat) : Nat := if k < 16 then k else 1 + Config.tickExp16 % 15

/-- RCU_NOW_LOW_WRITE (R31): bits [31:16] enter the write holding register. -/
def execRcuNowLowWrite (v : Word) (s : State) : Res :=
  .next { s with rcu := { s.rcu with hold := v.extractLsb' 16 16 } }

/-- A write of TICK (R31): it sets the count on a root that runs no deck. -/
def State.writeTick (s : State) (t : Nat) : State :=
  if s.rcu.role = 1 && s.noDeck then { s with rcu := { s.rcu with count := BitVec.ofNat 64 (t * s.tickLen) } } else s

/-- RCU_TICK_WRITE (R31): the low 16 bits of TICK come from the holding register, or from a 64-bit write. -/
def execRcuTickWrite (hi : Word) (lo : Option Word) (s : State) : Res :=
  let low := match lo with
    | some x => x.toNat / 2 ^ 16
    | none => s.rcu.hold.toNat
  .next (s.writeTick (hi.toNat * 2 ^ 16 + low))

/-- The state that a ROLE value gives (R35); the reserved value changes nothing (R12). -/
def roleState (role : Nat) (old : SyncState) : SyncState :=
  match role with
  | 0 => .free
  | 1 => .locked
  | 2 => .acquire
  | _ => old

/-- RCU_CONFIG_WRITE (R35): ignored while a deck runs; reserved values keep the field (R12). -/
def execRcuConfigWrite (v : Word) (s : State) : Res :=
  .next (
    if !s.noDeck then s
    else
      let x := v.toNat
      let role := bits x 4 2
      let depth := bits x 16 4
      let sl := bits x 20 3
      let r := s.rcu
      { s with rcu := { r with
          role := if role = 3 then r.role else role,
          parent := bits x 8 6,
          depth := if depth ≤ 8 then depth else r.depth,
          syncLog := if sl ≤ 4 then sl else r.syncLog,
          state := roleState role r.state,
          holdTicks := if role = 3 then r.holdTicks else 0,
          offset := if role = 2 || role = 3 then r.offset else 0,
          close := if role = 3 then r.close else 0,
          stepped := if role = 3 then r.stepped else false } })

/-! ### LOST (R43) -/

/-- The device enters LOST (R43): 0x5004, and every dealer stops at the next boundary. -/
def State.enterLost (s : State) : State :=
  if s.rcu.state = .lost then s
  else
    let s := { s with rcu := { s.rcu with state := .lost } }.raiseMgc 0x5004
    (List.range 16).foldl (fun s t => s.modTable t fun x => { x with stopping := true }) s

/-! ### The sync exchange (R36 to R42) -/

/-- Ticks of a sync period (R35). -/
def State.syncPeriod (s : State) : Nat := 2 ^ s.rcu.syncLog
/-- The count in sixteenths of a beat (R30). -/
def State.stamp16 (s : State) : Nat := s.now * 16 + s.rcu.frac.toNat
/-- Ports whose link is up. -/
def State.upPorts (s : State) : List Nat := (List.range 64).filter fun n => (s.port n).state = .up

/-- Is this the beat at which SYNC, or FOLLOW, leaves (The sync exchange)? -/
def State.syncBeat (s : State) (beat : Nat) : Bool :=
  (s.rcu.role = 1 || s.rcu.role = 2) && s.beat = beat && s.tick % s.syncPeriod = 0

/-- Send SYNC on one port (R37). -/
def State.sendSync (s : State) (n : Nat) : State :=
  let at_ := s.stamp16
  let f : SyncFlit :=
    { dev := s.lnk.dev, rootDev := s.rcu.rootDev, depth := s.rcu.depth, state := s.rcu.state.code, depart := at_ }
  ((s.modPort n fun x => { x with sentAt := at_ }).sendLink n pSync (syncBytes f) (.sync f)).emit (.sync n f)

/-- SYNC_SEND (R37): beat 64 of a sync tick, on every port that is up. A member with DEPTH 0 reports 0x5002 (R35). -/
def execSyncSend (s : State) : Res :=
  .next (
    if s.syncBeat 64 then
      let s1 := if s.rcu.role = 2 && s.rcu.depth = 0 && s.rcu.state = .acquire then s.raiseMgc 0x5002 else s
      s1.upPorts.foldl State.sendSync s1
    else s)

/-- Send FOLLOW on one port: the stamps of the peer's last SYNC (R37); nothing before one has arrived. -/
def State.sendFollow (s : State) (n : Nat) : State :=
  match (s.port n).gotSync with
  | some (y, at_) =>
    let f : FollowFlit := { peerDepart := y.depart, peerArrive := at_ }
    (s.sendLink n pFollow (followBytes f) (.follow f)).emit (.follow n f)
  | none => s

/-- FOLLOW_SEND (R37): beat 1,024 of the same tick, on every port that is up. -/
def execFollowSend (s : State) : Res :=
  .next (if s.syncBeat 1024 then s.upPorts.foldl State.sendFollow s else s)

/-- SYNC_RECEIVE (R36, R37): a SYNC that names another root is discarded with 0x5001; any other is kept with the stamp
of its arrival. A discarded SYNC leaves the port without one, so that the FOLLOW behind it completes nothing. A port that
is not up exchanges nothing (R283). A loopback port takes the flit that its fibre carries (R267). -/
def execSyncReceive (port : Nat) (f : SyncFlit) (arrive : Nat) (s : State) : Res :=
  within port 64 (.next (
    match s.arrives port Wire.sync? f with
    | (s, none) => s
    | (s, some f) =>
      if (s.port port).state ≠ .up then s
      else if f.rootDev ≠ s.rcu.rootDev then (s.modPort port fun x => { x with gotSync := none }).raiseMgc 0x5001
      else s.modPort port fun x => { x with gotSync := some (f, arrive) }))

/-- The computation of R37: delay and offset (this device minus the peer) in sixteenths. -/
def syncExchange (aSend bRecv bSend aRecv : Int) : Int × Int :=
  let fwd := bRecv - aSend
  let back := aRecv - bSend
  (Int.tdiv (fwd + back) 2, Int.tdiv (fwd - back) 2)

/-- E of a port's class (R47, R267). -/
def State.eq (s : State) (n : Nat) : Nat := if n < 48 then s.rcu.eqNear else s.rcu.eqFar

/-- A delay in sixteenths lies inside the window of R46; never when E is 0 (R48). -/
def inWindow (e d : Nat) : Bool := e != 0 && decide ((e : Int) - 512 ≤ d / 16) && decide (d ≤ (e - 8) * 16) && decide (8 ≤ e)

/-- INWIN of a port (R48). -/
def State.inWin (s : State) (n : Nat) : Bool :=
  let x := s.port n
  x.delayValid && inWindow (s.eq n) x.delay

/-- Keep a measured delay (R48); while a deck runs, a delay that leaves the window raises 0x5006 (R46). -/
def State.putDelay (s : State) (n : Nat) (d : Int) : State :=
  let v := min (max d 0).toNat 0xffff
  let e := s.eq n
  let out := e != 0 && !inWindow e v
  let told := (s.port n).outOfWin
  let s := s.modPort n fun x => { x with delay := v, delayValid := true, outOfWin := out }
  if s.deckRuns && out && !told then s.raiseMgc 0x5006 else s

/-- Trim the fabric clock after an exchange (R33): the control law is not stated, so the trim is a free value in range. -/
def State.retrim (s : State) : State :=
  let (s, w) := s.drawFree
  { s with rcu := { s.rcu with trim := (w.toNat % 200001 : Nat) - (100000 : Int) } }

/-- Step the count by -offset sixteenths (R38). -/
def State.stepCount (s : State) (offset : Int) : State :=
  let x := ((s.stamp16 : Int) - offset) % (2 ^ 68 : Int)
  { s with rcu := { s.rcu with count := BitVec.ofNat 64 (x.toNat / 16), frac := BitVec.ofNat 4 x.toNat } }

/-- A complete exchange with the parent (R38 to R42): `f` is the parent's SYNC, `offset` in sixteenths. In ACQUIRE an
exchange with a parent that is not LOCKED, or of another DEPTH, neither counts in the run of sixteen nor ends it (log
entry 39). -/
def State.parentExchange (s : State) (f : SyncFlit) (offset : Int) : State :=
  let s := { s with rcu := { s.rcu with offset := max (-0x7ff) (min 0x7ff offset), holdTicks := 0 } }
  match s.rcu.state with
  | .acquire =>
    if f.depth + 1 ≠ s.rcu.depth then
      if s.rcu.depthTold then s else { s with rcu := { s.rcu with depthTold := true } }.raiseMgc 0x5002
    else if f.state ≠ 2 then s
    else if !s.rcu.stepped then
      ({ s with rcu := { s.rcu with stepped := true, close := 0 } }.stepCount offset).retrim
    else
      let n := if offset.natAbs ≤ 4 then s.rcu.close + 1 else 0
      let s := { s with rcu := { s.rcu with close := n } }.retrim
      if 16 ≤ n then { s with rcu := { s.rcu with state := .locked } } else s
  | .locked =>
    if 16 < offset.natAbs then (s.raiseMgc 0x5005).enterLost
    else if 8 < offset.natAbs then s.retrim.raiseMgc 0x5005
    else s.retrim
  | .holdover =>
    if offset.natAbs ≤ 16 then { s with rcu := { s.rcu with state := .locked } }.retrim else s
  | _ => s

/-- FOLLOW_RECEIVE (R37): the exchange of a port is complete. Every port keeps its delay; the parent's gives the offset. A
SYNC kept from before a write of ROOT_DEV that names another root completes nothing (R36, R38). -/
def execFollowReceive (port : Nat) (f : FollowFlit) (s : State) : Res :=
  within port 64 (.next (
    match s.arrives port Wire.follow? f with
    | (s, none) => s
    | (s, some f) =>
      let x := s.port port
      match x.gotSync with
      | some (y, at_) =>
        if x.state ≠ .up || s.rcu.role = 0 || y.rootDev ≠ s.rcu.rootDev then s
        else
          let (d, o) := syncExchange y.depart at_ f.peerDepart f.peerArrive
          let s1 := s.putDelay port d
          if s.rcu.role = 2 && s.rcu.parent = port then s1.parentExchange y o else s1
      | none => s))

/-- HOLDOVER_ENTER (R42): two sync periods without an exchange; with HOLD_LIMIT 0 the first missed exchange gives LOST (R36).
That first one is missed once HOLD_TICKS is above one sync period (log entry 39). -/
def execHoldoverEnter (s : State) : Res :=
  .next (
    let r := s.rcu
    if r.role ≠ 2 || r.state ≠ .locked then s
    else if r.holdLimit = 0 then (if s.syncPeriod < r.holdTicks then s.enterLost else s)
    else if 2 * s.syncPeriod ≤ r.holdTicks then { s with rcu := { r with state := .holdover } }.raiseMgc 0x5003
    else s)

/-- HOLDOVER_EXPIRE (R42): HOLD_TICKS has reached HOLD_LIMIT. -/
def execHoldoverExpire (s : State) : Res :=
  .next (if s.rcu.state = .holdover && s.rcu.holdLimit ≤ s.rcu.holdTicks then s.enterLost else s)

/-! ### Phase switches (R58 to R61) -/

/-- Tables of a mask that a function may switch (R58). -/
def maskedTables (fn : Fn) (v : Nat) : List Nat :=
  (List.range 16).filter fun t => bit v t && (match fn with | .pf => true | .vf n => n == t)

/-- Store MASK and PHASE of a PSW_CTRL write (R58): a virtual function reaches only its own mask bit. -/
def State.pswFields (s : State) (fn : Fn) (v : Nat) : State :=
  let mask := match fn with
    | .pf => bits v 0 16
    | .vf n => if n < 16 then putBits s.rcu.pswMask n 1 (b2n (bit v n)) else s.rcu.pswMask
  { s with rcu := { s.rcu with pswMask := mask, pswPhase := bits v 16 2 } }

/-- The deck has programs of a section for a table (R59). -/
def State.hasSection (s : State) (tbl phase : Nat) : Bool :=
  phase == 0 || s.dck.cfg.progs.any fun p => p.table == tbl && p.section_ == phase

/-- The first check of R59 that a GO fails, 0 for none. -/
def State.pswCheck (s : State) (ts : List Nat) (phase : Nat) : Nat :=
  if s.dck.state ≠ .running then 0x5023
  else if ts.isEmpty then 0
  else if s.rcu.pswTick < s.tick + 2 then 0x5020
  else if ts.any fun t => (s.table t).switch.isSome then 0x5021
  else if ts.any fun t => (s.table t).failed || (s.table t).recovering then 0x5024
  else if ts.any fun t => !s.hasSection t phase then 0x5022
  else 0

/-- A GO (R59). -/
def State.pswGo (s : State) (fn : Fn) (v : Nat) : State :=
  let ts := maskedTables fn v
  let phase := bits v 16 2
  let code := s.pswCheck ts phase
  let s := { s with rcu := { s.rcu with pswStatus := code } }
  if code ≠ 0 then s
  else
    ts.foldl (fun s t => s.modTable t fun x =>
      { x with switch := some { tick := s.rcu.pswTick, phase }, closing := true }) s

/-- A CANCEL (R61). -/
def State.pswCancel (s : State) (fn : Fn) (v : Nat) : State :=
  if s.dck.state ≠ .running then { s with rcu := { s.rcu with pswStatus := 0x5023 } }
  else
    let ts := maskedTables fn v
    let late (t : Nat) : Bool := match (s.table t).switch with
      | some w => decide (w.tick < s.tick + 2)
      | none => false
    let s1 := ts.foldl (fun s' t =>
      if (s.table t).switch.isSome && !late t then
        s'.modTable t fun x => { x with switch := none, closing := false }
      else s') s
    { s1 with rcu := { s1.rcu with pswStatus := if ts.any late then 0x5020 else 0 } }

/-- PSW_GO (R59): a write with GO; with CANCEL as well it acts as CANCEL alone (R58). -/
def execPswGo (fn : Fn) (v : Word) (s : State) : Res :=
  let s1 := s.pswFields fn v.toNat
  .next (if bit v.toNat 30 then s1.pswCancel fn v.toNat else if bit v.toNat 31 then s1.pswGo fn v.toNat else s1)

/-- PSW_CANCEL (R61): a write with CANCEL. -/
def execPswCancel (fn : Fn) (v : Word) (s : State) : Res :=
  let s1 := s.pswFields fn v.toNat
  .next (if bit v.toNat 30 then s1.pswCancel fn v.toNat else s1)

end Sys2Proof.Machine
end

