-- ==== Sys2Proof/Machine/Integrity.lean ====
section
/-! DEFINITION. Trims, joker substitution, scan probes and the scrub (R20 to R24, R390 to R396). -/

namespace Sys2Proof.Machine

/-! ### Arrays as 32-bit words (R395) -/

/-- Replace a 32-bit word of a wider one. -/
def putWord (x w v : Nat) : Nat := putBits x (32 * w) 32 (v % 2 ^ 32)
/-- A 32-bit word of an array of a unit (R395): 0 program store, 1 ODT, 2 pip store of a position; 3 a port's send table
(words 0 to 8191), its receive table (8192 to 16383) and the route table (from 16384). -/
def State.arrayWord (s : State) (arr unit w : Nat) : Nat :=
  let t := s.tile unit
  match arr with
  | 0 => bits (Map.get 0#128 t.store (w / 4)).toNat (32 * (w % 4)) 32
  | 1 => bits (t.odtEntry (w / 4)) (32 * (w % 4)) 32
  | 2 => (Map.get 0#32 t.pips.istore w).toNat
  | _ =>
    if w < 8192 then bits (Map.get 0#64 (s.port unit).sendTbl (w / 2)).toNat (32 * (w % 2)) 32
    else if w < 16384 then bits (Map.get 0#64 (s.port unit).recvTbl (w / 2 - 4096)).toNat (32 * (w % 2)) 32
    else (Map.get 0#32 s.lnk.deckRoute (w - 16384)).toNat
/-- Replace a word of a map of wider entries. -/
def putEntryWord {n : Nat} (m : List (Nat × BitVec n)) (i w v : Nat) : List (Nat × BitVec n) :=
  Map.set 0#n m i (BitVec.ofNat n (putWord (Map.get 0#n m i).toNat w v))
/-- Replace a word of an array of a unit. -/
def State.putArrayWord (s : State) (arr unit w v : Nat) : State :=
  match arr with
  | 0 => s.modTile unit fun t => { t with store := putEntryWord t.store (w / 4) (w % 4) v }
  | 1 => s.modTile unit fun t => { t with odt := putEntryWord t.odt (w / 4) (w % 4) v }
  | 2 => s.modTile unit fun t => { t with pips := { t.pips with istore := putEntryWord t.pips.istore w 0 v } }
  | _ =>
    if w < 8192 then s.modPort unit fun x => { x with sendTbl := putEntryWord x.sendTbl (w / 2) (w % 2) v }
    else if w < 16384 then s.modPort unit fun x => { x with recvTbl := putEntryWord x.recvTbl (w / 2 - 4096) (w % 2) v }
    else { s with lnk := { s.lnk with deckRoute := putEntryWord s.lnk.deckRoute (w - 16384) 0 v } }

/-! ### Retirement (R20, R22) -/

/-- DETAIL of 0x8012 to 0x8014 (R397). -/
def ladderDetail (p step tick : Nat) : Nat := p % 256 + step % 256 * 2 ^ 8 + tick % 2 ^ 48 * 2 ^ 16

/-- Mark a position retired (R22). -/
def Table.retire (x : Table) (i : Nat) : Table := { x with retired := putBits x.retired i 1 1 }

/-- A position is retired and no joker takes its place: its table is in the failed state (R20, R390), and its dealers
stop at the next boundary (R28). -/
def State.retireFail (s : State) (p : Nat) : State :=
  let i := p % 13
  (s.modTable (p / 13) fun x =>
    let y := x.retire i
    { y with failed := true, stopping := true, recovering := false, subst := none,
             jokerState := if i == 12 then 2 else y.jokerState, jokerFor := if i == 12 then 0xF else y.jokerFor }).noticeMgc
    0x8014 (ladderDetail p 6 s.tick)

/-- The table fails with its seat kept (R391: the idle joker failed its probe). -/
def State.failTable (s : State) (tbl : Nat) : State :=
  s.modTable tbl fun x => { x with failed := true, stopping := true, recovering := false, subst := none }

/-- The idle joker retires (R391, R394). A substitution that waits for it or is mirrored by it ends, and its table fails
with the seat kept, as R391 says of a failed probe. -/
def State.retireJoker (s : State) (tbl : Nat) : State :=
  let s1 := s.modTable tbl fun x => { x.retire 12 with jokerState := 2 }
  if (s.table tbl).subst.isSome then s1.failTable tbl else s1

/-- Arrays of a position that is no longer scrubbed, or is written anew (R395). -/
def State.dropFlips (s : State) (p : Nat) : State :=
  { s with tly := { s.tly with flips := s.tly.flips.filter fun f => f.1 == 3 || f.2.1 != p } }

/-! ### Moving a seat to its joker (R391 to R393) -/

/-- Lines of 64 bytes that the copy carries after the rows (R391, log entry 22): accumulator store, program store, ODT, pip
instruction stores. -/
def accLines : Nat := 4096
def storeLines : Nat := 4096
def odtLines : Nat := 256
def pipLines : Nat := 8192
/-- Items of the copy (R391). -/
def copyItems : Nat := mappedRows + accLines + storeLines + odtLines + pipLines

/-- Entries of a map of a seat, in the joker's (R391). -/
def copyEntries {α : Type} [DecidableEq α] (d : α) (src dst : List (Nat × α)) (lo n : Nat) : List (Nat × α) :=
  (List.range n).foldl (fun m i => Map.set d m (lo + i) (Map.get d src (lo + i))) dst

/-- Line `i` of the stores other than the memory is copied from a position to another (R391): a line of the accumulator
store with its valid bit, four bundles, four ODT entries, or 16 pip instructions. -/
def State.copyLine (s : State) (p q i : Nat) : State :=
  let t := s.tile p
  if i < accLines then (s.writeAcc q (64 * i) (s.readAcc p (64 * i) 64)).setHalf q (i / 2) (s.halfValid p (i / 2))
  else if i < accLines + storeLines then
    s.modTile q fun u => { u with store := copyEntries 0#128 t.store u.store (4 * (i - accLines)) 4 }
  else if i < accLines + storeLines + odtLines then
    s.modTile q fun u => { u with odt := copyEntries 0#128 t.odt u.odt (4 * (i - accLines - storeLines)) 4 }
  else
    s.modTile q fun u => { u with pips := { u.pips with
      istore := copyEntries 0#32 t.pips.istore u.pips.istore (16 * (i - accLines - storeLines - odtLines)) 16 } }

/-- A seat's state as its joker starts with it (R392): every parameter-cache line is invalid. A capture stays with the
position that it was taken at. -/
def Tile.moved (t : Tile) : Tile := { t with pips := { t.pips with cache := [] }, capture := none }

/-- Memory and accumulator store of a position read zero. -/
def State.clearPos (s : State) (p : Nat) : State :=
  { s with mem := s.mem.filter fun e => e.1 / 2 ^ 23 != p, acc := s.acc.filter fun e => e.1 / 2 ^ 18 != p,
           accBad := s.accBad.filter fun e => e.1 / 2048 != p }

/-- The state of R392 moves to the joker, which has the seat's memory and stores from the copy and its mirror, and the seat
is retired (R391, R392). -/
def State.moveSeat (s : State) (tbl seat : Nat) : State :=
  let p := tbl * 13 + seat
  let q := tbl * 13 + 12
  let old := s.tile p
  let new := s.tile q
  let moved := { old.moved with
    store := new.store, odt := new.odt, pips := { old.moved.pips with istore := new.pips.istore } }
  (((s.setTile q moved).setTile p { capture := old.capture }).dropFlips p).clearPos p |>.modTable
    tbl fun x => { x.retire seat with jokerFor := seat, jokerState := 1, subst := none, recovering := false }

/-- DETAIL of a substitution notice (R309). -/
def substDetail (tbl seat tick : Nat) : Nat :=
  tbl + seat * 2 ^ 4 + seat * 2 ^ 8 + 12 * 2 ^ 12 + tick % 2 ^ 48 * 2 ^ 16

/-- The joker takes the seat at a boundary, and the notices are posted (R309, R392). -/
def State.substitute (s : State) (tbl seat : Nat) : State :=
  ((s.moveSeat tbl seat).raise (srcTable tbl) 3 0x0010 0 (substDetail tbl seat s.tick)).noticeMgc 0x8014
    (ladderDetail (tbl * 13 + seat) 6 s.tick)

/-- The MGC has copied every item of the seat, from an earlier tick on (R391, R393). -/
def Subst.ready (x : Subst) (tick : Nat) : Bool := x.mirror && decide (copyItems ≤ x.copied) && decide (x.since < tick)

/-- A planned substitution whose background copy has ended switches (R391, R392). -/
def State.switchSeat (s : State) (tbl : Nat) : State :=
  match (s.table tbl).subst with
  | some x => if !x.abrupt && x.ready s.tick then s.substitute tbl x.seat else s
  | none => s

/-- SUBSTITUTION_SWITCH (R392): at the first boundary after the background copy, unless the boundary itself has made the
switch, as its first action (R64). -/
def execSubstitutionSwitch (tbl : Nat) (s : State) : Res :=
  within tbl 16 (.next (if s.beat == 0 then s.switchSeat tbl else s))

/-- The mirror has written the whole of a row (R391): the copy passes over it. -/
def Subst.mirrored (x : Subst) (row : Nat) : Bool := (List.range 64).all (x.has row)
/-- A beat of the MGC's copy (R258, R391, R393): it asks for its next row, as a class H read at the seat, and the row is
then written, as class H, at the joker. One row of a table is on its way at a time; after the rows it carries a line of the
other stores in a beat (DESIGN CHOICE, log entry 22). -/
def State.copyRow (s : State) (tbl : Nat) : State :=
  match (s.table tbl).subst with
  | some x =>
    let next (s : State) : State := s.modTable tbl fun t => { t with subst := some { x with copied := x.copied + 1 } }
    if !x.mirror || x.asked || decide (copyItems ≤ x.copied) then s
    else if mappedRows ≤ x.copied then next (s.copyLine (tbl * 13 + x.pos) (tbl * 13 + 12) (x.copied - mappedRows))
    else if x.mirrored x.copied then next s
    else
      (s.modTable tbl fun t => { t with subst := some { x with asked := true } }).modTile (tbl * 13 + x.pos)
        (·.requestMgc x.copied s.age (.toCopy tbl))
  | none => s
/-- A beat of each table's copy. -/
def State.copyRows (s : State) : State := (s.tables.map (·.1)).foldl State.copyRow s

/-- SUBSTITUTION_COPY_TIMEOUT (R391): a copy that has not ended within 65,536 ticks goes to the abrupt path. -/
def execSubstitutionCopyTimeout (tbl : Nat) (s : State) : Res :=
  within tbl 16 (.next (
    match (s.table tbl).subst with
    | some x =>
      if x.mirror && !x.abrupt && decide (x.since + 65536 ≤ s.tick) then
        let s1 := s.modTable tbl fun t => { t with subst := none }
        { s1 with tly := { s1.tly with abrupt := s1.tly.abrupt ++ [tbl * 13 + x.pos] } }
      else s
    | none => s))

/-- 32-bit words of a tile's arrays that differ from what was written (R395): array, word. -/
def State.flipped (s : State) (p : Nat) : List (Nat × Nat) :=
  ((s.tly.flips.filter fun f => f.1 != 3 && f.2.1 == p).map fun f => (f.1, f.2.2.1)).eraseDups

/-- The item is one of a seat (R391, R392). -/
def seatItemOk : SeatItem → Bool
  | .row r => decide (r < mappedRows)
  | .accHalf i | .valid i => decide (i < 2048)
  | .programStore | .pipStore | .loops | .trackers => true
  | .odt i => decide (i < 1024)
  | .counter c => decide (c < 16)
  | .pipReg pip r => decide (pip < 64) && decide (r < 32)
  | .ring r => decide (r < 16)
  | .handle h => decide (h < 32)

/-- An item that the MGC could not read is zero at the joker, but for the bytes of a row that the writes of the recovery
have left there (R393). Pip register 0 stands for the condition bit P. -/
def State.zeroItem (s : State) (q : Nat) (x : Subst) : SeatItem → State
  | .row r => ((List.range 64).filter fun i => !x.has r i).foldl (fun s i => s.pokeBytes q (64 * r + i) [0#8]) s
  | .accHalf i => s.writeAcc q (128 * i) (List.replicate 128 0#8)
  | .valid i => s.setHalf q i false
  | .programStore => s.modTile q fun t => { t with store := [] }
  | .odt i => s.modTile q fun t => { t with odt := Map.set 0#128 t.odt i 0#128 }
  | .pipStore => s.modTile q fun t => { t with pips := { t.pips with istore := [] } }
  | .counter c => s.modTile q (·.setCounter c 0)
  | .pipReg pip 0 => s.modTile q fun t => { t with pips := { t.pips with p := Map.set false t.pips.p pip false } }
  | .pipReg pip r => s.modTile q fun t => { t with pips := t.pips.setReg pip r 0 }
  | .ring r => s.modTile q (·.setRing r {})
  | .handle h => s.modTile q fun t => { t with handles := Map.set 0#64 t.handles h 0#64 }
  | .loops => s.modTile q fun t => { t with run := none, next := 0, reps := [], decoded := [] }
  | .trackers => s.modTile q fun t => { t with ops := [] }

/-- First row of DETAIL of 0x8006 (R397). -/
def seatItemRow : SeatItem → Nat
  | .row r => r
  | _ => 0

/-- RECOVERY_COMPLETE (R393): at the first boundary after the recovery copy. What the MGC could not read is zero at the
joker, but for what the writes of the recovery have left there, each item with an 0x8006; so are array words whose parity
fails. The joker stands in, and the table is IDLE. -/
def execRecoveryComplete (tbl : Nat) (unread : List SeatItem) (s : State) : Res :=
  within tbl 16 (.next (
    match (s.table tbl).subst with
    | some x =>
      if s.beat == 0 && x.abrupt && (s.table tbl).recovering && x.ready s.tick then
        let q := tbl * 13 + 12
        let s1 := (unread.filter seatItemOk).foldl (fun t i => (t.zeroItem q x i).raiseMgc 0x8006 (seatItemRow i + 2 ^ 32))
          (s.substitute tbl x.seat)
        (s.flipped (tbl * 13 + x.seat)).foldl (fun t w => (t.putArrayWord w.1 q w.2 0).raiseMgc 0x8006 (2 ^ 32)) s1
      else s
    | none => s))

/-! ### Substitutions begin (R390, R391, R393) -/

/-- Put a probe behind those that run or wait (R394). -/
def State.queueProbe (s : State) (p : Nat) : State := { s with tly := { s.tly with probeQueue := s.tly.probeQueue ++ [p] } }

/-- The table's joker is idle (R390). One that already mirrors a seat, or waits for its probe to do so, is taken: when a second
seat must be retired then, the table fails and the pending substitution ends with it (DESIGN CHOICE, log entry 22). -/
def Table.jokerFree (x : Table) : Bool := x.jokerState == 0 && !bit x.retired 12 && x.subst.isNone

/-- A planned substitution begins with a probe of the idle joker (R391); without an idle joker the table fails. In a failed
table nothing more is attempted (R20, R22). -/
def State.planSubst (s : State) (p : Nat) : State :=
  let tbl := p / 13
  if (s.table tbl).failed then s else
  match s.posKind p with
  | .seat seat =>
    if (s.table tbl).jokerFree then
      (s.modTable tbl fun x => { x with subst := some { seat, pos := seat, abrupt := false, probed := false, since := s.tick, mirror := false } }).queueProbe
        (tbl * 13 + 12)
    else if (s.table tbl).subst.any (·.pos == seat) then s
    else s.retireFail p
  | .joker _ => s.retireFail p
  | .idleJoker => s.retireJoker tbl
  | _ => s

/-- An abrupt substitution takes effect at a boundary (R393): the table recovers, with the joker's memory zero but for what
the recovery writes there, or fails without an idle joker. In a failed table nothing more is attempted (R20, R22), and a
seat whose table recovers goes on as it does, so that no write at its joker is lost (R393). An idle
joker whose arrays fail takes no seat with it: it is retired, with no 0x8014 notice (DESIGN CHOICE, log entry 22). -/
def State.abruptSubst (s : State) (p : Nat) : State :=
  let tbl := p / 13
  if (s.table tbl).failed then s else
  match s.posKind p with
  | .seat seat =>
    let x := s.table tbl
    if x.recovering && x.subst.any fun y => y.seat == seat then s
    else if x.jokerState == 0 && !bit x.retired 12 && (x.subst.isNone || x.subst.any fun y => y.seat == seat) then
      (s.clearPos (tbl * 13 + 12)).modTable tbl fun x => { x with
        recovering := true, stopping := true,
        subst := some { seat, pos := seat, abrupt := true, probed := true, since := s.tick, mirror := true } }
    else s.retireFail p
  | .joker _ => s.retireFail p
  | .idleJoker => s.retireJoker tbl
  | _ => s

/-! ### The ladder (R390) -/

/-- The deck carries a table's variant for a clock (R55, R56). -/
def State.hasVariant (s : State) (tbl clock : Nat) : Bool := s.dck.cfg.progs.any fun p => p.table == tbl && p.clock == clock

/-- One step of the ladder for a suspect event of a position, at a boundary (R390). -/
def State.ladderStep (s : State) (p : Nat) : State :=
  let tbl := p / 13
  let n := Map.get 0 s.tly.ladder p + 1
  let setL (s : State) (k : Nat) : State := { s with tly := { s.tly with ladder := Map.set 0 s.tly.ladder p k } }
  let derate (k clock : Nat) : State :=
    if s.hasVariant tbl clock then
      ((setL s k).modTable tbl fun x => { x with newClock := some (max clock (x.newClock.getD x.clock)) }).noticeMgc 0x8013
        (ladderDetail p k s.tick)
    else (setL s 6).planSubst p
  if n ≤ 3 then
    let s1 := setL s n
    { s1 with tly := { s1.tly with trim := Map.set 0 s1.tly.trim p n } }.noticeMgc 0x8012 (ladderDetail p n s.tick)
  else if n == 4 then derate 4 (if s.grade = .a14 then 1 else 2)
  else if n == 5 && s.grade = .a14 then derate 5 2
  else (setL s 6).planSubst p

/-- The MGC's responses that take effect at a boundary (R390, R391, R393): abrupt substitutions, then the ladder, then
the mirrors of jokers that have passed their probe. -/
def State.respond (s : State) : State :=
  let hard := s.tly.abrupt
  let soft := s.tly.ordered
  let s1 := { s with tly := { s.tly with abrupt := [], ordered := [] } }
  let s2 := soft.foldl (fun s p => s.ladderStep p) (hard.foldl (fun s p => s.abruptSubst p) s1)
  let s2 := if soft.isEmpty then s2 else s2.saveCalib
  (List.range 16).foldl (fun s tbl =>
    match (s.table tbl).subst with
    | some x =>
      if x.probed && !x.mirror then
        s.modTable tbl fun t => { t with subst := some { x with mirror := true, since := s.tick } }
      else s
    | none => s) s2

/-- TRIM_DECAY (R390): a tile clear of events for 2^24 ticks while a deck runs loses one trim step. -/
def execTrimDecay (p : Nat) (s : State) : Res :=
  within p 208 (.next (
    let k := Map.get 0 s.tly.trim p
    if s.deckRuns && decide (0 < k) && decide (Map.get 0 s.tly.lastEvent p + 2 ^ 24 ≤ s.tick) then
      let l := Map.get 0 s.tly.ladder p
      { s with tly := { s.tly with
          trim := Map.set 0 s.tly.trim p (k - 1),
          ladder := if l ≤ 3 then Map.set 0 s.tly.ladder p (k - 1) else s.tly.ladder,
          lastEvent := Map.set 0 s.tly.lastEvent p s.tick } }.saveCalib
    else s))

/-! ### Scan probes (R394) -/

/-- A probe of a position is allowed (R394). -/
def State.mayProbe (s : State) (p : Nat) : Bool :=
  !s.deckRuns || match s.posKind p with
    | .idleJoker => true
    | .seat _ => (s.table (p / 13)).phase == 0
    | _ => false

/-- Write TLY.PROBE (R394): POS, then GO on it; a GO while a probe runs is ignored. -/
def State.writeProbe (s : State) (v : Nat) : State :=
  let pos := if bits v 0 8 < 208 then bits v 0 8 else s.tly.probePos
  let s1 := { s with tly := { s.tly with probePos := pos } }
  if !bit v 16 || !s.tly.probeQueue.isEmpty then s1
  else if s.mayProbe pos then s1.queueProbe pos
  else { s1 with tly := { s1.tly with probeStatus := 0x8016, probeFail := 0xFFFF } }

/-- PROBE_GO (R394). -/
def execProbeGo (v : Word) (s : State) : Res := .next (s.writeProbe v.toNat)

/-- A position failed its probe (R391, R394): it is retired with 0x8011, or a planned substitution replaces it. -/
def State.probeFailed (s : State) (p fail : Nat) : State :=
  let tbl := p / 13
  let s1 := s.raiseMgc 0x8011 (p + fail % 65536 * 2 ^ 16)
  match s.posKind p with
  | .idleJoker => s1.retireJoker tbl
  | .seat _ => s1.planSubst p
  | .joker _ => if (s.table tbl).failed then s1 else s1.retireFail p
  | _ => s1

/-- A substitution that waits for its joker's probe goes on (R391). -/
def State.probePassed (s : State) (p : Nat) : State :=
  if p % 13 == 12 then
    s.modTable (p / 13) fun t => { t with subst := t.subst.map fun x => { x with probed := true } }
  else s

/-- Scan blocks whose CRC fails in a probe (R405): those that it finds, and those of the flash that do not match. -/
def State.scanFails (s : State) (e : ProbeEnd) : List Nat :=
  (e.badBlocks ++ (s.mgc.flash.scanCrc.map (·.1)).filter s.mgc.flash.scanBad).eraseDups
/-- What a probe fails by (R389, R394, R405): a captured pattern that is stored, whose replay gives another result, or a scan
block; one whose CRC fails is skipped, so it fails no probe. -/
def State.probeVerdict (s : State) (e : ProbeEnd) : Option Nat :=
  e.fail.filter fun i =>
    if i < 0x100 then (s.mgc.flash.read (.pattern i)).isSome else !(s.scanFails e).any fun b => i == b + 0x100

/-- PROBE_COMPLETE (R394): the running probe ends, and the next one begins. Each scan block whose CRC fails raises 0x9004
(R405). -/
def execProbeComplete (e : ProbeEnd) (s : State) : Res :=
  .next (
    match s.tly.probeQueue with
    | [] => s
    | p :: rest =>
      let s1 := (s.scanFails e).foldl (fun s _ => s.raiseMgc 0x9004) s
      let res (st fi : Nat) : State := { s1 with tly := { s1.tly with probeQueue := rest, probeStatus := st, probeFail := fi } }
      match s.probeVerdict e with
      | some i => (res 0x8011 (i % 65536)).probeFailed p i
      | none => (res 0 0xFFFF).probePassed p)

/-- Idle jokers, by position. -/
def State.idleJokers (s : State) : List Nat :=
  ((List.range 16).map fun t => t * 13 + 12).filter fun p => s.posKind p == .idleJoker

/-- PROBE_PERIODIC (R394): every 24 hours the MGC probes every idle joker. -/
def execProbePeriodic (s : State) : Res := .next (s.idleJokers.foldl (fun s p => s.queueProbe p) s)

end Sys2Proof.Machine
end

