-- ==== Sys2Proof/Machine/Reset.lean ====
section
/-! DEFINITION. The reset levels (R314, R315), SR-IOV (R310), and what a deck's stores are (R294). -/

namespace Sys2Proof.Machine

/-! ### The deck's stores (R294) -/

/-- A tile without its deck's stores: programs, ODT, rings, handles and pip instructions (R294). -/
def Tile.clearStores (t : Tile) : Tile :=
  { t with store := [], ranges := [], odt := [], rings := [], handles := [], run := none, next := 0, reps := [], decoded := [],
           pips := { t.pips with istore := [], pc := 0, stack := [], run := none } }

/-- The stores that a deck wrote are cleared (R294), and DCK is in NONE. -/
def State.clearStores (s : State) : State :=
  { s with
    tiles := s.tiles.map fun (e : Nat × Tile) => (e.1, e.2.clearStores),
    ports := s.ports.map fun (e : Nat × Port) => (e.1, { e.2 with sendTbl := [], recvTbl := [], hold := [] }),
    lnk := { s.lnk with deckRoute := [], hasRoutes := false },
    rcu := { s.rcu with k := 12, eqNear := 0, eqFar := 0 },
    tly := { s.tly with flips := [] },
    dck := { s.dck with state := .none_, pass := 0, jobId := 0, load := none, start := none, stop := none, cfg := {} } }

/-- A DECK_LOAD in progress ends as a rejection does (R314). The code of its completion and of DCK.STATE.RESULT is not
stated beyond its class, DECK (R17): a free value (log entry 3). -/
def State.endLoad (s : State) : State :=
  if s.dck.state = .loading then
    let (s, w) := s.drawFree
    let code := 0x1001 + w.toNat % 0xFFF
    let s := s.clearStores
    let s := { s with dck := { s.dck with result := code } }
    runRings.foldl (fun s i => match (s.cr .pf i).run with
      | some c => if c.op == 2 && c.win == 0 then s.endRun .pf i code else s
      | none => s) s
  else s

/-! ### Function resets (R314) -/

/-- A function without its rings; commands in progress finish (R314). -/
def FnState.clear (x : FnState) : FnState :=
  { crs := (x.crs.filter fun e => e.2.run.isSome).map fun e => (e.1, { run := e.2.run }), rrs := [] }

/-- VF_FLR (R314). -/
def execVfFlr (n : Nat) (s : State) : Res := within n 16 (.next ((s.clearVectors (.vf n)).modFn (.vf n) (·.clear)))

/-- Every PCIe function (R299). -/
def allFns : List Fn := .pf :: (List.range 16).map .vf

/-- What PF FLR, hot reset and PERST# clear (R314): every function's rings and vectors, SR-IOV, the followers, and a
deck load in progress. A command that a follower runs can no longer be completed by it. -/
def State.functionReset (s : State) : State :=
  let s1 := { s with hif := { s.hif with
    fns := s.hif.fns.map fun (e : Nat × FnState) => (e.1, e.2.clear),
    msix := [], pba := [], sriov := false, folWin := 0, folTimeout := false, folDev := [], folValid := [] } }
  (allFns.foldl State.endForwarded s1).endLoad

/-- Configuration space is reset (R299, R314): the part of it that the model holds is SR-IOV enable and the power state. -/
def State.configReset (s : State) : State := { s.functionReset with hif := { s.functionReset.hif with pmState := 0 } }

/-- PCI device ID of a function (R299). -/
def State.deviceId (s : State) : Fn → Nat
  | .pf => match s.grade with | .a14 => 0xF192 | .a12 => 0xF176
  | .vf _ => 0xF1F0
/-- PCI class code (R299). -/
def classCode : Nat := 0x120000

/-- PF_FLR (R314). -/
def execPfFlr (s : State) : Res := .next s.functionReset
/-- HOT_RESET (R314). -/
def execHotReset (s : State) : Res := .next s.configReset
/-- PERST (R314). -/
def execPerst (s : State) : Res := .next s.configReset

/-- SR_IOV_ENABLE (R310): the vectors move between the physical and the virtual functions. Before the HIF is released
a configuration request gets Retry Status (R412). -/
def execSrIovEnable (on : Bool) (s : State) : Res :=
  .next (if s.hif.released then { s with hif := { s.hif with sriov := on } } else s)

/-! ### Device reset (R314, R315) -/

/-- A table as its seat map survives a reset (R22): a recovery that the reset cut short ends with the joker standing
in. -/
def Table.keepMap (x : Table) : Table :=
  match x.recovering, x.subst with
  | true, some y => { jokerFor := y.seat, jokerState := 1, retired := putBits x.retired y.seat 1 1 }
  | _, _ => { jokerFor := x.jokerFor, jokerState := x.jokerState, retired := x.retired, failed := x.failed }

/-- A command in progress whose rows, or whose reads through a lead, a device reset has taken away (R314): it finishes with
what it has, 0x2004 for a read that failed. A SERVE whose reads are complete keeps what they brought. -/
def CmdRun.cutOff (c : CmdRun) : CmdRun :=
  let lost := c.gets.any (·.left != 0)
  { c with left := if c.op == 6 || c.op == 7 || lost then 0 else c.left, status := if lost && c.status == 0 then 0x2004 else c.status,
           gets := if lost then [] else c.gets }
/-- The HIF of a device that resets: accesses and commands in progress keep nothing to wait for. -/
def Hif.cutOff (h : Hif) : Hif :=
  { h with accs := h.accs.map fun a => { a with left := 0 }, hostReads := [], resetBusy := true,
           fns := h.fns.map fun (e : Nat × FnState) =>
             (e.1, { e.2 with crs := e.2.crs.map fun r => (r.1, { r.2 with run := r.2.run.map CmdRun.cutOff }) }) }
/-- SERVE commands that wait for nothing more complete. -/
def State.endServes (s : State) : State :=
  allFns.foldl (fun s f => match (s.cr f 4).run with
    | some c => if c.op == 8 && c.left == 0 then s.endRun f 4 c.status else s
    | none => s) s

/-- A DECK_STOP in progress finishes (R314): the device is in NONE, as at a stop tick. -/
def State.endStop (s : State) : State :=
  match s.dck.stop with
  | some c => ((s.complete c.fn 0 c.tag c.quiet).freeRing c.fn c.ring)
  | none => s

/-- Requests of a device that resets are gone with the SVC's state; what the links keep is each port's reset value. -/
def State.deviceReset (s : State) : State :=
  let f := s.functionReset.endStop
  { f with
    hif := f.hif.cutOff, mem := [], acc := [], accBad := [], tiles := [], xbar := [], ports := [],
    tables := f.tables.map fun (e : Nat × Table) => (e.1, e.2.keepMap),
    lnk := { tele := [] }, rcu := {}, dck := {}, svc := {}, pwr := {},
    tly := { trim := f.tly.trim, events := f.tly.events, ladder := f.tly.ladder, lastEvent := [] } }.endServes

/-- DEVICE_RESET (R315): HIF.RESET with GO and KEY 0xD1CE, unless a deck loads or runs. -/
def execDeviceReset (v : Word) (s : State) : Res :=
  .next (
    if !bit v.toNat 0 || bits v.toNat 16 16 != 0xD1CE then s
    else if s.dck.state = .none_ || s.dck.state = .loaded then s.deviceReset
    else { s with dck := { s.dck with result := 0x2007 } })

/-- DEVICE_RESET_COMPLETE (R315). -/
def execDeviceResetComplete (s : State) : Res := .next { s with hif := { s.hif with resetBusy := false } }

end Sys2Proof.Machine
end

