-- ==== Sys2Proof/Machine/Registers.lean ====
section
/-! DEFINITION. BAR0 (R8, R10 to R12, R27, R300): what a 32-bit read of a register returns and clears, and what a
write does to each field by its access type. The same functions serve the host, the packets that a lead sends
(R312) and the mailbox (R401). -/

namespace Sys2Proof.Machine

/-- A function sees the fields of a table (R27). -/
def seesTable (f : Fn) (t : Nat) : Bool := match f with | .pf => true | .vf n => n == t
/-- A field value that only some functions see. -/
def ifSees (b : Bool) (x : Nat) : Nat := if b then x else 0
/-- Is this the physical function? -/
def isPf (f : Fn) : Bool := f == .pf
/-- Low or high word of a 64-bit value. -/
def half (x : Nat) (hi : Bool) : Nat := if hi then x / 2 ^ 32 % 2 ^ 32 else x % 2 ^ 32
/-- Replace the low or high word of a 64-bit value. -/
def putHalf (x : DWord) (hi : Bool) (v : Nat) : DWord := BitVec.ofNat 64 (putBits x.toNat (if hi then 32 else 0) 32 v)
/-- A packed field for each table that the function sees. -/
def packTables (f : Fn) (w : Nat) (g : Nat → Nat) : Nat :=
  (List.range 16).foldl (fun a t => a + ifSees (seesTable f t) (g t) * 2 ^ (w * t)) 0

/-! ### HIF (R4, R302, R310, R311, R315) -/

/-- HIF.IDENT (R4). -/
def State.identWord (s : State) : Nat :=
  s.grade.code + s.stepping % 16 * 2 ^ 4 + 64 * 2 ^ 8 + s.seats * 2 ^ 16 + 2 * 2 ^ 20

/-- CFG words of rings (R302). -/
def CmdRing.cfgWord (r : CmdRing) : Nat := r.sizeLog + b2n r.enable * 2 ^ 31
def RecRing.cfgWord (r : RecRing) : Nat :=
  r.sizeLog + r.vector * 2 ^ 5 + r.holdoff * 2 ^ 16 + b2n r.inten * 2 ^ 30 + b2n r.enable * 2 ^ 31

/-- Read a command ring's registers. -/
def CmdRing.read (r : CmdRing) : Nat → Nat
  | 0x00 => half r.base.toNat false
  | 0x04 => half r.base.toNat true
  | 0x08 => r.cfgWord
  | 0x0C => r.tail.toNat
  | 0x10 => r.head.toNat
  | _ => 0
/-- Read a record ring's registers. -/
def RecRing.read (r : RecRing) : Nat → Nat
  | 0x00 => half r.base.toNat false
  | 0x04 => half r.base.toNat true
  | 0x08 => half r.pidx.toNat false
  | 0x0C => half r.pidx.toNat true
  | 0x10 => r.cfgWord
  | 0x14 => r.head.toNat
  | 0x18 => r.prod.toNat
  | _ => 0

/-- A 32-bit word of a bit set, bit `32 * w + i` for each member. -/
def bitsOf (l : List Nat) (w : Nat) : Nat := (List.range 32).foldl (fun a i => a + b2n (l.contains (32 * w + i)) * 2 ^ i) 0

/-- Read the HIF block. -/
def State.readHif (s : State) (f : Fn) (o : Nat) : Nat :=
  if o < 0x1000 then
    if !isPf f then 0
    else match o with
      | 0x00 => s.identWord
      | 0x08 => s.hif.leadDev + b2n s.hif.leadValid * 2 ^ 16
      | 0x10 => s.hif.folWin + b2n s.hif.folTimeout * 2 ^ 16
      | 0x20 => b2n s.hif.resetBusy * 2
      | _ => 0
  else if o < 0x1100 then
    let w := (o - 0x1000) / 4
    ifSees (isPf f && w != 0) (Map.get 0 s.hif.folDev w + b2n (Map.get false s.hif.folValid w) * 2 ^ 16)
  else if 0x10000 ≤ o && o < 0x10000 + 0x20 * cmdRings then (s.cr f ((o - 0x10000) / 0x20)).read (o % 0x20)
  else if 0x10100 ≤ o && o < 0x10100 + 0x20 * recRings f then (s.rr f ((o - 0x10100) / 0x20)).read (o % 0x20)
  else if 0x80000 ≤ o && o < 0x80000 + 16 * s.vectors f then (Map.get 0#32 s.hif.msix (4 * vectorBase f + (o - 0x80000) / 4)).toNat
  else if 0x90000 ≤ o && o < 0x90000 + ceilDiv (s.vectors f) 32 * 4 then
    bitsOf ((s.hif.pba.filter fun v => decide (vectorBase f ≤ v) && decide (v < vectorBase f + s.vectors f)).map (· - vectorBase f))
      ((o - 0x90000) / 4)
  else 0

/-- Write a command ring's registers (R302, R303). -/
def State.writeCr (s : State) (f : Fn) (i r v : Nat) : State :=
  let x := s.cr f i
  match r with
  | 0x00 => if x.enable then s else s.setCr f i { x with base := putHalf x.base false (v / 4096 * 4096) }
  | 0x04 => if x.enable then s else s.setCr f i { x with base := putHalf x.base true v }
  | 0x08 => s.setCr f i (x.writeCfg v)
  | 0x0C => s.writeCrTail f i (BitVec.ofNat 32 v)
  | _ => s
/-- Write a record ring's registers (R302, R303). -/
def State.writeRr (s : State) (f : Fn) (j r v : Nat) : State :=
  let x := s.rr f j
  match r with
  | 0x00 => if x.enable then s else s.setRr f j { x with base := putHalf x.base false (v / 4096 * 4096) }
  | 0x04 => if x.enable then s else s.setRr f j { x with base := putHalf x.base true v }
  | 0x08 => if x.enable then s else s.setRr f j { x with pidx := putHalf x.pidx false (v / 8 * 8) }
  | 0x0C => if x.enable then s else s.setRr f j { x with pidx := putHalf x.pidx true v }
  | 0x10 => s.setRr f j (x.writeCfg f v)
  | 0x14 => s.writeRrHead f j (BitVec.ofNat 32 v)
  | _ => s

/-- Write an MSI-X table word (R310): a vector that is unmasked sends its pending message. -/
def State.writeMsix (s : State) (f : Fn) (w v : Nat) : State :=
  let vec := vectorBase f + w / 4
  let s1 := { s with hif := { s.hif with msix := Map.set 0#32 s.hif.msix (4 * vectorBase f + w) (BitVec.ofNat 32 v) } }
  if w % 4 == 3 && !bit v 0 && s1.hif.pba.contains vec then
    { s1 with hif := { s1.hif with pba := s1.hif.pba.filter (· != vec) } }.sendMsix f (w / 4)
  else s1

/-- Write HIF.FOLLOWER (R311): a live window takes only a write that clears VALID. -/
def State.writeFollower (s : State) (w v : Nat) : State :=
  if Map.get false s.hif.folValid w && bit v 16 then s
  else { s with hif := { s.hif with folDev := Map.set 0 s.hif.folDev w (bits v 0 10), folValid := Map.set false s.hif.folValid w (bit v 16) } }

/-- Write the HIF block. -/
def State.writeHif (s : State) (f : Fn) (o v : Nat) : State :=
  if o < 0x1000 then
    if !isPf f then s
    else match o with
      | 0x08 => { s with hif := { s.hif with leadDev := bits v 0 10, leadValid := bit v 16 } }
      | 0x10 => { s with hif := { s.hif with folWin := bits v 0 6, folTimeout := s.hif.folTimeout && !bit v 16 } }
      | 0x20 => orKeep (execDeviceReset (BitVec.ofNat 32 v) s) s
      | _ => s
  else if o < 0x1100 then
    if isPf f && o != 0x1000 then s.writeFollower ((o - 0x1000) / 4) v else s
  else if 0x10000 ≤ o && o < 0x10000 + 0x20 * cmdRings then s.writeCr f ((o - 0x10000) / 0x20) (o % 0x20) v
  else if 0x10100 ≤ o && o < 0x10100 + 0x20 * recRings f then s.writeRr f ((o - 0x10100) / 0x20) (o % 0x20) v
  else if 0x80000 ≤ o && o < 0x80000 + 16 * s.vectors f then s.writeMsix f ((o - 0x80000) / 4) v
  else s

/-! ### DCK (R298) -/

/-- Read DCK: the physical function only. -/
def State.readDck (s : State) (o : Nat) : Nat :=
  let d := s.dck
  if 0x40 ≤ o && o < 0x60 then
    let k := s.mgc.flash.key ((o - 0x40) / 4)
    k.state + k.print * 2 ^ 16
  else match o with
    | 0x00 => d.state.code + d.pass * 2 ^ 3 + d.result * 2 ^ 16
    | 0x04 => d.devices
    | 0x08 => d.failEntry
    | 0x10 => half d.failOff false
    | 0x14 => half d.failOff true
    | 0x18 => half d.jobId false
    | 0x1C => half d.jobId true
    | _ => 0
/-- Write DCK: JOB only, in NONE and LOADED; reserved values keep it (R12). -/
def State.writeDck (s : State) (o v : Nat) : State :=
  if o == 0x04 && (s.dck.state = .none_ || s.dck.state = .loaded) && decide (bits v 0 11 ≤ 1024) then
    { s with dck := { s.dck with devices := bits v 0 11 } }
  else s

/-! ### RCU (R31, R35, R36, R39, R47, R48, R57, R58) -/

/-- Read RCU; a low-word read of NOW latches the high word (R31). -/
def State.readRcu (s : State) (f : Fn) (o : Nat) : State × Nat :=
  let r := s.rcu
  let own (t : Nat) : Bool := seesTable f t
  let pend := (List.range 16).foldl (fun a t => a + b2n (own t && (s.table t).switch.isSome) * 2 ^ t) 0
  let mask := (List.range 16).foldl (fun a t => a + b2n (own t && bit r.pswMask t) * 2 ^ t) 0
  match o with
  | 0x20 => (s, half r.pswTick false)
  | 0x24 => (s, half r.pswTick true)
  | 0x28 => (s, mask + r.pswPhase * 2 ^ 16)
  | 0x2C => (s, r.pswStatus + pend * 2 ^ 16)
  | 0x30 => (s, packTables f 2 fun t => (s.table t).phase)
  | 0x34 => (s, packTables f 2 fun t => (s.table t).clock)
  | _ =>
    if !isPf f then (s, 0)
    else if 0x100 ≤ o && o < 0x200 then
      let n := (o - 0x100) / 4
      let x := s.port n
      (s, x.delay + b2n x.delayValid * 2 ^ 16 + b2n (s.inWin n) * 2 ^ 17)
    else match o with
      | 0x00 => (s.latchNow, half s.roundCounter false)
      | 0x04 => (s, r.latch.toNat)
      | 0x08 => (s, tickExp r.k + r.role * 2 ^ 4 + r.parent * 2 ^ 8 + r.depth * 2 ^ 16 + r.syncLog * 2 ^ 20)
      | 0x0C => (s, r.state.code + ofSigned 12 r.offset * 2 ^ 4 + r.holdTicks * 2 ^ 16)
      | 0x10 => (s, r.rootDev + r.holdLimit * 2 ^ 16)
      | 0x18 => (s, r.eqNear + r.eqFar * 2 ^ 16)
      | _ => (s, 0)

/-- Write RCU. -/
def State.writeRcu (s : State) (f : Fn) (o v : Nat) : State :=
  let r := s.rcu
  let w := BitVec.ofNat 32 v
  match o with
  | 0x20 => { s with rcu := { r with pswTick := putBits r.pswTick 0 32 v } }
  | 0x24 => { s with rcu := { r with pswTick := putBits r.pswTick 32 16 (v % 2 ^ 16) } }
  | 0x28 => orKeep (execPswGo f w s) s
  | _ =>
    if !isPf f then s
    else match o with
      | 0x00 => orKeep (execRcuNowLowWrite w s) s
      | 0x04 => orKeep (execRcuTickWrite w none s) s
      | 0x08 => orKeep (execRcuConfigWrite w s) s
      | 0x10 => if s.noDeck then { s with rcu := { r with rootDev := bits v 0 10, holdLimit := bits v 16 16 } } else s
      | _ => s

/-! ### LNK (R268, R269, R281, R282): the physical function only -/

/-- Class of a port (R268). -/
def portClass (n : Nat) : Nat := if n < 45 then 0 else if n < 48 then 1 else 2

/-- Read LNK. -/
def State.readLnk (s : State) (o : Nat) : Nat :=
  let l := s.lnk
  if o < 0x100 then match o with
    | 0x00 => l.dev + l.group * 2 ^ 10 + l.pos * 2 ^ 16
    | 0x04 => l.wlog + b2n l.ten * 2 ^ 4 + l.dest * 2 ^ 16
    | _ => 0
  else if o < 0x140 then
    let x := Map.get {} l.lasers ((o - 0x100) / 4)
    x.power.toNat + b2n x.ok * 2 ^ 12 + x.module_.toNat * 2 ^ 16
  else if 0x1000 ≤ o && o < 0x1400 then
    let n := (o - 0x1000) / 16
    let x := s.port n
    match o % 16 with
    | 0 => b2n x.enable + b2n x.auto * 2 + portClass n * 2 ^ 2
    | 4 => x.state.code + x.last * 2 ^ 16
    | 8 => x.peerDev + x.peerPort * 2 ^ 10 + b2n x.peerValid * 2 ^ 16
    | _ => 0
  else if 0x2000 ≤ o && o < 0x3000 then s.routeWord ((o - 0x2000) / 4)
  else if 0x4000 ≤ o && o < 0x4400 then (nth 0#32 (s.port ((o - 0x4000) / 16)).cmap (o % 16 / 4)).toNat
  else 0

/-- Write LNK.PORT_CTRL (R268): AUTO, then ENABLE, then RETRAIN. -/
def State.writePortCtrl (s : State) (n v : Nat) : State :=
  let s1 := s.modPort n fun x => { x with auto := bit v 1 }
  let s2 :=
    if bit v 0 == (s1.port n).enable then s1
    else if bit v 0 then orKeep (execPortEnable n s1) s1
    else orKeep (execPortDisable n s1) s1
  if bit v 4 then orKeep (execPortRetrain n s2) s2 else s2

/-- Write LNK. -/
def State.writeLnk (s : State) (o v : Nat) : State :=
  let l := s.lnk
  if o < 0x100 then match o with
    | 0x00 =>
      if s.noDeck then { s with lnk := { l with dev := bits v 0 10, group := bits v 10 6, pos := bits v 16 4 } } else s
    | 0x04 => { s with lnk := { l with wlog := bits v 0 4, ten := bit v 4, dest := bits v 16 10 } }
    | _ => s
  else if o < 0x140 then
    let i := (o - 0x100) / 4
    let x : Laser := Map.get {} l.lasers i
    if (portsOfLaser i).all fun n => (s.port n).state = .off then
      { s with lnk := { l with lasers := Map.set {} l.lasers i { x with module_ := BitVec.ofNat 16 (v / 2 ^ 16) } } }
    else s
  else if 0x1000 ≤ o && o < 0x1400 then
    let n := (o - 0x1000) / 16
    match o % 16 with
    | 0 => s.writePortCtrl n v
    | 8 =>
      if s.noDeck then
        s.modPort n fun x => { x with peerDev := bits v 0 10, peerPort := bits v 10 6, peerValid := bit v 16 }
      else s
    | _ => s
  else if 0x2000 ≤ o && o < 0x3000 then
    if s.noDeck then
      { s with lnk := { l with route := Map.set 0#32 l.route ((o - 0x2000) / 4) (BitVec.ofNat 32 (v % 2 ^ 7)) } }
    else s
  else s

/-! ### SVC (R350, R370) -/

/-- Saturating display of a count. -/
def sat32n (x : Nat) : Nat := satTo (2 ^ 32 - 1) x

/-- Read SVC; RC fields clear (R10, R350, R370). -/
def State.readSvc (s : State) (f : Fn) (o : Nat) : State × Nat :=
  let v := s.svc
  if 0x100 ≤ o && o < 0x200 then
    let t := (o - 0x100) / 16
    let tb := v.table t
    if !seesTable f t then (s, 0)
    else match o % 16 with
      | 0 => (s, s.entriesOf t)
      | 4 => (s, tb.kitty)
      | 8 => ({ s with svc := v.setTable t { tb with fullRej := 0 } }, tb.fullRej)
      | _ => ({ s with svc := v.setTable t { tb with accepted := 0 } }, tb.accepted)
  else if 0x8000 ≤ o && o < 0x18000 then
    let c := (o - 0x8000) / 16
    let k := v.cust c
    if !seesTable f k.table then (s, 0)
    else match o % 16 with
      | 0 => (s, k.newWeight.getD k.weight + k.newTable.getD k.table * 2 ^ 8)
      | 4 => (s, k.newBudget.getD k.budget)
      | 8 => (s, ofSigned 32 k.balance)
      | _ => ({ s with svc := v.setCust c { k with used := 0 } }, k.used)
  else if 0x20000 ≤ o && o < 0x24000 then
    let d := v.ad ((o - 0x20000) / 4)
    (s, ifSees (isPf f) (d.slot + b2n d.valid * 2 ^ 12 + d.version % 2 ^ 16 * 2 ^ 16))
  else if 0x24000 ≤ o && o < 0x28000 then
    let x := v.slot ((o - 0x24000) / 4)
    (s, ifSees (isPf f) (x.pins + x.state * 2 ^ 17))
  else if 0x30000 ≤ o && o < 0x31000 then
    let i := (o - 0x30000) / 16
    let x := v.rec_ i
    if !(isPf f || (match s.dck.cfg.learn[i]? with | some r => seesTable f r.ltable | none => false)) then (s, 0)
    else match o % 16 with
      | 0 => (s, x.slot + x.gstate * 2 ^ 13)
      | 4 => (s, x.version % 2 ^ 32)
      | 8 => ({ s with svc := v.setRec i { x with published := 0 } }, x.published)
      | _ => (s, x.step)
  else (s, 0)

/-- Write SVC (R350): customers' registers, taking effect at the next boundary. -/
def State.writeSvc (s : State) (f : Fn) (o v : Nat) : State :=
  if 0x8000 ≤ o && o < 0x18000 then
    let c := (o - 0x8000) / 16
    let k := s.svc.cust c
    if !seesTable f k.table then s
    else match o % 16 with
      | 0 =>
        let k1 := { k with newWeight := some (bits v 0 8), newTable := if isPf f then some (bits v 8 4) else k.newTable }
        { s with svc := s.svc.setCust c k1 }
      | 4 => if v < 2 ^ 31 then { s with svc := s.svc.setCust c { k with newBudget := some v } } else s
      | _ => s
  else s

/-! ### TLY (R22, R379, R382, R389, R390, R394, R396) -/

/-- TLY.SEATMAP (R22). -/
def State.seatWord (s : State) (t : Nat) : Nat :=
  let x := s.table t
  x.jokerFor + x.jokerState * 2 ^ 4 + x.retired % 2 ^ 13 * 2 ^ 8 + b2n x.failed * 2 ^ 24 +
    b2n (s.grade == .a12) * 2 ^ 25 + b2n x.recovering * 2 ^ 26

/-- TLY.VSTAT (R389). -/
def Table.vstat (x : Table) : Nat := x.tallyV + x.arrayV * 2 ^ 8 + x.tileV * 2 ^ 16 + x.unchecked * 2 ^ 24

/-- Read TLY; RC fields clear. -/
def State.readTly (s : State) (f : Fn) (o : Nat) : State × Nat :=
  let y := s.tly
  if 0x100 ≤ o && o < 0x140 then
    let t := (o - 0x100) / 4
    (s, ifSees (seesTable f t) (s.seatWord t))
  else if 0x200 ≤ o && o < 0x280 then
    let t := (o - 0x200) / 8
    (s, ifSees (seesTable f t) (half (s.table t).choice (o % 8 == 4)))
  else if 0x300 ≤ o && o < 0x340 then
    let t := (o - 0x300) / 4
    if seesTable f t then
      (s.modTable t fun x => { x with tallyV := 0, arrayV := 0, tileV := 0, unchecked := 0 }, (s.table t).vstat)
    else (s, 0)
  else if 0x1000 ≤ o && o < 0x1000 + 4 * 208 then
    let p := (o - 0x1000) / 4
    (s, ifSees (seesTable f (p / 13)) (Map.get 0 y.trim p + Map.get 0 y.events p * 2 ^ 8))
  else if !isPf f then (s, 0)
  else if 0x80000 ≤ o && o < 0xA0000 then (s, leNat (readCells y.buf (o - 0x80000) 4))
  else match o with
    | 0x280 => (s, half y.choiceDev false)
    | 0x284 => (s, half y.choiceDev true)
    | 0x400 => (s, y.probePos + b2n (!y.probeQueue.isEmpty) * 2 ^ 17)
    | 0x404 => ({ s with tly := { y with fixed := 0 } }, y.fixed + y.passes * 2 ^ 16)
    | 0x408 => (s, y.probeStatus + y.probeFail * 2 ^ 16)
    | 0x410 => (s, y.head.toNat)
    | 0x414 => (s, y.tail.toNat)
    | 0x418 => ({ s with tly := { y with lost := 0 } }, y.lost)
    | _ => (s, 0)

/-- Write TLY: the probe and the digest ring's head. -/
def State.writeTly (s : State) (f : Fn) (o v : Nat) : State :=
  if !isPf f then s
  else match o with
    | 0x400 => s.writeProbe v
    | 0x410 =>
      let w := BitVec.ofNat 32 v
      if (w - s.tly.head).toNat ≤ (s.tly.tail - s.tly.head).toNat then { s with tly := { s.tly with head := w } } else s
    | _ => s

/-! ### PWR (R68) -/

/-- Read PWR. -/
def State.readPwr (s : State) (f : Fn) (o : Nat) : Nat :=
  if 0x100 ≤ o && o < 0x140 then
    let t := (o - 0x100) / 4
    let x := s.table t
    ifSees (seesTable f t) (min x.used 0xFFF + x.map * 2 ^ 16 + b2n x.overrun * 2 ^ 31)
  else if o == 0x40 then ifSees (isPf f) s.pwr.active
  else 0
/-- Write PWR: USE.OVER is cleared by a 1. -/
def State.writePwr (s : State) (f : Fn) (o v : Nat) : State :=
  if 0x100 ≤ o && o < 0x140 && seesTable f ((o - 0x100) / 4) then
    s.modTable ((o - 0x100) / 4) fun x => { x with overrun := x.overrun && !bit v 31 }
  else s

/-! ### MGC (R400, R407): the physical function only, or the SMBus interface for its own mailbox -/

/-- A mailbox. -/
def Mgc.mbox (m : Mgc) (smb : Bool) : Mbox := if smb then m.smb else m.pcie
/-- Change a mailbox. -/
def State.setMbox (s : State) (smb : Bool) (x : Mbox) : State :=
  { s with mgc := if smb then { s.mgc with smb := x } else { s.mgc with pcie := x } }

/-- MGC.STATUS (R400). -/
def Mgc.statusWord (m : Mgc) : Nat :=
  b2n m.ready + m.bank * 2 + b2n m.fallback * 2 ^ 2 + b2n m.tstop * 2 ^ 3 + m.fwrev % 2 ^ 16 * 2 ^ 8

/-- Read the MGC block. -/
def State.readMgc (s : State) (smb : Bool) (o : Nat) : Nat :=
  let m := s.mgc
  let x := m.mbox smb
  if 0x1000 ≤ o && o < 0x2000 then leNat (readCells x.buf (o - 0x1000) 4)
  else if 0x100 ≤ o && o < 0x200 then
    let t : Temp := Map.get {} m.temps ((o - 0x100) / 4)
    t.t.toNat + b2n t.alarm * 2 ^ 12
  else if 0x200 ≤ o && o < 0x260 then
    let v := Map.get (0, false, false) m.vmon ((o - 0x200) / 4)
    v.1.toNat + b2n v.2.1 * 2 ^ 16 + b2n v.2.2 * 2 ^ 17
  else if 0x280 ≤ o && o < 0x2A4 then (Map.get 0#16 m.irail ((o - 0x280) / 4)).toNat
  else if 0x400 ≤ o && o < 0x500 then
    let x := Map.get (0, 0) m.optp ((o - 0x400) / 4)
    x.1.toNat + x.2.toNat * 2 ^ 16
  else match o with
    | 0x00 => m.statusWord
    | 0x10 => x.op + x.len * 2 ^ 16
    | 0x18 => half x.arg.toNat false
    | 0x1C => half x.arg.toNat true
    | 0x20 => x.status + b2n x.busy * 2 ^ 16 + x.rlen * 2 ^ 17
    | 0x300 => m.inlet.toNat + m.outlet.toNat * 2 ^ 16 + b2n m.coolFault * 2 ^ 28
    | 0x304 => m.w1ms.toNat + m.w1s.toNat * 2 ^ 16
    | _ => 0

/-- The mailbox takes a command (R400, R403): firmware runs, or the ROM answers the SMBus mailbox's firmware commands. -/
def Mgc.takes (m : Mgc) (smb : Bool) (op : Nat) : Bool :=
  m.ready || (smb && m.restarting.isNone && (op == 2 || op == 3 || op == 4))

/-- No command of R401 has the OP. -/
def unknownOp (op : Nat) : Bool := op == 0 || decide (9 < op)
/-- A command with an unknown OP has its turn (R400, R401): it completes with 0x9001, the PCIe mailbox's first. -/
def State.answerUnknown (s : State) : State :=
  let m := s.mgc
  if m.pcie.busy && unknownOp m.pcie.runOp then
    let m := { m with pcie := { m.pcie with busy := false, status := 0x9001, rlen := 0 } }
    { s with mgc := if m.smb.busy && unknownOp m.smb.runOp then { m with smb := { m.smb with busy := false, status := 0x9001, rlen := 0 } } else m }
  else if m.smb.busy && unknownOp m.smb.runOp && !m.pcie.busy then
    { s with mgc := { m with smb := { m.smb with busy := false, status := 0x9001, rlen := 0 } } }
  else s

/-- Write MGC.MBOX_CMD (R10, R400, R401): OP and LEN are stored; GO submits, with the fields as they then stand, unless the
mailbox is busy; an unknown OP completes with 0x9001 when its turn has come. -/
def State.writeMboxCmd (s : State) (smb : Bool) (v : Nat) : State :=
  let x := s.mgc.mbox smb
  let len := bits v 16 13
  let x1 := { x with op := bits v 0 8, len := if len ≤ 4096 then len else x.len }
  if !bit v 31 || x.busy then s.setMbox smb x1
  else if !s.mgc.takes smb x1.op then s.setMbox smb x1
  else (s.setMbox smb { x1 with busy := true, runOp := x1.op, runLen := x1.len, runArg := x1.arg }).answerUnknown

/-- Write the MGC block. -/
def State.writeMgc (s : State) (smb : Bool) (o v : Nat) : State :=
  let x := s.mgc.mbox smb
  if 0x1000 ≤ o && o < 0x2000 then s.setMbox smb { x with buf := writeCells x.buf (o - 0x1000) (leBytes 4 v) }
  else match o with
    | 0x10 => s.writeMboxCmd smb v
    | 0x18 => s.setMbox smb { x with arg := putHalf x.arg false v }
    | 0x1C => s.setMbox smb { x with arg := putHalf x.arg true v }
    | _ => s

/-! ### Tile control windows (R8, R165, R171, R185) -/

/-- DEALER_STATUS (R185). -/
def Tile.dealerStatus (t : Tile) : Nat := t.bundle + t.trackers * 2 ^ 16 + b2n t.run.isSome * 2 ^ 30

/-- Read a tile's control window. -/
def Tile.readWindow (t : Tile) (o : Nat) : Nat :=
  if o == 0 then t.dealerStatus
  else if 0x40 ≤ o && o < 0x80 then t.counter ((o - 0x40) / 4)
  else if 0x400 ≤ o && o < 0x500 then
    let r := t.ring ((o - 0x400) / 16)
    (match o % 16 with | 0 => r.base | 4 => r.cfg | 8 => r.head | _ => r.tail).toNat
  else if 0x800 ≤ o && o < 0x900 then half (Map.get 0#64 t.handles ((o - 0x800) / 8)).toNat (o % 8 == 4)
  else 0

/-- Write a tile's control window (R169): only ring counters, as the host. -/
def State.writeWindow (s : State) (p o v : Nat) : State :=
  if 0x400 ≤ o && o < 0x500 then
    let r := (o - 0x400) / 16
    match o % 16 with
    | 8 => s.writeHead (userCode false) p r (BitVec.ofNat 32 v)
    | 12 => s.writeTail (userCode false) p r (BitVec.ofNat 32 v)
    | _ => s
  else s

/-! ### BAR0 (R300) -/

/-- Base of the tile control windows (R8). -/
def windowBase : Nat := 0x1000000

/-- What a block returns for a 32-bit read of BAR0 by a function, below the aperture (R10, R27, R300). An offset within a word
reads the word. -/
def State.blockRead (s : State) (f : Fn) (off : Nat) : State × Nat :=
  let o := off % 0x100000 / 4 * 4
  match off / 0x100000 with
  | 0 => (s, s.readHif f o)
  | 1 => (s, ifSees (isPf f) (s.readDck o))
  | 2 => s.readRcu f o
  | 3 => (s, ifSees (isPf f) (s.readLnk o))
  | 4 => s.readSvc f o
  | 5 => s.readTly f o
  | 6 => (s, s.readPwr f o)
  | 7 => (s, ifSees (isPf f) (s.readMgc false o))
  | b =>
    let p := (off - windowBase) / 0x10000
    if 16 ≤ b && p < 208 && s.reachesWindow f p then (s, (s.tile p).readWindow (off % 0x10000 / 4 * 4)) else (s, 0)

/-- Upsets of the registers that a function reads at an offset (R27, R395): the HIF's own of the function, the shared ones of
the other blocks. -/
def upsetsOf (l : List LatchUpset) (f : Fn) (off b : Nat) : Nat :=
  let f := if off / 0x100000 = 0 then f else .pf
  (l.filter fun u => u.off == off && u.bit == b && u.fn == f).length
/-- Bits of a register that its latches' majority vote reads otherwise than it was written (R395): those of a value that the
block derives, which no latch write has mended (log entry 47). -/
def State.voteMask (s : State) (f : Fn) (off : Nat) : Nat :=
  (List.range 32).foldl (fun m b => if 2 ≤ upsetsOf s.tly.upsets f (off / 4 * 4) b then m ^^^ 2 ^ b else m) 0

/-- Bits of a register of BAR0 that a function sees (R23, R27). -/
def State.seesBits (s : State) (f : Fn) (off : Nat) : Nat :=
  match f with
  | .pf => if windowBase ≤ off && !s.reachesWindow f ((off - windowBase) / 0x10000) then 0 else 2 ^ 32 - 1
  | .vf n =>
    let o := off % 0x100000 / 4 * 4
    let mine (t : Nat) : Nat := if n = t then 2 ^ 32 - 1 else 0
    match off / 0x100000 with
    | 0 => if 0x10000 ≤ o then 2 ^ 32 - 1 else 0
    | 2 => match o with
      | 0x20 | 0x24 => 2 ^ 32 - 1
      | 0x28 => 2 ^ n + 3 * 2 ^ 16
      | 0x2C => 0xFFFF + 2 ^ (16 + n)
      | 0x30 | 0x34 => 3 * 2 ^ (2 * n)
      | _ => 0
    | 4 =>
      if 0x100 ≤ o && o < 0x200 then mine ((o - 0x100) / 16)
      else if 0x8000 ≤ o && o < 0x18000 then mine (s.svc.cust ((o - 0x8000) / 16)).table
      else if 0x30000 ≤ o && o < 0x31000 then
        match s.dck.cfg.learn[(o - 0x30000) / 16]? with
        | some r => mine r.ltable
        | none => 0
      else 0
    | 5 =>
      if 0x100 ≤ o && o < 0x140 then mine ((o - 0x100) / 4)
      else if 0x200 ≤ o && o < 0x280 then mine ((o - 0x200) / 8)
      else if 0x300 ≤ o && o < 0x340 then mine ((o - 0x300) / 4)
      else if 0x1000 ≤ o && o < 0x1000 + 4 * 208 then mine ((o - 0x1000) / 4 / 13)
      else 0
    | 6 => if 0x100 ≤ o && o < 0x140 then mine ((o - 0x100) / 4) else 0
    | _ => if windowBase ≤ off && s.reachesWindow f ((off - windowBase) / 0x10000) then 2 ^ 32 - 1 else 0

/-- A 32-bit read of BAR0 of a function, below the aperture, through the majority vote (R10, R27, R395). -/
def State.regRead (s : State) (f : Fn) (off : Nat) : State × Nat :=
  let (s1, v) := s.blockRead f off
  (s1, v ^^^ (s.voteMask f off &&& s.seesBits f off))

/-- A read of 64 bits (R31): of RCU.NOW the whole count as it stands, with no latching; of another register its two words. -/
def State.regRead64 (s : State) (f : Fn) (off : Nat) : State × List Byte :=
  if off / 8 * 8 == 0x200000 then
    (s, leBytes 8 (ifSees (isPf f) (s.roundCounter ^^^ (s.voteMask f 0x200000 + s.voteMask f 0x200004 * 2 ^ 32))))
  else
    let (s1, lo) := s.regRead f (off / 8 * 8)
    let (s2, hi) := s1.regRead f (off / 8 * 8 + 4)
    (s2, leBytes 4 lo ++ leBytes 4 hi)

/-- What a block does on a 32-bit write of BAR0 by a function, below the aperture (R10 to R12, R27, R300). -/
def State.blockWrite (s : State) (f : Fn) (off v : Nat) : State :=
  let o := off % 0x100000 / 4 * 4
  match off / 0x100000 with
  | 0 => s.writeHif f o v
  | 1 => if isPf f then s.writeDck o v else s
  | 2 => s.writeRcu f o v
  | 3 => if isPf f then s.writeLnk o v else s
  | 4 => s.writeSvc f o v
  | 5 => s.writeTly f o v
  | 6 => s.writePwr f o v
  | 7 => if isPf f then s.writeMgc false o v else s
  | b =>
    let p := (off - windowBase) / 0x10000
    if 16 ≤ b && p < 208 && s.reachesWindow f p then s.writeWindow p (off % 0x10000 / 4 * 4) v else s

/-- A 32-bit write of BAR0 of a function, below the aperture (R10, R27): what it stores, it stores in all three latches
(R395). -/
def State.regWrite (s : State) (f : Fn) (off v : Nat) : State := s.blockWrite f off v

/-- The SMBus interface reaches its mailbox and MGC.STATUS (R400). -/
def smbusOffset (off : Nat) : Bool :=
  let o := off % 0x100000
  off / 0x100000 == 7 && (o == 0 || (decide (0x10 ≤ o) && decide (o < 0x24)) || (decide (0x1000 ≤ o) && decide (o < 0x2000)))

end Sys2Proof.Machine
end

