-- ==== Sys2Proof/Machine/Window.lean ====
section
/-! DEFINITION. Accesses of requesters through BAR0 and BAR2, and their order (R23, R24, R163, R250 to R254, R301, R312).
A BAR2 access moves its rows as class H (R160). The BAR2 writes of one requester to one tile run one after another, the
writes that publish entries wait for them, and reads wait for every earlier write (log entry 12). -/

namespace Sys2Proof.Machine

/-! ### Rows -/

/-- Ask for a row as class H (R160). -/
def State.askHost (s : State) (p row seq : Nat) (use : RowUse) : State :=
  s.modTile p fun t => t.request { cls := 5, seq, row, deadline := noDeadline, since := s.age, use }

/-- Ask for the rows of a BAR2 access at the position that serves it. Rows outside the map, and rows that a handle denies,
settle at once (R151, R173); a position that is not live, or whose contents are lost, settles whole (R23, R409). -/
def State.askRows (s : State) (id p off n : Nat) (write : Bool) (use : PWrite → RowUse) : State :=
  match s.serves p with
  | none => s.modAcc id fun a => { a with started := true }
  | some q =>
    if s.sramOff then
      s.modAcc id fun a => { a with
        started := true, buf := writeCells [] (off % 64) ((List.range n).map fun i => Config.lostByte (memKey q off + i)) }
    else
      let rows := spanRows off n
      let no (w : PWrite) : Bool := decide (w.row < mappedRows) && !s.mayAccess q 1 write w.row
      let good := rows.filter fun w => decide (w.row < mappedRows) && !no w
      let s := s.reportRows q (rows.any fun w => decide (mappedRows ≤ w.row)) (rows.any no)
      good.foldl (fun s w => s.askHost q w.row id (use w))
        (s.modAcc id fun a => { a with started := true, left := good.length })

/-! ### Unfinished accesses (R250 to R252) -/

/-- An access writes. -/
def HostWhat.isWrite : HostWhat → Bool
  | .write .. | .regWrite .. | .far _ (.regWrite ..) | .far _ (.bar2Write ..) => true
  | _ => false
/-- A BAR2 write of this device, and the position that it addresses. -/
def HostWhat.rowsAt : HostWhat → Option Nat
  | .write p _ _ => some p
  | _ => none
/-- A BAR2 write, of this device or of a follower. -/
def HostWhat.isRows : HostWhat → Bool
  | .write .. | .far _ (.bar2Write ..) => true
  | _ => false
/-- The window of an access that goes to a follower. -/
def HostWhat.window : HostWhat → Option Nat
  | .far w _ => some w
  | _ => none

/-- Earlier unfinished accesses of the same requester. -/
def State.accsBefore (s : State) (a : HostAcc) : List HostAcc :=
  s.hif.accs.filter fun x => decide (x.id < a.id) && x.rq.id == a.rq.id
/-- An access has finished. -/
def State.dropAcc (s : State) (id : Nat) : State :=
  { s with hif := { s.hif with accs := s.hif.accs.filter fun a => a.id != id } }

/-- A BAR0 offset whose writes publish entries: doorbells, and ring counters of the control windows (R169, R251, R303). -/
def publishes (f : Fn) (off : Nat) : Bool :=
  let o := off % 0x100000 / 4 * 4
  (off / 0x100000 == 0 && ((decide (0x10000 ≤ o) && decide (o < 0x10000 + 0x20 * cmdRings) && o % 0x20 == 0x0C) ||
    (decide (0x10100 ≤ o) && decide (o < 0x10100 + 0x20 * recRings f) && o % 0x20 == 0x14))) ||
  (decide (windowBase ≤ off) && decide (off < windowBase + 208 * 0x10000) && decide (0x400 ≤ off % 0x10000) &&
    decide (off % 0x10000 < 0x500) && decide (8 ≤ off % 16))

/-- A BAR0 read takes effect (R10, R31, R300): its value, and the state once RC fields are cleared. -/
def State.readBar0 (s : State) (a : HostAcc) (off : Nat) (wide : Bool) : State :=
  if wide then
    let (s1, l) := s.regRead64 a.rq.fn off
    s1.emit (.readData a.rq.fn off l)
  else
    let (s1, v) := s.regRead a.rq.fn off
    match a.reply with
    | some (dev, req) => s1.sendHost 1 pRegrsp dev a.addr 0 (fnKey a.rq.fn) req 0 0 (leBytes 4 v)
    | none => s1.emit (.readData a.rq.fn off (leBytes 4 v))

/-- What of a requester's earlier accesses, or of a follower's, an access to the follower must wait for: those to the same
follower by any requester (R313), a read for its requester's writes (R252), a publishing write for its BAR2 writes (R251). -/
def State.farWaits (s : State) (a : HostAcc) (w : Nat) (x : FolAccess) : Bool :=
  (s.hif.accs.any fun y => decide (y.id < a.id) && y.what.window == some w) ||
    match x with
    | .regRead _ | .bar2Read _ _ => (s.accsBefore a).any (·.what.isWrite)
    | .regWrite off _ => publishes a.rq.fn off && (s.accsBefore a).any (·.what.isRows)
    | _ => false

/-- The data of a BAR2 read go to its requester, or from a follower to its lead (R252, R312). -/
def State.answerBar2 (s : State) (a : HostAcc) (data : List Byte) : State :=
  match a.reply with
  | some (dev, req) => s.sendHost 1 pHost dev a.addr 3 (fnKey a.rq.fn) req data.length 0 data
  | none => s.emit (.readData a.rq.fn a.addr data)

/-- Serve an access as far as those before it allow. -/
def State.serveAcc (s : State) (id : Nat) : State :=
  match s.hif.accs.find? (·.id == id) with
  | none => s
  | some a =>
    let before := s.accsBefore a
    let finish (s : State) : State :=
      match s.hif.accs.find? (·.id == id), a.what with
      | some b, .write .. => if b.started && b.left == 0 then s.dropAcc id else s
      | some b, .read _ off n => if b.started && b.left == 0 then (s.dropAcc id).answerBar2 b (readCells b.buf (off % 64) n) else s
      | _, _ => s
    if a.started then finish s
    else match a.what with
      | .write p off data =>
        if before.any fun x => match x.what.rowsAt with | some q => s.serves q == s.serves p | none => false then s
        else finish (s.askRows id p off data.length true fun w => .fromWin id w.lo ((data.drop w.srcOff).take w.len))
      | .read p off n =>
        if before.any (·.what.isWrite) then s
        else finish (s.askRows id p off n false fun w => .toWin id (64 * (w.row - off / 64)))
      | .regWrite off v => if before.any (·.what.isRows) then s else (s.dropAcc id).regWrite a.rq.fn off v
      | .regRead off wide => if before.any (·.what.isWrite) then s else (s.dropAcc id).readBar0 a off wide
      | .zeros n => if before.any (·.what.isWrite) then s else (s.dropAcc id).answerBar2 a (rep n 0#8)
      | .far w x => if s.farWaits a w x then s else (s.dropAcc id).forwardTo a.rq.fn w x

/-- Serve every unfinished access, oldest first. -/
def State.pumpHost (s : State) : State := (s.hif.accs.map (·.id)).foldl State.serveAcc s

/-- Take an access. Before the HIF is released (R412) it answers configuration requests alone, and an access has no effect
and no answer (log entry 13). -/
def State.takeAcc (s : State) (rq : Requester) (what : HostWhat) (addr : Nat) (reply : Option (Nat × Nat)) : State :=
  if !s.hif.released then s
  else
    let s1 : State := { s with hif := { s.hif with
      accs := s.hif.accs ++ [{ id := s.hif.fetched, rq, what, addr, reply }], fetched := s.hif.fetched + 1 } }
    s1.pumpHost

/-- The host as a requester through a function (R254). -/
def hostOf (fn : Fn) : Requester := { fn, id := 0 }
/-- The lead as a requester on a follower (R312). -/
def leadOf (func : Nat) : Requester := { fn := fnOf func, id := 2 ^ 16 }

/-! ### BAR2 (R250, R252, R301) -/

/-- BAR2_WRITE (R250): window 0 is this device, the others are followers. -/
def execBar2Write (rq : Requester) (addr : Nat) (data : List Byte) (s : State) : Res :=
  if !(fnOk rq.fn) then .fault .noSuchUnit
  else .next (
    match bar2Decode rq.fn addr with
    | none => s
    | some (0, p, off) => s.takeAcc rq (.write p off data) addr none
    | some (w, _, _) => s.takeAcc rq (.far w (.bar2Write addr data)) addr none)

/-- BAR2_READ (R252): it completes with the bytes that it read. -/
def execBar2Read (rq : Requester) (addr len : Nat) (s : State) : Res :=
  if !(fnOk rq.fn) then .fault .noSuchUnit
  else .next (
    match bar2Decode rq.fn addr with
    | none => s.takeAcc rq (.zeros len) addr none
    | some (0, p, off) => s.takeAcc rq (.read p off len) addr none
    | some (w, _, _) => s.takeAcc rq (.far w (.bar2Read addr len)) addr none)

/-- An access to a follower (R313), in its turn. The aperture belongs to the physical function and to the window that FOLSEL
names when the access comes (R300): outside of it a read is zeros and a write has no effect. -/
def State.takeFar (s : State) (rq : Requester) (win : Nat) (a : FolAccess) : State :=
  let own := rq.fn == .pf && win == s.hif.folWin
  match a with
  | .regRead off => s.takeAcc rq (if own then .far win a else .zeros 4) (apertureBase + off) none
  | .regWrite _ _ => if own then s.takeAcc rq (.far win a) 0 none else s
  | _ => s.takeAcc rq (.far win a) 0 none

/-- FOLLOWER_ACCESS (R313): an access to a follower, in its turn. -/
def execFollowerAccess (fn : Fn) (win : Nat) (a : FolAccess) (s : State) : Res :=
  if fnOk fn then within win 64 (.next (s.takeFar (hostOf fn) win a)) else .fault .noSuchUnit

/-- HOST_BAR2_WRITE (R312): the follower applies it as an access of FUNC to its own window (R27, R301). -/
def execHostBar2Write (port : Nat) (s : State) : Res :=
  within port 64 (.next (
    match s.takeHost port 0 pHost 1 subHost s.fromLead with
    | (s1, some k) =>
      match bar2Decode (fnOf k.func) (windowOffset (fnOf k.func) k.addr) with
      | some (_, p, off) => s1.takeAcc (leadOf k.func) (.write p off k.data) k.addr none
      | none => s1
    | (s1, none) => s1))

/-- HOST_BAR2_READ (R312): the follower reads and replies with SUB 0x03. -/
def execHostBar2Read (port : Nat) (s : State) : Res :=
  within port 64 (.next (
    match s.takeHost port 0 pHost 2 subHost s.fromLead with
    | (s1, some k) =>
      match bar2Decode (fnOf k.func) (windowOffset (fnOf k.func) k.addr) with
      | some (_, p, off) => s1.takeAcc (leadOf k.func) (.read p off k.nbytes) k.addr (some (k.src, k.reqid))
      | none => s1.takeAcc (leadOf k.func) (.zeros k.nbytes) k.addr (some (k.src, k.reqid))
    | (s1, none) => s1))

/-! ### BAR0 (R10, R251, R252, R300) -/

/-- A function reaches the follower aperture (R300) at a BAR0 offset. -/
def inAperture (f : Fn) (off : Nat) : Bool := isPf f && decide (apertureBase ≤ off) && decide (off < 2 * apertureBase)

/-- A read of BAR0 by a requester (R10, R252, R300). A follower takes 32-bit accesses, so a 64-bit read of the aperture is
two of them (R31). -/
def State.takeRead (s : State) (rq : Requester) (off : Nat) (wide : Bool) : State :=
  if off < apertureBase then s.takeAcc rq (.regRead off wide) off none
  else if inAperture rq.fn off then
    let s1 := s.takeAcc rq (.far s.hif.folWin (.regRead (off - apertureBase))) off none
    if wide then s1.takeAcc rq (.far s.hif.folWin (.regRead (off - apertureBase + 4))) (off + 4) none else s1
  else s.takeAcc rq (.zeros (if wide then 8 else 4)) off none

/-- REGISTER_READ_CLEAR (R10): the value returned, and RC fields cleared, once every write that the requester sent before has
finished (R252). -/
def execRegisterReadClear (smb : Bool) (rq : Requester) (r : BarRead) (s : State) : Res :=
  if !fnOk rq.fn then .fault .noSuchUnit
  else .next (
    if smb then
      s.emit (.readData rq.fn r.off (leBytes 4 (ifSees (smbusOffset r.off) (s.readMgc true (r.off % 0x100000 / 4 * 4)))))
    else s.takeRead rq r.off r.wide)

/-- RCU_NOW_LOW_READ (R31): the low word, with the high word latched; a read of the host like any other (R252). The same read
by another requester is REGISTER_READ_CLEAR at that offset. -/
def execRcuNowLowRead (s : State) : Res := .next (s.takeRead (hostOf .pf) 0x200000 false)

/-- REGISTER_WRITE (R10): each field acts by its access type; a write that publishes entries waits (R251), and one to a
follower takes its turn (R313). Before the HIF is released (R412) a write through PCIe has no effect (log entry 13). -/
def execRegisterWrite (smb : Bool) (rq : Requester) (off : Nat) (v : Word) (s : State) : Res :=
  if !fnOk rq.fn then .fault .noSuchUnit
  else .next (
    if smb then (if smbusOffset off then s.writeMgc true (off % 0x100000 / 4 * 4) v.toNat else s)
    else if !s.hif.released then s
    else if apertureBase ≤ off then
      (if inAperture rq.fn off then s.takeAcc rq (.far s.hif.folWin (.regWrite (off - apertureBase) v)) off none else s)
    else if publishes rq.fn off then s.takeAcc rq (.regWrite off v.toNat) off none
    else s.regWrite rq.fn off v.toNat)

/-- CR_TAIL_WRITE (R303), a doorbell (R251). -/
def execCrTailWrite (rq : Requester) (ring : Nat) (v : Word) (s : State) : Res :=
  if fnOk rq.fn then within ring cmdRings (.next (s.takeAcc rq (.regWrite (0x1000C + 0x20 * ring) v.toNat) 0 none))
  else .fault .noSuchUnit

/-- RR_HEAD_WRITE (R303), a doorbell (R251). -/
def execRrHeadWrite (rq : Requester) (ring : Nat) (v : Word) (s : State) : Res :=
  if fnOk rq.fn then within ring (recRings rq.fn) (.next (s.takeAcc rq (.regWrite (0x10114 + 0x20 * ring) v.toNat) 0 none))
  else .fault .noSuchUnit

/-- RING_TAIL_WRITE (R169): by a requester through its function's control window (R251, R254), or by the MGC. -/
def execRingTailWrite (mgc : Bool) (rq : Requester) (p r : Nat) (v : Word) (s : State) : Res :=
  if !fnOk rq.fn then .fault .noSuchUnit
  else within p 208 (within r 16 (.next (
    if mgc then s.writeTail (userCode true) p r v
    else s.takeAcc rq (.regWrite (windowBase + 0x10000 * p + 0x40C + 16 * r) v.toNat) 0 none)))

/-- RING_HEAD_WRITE (R169). -/
def execRingHeadWrite (mgc : Bool) (rq : Requester) (p r : Nat) (v : Word) (s : State) : Res :=
  if !fnOk rq.fn then .fault .noSuchUnit
  else within p 208 (within r 16 (.next (
    if mgc then s.writeHead (userCode true) p r v
    else s.takeAcc rq (.regWrite (windowBase + 0x10000 * p + 0x408 + 16 * r) v.toNat) 0 none)))

/-! ### Register packets of a lead (R312) -/

/-- REGRD_RECEIVE (R312): the follower reads and answers on VC 1. -/
def execRegrdReceive (port : Nat) (s : State) : Res :=
  within port 64 (.next (
    match s.takeHost port 0 pRegrd 0 subReg s.fromLead with
    | (s1, some k) => s1.takeAcc (leadOf k.func) (.regRead k.addr false) k.addr (some (k.src, k.reqid))
    | (s1, none) => s1))

/-- REGWR_RECEIVE (R312). Before the HIF is released (R412) the write has no effect (log entry 13). -/
def execRegwrReceive (port : Nat) (s : State) : Res :=
  within port 64 (.next (
    match s.takeHost port 0 pRegwr 0 subReg s.fromLead with
    | (s1, some k) =>
      if !s1.hif.released then s1
      else if publishes (fnOf k.func) k.addr then s1.takeAcc (leadOf k.func) (.regWrite k.addr (leAt k.data 0 4)) k.addr none
      else s1.regWrite (fnOf k.func) k.addr (leAt k.data 0 4)
    | (s1, none) => s1))

/-! ### The wait limit (R163) -/

/-- A row of the MGC's copy. -/
def RowUse.isCopy : RowUse → Bool
  | .toCopy _ | .fromCopy _ _ => true
  | _ => false

/-- HOST_WAIT_LIMIT (R163): a class H request that has waited 65,536 beats ends. Its ungranted reads return zeros, its
ungranted writes write nothing, and 0x3008 is raised. The MGC's copy asks for its row again (log entry 22). -/
def execHostWaitLimit (p : Nat) (s : State) : Res :=
  within p 208 (.next (
    let old (r : RowReq) : Bool := r.cls == 5 && decide (r.since + 65536 ≤ s.age)
    match (s.tile p).reqs.find? old with
    | none => s
    | some r =>
      let mine (x : RowReq) : Bool := x.cls == 5 && x.seq == r.seq && x.use.isCopy == r.use.isCopy
      let gone := (s.tile p).reqs.filter mine
      let s1 := s.modTile p fun t => { t with reqs := t.reqs.filter fun x => !mine x }
      ((gone.foldl (fun s x =>
        match x.use with
        | .toHost f ring off => s.hdmaSettle f ring off 64
        | .fromHost f ring _ _ => s.hdmaSettle f ring 0 0
        | .toCopy tbl | .fromCopy tbl _ => s.modTable tbl fun x => { x with subst := x.subst.map fun y => { y with asked := false } }
        | .toWin id _ | .fromWin id _ _ => s.modAcc id fun a => { a with left := a.left - 1 }
        | _ => s) s1).raiseMgc 0x3008).pumpHost))

end Sys2Proof.Machine
end

