-- ==== Sys2Proof/Machine/Mgmt.lean ====
section
/-! DEFINITION. The management controller (R399 to R413): the mailbox commands, the fault log, sensors and limits,
the thermal and power stops, and the power sequence. -/

namespace Sys2Proof.Machine

/-! ### The mailbox (R400, R401) -/

/-- A mailbox's command of a kind is the one that the MGC serves (R400): one at a time, the PCIe mailbox first. -/
def State.serves_ (s : State) (smb : Bool) (op : Nat) : Bool :=
  let x := s.mgc.mbox smb
  x.busy && x.runOp == op && (!smb || !s.mgc.pcie.busy) && s.mgc.restarting.isNone && s.mgc.takes smb op

/-- A mailbox command ends (R400): STATUS, and the result's bytes in the buffer. -/
def State.mboxDone (s : State) (smb : Bool) (status : Nat) (result : List Byte) : State :=
  let x := s.mgc.mbox smb
  (s.setMbox smb { x with busy := false, status, rlen := result.length, buf := writeCells x.buf 0 result }).answerUnknown

/-- A mailbox command ends whose record the flash did not take (R405): the manual does not say with which status, so it is
success or a code of the MGC (log entry 49). -/
def State.mboxUnwritten (s : State) (smb : Bool) : State :=
  let (s1, w) := s.drawFree
  let c := w.toNat % 0x1000
  s1.mboxDone smb (if c = 0 then 0 else 0x9000 + c) []

/-- Serve a mailbox command of a kind: nothing happens unless it is the one that runs; outside its permitted state it
ends with 0x9002 and changes nothing (R401). -/
def State.serveMbox (s : State) (smb : Bool) (op : Nat) (allowed : Bool) (f : Mbox → State) : State :=
  if !s.serves_ smb op then s
  else if !allowed then s.mboxDone smb 0x9002 []
  else
    let x := s.mgc.mbox smb
    f { x with op := x.runOp, len := x.runLen, arg := x.runArg }

/-- DCK.STATE is NONE (R401). -/
def State.deckNone (s : State) : Bool := s.dck.state == .none_

/-- LOG_READ (R401). A page index above 2,047 is invalid (log entry 28). -/
def execLogRead (smb : Bool) (s : State) : Res :=
  .next (s.serveMbox smb 1 true fun x =>
    let page := x.arg.toNat
    if 2048 ≤ page then s.mboxDone smb 0x9001 []
    else
      let r := s.mgc.flash.record (.page page)
      match pickBank 4096 r with
      | some b => s.mboxDone smb 0 (padTo 4096 (bankAt r b))
      | none => s.mboxDone smb 0x9003 [])

/-- Bytes of a firmware image. -/
def imageBytes : Nat := 2 ^ 22
/-- The image that does not run (R401): that of the bank that STATUS.BANK does not name. -/
def Mgc.inactive (m : Mgc) : Nat := 1 - m.bank
/-- Write bytes of a firmware image. -/
def Flash.writeImage (f : Flash) (bank off : Nat) (l : List Byte) : Flash :=
  if bank == 0 then { f with imageA := writeCells f.imageA off l } else { f with imageB := writeCells f.imageB off l }

/-- FW_WRITE (R401): LEN bytes at an offset of the inactive image; an offset that is misaligned or past the image is
invalid (log entry 28). -/
def execFwWrite (smb : Bool) (s : State) : Res :=
  .next (s.serveMbox smb 2 true fun x =>
    let off := x.arg.toNat
    if off % 4096 != 0 || decide (imageBytes ≤ off) then s.mboxDone smb 0x9001 []
    else
      let f := s.mgc.flash.writeImage s.mgc.inactive off (readCells x.buf 0 x.len)
      { s with mgc := { s.mgc with flash := f } }.mboxDone smb 0 [])

/-- A firmware image (R404). -/
def Flash.image (f : Flash) (bank : Nat) : List Host.Cell := if bank == 0 then f.imageA else f.imageB
/-- Length and security version that an image's header carries (R403), in its first two words (DESIGN CHOICE, log entry 25). -/
def imageHead (c : List Host.Cell) : Nat × Nat := (leNat (readCells c 0 4), leNat (readCells c 4 4))
/-- An image is accepted (R403): its length fits, its security version is at least the fused minimum, and its signature
verifies. The firmware key is not in the spec, so what its check finds is given (log entry 25). -/
def State.accepts (s : State) (bank : Nat) (signed : Bool) : Bool :=
  let h := imageHead (s.mgc.flash.image bank)
  signed && decide (h.1 ≤ imageBytes) && decide (s.minVersion ≤ h.2)

/-- FW_COMMIT (R401, R403): an image that verifies is named by the boot control record. -/
def execFwCommit (smb ok : Bool) (s : State) : Res :=
  .next (s.serveMbox smb 3 true fun _ =>
    if !s.accepts s.mgc.inactive ok then s.mboxDone smb 0x9006 []
    else
      let (t, done) := s.flashWrite .boot (s.mgc.flash.seq .boot) [BitVec.ofNat 8 s.mgc.inactive]
      if done then t.mboxDone smb 0 [] else t.mboxUnwritten smb)

/-- FW_ACTIVATE (R401): the MGC restarts; the command ends with the restart. -/
def execFwActivate (smb : Bool) (s : State) : Res :=
  .next (s.serveMbox smb 4 s.deckNone fun _ =>
    { s with mgc := { s.mgc with ready := false, restarting := some smb } })

/-- The operands of KEY_ENROL and KEY_REVOKE (R401). -/
structure KeyArgs where
  slot : Nat
  auth : Nat
  /-- bytes 2 to 98 -/
  point : List Byte
  r : Nat
  s : Nat
  /-- bytes 0 to 98, which the signature covers -/
  msg : List Byte
  deriving DecidableEq, Repr

/-- Read the operands from the buffer (R401): r and s are little-endian values (R14); the point has the format of its own
that R401 names. -/
def keyArgs (x : Mbox) : KeyArgs :=
  let b := readCells x.buf 0 195
  { slot := leAt b 0 1, auth := leAt b 1 1, point := (b.drop 2).take 97, r := leAt b 99 48,
    s := leAt b 147 48, msg := b.take 99 }

/-- AUTHSLOT is valid and differs from the slot (R402). -/
def Flash.mayAuth (f : Flash) (a : KeyArgs) : Bool :=
  decide (a.slot < 8) && decide (a.auth < 8) && a.auth != a.slot && (f.key a.auth).state == 1
/-- The signature verifies by the key in AUTHSLOT (R402). -/
def Flash.signed (f : Flash) (a : KeyArgs) : Bool := ecdsaOk (f.key a.auth).x (f.key a.auth).y a.r a.s a.msg
/-- The point as coordinates, when it is one (R401). -/
def KeyArgs.coords (a : KeyArgs) : Option (Nat × Nat) :=
  let x := beNat ((a.point.drop 1).take 48)
  let y := beNat ((a.point.drop 49).take 48)
  if a.point.headD 0#8 == 0x04#8 && onCurve x y then some (x, y) else none

/-- Finish a key command: refusal, failed signature, or the slot's new record (R402). -/
def State.keyDone (s : State) (smb : Bool) (a : KeyArgs) (new : Option KeySlot) : State :=
  let f := s.mgc.flash
  match new with
  | none => s.mboxDone smb 0x9002 []
  | some k =>
    if f.signed a then
      let (t, done) := s.flashWrite (.key a.slot) (f.seq (.key a.slot)) (keyPayload k.state k.x k.y k.print)
      if done then t.mboxDone smb 0 [] else t.mboxUnwritten smb
    else s.mboxDone smb 0x9008 []

/-- KEY_ENROL (R402). -/
def execKeyEnrol (smb : Bool) (s : State) : Res :=
  .next (s.serveMbox smb 5 s.deckNone fun x =>
    let a := keyArgs x
    let f := s.mgc.flash
    s.keyDone smb a (
      if f.mayAuth a && (f.key a.slot).state == 0 then
        a.coords.map fun c => { state := 1, x := c.1, y := c.2, print := printOf c.1 c.2 }
      else none))

/-- KEY_REVOKE (R402): under the same conditions, applied to a valid slot. AUTHSLOT stays valid, so one always does. -/
def execKeyRevoke (smb : Bool) (s : State) : Res :=
  .next (s.serveMbox smb 6 s.deckNone fun x =>
    let a := keyArgs x
    let f := s.mgc.flash
    s.keyDone smb a (
      if f.mayAuth a && (f.key a.slot).state == 1 && a.point.all (· == 0#8) then some { f.key a.slot with state := 2 }
      else none))

/-- An offset in HIF, RCU or LNK (R401). -/
def mboxReg (off : Nat) : Bool := off / 0x100000 == 0 || off / 0x100000 == 2 || off / 0x100000 == 3

/-- REG_WRITE (R401). Another block's offset is invalid (log entry 28). -/
def execRegWrite (smb : Bool) (s : State) : Res :=
  .next (s.serveMbox smb 7 s.deckNone fun x =>
    let off := bits x.arg.toNat 0 32
    if !mboxReg off then s.mboxDone smb 0x9001 []
    else (s.regWrite .pf off (bits x.arg.toNat 32 32)).mboxDone smb 0 [])

/-- REG_READ (R401). -/
def execRegRead (smb : Bool) (s : State) : Res :=
  .next (s.serveMbox smb 8 true fun x =>
    let off := bits x.arg.toNat 0 32
    if !mboxReg off then s.mboxDone smb 0x9001 []
    else
      let (s1, v) := s.regRead .pf off
      s1.mboxDone smb 0 (leBytes 4 v))

/-! ### Alarms and stops (R407 to R409, R413) -/

/-- A 12-bit reading in sixteenths of a degree (R407). -/
def degrees16 (t : BitVec 12) : Int := toSigned 12 t.toNat

/-- An alarm condition stands, and ALERT_N is low (R408, R413). -/
def State.alert (s : State) (code : Nat) : State :=
  { s with mgc := { s.mgc with alerts := if s.mgc.alerts.contains code then s.mgc.alerts else s.mgc.alerts ++ [code] } }
/-- An alarm condition has cleared. -/
def State.clearAlert (s : State) (code : Nat) : State :=
  { s with mgc := { s.mgc with alerts := s.mgc.alerts.filter (· != code) } }
/-- A condition of R408 is judged: its notice and alarm, or its end. -/
def State.judge (s : State) (code : Nat) (on : Bool) : State :=
  if on then (s.noticeMgc code).alert code else s.clearAlert code

/-- Every dealer stops at the next tick boundary (R28, R43, R409). -/
def State.stopAll (s : State) : State :=
  (List.range 16).foldl (fun s t => s.modTable t fun x => { x with stopping := true }) s

/-- A thermal or power stop begins (R409, steps 1 and 2); while another is in progress only the log sees it. -/
def State.stopDevice (s : State) (code : Nat) : State :=
  let s1 := (s.noticeMgc code).alert code
  if s.mgc.tstop then s1
  else { s1 with mgc := { s1.mgc with tstop := true, therm := true, stopCode := some code, stopAt := s.age } }.stopAll

/-- TEMP_SAMPLE (R407, R408): the reading; the alarm at 105 °C, which clears below 100 °C. -/
def execTempSample (i : Nat) (t : BitVec 12) (s : State) : Res :=
  within i 64 (.next (
    let old : Temp := Map.get {} s.mgc.temps i
    let alarm := decide (1680 ≤ degrees16 t) || (old.alarm && decide (1600 ≤ degrees16 t))
    let temps := Map.set {} s.mgc.temps i { t, alarm }
    let s1 := { s with mgc := { s.mgc with temps } }
    if alarm && !old.alarm then s1.judge 0xA010 true
    else if temps.any (·.2.alarm) then s1
    else s1.clearAlert 0xA010))

/-- THERMAL_STOP (R408, R409): the comparator of a sensor at 115 °C. -/
def execThermalStop (i : Nat) (t : BitVec 12) (s : State) : Res :=
  within i 64 (.next (if 1840 ≤ degrees16 t then s.stopDevice 0xA011 else s))

/-- POWER_STOP (R408, R409): W1MS has been above 1,800 W for 10 ms. -/
def execPowerStop (w : BitVec 16) (s : State) : Res :=
  let s1 := { s with mgc := { s.mgc with w1ms := w } }
  .next (if 1800 < w.toNat then s1.stopDevice 0xA005 else s1)

/-- The rail of a monitor (R407, R411). -/
def monitorRail (i : Nat) : Nat :=
  if i < 8 then 0 else if i < 12 then 1 else if i < 14 then 2 else if i < 18 then 3 else if i < 19 then 4 else if i < 21 then 5
  else i - 15
/-- Nominal millivolts and tolerance in percent of a rail (R411). -/
def railSpec (j : Nat) : Nat × Nat :=
  nth (0, 0) [(800, 2), (750, 2), (750, 2), (900, 2), (1800, 3), (800, 2), (1200, 3), (800, 3), (1800, 3)] j
/-- A reading of a monitor, LOW and HIGH (R407). -/
def vmonOf (i : Nat) (mv : BitVec 16) : BitVec 16 × Bool × Bool :=
  let (n, tol) := railSpec (monitorRail i)
  (mv, decide (mv.toNat * 100 < n * (100 - tol)), decide (n * (100 + tol) < mv.toNat * 100))

/-- RAIL_FAULT (R407, R408): a monitor's reading; one outside its tolerance that is `held` for 10 ms stops the device when a
deck runs. The alarm clears when no monitor reads LOW or HIGH. -/
def execRailFault (i : Nat) (mv : BitVec 16) (held : Bool) (s : State) : Res :=
  within i 24 (.next (
    let v := vmonOf i mv
    let vmon := Map.set (0, false, false) s.mgc.vmon i v
    let s1 := { s with mgc := { s.mgc with vmon } }
    if v.2.1 || v.2.2 then (if held && s.deckRuns then s1.stopDevice 0x9005 else s1)
    else if vmon.any fun e => e.2.2.1 || e.2.2.2 then s1
    else s1.clearAlert 0x9005))

/-- COOLANT_HIGH (R407, R408): the coolant readings of one second; an inlet above 40 °C is a notice. Inputs that read are
neither open nor shorted, so a coolant fault has gone (log entry 38). -/
def execCoolantHigh (c : CoolantIn) (s : State) : Res :=
  let s1 := { s with mgc := { s.mgc with inlet := c.inlet, outlet := c.outlet, coolFault := false } }.judge 0xA013 false
  .next (s1.judge 0xA012 (decide (640 < degrees16 c.inlet)))

/-- COOLANT_SENSOR_FAULT (R407, R408). -/
def execCoolantSensorFault (s : State) : Res :=
  .next (if s.mgc.coolFault then s else { s with mgc := { s.mgc with coolFault := true } }.judge 0xA013 true)

/-- POWER_WINDOW_END (R407, R408): the second's readings; W1S above 1,500 W, and 0xA002 raised in more than 1 % of its
ticks. -/
def execPowerWindowEnd (r : PowerIn) (s : State) : Res :=
  let n := s.pwr
  let irail := (r.amps.filter fun e => decide (e.1 < 9)).foldl (fun m e => Map.set 0#16 m e.1 e.2) s.mgc.irail
  let s1 := { s with mgc := { s.mgc with w1s := r.w1s, irail }, pwr := { n with ticks := 0, overruns := 0 } }
  let s2 := (r.light.filter fun e => decide (e.1 < 64)).foldl
    (fun t e => { t with mgc := { t.mgc with optp := Map.set (0, 0) t.mgc.optp e.1 e.2 } }) s1
  .next ((s2.judge 0xA004 (decide (1500 < r.w1s.toNat))).judge 0xA003 (decide (n.ticks < n.overruns * 100)))

/-! ### The fault log (R406) -/

/-- Entries of a log page (R406). -/
def logEntries : Nat := 124
/-- Codes that are written at once (R406). -/
def urgentCode (c : Nat) : Bool := c == 0x8011 || c == 0x8014 || c == 0x0010

/-- A page's payload (R406): the seat maps, up to 124 entries, 48 reserved bytes. -/
def State.logPayload (s : State) (l : List Rec) : List Byte :=
  (List.range 16).flatMap (fun t => leBytes 4 (s.seatWord t)) ++ padTo (32 * logEntries) (l.flatMap (·.bytes false)) ++ rep 48 0#8

/-- LOG_PAGE_WRITE (R406): at most every 100 ms while new entries wait, or at once for a key code; a full page moves the
log to the next page. Entries of a page that fails to verify (R405) stay new. -/
def execLogPageWrite (s : State) : Res :=
  .next (
    let m := s.mgc
    if m.logNew.isEmpty || !(decide (m.logAt + 100000 * s.usBeats ≤ s.age) || m.logNew.any fun r => urgentCode r.status) then s
    else
      let l := (m.logPage ++ m.logNew).take logEntries
      let seq := m.logSeq + 1
      let full := decide (logEntries ≤ l.length)
      let (t, done) := s.flashWrite (.page m.logIdx) seq (s.logPayload l)
      if !done then { t with mgc := { t.mgc with logAt := s.age } }
      else
        { t with mgc := { t.mgc with
            logNew := (m.logPage ++ m.logNew).drop logEntries, logPage := if full then [] else l,
            logIdx := if full then (m.logIdx + 1) % 2048 else m.logIdx, logSeq := seq, logAt := s.age } })

/-- LOG_SUPPRESSED (R406): the second ends, and one 0x900A entry counts what the limit kept out. -/
def execLogSuppressed (s : State) : Res :=
  .next (
    let m := s.mgc
    let lost := m.logRate.foldl (fun a e => a + e.2.2) 0
    let r : Rec := { status := 0x900A, kind := 2, src := srcMgc, win := 0, sseq := 0, stamp := s.roundCounter, tag := 0,
                     detail := lost % 2 ^ 32 }
    { s with mgc := { m with logNew := if lost == 0 then m.logNew else m.logNew ++ [r], logRate := [] } })

/-! ### Power (R403, R409, R412) -/

/-- THERM_RESTART (R409): accepted in a stop when every sensor reads below 95 °C; the device resets, the rails come up,
and requests that the stop has not ended yet end with its code. -/
def execThermRestart (smb : Bool) (s : State) : Res :=
  let cool := s.mgc.temps.all fun e => decide (degrees16 e.2.t < 1520)
  .next (s.serveMbox smb 9 (s.mgc.tstop && cool) fun _ =>
    let s0 := s.endDevice (s.mgc.stopCode.getD 0xA011)
    let s1 := s0.deviceReset
    { s1 with mgc := { s1.mgc with
        tstop := false, therm := false, stopCode := none, rails := railOrder,
        alerts := s1.mgc.alerts.filter fun c => c != 0xA011 && c != 0xA005 && c != 0x9005 } }.mboxDone smb 0 [])

/-- The bank that the ROM runs (R403): bank and FALLBACK, none when both images fail. -/
def State.bootBank (s : State) (fw : FwCheck) : Option (Nat × Bool) :=
  let boot := s.mgc.flash.bootBank
  if s.accepts boot fw.namedOk then some (boot, false)
  else if s.accepts (1 - boot) fw.otherOk then some (1 - boot, true)
  else none

/-- The newest log page in flash (R406): index, SEQ and payload. -/
def Flash.newestPage (f : Flash) : Option (Nat × Nat × List Byte) :=
  f.log.foldl (fun b e =>
    match recordOf 4096 e.2, b with
    | some (q, l), some (_, q', _) => if q' < q then some (e.1, q, l) else b
    | some (q, l), none => some (e.1, q, l)
    | none, _ => b) none

/-- The seat of a table whose recovery a page's entries speak of (R305, R397): the newest tile-suspect verdict of the table
or failed array of one of its seats. The entries do not name the seat of a copy that ran out of time (log entry 22). -/
def recoverSeat (pay : List Byte) (t : Nat) : Option Nat :=
  (List.range logEntries).foldl (fun b i =>
    let r := recOf ((pay.drop (64 + 32 * i)).take 32) 0
    if r.status == 0x8004 && r.src == t && r.tag % 256 / 12 == t then some (r.tag % 256 % 12)
    else if r.status == 0x8008 && r.src == t && r.detail % 256 / 13 == t && decide (r.detail % 256 % 13 < 12) then
      some (r.detail % 256 % 13)
    else b) none
/-- A table with the seat map of a snapshot word (R22); a recovery that a loss of power cut short ends with the joker standing
in for its seat. -/
def Table.ofSnap (w : Nat) (seat : Option Nat) : Table :=
  let x : Table := { jokerFor := bits w 0 4, jokerState := bits w 4 2, retired := bits w 8 13, failed := bit w 24 }
  match seat with
  | some n => if bit w 26 then { x with jokerFor := n, jokerState := 1, retired := putBits x.retired n 1 1 } else x
  | none => x

/-- Firmware starts on a bank (R403): READY, BANK, FALLBACK, FWREV, 0x9006 and 0x9007 when the named image failed, and
a probe of every idle joker (R394). -/
def State.startFirmware (s : State) (bank : Nat) (fallback : Bool) (fw : FwCheck) : State :=
  let s1 := { s with mgc := { s.mgc with
    ready := true, bank, fallback, fwrev := fw.rev % 2 ^ 16, restarting := none, flashWrites := 0, flashBad := fw.badWrites } }
  let s2 := if fallback then (s1.raiseMgc 0x9006).noticeMgc 0x9007 else s1
  s2.idleJokers.foldl (fun s p => if s.tly.probeQueue.contains p then s else s.queueProbe p) s2

/-- Steps 3 to 5 of the power-up sequence (R412): trims (R390) and seat maps (R22) come from flash, a store without a
valid bank is reported (R405), the rails come up and the HIF is released. -/
def State.bringUp (s : State) : State :=
  let f := s.mgc.flash
  let cal := f.read .calib
  let lost := (.calib :: .boot :: (List.range 8).map FlashPart.key).filter fun w => (f.read w).isNone
  let s1 := lost.foldl (fun s _ => s.raiseMgc 0x9003) s
  let s2 : State := { s1 with
    tly := { s1.tly with trim := calibMap cal 0, events := calibMap cal 1, ladder := calibMap cal 0 },
    mgc := { s1.mgc with rails := railOrder },
    hif := { s1.hif with released := true } }
  match f.newestPage with
  | none => s2.raiseMgc 0x9003
  | some (idx, seq, pay) =>
    let s3 := { s2 with mgc := { s2.mgc with logIdx := (idx + 1) % 2048, logSeq := seq } }
    (List.range 16).foldl (fun s t => s.setTable t (Table.ofSnap (leAt pay (4 * t) 4) (recoverSeat pay t))) s3

/-- What every reset keeps (R314): the flash, but for a bank that is being written (R405); the queue of commands and the model's own fields stay too. -/
def State.powerOff (s : State) : State :=
  { State.reset with
    pending := s.pending, freeIdx := s.freeIdx, out := s.out, grade := s.grade, stepping := s.stepping,
    minVersion := s.minVersion, mgc := { flash := s.mgc.cutWrites }, hif := { released := false } }

/-- POWER_ON (R403, R412): POR_N has risen. Without a valid image the MGC stays in the ROM and the rails stay off. -/
def execPowerOn (fw : FwCheck) (s : State) : Res :=
  .next (
    if s.mgc.ready || s.mgc.restarting.isSome then s
    else
      let s1 := s.powerOff
      match s1.bootBank fw with
      | none => s1
      | some (bank, fb) => s1.bringUp.startFirmware bank fb fw)

/-- RAIL_ENABLE_TIMEOUT (R412): a rail of the sequence, which takes at most 35 ms, missed its 5 ms. Every enable is
dropped, 0x9005 is logged, and the device is unusable until POR_N is cycled. -/
def execRailEnableTimeout (rail : Nat) (s : State) : Res :=
  within rail 7 (.next (
    if s.mgc.rails.contains rail && decide (s.age ≤ 35000 * s.usBeats) && s.deckNone then
      { s with mgc := { s.mgc with rails := [], dead := true, ready := true }, hif := { s.hif with released := false } }.noticeMgc
        0x9005
    else s))

/-- POWER_DOWN (R412, R314): the enables drop in reverse order and the always-on rails go, or POR_N falls: everything
but the flash is lost. -/
def execPowerDown (s : State) : Res := .next s.powerOff

/-- MGC_RESTART_COMPLETE (R401, R403): firmware runs again and FW_ACTIVATE ends, or the MGC stays in the ROM. A device
that waited in the ROM for an image then goes on with its power-up. -/
def execMgcRestartComplete (fw : FwCheck) (s : State) : Res :=
  .next (
    match s.mgc.restarting with
    | none => s
    | some smb =>
      match s.bootBank fw with
      | none => { s with mgc := { s.mgc with restarting := none } }.mboxDone smb 0x9006 []
      | some (bank, fb) =>
        let s1 := if s.mgc.rails.isEmpty && !s.mgc.dead && !s.hif.released then s.bringUp else s
        (s1.startFirmware bank fb fw).mboxDone smb 0 [])

end Sys2Proof.Machine
end

