-- ==== Sys2Proof/Machine/Deck.lean ====
section
/-! DEFINITION. Loading, starting and stopping a deck (R291 to R297, R425). -/

namespace Sys2Proof.Machine

/-! ### Steps 1 to 3 (R292) -/

/-- Header checks of step 1 (R288, R292), with the offset of the field at fault; `len` is the command's length. -/
def headerBad (h : List Byte) (len : Nat) : Option Fail :=
  let length := leAt h 24 8
  firstSome [
    failIf (leAt h 0 8 != 0x004B434544325646) 0x1001 0,
    failIf (leAt h 8 2 != 1) 0x1001 8,
    failIf (leAt h 18 2 == 0) 0x1001 18,
    failIf (length % 64 != 0 || decide (length < 1024) || decide (2 ^ 29 < length)) 0x100C 24,
    failIf (decide (len < length)) 0x100D length] id

/-- Key and signature checks of step 2 (R291, R425). -/
def State.signatureBad (s : State) (b : List Byte) : Option Fail :=
  let n := b.length
  let k := s.mgc.flash.key (leAt b 56 1)
  if decide (7 < leAt b 56 1) || k.state != 1 then some (0x1004, n - 128)
  else failIf (!ecdsaOk k.x k.y (leAt b (n - 128) 48) (leAt b (n - 80) 48) (b.take (n - 128))) 0x1002 (n - 128)

/-- The deck has circuits on near ports, or on far ports (R47): some entry of a circuit section with COUNT not 0. -/
def DeckIn.hasCircuits (d : DeckIn) (far : Bool) : Bool :=
  d.sects.any fun x => (x.typ == tScirc || x.typ == tRcirc) && decide (x.scope < 64) && decide (48 ≤ x.scope) == far &&
    (wordsOf 8 x.body).any fun w => (circuitE w).count != 0

/-- Identity checks of step 3 (R292). -/
def State.identityBad (s : State) (d : DeckIn) : Option Fail :=
  let eqBad (v : Nat) (far : Bool) : Bool := (v != 0 && (decide (v < 8) || decide (2047 < v))) || (v == 0 && d.hasCircuits far)
  firstSome [
    failIf (d.at_ 10 1 != s.grade.code) 0x1005 10,
    failIf (d.devices == 0 || decide (1024 < d.devices) || d.devices != s.dck.devices) 0x1006 12,
    failIf (d.devIndex != s.lnk.dev) 0x1007 14,
    failIf (d.at_ 11 1 != 64) 0x1008 11,
    failIf (decide (d.k < 11) || decide (16 < d.k)) 0x1009 16,
    failIf (eqBad (d.at_ 20 2) false) 0x100E 20,
    failIf (eqBad (d.at_ 22 2) true) 0x100E 22] id

/-! ### Pass 2 (R293) -/

/-- Every check of the validator that reads a section. -/
def DeckIn.checks (d : DeckIn) : List DeckCheck := d.formChecks ++ d.progChecks ++ d.pipChecks ++ d.serveChecks

/-- The first check that fails section by section, with the directory index that FAIL.ENTRY shows (R293, R425). Bytes
past `got` could not be read. -/
def DeckIn.firstBad (d : DeckIn) (got : Nat) : List Sect → Option (Nat × Nat × Fail)
  | [] => failIf (decide (got < d.bytes.length)) 0x100D got |>.map fun f => (d.nsect, 0xFFFF, f)
  | x :: l =>
    if decide (0 < x.size) && decide (got < x.off + x.size) then some (x.idx, 0xFFFF, (0x100D, got))
    else match lowestFail (d.checks.filter fun c => d.place c == some x.idx) with
      | some r => some (x.idx, x.idx, r.2)
      | none => d.firstBad got l

/-- Where pass 2 fails: how many sections it has written by then, ENTRY, and the failure. -/
def DeckIn.pass2Bad (d : DeckIn) (got : Nat) : Option (Nat × Nat × Fail) :=
  let early : Option Fail := firstSome [failIf (decide (got < 256)) 0x100D got, d.headerReserved, d.dirPlace,
    failIf (decide (got < d.dirOff + 32 * d.nsect)) 0x100D got] id
  match early with
  | some f => some (0, 0xFFFF, f)
  | none => match d.dirBad with
    | some f => some (0, 0xFFFF, f)
    | none => d.firstBad got d.sects

/-- The position that takes a logical tile's sections (R294): none while its seat is retired without a stand-in. -/
def State.loadPos (s : State) (t : Nat) : Option Nat :=
  match s.posKind (s.physOf t) with
  | .seat _ | .joker _ => some (s.physOf t)
  | _ => none

/-- The rows of the INIT sections among the first `n` (R294, R421). -/
def State.writeInit (s : State) (d : DeckIn) (n : Nat) : State :=
  (d.sects.take n).foldl (fun s x =>
    if x.typ == tInit && decide (4 < x.size) then
      match s.loadPos x.scope with
      | some p => s.pokeBytes p (64 * leAt x.body 0 4) (x.body.drop 4)
      | none => s
    else s) s

/-! ### Stores (R289, R294, R295) -/

/-- A sparse map from a list of values by index: only what differs from the default is listed. -/
def sparse {α : Type} [DecidableEq α] (d : α) (l : List α) (base : Nat := 0) : List (Nat × α) :=
  (l.zipIdx.filter fun x => x.1 != d).map fun x => (base + x.2, x.1)

/-- Instruction stores from a PIPIMG section (R420). -/
def istoreOf (b : List Byte) : List (Nat × Word) :=
  (List.range 64).flatMap fun i =>
    sparse 0#32 ((List.range (pipLen b / 4)).map fun a => BitVec.ofNat 32 (imageWord b i a)) (2048 * i)
/-- Rings from a RINGHND section (R165, R289). -/
def ringsOf (b : List Byte) : List (Nat × Ring) :=
  sparse {} ((List.range 16).map fun r =>
    let w (i : Nat) : Word := BitVec.ofNat 32 (leAt b (16 * r + 4 * i) 4)
    { base := w 0, cfg := w 1, head := w 2, tail := w 3, reserve := w 3 })

/-- A tile as a load leaves it (R114, R121, R184, R295): its stores from the deck's sections for logical tile `t`, its
counters, pips and engines as after reset; transfers of the host and of other devices go on. -/
def DeckIn.loadTile (d : DeckIn) (t : Nat) (old : Tile) : Tile :=
  let prog := d.body tProg t
  let ring := d.body tRing t
  { store := sparse 0#128 ((bundlesOf prog).map (BitVec.ofNat 128)),
    ranges := (rangeRecs prog).map fun r => (r.prog, r.first, r.count),
    odt := sparse 0#128 ((d.odtWords t).map (BitVec.ofNat 128)),
    rings := ringsOf ring, handles := sparse 0#64 ((handleImages ring).map (BitVec.ofNat 64)),
    pips := { istore := istoreOf (d.body tPip t) }, ops := old.ops, rx := old.rx, nextOp := old.nextOp, outq := old.outq,
    reqs := old.reqs, bank := old.bank, acks := old.acks, capture := old.capture }
/-- A tile that the deck does not reach. -/
def Tile.loadNone (old : Tile) : Tile :=
  { ops := old.ops, rx := old.rx, nextOp := old.nextOp, outq := old.outq, reqs := old.reqs, bank := old.bank, acks := old.acks,
    capture := old.capture }

/-- What the deck tells the shared blocks (R289, R326, R354, R424). -/
def DeckIn.config (d : DeckIn) : DeckCfg :=
  let b := d.serve
  let power (prog : Nat) : Nat × Nat := match d.powerRows.find? (·.2.1 == prog) with | some r => r.2.2 | none => (0, 0)
  { devices := d.devices, phases := d.phases,
    progs := d.dirRows.map fun r =>
      { prog := r.prog, table := r.table, section_ := r.sec, role := r.role, clock := r.clock, slot := r.slot, cycle := r.cycle,
        tokens := (power r.prog).1, ports := (power r.prog).2 },
    serve := !b.isEmpty, vocab := leAt b 0 4,
    tables := if b.isEmpty then [] else sparse {} ((List.range 16).map fun t => serveTableOf b t),
    stateMap := stateMapOf b, gathers := gathersOf b,
    layout := sparse (0, 0, 0) ((List.range 192).map (layoutOf b)), learn := learnRecsOf d.learn }

/-- A table is IDLE (R295, R296). -/
def Table.idle (x : Table) : Table :=
  { x with phase := 0, switch := none, cycle0 := 0, role := none, prog := none, ghost := 0, stopping := false, closing := false }

/-- A deck as DCK reads it on this device. -/
def State.deckIn (s : State) (b : List Byte) : DeckIn := { bytes := b, sects := sectsOf b, grade := s.grade, seats := s.seats }

/-- A successful load (R294, R295): the stores are written, and the device is in LOADED. TICK, EQ_NEAR and EQ_FAR are
those that step 3 checked in pass 1 (R292). -/
def State.loaded (s : State) (l : Load) (d : DeckIn) : State :=
  let head := s.deckIn l.bytes
  let s := s.clearStores
  let used := (List.range 192).filterMap fun t => if d.hasTile t then (s.loadPos t).map fun p => (p, t) else none
  let tile (p : Nat) : Tile := match used.find? (·.1 == p) with
    | some x => d.loadTile x.2 (s.tile p)
    | none => (s.tile p).loadNone
  let port (n : Nat) : Port := { s.port n with
    sendTbl := sparse 0#64 ((wordsOf 8 (d.body tScirc n)).map (BitVec.ofNat 64)),
    recvTbl := sparse 0#64 ((wordsOf 8 (d.body tRcirc n)).map (BitVec.ofNat 64)) }
  { s with
    tiles := sparse {} ((List.range 208).map tile), ports := sparse {} ((List.range 64).map port),
    tables := s.tables.map fun (e : Nat × Table) => (e.1, e.2.idle),
    acc := [], accBad := [],
    lnk := { s.lnk with
      deckRoute := sparse 0#32 ((wordsOf 4 (d.body tRoutes scopeAll)).map (BitVec.ofNat 32)),
      hasRoutes := !(d.body tRoutes scopeAll).isEmpty },
    rcu := { s.rcu with k := 11 + l.tick11.val, eqNear := head.at_ 20 2, eqFar := head.at_ 22 2 },
    dck := { s.dck with state := .loaded, jobId := d.at_ 40 8, cfg := d.config } }

/-! ### DECK_LOAD -/

/-- A command of the deck ends: RESULT, its completion, and its place on its ring (R298, R304). -/
def State.endDeckCmd (s : State) (c : Pend) (status : Nat) : State :=
  (({ s with dck := { s.dck with result := status } }).complete c.fn status c.tag c.quiet).freeRing c.fn c.ring

/-- A load fails (R294, R425): the stores are cleared, the device is in NONE, FAIL shows where. -/
def State.loadFails (s : State) (c : Pend) (entry : Nat) (f : Fail) : State :=
  let s := s.clearStores
  { s with dck := { s.dck with failEntry := entry, failOff := f.2 } }.endDeckCmd c f.1

/-- The header of a deck has been read, or its read failed (R292 step 1). Pass 1 begins; on a device whose host answers for
itself, `h` goes on to the bytes that pass 1 reads. -/
def State.loadHeader (s : State) (c : Pend) (addr len : Nat) (h : HostBytes) : State :=
  if h.data.length < 256 then s.loadFails c 0xFFFF (0x100D, h.data.length)
  else match headerBad h.data len with
    | some f => s.loadFails c 0xFFFF f
    | none =>
      let len := leAt h.data 24 8
      { s with dck := { s.dck with pass := 1, load := some { cmd := c, addr, len, bytes := h.data.take len } } }

/-- A DECK_LOAD is taken (R292, R425): the state check, then ENTRY and FAILOFF are cleared; a length below 256 ends it
before the header is read. The answer says whether the header is wanted. -/
def State.acceptLoad (s : State) (c : Pend) (len : Nat) : State × Bool :=
  if s.dck.state ≠ .none_ && s.dck.state ≠ .loaded then (s.endDeckCmd c 0x2007, false)
  else
    let s := { s with dck := { s.dck with state := .loading, failEntry := 0, failOff := 0 } }
    if len < 256 then (s.loadFails c 0xFFFF (0x100D, 0), false) else (s, true)

/-- A load whose bytes come through a lead (R312): the follower's command ring. -/
def Load.far (l : Load) : Bool := l.cmd.ring == 4
/-- The bytes of a pass of such a load, when all of them have come. -/
def State.farPass (s : State) (l : Load) (pass : Nat) : Option (List Byte) :=
  match s.get? l.cmd.fn pass with
  | some g => if g.left == 0 then some g.bytes else none
  | none => none

/-- Pass 1 has read the deck: steps 2 and 3 (R292), and pass 2 begins (R298). -/
def State.checkPass1 (s : State) (l : Load) : State :=
  if l.bytes.length < l.len then s.loadFails l.cmd 0xFFFF (0x100D, l.bytes.length)
  else match firstSome [s.signatureBad l.bytes, s.identityBad (s.deckIn l.bytes)] id with
    | some f => s.loadFails l.cmd 0xFFFF f
    | none =>
      let s := { s with dck := { s.dck with pass := 2, load := some { l with tick11 := Fin.ofNat 6 ((s.deckIn l.bytes).k - 11) } } }
      if l.far then s.getHost l.cmd.fn 2 l.addr l.len else s
/-- Pass 1 ends once its bytes are there (log entry 29). -/
def State.endPass1 (s : State) : State :=
  match s.dck.load with
  | some l =>
    if s.dck.state = .loading ∧ s.dck.pass = 1 then
      if l.far then
        match s.farPass l 1 with
        | some b => s.checkPass1 { l with bytes := b }
        | none => s
      else s.checkPass1 l
    else s
  | none => s

/-- Steps 4 and 5 of a load (R292): the bytes that pass 2 reads. -/
def State.runPass2 (s : State) (l : Load) (b : List Byte) : State :=
  let d := s.deckIn (b ++ rep (l.len - b.length) 0#8)
  match d.pass2Bad b.length with
  | some (n, entry, f) => (s.writeInit d n).loadFails l.cmd entry f
  | none =>
    let s := s.writeInit d d.nsect
    if sha384 l.bytes != sha384 b then s.loadFails l.cmd 0xFFFF (0x1003, l.len - 128)
    else (s.loaded l d).endDeckCmd l.cmd 0
/-- What a read of `n` bytes brought: at most the bytes before the one that failed. -/
def upTo (data : List Byte) (ok : Bool) (n : Nat) : List Byte := data.take (if ok then n else n - 1)
/-- Pass 2 ends: on a follower with what its lead has sent, once all of it is there. -/
def State.endPass2 (s : State) (own : List Byte) (ok : Bool) : State :=
  match s.dck.load with
  | some l =>
    if s.dck.state = .loading ∧ s.dck.pass = 2 then
      if l.far then
        match s.farPass l 2 with
        | some b => s.runPass2 l b
        | none => s
      else s.runPass2 l (upTo own ok l.len)
    else s
  | none => s

/-- DECK_LOAD_COMPLETE (R292 to R295): what is left of the two passes. -/
def execDeckLoadComplete (data : List Byte) (ok : Bool) (s : State) : Res := .next (s.endPass1.endPass2 data ok)

/-! ### DECK_START and DECK_STOP (R296, R297) -/

/-- A DECK_START is taken (R296). It completes at its acceptance or rejection. -/
def State.acceptStart (s : State) (c : Pend) : State :=
  let code :=
    if s.dck.state ≠ .loaded then 0x2007
    else if s.dck.devices ≠ s.dck.cfg.devices then 0x1006
    else if s.rcu.state ≠ .locked then 0x2009
    else if c.tick < s.tick + 2 then 0x2008
    else 0
  let s := if code = 0 then { s with dck := { s.dck with state := .starting, start := some c } } else s
  s.endDeckCmd c code

/-- A DECK_STOP is taken (R297). A rejected one completes at once, an accepted one at its stop tick; pending switches
that could still be cancelled are removed. -/
def State.acceptStop (s : State) (c : Pend) : State :=
  if s.dck.state ≠ .starting && s.dck.state ≠ .running then s.endDeckCmd c 0x2007
  else if !c.abort && decide (c.tick < s.tick + 2) then s.endDeckCmd c 0x2008
  else
    let stopTick := if c.abort then s.tick + 1 else c.tick + 1
    { s with
      dck := { s.dck with state := .stopping, stop := some { c with tick := stopTick } },
      tables := s.tables.map fun (e : Nat × Table) =>
        (e.1, if e.2.switch.any fun w => decide (s.tick + 2 ≤ w.tick) then { e.2 with switch := none, closing := false } else e.2) }

/-- The boundary that begins the start tick (R296, R379, R381): RUNNING, with every table IDLE, the choice registers
clear, and each trimmed position's quiet time counted from here (R390). -/
def State.deckStart (s : State) : State :=
  { s with
    dck := { s.dck with state := if s.dck.stop.isNone then .running else .stopping, start := none },
    tables := s.tables.map fun (e : Nat × Table) => (e.1, { e.2.idle with choice := 0 }),
    tiles := s.tiles.map fun (e : Nat × Tile) => (e.1, { e.2 with occ := [] }),
    tly := { s.tly with choiceDev := 0, lastEvent := (s.tly.trim.map (·.1)).foldl (fun m p => Map.set 0 m p s.tick) s.tly.lastEvent } }

/-- The boundary that begins the stop tick (R297): publications sampled in the last tick are decided (R367, R368), requests
end, grants are withdrawn, the stores are cleared, derated clocks end (R390), and the command completes with the device in
NONE. -/
def State.deckStop (s : State) (c : Pend) : State :=
  let s := s.decideAll.endDevice 0x6051
  let s := s.learnRecs.foldl (fun s r => s.withdraw r.1) s
  let s := s.clearStores
  { s with
    tables := s.tables.map fun (e : Nat × Table) => (e.1, { e.2.idle with clock := 0, newClock := none }),
    svc := { s.svc with acts := [], lanes := [], nextLanes := [], gathering := [], reads := [] } }.endDeckCmd c 0

end Sys2Proof.Machine
end

