-- ==== Sys2Proof/Machine/Boundary.lean ====
section
/-! DEFINITION. The tick boundary (R30, R64): what the last beat of a tick ends, and every action that the manual places
at a boundary. -/

namespace Sys2Proof.Machine

/-- Fold over the sixteen tables. -/
def State.eachTable (s : State) (f : State → Nat → State) : State := (List.range 16).foldl f s
/-- Fold over the positions that hold something. -/
def State.eachTile (s : State) (f : State → Nat → State) : State := (s.tiles.map (·.1)).foldl f s
/-- Fold over the ports that hold something. -/
def State.eachPort (s : State) (f : State → Nat → State) : State := (s.ports.map (·.1)).foldl f s

/-! ### The last beat of a tick (R50, R51, R67, R282) -/

/-- What a position still runs in the last beat of the tick is cut off (R51); a foot write that waited for those of a pass
that is cut off is made then. -/
def State.cutTile (s : State) (p : Nat) : State :=
  let now := s.stamp (p / 13)
  ((((s.settleTile p).cutMatrix p).settleTile p).cutPips p now).cutSetups p now
/-- TICK_END_CUTOFF (R51): in the last beat of the tick, every slot-M or slot-V operation and every SETUP of a position
that is still in flight stops, after the work of that beat. -/
def execTickEndCutoff (p : Nat) (s : State) : Res :=
  within p 208 (.next (if s.tableBeat (p / 13) < s.lastBeat (p / 13) then s else (s.endBeat p).cutTile p))

/-- The program that a table runs in this tick at its own clock (R63). -/
def State.runningProg (s : State) (tbl : Nat) : Option Prog :=
  let x := s.table tbl
  match x.role, x.prog with
  | some r, some n =>
    match s.dck.cfg.progs.find? (·.prog == n) with
    | some p => s.progOf tbl p.section_ r p.slot x.clock
    | none => none
  | _, _ => none

/-- Metered tokens of a table in the running tick, in sixteenths, rounded up (R65, R67); an IDLE table meters 0. -/
def State.meterTable (s : State) (tbl : Nat) : Nat :=
  if (s.table tbl).role.isNone then 0
  else
    let beats := (List.range 13).foldl (fun n i =>
      let b := (s.tile (13 * tbl + i)).busy
      n + 4 * b.quad + 5 * b.quadStrict + b.pips + b.far) 0
    ceilDiv (16 * beats) (s.tableTick tbl)

/-- A port is active in the tick: its circuit table schedules at least one slot (R65). -/
def State.portActive (s : State) (x : Port) : Bool :=
  x.sendTbl.any fun e => let c := circuitE e.2.toNat; c.count != 0 && s.sendLive c

/-- PWR meters the tick (R67, R68, R408), whether or not a deck runs: an IDLE table reads 0. -/
def State.meterTick (s : State) : State :=
  let active := (s.ports.filter fun e => s.portActive e.2).length
  let total := (List.range 16).foldl (fun n t => n + s.meterTable t) (32 * active)
  let s1 := s.eachTable fun a t =>
    let used := s.meterTable t
    let map := match s.runningProg t with | some p => p.tokens | none => 0
    let hot := decide (map + 16 < used)
    let a := a.modTable t fun x => { x with used := satTo 0xFFF used, map, overrun := x.overrun || hot }
    if hot then a.raise (srcTable t) 2 0xA001 0 0 else a
  let hot := decide (1080 * 16 < total)
  let s2 := { s1 with pwr := { s1.pwr with active, ticks := s1.pwr.ticks + 1, overruns := s1.pwr.overruns + b2n hot } }
  if hot then s2.raiseMgc 0xA002 else s2

/-- Beats that the stamps of a position jump at the end of the tick: the next tick's begin at a multiple of 65536. What
comes in the next tick moves with them (R133, R382, R385). -/
def Tile.carry (t : Tile) (last jump : Nat) : Tile :=
  let move (d : Nat) : Nat := if last < d then d + jump else d
  { t with pips := { t.pips with pend := t.pips.pend.map fun x => { x with due := move x.due } },
           mismatches := t.mismatches.map fun m => { m with due := move m.due },
           digests := t.digests.map fun d => d.take 7 ++ (d.drop 7).map move }
def State.carryTile (s : State) (p : Nat) : State :=
  s.modTile p fun t => t.carry (s.stamp (p / 13)) (65536 - s.tableTick (p / 13))

/-- What no command has judged in the tick is judged when its last beat has run: input records (R330) and gathers (R337).
A TICK_BOUNDARY before the last beat skips the beats in which rows still on their way would have come (log entries 10 and 11). -/
def State.judgeLate (s : State) : State :=
  if s.beat + 1 = s.tickLen then
    (List.range s.dck.cfg.gathers.length).foldl State.judgeGather (s.eachTable State.judgeInputs)
  else s

/-- Beats pass: the count and the model's age advance, and what was being written to the flash is written (R405, log entry
25). -/
def State.pass (s : State) (n : Nat) : State :=
  { s with age := s.age + n, rcu := { s.rcu with count := s.rcu.count + BitVec.ofNat 64 n },
           mgc := if n = 0 then s.mgc else { s.mgc with flashOpen := [] } }

/-- The end of the tick, in its last beat. -/
def State.closeTick (s : State) : State :=
  let s := s.judgeLate
  let skip := s.tickLen - 1 - s.beat
  (((s.pass skip).eachTile State.cutTile).eachTile State.carryTile).meterTick

/-! ### Actions at the boundary, in the order of R64 -/

/-- Slot-X operations whose deadline was in the tick that has ended (R50, R51). -/
def State.expireTile (s : State) (p : Nat) : State := ((s.tile p).ops.map (·.id)).foldl (fun s id => s.expireOp p id) s

/-- A clock that the MGC commanded takes effect (R56, R64). -/
def State.changeClock (s : State) (tbl : Nat) : State :=
  s.modTable tbl fun x => { x with clock := x.newClock.getD x.clock, newClock := none }

/-- The device's dealers may not run (R43, R44, R409): it is LOST, or stopped. -/
def State.halted (s : State) : Bool := s.rcu.state == .lost || s.mgc.tstop

/-- A table's dealers stop (R28, R43, R62): it reads IDLE, its pending switch is removed, and the circuit slots of the
section that it was in go on leaving poisoned. -/
def Table.stop (x : Table) : Table :=
  { x.idle with ghost := if x.phase = 0 then x.ghost else x.phase, cycle0 := x.cycle0 }

/-- What becomes of a stopped table's requests (R349, R409). -/
def State.stopCodeOf (s : State) : Nat :=
  match s.mgc.stopCode with
  | some c => c
  | none => if s.rcu.state == .lost then 0x5004 else 0x6050

/-- Tables that stop at this boundary. A request that a failed table took in later ends as the others did (R29). -/
def State.stopTables (s : State) : State :=
  let all := s.halted
  s.eachTable fun s t =>
    if all || (s.table t).stopping then (s.modTable t Table.stop).endTable t s.stopCodeOf
    else if (s.table t).failed then s.endTable t s.stopCodeOf
    else s

/-- A deck starts or stops at this boundary (R296, R297). -/
def State.deckBoundary (s : State) : State :=
  match s.dck.stop, s.dck.start with
  | some c, st =>
    if c.tick ≤ s.tick then s.deckStop c
    else match st with
      | some b => if b.tick ≤ s.tick then s.deckStart else s
      | none => s
  | none, some b => if b.tick ≤ s.tick then s.deckStart else s
  | none, none => s

/-- The range of a position's program store that it runs in this tick (R180, R185, R422). -/
def State.rangeOf (s : State) (p : Nat) (prog : Option Prog) : Option (Nat × Nat) :=
  match s.posKind p, prog with
  | .seat _, some g | .joker _, some g =>
    ((s.tile p).ranges.find? fun r => r.1 == g.prog && r.2.2 != 0).map (·.2)
  | _, _ => none

/-- A position as the new tick finds it (R140, R185, R196). -/
def Tile.newTick (t : Tile) (run : Option (Nat × Nat)) (entry : Bool) : Tile :=
  { t with run, next := (run.getD (0, 0)).1, reps := [], decoded := [], poison := 0, crecvs := [], busy := {}, before := none, worked := false,
           pips := if entry then { t.pips with cache := [] } else t.pips }

/-- One table's phase step (R60, R63) and the programs of its dealers; a stopped table keeps the name of the tick program
whose slots leave poisoned (R28). -/
def State.stepTable (s : State) (t : Nat) : State :=
  let x := s.table t
  let pl := s.planTick t s.tick
  let runs := s.deckRuns && !s.halted
  let s := s.modTable t fun x =>
    if runs then
      { x with phase := pl.phase, switch := pl.switch, cycle0 := pl.cycle0, role := pl.role,
               closing := if x.switch.isSome && pl.switch.isNone then false else x.closing,
               ghost := if pl.phase = 0 then x.ghost else 0 }
    else { x with role := none }
  let y := s.table t
  let nominal := match y.role with
    | some _ => s.planProg t s.tick { pl with role := y.role }
    | none => if y.ghost = 0 then none else (s.progOf t y.ghost 0 (s.slotOf t y.ghost x.cycle0 s.tick) 0).map (·.prog)
  let s := s.modTable t fun x => { x with prog := nominal }
  let g := s.runningProg t
  (List.range 13).foldl (fun s i =>
    let p := 13 * t + i
    let run := s.rangeOf p g
    s.modTile p fun u => u.newTick run (y.role == some 2)) s

/-- Tables that begin an entry tick into LEARN (R364). -/
def State.entered (s : State) : List Nat :=
  (List.range 16).filter fun t => (s.table t).role == some 2 && (s.table t).phase == phaseLearn

/-- A port at a boundary (R282, R286): the backlog and the tick's stall are counted, and suspended circuits resume. -/
def State.portTick (s : State) (n : Nat) : State :=
  let ready := s.inWin n
  s.modPort n fun x =>
    { x with cBmax := max x.cBmax (min x.backlog 0xFFFF), cStall := satTo 255 (x.cStall + b2n x.stalled), stalled := false,
             suspended := x.suspended && !(x.state == .up && ready) }

/-- The round counter's own items at a boundary (R35, R39): HOLD_TICKS of a member, and the sync period's report. -/
def State.rcuTick (s : State) : State :=
  { s with rcu := { s.rcu with
      holdTicks := if s.rcu.role = 2 then satTo 0xFFFF (s.rcu.holdTicks + 1) else s.rcu.holdTicks,
      depthTold := s.rcu.depthTold && s.tick % s.syncPeriod != 0 } }

/-- VDD_CORE, VDD_SRAM, VDD_FAB, VDD_OPT and VDD_OPTA go off 10 ms after a stop (R409). -/
def State.railsOff (s : State) : State :=
  if s.mgc.tstop && decide (s.mgc.stopAt + 10000 * s.usBeats ≤ s.age) then
    { s with mgc := { s.mgc with rails := s.mgc.rails.filter fun r => decide (5 ≤ r) } }
  else s

/-- Everything that happens at the boundary that begins the running tick, in the order of R64. -/
def State.boundary (s : State) : State :=
  let s := ((s.rcuTick.railsOff.eachTile State.expireTile).eachTable State.switchSeat).respond
  let s := (s.eachTable State.changeClock).stopTables.deckBoundary
  let s := (s.eachPort State.portTick).eachTable State.stepTable
  let s := s.svcBoundary s.tick s.entered
  s.eachTable fun s t => s.modTable t fun x => { x with dfault := none }

/-- The running tick ends and the next begins. -/
def State.nextTick (s : State) : State :=
  (s.closeTick.pass 1).boundary

/-- The work of a fabric beat. -/
def State.fabricWork (s : State) : State := s.copyRows.samplePubs.beatWork.takeReads.pumpHost.endPass1

/-- TICK_BOUNDARY (R30): the count moves to beat 0 of the next tick, in the last beat after that beat's work. Before the
last beat it skips the beats that are left (log entry 10). -/
def execTickBoundary (s : State) : Res := .next (if s.beat + 1 = s.tickLen then s.fabricWork.nextTick else s.nextTick)

/-- One fabric beat with no command waiting (log entry 2). -/
def State.idleBeat (s : State) : State :=
  let s := s.fabricWork
  if s.beat + 1 = s.tickLen then s.nextTick else s.pass 1

end Sys2Proof.Machine
end

