-- ==== Sys2Proof/Machine/Fetch.lean ====
section
/-! DEFINITION. Commands of the host (R304, R312): fetching, checking and starting one, HDMA, and what a follower receives
from its lead. -/

namespace Sys2Proof.Machine

/-! ### A command's fields (R304) -/

/-- A command as its 64 bytes give it (R304). -/
structure Cmd where
  bytes : List Byte
  op : Nat
  win : Nat
  flags : Nat
  tag : Nat
  deriving DecidableEq, Repr
/-- Fields of a command. -/
def cmdOf (l : List Byte) : Cmd := { bytes := l, op := leAt l 0 1, win := leAt l 1 1 % 64, flags := leAt l 2 2, tag := leAt l 8 8 }
/-- A parameter of a command: bytes from an offset. -/
def Cmd.arg (c : Cmd) (o n : Nat) : Nat := leAt c.bytes o n
/-- First byte past a command's parameters. -/
def Cmd.stop (c : Cmd) : Nat :=
  match c.op with
  | 2 | 6 | 7 => 32
  | 3 => 24
  | 4 => 25
  | 5 | 8 => 28
  | _ => 16
/-- A reserved bit of a command is set (R304). -/
def Cmd.reserved (c : Cmd) : Bool :=
  decide (63 < leAt c.bytes 1 1) || decide (1 < c.flags) || leAt c.bytes 4 4 != 0 || leAt c.bytes c.stop (64 - c.stop) != 0 ||
    (match c.op with
     | 4 => decide (1 < c.arg 24 1)
     | 5 => decide (3 < c.arg 26 1) || decide (1 < c.arg 27 1)
     | 6 | 7 => decide (2 ^ 31 ≤ c.arg 24 4) || decide (2 ^ 26 < c.arg 28 4)
     | _ => false)
/-- The first check of R304 that a fetched command fails, 0 for none. -/
def State.cmdCheck (s : State) (f : Fn) (c : Cmd) : Nat :=
  if decide (8 < c.op) || c.reserved || (f != .pf && decide (2 ≤ c.op) && decide (c.op ≤ 4)) then 0x2002
  else if c.win != 0 && (s.follower c.win).isNone then 0x2003
  else 0

/-! ### HDMA (R304) -/

/-- The position whose rows a function's HDMA moves at a global address, and the row (R7, R23, R27): none where nothing
answers. -/
def State.hdmaRow (s : State) (f : Fn) (a : Nat) : Option (Nat × Nat) :=
  let lt := bits a 23 8
  let mine := match f with | .pf => true | .vf n => n == lt / 12
  if 192 ≤ lt || s.seats ≤ lt % 12 || !mine || decide (2 ^ 31 ≤ a) then none
  else
    let p := s.physOf lt
    match s.posKind p with
    | .seat _ | .joker _ => some (p, bits a 0 23 / 64)
    | _ => none
/-- A global address names no tile of the grade (decode_global). -/
def State.hdmaNoTile (s : State) (a : Nat) : Bool := decide (192 ≤ bits a 23 8) || decide (s.seats ≤ bits a 23 8 % 12) || decide (2 ^ 31 ≤ a)

/-- Add to the rows that a command still waits for. -/
def State.addLeft (s : State) (f : Fn) (i n : Nat) : State :=
  let r := s.cr f i
  s.setCr f i { r with run := r.run.map fun c => { c with left := c.left + n } }
/-- Set a command's status, unless one is set. -/
def State.setStatus (s : State) (f : Fn) (i code : Nat) : State :=
  let r := s.cr f i
  s.setCr f i { r with run := r.run.map fun c => if c.status == 0 then { c with status := code } else c }

/-- The row pieces of an HDMA command that may move: position and row of each, with the piece. Rows that a handle denies,
or that the map does not hold, settle at once and are reported once per position (R151, R173). -/
def State.hdmaRows (s : State) (f : Fn) (write : Bool) (addr n : Nat) : State × List (Nat × Nat × PWrite) :=
  let all := (spanRows addr n).filterMap fun w => (s.hdmaRow f (64 * w.row)).map fun x => (x.1, x.2, w)
  let bad (x : Nat × Nat × PWrite) : Bool := decide (mappedRows ≤ x.2.1)
  let no (x : Nat × Nat × PWrite) : Bool := !bad x && !s.mayAccess x.1 1 write x.2.1
  let ps := ((all.filter fun x => bad x || no x).map (·.1)).eraseDups
  (ps.foldl (fun a p => a.reportRows p (all.any fun x => x.1 == p && bad x) (all.any fun x => x.1 == p && no x)) s,
   if s.sramOff then [] else all.filter fun x => !bad x && !no x)

/-- Write a part of HDMA_IN data: `off` bytes into the command's data. -/
def State.hdmaIn (s : State) (f : Fn) (i : Nat) (c : CmdRun) (off : Nat) (data : List Byte) : State :=
  let (s, rows) := s.hdmaRows f true (c.dev + off) data.length
  rows.foldl (fun s x => s.askHost x.1 x.2.1 c.order (.fromHost (fnKey f) i x.2.2.lo ((data.drop x.2.2.srcOff).take x.2.2.len)))
    (s.addLeft f i rows.length)

/-- Ask for the rows of an HDMA_OUT; each lands in the command's buffer at its place, row-aligned. With VDD_SRAM off the
contents are lost, and a row reads as free values (log entry 5). -/
def State.hdmaOut (s : State) (f : Fn) (i : Nat) (c : CmdRun) : State :=
  let (s, rows) := s.hdmaRows f false c.dev c.len
  if s.sramOff then
    let row (k : Nat) : List Byte := (List.range 64).map fun b => Config.lostByte (64 * (c.dev / 64 + k) + b)
    let r := s.cr f i
    s.setCr f i { r with run := r.run.map fun x =>
      { x with buf := writeCells [] 0 ((List.range (ceilDiv (c.dev % 64 + c.len) 64)).flatMap row) } }
  else
    rows.foldl (fun s x => s.askHost x.1 x.2.1 c.order (.toHost (fnKey f) i (64 * (x.2.2.row - c.dev / 64)))) (s.addLeft f i rows.length)

/-- HDMA_COMPLETE (R304): every row has finished, and no read through the lead is open; an HDMA_OUT's bytes go to host
memory. -/
def execHdmaComplete (fn : Fn) (ring : Nat) (s : State) : Res :=
  if !fnOk fn then .fault .noSuchUnit
  else within ring 5 (.next (
    match (s.cr fn ring).run with
    | some c =>
      if c.left == 0 && c.win == 0 && (c.op == 6 || c.op == 7) && !(s.hif.hostReads.any fun x => x.2.1 == fnKey fn) then
        let s1 := if c.op == 7 then s.hostStore fn c.addr (readCells c.buf (c.dev % 64) c.len) else s
        s1.endRun fn ring c.status
      else s
    | none => s))

/-! ### Starting a command -/

/-- A command as a pending deck command. -/
def Cmd.pend (c : Cmd) (f : Fn) (ring tick : Nat) (abort : Bool) : Pend :=
  { tick, abort, fn := f, ring, tag := c.tag, quiet := bit c.flags 0, win := 0 }

/-- Start a checked command of this device on a ring (R292, R296, R297, R304, R318). `host` holds the bytes at the command's own host
address; none on a follower, which asks its lead. -/
def State.startCmd (s : State) (f : Fn) (i : Nat) (c : Cmd) (host : Option HostBytes) : State :=
  let run : CmdRun := { op := c.op, win := 0, flags := c.flags, tag := c.tag, status := 0, left := 0, addr := c.arg 16 8,
                        len := c.arg 28 4, buf := [], dev := c.arg 24 4, order := s.hif.fetched }
  let s := { s with hif := { s.hif with
    fetched := s.hif.fetched + 1,
    hostReads := if i == 4 then s.hif.hostReads.filter fun x => x.2.1 != fnKey f else s.hif.hostReads } }
  let s := s.setCr f i { s.cr f i with run := some run }
  match c.op with
  | 0 => s.endRun f i 0
  | 1 => s.settleFences f
  | 2 =>
    let (s, reads) := s.acceptLoad (c.pend f i 0 false) (c.arg 24 8)
    if !reads then s
    else match host with
      | some h => s.loadHeader (c.pend f i 0 false) (c.arg 16 8) (c.arg 24 8) h
      | none => s.getHost f 0 (c.arg 16 8) 256
  | 3 => s.acceptStart (c.pend f i (c.arg 16 8) false)
  | 4 => s.acceptStop (c.pend f i (c.arg 16 8) (bit (c.arg 24 1) 0))
  | 5 =>
    let v := c.arg 24 2 + c.arg 26 1 * 2 ^ 16
    let s := { s with rcu := { s.rcu with pswTick := c.arg 16 8 % 2 ^ 48 } }.pswFields f v
    let s := if c.arg 27 1 == 1 then s.pswCancel f v else s.pswGo f v
    s.endRun f i s.rcu.pswStatus
  | 6 =>
    let n := c.arg 28 4
    let whole := (List.range (ceilDiv n 64 + 1)).any fun k => decide (64 * k < n) && s.hdmaNoTile (run.dev + 64 * k)
    let s := if whole then s.setStatus f i 0x3001 else s
    if n = 0 then s.endRun f i 0
    else match host with
      | some h => (if h.data.length < n then s.setStatus f i 0x2004 else s).hdmaIn f i run 0 (h.data.take n)
      | none => s.getHost f 0 run.addr n
  | 7 =>
    let n := c.arg 28 4
    let whole := (List.range (ceilDiv n 64 + 1)).any fun k => decide (64 * k < n) && s.hdmaNoTile (run.dev + 64 * k)
    let s := if whole then s.setStatus f i 0x3001 else s
    if n = 0 then s.endRun f i 0 else s.hdmaOut f i run
  | _ =>
    if c.arg 24 4 = 0 then s.endRun f i 0
    else
      let s := s.setCr f i { s.cr f i with run := some { run with left := c.arg 24 4, len := c.arg 24 4 } }
      if host.isNone then s.getHost f 1 run.addr (128 * c.arg 24 4) else s

/-- Forward a checked command to the follower of its window (R304, R312). The lead asks for its completion in any case, so
that the ring can go on. -/
def State.forwardCmd (s : State) (f : Fn) (i : Nat) (c : Cmd) : State :=
  let run : CmdRun := { op := c.op, win := c.win, flags := c.flags, tag := c.tag, status := 0, left := 0, addr := 0, len := 0,
                        buf := [], dev := 0, order := s.hif.fetched }
  let s := { s with hif := { s.hif with fetched := s.hif.fetched + 1 } }
  (s.setCr f i { s.cr f i with run := some run }).takeAcc (hostOf f)
    (.far c.win (.command (c.bytes.take 2 ++ leBytes 2 (c.flags / 2 * 2) ++ c.bytes.drop 4))) 0 none

/-- The HIF fetches the next command of a ring (R304, R306): the ring is on and idle, and the queue that takes the
completion has room. -/
def State.fetch (s : State) (f : Fn) (i : Nat) (cmd : Option (List Byte)) (host : HostBytes) : State :=
  let r := s.cr f i
  let win := match cmd with | some l => (cmdOf l).win | none => 0
  if !r.enable || r.run.isSome || r.head == r.tail || !s.completionRoom f win then s
  else
    let s := s.setCr f i { r with head := r.head + 1 }
    match cmd with
    | none => s.completeAt f 0 0x2004 0 false
    | some l =>
      let c := cmdOf l
      let code := s.cmdCheck f c
      if code ≠ 0 then s.completeAt f c.win code c.tag (bit c.flags 0)
      else if c.win = 0 then s.startCmd f i c (some host)
      else s.forwardCmd f i c

/-- COMMAND_FETCH (R304): a command of another length than 64 bytes counts as unreadable. -/
def execCommandFetch (fn : Fn) (ring : Nat) (cmd : Option (List Byte)) (host : HostBytes) (s : State) : Res :=
  if !fnOk fn then .fault .noSuchUnit
  else within ring cmdRings (.next (s.fetch fn ring (cmd.filter (·.length == 64)) host))

/-! ### What a follower receives (R312) -/

/-- HOST_COMMAND (R312): a follower runs a forwarded command; the commands of one function run one after the other. -/
def execHostCommand (port : Nat) (s : State) : Res :=
  within port 64 (.next (
    match s.takeHost port 0 pHost 4 subHost s.fromLead with
    | (s1, some k) =>
      let f := fnOf k.func
      if (s.cr f 4).run.isSome || !s.completionRoom f 0 then s
      else
        let c := cmdOf k.data
        let code := s1.cmdCheck f { c with win := 0 }
        if code ≠ 0 then s1.completeAt f 0 code c.tag (bit c.flags 0) else s1.startCmd f 4 c none
    | (s1, none) => s1))

/-- Ask for what a descriptor of a SERVE command names (R318, R320): a prompt, or a parked record's header and the extra
prompt. -/
def State.askParts (s : State) (f : Fn) (k : Nat) (l : List Byte) : State :=
  let x := descOf l
  let tokens (s : State) (part addr : Nat) : State :=
    if x.plen = 0 ∨ 2 ^ 24 ≤ x.plen then s else s.getHost f (partKey k part) addr (4 * x.plen)
  match x.op with
  | 1 | 2 => tokens s 0 x.src
  | 5 => tokens (s.getHost f (partKey k 0) x.src 64) 1 x.xsrc
  | _ => s
/-- Ask for a parked record behind its header (R343). -/
def State.askRecord (s : State) (f : Fn) (k : Nat) (g : HostGet) : State :=
  let total := leAt g.bytes 56 4
  if g.bytes.take 8 == parkMagic && decide (64 < total && total ≤ 2 ^ 31) then
    s.getHost f (partKey k 2) (g.addr + 64) (total - 64)
  else s
/-- A read of a SERVE command is complete: its descriptors ask for what they name; a parked record's header asks for the
rest. Descriptors that cannot be read end the command 0x2004 (log entry 19). -/
def State.servedRead (s : State) (f : Fn) (g : HostGet) (count : Nat) : State :=
  if g.key == 1 then
    if g.stop.isSome then s.endRun f 4 0x2004
    else (List.range count).foldl (fun s k => s.askParts f k (slice g.bytes (128 * k) 128)) s
  else
    let k := (g.key - 2) / 3
    match s.get? f 1 with
    | some d => if (g.key - 2) % 3 == 0 && leAt d.bytes (128 * k + 8) 1 == 5 then s.askRecord f k g else s
    | none => s

/-- Bytes of host memory arrive for a read of a function's command (R312); with the last of them the command goes on. -/
def State.hostBytes (s : State) (f : Fn) (key off : Nat) (ok : Bool) (data : List Byte) : State :=
  let r := s.cr f 4
  let s := s.setCr f 4 { r with run := r.run.map fun c =>
    { c with gets := c.gets.map fun g => if g.key == key then g.put off ok data else g } }
  match (s.cr f 4).run, s.get? f key with
  | some c, some g =>
    if g.left ≠ 0 then s
    else match c.op with
      | 2 =>
        if key = 0 then
          let s := s.loadHeader { tick := 0, abort := false, fn := f, ring := 4, tag := c.tag, quiet := bit c.flags 0, win := 0 }
            c.addr (c.dev + c.len * 2 ^ 32) { data := g.bytes, ok := g.stop.isNone }
          match s.dck.load with
          | some l => s.getHost f 1 l.addr l.len
          | none => s
        else s.endPass1
      | 6 => (if g.stop.isSome then s.setStatus f 4 0x2004 else s).hdmaIn f 4 c 0 g.bytes
      | 8 => s.servedRead f g c.len
      | _ => s
  | _, _ => s

/-- HOST_DATA (R312): the answer to a host read that this follower sent through its lead. -/
def execHostData (port : Nat) (s : State) : Res :=
  within port 64 (.next (
    match s.takeHost port 1 pHost 7 subHost s.fromLead with
    | (s1, some k) =>
      match takeFirst (fun x => x.1 == k.reqid) s1.hif.hostReads with
      | some (x, rest) => { s1 with hif := { s1.hif with hostReads := rest } }.hostBytes (fnOf x.2.1) x.2.2.1 x.2.2.2 (k.status == 0) k.data
      | none => s1
    | (s1, none) => s1))

end Sys2Proof.Machine
end

