-- ==== Sys2Proof/Machine/Scrub.lean ====
section
/-! DEFINITION. The scrub (R395, R396): latches of registers, whose voted value the blocks use, and the parity and CRC of the
arrays. -/

namespace Sys2Proof.Machine

/-! ### A register word takes the value that its latches vote (R395) -/

/-- Deck state of a code (R298). -/
def DeckState.ofCode (c : Nat) : Option DeckState :=
  [DeckState.none_, .loading, .loaded, .running, .stopping, .starting][c]?
/-- Synchronisation state of a code (R39). -/
def SyncState.ofCode (c : Nat) : Option SyncState := [SyncState.free, .acquire, .locked, .holdover, .lost][c]?
/-- Port state of a code (R268). -/
def PortState.ofCode (c : Nat) : Option PortState := [PortState.off, .dark, .train, .lock, .ident, .up, .fault][c]?
/-- Low or high word of a number replaced. -/
def putHalfNat (x : Nat) (hi : Bool) (v : Nat) : Nat := putBits x (if hi then 32 else 0) 32 v
/-- A packed field for each table. -/
def State.pokeTables (s : State) (f : Nat → Table → Table) : State :=
  (List.range 16).foldl (fun s t => s.modTable t (f t)) s

/-- A command ring's stored fields. -/
def CmdRing.poke (r : CmdRing) (o v : Nat) : CmdRing :=
  match o with
  | 0x00 => { r with base := putHalf r.base false v }
  | 0x04 => { r with base := putHalf r.base true v }
  | 0x08 => { r with sizeLog := bits v 0 5, enable := bit v 31 }
  | 0x0C => { r with tail := BitVec.ofNat 32 v }
  | 0x10 => { r with head := BitVec.ofNat 32 v }
  | _ => r
/-- A record ring's stored fields. -/
def RecRing.poke (r : RecRing) (o v : Nat) : RecRing :=
  match o with
  | 0x00 => { r with base := putHalf r.base false v }
  | 0x04 => { r with base := putHalf r.base true v }
  | 0x08 => { r with pidx := putHalf r.pidx false v }
  | 0x0C => { r with pidx := putHalf r.pidx true v }
  | 0x10 => { r with sizeLog := bits v 0 5, vector := bits v 5 11, holdoff := bits v 16 14, inten := bit v 30, enable := bit v 31 }
  | 0x14 => { r with head := BitVec.ofNat 32 v }
  | 0x18 => { r with prod := BitVec.ofNat 32 v }
  | _ => r
/-- HIF. -/
def State.pokeHif (s : State) (f : Fn) (o v : Nat) : State :=
  let h := s.hif
  if o < 0x1000 then
    match o with
    | 0x08 => { s with hif := { h with leadDev := bits v 0 10, leadValid := bit v 16 } }
    | 0x10 => { s with hif := { h with folWin := bits v 0 6 } }
    | 0x20 => { s with hif := { h with resetBusy := bit v 1 } }
    | _ => s
  else if o < 0x1100 then
    let w := (o - 0x1000) / 4
    { s with hif := { h with folDev := Map.set 0 h.folDev w (bits v 0 10), folValid := Map.set false h.folValid w (bit v 16) } }
  else if 0x10000 ≤ o && o < 0x10000 + 0x20 * cmdRings then
    s.setCr f ((o - 0x10000) / 0x20) ((s.cr f ((o - 0x10000) / 0x20)).poke (o % 0x20) v)
  else if 0x10100 ≤ o && o < 0x10100 + 0x20 * recRings f then
    s.setRr f ((o - 0x10100) / 0x20) ((s.rr f ((o - 0x10100) / 0x20)).poke (o % 0x20) v)
  else if 0x80000 ≤ o && o < 0x80000 + 16 * s.vectors f then
    { s with hif := { h with msix := Map.set 0#32 h.msix (4 * vectorBase f + (o - 0x80000) / 4) (BitVec.ofNat 32 v) } }
  else if 0x90000 ≤ o && o < 0x90000 + ceilDiv (s.vectors f) 32 * 4 then
    let lo := vectorBase f + (o - 0x90000) * 8
    let here (x : Nat) : Bool := decide (lo ≤ x) && decide (x < lo + 32) && decide (x < vectorBase f + s.vectors f)
    let pba := h.pba.filter (fun x => !here x) ++ ((List.range 32).map (lo + ·)).filter fun x => here x && bit v (x - lo)
    { s with hif := { h with pba } }
  else s
/-- DCK. -/
def State.pokeDck (s : State) (o v : Nat) : State :=
  let d := s.dck
  match o with
  | 0x00 => { s with dck := { d with state := (DeckState.ofCode (bits v 0 3)).getD d.state, pass := bits v 3 2, result := bits v 16 16 } }
  | 0x04 => { s with dck := { d with devices := if bits v 0 11 ≤ 1024 then bits v 0 11 else d.devices } }
  | 0x08 => { s with dck := { d with failEntry := v } }
  | 0x10 => { s with dck := { d with failOff := putHalfNat d.failOff false v } }
  | 0x14 => { s with dck := { d with failOff := putHalfNat d.failOff true v } }
  | 0x18 => { s with dck := { d with jobId := putHalfNat d.jobId false v } }
  | 0x1C => { s with dck := { d with jobId := putHalfNat d.jobId true v } }
  | _ => s
/-- RCU. The round counter is derived from the count, TICK_EXP keeps its range, and no ROLE is reserved. -/
def State.pokeRcu (s : State) (o v : Nat) : State :=
  let r := s.rcu
  if 0x100 ≤ o && o < 0x200 then s.modPort ((o - 0x100) / 4) fun x => { x with delay := bits v 0 16, delayValid := bit v 16 }
  else match o with
    | 0x04 => { s with rcu := { r with latch := BitVec.ofNat 32 v } }
    | 0x08 =>
      let k := if 11 ≤ bits v 0 4 then bits v 0 4 else r.k
      { s with rcu := { r with k, role := if bits v 4 2 ≤ 2 then bits v 4 2 else r.role, parent := bits v 8 6, depth := bits v 16 4, syncLog := bits v 20 4 } }
    | 0x0C =>
      { s with rcu := { r with
          state := (SyncState.ofCode (bits v 0 3)).getD r.state, offset := toSigned 12 (bits v 4 12), holdTicks := bits v 16 16 } }
    | 0x10 => { s with rcu := { r with rootDev := bits v 0 10, holdLimit := bits v 16 16 } }
    | 0x18 => { s with rcu := { r with eqNear := bits v 0 16, eqFar := bits v 16 16 } }
    | 0x20 => { s with rcu := { r with pswTick := putBits r.pswTick 0 32 v } }
    | 0x24 => { s with rcu := { r with pswTick := putBits r.pswTick 32 16 (v % 2 ^ 16) } }
    | 0x28 => { s with rcu := { r with pswMask := bits v 0 16, pswPhase := bits v 16 2 } }
    | 0x2C => { s with rcu := { r with pswStatus := bits v 0 16 } }
    | 0x30 => s.pokeTables fun t x => { x with phase := bits v (2 * t) 2 }
    | 0x34 => s.pokeTables fun t x => { x with clock := bits v (2 * t) 2 }
    | _ => s
/-- LNK. -/
def State.pokeLnk (s : State) (o v : Nat) : State :=
  let l := s.lnk
  if o < 0x100 then match o with
    | 0x00 => { s with lnk := { l with dev := bits v 0 10, group := bits v 10 6, pos := bits v 16 4 } }
    | 0x04 => { s with lnk := { l with wlog := bits v 0 4, ten := bit v 4, dest := bits v 16 10 } }
    | _ => s
  else if o < 0x140 then
    let x : Laser := { power := BitVec.ofNat 12 (bits v 0 12), ok := bit v 12, module_ := BitVec.ofNat 16 (bits v 16 16) }
    { s with lnk := { l with lasers := Map.set {} l.lasers ((o - 0x100) / 4) x } }
  else if 0x1000 ≤ o && o < 0x1400 then
    s.modPort ((o - 0x1000) / 16) fun x =>
      match o % 16 with
      | 0 => { x with enable := bit v 0, auto := bit v 1 }
      | 4 => { x with state := (PortState.ofCode (bits v 0 3)).getD x.state, last := bits v 16 16 }
      | 8 => { x with peerDev := bits v 0 10, peerPort := bits v 10 6, peerValid := bit v 16 }
      | _ => x
  else if 0x2000 ≤ o && o < 0x3000 then
    let put (m : List (Nat × Word)) : List (Nat × Word) := Map.set 0#32 m ((o - 0x2000) / 4) (BitVec.ofNat 32 v)
    { s with lnk := if s.deckRuns && l.hasRoutes then { l with deckRoute := put l.deckRoute } else { l with route := put l.route } }
  else if 0x4000 ≤ o && o < 0x4400 then
    s.modPort ((o - 0x4000) / 16) fun x => { x with cmap := x.cmap.set (o % 16 / 4) (BitVec.ofNat 32 v) }
  else s
/-- SVC. -/
def State.pokeSvc (s : State) (o v : Nat) : State :=
  let y := s.svc
  if 0x100 ≤ o && o < 0x200 then
    let t := (o - 0x100) / 16
    if o % 16 == 4 then { s with svc := y.setTable t { y.table t with kitty := v } } else s
  else if 0x8000 ≤ o && o < 0x18000 then
    let c := (o - 0x8000) / 16
    let k := y.cust c
    let k' := match o % 16 with
      | 0 => { k with
          weight := if k.newWeight.isSome then k.weight else bits v 0 8, newWeight := k.newWeight.map fun _ => bits v 0 8,
          table := if k.newTable.isSome then k.table else bits v 8 4, newTable := k.newTable.map fun _ => bits v 8 4 }
      | 4 => { k with budget := if k.newBudget.isSome then k.budget else v, newBudget := k.newBudget.map fun _ => v }
      | 8 => { k with balance := toSigned 32 v }
      | _ => k
    { s with svc := y.setCust c k' }
  else if 0x20000 ≤ o && o < 0x24000 then
    let a := (o - 0x20000) / 4
    let d := { y.ad a with slot := bits v 0 12, valid := bit v 12, version := putBits (y.ad a).version 0 16 (bits v 16 16) }
    { s with svc := { y with dir := Map.set {} y.dir a d } }
  else if 0x24000 ≤ o && o < 0x28000 then
    let i := (o - 0x24000) / 4
    { s with svc := y.setSlot i { y.slot i with pins := bits v 0 17, state := bits v 17 2 } }
  else if 0x30000 ≤ o && o < 0x31000 then
    let i := (o - 0x30000) / 16
    let x := y.rec_ i
    let x' := match o % 16 with
      | 0 => { x with slot := bits v 0 13, gstate := bits v 13 2 }
      | 4 => { x with version := putBits x.version 0 32 v }
      | 12 => { x with step := v }
      | _ => x
    { s with svc := y.setRec i x' }
  else s
/-- TLY. -/
def State.pokeTly (s : State) (o v : Nat) : State :=
  let y := s.tly
  if 0x100 ≤ o && o < 0x140 then
    s.modTable ((o - 0x100) / 4) fun x => { x with
      jokerFor := bits v 0 4, jokerState := bits v 4 2, retired := bits v 8 13, failed := bit v 24, recovering := bit v 26 }
  else if 0x200 ≤ o && o < 0x280 then
    s.modTable ((o - 0x200) / 8) fun x => { x with choice := putHalfNat x.choice (o % 8 == 4) v }
  else if 0x1000 ≤ o && o < 0x1000 + 4 * 208 then
    let p := (o - 0x1000) / 4
    { s with tly := { y with trim := Map.set 0 y.trim p (bits v 0 2), events := Map.set 0 y.events p (bits v 8 8) } }
  else match o with
    | 0x280 => { s with tly := { y with choiceDev := putHalfNat y.choiceDev false v } }
    | 0x284 => { s with tly := { y with choiceDev := putHalfNat y.choiceDev true v } }
    | 0x400 => { s with tly := { y with probePos := bits v 0 8 } }
    | 0x404 => { s with tly := { y with passes := bits v 16 16 } }
    | 0x408 => { s with tly := { y with probeStatus := bits v 0 16, probeFail := bits v 16 16 } }
    | 0x410 => { s with tly := { y with head := BitVec.ofNat 32 v } }
    | 0x414 => { s with tly := { y with tail := BitVec.ofNat 32 v } }
    | _ => s
/-- PWR. -/
def State.pokePwr (s : State) (o v : Nat) : State :=
  if 0x100 ≤ o && o < 0x140 then
    s.modTable ((o - 0x100) / 4) fun x => { x with used := bits v 0 12, map := bits v 16 12 }
  else if o == 0x40 then { s with pwr := { s.pwr with active := v } }
  else s
/-- MGC, with the PCIe mailbox. -/
def State.pokeMgc (s : State) (o v : Nat) : State :=
  let m := s.mgc
  let x := m.pcie
  let w (i n : Nat) : BitVec n := BitVec.ofNat n (bits v i n)
  if 0x100 ≤ o && o < 0x200 then
    { s with mgc := { m with temps := Map.set {} m.temps ((o - 0x100) / 4) { t := w 0 12, alarm := bit v 12 } } }
  else if 0x200 ≤ o && o < 0x260 then
    { s with mgc := { m with vmon := Map.set (0, false, false) m.vmon ((o - 0x200) / 4) (w 0 16, bit v 16, bit v 17) } }
  else if 0x280 ≤ o && o < 0x2A4 then { s with mgc := { m with irail := Map.set 0#16 m.irail ((o - 0x280) / 4) (w 0 16) } }
  else if 0x400 ≤ o && o < 0x500 then
    { s with mgc := { m with optp := Map.set (0, 0) m.optp ((o - 0x400) / 4) (w 0 12, w 16 12) } }
  else match o with
    | 0x00 => { s with mgc := { m with
        ready := bit v 0, bank := bits v 1 1, fallback := bit v 2, tstop := bit v 3, fwrev := putBits m.fwrev 0 16 (bits v 8 16) } }
    | 0x10 => { s with mgc := { m with pcie := { x with op := bits v 0 8, len := bits v 16 13 } } }
    | 0x18 => { s with mgc := { m with pcie := { x with arg := putHalf x.arg false v } } }
    | 0x1C => { s with mgc := { m with pcie := { x with arg := putHalf x.arg true v } } }
    | 0x20 => { s with mgc := { m with pcie := { x with status := bits v 0 16, busy := bit v 16, rlen := bits v 17 13 } } }
    | 0x300 => { s with mgc := { m with inlet := w 0 12, outlet := w 16 12, coolFault := bit v 28 } }
    | 0x304 => { s with mgc := { m with w1ms := w 0 16, w1s := w 16 16 } }
    | _ => s
/-- A tile's control window and its dealer counters. -/
def Tile.poke (t : Tile) (o v : Nat) : Tile :=
  if o == 0 then { t with bundle := bits v 0 16 }
  else if 0x40 ≤ o && o < 0x80 then t.setCounter ((o - 0x40) / 4) v
  else if 0x400 ≤ o && o < 0x500 then
    let r := t.ring ((o - 0x400) / 16)
    let w := BitVec.ofNat 32 v
    t.setRing ((o - 0x400) / 16)
      (match o % 16 with | 0 => { r with base := w } | 4 => { r with cfg := w } | 8 => { r with head := w } | _ => { r with tail := w })
  else if 0x800 ≤ o && o < 0x900 then
    let i := (o - 0x800) / 8
    { t with handles := Map.set 0#64 t.handles i (putHalf (Map.get 0#64 t.handles i) (o % 8 == 4) v) }
  else t

/-- The stored fields of a register word take a value (R395). -/
def State.pokeReg (s : State) (f : Fn) (off v : Nat) : State :=
  let o := off % 0x100000 / 4 * 4
  match off / 0x100000 with
  | 0 => s.pokeHif f o v
  | 1 => s.pokeDck o v
  | 2 => s.pokeRcu o v
  | 3 => s.pokeLnk o v
  | 4 => s.pokeSvc o v
  | 5 => s.pokeTly o v
  | 6 => s.pokePwr o v
  | 7 => s.pokeMgc o v
  | _ =>
    let p := (off - windowBase) / 0x10000
    if p < 208 && s.reachesWindow .pf p then s.modTile p (·.poke (off % 0x10000 / 4 * 4) v) else s

/-- Bits of a word that are fields of another access type than RW and RO, which have no latches (R10, R395): W1C and RC
fields, and mailbox and digest buffers. -/
def unlatched (off : Nat) : Nat :=
  let o := off % 0x100000 / 4 * 4
  match off / 0x100000 with
  | 0 => if o == 0x10 then 2 ^ 16 else 0
  | 4 => if (decide (0x100 ≤ o) && decide (o < 0x200) && decide (8 ≤ o % 16)) ||
            (decide (0x8000 ≤ o) && decide (o < 0x18000) && o % 16 == 12) ||
            (decide (0x30000 ≤ o) && decide (o < 0x31000) && o % 16 == 8) then 2 ^ 32 - 1 else 0
  | 5 => if (decide (0x300 ≤ o) && decide (o < 0x340)) || o == 0x418 || decide (0x80000 ≤ o) then 2 ^ 32 - 1
         else if o == 0x404 then 0xFFFF else 0
  | 6 => if decide (0x100 ≤ o) && decide (o < 0x140) then 2 ^ 31 else 0
  | 7 => if decide (0x1000 ≤ o) then 2 ^ 32 - 1 else 0
  | _ => 0

/-! ### The scrub (R396) -/

/-- A bit that changes twice is as it was. -/
def toggle {α : Type} [DecidableEq α] (l : List α) (x : α) : List α := if l.contains x then l.filter (· != x) else l ++ [x]

/-- A bit of a register whose latches vote another value than was written (R395): the stored field takes that value, which
the blocks then use. Where the block derives the value, the latches stay as they are. -/
def State.voteBit (s : State) (b : Fn × Nat × Nat) : State :=
  let new := (s.blockRead b.1 b.2.1).2 ^^^ 2 ^ b.2.2
  let t := s.pokeReg b.1 b.2.1 new
  if (t.blockRead b.1 b.2.1).2 == new then t
  else
    { s with tly := { s.tly with upsets := s.tly.upsets ++
        [{ off := b.2.1, bit := b.2.2, latch := 0, fn := b.1 }, { off := b.2.1, bit := b.2.2, latch := 1, fn := b.1 }, { off := b.2.1, bit := b.2.2, latch := 2, fn := b.1 }] } }

/-- The scrub of the registers (R395, R396): a latch that disagrees with its other two is rewritten, and counted. Where two
latches of a bit had changed, the third is the one that disagrees (DEDUCED, log entry 47), and the register has another
value. -/
def State.scrubLatches (s : State) (upsets : List LatchUpset) : State :=
  let own (u : LatchUpset) : LatchUpset :=
    { u with off := u.off / 4 * 4, fn := if u.off / 0x100000 = 0 then u.fn else .pf }
  let new := (upsets.map own).filter fun u => !bit (unlatched u.off) u.bit
  let now := new.foldl toggle s.tly.upsets
  let at_ := (now.map fun u => (u.fn, u.off, u.bit)).eraseDups
  let count (b : Fn × Nat × Nat) : Nat := (now.filter fun u => u.fn == b.1 && u.off == b.2.1 && u.bit == b.2.2).length
  (at_.filter fun b => decide (2 ≤ count b)).foldl State.voteBit
    { s with tly := { s.tly with fixed := min 0xFFFF (s.tly.fixed + (at_.filter fun b => count b != 3).length), upsets := [] } }

/-- Unit and array of changed bits, and the bits. -/
def scrubUnit : ScrubHit → Nat × Nat × List (Nat × Nat)
  | .tile p arr l => (arr % 3, p, l)
  | .port n l => (3, n, l)
/-- The unit exists. -/
def scrubUnitOk : ScrubHit → Bool
  | .tile p _ _ => decide (p < 208)
  | .port n _ => decide (n < 64)

/-- Bits of an array change (R395): its contents, and not its parity and CRC, which stay those of what was written. -/
def State.flipBits (s : State) (h : ScrubHit) : State :=
  let (arr, unit, l) := scrubUnit h
  l.foldl (fun s x =>
    let s1 := s.putArrayWord arr unit x.1 (s.arrayWord arr unit x.1 ^^^ 2 ^ (x.2 % 32))
    { s1 with tly := { s1.tly with flips := toggle s1.tly.flips (arr, unit, x.1, x.2 % 32) } }) s

/-- The 4 KiB of a page of an array, as they read, or as they were when their CRC-32C was taken (R395). -/
def State.pageBytes (s : State) (arr unit page : Nat) (written : Bool) : List Byte :=
  (List.range 1024).flatMap fun i =>
    let w := 1024 * page + i
    leBytes 4 (if written then s.arrayWord arr unit w ^^^ s.flipMask arr unit w else s.arrayWord arr unit w)
/-- The CRC-32C of a page disagrees (R395). -/
def State.pageBad (s : State) (arr unit page : Nat) : Bool :=
  crc32c (s.pageBytes arr unit page false) != crc32c (s.pageBytes arr unit page true)
/-- The first word of an array that fails (R396, R397): by its parity, else the first of a page that fails by its CRC. -/
def State.failingWord (s : State) (arr unit : Nat) : Option Nat :=
  let words := sortBy (fun a b => decide (a ≤ b))
    ((s.tly.flips.filter fun f => f.1 == arr && f.2.1 == unit).map (·.2.2.1)).eraseDups
  match words.find? (s.parityBad arr unit) with
  | some w => some w
  | none => ((words.map (· / 1024)).eraseDups.find? (s.pageBad arr unit)).map (1024 * ·)

/-- An array that fails (R396): 0x8008, and the tile's abrupt substitution, or the port's FAULT. -/
def State.scrubArray (s : State) (u : Nat × Nat) : State :=
  match s.failingWord u.1 u.2 with
  | none => s
  | some w =>
    if u.1 = 3 then
      s.portFault u.2 0x8008 (scrubDetail u.2 3 w)
    else
      let s1 := s.raiseTile u.2 0 0x8008 (scrubDetail u.2 u.1 w)
      { s1 with tly := { s1.tly with abrupt := s1.tly.abrupt ++ [u.2] } }

/-- SCRUB (R395, R396): the registers' latches, then every array with changed bits. Those bits reach the model with this
command, so only a read after it meets them (log entry 47). -/
def execScrub (upsets : List LatchUpset) (hits : List ScrubHit) (s : State) : Res :=
  if hits.all scrubUnitOk then
    let s1 := hits.foldl State.flipBits (s.scrubLatches upsets)
    let s2 := ((s1.tly.flips.map fun f => (f.1, f.2.1)).eraseDups).foldl State.scrubArray s1
    .next { s2 with tly := { s2.tly with passes := (s2.tly.passes + 1) % 65536 } }
  else .fault .noSuchUnit

end Sys2Proof.Machine
end

