-- ==== Sys2Proof/Machine/Dispatch.lean ====
section
/-! DEFINITION. The meaning of every command: one arm per constructor, each one call of the meaning of that name. -/

namespace Sys2Proof.Machine

/-- What a command does to everything but the queue. -/
def exec (i : Instr) (s : State) : Host.Outcome State Fault Refusal :=
  match i with
  | .tickBoundary => Sys2Proof.Machine.execTickBoundary s
  | .budgetPeriodEnd tbl => Sys2Proof.Machine.execBudgetPeriodEnd tbl s
  | .grantFromWaiting idx => Sys2Proof.Machine.execGrantFromWaiting idx s
  | .publicationSample idx => Sys2Proof.Machine.execPublicationSample idx s
  | .tickEndCutoff p => Sys2Proof.Machine.execTickEndCutoff p s
  | .deadlineExpire p op => Sys2Proof.Machine.execDeadlineExpire p op s
  | .rcuNowLowRead => Sys2Proof.Machine.execRcuNowLowRead s
  | .rcuNowLowWrite v => Sys2Proof.Machine.execRcuNowLowWrite v s
  | .rcuTickWrite hi lo => Sys2Proof.Machine.execRcuTickWrite hi lo s
  | .rcuConfigWrite v => Sys2Proof.Machine.execRcuConfigWrite v s
  | .syncSend => Sys2Proof.Machine.execSyncSend s
  | .followSend => Sys2Proof.Machine.execFollowSend s
  | .syncReceive port f arrive => Sys2Proof.Machine.execSyncReceive port f arrive s
  | .followReceive port f => Sys2Proof.Machine.execFollowReceive port f s
  | .holdoverEnter => Sys2Proof.Machine.execHoldoverEnter s
  | .holdoverExpire => Sys2Proof.Machine.execHoldoverExpire s
  | .pswGo fn v => Sys2Proof.Machine.execPswGo fn v s
  | .pswCancel fn v => Sys2Proof.Machine.execPswCancel fn v s
  | .bundleDecode p => Sys2Proof.Machine.execBundleDecode p s
  | .bundleIssue p => Sys2Proof.Machine.execBundleIssue p s
  | .cldResult p => Sys2Proof.Machine.execCldResult p s
  | .setupWrite p => Sys2Proof.Machine.execSetupWrite p s
  | .ringResultWrite p => Sys2Proof.Machine.execRingResultWrite p s
  | .digestPost p => Sys2Proof.Machine.execDigestPost p s
  | .loadComplete p side => Sys2Proof.Machine.execLoadComplete p side s
  | .footWrite p pass stream row upset => Sys2Proof.Machine.execFootWrite p pass stream row upset s
  | .tallyMismatch p => Sys2Proof.Machine.execTallyMismatch p s
  | .tallyVerdict p => Sys2Proof.Machine.execTallyVerdict p s
  | .captureCopy p => Sys2Proof.Machine.execCaptureCopy p s
  | .completionFlagWrite p op => Sys2Proof.Machine.execCompletionFlagWrite p op s
  | .pipNop p => Sys2Proof.Machine.execPipNop p s
  | .halt p => Sys2Proof.Machine.execHalt p s
  | .fma p => Sys2Proof.Machine.execFma p s
  | .falu p => Sys2Proof.Machine.execFalu p s
  | .bfma p => Sys2Proof.Machine.execBfma p s
  | .balu p => Sys2Proof.Machine.execBalu p s
  | .fcmp p => Sys2Proof.Machine.execFcmp p s
  | .ialu p => Sys2Proof.Machine.execIalu p s
  | .icmp p => Sys2Proof.Machine.execIcmp p s
  | .sel p => Sys2Proof.Machine.execSel p s
  | .addi p => Sys2Proof.Machine.execAddi p s
  | .lui p => Sys2Proof.Machine.execLui p s
  | .ori p => Sys2Proof.Machine.execOri p s
  | .cvt p => Sys2Proof.Machine.execCvt p s
  | .sfu p => Sys2Proof.Machine.execSfu p s
  | .movs p => Sys2Proof.Machine.execMovs p s
  | .rnd p => Sys2Proof.Machine.execRnd p s
  | .ld p => Sys2Proof.Machine.execLd p s
  | .lds p => Sys2Proof.Machine.execLds p s
  | .ldp p => Sys2Proof.Machine.execLdp p s
  | .st p => Sys2Proof.Machine.execSt p s
  | .sts p => Sys2Proof.Machine.execSts p s
  | .stp p => Sys2Proof.Machine.execStp p s
  | .pipMemoryComplete p => Sys2Proof.Machine.execPipMemoryComplete p s
  | .pcinv p => Sys2Proof.Machine.execPcinv p s
  | .red p => Sys2Proof.Machine.execRed p s
  | .xch p => Sys2Proof.Machine.execXch p s
  | .mxq p => Sys2Proof.Machine.execMxq p s
  | .br p => Sys2Proof.Machine.execBr p s
  | .brk p => Sys2Proof.Machine.execBrk p s
  | .loop p => Sys2Proof.Machine.execLoop p s
  | .loopr p => Sys2Proof.Machine.execLoopr p s
  | .slotLanding p => Sys2Proof.Machine.execSlotLanding p s
  | .circuitSlotRelease port => Sys2Proof.Machine.execCircuitSlotRelease port s
  | .ringPublish p r => Sys2Proof.Machine.execRingPublish p r s
  | .ringTailWrite mgc rq p r v => Sys2Proof.Machine.execRingTailWrite mgc rq p r v s
  | .ringHeadWrite mgc rq p r v => Sys2Proof.Machine.execRingHeadWrite mgc rq p r v s
  | .hostWaitLimit p => Sys2Proof.Machine.execHostWaitLimit p s
  | .bar2Write rq addr data => Sys2Proof.Machine.execBar2Write rq addr data s
  | .bar2Read rq addr len => Sys2Proof.Machine.execBar2Read rq addr len s
  | .followerAccess fn win a => Sys2Proof.Machine.execFollowerAccess fn win a s
  | .followerTimeout req => Sys2Proof.Machine.execFollowerTimeout req s
  | .frameSend port => Sys2Proof.Machine.execFrameSend port s
  | .frameReceive port f => Sys2Proof.Machine.execFrameReceive port f s
  | .ackTimeout port => Sys2Proof.Machine.execAckTimeout port s
  | .packetWaitLimit port => Sys2Proof.Machine.execPacketWaitLimit port s
  | .rwrReceive port => Sys2Proof.Machine.execRwrReceive port s
  | .rflagReceive port => Sys2Proof.Machine.execRflagReceive port s
  | .rrdReceive port => Sys2Proof.Machine.execRrdReceive port s
  | .rrspReceive port => Sys2Proof.Machine.execRrspReceive port s
  | .rpushReceive port => Sys2Proof.Machine.execRpushReceive port s
  | .rackReceive port => Sys2Proof.Machine.execRackReceive port s
  | .regrdReceive port => Sys2Proof.Machine.execRegrdReceive port s
  | .regwrReceive port => Sys2Proof.Machine.execRegwrReceive port s
  | .regrspReceive port => Sys2Proof.Machine.execRegrspReceive port s
  | .hostBar2Write port => Sys2Proof.Machine.execHostBar2Write port s
  | .hostBar2Read port => Sys2Proof.Machine.execHostBar2Read port s
  | .hostReadData port => Sys2Proof.Machine.execHostReadData port s
  | .hostCommand port => Sys2Proof.Machine.execHostCommand port s
  | .hostRecord port => Sys2Proof.Machine.execHostRecord port s
  | .hostReadRequest port d => Sys2Proof.Machine.execHostReadRequest port d s
  | .hostData port => Sys2Proof.Machine.execHostData port s
  | .hostWrite port => Sys2Proof.Machine.execHostWrite port s
  | .teleReceive port => Sys2Proof.Machine.execTeleReceive port s
  | .identReceive port f => Sys2Proof.Machine.execIdentReceive port f s
  | .identSend port => Sys2Proof.Machine.execIdentSend port s
  | .telemetryWindowEnd => Sys2Proof.Machine.execTelemetryWindowEnd s
  | .portEnable port => Sys2Proof.Machine.execPortEnable port s
  | .portDisable port => Sys2Proof.Machine.execPortDisable port s
  | .portRetrain port => Sys2Proof.Machine.execPortRetrain port s
  | .laserLightGain idx power => Sys2Proof.Machine.execLaserLightGain idx power s
  | .lightLoss port => Sys2Proof.Machine.execLightLoss port s
  | .trainSettled port => Sys2Proof.Machine.execTrainSettled port s
  | .trainTimeout port => Sys2Proof.Machine.execTrainTimeout port s
  | .crTailWrite rq ring v => Sys2Proof.Machine.execCrTailWrite rq ring v s
  | .rrHeadWrite rq ring v => Sys2Proof.Machine.execRrHeadWrite rq ring v s
  | .hostRingEnable fn record ring cfg => Sys2Proof.Machine.execHostRingEnable fn record ring cfg s
  | .commandFetch fn ring cmd host => Sys2Proof.Machine.execCommandFetch fn ring cmd host s
  | .deckLoadComplete data ok => Sys2Proof.Machine.execDeckLoadComplete data ok s
  | .recordPublish fn ring => Sys2Proof.Machine.execRecordPublish fn ring s
  | .holdoffExpire fn ring => Sys2Proof.Machine.execHoldoffExpire fn ring s
  | .vfFlr n => Sys2Proof.Machine.execVfFlr n s
  | .pfFlr => Sys2Proof.Machine.execPfFlr s
  | .hotReset => Sys2Proof.Machine.execHotReset s
  | .perst => Sys2Proof.Machine.execPerst s
  | .deviceReset v => Sys2Proof.Machine.execDeviceReset v s
  | .powerOn fw => Sys2Proof.Machine.execPowerOn fw s
  | .railEnableTimeout rail => Sys2Proof.Machine.execRailEnableTimeout rail s
  | .generate d prompt => Sys2Proof.Machine.execGenerate d prompt s
  | .score d prompt => Sys2Proof.Machine.execScore d prompt s
  | .cancel d => Sys2Proof.Machine.execCancel d s
  | .park d => Sys2Proof.Machine.execPark d s
  | .resume d record prompt => Sys2Proof.Machine.execResume d record prompt s
  | .bind d => Sys2Proof.Machine.execBind d s
  | .inputRecordDeadline tbl => Sys2Proof.Machine.execInputRecordDeadline tbl s
  | .resultRead r => Sys2Proof.Machine.execResultRead r s
  | .laneMapSample tbl => Sys2Proof.Machine.execLaneMapSample tbl s
  | .gather g => Sys2Proof.Machine.execGather g s
  | .gatherDeadline g => Sys2Proof.Machine.execGatherDeadline g s
  | .parkComplete reqid giveUp => Sys2Proof.Machine.execParkComplete reqid giveUp s
  | .restoreComplete reqid => Sys2Proof.Machine.execRestoreComplete reqid s
  | .substitutionSwitch tbl => Sys2Proof.Machine.execSubstitutionSwitch tbl s
  | .substitutionCopyTimeout tbl => Sys2Proof.Machine.execSubstitutionCopyTimeout tbl s
  | .recoveryComplete tbl unread => Sys2Proof.Machine.execRecoveryComplete tbl unread s
  | .trimDecay p => Sys2Proof.Machine.execTrimDecay p s
  | .probeGo v => Sys2Proof.Machine.execProbeGo v s
  | .probeComplete e => Sys2Proof.Machine.execProbeComplete e s
  | .probePeriodic => Sys2Proof.Machine.execProbePeriodic s
  | .scrub upsets hits => Sys2Proof.Machine.execScrub upsets hits s
  | .logRead smb => Sys2Proof.Machine.execLogRead smb s
  | .fwWrite smb => Sys2Proof.Machine.execFwWrite smb s
  | .fwCommit smb ok => Sys2Proof.Machine.execFwCommit smb ok s
  | .fwActivate smb => Sys2Proof.Machine.execFwActivate smb s
  | .keyEnrol smb => Sys2Proof.Machine.execKeyEnrol smb s
  | .keyRevoke smb => Sys2Proof.Machine.execKeyRevoke smb s
  | .regWrite smb => Sys2Proof.Machine.execRegWrite smb s
  | .regRead smb => Sys2Proof.Machine.execRegRead smb s
  | .thermRestart smb => Sys2Proof.Machine.execThermRestart smb s
  | .tempSample idx t => Sys2Proof.Machine.execTempSample idx t s
  | .thermalStop idx t => Sys2Proof.Machine.execThermalStop idx t s
  | .powerStop w => Sys2Proof.Machine.execPowerStop w s
  | .railFault idx mv held => Sys2Proof.Machine.execRailFault idx mv held s
  | .coolantHigh c => Sys2Proof.Machine.execCoolantHigh c s
  | .powerWindowEnd r => Sys2Proof.Machine.execPowerWindowEnd r s
  | .logPageWrite => Sys2Proof.Machine.execLogPageWrite s
  | .logSuppressed => Sys2Proof.Machine.execLogSuppressed s
  | .registerReadClear smb rq r => Sys2Proof.Machine.execRegisterReadClear smb rq r s
  | .registerWrite smb rq off v => Sys2Proof.Machine.execRegisterWrite smb rq off v s
  | .hdmaComplete fn ring => Sys2Proof.Machine.execHdmaComplete fn ring s
  | .coolantSensorFault => Sys2Proof.Machine.execCoolantSensorFault s
  | .powerDown => Sys2Proof.Machine.execPowerDown s
  | .srIovEnable on => Sys2Proof.Machine.execSrIovEnable on s
  | .mgcRestartComplete fw => Sys2Proof.Machine.execMgcRestartComplete fw s
  | .deviceResetComplete => Sys2Proof.Machine.execDeviceResetComplete s

end Sys2Proof.Machine
end

