-- ==== Sys2Proof/Machine/Step.lean ====
section
/-! DEFINITION. One step of the block: the command at the front of the queue, or one beat of time. -/

namespace Sys2Proof.Machine

/-- One step (log entry 2): with a command waiting, its effect with the queue's rest; with none, one fabric beat
passes. -/
def step (s : State) : Host.Outcome State Fault Refusal :=
  match s.pending with
  | [] => .next s.idleBeat
  | i :: rest => exec i { s with pending := rest }

/-- The command that a word spells, put at the front of the queue. No row of spec/opcode_table.json gives bits, so no
word spells a command and the state is unchanged. -/
def State.withFetchWord (s : State) (_nbits _w : Nat) : State := s

end Sys2Proof.Machine
end

