-- ==== Sys2Proof/Safety.lean ====
section
/-! DEFINITION. What a safe step is, the legal states that every step of the block keeps, and the terms in which claims
say what a command leaves alone. -/

namespace Sys2Proof.Machine

/-- A step goes on. -/
def Safe (s : State) : Prop := ∃ t, step s = .next t

/-- A legal state: tile memory, the accumulator stores and their valid bits are in canonical form; the tick exponent is
11 to 16 (R32), ROLE is no reserved code (R35), and the job's device count is at most 1,024 (R298). -/
structure Legal (s : State) : Prop where
  mem : Map.wf 0#8 s.mem = true
  acc : Map.wf 0#8 s.acc = true
  bad : Map.wf false s.accBad = true
  tickLow : 11 ≤ s.rcu.k
  tickHigh : s.rcu.k ≤ 16
  role : s.rcu.role ≤ 2
  devices : s.dck.devices ≤ 1024

/-! ### Frames -/

/-- Every byte of every tile's memory reads as before. -/
def SameMemory (s t : State) : Prop := ∀ p o, t.readByte p o = s.readByte p o

/-- Nothing changes but position `p`: its dealer, its engines and its rings, and no byte of memory. -/
def OnlyTile (p : Nat) (s t : State) : Prop := t = { s with tiles := t.tiles } ∧ ∀ q, q ≠ p → t.tile q = s.tile q

/-- Nothing changes but port `n`. -/
def OnlyPort (n : Nat) (s t : State) : Prop := t = { s with ports := t.ports } ∧ ∀ m, m ≠ n → t.port m = s.port m

/-- Nothing changes but table `n`. -/
def OnlyTable (n : Nat) (s t : State) : Prop := t = { s with tables := t.tables } ∧ ∀ m, m ≠ n → t.table m = s.table m

/-- Nothing changes but function `f` of the host interface. -/
def OnlyFn (f : Fn) (s t : State) : Prop :=
  t = { s with hif := { s.hif with fns := t.hif.fns } } ∧ ∀ g, fnKey g ≠ fnKey f → t.fn g = s.fn g

/-- Nothing changes but the record queues and the log (R305, R406). -/
def OnlyRecords (s t : State) : Prop :=
  t = { s with
    hif := { s.hif with queues := t.hif.queues },
    mgc := { s.mgc with logNew := t.mgc.logNew, logRate := t.mgc.logRate } }

/-- A record is raised on a source of this device (R305): it is what its queue takes in next. -/
def Posted (s t : State) (src kind status tag detail : Nat) : Prop :=
  t.queue (qKey 0 src) = (s.queue (qKey 0 src)).raise (s.owed (qKey 0 src))
    { status, kind, src, win := 0, sseq := (s.queue (qKey 0 src)).sseq, stamp := s.roundCounter, tag, detail }

end Sys2Proof.Machine
end

