-- ==== Sys2Proof/WellFormed.lean ====
section
/-! DEFINITION. Which commands are well formed: the units that they name exist, and their operands have the widths and
lengths that the spec gives them. -/

namespace Sys2Proof

/-- The function exists: the physical function, or virtual function 0 to 15 (R27). -/
def Fn.wf : Fn → Bool
  | .pf => true
  | .vf n => decide (n < 16)
/-- Record rings of a function: 18, or one in a virtual function (R302). -/
def Fn.recordRings : Fn → Nat
  | .pf => 18
  | .vf _ => 1
/-- A physical position (R6). -/
def posWf (p : Nat) : Bool := decide (p < 208)
/-- An optical port (R267). -/
def portWf (n : Nat) : Bool := decide (n < 64)
/-- A table (R5). -/
def tableWf (t : Nat) : Bool := decide (t < 16)
/-- A BAR0 offset: 64 MiB (R300). -/
def bar0Wf (off : Nat) : Bool := decide (off < 2 ^ 26)
/-- Bytes of a function's BAR2: 128 GiB, or 8 GiB in a virtual function (R300). -/
def bar2Size : Fn → Nat
  | .pf => 2 ^ 37
  | .vf _ => 2 ^ 33
/-- `n` bytes from an address lie within a function's BAR2. -/
def bar2Wf (fn : Fn) (addr n : Nat) : Bool := decide (addr + n ≤ bar2Size fn)

/-- A device index has 10 bits (R268). -/
def SyncFlit.wf (f : SyncFlit) : Bool := decide (f.dev < 1024) && decide (f.rootDev < 1024) && decide (f.state < 8)
/-- The fields of LNK.SELF, a port number, a grade code (R4, R268, R283). -/
def IdentFlit.wf (f : IdentFlit) : Bool :=
  decide (f.dev < 1024) && decide (f.group < 64) && decide (f.pos < 16) && portWf f.port && decide (f.grade < 4)
/-- A symbol of 10 bits in one of the 544 places of one of the 16 codewords (R260, R261). -/
def SymbolError.wf (e : SymbolError) : Bool := decide (e.word < 16) && decide (e.symbol < 544) && decide (e.bits < 1024)
/-- A frame is 10,280 message bytes in 16 codewords (R261); an error names each place once. -/
def RxFrame.wf (f : RxFrame) : Bool :=
  decide (f.msg.length = 10280) && f.errors.all SymbolError.wf && decide ((f.errors.map fun e => (e.word, e.symbol)).Nodup)
/-- A descriptor is 128 bytes, on a command ring of a function or on the ring that takes a lead's commands, for a
window (R312, R318). -/
def DescIn.wf (d : DescIn) : Bool := d.fn.wf && decide (d.ring < 5) && decide (d.bytes.length = 128)
/-- An access within BAR0 or BAR2, or a command of 64 bytes (R304, R313). -/
def FolAccess.wf (fn : Fn) : FolAccess → Bool
  | .regRead off => bar0Wf off
  | .regWrite off _ => bar0Wf off
  | .bar2Read off len => bar2Wf fn off len
  | .bar2Write off data => bar2Wf fn off data.length
  | .command bytes => decide (bytes.length = 64)
/-- A latch of a register bit (R395). -/
def LatchUpset.wf (u : LatchUpset) : Bool := bar0Wf u.off && decide (u.bit < 32) && decide (u.latch < 3)
/-- An array of a tile: program store, ODT or pip store; or a port (R396). -/
def ScrubHit.wf : ScrubHit → Bool
  | .tile p arr flips => posWf p && decide (arr < 3) && flips.all fun x => decide (x.2 < 32)
  | .port n flips => portWf n && flips.all fun x => decide (x.2 < 32)

/-- The well-formed commands. -/
def Instr.wf : Instr → Bool
  | .tickBoundary => true
  | .budgetPeriodEnd tbl => tableWf tbl
  | .grantFromWaiting _ => true
  | .publicationSample _ => true
  | .tickEndCutoff p => posWf p
  | .deadlineExpire p _ => posWf p
  | .rcuNowLowRead => true
  | .rcuNowLowWrite _ => true
  | .rcuTickWrite _ _ => true
  | .rcuConfigWrite _ => true
  | .syncSend => true
  | .followSend => true
  | .syncReceive port f _ => portWf port && f.wf
  | .followReceive port _ => portWf port
  | .holdoverEnter => true
  | .holdoverExpire => true
  | .pswGo fn _ => fn.wf
  | .pswCancel fn _ => fn.wf
  | .bundleDecode p => posWf p
  | .bundleIssue p => posWf p
  | .cldResult p => posWf p
  | .setupWrite p => posWf p
  | .ringResultWrite p => posWf p
  | .digestPost p => posWf p
  | .loadComplete p _ => posWf p
  | .footWrite p _ stream row upset =>
    posWf p && decide (stream < 4) && decide (row < 128) && (match upset with | some u => decide (u < 2 ^ 128) | none => true)
  | .tallyMismatch p => posWf p
  | .tallyVerdict p => posWf p
  | .captureCopy p => posWf p
  | .completionFlagWrite p _ => posWf p
  | .pipNop p => posWf p
  | .halt p => posWf p
  | .fma p => posWf p
  | .falu p => posWf p
  | .bfma p => posWf p
  | .balu p => posWf p
  | .fcmp p => posWf p
  | .ialu p => posWf p
  | .icmp p => posWf p
  | .sel p => posWf p
  | .addi p => posWf p
  | .lui p => posWf p
  | .ori p => posWf p
  | .cvt p => posWf p
  | .sfu p => posWf p
  | .movs p => posWf p
  | .rnd p => posWf p
  | .ld p => posWf p
  | .lds p => posWf p
  | .ldp p => posWf p
  | .st p => posWf p
  | .sts p => posWf p
  | .stp p => posWf p
  | .pipMemoryComplete p => posWf p
  | .pcinv p => posWf p
  | .red p => posWf p
  | .xch p => posWf p
  | .mxq p => posWf p
  | .br p => posWf p
  | .brk p => posWf p
  | .loop p => posWf p
  | .loopr p => posWf p
  | .slotLanding p => posWf p
  | .circuitSlotRelease port => portWf port
  | .ringPublish p r => posWf p && decide (r < 16)
  | .ringTailWrite _ rq p r _ => rq.fn.wf && posWf p && decide (r < 16)
  | .ringHeadWrite _ rq p r _ => rq.fn.wf && posWf p && decide (r < 16)
  | .hostWaitLimit p => posWf p
  | .bar2Write rq addr data => rq.fn.wf && bar2Wf rq.fn addr data.length
  | .bar2Read rq addr len => rq.fn.wf && bar2Wf rq.fn addr len
  | .followerAccess fn win a => fn.wf && decide (win < 64) && a.wf fn
  | .followerTimeout _ => true
  | .frameSend port => portWf port
  | .frameReceive port f => portWf port && f.wf
  | .ackTimeout port => portWf port
  | .packetWaitLimit port => portWf port
  | .rwrReceive port => portWf port
  | .rflagReceive port => portWf port
  | .rrdReceive port => portWf port
  | .rrspReceive port => portWf port
  | .rpushReceive port => portWf port
  | .rackReceive port => portWf port
  | .regrdReceive port => portWf port
  | .regwrReceive port => portWf port
  | .regrspReceive port => portWf port
  | .hostBar2Write port => portWf port
  | .hostBar2Read port => portWf port
  | .hostReadData port => portWf port
  | .hostCommand port => portWf port
  | .hostRecord port => portWf port
  | .hostReadRequest port _ => portWf port
  | .hostData port => portWf port
  | .hostWrite port => portWf port
  | .teleReceive port => portWf port
  | .identReceive port f => portWf port && f.wf
  | .identSend port => portWf port
  | .telemetryWindowEnd => true
  | .portEnable port => portWf port
  | .portDisable port => portWf port
  | .portRetrain port => portWf port
  | .laserLightGain i _ => decide (i < 16)
  | .lightLoss port => portWf port
  | .trainSettled port => portWf port
  | .trainTimeout port => portWf port
  | .crTailWrite rq ring _ => rq.fn.wf && decide (ring < 4)
  | .rrHeadWrite rq ring _ => rq.fn.wf && decide (ring < rq.fn.recordRings)
  | .hostRingEnable fn record ring _ => fn.wf && decide (ring < if record then fn.recordRings else 4)
  | .commandFetch fn ring cmd _ =>
    fn.wf && decide (ring < 4) && (match cmd with | some b => decide (b.length = 64) | none => true)
  | .deckLoadComplete _ _ => true
  | .recordPublish fn ring => fn.wf && decide (ring < fn.recordRings)
  | .holdoffExpire fn ring => fn.wf && decide (ring < fn.recordRings)
  | .vfFlr n => decide (n < 16)
  | .pfFlr => true
  | .hotReset => true
  | .perst => true
  | .deviceReset _ => true
  | .powerOn _ => true
  | .railEnableTimeout rail => decide (rail < 7)
  | .generate d _ => d.wf
  | .score d _ => d.wf
  | .cancel d => d.wf
  | .park d => d.wf
  | .resume d _ _ => d.wf
  | .bind d => d.wf
  | .inputRecordDeadline tbl => tableWf tbl
  | .resultRead r => tableWf r.table
  | .laneMapSample tbl => tableWf tbl
  | .gather _ => true
  | .gatherDeadline _ => true
  | .parkComplete _ _ => true
  | .restoreComplete _ => true
  | .substitutionSwitch tbl => tableWf tbl
  | .substitutionCopyTimeout tbl => tableWf tbl
  | .recoveryComplete tbl _ => tableWf tbl
  | .trimDecay p => posWf p
  | .probeGo _ => true
  | .probeComplete e =>
    (match e.fail with | some i => decide (i < 0xFFFF) | none => true) && e.badBlocks.all fun b => decide (b < 0xFEFF)
  | .probePeriodic => true
  | .scrub upsets hits => upsets.all LatchUpset.wf && hits.all ScrubHit.wf
  | .logRead _ => true
  | .fwWrite _ => true
  | .fwCommit _ _ => true
  | .fwActivate _ => true
  | .keyEnrol _ => true
  | .keyRevoke _ => true
  | .regWrite _ => true
  | .regRead _ => true
  | .thermRestart _ => true
  | .tempSample i _ => decide (i < 64)
  | .thermalStop i _ => decide (i < 64)
  | .powerStop _ => true
  | .railFault i _ _ => decide (i < 24)
  | .coolantHigh _ => true
  | .powerWindowEnd r => r.amps.all (fun e => decide (e.1 < 9)) && r.light.all fun e => decide (e.1 < 64)
  | .logPageWrite => true
  | .logSuppressed => true
  | .registerReadClear _ rq r => rq.fn.wf && bar0Wf r.off && (!r.wide || r.off % 8 == 0)
  | .registerWrite _ rq off _ => rq.fn.wf && bar0Wf off
  | .hdmaComplete fn ring => fn.wf && decide (ring < 5)
  | .coolantSensorFault => true
  | .powerDown => true
  | .srIovEnable _ => true
  | .mgcRestartComplete _ => true
  | .deviceResetComplete => true

end Sys2Proof
end

