-- ==== Sys2Proof/Certificates/Slice0/Obligations.lean ====
section
/-! DEFINITION. The statements for the provers. Each says what a command, or the block as a whole, does by the rules of spec/
that its docstring names; a statement of two claims is their conjunction. -/

open Sys2Proof Sys2Proof.Machine

/-! ### The block as a whole -/

/-- The command at the front of the queue is the one that runs, on the state with the queue's rest. -/
def Claims.StepRunsTheFrontCommand : Prop :=
  ∀ (s : State) (i : Instr) (rest : List Instr), s.pending = i :: rest → step s = exec i { s with pending := rest }

/-- With no command waiting, one fabric beat passes, which is the model's choice (log entry 2): the beat's work is done, the
count and the model's age advance by one from where that work leaves them, and behind the last beat of a tick comes the boundary.
No host access waiting when its turn comes, the work leaves the count alone: the count advances by one. No command appears. -/
def Claims.EmptyQueueLetsTimePass : Prop :=
  ∀ s : State, s.pending = [] → Legal s →
    let w := s.fabricWork
    ∃ t, step s = .next t ∧ t.pending = [] ∧ t.now = (w.now + 1) % 2 ^ 64 ∧
      (s.copyRows.samplePubs.beatWork.takeReads.hif.accs = [] → t.now = (s.now + 1) % 2 ^ 64) ∧
      (w.beat + 1 = w.tickLen → t = (w.closeTick.pass 1).boundary) ∧
      (w.beat + 1 ≠ w.tickLen → t = { w with
        age := w.age + 1, rcu := { w.rcu with count := w.rcu.count + 1 }, mgc := { w.mgc with flashOpen := [] } })

/-- `Claims.StepRunsTheFrontCommand` and `Claims.EmptyQueueLetsTimePass` hold. -/
def Obligations.StepRunsTheFrontCommand : Prop := Claims.StepRunsTheFrontCommand ∧ Claims.EmptyQueueLetsTimePass

/-- Every step keeps a legal state legal: memory in canonical form (R9), the tick exponent (R32), ROLE (R35), the job's
device count (R298). -/
def Obligations.EveryStepKeepsLegal : Prop := ∀ s t : State, Legal s → step s = .next t → Legal t

/-- The state right after reset is legal. -/
def Obligations.ResetIsLegal : Prop := Legal State.reset

/-- No step changes the fused grade or stepping (R4), no command touches the queue of waiting commands, and what left the
device stays on record. -/
def Claims.CommandsKeepIdentityAndQueue : Prop :=
  ∀ (i : Instr) (s t : State), Legal s → exec i s = .next t →
    t.grade = s.grade ∧ t.stepping = s.stepping ∧ t.pending = s.pending ∧ s.out <+: t.out ∧ s.freeIdx ≤ t.freeIdx

/-- The commands that may set the round counter's count: the boundary, writes that reach RCU.NOW, the step of a sync
exchange, resets and power. A register access may be any of these writes. -/
def movesTime : Instr → Bool
  | .tickBoundary | .rcuNowLowRead | .rcuTickWrite _ _ | .commandFetch _ _ _ _ | .followerAccess _ _ _ | .followReceive _ _ | .deviceReset _ | .powerOn _ | .powerDown | .thermRestart _
  | .registerWrite _ _ _ _ | .registerReadClear _ _ _ | .regWrite _ | .regwrReceive _ | .regrdReceive _
  | .bar2Write _ _ _ | .bar2Read _ _ _ | .hostBar2Write _ | .hostBar2Read _ | .hostWaitLimit _
  | .crTailWrite _ _ _ | .rrHeadWrite _ _ _ | .ringTailWrite _ _ _ _ _ | .ringHeadWrite _ _ _ _ _ => true
  | _ => false

/-- Every other command leaves the count where it is (R30, R33). -/
def Claims.OnlyTimeCommandsMoveTheCount : Prop :=
  ∀ (i : Instr) (s t : State), Legal s → movesTime i = false → exec i s = .next t → t.now = s.now

/-- `Claims.CommandsKeepIdentityAndQueue` and `Claims.OnlyTimeCommandsMoveTheCount` hold. -/
def Obligations.CommandsKeepIdentityQueueAndCount : Prop := Claims.CommandsKeepIdentityAndQueue ∧ Claims.OnlyTimeCommandsMoveTheCount

/-- A well-formed command completes in every state: nothing the block holds turns it away. -/
def Obligations.WellFormedCommandsComplete : Prop :=
  ∀ (i : Instr) (s : State), i.wf = true → ∃ t : State, exec i s = .next t

/-- No command is refused, and the one fault is that of a unit the device does not have. -/
def Claims.NoCommandIsRefused : Prop :=
  ∀ (i : Instr) (s : State), exec i s = .fault .noSuchUnit ∨ ∃ t : State, exec i s = .next t

/-- A command on a unit that the device does not have stops under its own name: a position of the dealers, engines,
pips and rings (R6), a port (R260), a table, a function's ring (R302). These rules give which units there are; the stop itself is the
model's choice (log entry 1). -/
def Claims.AbsentUnitsStop : Prop :=
  ∀ (s : State) (p : Nat),
    (208 ≤ p →
      exec (.tickEndCutoff p) s = .fault .noSuchUnit ∧ exec (.bundleIssue p) s = .fault .noSuchUnit ∧
      exec (.bundleDecode p) s = .fault .noSuchUnit ∧ exec (.slotLanding p) s = .fault .noSuchUnit ∧
      exec (.loadComplete p false) s = .fault .noSuchUnit ∧ exec (.fma p) s = .fault .noSuchUnit ∧
      exec (.halt p) s = .fault .noSuchUnit ∧ exec (.trimDecay p) s = .fault .noSuchUnit) ∧
    (64 ≤ p →
      exec (.frameSend p) s = .fault .noSuchUnit ∧ exec (.portEnable p) s = .fault .noSuchUnit ∧
      exec (.rwrReceive p) s = .fault .noSuchUnit ∧ exec (.circuitSlotRelease p) s = .fault .noSuchUnit) ∧
    (16 ≤ p →
      exec (.budgetPeriodEnd p) s = .fault .noSuchUnit ∧ exec (.substitutionSwitch p) s = .fault .noSuchUnit ∧
      (∀ l, exec (.resultRead ⟨p, l⟩) s = .fault .noSuchUnit) ∧ exec (.vfFlr p) s = .fault .noSuchUnit)

/-- `Claims.NoCommandIsRefused` and `Claims.AbsentUnitsStop` hold. -/
def Obligations.NoCommandIsRefused : Prop := Claims.NoCommandIsRefused ∧ Claims.AbsentUnitsStop

/-! ### The round counter (R30 to R43) -/

/-- RCU_NOW_LOW_READ, RCU_NOW_LOW_WRITE and RCU_TICK_WRITE (R31), and a 64-bit read (R31): a low-word read by the physical function
returns bits [31:0] and latches bits [63:32], a 64-bit read returns the whole count and latches nothing, each through the
vote of the count's latches (R395), and waits while an earlier write of its requester has rows to come (R252); before the HIF
is released a read has no effect and no answer (R412, log entry 13); a low-word
write stores bits [31:16] in the holding register and changes nothing else; a write of TICK sets count := TICK × 2^k on a
root that runs no deck, and is ignored everywhere else. -/
def Obligations.RoundCounterAccesses : Prop :=
  ∀ (s : State) (id : Nat) (v hi : Word) (lo : Option Word),
    let rq : Requester := { fn := .pf, id }
    let fetched := { s.hif with fetched := s.hif.fetched + 1 }
    let low : State := { s with
      rcu := { s.rcu with latch := BitVec.ofNat 32 (s.roundCounter / 2 ^ 32) }
      hif := fetched
      out := s.out ++ [.readData .pf 0x200000 (leBytes 4 (s.roundCounter % 2 ^ 32 ^^^ s.voteMask .pf 0x200000))] }
    (s.hif.released = false → exec .rcuNowLowRead s = .next s ∧ ∀ a, exec (.registerReadClear false rq a) s = .next s) ∧
    (s.hif.released = true → s.hif.accs = [] → exec .rcuNowLowRead s = .next low ∧ exec (.registerReadClear false rq ⟨0x200000, false⟩) s = .next low ∧
      exec (.registerReadClear false rq ⟨0x200000, true⟩) s = .next { s with
        hif := fetched
        out := s.out ++ [.readData .pf 0x200000
          (leBytes 8 (s.roundCounter ^^^ (s.voteMask .pf 0x200000 + s.voteMask .pf 0x200004 * 2 ^ 32)))] }) ∧
    (∀ a p off data, s.hif.released = true → s.hif.accs = [a] → a.id < s.hif.fetched → a.what = .write p off data → a.rq.id = id → a.started = true →
      a.left ≠ 0 → (∃ b, exec (.registerReadClear false rq ⟨0x200000, false⟩) s = .next { s with hif := { fetched with accs := [a, b] } }) ∧
        (id = 0 → ∃ b, exec .rcuNowLowRead s = .next { s with hif := { fetched with accs := [a, b] } })) ∧
    exec (.rcuNowLowWrite v) s = .next { s with rcu := { s.rcu with hold := v.extractLsb' 16 16 } } ∧
    (let tick := hi.toNat * 2 ^ 16 + (match lo with | some x => x.toNat / 2 ^ 16 | none => s.rcu.hold.toNat)
     exec (.rcuTickWrite hi lo) s = .next (
       if s.rcu.role = 1 ∧ s.dck.state ≠ .running ∧ s.dck.state ≠ .stopping ∧ s.dck.state ≠ .starting then
         { s with rcu := { s.rcu with count := BitVec.ofNat 64 (tick * 2 ^ s.rcu.k) } }
       else s))

/-- RCU_CONFIG_WRITE (R35): ignored while a deck runs. Otherwise PARENT, DEPTH, SYNC_LOG and ROLE take the values written, a
reserved value leaving its field as it was (R12), and STATE follows the ROLE written, 0 giving FREE, 1 LOCKED and 2 ACQUIRE; a
member placed in ACQUIRE restarts HOLD_TICKS. Nothing outside the register and the exchange's own fields changes. -/
def Obligations.RoleWriteSetsState : Prop :=
  ∀ (s : State) (v : Word),
    (s.noDeck = false → exec (.rcuConfigWrite v) s = .next s) ∧
    (s.noDeck = true → ∃ t : State, exec (.rcuConfigWrite v) s = .next t ∧
      t.rcu.parent = bits v.toNat 8 6 ∧
      t.rcu.depth = (if bits v.toNat 16 4 ≤ 8 then bits v.toNat 16 4 else s.rcu.depth) ∧
      t.rcu.syncLog = (if bits v.toNat 20 3 ≤ 4 then bits v.toNat 20 3 else s.rcu.syncLog) ∧
      t.rcu.role = (if bits v.toNat 4 2 = 3 then s.rcu.role else bits v.toNat 4 2) ∧
      t.rcu.state = (match bits v.toNat 4 2 with | 0 => .free | 1 => .locked | 2 => .acquire | _ => s.rcu.state) ∧
      t.rcu.holdTicks = (if bits v.toNat 4 2 = 3 then s.rcu.holdTicks else 0) ∧
      t = { s with rcu := { s.rcu with
        parent := t.rcu.parent, depth := t.rcu.depth, syncLog := t.rcu.syncLog, role := t.rcu.role, state := t.rcu.state,
        holdTicks := t.rcu.holdTicks, offset := t.rcu.offset, close := t.rcu.close, stepped := t.rcu.stepped } })

/-- SYNC_SEND and FOLLOW_SEND (R37, The sync exchange): at beat 64 of a sync tick SYNC leaves every port that is up, stamped
with its departure; at beat 1,024 FOLLOW leaves the up ports with the stamps of the peer's last SYNC. At any other beat,
and on an unassigned device, nothing happens. No memory changes; FOLLOW changes the ports alone. -/
def Claims.SyncFlitsLeaveTheUpPorts : Prop :=
  ∀ s : State, s.tick % 2 ^ s.rcu.syncLog = 0 →
    ((s.rcu.role = 1 ∨ s.rcu.role = 2) → s.beat = 64 → ∃ t : State, exec .syncSend s = .next t ∧ SameMemory s t ∧
      t.out = s.out ++ ((List.range 64).filter fun n => (s.port n).state = .up).map fun n =>
        .sync n { dev := s.lnk.dev, rootDev := s.rcu.rootDev, depth := s.rcu.depth, state := s.rcu.state.code,
                  depart := s.stamp16 }) ∧
    ((s.rcu.role = 1 ∨ s.rcu.role = 2) → s.beat = 1024 → ∃ t : State, exec .followSend s = .next t ∧
      t = { s with out := t.out, ports := t.ports } ∧
      t.out = s.out ++ ((List.range 64).filter fun n => (s.port n).state = .up).filterMap fun n =>
        (s.port n).gotSync.map fun x => .follow n { peerDepart := x.1.depart, peerArrive := x.2 }) ∧
    (s.rcu.role = 0 → exec .syncSend s = .next s ∧ exec .followSend s = .next s) ∧
    (s.beat ≠ 64 → exec .syncSend s = .next s) ∧ (s.beat ≠ 1024 → exec .followSend s = .next s)

/-- SYNC_RECEIVE (R36, R267, R283), `u` and `g` being the state and the flit once a loopback fibre has given it up: a flit that names
another root is discarded, with 0x5001, and leaves the port without a SYNC; one that names this pod's root is kept with the
stamp of its arrival. A port that is not up takes none, and a loopback port with none on its fibre nothing. -/
def Claims.SyncOfAnotherRootIsDiscarded : Prop :=
  ∀ (s u : State) (n : Nat) (f : SyncFlit) (arrive : Nat), n < 64 →
    (s.arrives n Wire.sync? f = (u, none) → exec (.syncReceive n f arrive) s = .next u) ∧
    (∀ g, s.arrives n Wire.sync? f = (u, some g) →
      ((u.port n).state ≠ .up → exec (.syncReceive n f arrive) s = .next u) ∧
      ((u.port n).state = .up → g.rootDev = u.rcu.rootDev →
        exec (.syncReceive n f arrive) s = .next (u.modPort n fun x => { x with gotSync := some (g, arrive) })) ∧
      ((u.port n).state = .up → g.rootDev ≠ u.rcu.rootDev → ∃ t : State, exec (.syncReceive n f arrive) s = .next t ∧
        let w := u.modPort n fun x => { x with gotSync := none }
        Posted w t srcMgc 2 0x5001 0 0 ∧ OnlyRecords w t))

/-- `Claims.SyncFlitsLeaveTheUpPorts` and `Claims.SyncOfAnotherRootIsDiscarded` hold. -/
def Obligations.SyncFlitsAreSentAndChecked : Prop := Claims.SyncFlitsLeaveTheUpPorts ∧ Claims.SyncOfAnotherRootIsDiscarded

/-- FOLLOW_RECEIVE on the parent's port of a member, `s1` and `g` being the state and the flit once a loopback fibre has given it
up. Every exchange leaves the port's delay, HOLD_TICKS at 0, and OFFSET at the measured offset, at most 0x7FF either way (R39);
`w` is the fabric clock's trim, a free value of at most 100,000 either way (R33, log entry 3). LOCKED (R41): above half a beat (8
sixteenths) 0x5005 is raised, and nothing else changes but the trim; above one beat the device is LOST with 0x5004 behind it,
every dealer stops (R43), and the count is not stepped (R33). ACQUIRE (R38, R40): with a parent of another DEPTH 0x5002 is raised
once a sync period; with one that is not LOCKED nothing more happens (log entry 39); the first exchange with a LOCKED parent
steps the count by the offset, and the sixteenth in a row within a quarter beat (4 sixteenths) makes the device LOCKED.
HOLDOVER (R42): an exchange within one beat makes it LOCKED again. -/
def Obligations.LockedExchangeKeepsOrLosesLock : Prop :=
  ∀ (s s1 : State) (n : Nat) (f g : FollowFlit) (y : SyncFlit) (arrive : Nat), n < 64 →
    s.arrives n Wire.follow? f = (s1, some g) → (s1.port n).state = .up →
    (s1.port n).gotSync = some (y, arrive) → y.rootDev = s1.rcu.rootDev → s1.rcu.role = 2 → s1.rcu.parent = n →
    let x := syncExchange y.depart arrive g.peerDepart g.peerArrive
    let u := s1.putDelay n x.1
    let told := { u with rcu := { u.rcu with offset := max (-0x7ff) (min 0x7ff x.2), holdTicks := 0 } }
    let trims := fun (a b : State) => ∃ w : Int, -100000 ≤ w ∧ w ≤ 100000 ∧
      b = { a with rcu := { a.rcu with trim := w }, freeIdx := a.freeIdx + 1 }
    (s1.rcu.state = .locked →
      (x.2.natAbs ≤ 8 → ∃ t, exec (.followReceive n f) s = .next t ∧ trims told t) ∧
      (8 < x.2.natAbs → x.2.natAbs ≤ 16 → ∃ v t, trims told v ∧ exec (.followReceive n f) s = .next t ∧ OnlyRecords v t ∧
        Posted u t srcMgc 2 0x5005 0 0) ∧
      (16 < x.2.natAbs → ∃ t w : State, exec (.followReceive n f) s = .next t ∧ t.rcu = { told.rcu with state := .lost } ∧
        t.now = s.now ∧ SameMemory s t ∧ (∀ i < 16, (t.table i).stopping = true) ∧
        Posted u w srcMgc 2 0x5005 0 0 ∧ Posted w t srcMgc 2 0x5004 0 0)) ∧
    (s1.rcu.state = .acquire →
      (y.depth + 1 ≠ s1.rcu.depth → s1.rcu.depthTold = true → exec (.followReceive n f) s = .next told) ∧
      (y.depth + 1 ≠ s1.rcu.depth → s1.rcu.depthTold = false → ∃ t : State, exec (.followReceive n f) s = .next t ∧
        t.rcu = { told.rcu with depthTold := true } ∧ Posted u t srcMgc 2 0x5002 0 0) ∧
      (y.depth + 1 = s1.rcu.depth → y.state ≠ 2 → exec (.followReceive n f) s = .next told) ∧
      (y.depth + 1 = s1.rcu.depth → y.state = 2 → s1.rcu.stepped = false → ∃ t : State, exec (.followReceive n f) s = .next t ∧
        t.rcu.state = .acquire ∧ t.rcu.stepped = true ∧ t.rcu.close = 0 ∧
        ((t.now * 16 + t.rcu.frac.toNat : Nat) : Int) = (((s1.now * 16 + s1.rcu.frac.toNat : Nat) : Int) - told.rcu.offset) % 2 ^ 68) ∧
      (y.depth + 1 = s1.rcu.depth → y.state = 2 → s1.rcu.stepped = true → 4 < x.2.natAbs →
        ∃ t, exec (.followReceive n f) s = .next t ∧ trims { told with rcu := { told.rcu with close := 0 } } t) ∧
      (y.depth + 1 = s1.rcu.depth → y.state = 2 → s1.rcu.stepped = true → x.2.natAbs ≤ 4 →
        ∃ t, exec (.followReceive n f) s = .next t ∧
          trims { told with rcu := { told.rcu with
            close := s1.rcu.close + 1, state := if 16 ≤ s1.rcu.close + 1 then .locked else .acquire } } t)) ∧
    (s1.rcu.state = .holdover →
      (x.2.natAbs ≤ 16 → ∃ t, exec (.followReceive n f) s = .next t ∧
        trims { told with rcu := { told.rcu with state := .locked } } t) ∧
      (16 < x.2.natAbs → exec (.followReceive n f) s = .next told))

/-- HOLDOVER_ENTER and HOLDOVER_EXPIRE (R42): a LOCKED member without an exchange for two sync periods enters HOLDOVER with
0x5003; in HOLDOVER, HOLD_TICKS at HOLD_LIMIT makes it LOST with 0x5004. With HOLD_LIMIT 0 the first missed exchange makes it LOST
straight from LOCKED (R36); that it is missed once HOLD_TICKS is above one sync period is the model's choice (log entry 39). -/
def Obligations.HoldoverEntersAndExpires : Prop :=
  ∀ s : State,
    let lost := fun (t : State) => t.rcu = { s.rcu with state := .lost } ∧ Posted s t srcMgc 2 0x5004 0 0 ∧
      (∀ i < 16, (t.table i).stopping = true) ∧ SameMemory s t
    (s.rcu.role = 2 → s.rcu.state = .locked → s.rcu.holdLimit ≠ 0 → 2 * 2 ^ s.rcu.syncLog ≤ s.rcu.holdTicks →
      ∃ t : State, exec .holdoverEnter s = .next t ∧ OnlyRecords { s with rcu := { s.rcu with state := .holdover } } t ∧
        Posted s t srcMgc 2 0x5003 0 0) ∧
    (s.rcu.role = 2 → s.rcu.state = .locked → s.rcu.holdLimit = 0 →
      (2 ^ s.rcu.syncLog < s.rcu.holdTicks → ∃ t : State, exec .holdoverEnter s = .next t ∧ lost t) ∧
      (s.rcu.holdTicks ≤ 2 ^ s.rcu.syncLog → exec .holdoverEnter s = .next s)) ∧
    (s.rcu.state = .holdover → s.rcu.holdLimit ≤ s.rcu.holdTicks → ∃ t : State, exec .holdoverExpire s = .next t ∧ lost t)

/-- PSW_GO (R59): the checks in their order give STATUS; an accepted GO gives every masked table its pending switch, and a
rejected one changes no table. -/
def Obligations.GoIsCheckedInOrder : Prop :=
  ∀ (s : State) (fn : Fn) (v : Word), bit v.toNat 31 = true → bit v.toNat 30 = false →
    let ts := maskedTables fn v.toNat
    let phase := bits v.toNat 16 2
    let code :=
      if s.dck.state ≠ .running then 0x5023
      else if ts = [] then 0
      else if s.rcu.pswTick < s.tick + 2 then 0x5020
      else if ts.any fun n => (s.table n).switch.isSome then 0x5021
      else if ts.any fun n => (s.table n).failed || (s.table n).recovering then 0x5024
      else if ts.any fun n => !s.hasSection n phase then 0x5022
      else 0
    ∃ t : State, exec (.pswGo fn v) s = .next t ∧ t.rcu.pswStatus = code ∧
      t = { s with
        rcu := { s.rcu with pswMask := t.rcu.pswMask, pswPhase := t.rcu.pswPhase, pswStatus := code }, tables := t.tables } ∧
      ∀ n, t.table n =
        if code = 0 ∧ n ∈ ts then { s.table n with switch := some { tick := s.rcu.pswTick, phase }, closing := true }
        else s.table n

/-- PSW_CANCEL (R61): while DCK.STATE is not RUNNING it changes no table and STATUS reads 0x5023. Otherwise each masked table's
pending switch is removed when its tick is at least two ahead, and STATUS reads 0x5020 when some masked table's is not. -/
def Obligations.CancelRemovesPendingSwitches : Prop :=
  ∀ (s : State) (fn : Fn) (v : Word), bit v.toNat 30 = true →
    let ts := maskedTables fn v.toNat
    let fields := fun t => (t : State) = { s with
      rcu := { s.rcu with pswMask := t.rcu.pswMask, pswPhase := t.rcu.pswPhase, pswStatus := t.rcu.pswStatus }, tables := t.tables }
    (s.dck.state ≠ .running → ∃ t : State, exec (.pswCancel fn v) s = .next t ∧ fields t ∧ t.tables = s.tables ∧
      t.rcu.pswStatus = 0x5023) ∧
    (s.dck.state = .running → ∃ t : State, exec (.pswCancel fn v) s = .next t ∧ fields t ∧
      t.rcu.pswStatus = (if ts.any fun n => (s.table n).switch.any fun w => decide (w.tick < s.tick + 2) then 0x5020 else 0) ∧
      ∀ n, t.table n =
        if n ∈ ts ∧ (s.table n).switch.any (fun w => decide (s.tick + 2 ≤ w.tick)) = true then
          { s.table n with switch := none, closing := false }
        else s.table n)

/-- TICK_BOUNDARY (R30), and what the boundary does. In the last beat that beat's work comes first; given earlier, the boundary
skips the beats that are left, which is the model's choice (log entry 10). The count stands at beat 0 of the next tick, and the
boundary's actions come in the order of R64. Of each, in any state `b` and for any table `n`: the meter (R67, R68); a clock change
(R56); a stopped table reads IDLE, loses its pending switch and its requests (R28, R43, R62, R349); a deck's start (R296) and its
stop (R297); a port's congestion counts and its suspended circuits (R282, R286); the phase step (R60, R297), with which a position
loses what it had decoded, its SKIP count, its repetitions and its poisoned slots, and in an entry tick its parameter cache (R140,
R185, R196); the SVC's steps in the order of R331 and R368; the effects of a CANCEL (R341) and of a BIND (R334); the
withdrawal of grants (R364, R368); and admission, which gives the first lanes to a request that is ready to generate (R331). -/
def Obligations.TickBoundaryEndsTheTick : Prop :=
  (∀ s : State, Legal s →
    let w := if s.beat + 1 = s.tickLen then s.fabricWork else s
    ∃ t : State, exec .tickBoundary s = .next t ∧ t.now = (w.now - w.beat + 2 ^ w.rcu.k) % 2 ^ 64 ∧
      let u := w.closeTick.pass 1
      let a := ((u.rcuTick.railsOff.eachTile State.expireTile).eachTable State.switchSeat).respond
      let c := ((((a.eachTable State.changeClock).stopTables).deckBoundary).eachPort State.portTick).eachTable State.stepTable
      t = (c.svcBoundary c.tick c.entered).eachTable fun d n => d.modTable n fun x => { x with dfault := none }) ∧
  ∀ (b : State) (n : Nat), n < 16 →
    let x := b.table n
    let map := match b.runningProg n with | some p => p.tokens | none => 0
    -- the meter
    ((b.meterTick.table n).used = min 0xFFF (b.meterTable n) ∧ (b.meterTick.table n).map = map ∧
      (b.meterTick.table n).overrun = (x.overrun || decide (map + 16 < b.meterTable n)) ∧
      (x.role = none → (b.meterTick.table n).used = 0) ∧ b.meterTick.pwr.ticks = b.pwr.ticks + 1) ∧
    -- a clock change
    (b.changeClock n).table n = { x with clock := x.newClock.getD x.clock, newClock := none } ∧
    -- a stopped table
    ((b.halted = true ∨ x.stopping = true) →
      ((b.stopTables).table n).phase = 0 ∧ ((b.stopTables).table n).switch = none ∧ ((b.stopTables).table n).role = none ∧
      ((b.stopTables).table n).stopping = false ∧ ∀ q ∈ (b.stopTables).svc.reqs, q.table ≠ n) ∧
    (b.halted = false → x.stopping = false → (b.stopTables).table n = x) ∧
    -- the start and the stop of a deck
    (∀ c, b.dck.stop = none → b.dck.start = some c → c.tick ≤ b.tick →
      b.deckBoundary.dck.state = .running ∧ b.deckBoundary.dck.start = none ∧ (b.deckBoundary.table n).phase = 0 ∧
      (b.deckBoundary.table n).switch = none ∧ (b.deckBoundary.table n).choice = 0 ∧ SameMemory b b.deckBoundary) ∧
    (∀ c, b.dck.stop = some c → c.tick ≤ b.tick →
      b.deckBoundary.dck.state = .none_ ∧ b.deckBoundary.dck.result = 0 ∧ b.deckBoundary.svc.reqs = [] ∧
      (b.deckBoundary.table n).phase = 0 ∧ (b.deckBoundary.table n).switch = none ∧ (b.deckBoundary.table n).clock = 0) ∧
    (∀ c, b.dck.stop = none → b.dck.start = some c → b.tick < c.tick → b.deckBoundary = b) ∧
    -- a port
    (∀ m, (b.portTick m).port m = { b.port m with
        cBmax := max (b.port m).cBmax (min (b.port m).backlog 0xFFFF)
        cStall := min 255 ((b.port m).cStall + if (b.port m).stalled then 1 else 0)
        stalled := false
        suspended := (b.port m).suspended && !(decide ((b.port m).state = .up) && b.inWin m) } ∧
      ∀ l, l ≠ m → (b.portTick m).port l = b.port l) ∧
    -- the phase step
    (let y := (b.stepTable n).table n
     (b.deckRuns = true → b.halted = false → b.dck.stop = none →
      (∀ w, x.switch = some w →
        (b.tick < w.tick → y.phase = x.phase ∧ y.switch = some w ∧ y.role = if x.phase = 0 then none else some 0) ∧
        (b.tick = w.tick → y.phase = x.phase ∧ y.switch = some w ∧ y.role = if x.phase = 0 then none else some 1) ∧
        (w.tick < b.tick → y.phase = w.phase ∧ y.switch = none ∧ y.closing = false ∧ y.cycle0 = b.tick + 1 ∧
          y.role = if w.phase = 0 then none else some 2)) ∧
      (x.switch = none → y.phase = x.phase ∧ y.switch = none ∧ y.role = if x.phase = 0 then none else some 0)) ∧
     (∀ c, b.deckRuns = true → b.halted = false → b.dck.stop = some c → c.abort = false → c.tick = b.tick + 1 → x.switch = none →
      y.role = if x.phase = 0 then none else some 1) ∧
     (b.halted = true → y.role = none ∧ y.phase = x.phase) ∧
     (∀ i < 13, let v := (b.stepTable n).tile (13 * n + i)
      v.decoded = [] ∧ v.reps = [] ∧ v.poison = 0 ∧ v.crecvs = [] ∧
      v.pips.cache = (if y.role = some 2 then [] else (b.tile (13 * n + i)).pips.cache)) ∧
     SameMemory b (b.stepTable n)) ∧
    -- the SVC
    (∀ (t : Nat) (entered : List Nat),
      b.serveBoundary t entered =
        let d := (b.eachAdmit fun d m => ((d.finishResults m t).applyPeriod m t).applyActs m t).decideAll.grantAll entered
        d.eachAdmit fun d m => (d.phaseEffects m t).admitRequests m t) ∧
    (∀ id,
      let t := b.applyCancel n id
      ((∀ q ∈ b.svc.reqs, q.table = n → q.id ≠ id) → t.svc.reqs = b.svc.reqs) ∧
      (∀ q, (b.reqsOf n).find? (·.id == id) = some q →
        (q.state = .queued ∨ q.state = .restoring ∨ (q.state = .active ∧ q.steps = []) →
          t.svc.reqs = b.svc.reqs.filter (·.id != id)) ∧
        (q.state = .parking ∨ (q.state = .active ∧ q.steps ≠ []) →
          t.svc.reqs = b.svc.reqs.map fun z => if z.id = id then { z with cancelled := true } else z))) ∧
    (∀ d : Desc, let slot := d.plen % 4096
      let rank := d.maxNew % 128
      ((b.serveTable n).hasSlot slot = true → (b.svc.slot slot).state = 0 → 8 ≤ rank → rank ≤ 64 → rank % 8 = 0 → d.adnum < 4096 →
        b.grantOpen d.adnum = false →
        let t := b.applyBind n d
        (t.svc.ad d.adnum).valid = true ∧ (t.svc.ad d.adnum).slot = slot ∧ (t.svc.slot slot).state = 1 ∧
        (t.svc.ad d.adnum).version = if (b.svc.ad d.adnum).valid then (b.svc.ad d.adnum).version + 1 else 1) ∧
      ((b.svc.slot slot).state ≠ 0 → (b.applyBind n d).svc = b.svc)) ∧
    (∀ r ∈ b.learnRecs, ∀ entered, (b.table r.2.ltable).phase ≠ 3 → ((b.grantAll entered).svc.rec_ r.1).gstate = 0) ∧
    (∀ t q, x.closing = false → x.phase = 1 → x.failed = false → x.recovering = false → b.reqsOf n = [q] → q.isScore = false →
      q.genReady = true → 0 < (b.serveTable n).nlane →
      let toks := q.ready.getD 0 :: q.drafts.take (min (1 + q.dcur) (b.serveTable n).nlane - 1)
      ∃ q' : Request, (b.admitRequests n t).req? q.id = some q' ∧ q'.ready = none ∧ q'.steps = q.steps ++
        [{ tick := t, lane := 0, n := toks.length, tokens := toks, pos := q.pos, gen := true, sampled := true, read := false }]) ∧
    (∀ t, (x.closing = true ∨ x.failed = true ∨ x.recovering = true ∨ (x.phase ≠ 1 ∧ x.phase ≠ 2)) →
      (b.admitRequests n t).svc.reqs = b.svc.reqs ∧ (b.admitRequests n t).svc.lanes = b.svc.lanes)

/-! ### The dealer (R179 to R215) -/

/-- CLD_RESULT and RING_RESULT_WRITE (R197, R210): at the end of beat t + 31 the oldest due result enters its counter and no
other counter changes (what the running beat reads of its counters is the new value); one whose row has not been read raises 0x5010 and no counter changes. -/
def Obligations.DueResultsEnterTheirCounters : Prop :=
  ∀ (s : State) (p : Nat), p < 208 →
    (∀ c rest, takeFirst (fun (c : Cld) => decide (c.due < s.stamp (p / 13))) (s.tile p).clds = some (c, rest) →
      (∀ v, c.value = some v → ∃ t : State, exec (.cldResult p) s = .next t ∧ OnlyTile p s t ∧
        (∀ d, (t.tile p).counter d = if d = c.d then v.toNat else (s.tile p).counter d) ∧
        t.tile p = { s.tile p with clds := rest, ctr := (t.tile p).ctr, before := (t.tile p).before }) ∧
      (c.value = none → ∃ t : State, exec (.cldResult p) s = .next t ∧ SameMemory s t ∧
        Posted s t (srcTable (p / 13)) 2 0x5010 (faultTag (s.ltileOf p) c.bundle false) 0 ∧ (t.tile p).clds = rest ∧
        ∀ d, (t.tile p).counter d = (s.tile p).counter d)) ∧
    (∀ c rest, takeFirst (fun (c : RingRes) => decide (c.due < s.stamp (p / 13))) (s.tile p).results = some (c, rest) →
      (∀ v, c.value = some v → ∃ t : State, exec (.ringResultWrite p) s = .next t ∧ OnlyTile p s t ∧
        (∀ d, (t.tile p).counter d = if d = c.d then v.toNat else (s.tile p).counter d) ∧
        t.tile p = { s.tile p with results := rest, ctr := (t.tile p).ctr, before := (t.tile p).before }) ∧
      (c.value = none → ∃ t : State, exec (.ringResultWrite p) s = .next t ∧ SameMemory s t ∧
        Posted s t (srcTable (p / 13)) 2 0x5010 (faultTag (s.ltileOf p) c.bundle false) 0 ∧ (t.tile p).results = rest ∧
        ∀ d, (t.tile p).counter d = (s.tile p).counter d))

/-- SETUP_WRITE (R11, R201): at the end of beat t + 31 + NROWS all targets of the oldest due SETUP are written together from the rows
read, ODT entries, rings or handles, the reserved bits of rings and handles staying 0, and nothing else of the tile; so are those of
the joker that mirrors the tile (R391). A SETUP whose rows have not all been read raises 0x5010 and writes no target. -/
def Obligations.SetupWritesAllItsTargets : Prop :=
  ∀ (s : State) (p : Nat) (c : Setup) (rest : List Setup), p < 208 →
    takeFirst (fun (c : Setup) => decide (c.due < s.stamp (p / 13))) (s.tile p).setups = some (c, rest) →
    let word := fun (i n : Nat) => leNat (readCells c.data (n * i) n)
    let seats := fun (q : Nat) => q = p ∨ s.mirrorOf p = some q
    let lands := fun (t : State) => (∀ q, ¬ seats q → t.tile q = s.tile q) ∧
      t = { s with tiles := t.tiles, tly := { s.tly with flips := t.tly.flips } }
    (c.nrows ≤ c.got → c.what = 0 → ∃ t : State, exec (.setupWrite p) s = .next t ∧ lands t ∧
      (∀ q, seats q → ∀ e, Map.get 0#128 (t.tile q).odt e =
        if c.first ≤ e ∧ e < c.first + 4 * c.nrows ∧ e < 1024 then BitVec.ofNat 128 (word (e - c.first) 16)
        else Map.get 0#128 (s.tile q).odt e) ∧
      t.tile p = { s.tile p with setups := rest, odt := (t.tile p).odt }) ∧
    (c.nrows ≤ c.got → c.what = 1 → ∃ t : State, exec (.setupWrite p) s = .next t ∧ lands t ∧
      (∀ q, seats q → ∀ r, (t.tile q).ring r =
        if c.first ≤ r ∧ r < c.first + 4 * c.nrows ∧ r < 16 then
          let w := fun k => BitVec.ofNat 32 (word (4 * (r - c.first) + k) 4)
          { base := w 0 &&& 0x1ffff, cfg := w 1 &&& 0x80fdffff, head := w 2, tail := w 3, reserve := w 3, pushes := [] }
        else (s.tile q).ring r) ∧
      t.tile p = { s.tile p with setups := rest, rings := (t.tile p).rings }) ∧
    (c.nrows ≤ c.got → c.what = 2 → ∃ t : State, exec (.setupWrite p) s = .next t ∧ lands t ∧
      (∀ q, seats q → ∀ e, Map.get 0#64 (t.tile q).handles e =
        if c.first ≤ e ∧ e < c.first + 8 * c.nrows ∧ e < 32 then BitVec.ofNat 64 (word (e - c.first) 8) &&& 0xf1ffff1ffff
        else Map.get 0#64 (s.tile q).handles e) ∧
      t.tile p = { s.tile p with setups := rest, handles := (t.tile p).handles }) ∧
    (c.got < c.nrows → ∃ t : State, exec (.setupWrite p) s = .next t ∧ SameMemory s t ∧
      Posted s t (srcTable (p / 13)) 2 0x5010 (faultTag (s.ltileOf p) c.bundle false) 0 ∧ (t.tile p).setups = rest ∧
      (t.tile p).odt = (s.tile p).odt ∧ (t.tile p).rings = (s.tile p).rings ∧ (t.tile p).handles = (s.tile p).handles)

/-- BUNDLE_ISSUE, slot C alone (R49, R179, R182, R195 to R201): in its stamped beat and in no other the next bundle issues and the
dealer goes on to the bundle after it; a bundle of NOPs, or of a DLN, changes nothing more. CSET, CLUI, COP, CADDI and CRD write
their counter and no other, from the counters at the start of the beat; CLD requests its row; SKIP passes over the next bundles when
its condition holds; REP opens its body, or passes over it when it runs no iteration; SETUP requests its rows. An entry of the
wrong kind raises 0x300A. -/
def Claims.BundleIssuesAtItsBeat : Prop :=
  ∀ (s : State) (p first count : Nat), p < 208 →
    let now := s.stamp (p / 13)
    let u := (s.tile p).atStart now
    let b := u.bundleAt u.next
    let w := slotC b
    let c := u.counter
    let old := s.tile p
    let raised := fun (t : State) (code : Nat) => Posted s t (srcTable (p / 13)) 2 code (faultTag (s.ltileOf p) u.next false) 0
    u.run = some (first, count) → u.next < first + count → u.reps = [] → u.decoded = [] →
    (now ≠ s.bundleStamp u u.next [] → exec (.bundleIssue p) s = .next s) ∧
    (now = s.bundleStamp u u.next [] → slotOp (slotX b) = 0 → slotOp (slotV b) = 0 → slotOp (slotM b) = 0 →
      let value : Option Nat := match slotOp w with
        | 1 => some (bits w 0 18)
        | 2 => some (bits w 0 16 * 2 ^ 16 + c (bits w 18 4) % 2 ^ 16)
        | 3 => copFn (bits w 0 4) (c (bits w 14 4)) (c (bits w 10 4))
        | 4 => some (ofSigned 32 ((c (bits w 14 4) : Int) + toSigned 14 (bits w 0 14)))
        | 6 => s.crd p u (bits w 12 6) (bits w 0 12)
        | _ => none
      (slotOp w = 0 ∨ slotOp w = 9 → ∃ t : State, exec (.bundleIssue p) s = .next t ∧ OnlyTile p s t ∧
        t.tile p = { old with bundle := u.next, next := u.next + 1 }) ∧
      (slotOp w = 1 ∨ slotOp w = 2 ∨ slotOp w = 3 ∨ slotOp w = 4 ∨ slotOp w = 6 →
        ∃ t : State, exec (.bundleIssue p) s = .next t ∧ OnlyTile p s t ∧ (t.tile p).bundle = u.next ∧
          (t.tile p).next = u.next + 1 ∧ ∀ d, (t.tile p).counter d = match value with
            | some v => if d = bits w 18 4 then v % 2 ^ 32 else old.counter d
            | none => old.counter d) ∧
      (slotOp w = 5 → let e := u.odtEntry (bits w 8 10)
        let row := (rangeE e).rowOf c
        (odtKind e = 1 → row < mappedRows → ∃ t : State, exec (.bundleIssue p) s = .next t ∧ OnlyTile p s t ∧
          (t.tile p).next = u.next + 1 ∧ (t.tile p).ctr = old.ctr ∧ (t.tile p).clds = old.clds ++
            [{ d := bits w 18 4, w := bits w 4 4, due := now + 31, value := none, bundle := u.next, id := old.nextOp }] ∧
          ∃ r ∈ (t.tile p).reqs, r.cls = 4 ∧ r.row = row ∧ r.use = .toCld old.nextOp) ∧
        (odtKind e = 1 → mappedRows ≤ row → ∃ t : State, exec (.bundleIssue p) s = .next t ∧ raised t 0x3001 ∧
          (t.tile p).clds = old.clds ++
            [{ d := bits w 18 4, w := bits w 4 4, due := now + 31, value := some 0, bundle := u.next, id := old.nextOp }]) ∧
        (odtKind e ≠ 1 → ∃ t : State, exec (.bundleIssue p) s = .next t ∧ raised t 0x300a ∧ (t.tile p).clds = old.clds)) ∧
      (slotOp w = 7 → ∃ t : State, exec (.bundleIssue p) s = .next t ∧ OnlyTile p s t ∧
        t.tile p = { old with bundle := u.next, next := if skipCond (bits w 15 3) (c (bits w 18 4)) then u.next + 1 + bits w 0 12
                                                       else u.next + 1 }) ∧
      (slotOp w = 8 → let e := u.odtEntry (slotA w)
        let l := loopE e
        let n := if l.cen then min (c l.cctr) l.count else l.count
        (odtKind e = 5 → ∃ t : State, exec (.bundleIssue p) s = .next t ∧ OnlyTile p s t ∧
          t.tile p = { old with
            bundle := u.next
            next := if l.body ≠ 0 ∧ n = 0 then u.next + 1 + l.body else u.next + 1
            reps := if l.body = 0 ∨ n = 0 then []
              else [{ start := u.next + 1, len := l.body, iters := n, iter := 0, period := l.period,
                      ictr := if l.ien then some l.ictr else none }] }) ∧
        (odtKind e ≠ 5 → ∃ t : State, exec (.bundleIssue p) s = .next t ∧ raised t 0x300a ∧ (t.tile p).reps = [])) ∧
      (slotOp w = 10 → let e := u.odtEntry (bits w 0 10)
        let r := rangeE e
        (odtKind e = 1 → r.nrows ≠ 0 → r.rowOf c + r.nrows ≤ mappedRows → ∃ t : State, exec (.bundleIssue p) s = .next t ∧
          OnlyTile p s t ∧ (t.tile p).next = u.next + 1 ∧ (t.tile p).setups = old.setups ++
            [{ what := bits w 20 2, first := bits w 10 10, nrows := r.nrows, due := now + 31 + r.nrows, data := [], got := 0,
               bundle := u.next, id := old.nextOp }] ∧
          ∀ i < r.nrows, ∃ q ∈ (t.tile p).reqs, q.cls = 4 ∧ q.row = r.rowOf c + i ∧ q.use = .toSetup old.nextOp (64 * i)) ∧
        (odtKind e ≠ 1 → ∃ t : State, exec (.bundleIssue p) s = .next t ∧ raised t 0x300a ∧ (t.tile p).setups = old.setups)))

/-- What slot X reads of each of its operations at its read beat (R182, R202 to R215): FILL, COPY, DMAW, DMAR, PUSH, POP, PUSHR,
CSEND, CRECV, FLAGW and DGST, with the rows that its ODT entries and counters give; an entry of the wrong kind is 0x300A, a pool
without a free tracker 0x3009, overlapping ranges of a COPY 0x3006. -/
def Claims.SlotXReadsItsOperands : Prop :=
  ∀ (s : State) (p idx w now j dl : Nat) (t : Tile) (o : Op),
    let a := t.odtEntry (slotA w)
    let b := t.odtEntry (slotB w)
    let c := t.counter
    let read := s.xRead p idx w now j dl t
    (slotOp w = 0 → read = .ok (none, 0)) ∧
    (1 ≤ slotOp w → slotOp w ≤ 11 → 1024 ≤ (s.tile p).trackers → read = .error 0x3009) ∧
    ((slotOp w = 1 ∨ slotOp w = 2 ∨ slotOp w = 5 ∨ slotOp w = 6 ∨ slotOp w = 11) → odtKind a ≠ 1 → (s.tile p).trackers < 1024 →
      read = .error 0x300a) ∧
    ((slotOp w = 3 ∨ slotOp w = 4) → odtKind a ≠ 2 → (s.tile p).trackers < 1024 → read = .error 0x300a) ∧
    ((slotOp w = 8 ∨ slotOp w = 9) → odtKind a ≠ 3 → (s.tile p).trackers < 1024 → read = .error 0x300a) ∧
    (slotOp w = 2 → odtKind a = 1 → odtKind b = 1 → (rangeE a).nrows = (rangeE b).nrows → (s.tile p).trackers < 1024 →
      (rangeE a).rowOf c < (rangeE b).rowOf c + (rangeE a).nrows → (rangeE b).rowOf c < (rangeE a).rowOf c + (rangeE a).nrows →
      read = .error 0x3006) ∧
    (read = .ok (some o, 0) →
      o.id = (s.tile p).nextOp ∧ o.bundle = idx ∧ o.issue = j ∧ o.deadline = dl ∧ o.tracked = true ∧
      (slotOp w = 1 → o.kind = .fill ∧ o.n = (rangeE a).nrows ∧ o.arg = (rangeE a).rowOf c ∧ o.arg2 = c (bits w 8 4)) ∧
      (slotOp w = 2 → o.kind = .copy ∧ o.n = (rangeE a).nrows ∧ o.arg = (rangeE a).rowOf c ∧ o.arg2 = (rangeE b).rowOf c) ∧
      (slotOp w = 3 → o.kind = .dmaw ∧ o.n = (globalE a).nrows ∧ o.nslots = ceilDiv o.n 2 ∧ o.later.length = o.n ∧
        s.decodeGlobal (64 * (globalE a).rowOf c) = some (o.dst.1, o.dst.2.1, 64 * o.dst.2.2)) ∧
      (slotOp w = 4 → o.kind = .dmar ∧ o.n = (globalE a).nrows ∧ o.arg2 = (rangeE b).rowOf c ∧ o.awaiting = o.n ∧
        s.decodeGlobal (64 * (globalE a).rowOf c) = some (o.dst.1, o.dst.2.1, 64 * o.dst.2.2)) ∧
      (slotOp w = 5 → o.kind = .push ∧ o.n = (if bit w 3 then min (c (bits w 4 4)) (rangeE a).nrows else (rangeE a).nrows) ∧
        o.arg = bits w 8 4 ∧ o.arg2 = (rangeE a).rowOf c ∧ (t.ring o.arg).enabled = true ∧ (t.ring o.arg).prod = 0) ∧
      (slotOp w = 6 → o.kind = .pop ∧ o.n = (if (t.ring (bits w 8 4)).count = 0 then 0
          else if bit w 3 then min (c (bits w 4 4)) (rangeE a).nrows else (rangeE a).nrows) ∧
        o.arg = bits w 8 4 ∧ o.arg2 = (rangeE a).rowOf c ∧ (t.ring o.arg).enabled = true ∧ (t.ring o.arg).cons = 0) ∧
      (slotOp w = 7 → o.kind = .pushr ∧ o.n = (rangeE b).nrows ∧ o.arg = (rrefE a).ring ∧
        o.nslots = ceilDiv (o.n * s.pushrSize p (rrefE a)) 128) ∧
      (slotOp w = 8 → o.kind = .csend ∧ o.n = (rangeE b).nrows ∧ o.arg = (circE a).circuit ∧ o.arg2 = (circE a).port ∧
        o.pp = bit w 1 ∧ (circE a).dir = false) ∧
      (slotOp w = 9 → o.kind = .crecv ∧ o.n = (rangeE b).nrows ∧ o.arg = (circE a).circuit ∧ o.aux = (circE a).port ∧
        o.arg2 = (rangeE b).rowOf c ∧ (circE a).dir = true) ∧
      (slotOp w = 10 → o.kind = .flagw ∧ ∃ f, o.flag = some f ∧ f.dev = o.dst.1 ∧ f.ltile = o.dst.2.1 ∧ f.mode = (flagE a).mode ∧
        f.value = (if (flagE a).ven then c (flagE a).vctr else (flagE a).value) ∧
        s.decodeGlobal (4 * (flagE a).gword) = some (f.dev, f.ltile, f.off)) ∧
      (slotOp w = 11 → o.kind = .dgst ∧ o.n = (rangeE a).nrows ∧ o.arg = bits w 0 12))

/-- BUNDLE_ISSUE, slot X alone (R175, R203, R209 to R215): an operation whose read finds a fault raises its code and takes no
tracker; a ring that is not this user's still owes its RET result (R210); an operation toward a device that no route leads to ends
with 0x4002; any other takes its tracker and begins, and one without rows is complete at once. What begins: FILL requests the writes of
its rows, COPY and PUSH the reads of theirs, DMAR sends its request to a tile of this device, CRECV claims its circuit, CSEND
with PP takes the poisoned-slot count as it stands then (log entry 51), FLAGW requests its word or sends it. An operation that decode has taken begins in the same
way, and a code that decode has found is raised. -/
def Claims.SlotXBeginsAtItsBeat : Prop :=
  ∀ (s : State) (p first count : Nat), p < 208 →
    let now := s.stamp (p / 13)
    let u := (s.tile p).atStart now
    let b := u.bundleAt u.next
    let w := slotX b
    let old := s.tile p
    let read := s.xRead p u.next w now now (s.deadlineOf p b) u
    let raised := fun (t : State) (code : Nat) => Posted s t (srcTable (p / 13)) 2 code (faultTag (s.ltileOf p) u.next false) 0
    u.run = some (first, count) → u.next < first + count → u.reps = [] → now = s.bundleStamp u u.next [] →
    (slotOp (slotC b) = 0 ∨ slotOp (slotC b) = 9) → slotOp (slotV b) = 0 → slotOp (slotM b) = 0 →
    let begun := fun (t : State) (o : Op) => SameMemory s t ∧ (t.tile p).next = u.next + 1 ∧ ∃ o' : Op,
      (t.tile p).op? o.id = some o' ∧ o'.kind = o.kind ∧ o'.n = o.n ∧ o'.dst = o.dst ∧ o'.tracked = o.tracked ∧
      (o.kind ≠ .push → o.kind ≠ .pop → o'.started = true)
    (u.decoded = [] →
      (∀ c, read = .error c → (c ≠ 0x3003 ∨ bit w 2 = false) → c ≠ 0 → ∃ t : State, exec (.bundleIssue p) s = .next t ∧ raised t c ∧
        (t.tile p).ops = old.ops ∧ (t.tile p).results = old.results) ∧
      (read = .error 0x3003 → bit w 2 = true → ∃ t : State, exec (.bundleIssue p) s = .next t ∧ raised t 0x3003 ∧
        (t.tile p).ops = old.ops ∧ (t.tile p).results = old.results ++
          [{ d := bits w 4 4, due := now + 31, value := some 0, bundle := u.next, id := 0 }]) ∧
      (∀ o, read = .ok (some o, 0) → old.op? o.id = none →
        (s.noRoute o = true → ∃ t : State, exec (.bundleIssue p) s = .next t ∧ raised t 0x4002 ∧ (t.tile p).op? o.id = none) ∧
        (s.noRoute o = false → o.empty = true → o.flag = none → ∃ t : State, exec (.bundleIssue p) s = .next t ∧ SameMemory s t ∧
          (t.tile p).op? o.id = none ∧
          (t.tile p).digests = old.digests ++ (if o.kind = .dgst then [digestOf s p o] else [])) ∧
        (s.noRoute o = false → o.empty = false → ∃ t : State, exec (.bundleIssue p) s = .next t ∧ begun t o ∧
          (o.kind = .fill → ∀ i < o.n, o.arg + i < mappedRows → ∃ r ∈ (t.tile p).reqs, r.cls = 4 ∧ r.row = o.arg + i ∧
            r.use = .write 0 ((List.range 16).map fun _ => leBytes 4 o.arg2).flatten o.id) ∧
          (o.kind = .copy → ∀ i < o.n, o.arg2 + i < mappedRows → ∃ r ∈ (t.tile p).reqs, r.cls = 4 ∧ r.row = o.arg2 + i ∧
            r.use = .toOp o.id 0 64 (64 * i)) ∧
          (o.kind = .push → ∀ i < o.reads, o.arg2 + i < mappedRows → ∃ r ∈ (t.tile p).reqs, r.cls = 4 ∧ r.row = o.arg2 + i ∧
            r.use = .toOp o.id 0 64 (64 * i)) ∧
          (o.kind = .push ∨ o.kind = .pop → bit w 2 = true → (t.tile p).results = old.results ++
            [{ d := bits w 4 4, due := now + 31, value := none, bundle := u.next, id := o.id }]) ∧
          (o.kind = .dmar → o.dst.1 = s.selfDev → ∃ e ∈ (t.tile p).outq, e.1 = 3 ∧ e.2.2.2.op = o.id ∧
            e.2.2.2.body = .rdReq o.dst.2.2 o.n) ∧
          (o.kind = .crecv → (t.tile p).crecvs = old.crecvs ++ [(o.aux, o.arg, o.id, 0)]) ∧
          (o.kind = .csend → ∃ o', (t.tile p).op? o.id = some o' ∧ o'.poisoned = (o.pp && decide (0 < u.poison))) ∧
          (o.kind = .flagw → ∀ f, o.flag = some f → f.dev = s.selfDev → f.ltile = s.ltileOf p → f.off / 64 < mappedRows →
            ∃ r ∈ (t.tile p).reqs, r.cls = 4 ∧ r.row = f.off / 64 ∧ r.use = .flag (f.off % 64 / 4) f.value f.mode o.id) ∧
          (o.kind = .flagw → ∀ f, o.flag = some f → (f.dev ≠ s.selfDev ∨ f.ltile ≠ s.ltileOf p) →
            ∃ e ∈ (t.tile p).outq, e.1 = 3 ∧ e.2.2.2.op = o.id ∧ e.2.2.2.body = .flag f)))) ∧
    (∀ id code, u.decoded = [(u.next, now, id, code)] →
      (∀ o, id ≠ 0 → code = 0 → old.op? id = some o → o.id = id → s.noRoute o = false → o.empty = false → o.faulted = false →
        ∃ t : State, exec (.bundleIssue p) s = .next t ∧ begun t o ∧ (t.tile p).decoded = []) ∧
      (id = 0 → code ≠ 0 → ∃ t : State, exec (.bundleIssue p) s = .next t ∧ raised t code ∧ (t.tile p).ops = old.ops ∧
        (t.tile p).decoded = []))

/-- BUNDLE_ISSUE, slot V or slot M alone (R103 to R105, R125, R217, R218, R228 to R235, R237): DISPA (code 2) starts a dispatch of every pip and DISP
(code 1) one under its entry's mask, unless one still runs, which raises 0x5013; LOAD and SLOAD begin to read their tile; PASS and
SPASS join their engine's passes from the next beat on, with SWAP, when their targets lie in the store (else 0x300B) and the passes and the load
before them allow it (else 0x5013); DRAIN, ACCM and SHUF take a tracker and begin. An entry of the wrong kind raises 0x300A. -/
def Claims.EnginesBeginAtTheirBeat : Prop :=
  ∀ (s : State) (p first count : Nat), p < 208 →
    let now := s.stamp (p / 13)
    let u := (s.tile p).atStart now
    let b := u.bundleAt u.next
    let old := s.tile p
    let raised := fun (t : State) (code : Nat) => Posted s t (srcTable (p / 13)) 2 code (faultTag (s.ltileOf p) u.next false) 0
    u.run = some (first, count) → u.next < first + count → u.reps = [] → u.decoded = [] → now = s.bundleStamp u u.next [] →
    slotOp (slotC b) = 0 → slotOp (slotX b) = 0 →
    (slotOp (slotM b) = 0 →
      let w := slotV b
      let e := u.odtEntry (slotA w)
      let d := dispE e
      let begun := fun (entry mask : Nat) => ∃ t : State, exec (.bundleIssue p) s = .next t ∧ OnlyTile p s t ∧ (t.tile p).bundle = u.next ∧
        (t.tile p).pips.pc = entry % 2048 ∧ (t.tile p).pips.stack = [] ∧
        ∃ r, (t.tile p).pips.run = some r ∧ r.mask = mask ∧ r.bundle = u.next ∧ r.issue = now
      let free := (s.pipsAt p).run = none ∧ (s.pipsAt p).ended ≤ now
      (slotOp w = 2 → free → begun (bits w 11 11) (2 ^ 64 - 1)) ∧
      (slotOp w = 1 → odtKind e = 0xe → d.mask ≠ 0 → free → begun d.entry d.mask) ∧
      (slotOp w = 1 → odtKind e = 0xe → d.mask = 0 → free → ∃ t : State, exec (.bundleIssue p) s = .next t ∧ OnlyTile p s t ∧
        (t.tile p).pips = old.pips) ∧
      (slotOp w = 2 ∨ (slotOp w = 1 ∧ odtKind e = 0xe) → ((s.pipsAt p).run ≠ none ∨ now < (s.pipsAt p).ended) →
        ∃ t : State, exec (.bundleIssue p) s = .next t ∧ raised t 0x5013 ∧ (t.tile p).pips = old.pips) ∧
      (slotOp w = 1 → odtKind e ≠ 0xe → ∃ t : State, exec (.bundleIssue p) s = .next t ∧ raised t 0x300a ∧
        (t.tile p).pips = old.pips)) ∧
    (slotOp (slotV b) = 0 →
      let w := slotM b
      let ent := u.odtEntry (slotA w)
      let ao := if bit w 7 then u.counter (bits w 8 4) else 0
      let xo := if bit w 2 then u.counter (bits w 3 4) else 0
      let refused := fun (code : Nat) => ∃ t : State, exec (.bundleIssue p) s = .next t ∧ raised t code ∧
        (t.tile p).quad = old.quad ∧ (t.tile p).side = old.side ∧ (t.tile p).drain = old.drain ∧ (t.tile p).accm = old.accm ∧
        (t.tile p).shuf = old.shuf ∧ (t.tile p).ops = old.ops
      let tracked := fun (t : State) (k : OpKind) => SameMemory s t ∧ (t.tile p).trackers = old.trackers + 1 ∧
        ∃ o ∈ (t.tile p).ops, o.id = old.nextOp ∧ o.kind = k ∧ o.bundle = u.next ∧ o.issue = now
      (∀ side : Bool, slotOp w = (if side then 2 else 1) → (u.engine side).load = none →
        ((u.engine side).swapClear ≤ now → ∃ t : State, exec (.bundleIssue p) s = .next t ∧ OnlyTile p s t ∧
          (t.tile p).engine (!side) = u.engine (!side) ∧
          ∃ l, ((t.tile p).engine side).load = some l ∧ l.src = 64 * slotA w ∧ l.issue = now ∧ l.got = [] ∧
            l.fmt = (Fmt.ofCode (bits w 8 4)).getD .e4m3) ∧
        (now < (u.engine side).swapClear → refused 0x5013)) ∧
      (slotOp w = 3 →
        let x := passE ent
        let e := u.quad.takeLoad false
        let nout := if x.mode = 2 then x.rows - x.width else x.rows
        let cls := rateClass (if x.swap then e.formats.2 else e.formats.1) ((Fmt.ofCode x.afmt).getD .e4m3)
        let step := (if cls = 2 then 2 else 1) * (if x.strict then 2 else 1)
        let kinds := odtKind ent = 7 ∧ odtKind (u.odtEntry x.streamx) = 8 ∧ (x.masksrc ≠ 0 → odtKind (u.odtEntry x.maskx) = 9)
        let far := ∃ q < 4, (streamE (u.odtEntry x.streamx) q).1 = true ∧ 0 < nout ∧
          (if x.strict then 255 else 1023) < nth 0 x.acc q + ao + nout - 1
        let open_ := (x.swap = true → e.swapReady false u.quad now = true) ∧ e.follows false (now + 1) step = true
        (odtKind ent ≠ 7 → refused 0x300a) ∧ (kinds → far → refused 0x300b) ∧ (kinds → ¬ far → ¬ open_ → refused 0x5013) ∧
        (kinds → ¬ far → open_ → x.rows ≠ 0 → ∃ t : State, exec (.bundleIssue p) s = .next t ∧ OnlyTile p s t ∧
          (t.tile p).side = old.side ∧ ∃ y, (t.tile p).quad.passes = e.passes ++ [y] ∧ y.bundle = u.next ∧ y.rows = x.rows ∧
            y.b0 = now + 1 ∧ y.s = step ∧ y.swap = x.swap ∧ y.strict = x.strict ∧ y.first = x.first ∧ y.xo = xo ∧
            y.acc = x.acc.map (· + ao) ∧ y.mode = (if x.mode = 2 then .slide else if x.mode = 1 then .rev else .fwd))) ∧
      (slotOp w = 4 →
        let x := sideE ent
        let e := u.side.takeLoad true
        let wf := if x.mode = 1 then (Fmt.ofCode x.cfmt).getD .e4m3 else if x.swap then e.formats.2 else e.formats.1
        let base := if wf = .bf16 ∨ (Fmt.ofCode x.afmt).getD .e4m3 = .bf16 then 2 else 1
        let step := if x.strict ∧ x.mode ≠ 1 then 2 * base else base
        let kinds := odtKind ent = 0xa ∧ (x.masksrc ≠ 0 → odtKind (u.odtEntry x.maskx) = 9)
        let far := 0 < x.rows ∧ (if x.strict then 255 else 1023) < x.acc + ao + x.rows - 1
        let open_ := (x.swap = true → x.mode ≠ 1 → e.swapReady true u.quad now = true) ∧ e.follows true (now + 1) step = true
        (odtKind ent ≠ 0xa → refused 0x300a) ∧ (kinds → far → refused 0x300b) ∧ (kinds → ¬ far → ¬ open_ → refused 0x5013) ∧
        (kinds → ¬ far → open_ → x.rows ≠ 0 → ∃ t : State, exec (.bundleIssue p) s = .next t ∧ OnlyTile p s t ∧
          (t.tile p).quad = old.quad ∧ ∃ y, (t.tile p).side.passes = e.passes ++ [y] ∧ y.bundle = u.next ∧ y.rows = x.rows ∧
            y.b0 = now + 1 ∧ y.s = step ∧ y.swap = (x.swap && x.mode != 1) ∧ y.strict = x.strict ∧ y.first = x.first ∧ y.xo = xo ∧
            y.acc = [x.acc + ao] ∧ y.mode = (if x.mode = 1 then .streamed else .held))) ∧
      (slotOp w = 5 →
        let x := drainE ent
        (odtKind ent ≠ 0xb → refused 0x300a) ∧ (odtKind ent = 0xb → old.drain ≠ none → refused 0x5013) ∧
        (odtKind ent = 0xb → old.drain = none → x.count ≠ 0 → (if x.sview = 2 then 255 else 1023) < x.srow + x.count - 1 →
          refused 0x300b) ∧
        (odtKind ent = 0xb → old.drain = none → x.count ≠ 0 → x.srow + x.count - 1 ≤ (if x.sview = 2 then 255 else 1023) →
          old.trackers < 1024 → slotCF w = false → ∃ t : State, exec (.bundleIssue p) s = .next t ∧ tracked t .drain ∧
            ∃ d, (t.tile p).drain = some d ∧ d.op = old.nextOp ∧ d.srow = x.srow ∧ d.count = x.count ∧ d.row = 0 ∧ d.clear = x.clear ∧
              d.dst = 64 * (x.drow + if x.ien then u.counter x.ictr else 0))) ∧
      (slotOp w = 6 →
        let x := collE ent
        (odtKind ent ≠ 0xc → refused 0x300a) ∧ (odtKind ent = 0xc → old.accm ≠ none → refused 0x5013) ∧
        (odtKind ent = 0xc → old.accm = none → x.nsrc * x.count ≠ 0 → x.acc + x.count - 1 ≤ (if x.sfmt = 2 then 255 else 1023) →
          old.trackers < 1024 → slotCF w = false → ∃ t : State, exec (.bundleIssue p) s = .next t ∧ tracked t .accm ∧
            ∃ a, (t.tile p).accm = some a ∧ a.op = old.nextOp ∧ a.nsrc = x.nsrc ∧ a.count = x.count ∧ a.acc = x.acc ∧ a.added = 0 ∧
              a.first = x.first ∧ a.bad = (x.pchk && decide (0 < u.poison)) ∧
              a.row0 = x.srow + if x.ien then u.counter x.ictr else 0)) ∧
      (slotOp w = 7 →
        let x := shufE ent
        (odtKind ent ≠ 0xd → refused 0x300a) ∧ (odtKind ent = 0xd → old.shuf ≠ none → refused 0x5013) ∧
        (odtKind ent = 0xd → old.shuf = none → x.sources ≠ [] → (x.op = 0 → x.nr ≠ 0) → old.trackers < 1024 → slotCF w = false →
          ∃ t : State, exec (.bundleIssue p) s = .next t ∧ tracked t .shuf ∧ (t.tile p).shuf = some (old.nextOp, BitVec.ofNat 128 ent) ∧
            ((∀ r ∈ x.sources, r < mappedRows) → ∀ r ∈ x.sources, ∃ q ∈ (t.tile p).reqs, q.cls = 4 ∧ q.row = r))))

/-- BUNDLE_DECODE (R183): from 16 beats before its issue beat the next undecoded bundle is decoded, and its sending operation
takes its tracker, or keeps the code that its read found until its issue beat; earlier nothing happens. -/
def Claims.SendingOperationsAreDecodedEarly : Prop :=
  ∀ (s : State) (p idx stamp : Nat), p < 208 →
    let now := s.stamp (p / 13)
    let u := (s.tile p).atStart now
    s.undecoded u = some (idx, stamp) →
    let old := s.tile p
    let b := u.bundleAt idx
    let w := slotX b
    let read := s.xRead p idx w now stamp (s.deadlineOf p b) u
    let noted := fun (t : State) (id code : Nat) => OnlyTile p s t ∧
      t.tile p = { old with decoded := old.decoded ++ [(idx, stamp, id, code)] }
    (now + 16 < stamp → exec (.bundleDecode p) s = .next s) ∧
    (stamp ≤ now + 16 → s.sending p u w = false → ∃ t : State, exec (.bundleDecode p) s = .next t ∧ noted t 0 0) ∧
    (∀ c, stamp ≤ now + 16 → s.sending p u w = true → read = .error c →
      ∃ t : State, exec (.bundleDecode p) s = .next t ∧ noted t 0 c) ∧
    (∀ o note, stamp ≤ now + 16 → s.sending p u w = true → read = .ok (some o, note) →
      ∃ t : State, exec (.bundleDecode p) s = .next t ∧ OnlyTile p s t ∧
        t.tile p = { old with ops := old.ops ++ [o], nextOp := old.nextOp + 1, decoded := old.decoded ++ [(idx, stamp, o.id, note)] })

/-- `Claims.BundleIssuesAtItsBeat` and `Claims.SlotXReadsItsOperands` and `Claims.SlotXBeginsAtItsBeat` and `Claims.EnginesBeginAtTheirBeat` and `Claims.SendingOperationsAreDecodedEarly` hold. -/
def Obligations.BundlesAreDecodedEarlyAndIssuedAtTheirBeat : Prop := Claims.BundleIssuesAtItsBeat ∧ Claims.SlotXReadsItsOperands ∧ Claims.SlotXBeginsAtItsBeat ∧ Claims.EnginesBeginAtTheirBeat ∧ Claims.SendingOperationsAreDecodedEarly

/-- TICK_END_CUTOFF (R51) and DEADLINE_EXPIRE (R208): before the last beat nothing is cut off; in it the position's dispatch
stops and no SETUP that would write later is left, behind that beat's work. A tracked transfer past its deadline with rows still open leaves its
tracker and raises 0x5010; the bytes written so far stay. One whose rows are all granted, and which owes nothing, stays. -/
def Obligations.LateWorkIsCutOff : Prop :=
  ∀ (s : State) (p op : Nat), p < 208 →
    (s.tableBeat (p / 13) < s.lastBeat (p / 13) → exec (.tickEndCutoff p) s = .next s) ∧
    (s.lastBeat (p / 13) ≤ s.tableBeat (p / 13) → ∃ t : State, exec (.tickEndCutoff p) s = .next t ∧
      (t.tile p).pips.run = none ∧ ∀ c ∈ (t.tile p).setups, c.due ≤ (s.endBeat p).stamp (p / 13)) ∧
    (∀ o, (s.tile p).op? op = some o → o.tracked = true → o.deadline < s.now →
      o.kind ≠ .drain → o.kind ≠ .accm → o.kind ≠ .shuf → o.kind ≠ .serve →
      (o.later ≠ [] ∨ o.held ≠ [] ∨ o.cut = true ∨ o.awaiting ≠ 0 ∨ o.slots < o.nslots ∨ o.started = false ∨
        ∃ r ∈ (s.tile p).reqs, (∃ lo n off, r.use = .toOp op lo n off) ∨ ∃ lo data, r.use = .write lo data op) →
      ∃ t : State, exec (.deadlineExpire p op) s = .next t ∧ SameMemory s t ∧ (t.tile p).op? op = none ∧
        Posted s t (srcTable (p / 13)) 2 0x5010 (faultTag (s.ltileOf p) o.bundle false) 0) ∧
    (∀ o, (s.tile p).op? op = some o → o.later = [] → o.held = [] → o.cut = false → o.awaiting = 0 → o.nslots ≤ o.slots →
      o.started = true → (s.tile p).reqs = [] → exec (.deadlineExpire p op) s = .next s)

/-- COMPLETION_FLAG_WRITE (R207): a complete operation whose completion flag is a word of its own tile leaves, and the write of
that word is requested, bit 31 set when the operation was poisoned; so for the flag of another tile's operation, once all its rows
have been acknowledged. -/
def Obligations.CompletionFlagIsWritten : Prop :=
  ∀ (s : State) (p op : Nat) (f : FlagReq), p < 208 → f.dev = s.selfDev → f.ltile = s.ltileOf p → f.off / 64 < mappedRows →
    let own := (s.tile p).ops.find?
      (fun o => o.id = op && !o.tracked && !o.cut && o.kind != .serve && decide (o.issue < s.stamp (p / 13)))
    (∀ o, own = some o → o.flag = some f →
      ∃ t : State, exec (.completionFlagWrite p op) s = .next t ∧ OnlyTile p s t ∧ (t.tile p).op? op = none ∧
        ∃ r ∈ (t.tile p).reqs, r.row = f.off / 64 ∧
          r.use = .flag (f.off % 64 / 4) (if o.poisoned then f.value ||| 0x80000000 else f.value) f.mode 0) ∧
    (∀ x rest, own = none → takeFirst (fun (x : RxOp) => x.op == op && x.acked && x.status == 0 && decide (x.src < svcSrc))
        (s.tile p).rx = some (x, rest) → x.flag = some f →
      ∃ t : State, exec (.completionFlagWrite p op) s = .next t ∧ OnlyTile p s t ∧ (t.tile p).rx = rest ∧
        ∃ r ∈ (t.tile p).reqs, r.row = f.off / 64 ∧ r.use = .flag (f.off % 64 / 4) f.value f.mode 0)

/-! ### Tile memory's other users (R159 to R170) -/

/-- SLOT_LANDING (R160, R162): the slot that reached the position's crossbar path first lands, one in a beat; one that finds 32
slots waiting is lost with 0x3007; the rows of a remote write that no handle denies, and a flag word, are requested as class L, and a remote
read waits as an operation that serves it. A row that a handle denies the SVC of another device is not requested (R173). -/
def Claims.LandingQueueHoldsThirtyTwoSlots : Prop :=
  ∀ (s : State) (p : Nat) (x : XSlot), p < 208 → s.arrived p = some x →
    let lands := fun (t : State) => exec (.slotLanding p) s = .next t ∧ t.xbar = s.xbar.erase x ∧ SameMemory s t ∧
      (t.tile p).landAt = s.age + 1
    (s.age < (s.tile p).landAt → exec (.slotLanding p) s = .next s) ∧
    ((s.tile p).landAt ≤ s.age → 32 ≤ (s.tile p).landingCount → ∃ t : State, lands t ∧
      Posted s t (srcTable (p / 13)) 2 0x3007 (faultTag (s.ltileOf p) 0 true) 0 ∧ (t.tile p).reqs = (s.tile p).reqs) ∧
    ((s.tile p).landAt ≤ s.age → (s.tile p).landingCount < 32 →
      (∀ row n data, x.body = .rows row n data → ∃ t : State, lands t ∧ ∀ i < n, row + i < mappedRows →
        s.slotDenied p x true (row + i) = false → ∃ r ∈ (t.tile p).reqs, r.cls = 3 ∧ r.row = row + i ∧ r.use = .writeRx 0 (slice data (64 * i) 64) x.src x.op) ∧
      (∀ f, x.body = .flag f → x.op = 0 → f.off / 64 < mappedRows → ∃ t : State, lands t ∧
        ∃ r ∈ (t.tile p).reqs, r.cls = 3 ∧ r.row = f.off / 64 ∧ r.use = .flag (f.off % 64 / 4) f.value f.mode 0) ∧
      (∀ row n, x.body = .rdReq row n → ∃ t : State, lands t ∧
        ∃ o ∈ (t.tile p).ops, o.kind = .serve ∧ o.n = n ∧ o.dst = (0, x.src, row) ∧ o.aux = x.op ∧
          (x.ofSvc = false → o.reads = n ∧ o.arg2 = if mappedRows < row + n then 0x3001 else 0)))

/-- RING_PUBLISH (R168, R211): TAIL advances over the oldest reserved push once its rows are in their banks; a push whose rows
are not all there waits for its deadline, and is then published, with 0x300C for rows that were never granted. -/
def Claims.RingTailPublishesTheOldestPush : Prop :=
  ∀ (s : State) (p r first n left due : Nat) (bad : Bool) (rest : List (Nat × Nat × Nat × Bool × Nat)), p < 208 → r < 16 →
    ((s.tile p).ring r).pushes = (first, n, left, bad, due) :: rest →
    let moved := fun (t : State) => SameMemory s t ∧
      (t.tile p).ring r = { (s.tile p).ring r with tail := BitVec.ofNat 32 (first + n), pushes := rest }
    (left ≠ 0 → s.now ≤ due → exec (.ringPublish p r) s = .next s) ∧
    (left = 0 → bad = false → ∃ t : State, exec (.ringPublish p r) s = .next t ∧ moved t ∧ OnlyTile p s t) ∧
    (left = 0 → bad = true → ∃ t : State, exec (.ringPublish p r) s = .next t ∧ moved t ∧
      Posted s t (srcTable (p / 13)) 2 0x300c (faultTag (s.ltileOf p) 0 true) (first % 2 ^ 32 + n * 2 ^ 32)) ∧
    (left ≠ 0 → due < s.now → bad = false → left ≤ (s.tile p).piecesOnWay r first →
      ∃ t : State, exec (.ringPublish p r) s = .next t ∧ moved t ∧ OnlyTile p s t) ∧
    (left ≠ 0 → due < s.now → (bad = true ∨ (s.tile p).piecesOnWay r first < left) →
      ∃ t : State, exec (.ringPublish p r) s = .next t ∧ moved t ∧
      Posted s t (srcTable (p / 13)) 2 0x300c (faultTag (s.ltileOf p) 0 true) (first % 2 ^ 32 + n * 2 ^ 32))

/-- `Claims.LandingQueueHoldsThirtyTwoSlots` and `Claims.RingTailPublishesTheOldestPush` hold. -/
def Obligations.LandingAndRingTails : Prop := Claims.LandingQueueHoldsThirtyTwoSlots ∧ Claims.RingTailPublishesTheOldestPush

/-! ### The pips (R121 to R148) -/

/-- What a pip instruction with a result leaves (R130, R133): the result of each active pip is on its way, ready `n` beats
after the issue beat; PC and the loop stack go on as `at_end_of_body` has it (R146); nothing else changes. -/
def PipResult (s t : State) (p n : Nat) (key : Nat → PipFields → Nat) (val : Pips → Nat → PipFields → Word) : Prop :=
  let x := s.pipsAt p
  let y := (t.tile p).pips
  OnlyTile p s t ∧ t.tile p = { s.tile p with pips := y } ∧
  y = { x with
    pend := x.pend ++ x.active.map fun i =>
      { key := key i (x.instr i), due := s.stamp (p / 13) + n, value := val x i (x.instr i) }
    pc := (countDown x.pc x.stack).1
    stack := (countDown x.pc x.stack).2
    run := x.run.map fun d => { d with last := s.stamp (p / 13) } }

/-- A pip register as a word. -/
def pipWord (x : Pips) (i r : Nat) : Word := BitVec.ofNat 32 (x.reg i r)

/-- FMA, FALU, BFMA, BALU, CVT, SFU and RND (R130): when the instruction issues, each active pip's result is in register d
after 4, 4, 4, 4, 2, 8 and 2 beats. -/
def Obligations.PipNumericResults : Prop :=
  ∀ (s : State) (p : Nat), p < 208 →
    let toD := fun (i : Nat) (f : PipFields) => pipKey i f.d
    (s.pipIssues p 0x02 = true → ∃ t : State, exec (.fma p) s = .next t ∧ PipResult s t p 4 toD fun x i f =>
      BitVec.ofNat 32 (fma .fp32 (x.reg i f.a) (x.reg i f.b) (x.reg i f.c))) ∧
    (s.pipIssues p 0x03 = true → ∃ t : State, exec (.falu p) s = .next t ∧ PipResult s t p 4 toD fun x i f =>
      BitVec.ofNat 32 (falu .fp32 f.fn (x.reg i f.a) (x.reg i f.b))) ∧
    (s.pipIssues p 0x04 = true → ∃ t : State, exec (.bfma p) s = .next t ∧ PipResult s t p 4 toD fun x i f =>
      BitVec.ofNat 32 (lanes2 (fma .bf16) (x.reg i f.a) (x.reg i f.b) (x.reg i f.c))) ∧
    (s.pipIssues p 0x05 = true → ∃ t : State, exec (.balu p) s = .next t ∧ PipResult s t p 4 toD fun x i f =>
      BitVec.ofNat 32 (lanes2 (fun a b _ => falu .bf16 f.fn a b) (x.reg i f.a) (x.reg i f.b) 0)) ∧
    (s.pipIssues p 0x0d = true → ∃ t : State, exec (.cvt p) s = .next t ∧ PipResult s t p 2 toD fun x i f =>
      BitVec.ofNat 32 (cvtValue f.fn (x.reg i f.a) (x.reg i f.b))) ∧
    (s.pipIssues p 0x0e = true → ∃ t : State, exec (.sfu p) s = .next t ∧ PipResult s t p 8 toD fun x i f =>
      BitVec.ofNat 32 (sfuValue f.fn (x.reg i f.a))) ∧
    (s.pipIssues p 0x10 = true → ∃ t : State, exec (.rnd p) s = .next t ∧ PipResult s t p 2 toD fun x i f =>
      BitVec.ofNat 32 (rndValue f.fn (x.reg i f.a) (x.reg i f.b)))

/-- IALU, SEL, ADDI, LUI, ORI and MOVS (R130, R131, R132): arithmetic wraps modulo 2^32, shifts use b[4:0], immediates are
sign-extended for ADDI and zero-extended for ORI; each result is ready one beat after its issue. -/
def Claims.PipIntegerResults : Prop :=
  ∀ (s : State) (p : Nat), p < 208 →
    let toD := fun (i : Nat) (f : PipFields) => pipKey i f.d
    (s.pipIssues p 0x07 = true → ∃ t : State, exec (.ialu p) s = .next t ∧ PipResult s t p 1 toD fun x i f =>
      let a := pipWord x i f.a
      let b := pipWord x i f.b
      let n := b.toNat % 32
      match f.fn with
      | 0 => a + b
      | 1 => a - b
      | 2 => a * b
      | 3 => a &&& b
      | 4 => a ||| b
      | 5 => a ^^^ b
      | 6 => a <<< n
      | 7 => a >>> n
      | 8 => a.sshiftRight n
      | 9 => if a.slt b then a else b
      | 10 => if a.slt b then b else a
      | 11 => if a.ult b then a else b
      | _ => if a.ult b then b else a) ∧
    (s.pipIssues p 0x09 = true → ∃ t : State, exec (.sel p) s = .next t ∧ PipResult s t p 1 toD fun x i f =>
      if x.cond i then pipWord x i f.a else pipWord x i f.b) ∧
    (s.pipIssues p 0x0a = true → ∃ t : State, exec (.addi p) s = .next t ∧ PipResult s t p 1 toD fun x i f =>
      pipWord x i f.a + (BitVec.ofNat 16 f.imm).signExtend 32) ∧
    (s.pipIssues p 0x0b = true → ∃ t : State, exec (.lui p) s = .next t ∧ PipResult s t p 1 toD fun _ _ f =>
      (BitVec.ofNat 16 f.imm).zeroExtend 32 <<< 16) ∧
    (s.pipIssues p 0x0c = true → ∃ t : State, exec (.ori p) s = .next t ∧ PipResult s t p 1 toD fun x i f =>
      pipWord x i f.a ||| (BitVec.ofNat 16 f.imm).zeroExtend 32) ∧
    (s.pipIssues p 0x0f = true → ∃ t : State, exec (.movs p) s = .next t ∧ PipResult s t p 1 toD fun _ i f =>
      BitVec.ofNat 32 (nth 0 [i, s.ltileOf p % 12, p / 13, s.ltileOf p, s.lnk.dev, s.tableBeat (p / 13), s.tick % 2 ^ 32,
        s.tick / 2 ^ 32 % 2 ^ 16, (s.table (p / 13)).phase] f.imm))

/-- FCMP and ICMP (R130, R131) write P, one beat after the issue, and no register: FCMP EQ, LT and LE are false on a NaN and
UN is true exactly then; ICMP compares signed below code 4 and unsigned from there on. -/
def Claims.PipCompareResults : Prop :=
  ∀ (s : State) (p : Nat), p < 208 →
    let toP := fun (i : Nat) (_ : PipFields) => pipPKey i
    let word := fun c : Bool => if c then (1 : Word) else 0
    (s.pipIssues p 0x06 = true → ∃ t : State, exec (.fcmp p) s = .next t ∧ PipResult s t p 1 toP fun x i f =>
      let a := ofFp32 (x.reg i f.a)
      let b := ofFp32 (x.reg i f.b)
      word (match f.fn with
        | 0 => a.cmp b == some .eq
        | 1 => a.cmp b == some .lt
        | 2 => a.cmp b == some .lt || a.cmp b == some .eq
        | _ => a == .nan || b == .nan)) ∧
    (s.pipIssues p 0x08 = true → ∃ t : State, exec (.icmp p) s = .next t ∧ PipResult s t p 1 toP fun x i f =>
      let a := pipWord x i f.a
      let b := pipWord x i f.b
      word (match f.fn with
        | 0 => a == b
        | 1 => a != b
        | 2 => a.slt b
        | 3 => a.sle b
        | 4 => a.ult b
        | _ => a.ule b))

/-- `Claims.PipIntegerResults` and `Claims.PipCompareResults` hold. -/
def Obligations.PipIntegerAndCompareResults : Prop := Claims.PipIntegerResults ∧ Claims.PipCompareResults

/-- RED, XCH, MXQ and PCINV (R140, R142 to R144). RED gives every active pip one value, ready in 8 beats: the sum modulo 2^32
for IADD, the number of active pips with P = 1 for PCNT, the fixed tree's root for the others; ARGMAX gives its winner's index
too, behind the value (which of the two stands when d = c is the model's choice, log entry 46). XCH reads register a of pip
(i + imm) mod 64, active or not. PCINV empties the caches of the active pips and no others, and no fill in flight leaves a line (R141). -/
def Obligations.PipCrossResults : Prop :=
  ∀ (s : State) (p : Nat), p < 208 →
    let x := s.pipsAt p
    let now := s.stamp (p / 13)
    let fn := (x.instr x.lead).fn
    let toD := fun (i : Nat) (f : PipFields) => pipKey i f.d
    (s.pipIssues p 0x18 = true → ∃ t v w, exec (.red p) s = .next t ∧ OnlyTile p s t ∧
      (t.tile p).pips = { x with
        pend := x.pend ++ x.active.flatMap fun i =>
          { key := pipKey i (x.instr i).d, due := now + 8, value := v } ::
            (if fn = 8 then [{ key := pipKey i (x.instr i).c, due := now + 8, value := w }] else [])
        pc := (countDown x.pc x.stack).1
        stack := (countDown x.pc x.stack).2
        run := x.run.map fun d => { d with last := now } } ∧
      (fn = 3 → v = (x.active.map fun i => pipWord x i (x.instr i).a).sum) ∧
      (fn ≤ 7 → v = BitVec.ofNat 32 (redTree (redNode fn) 0 ((List.range 64).map fun i =>
        if i ∈ x.active then x.reg i (x.instr i).a else redIdentity fn))) ∧
      (fn = 8 → ∀ u j, redTree argmaxNode none ((List.range 64).map fun i =>
          if i ∈ x.active then some (x.reg i (x.instr i).a, i) else none) = some (u, j) →
        w = BitVec.ofNat 32 j ∧ v = BitVec.ofNat 32 (if ofFp32 u = .nan then 0x7fc00000 else u)) ∧
      (fn = 9 → v = BitVec.ofNat 32 (x.active.filter x.cond).length)) ∧
    (s.pipIssues p 0x19 = true → ∃ t : State, exec (.xch p) s = .next t ∧ PipResult s t p 2 toD fun x i f =>
      pipWord x ((i + toSigned 16 f.imm : Int) % 64).toNat f.a) ∧
    (s.pipIssues p 0x1a = true → ∃ t : State, exec (.mxq p) s = .next t ∧ PipResult s t p 10 toD fun x i _ =>
      BitVec.ofNat 32 (x.mxq i)) ∧
    (s.pipIssues p 0x17 = true → ∃ t : State, exec (.pcinv p) s = .next t ∧ OnlyTile p s t ∧
      (∀ i idx, idx < 32 → (t.tile p).pips.line i idx = if i ∈ x.active then {} else x.line i idx) ∧
      (∀ a ∈ (t.tile p).pips.acc, ∀ l, a.use ≠ .fill l) ∧
      (t.tile p).pips.regs = x.regs ∧ (t.tile p).pips.p = x.p ∧ (t.tile p).pips.pend = x.pend)

/-- NOP, HALT, BR, BRK, LOOP and LOOPR (R125, R145, R146): NOP goes on to the next address or loop iteration; HALT ends the
dispatch in its issue beat; BR goes to its target when its condition holds; BRK leaves the innermost loop, and with no loop to leave goes on at an address that is not stated (a free value, log entry 32); LOOP and LOOPR open a
loop, or skip its body when the count is 0 (without counting down a loop that ends at the LOOP itself: the model's choice, log entry 46), LOOPR's count being the register of the lead pip, at most its bound. None of them
changes a register, P, a result on its way or an access. -/
def Obligations.PipControl : Prop :=
  ∀ (s : State) (p : Nat), p < 208 →
    let x := s.pipsAt p
    let now := s.stamp (p / 13)
    let w := (x.instr x.lead).word
    let taken := pipCond (bits w 11 2) (x.active.map x.cond)
    let stop := bits w 15 11
    let goes := fun (t : State) (dest : Nat × List LoopFrame) =>
      OnlyTile p s t ∧ t.tile p = { s.tile p with pips := { x with
        pc := dest.1
        stack := dest.2
        run := x.run.map fun d => { d with last := now } } }
    let opens := fun (t : State) (count : Nat) =>
      (count = 0 → goes t (countDown stop x.stack)) ∧
      (count ≠ 0 → goes t ((x.pc + 1) % 2048, { start := (x.pc + 1) % 2048, stop, left := count } :: x.stack))
    (s.pipIssues p 0x00 = true → ∃ t : State, exec (.pipNop p) s = .next t ∧ goes t (countDown x.pc x.stack)) ∧
    (s.pipIssues p 0x01 = true → ∃ t : State, exec (.halt p) s = .next t ∧ OnlyTile p s t ∧
      (t.tile p).pips = { x with run := none, ended := now + 1 }) ∧
    (s.pipIssues p 0x1b = true → ∃ t : State, exec (.br p) s = .next t ∧
      goes t (if taken then (bits w 0 11, x.stack) else countDown x.pc x.stack)) ∧
    (s.pipIssues p 0x1c = true → ∀ top rest, x.stack = top :: rest → ∃ t : State, exec (.brk p) s = .next t ∧
      goes t (if taken then countDown top.stop rest else countDown x.pc x.stack)) ∧
    (s.pipIssues p 0x1c = true → x.stack = [] →
      (taken = false → ∃ t : State, exec (.brk p) s = .next t ∧ goes t (countDown x.pc [])) ∧
      (taken = true → ∃ (t : State) (pc : Nat), exec (.brk p) s = .next t ∧ OnlyTile p { s with freeIdx := t.freeIdx } t ∧
        t.tile p = { s.tile p with pips := { x with pc, run := x.run.map fun d => { d with last := now } } })) ∧
    (s.pipIssues p 0x1d = true → ∃ t : State, exec (.loop p) s = .next t ∧ opens t (bits w 0 15)) ∧
    (s.pipIssues p 0x1e = true → ∃ t : State, exec (.loopr p) s = .next t ∧
      opens t (min (x.reg x.lead (bits w 10 5)) (bits w 0 10)))

/-- LD, LDS and LDP (R134 to R136, R139): the instruction puts its access on the pip path, with the distinct mapped rows of its
pips, each at its level; an address that maps to nothing raises one record. An LDP that hits has its word in 2 beats and only the missing
pips' rows take the path; one whose pips all hit takes no path. No register and no memory changes yet. -/
def Claims.PipLoadsTakeTheirRows : Prop :=
  ∀ (s : State) (p : Nat), p < 208 →
    let x := s.pipsAt p
    let now := s.stamp (p / 13)
    let loads := fun (t : State) (pips : List Nat) (use : List (Nat × Nat × Nat × Nat) → PipUse) =>
      SameMemory s t ∧ (t.tile p).pips.regs = x.regs ∧ (t.tile p).pips.p = x.p ∧ (t.tile p).pips.cache = x.cache ∧
      ((∀ i ∈ x.active, pipMapped (x.address i) = true) → OnlyTile p s t) ∧
      (pips ≠ [] → ∃ a, (t.tile p).pips.acc = x.acc ++ [a] ∧ a.issue = now ∧ a.stores = [] ∧
        a.use = use (pips.map fun i => (i, (x.instr i).d, pipRow (x.address i), bits (x.address i) 2 4)) ∧
        ∀ v row, v < 3 → (row ∈ nth [] a.wait v ↔
          row < mappedRows ∧ rowLevel row = v ∧ ∃ i ∈ pips, pipRow (x.address i) = row))
    let fault := fun (t : State) => ∀ d, x.run = some d → (∃ i ∈ x.active, pipMapped (x.address i) = false) →
      Posted s t (srcTable (p / 13)) 2 0x3001 (faultTag (s.ltileOf p) d.bundle false) 0
    (s.pipIssues p 0x11 = true → ∃ t : State, exec (.ld p) s = .next t ∧ loads t x.active .load ∧ fault t) ∧
    (s.pipIssues p 0x12 = true → ∃ t : State, exec (.lds p) s = .next t ∧ loads t x.active .load ∧ fault t) ∧
    (s.pipIssues p 0x13 = true → ∃ t : State, exec (.ldp p) s = .next t ∧ fault t ∧
      loads t (x.active.filter fun i => !x.hits i) .fill ∧
      (t.tile p).pips.pend = x.pend ++ (x.active.filter x.hits).map (fun i =>
        { key := pipKey i (x.instr i).d, due := now + 2
          value := nth 0#32 (x.line i (bits (x.address i) 6 5)).data (bits (x.address i) 2 4) }) ∧
      ((∀ i ∈ x.active, x.hits i = true) → (t.tile p).pips.acc = x.acc))

/-- ST, STS and STP (R130, R134, R138): the mapped pips' words go on the pip path as one write per row; where two pips address
one word the higher-numbered one's is written; STP stores for the pips with P = 1 alone. No byte of memory changes yet. -/
def Claims.PipStoresTakeTheirRows : Prop :=
  ∀ (s : State) (p : Nat), p < 208 →
    let x := s.pipsAt p
    let stores := fun (t : State) (pips : List Nat) =>
      SameMemory s t ∧ (t.tile p).pips.regs = x.regs ∧ (t.tile p).pips.p = x.p ∧
      ((∀ i ∈ pips, pipMapped (x.address i) = true) → OnlyTile p s t) ∧
      (∀ d, x.run = some d → (∃ i ∈ pips, pipMapped (x.address i) = false) →
        Posted s t (srcTable (p / 13)) 2 0x3001 (faultTag (s.ltileOf p) d.bundle false) 0) ∧
      ∃ a, (t.tile p).pips.acc = x.acc ++ [a] ∧ a.use = .store ∧ a.issue = s.stamp (p / 13) ∧
        ∀ i ∈ pips, pipMapped (x.address i) = true →
          (∀ j ∈ pips, pipMapped (x.address j) = true → i < j → bits (x.address i) 2 21 ≠ bits (x.address j) 2 21) →
          leNat (readCells (Map.get [] a.stores (pipRow (x.address i))) (4 * bits (x.address i) 2 4) 4) =
            x.reg i (x.instr i).d
    (s.pipIssues p 0x14 = true → ∃ t : State, exec (.st p) s = .next t ∧ stores t x.active) ∧
    (s.pipIssues p 0x15 = true → ∃ t : State, exec (.sts p) s = .next t ∧ stores t x.active) ∧
    (s.pipIssues p 0x16 = true → ∃ t : State, exec (.stp p) s = .next t ∧ stores t (x.active.filter x.cond))

/-- `Claims.PipLoadsTakeTheirRows` and `Claims.PipStoresTakeTheirRows` hold. -/
def Obligations.PipAccessesTakeTheirRows : Prop := Claims.PipLoadsTakeTheirRows ∧ Claims.PipStoresTakeTheirRows

/-- PIP_MEMORY_COMPLETE (R136): the oldest access whose rows are all served leaves the path; a load writes each pip's word to its
register, an address that mapped to nothing giving 0; a fill writes each pip's cache line too (R139); a store changes no register. -/
def Obligations.PipAccessCompletes : Prop :=
  ∀ (s : State) (p : Nat) (a : PipAcc) (rest : List PipAcc), p < 208 →
    takeFirst (fun a => a.served (s.stamp (p / 13))) (s.pipsAt p).acc = some (a, rest) →
    ∃ t : State, exec (.pipMemoryComplete p) s = .next t ∧ OnlyTile p s t ∧ (t.tile p).pips.acc = rest ∧
      (t.tile p).pips.memDone = max (s.pipsAt p).memDone (s.stamp (p / 13)) ∧ (t.tile p).pips.p = (s.pipsAt p).p ∧
      (a.use = .store → (t.tile p).pips.regs = (s.pipsAt p).regs) ∧
      (∀ l, a.use = .load l → l.Pairwise (fun q r => q.1 ≠ r.1) → ∀ q ∈ l, 0 < q.2.1 → q.2.1 < 32 →
        (t.tile p).pips.reg q.1 q.2.1 =
          if q.2.2.1 < mappedRows then rowWord (Map.get [] a.got q.2.2.1) q.2.2.2 % 2 ^ 32 else 0) ∧
      (∀ l, a.use = .fill l → l.Pairwise (fun q r => q.1 ≠ r.1) → ∀ q ∈ l, q.2.2.1 < mappedRows →
        let c := (t.tile p).pips.line q.1 (q.2.2.1 % 32)
        c.valid = true ∧ c.tag = q.2.2.1 / 32 ∧
          ∀ w < 16, (nth 0#32 c.data w).toNat = rowWord (Map.get [] a.got q.2.2.1) w % 2 ^ 32)

/-! ### The matrix unit and the tally (R95 to R119, R380 to R389) -/

/-- LOAD_COMPLETE (R102): when all bytes of a LOAD or SLOAD have been read, the shadow plane takes their format, elements and,
for MX formats, column scales together; before, it keeps its tile. The active plane and memory do not change. -/
def Obligations.ShadowPlaneTakesAWholeTile : Prop :=
  ∀ (s : State) (p : Nat) (side : Bool) (l : LoadOp), p < 208 → ((s.tile p).engine side).load = some l →
    (l.got.length < l.total → ∃ t : State, exec (.loadComplete p side) s = .next t ∧ OnlyTile p s t ∧
      ∀ d, (t.tile p).engine d = (s.tile p).engine d) ∧
    (l.total ≤ l.got.length → ∃ t : State, exec (.loadComplete p side) s = .next t ∧ OnlyTile p s t ∧
      (t.tile p).engine (!side) = (s.tile p).engine (!side) ∧
      let e := (t.tile p).engine side
      e = { (s.tile p).engine side with load := none, shadow := e.shadow } ∧ e.shadow.fmt = l.fmt ∧
      (∀ k n, k < (if side then 16 else 32) → n < 64 → Map.get 0 e.shadow.elems (k * 64 + n) =
        bits (leNat (l.got.take ((if side then 16 else 32) * 64 * l.fmt.width / 8))) ((k * 64 + n) * l.fmt.width) l.fmt.width) ∧
      (∀ n, n < 64 → e.shadow.scale n =
        if l.fmt.isMx then (l.got.getD ((if side then 16 else 32) * 64 * l.fmt.width / 8 + n) 127).toNat else 127))

/-- FOOT_WRITE (R98, R234, R238): once its beat has passed, and every contribution to its entry of an operation that issued
earlier has been made, the next output of a row of a pass is written to its accumulator entry, one block sum after the other (that a
contribution waits for the earlier ones is DEDUCED, log entry 50): the term itself first in a first pass, whose half-slot becomes valid; otherwise the sum of R85, R86
or R88 with the entry. A faulty array's term stands for the first. No other entry changes but a mirroring joker's copy (R391). -/
def Obligations.FootWritesItsTerms : Prop :=
  ∀ (s : State) (p pass q r : Nat) (upset : Option Nat) (x : Pass), p < 208 →
    ((s.tile p).engine (pass % 2 = 1)).passes.find? (·.id = pass) = some x →
    let n := Map.get 0 x.done (q * 128 + r)
    let row := x.target q r
    let e := x.entry n
    let width := if x.strict then 16 else 4
    let terms := match upset with
      | some u => u :: (x.colTerms q r n).drop 1
      | none => x.colTerms q r n
    let add := fun old c : Nat =>
      (if x.strict then laccAdd old c
       else if x.isInt then ofSigned 32 (sat32 (toSigned 32 old + toSigned 32 c))
       else addFp32 old c) % 2 ^ (8 * width)
    q < x.streams.length → x.writes q r = true → n < x.outputs →
    x.writeBeat (pass % 2 = 1) r n < s.stamp (p / 13) →
    ((s.tile p).footTurn x q r = false → exec (.footWrite p pass q r upset) s = .next s) ∧
    ((s.tile p).footTurn x q r = true →
    ∃ t : State, exec (.footWrite p pass q r upset) s = .next t ∧ SameMemory s t ∧
      (∀ c cs, terms = c :: cs →
        t.accEntry p x.strict row e =
          cs.foldl add (if x.first then c % 2 ^ (8 * width) else add (s.accEntry p x.strict row e) c) ∧
        (x.first = true → t.halfValid p (halfOf x.strict row e) = true)) ∧
      (x.first = false → t.accBad = s.accBad) ∧
      (∀ k, (k < accKey p (accAddr x.strict row e) ∨ accKey p (accAddr x.strict row e) + width ≤ k) →
        (∀ j, s.mirrorOf p = some j → k < accKey j (accAddr x.strict row e) ∨ accKey j (accAddr x.strict row e) + width ≤ k) →
        Map.get 0#8 t.acc k = Map.get 0#8 s.acc k) ∧
      t = { s with acc := t.acc, accBad := t.accBad, tiles := t.tiles, tables := t.tables })

/-- TALLY_MISMATCH (R385, R388): the oldest failed check whose beat has come marks its accumulator rows invalid and raises
0x8001. It takes the capture when none is open; while one is open it is not captured, and 0x8005 is raised once for it. -/
def Claims.MismatchInvalidatesItsRows : Prop :=
  ∀ (s : State) (p : Nat) (m : Mismatch) (rest : List Mismatch), p < 208 →
    takeFirst (fun (m : Mismatch) => decide (m.due ≤ s.stamp (p / 13))) (s.tile p).mismatches = some (m, rest) →
    let src := srcTable (p / 13)
    let tag := faultTag (s.ltileOf p) m.capture.pass.bundle false
    ∃ t : State, exec (.tallyMismatch p) s = .next t ∧ SameMemory s t ∧ t.acc = s.acc ∧ (t.tile p).mismatches = rest ∧
      (∀ h, t.halfValid p h = if h ∈ m.halves then false else s.halfValid p h) ∧
      ((s.tile p).capture = none → Posted s t src 2 0x8001 tag (mismatchDetail m true) ∧
        (t.tile p).capture = some { m.capture with since := s.age }) ∧
      (∀ c, (s.tile p).capture = some c → c.busy = true → Posted s t src 2 0x8001 tag (mismatchDetail m false) ∧
        (t.tile p).capture = some c) ∧
      (∀ c, (s.tile p).capture = some c → c.busy = false →
        Posted (s.raise src 2 0x8001 tag (mismatchDetail m false)) t src 2 0x8005 tag 0 ∧
        (t.tile p).capture = some { c with busy := true })

/-- TALLY_VERDICT (R387): 288 beats per recomputed element after the capture, the verdict is given: tally suspect when the
reference agrees with the array, array suspect when the corrected row passes its check, tile suspect otherwise; its code is
raised with A and R, its counter goes up, and a tile suspect is ordered for abrupt substitution. -/
def Claims.VerdictFollowsTheReference : Prop :=
  ∀ (s : State) (p : Nat) (c : Capture), p < 208 → (s.tile p).capture = some c → c.verdict = none →
    (s.age < c.since + 1 + 288 * c.elements → exec (.tallyVerdict p) s = .next s) ∧
    (c.since + 1 + 288 * c.elements ≤ s.age → ∃ t : State, exec (.tallyVerdict p) s = .next t ∧ SameMemory s t ∧
      let ar := match c.disputed with
        | some n => c.compare n
        | none => (0, 0)
      let v := match c.disputed with
        | some n => if (c.compare n).1 = (c.compare n).2 then 1 else if c.mended n (c.compare n).2 then 2 else 3
        | none => 1
      (t.tile p).capture = some { c with verdict := some v, loc := c.disputed } ∧
      Posted s t (srcTable (p / 13)) 2 (0x8001 + v) (faultTag (s.ltileOf p) c.pass.bundle false)
        (ar.1 % 2 ^ 32 + ar.2 % 2 ^ 32 * 2 ^ 32) ∧
      (t.table (p / 13)).tallyV = (if v = 1 then min 255 ((s.table (p / 13)).tallyV + 1) else (s.table (p / 13)).tallyV) ∧
      (t.table (p / 13)).arrayV = (if v = 2 then min 255 ((s.table (p / 13)).arrayV + 1) else (s.table (p / 13)).arrayV) ∧
      (t.table (p / 13)).tileV = (if v = 3 then min 255 ((s.table (p / 13)).tileV + 1) else (s.table (p / 13)).tileV) ∧
      (v = 3 → t.tly.abrupt = s.tly.abrupt ++ [p]) ∧
      (v ≠ 3 → t.tly.abrupt = s.tly.abrupt ∧ Map.get 0 t.tly.events p = min 255 (Map.get 0 s.tly.events p + 1)))

/-- `Claims.MismatchInvalidatesItsRows` and `Claims.VerdictFollowsTheReference` hold. -/
def Obligations.MismatchesAreJudged : Prop := Claims.MismatchInvalidatesItsRows ∧ Claims.VerdictFollowsTheReference

/-- CAPTURE_COPY (R388, R389, R405): a capture with its verdict closes and goes to the pattern store. An identical stored pattern of
the position is written anew with one hit more; another takes a free record, or with 256 stored the oldest one's. Each write goes to
the bank that is invalid or holds the lower SEQ, with the next SEQ, and leaves every other record as it is. When the flash does not verify the
write, that bank is left invalid and 0x9009 is raised (log entry 49). A capture without its verdict stays. -/
def Claims.CaptureIsStoredOnce : Prop :=
  ∀ (s : State) (p : Nat) (c : Capture), p < 208 → (s.tile p).capture = some c →
    let f := s.mgc.flash
    let found := f.stored.find? (fun (e : Nat × List Byte) => samePattern p c.key e.2)
    let place := match found with
      | some (i, pay) => (i, leBytes 4 (leAt pay 0 4 + 1) ++ pay.drop 4)
      | none => (Flash.freePattern f.stored,
          patternPayload 0 (f.stored.foldl (fun (a : Nat) (e : Nat × List Byte) => max a (leAt e.2 4 4)) 0 + 1) p (c.loc.getD 64) (c.verdict.getD 0) c.key c.results)
    let i := place.1
    let old := f.record (.pattern i)
    let written := fun (t : State) (new : FlashRec) => SameMemory s t ∧ (t.tile p).capture = none ∧
      t.mgc.flash.record (.pattern i) = new ∧ (∀ j, j ≠ i → t.mgc.flash.record (.pattern j) = f.record (.pattern j)) ∧
      t.mgc.flash = { f with patterns := t.mgc.flash.patterns } ∧ t.mgc.flashWrites = s.mgc.flashWrites + 1
    (c.verdict = none → exec (.captureCopy p) s = .next s) ∧
    (c.verdict ≠ none → s.mgc.flashWrites ∉ s.mgc.flashBad → ∃ t : State, exec (.captureCopy p) s = .next t ∧
      written t (writeBank 8192 old (f.seq (.pattern i)) place.2) ∧ t.hif = s.hif) ∧
    (c.verdict ≠ none → s.mgc.flashWrites ∈ s.mgc.flashBad → ∃ t : State, exec (.captureCopy p) s = .next t ∧
      written t (spoilBank 8192 old) ∧ Posted s t srcMgc 2 0x9009 0 0) ∧
    (found = none → f.stored.length < 256 → (f.stored.map (·.1)).Nodup → (∀ e ∈ f.stored, e.1 < 256) → i < 256 ∧ ∀ e ∈ f.stored, e.1 ≠ i)

/-- DIGEST_POST (R382): a finished DGST whose post beat has come, and before which no other of the device comes in order of post beats
and of logical tiles within a beat, enters the digest buffer at TAIL mod 4,096 as its 32 bytes; a tile without one waits; when 4,096 records are there it is discarded, LOST counts it, and 0x8010 is raised once for a run of lost records. -/
def Claims.DigestsFillTheirBuffer : Prop :=
  ∀ (s : State) (p : Nat), p < 208 →
    (takeFirst (s.postsNext p) (s.tile p).digests = none → exec (.digestPost p) s = .next s) ∧
    ∀ (d : List Nat) (rest : List (List Nat)), takeFirst (s.postsNext p) (s.tile p).digests = some (d, rest) →
    (∀ q t x, (q, t) ∈ s.tiles → x ∈ t.digests → nth 0 x 7 ≤ s.stamp (q / 13) → keyLt (s.postKey q x) (s.postKey p d) = false) ∧
    let choice := (s.table (p / 13)).choice
    let occ := Map.get (0, choice) (s.tile p).occ (nth 0 d 2)
    ∃ t : State, exec (.digestPost p) s = .next t ∧ SameMemory s t ∧ (t.tile p).digests = rest ∧
      ((s.tly.tail - s.tly.head).toNat < 4096 →
        t.tly.tail = s.tly.tail + 1 ∧ t.tly.lost = s.tly.lost ∧ t.hif = s.hif ∧
        readCells t.tly.buf (32 * (s.tly.tail.toNat % 4096)) 32 =
          digestBytes d (decide (occ.2 < choice)) (occ.1 % 2 ^ 32) ∧
        ∀ k, (k < 32 * (s.tly.tail.toNat % 4096) ∨ 32 * (s.tly.tail.toNat % 4096) + 32 ≤ k) →
          Map.get 0#8 t.tly.buf k = Map.get 0#8 s.tly.buf k) ∧
      (4096 ≤ (s.tly.tail - s.tly.head).toNat →
        t.tly.tail = s.tly.tail ∧ t.tly.lost = min (2 ^ 32 - 1) (s.tly.lost + 1) ∧ t.tly.buf = s.tly.buf ∧
        (s.tly.lostTold = false → Posted s t srcMgc 2 0x8010 0 0) ∧ (s.tly.lostTold = true → t.hif = s.hif))

/-- `Claims.CaptureIsStoredOnce` and `Claims.DigestsFillTheirBuffer` hold. -/
def Obligations.CapturesAndDigestsAreKept : Prop := Claims.CaptureIsStoredOnce ∧ Claims.DigestsFillTheirBuffer

/-! ### Substitution, probes and the scrub (R390 to R396) -/

/-- SUBSTITUTION_SWITCH and RECOVERY_COMPLETE (R309, R391 to R393): the MGC asks for the rows of the seat one by one, as class H reads,
and lets one pass that the mirror has written whole. At a boundary after its whole copy the joker takes the seat's state to what the copy
and the mirror have given it of memory and stores; the seat is retired and its memory reads 0, and the notice is posted.
After a recovery, items that the MGC could not read are 0 at the joker, each with 0x8006, but for those bytes of a row that the writes
of the recovery have left there; that such a row's other bytes alone are zeroed, and which items there are, is log entry 22.
SUBSTITUTION_COPY_TIMEOUT hands a copy that has run 65,536 ticks to the abrupt path. -/
def Obligations.JokerTakesTheSeat : Prop :=
  ∀ (s : State) (tbl : Nat) (x : Subst), tbl < 16 → (s.table tbl).subst = some x → x.seat < 12 → x.mirror = true →
    let p := tbl * 13 + x.seat
    let q := tbl * 13 + 12
    let stands := fun (t : State) =>
      (t.table tbl).jokerState = 1 ∧ (t.table tbl).jokerFor = x.seat ∧ (t.table tbl).subst = none ∧
      (t.table tbl).recovering = false ∧ bit (t.table tbl).retired x.seat = true ∧
      Posted s t (srcTable tbl) 3 0x0010 0 (substDetail tbl x.seat s.tick) ∧ t.now = s.now ∧
      (∀ o, o < 2 ^ 23 → t.readByte p o = 0) ∧ t.tile p = { ({} : Tile) with capture := (s.tile p).capture }
    let taken := fun (t : State) => t.tile q = { s.tile p with
      store := (s.tile q).store, odt := (s.tile q).odt
      pips := { (s.tile p).pips with cache := [], istore := (s.tile q).pips.istore }, capture := none }
    let sameAcc := fun (t : State) => ∀ k, k < 2 ^ 18 → Map.get 0#8 t.acc (accKey q k) = Map.get 0#8 s.acc (accKey q k)
    (x.asked = false → x.copied < mappedRows → x.mirrored x.copied = false →
      ∃ r ∈ ((s.copyRow tbl).tile (tbl * 13 + x.pos)).reqs, r.cls = 5 ∧ r.row = x.copied ∧ r.use = .toCopy tbl) ∧
    (x.abrupt = false → s.beat = 0 → x.since < s.tick → copyItems ≤ x.copied →
      ∃ t : State, exec (.substitutionSwitch tbl) s = .next t ∧ stands t ∧ taken t ∧ sameAcc t ∧
        ∀ o, o < 2 ^ 23 → t.readByte q o = s.readByte q o) ∧
    (x.abrupt = true → s.beat = 0 → x.since < s.tick → copyItems ≤ x.copied → (s.table tbl).recovering = true →
      s.flipped p = [] → ∀ unread,
      ∃ t : State, exec (.recoveryComplete tbl unread) s = .next t ∧ stands t ∧ (unread = [] → taken t) ∧
        ((∀ i, SeatItem.accHalf i ∉ unread) → sameAcc t) ∧
        (∀ o, o < 64 * mappedRows → t.readByte q o =
          if SeatItem.row (o / 64) ∈ unread ∧ x.has (o / 64) (o % 64) = false then 0 else s.readByte q o) ∧
        (∀ c < 16, (t.tile q).counter c = if SeatItem.counter c ∈ unread then 0 else (s.tile p).counter c) ∧
        (∀ r < mappedRows, unread = [.row r] → Posted (s.substitute tbl x.seat) t srcMgc 2 0x8006 0 (r + 2 ^ 32))) ∧
    (x.abrupt = false → x.since + 65536 ≤ s.tick → ∃ t : State, exec (.substitutionCopyTimeout tbl) s = .next t ∧
      SameMemory s t ∧ (t.table tbl).subst = none ∧ t.tly.abrupt = s.tly.abrupt ++ [tbl * 13 + x.pos])

/-- PROBE_GO, PROBE_COMPLETE and PROBE_PERIODIC (R394, R405): GO on a position that may be probed starts its probe; on another
STATUS reads 0x8016 and FAILIDX 0xFFFF. A probe that ends well reads STATUS 0 and FAILIDX 0xFFFF; an idle joker that fails
reads 0x8011 and its pattern, and retires; a scan block whose CRC fails raises 0x9004 and fails no probe, and a captured pattern that the
flash does not hold fails none. What the patterns answer comes with the command (log entry 28). Every 24 hours all idle jokers are queued. -/
def Claims.ProbesReportAndRetire : Prop :=
  ∀ s : State,
    (∀ v : Word, bit v.toNat 16 = true → bits v.toNat 0 8 < 208 → s.tly.probeQueue = [] →
      (s.mayProbe (bits v.toNat 0 8) = true → exec (.probeGo v) s = .next { s with
        tly := { s.tly with probePos := bits v.toNat 0 8, probeQueue := [bits v.toNat 0 8] } }) ∧
      (s.mayProbe (bits v.toNat 0 8) = false → exec (.probeGo v) s = .next { s with
        tly := { s.tly with probePos := bits v.toNat 0 8, probeStatus := 0x8016, probeFail := 0xFFFF } })) ∧
    (∀ p rest, s.tly.probeQueue = p :: rest → (∀ b, s.mgc.flash.scanBad b = false) →
      (∃ t : State, exec (.probeComplete ⟨none, []⟩) s = .next t ∧ SameMemory s t ∧
        t.tly = { s.tly with probeQueue := rest, probeStatus := 0, probeFail := 0xFFFF } ∧
        (p % 13 ≠ 12 → t.tables = s.tables)) ∧
      (∀ b, ∃ t : State, exec (.probeComplete ⟨some (b + 0x100), [b]⟩) s = .next t ∧ SameMemory s t ∧ t.tly.probeStatus = 0 ∧
        t.tly.probeFail = 0xFFFF ∧ t.tly.probeQueue = rest ∧ Posted s t srcMgc 2 0x9004 0 0) ∧
      (∀ i < 0x100, s.mgc.flash.read (.pattern i) = none → ∃ t : State, exec (.probeComplete ⟨some i, []⟩) s = .next t ∧
        t.tly = { s.tly with probeQueue := rest, probeStatus := 0, probeFail := 0xFFFF }) ∧
      (∀ i, (i < 0x100 → s.mgc.flash.read (.pattern i) ≠ none) →
        ∃ t : State, exec (.probeComplete ⟨some i, []⟩) s = .next t ∧ SameMemory s t ∧
        t.tly.probeStatus = 0x8011 ∧ t.tly.probeFail = i % 65536 ∧
        (s.posKind p = .idleJoker → t.tly.probeQueue = rest ∧ bit (t.table (p / 13)).retired 12 = true ∧
          (t.table (p / 13)).jokerState = 2 ∧ Posted s t srcMgc 2 0x8011 0 (p + i % 65536 * 2 ^ 16)))) ∧
    exec .probePeriodic s = .next { s with tly := { s.tly with probeQueue := s.tly.probeQueue ++ s.idleJokers } }

/-- TRIM_DECAY and SCRUB (R390, R395, R396): a tile clear of events for 2^24 ticks while a deck runs loses one trim step, and one
with an event since keeps its trim. A scrub pass counts itself, and each latch of a register that it rewrites (a bit without latches
has none); that the changed bits come with the command, that an array keeps them, and how the words of a port's tables are numbered is
the model's choice (log entry 47). A changed bit
of a tile's program, ODT or pip store fails its word's parity, raises 0x8008 and orders abrupt substitution, and one of a port's
tables raises 0x8008 and puts the port in FAULT. The cases without a change are those where all was as written before. -/
def Claims.TrimsDecayAndScrubsCount : Prop :=
  ∀ (s : State) (p : Nat), p < 208 →
    (s.deckRuns = true → 0 < Map.get 0 s.tly.trim p → Map.get 0 s.tly.lastEvent p + 2 ^ 24 ≤ s.tick →
      ∃ t : State, exec (.trimDecay p) s = .next t ∧ SameMemory s t ∧
        (∀ q, Map.get 0 t.tly.trim q = if q = p then Map.get 0 s.tly.trim p - 1 else Map.get 0 s.tly.trim q) ∧
        Map.get 0 t.tly.lastEvent p = s.tick) ∧
    (s.tick < Map.get 0 s.tly.lastEvent p + 2 ^ 24 → exec (.trimDecay p) s = .next s) ∧
    (s.tly.upsets = [] → s.tly.flips = [] →
      let pass := fun fixed : Nat => { s.tly with
        fixed := min 0xFFFF (s.tly.fixed + fixed), passes := (s.tly.passes + 1) % 65536 }
      exec (.scrub [] []) s = .next { s with tly := pass 0 } ∧
      (∀ u : LatchUpset, bit (unlatched (u.off / 4 * 4)) u.bit = false → exec (.scrub [u] []) s = .next { s with tly := pass 1 }) ∧
      (∀ u : LatchUpset, bit (unlatched (u.off / 4 * 4)) u.bit = true → exec (.scrub [u] []) s = .next { s with tly := pass 0 }) ∧
      (∀ arr w b, arr < 3 → b < 32 → ∃ t : State, exec (.scrub [] [.tile p arr [(w, b)]]) s = .next t ∧ SameMemory s t ∧
        t.tly = { pass 0 with flips := [(arr, p, w, b)], abrupt := s.tly.abrupt ++ [p] } ∧
        Posted s t (srcTable (p / 13)) 2 0x8008 (faultTag (s.ltileOf p) 0 false) (scrubDetail p arr w)) ∧
      (∀ n w b, n < 64 → b < 32 → ∃ t : State, exec (.scrub [] [.port n [(w, b)]]) s = .next t ∧ SameMemory s t ∧
        t.tly = { pass 0 with flips := [(3, n, w, b)] } ∧ (t.port n).state = .fault ∧ (t.port n).last = 0x8008 ∧
        Posted s t (srcPort n) 2 0x8008 0 (scrubDetail n 3 w)))

/-- `Claims.ProbesReportAndRetire` and `Claims.TrimsDecayAndScrubsCount` hold. -/
def Obligations.ProbesTrimsAndScrubs : Prop := Claims.ProbesReportAndRetire ∧ Claims.TrimsDecayAndScrubsCount

/-! ### The scratchpad's host side and the circuits (R45, R163, R169, R250 to R252) -/

/-- RING_TAIL_WRITE and RING_HEAD_WRITE (R169): by the ring's own producer, a TAIL that keeps the count from shrinking and within
SIZE is taken; by its own consumer, a HEAD that advances by at most the count; any other value is ignored with 0x3004; another
user's write changes no ring and raises nothing, and so does one to a disabled ring (the model's choice, log entry 51). Before the HIF
is released (R412, log entry 13) a requester's write has no effect. No memory changes. A requester's write waits
while an earlier BAR2 write of its own has rows to come (R251, R254). -/
def Obligations.RingCounterWrites : Prop :=
  ∀ (s : State) (mgc : Bool) (rq : Requester) (p r : Nat) (v : Word), p < 208 → r < 16 → fnOk rq.fn = true →
    let g := (s.tile p).ring r
    let new := (v - g.head).toNat
    let user := if mgc then 3 else 2
    let quiet := fun (t : State) => SameMemory s t ∧ t.hif.queues = s.hif.queues ∧ ∀ q, q ≠ p → t.tile q = s.tile q
    let only := fun (t : State) (h : Ring) => quiet t ∧ t.tile p = (s.tile p).setRing r h
    let fault := fun (t : State) => SameMemory s t ∧ t.tiles = s.tiles ∧
      Posted s t (srcTable (p / 13)) 2 0x3004 (faultTag (s.ltileOf p) 0 true) 0
    (mgc = false → s.hif.released = false →
      exec (.ringTailWrite mgc rq p r v) s = .next s ∧ exec (.ringHeadWrite mgc rq p r v) s = .next s) ∧
    ((mgc = false → s.hif.released = true ∧ s.hif.accs = [] ∧ s.reachesWindow rq.fn p = true) →
      (g.enabled = true → g.prod = user → g.count ≤ new → new ≤ g.size →
        ∃ t : State, exec (.ringTailWrite mgc rq p r v) s = .next t ∧ only t { g with tail := v, reserve := v }) ∧
      (g.enabled = true → g.prod = user → new < g.count ∨ g.size < new →
        ∃ t : State, exec (.ringTailWrite mgc rq p r v) s = .next t ∧ fault t) ∧
      (g.enabled = false ∨ g.prod ≠ user →
        ∃ t : State, exec (.ringTailWrite mgc rq p r v) s = .next t ∧ quiet t ∧ t.tile p = s.tile p) ∧
      (g.enabled = true → g.cons = user → new ≤ g.count →
        ∃ t : State, exec (.ringHeadWrite mgc rq p r v) s = .next t ∧ only t { g with head := v }) ∧
      (g.enabled = true → g.cons = user → g.count < new →
        ∃ t : State, exec (.ringHeadWrite mgc rq p r v) s = .next t ∧ fault t) ∧
      (g.enabled = false ∨ g.cons ≠ user →
        ∃ t : State, exec (.ringHeadWrite mgc rq p r v) s = .next t ∧ quiet t ∧ t.tile p = s.tile p)) ∧
    (∀ a x off data, mgc = false → s.hif.released = true → s.hif.accs = [a] → a.id < s.hif.fetched → a.what = .write x off data → a.rq.id = rq.id →
      a.started = true → a.left ≠ 0 →
      let waits := fun (t : State) => ∃ b, t = { s with hif := { s.hif with accs := [a, b], fetched := s.hif.fetched + 1 } }
      (∃ t : State, exec (.ringTailWrite mgc rq p r v) s = .next t ∧ waits t) ∧
      (∃ t : State, exec (.ringHeadWrite mgc rq p r v) s = .next t ∧ waits t))

/-- BAR2_WRITE and BAR2_READ (R151, R160, R172, R173, R250, R252): with no earlier access unfinished, every mapped row that the
handles allow is requested as class H at the position that serves the address, with the bytes to write at their place; one that
they deny raises 0x3002. Where no live position serves, a write has no effect and a read returns zeros; an access that decodes to
no memory reads zeros too. Before the HIF is released (R412) an access has no effect and no answer (log entry 13). -/
def Claims.Bar2RowsGoAsClassH : Prop :=
  ∀ (s : State) (rq : Requester) (addr p off : Nat) (data : List Byte) (n : Nat), fnOk rq.fn = true → s.hif.accs = [] →
    (s.hif.released = false → exec (.bar2Write rq addr data) s = .next s ∧ exec (.bar2Read rq addr n) s = .next s) ∧
    (s.hif.released = true → bar2Decode rq.fn addr = none → exec (.bar2Write rq addr data) s = .next s ∧
      ∃ t : State, exec (.bar2Read rq addr n) s = .next t ∧ SameMemory s t ∧ t.tiles = s.tiles ∧
        t.out = s.out ++ [.readData rq.fn addr (rep n 0#8)]) ∧
    (s.hif.released = true → bar2Decode rq.fn addr = some (0, p, off) → s.sramOff = false →
    (∀ q, s.serves p = some q →
      let covers := fun (len row : Nat) => off / 64 ≤ row ∧ 64 * row < off + len ∧ row < mappedRows
      let denied := fun (t : State) (len : Nat) (write : Bool) =>
        (∀ row, 64 * row < off + len → row < mappedRows) →
        (∃ row, covers len row ∧ s.mayAccess q 1 write row = false) →
        Posted s t (srcTable (q / 13)) 2 0x3002 (faultTag (s.ltileOf q) 0 true) 0
      (∃ t : State, exec (.bar2Write rq addr data) s = .next t ∧ SameMemory s t ∧ t.out = s.out ∧ denied t data.length true ∧
        ∀ row, covers data.length row → s.mayAccess q 1 true row = true →
          let lo := max off (64 * row) - 64 * row
          ∃ r ∈ (t.tile q).reqs, r.cls = 5 ∧ r.row = row ∧ r.use = .fromWin s.hif.fetched lo
            ((data.drop (64 * row + lo - off)).take (min (off + data.length) (64 * row + 64) - 64 * row - lo))) ∧
      (∃ t : State, exec (.bar2Read rq addr n) s = .next t ∧ SameMemory s t ∧ denied t n false ∧
        ∀ row, covers n row → s.mayAccess q 1 false row = true →
          ∃ r ∈ (t.tile q).reqs, r.cls = 5 ∧ r.row = row ∧ r.use = .toWin s.hif.fetched (64 * (row - off / 64)))) ∧
    (s.serves p = none →
      (∃ t : State, exec (.bar2Write rq addr data) s = .next t ∧ SameMemory s t ∧ t.tiles = s.tiles ∧ t.out = s.out ∧
        t.hif.accs = []) ∧
      (∃ t : State, exec (.bar2Read rq addr n) s = .next t ∧ SameMemory s t ∧ t.tiles = s.tiles ∧
        t.out = s.out ++ [.readData rq.fn addr (rep n 0#8)])))

/-- HOST_WAIT_LIMIT (R163): the class H rows of a request that has waited 65,536 beats leave, its reads with zeros and its writes
unwritten, and 0x3008 is raised; other rows wait on, and without such a request nothing happens. Waits are told by the beats since
power-on, which no write of the count moves (log entry 51). -/
def Claims.WaitLimitEndsHostRows : Prop :=
  ∀ (s : State) (p : Nat), p < 208 → s.hif.accs = [] →
    ((∀ r ∈ (s.tile p).reqs, r.cls = 5 → s.age < r.since + 65536) → exec (.hostWaitLimit p) s = .next s) ∧
    (∀ r, (s.tile p).reqs.find? (fun r => r.cls == 5 && decide (r.since + 65536 ≤ s.age)) = some r →
      ∃ t : State, exec (.hostWaitLimit p) s = .next t ∧ SameMemory s t ∧ Posted s t srcMgc 2 0x3008 0 0 ∧
        (t.tile p).reqs = (s.tile p).reqs.filter fun x =>
          !(x.cls == 5 && x.seq == r.seq && x.use.isCopy == r.use.isCopy))

/-- `Claims.Bar2RowsGoAsClassH` and `Claims.WaitLimitEndsHostRows` hold. -/
def Obligations.Bar2RowsGoAsClassHAndEnd : Prop := Claims.Bar2RowsGoAsClassH ∧ Claims.WaitLimitEndsHostRows

/-- CIRCUIT_SLOT_RELEASE (R45, R51, R162, R213, R266): the slot that a port's receive table schedules at this beat goes to its tile. With no
CRECV to claim it, an absent slot raises 0x5011, a void one vanishes, and any other raises 0x4003. A claiming CRECV requests
the rows of a good slot as class L writes and counts a void one; an absent slot raises 0x5011, a poisoned one 0x4001 and one that
finds 32 slots waiting 0x3007, and each of these counts in the tile's poison count. The words of the entry pass their parity. -/
def Obligations.CircuitSlotsAreClaimed : Prop :=
  ∀ (s : State) (n : Nat) (e : Nat × DWord), n < 64 → (s.port n).relAt ≤ s.age → (∀ w, s.parityBad 3 n w = false) →
    (s.port n).recvTbl.find? (fun e => ((circuitE e.2.toNat).slotAt s.beat).isSome && s.liveAt (circuitE e.2.toNat) s.tick) =
      some e →
    let c := circuitE e.2.toNat
    let p := s.physOf c.ltile
    let slot := (s.port n).hold.find? fun x => x.release = s.now && x.entry = e.1
    let src := srcTable (p / 13)
    let goes := fun (t : State) => exec (.circuitSlotRelease n) s = .next t ∧ SameMemory s t ∧ (t.port n).relAt = s.age + 1 ∧
      ∀ h ∈ (t.port n).hold, s.now < h.release
    ((s.tile p).crecvs.find? (fun x => x.1 = n && x.2.1 = e.1) = none →
      (slot = none → ∃ t : State, goes t ∧ Posted s t src 2 0x5011 (faultTag (s.ltileOf p) 0 false) 0) ∧
      (∀ h, slot = some h → h.void = true → ∃ t : State, goes t ∧ OnlyPort n s t) ∧
      (∀ h, slot = some h → h.void = false → ∃ t : State, goes t ∧
        Posted s t src 2 0x4003 (faultTag (s.ltileOf p) 0 true) 0)) ∧
    (∀ op i o, (s.tile p).crecvs.find? (fun x => x.1 = n && x.2.1 = e.1) = some (n, e.1, op, i) →
      (s.tile p).op? op = some o → i < o.nslots →
      let spoils := fun (t : State) => goes t ∧ (t.tile p).poison = (s.tile p).poison + 1 ∧ (t.tile p).reqs = (s.tile p).reqs
      (slot = none → ∃ t : State, spoils t ∧ Posted s t src 2 0x5011 (faultTag (s.ltileOf p) o.bundle false) 0) ∧
      (∀ h, slot = some h → h.poison = true → ∃ t : State, spoils t ∧
        Posted s t src 2 0x4001 (faultTag (s.ltileOf p) o.bundle false) 0) ∧
      (∀ h, slot = some h → h.poison = false → h.void = true → ∃ t : State, goes t ∧ t.hif = s.hif ∧
        (t.tile p).reqs = (s.tile p).reqs ∧ (t.tile p).op? op = some { o with slots := o.slots + 1 }) ∧
      (∀ h, slot = some h → h.poison = false → h.void = false → 32 ≤ (s.tile p).landingCount → ∃ t : State, spoils t ∧
        Posted s t src 2 0x3007 (faultTag (s.ltileOf p) 0 true) 0) ∧
      (∀ h, slot = some h → h.poison = false → h.void = false → (s.tile p).landingCount < 32 → ∃ t : State, goes t ∧
        ∀ k, k < min 2 (o.n - 2 * i) → o.arg2 + 2 * i + k < mappedRows →
          ∃ r ∈ (t.tile p).reqs, r.cls = 3 ∧ r.row = o.arg2 + 2 * i + k ∧
            r.use = .write 0 ((h.data.drop (64 * k)).take 64) op))

/-! ### The optical ports (R260 to R286) -/

/-- PORT_ENABLE, PORT_DISABLE, PORT_RETRAIN, TRAIN_SETTLED and TRAIN_TIMEOUT (R268, R283): enabling takes an OFF port to TRAIN
with its laser input in order, else to DARK; disabling takes it to OFF at once; an enabled port retrains from any state; a settled port whose
peer is not training enters LOCK; TRAIN or LOCK after 200 ms enters FAULT with 0x400C, told by the beats since power-on (log entry 51). -/
def Claims.PortsComeUpInOrder : Prop :=
  ∀ (s : State) (n : Nat), n < 64 →
    ((s.port n).state = .off → ∃ t : State, exec (.portEnable n) s = .next t ∧ OnlyPort n s t ∧ (t.port n).enable = true ∧
      (t.port n).state = (if s.lit n then .train else .dark) ∧ (t.port n).last = 0) ∧
    ((s.port n).state ≠ .off → ∃ t : State, exec (.portEnable n) s = .next t ∧ OnlyPort n s t ∧
      t.port n = { s.port n with enable := true }) ∧
    (∃ t : State, exec (.portDisable n) s = .next t ∧ OnlyPort n s t ∧ (t.port n).enable = false ∧ (t.port n).state = .off ∧
      (t.port n).replay = [] ∧ (t.port n).vc0.txq = [] ∧ (t.port n).vc1.txq = [] ∧ (t.port n).vc2.txq = []) ∧
    ((s.port n).enable = true → ∃ t : State, exec (.portRetrain n) s = .next t ∧ OnlyPort n s t ∧ (t.port n).state = .train) ∧
    ((s.port n).enable = false → ∃ t : State, exec (.portRetrain n) s = .next t ∧ OnlyPort n s t ∧ t.port n = s.port n) ∧
    ((s.port n).state = .train → (s.port n).peerTraining = false →
      ∃ t : State, exec (.trainSettled n) s = .next t ∧ OnlyPort n s t ∧ (t.port n).state = .lock ∧ (t.port n).good = 0) ∧
    ((s.port n).state ≠ .train ∨ (s.port n).peerTraining = true → exec (.trainSettled n) s = .next s) ∧
    ((s.port n).state = .train ∨ (s.port n).state = .lock → (s.port n).since + s.trainLimit ≤ s.age →
      ∃ t : State, exec (.trainTimeout n) s = .next t ∧ SameMemory s t ∧
        (t.port n).state = .fault ∧ (t.port n).last = 0x400c ∧ Posted s t (srcPort n) 2 0x400c 0 0) ∧
    (((s.port n).state ≠ .train ∧ (s.port n).state ≠ .lock) ∨ s.age < (s.port n).since + s.trainLimit →
      exec (.trainTimeout n) s = .next s)

/-- LASER_LIGHT_GAIN and LIGHT_LOSS (R269, R285): at +8.0 dBm an input is in order and its DARK ports go to TRAIN; below it its
training ports are DARK, and a running one goes to DARK under AUTO, else to FAULT, with 0x4007. A running port that loses its light goes
to TRAIN under AUTO, else to FAULT, with 0x4007 and its replay buffer discarded. Which of TRAIN and DARK a port takes by its light and
by AUTO is log entry 34. -/
def Claims.LightBringsPortsUpAndDown : Prop :=
  ∀ (s : State) (i : Nat) (power : BitVec 12), i < 16 →
    (800 ≤ power.toInt → ∃ t : State, exec (.laserLightGain i power) s = .next t ∧ SameMemory s t ∧
      (Map.get {} t.lnk.lasers i).power = power ∧ (Map.get {} t.lnk.lasers i).ok = true ∧
      ∀ n < 64, (t.port n).state = if laserOf n = i ∧ (s.port n).state = .dark then .train else (s.port n).state) ∧
    (power.toInt < 800 → ∃ t : State, exec (.laserLightGain i power) s = .next t ∧ SameMemory s t ∧
      (Map.get {} t.lnk.lasers i).power = power ∧ (Map.get {} t.lnk.lasers i).ok = false ∧
      ∀ n < 64,
        (laserOf n ≠ i ∨ (s.port n).state = .off ∨ (s.port n).state = .dark ∨ (s.port n).state = .fault → t.port n = s.port n) ∧
        (laserOf n = i → (s.port n).state = .train ∨ (s.port n).state = .lock ∨ (s.port n).state = .ident →
          (t.port n).state = .dark) ∧
        (laserOf n = i → (s.port n).state = .up →
          (t.port n).state = (if (s.port n).auto then .dark else .fault) ∧ (t.port n).last = 0x4007 ∧
          Posted s t (srcPort n) 2 0x4007 0 0)) ∧
    (∀ n < 64, (s.port n).state ≠ .up → ∃ t : State, exec (.lightLoss n) s = .next t ∧ OnlyPort n s t ∧
      t.port n = { s.port n with light := false }) ∧
    (∀ n < 64, (s.port n).state = .up → ∃ t : State, exec (.lightLoss n) s = .next t ∧ SameMemory s t ∧ (t.port n).light = false ∧
      (t.port n).state = (if (s.port n).auto then .train else .fault) ∧ (t.port n).last = 0x4007 ∧ (t.port n).replay = [] ∧
      Posted s t (srcPort n) 2 0x4007 0 0)

/-- `Claims.PortsComeUpInOrder` and `Claims.LightBringsPortsUpAndDown` hold. -/
def Obligations.PortsFollowControlAndLight : Prop := Claims.PortsComeUpInOrder ∧ Claims.LightBringsPortsUpAndDown

/-- FRAME_SEND and FRAME_RECEIVE (R261 to R264, R283, R285): a port in LOCK, IDENT or UP puts out one frame of 10,280 message bytes,
coded for the eight wavelengths, whose header holds MARK, the frame number, the next expected SEQ and a good FCRC; in TRAIN it
sends PRBS13. Of a received frame, `u` and `m` being the state and the message bytes once a loopback fibre has given them
up, the failed codewords count; the 64th good one in a row takes a port from LOCK to IDENT, a bad one restarts that count,
and the fourth bad header in a row ends a running link. A running port stays UP, unless what the frame brings puts it in FAULT (a
sixteenth NAK, R280, or a table word whose parity fails, R396). -/
def Obligations.FramesAreWholeAndCounted : Prop :=
  ∀ (s : State) (n : Nat), n < 64 →
    ((s.port n).state = .lock ∨ (s.port n).state = .ident ∨ (s.port n).state = .up →
      ∃ (t : State) (msg : List Byte), exec (.frameSend n) s = .next t ∧ SameMemory s t ∧
        t.out = s.out ++ [.frame n msg (frameLine msg)] ∧ msg.length = 10280 ∧
        goodHeader (msg.take 116) = true ∧ leAt msg 16 6 = (s.port n).frame % 2 ^ 48 ∧
        leAt msg 24 2 = (s.port n).expect % 2 ^ 16 ∧ (t.port n).frame = ((s.port n).frame + 1) % 2 ^ 48) ∧
    ((s.port n).state = .train → exec (.frameSend n) s = .next { s with out := s.out ++ [.training n trainingLine] }) ∧
    ((s.port n).state = .off ∨ (s.port n).state = .dark ∨ (s.port n).state = .fault → exec (.frameSend n) s = .next s) ∧
    ∀ (f : RxFrame) (u : State),
      (s.arrives n Wire.frame? f.msg = (u, none) → exec (.frameReceive n f) s = .next u) ∧
      ∀ m, s.arrives n Wire.frame? f.msg = (u, some m) →
        let d := decodeFrame { f with msg := m }
        let ok := goodHeader (d.msg.take 116)
        let counted := fun (t : State) => SameMemory s t ∧ (t.port n).cUncorr = min ((u.port n).cUncorr + d.failed.length) 255 ∧
          (t.port n).light = true
        ((u.port n).state = .off ∨ (u.port n).state = .dark ∨ (u.port n).state = .fault →
          exec (.frameReceive n f) s = .next u) ∧
        ((u.port n).state = .train ∨ (u.port n).state = .ident →
          ∃ t : State, exec (.frameReceive n f) s = .next t ∧ counted t ∧ (t.port n).state = (u.port n).state) ∧
        ((u.port n).state = .lock → ok = true → d.failed = [] → 64 ≤ (u.port n).good + 1 →
          ∃ t : State, exec (.frameReceive n f) s = .next t ∧ counted t ∧ (t.port n).state = .ident) ∧
        ((u.port n).state = .lock → ok = true → d.failed = [] → (u.port n).good + 1 < 64 →
          ∃ t : State, exec (.frameReceive n f) s = .next t ∧ counted t ∧ (t.port n).state = .lock ∧
            (t.port n).good = (u.port n).good + 1) ∧
        ((u.port n).state = .lock → ok = false ∨ d.failed ≠ [] →
          ∃ t : State, exec (.frameReceive n f) s = .next t ∧ counted t ∧ (t.port n).state = .lock ∧ (t.port n).good = 0) ∧
        ((u.port n).state = .up → ok = false → 3 ≤ (u.port n).badFrames →
          ∃ t : State, exec (.frameReceive n f) s = .next t ∧ SameMemory s t ∧
            (t.port n).state = (if (u.port n).auto then .train else .fault) ∧ (t.port n).last = 0x4007 ∧
            Posted u t (srcPort n) 2 0x4007 0 0) ∧
        ((u.port n).state = .up → ok = true ∨ (u.port n).badFrames < 3 →
          ∃ t : State, exec (.frameReceive n f) s = .next t ∧ counted t ∧
            (((t.port n).state = .up ∧ (t.port n).badFrames = if ok then 0 else (u.port n).badFrames + 1) ∨
              (t.port n).state = .fault))

/-- IDENT_SEND, IDENT_RECEIVE, ACK_TIMEOUT and PACKET_WAIT_LIMIT (R275, R276, R280, R281, R283): in the first free beat of every 4,096 a
port in IDENT or UP names itself, and the packet's block waits for a position. The expected identity brings a port UP with its SEQ and replay
buffer fresh, and packets that wait there go out; another gives FAULT with 0x400B; without an expected peer the port stays. Blocks without an ACK for 8,192 beats give FAULT
with 0x4005; the packet of a VC that is being sent, else the oldest that waits, is discarded with 0x400A after 65,536 beats. Waits are
told by the beats since power-on, which no write of the count moves (log entry 51). -/
def Obligations.PeersAreIdentifiedAndWatched : Prop :=
  ∀ (s : State) (n : Nat), n < 64 →
    let me : IdentFlit := { dev := s.lnk.dev, group := s.lnk.group, pos := s.lnk.pos, port := n, grade := s.grade.code }
    ((s.port n).state = .ident ∨ (s.port n).state = .up → (s.port n).identAt ≠ s.now / 4096 + 1 → s.firstFree (s.port n) = true →
      ∃ t : State, exec (.identSend n) s = .next t ∧ SameMemory s t ∧ (t.port n).identAt = s.now / 4096 + 1 ∧
        (t.port n).linkq = (s.port n).linkq ++ [linkBlock pIdent s.lnk.dev (s.port n).peerDev (identBytes me)] ∧
        t.out = s.out ++ [.ident n me]) ∧
    (((s.port n).state ≠ .ident ∧ (s.port n).state ≠ .up) ∨ (s.port n).identAt = s.now / 4096 + 1 ∨
      s.firstFree (s.port n) = false → exec (.identSend n) s = .next s) ∧
    (∀ (f g : IdentFlit) (u : State), s.arrives n Wire.ident? f = (u, some g) →
      ((u.port n).state ≠ .ident ∨ (u.port n).peerValid = false → exec (.identReceive n f) s = .next u) ∧
      ((u.port n).state = .ident → (u.port n).peerValid = true →
        g.dev = (u.port n).peerDev → g.port = (u.port n).peerPort → g.grade = u.grade.code →
        ∃ t : State, exec (.identReceive n f) s = .next t ∧ OnlyPort n s t ∧ (t.port n).state = .up ∧ (t.port n).seq = 0 ∧
          (t.port n).expect = 0 ∧ (t.port n).replay = [] ∧ (t.port n).delayValid = false ∧ (t.port n).suspended = u.deckRuns ∧
          (t.port n).vc0 = { ({} : Vc) with txq := (u.port n).vc0.txq }) ∧
      ((u.port n).state = .ident → (u.port n).peerValid = true →
        (g.dev ≠ (u.port n).peerDev ∨ g.port ≠ (u.port n).peerPort ∨ g.grade ≠ u.grade.code) →
        ∃ t : State, exec (.identReceive n f) s = .next t ∧ SameMemory s t ∧
          (t.port n).state = .fault ∧ (t.port n).last = 0x400b ∧ Posted u t (srcPort n) 2 0x400b 0 0)) ∧
    (∀ (f : IdentFlit) (u : State), s.arrives n Wire.ident? f = (u, none) → exec (.identReceive n f) s = .next u) ∧
    ((s.port n).state = .up → (s.port n).replay ≠ [] → (s.port n).ackAt + 8192 ≤ s.age →
      ∃ t : State, exec (.ackTimeout n) s = .next t ∧ SameMemory s t ∧ (t.port n).state = .fault ∧ (t.port n).last = 0x4005 ∧
        Posted s t (srcPort n) 2 0x4005 0 0) ∧
    ((s.port n).state ≠ .up ∨ (s.port n).replay = [] ∨ s.age < (s.port n).ackAt + 8192 → exec (.ackTimeout n) s = .next s) ∧
    ((s.port n).vc0.txb ≠ [] → (s.port n).vc0.txSince + 65536 ≤ s.age →
      ∃ t : State, exec (.packetWaitLimit n) s = .next t ∧ SameMemory s t ∧ (t.port n).vc0 = { (s.port n).vc0 with txb := [] } ∧
        (t.port n).vc1 = (s.port n).vc1 ∧ (t.port n).vc2 = (s.port n).vc2 ∧ Posted s t (srcPort n) 2 0x400a 0 0) ∧
    (∀ e rest, takeFirst (fun (e : Nat × Nat × Packet) => decide (e.2.1 + 65536 ≤ s.age)) (s.port n).vc0.txq = some (e, rest) →
      ((s.port n).vc0.txb = [] ∨ s.age < (s.port n).vc0.txSince + 65536) →
      ∃ t : State, exec (.packetWaitLimit n) s = .next t ∧ SameMemory s t ∧ (t.port n).vc0 = { (s.port n).vc0 with txq := rest } ∧
        (t.port n).vc1 = (s.port n).vc1 ∧ (t.port n).vc2 = (s.port n).vc2 ∧ Posted s t (srcPort n) 2 0x400a 0 0)

/-- RWR_, RRD_, RRSP_, RPUSH_, RFLAG_ and RACK_RECEIVE (R205, R207, R209, R211, R278): a memory packet of its type at the head of its VC
leaves the receive buffer with its blocks credited, and its rows, two per slot, its read request, its entries or its flag go on
the crossbar to the tile that its address names, one slot per beat from beat 6 on and behind the slots of the port that still cross; a completion flag stays with the rows of its
operation; an acknowledgement ends one wait of its operation, a refusal ends the operation with the refusal's code. The low bits of
ADDR of an RRD or RPUSH, an RPUSH's payload layout and an RFLAG's words are the model's choice (log entry 23); so is the TAG of a read
of the SVC, whose rows come back to it (log entry 21). -/
def Obligations.MemoryPacketsGoToTheirTile : Prop :=
  ∀ (s : State) (n b : Nat) (k : Packet) (rest : List (Nat × Packet)) (lt off : Nat), n < 64 →
    let vc := if k.ptype = 4 ∨ k.ptype = 6 then 1 else 0
    let x := s.port n
    ((x.vc vc).rxq = (b, k) :: rest) → s.packetTile k.addr = some (lt, off) →
    let taken := fun (t : State) => SameMemory s t ∧ ((t.port n).vc vc).rxq = rest ∧
      ((t.port n).vc vc).freed = ((x.vc vc).freed + b) % 2 ^ 16
    let first := ((s.xbar.filter fun x => x.port == n + 1).map fun x => x.arrive + 1).foldl max (s.age + 6)
    let slot : Nat → Nat → SlotBody → XSlot := fun i total body =>
      { src := 256 * (k.src + 1) + bits k.tag 0 8, op := bits k.tag 8 10, port := n + 1, dst := lt, arrive := first + i,
        deadline := k.deadline, total := total, flag := none, poisoned := false, body := body }
    let len := k.payload.length
    let piece := fun (i : Nat) => (k.payload.drop (128 * i)).take 128
    let p := s.physOf (bits k.tag 0 8)
    (k.ptype = 1 → ∃ t : State, exec (.rwrReceive n) s = .next t ∧ taken t ∧
      t.xbar = s.xbar ++ (List.range (ceilDiv len 128)).map fun i => slot i (ceilDiv len 64)
        (.rows (off / 64 + 2 * i) (ceilDiv (min 128 (len - 128 * i)) 64) (padTo 128 (piece i)))) ∧
    (k.ptype = 3 → ∃ t : State, exec (.rrdReceive n) s = .next t ∧ taken t ∧
      t.xbar = s.xbar ++ [slot 0 0 (.rdReq (off / 64) (off % 64 + 1))]) ∧
    (k.ptype = 4 → bits k.tag 0 8 = noLtile → ∃ t : State, exec (.rrspReceive n) s = .next t ∧ taken t ∧ t.xbar = s.xbar ∧ t.tiles = s.tiles ∧
      ∀ y ∈ s.svc.reads, y.id % 1024 = bits k.tag 8 10 →
        y.reply k.src (bits k.addr 23 8) (bits k.addr 6 17) (bits k.status 0 16) k.payload ∈ t.svc.reads) ∧
    (k.ptype = 4 → bits k.tag 0 8 ≠ noLtile → ∀ o, (s.tile p).byTracker (bits k.tag 8 10) = some o → 0 < len →
      ∃ t : State, exec (.rrspReceive n) s = .next t ∧ taken t ∧
        t.xbar = s.xbar ++ (List.range (ceilDiv len 128)).map fun i =>
          { slot i 0 (.rdReply (bits k.addr 6 17 - o.dst.2.2 + 2 * i) (ceilDiv (min 128 (len - 128 * i)) 64) (padTo 128 (piece i))) with
            src := 256 * (k.src + 1), op := o.id, dst := bits k.tag 0 8 }) ∧
    (k.ptype = 4 → bits k.tag 0 8 ≠ noLtile → (s.tile p).byTracker (bits k.tag 8 10) = none →
      ∃ t : State, exec (.rrspReceive n) s = .next t ∧ taken t ∧ t.xbar = s.xbar) ∧
    (k.ptype = 5 → 4 < len → ∃ t : State, exec (.rpushReceive n) s = .next t ∧ taken t ∧
      t.xbar = s.xbar ++ (List.range (ceilDiv (len - 4) 128)).map fun i => slot i 0
        (.push (off % 16) (off / 16) (leAt k.payload 0 4 + 128 * i) (((k.payload.drop 4).drop (128 * i)).take 128))) ∧
    (k.ptype = 2 → leAt k.payload 8 4 = 1 → ∃ t : State, exec (.rflagReceive n) s = .next t ∧ taken t ∧
      t.xbar = s.xbar ++ [slot 0 1 (.flag ⟨bits k.addr 31 10, bits k.addr 23 8, bits k.addr 0 23, leAt k.payload 0 4, leAt k.payload 4 4⟩)]) ∧
    (k.ptype = 2 → leAt k.payload 8 4 = 2 → ∃ t : State, exec (.rflagReceive n) s = .next t ∧ taken t ∧ t.xbar = s.xbar ∧
      let q := s.physOf (leAt k.payload 12 4)
      (t.tile q).rx.map (fun y => (y.src, y.op, y.deadline)) = (s.tile q).rx.map (fun y => (y.src, y.op, y.deadline)) ∧
      ∀ y ∈ (t.tile q).rx, y.src = 256 * (k.src + 1) + bits k.tag 0 8 → y.op = bits k.tag 8 10 → y.deadline = k.deadline →
        leAt k.payload 16 4 ≤ y.total ∧
        y.flag = some ⟨bits k.addr 31 10, bits k.addr 23 8, bits k.addr 0 23, leAt k.payload 0 4, leAt k.payload 4 4⟩) ∧
    (k.ptype = 6 → (s.tile p).acks = [] → ∀ o, (s.tile p).byTracker (bits k.tag 8 10) = some o → (s.tile p).op? o.id = some o →
      s.now ≤ o.deadline →
      (bits k.status 0 16 = 0 → ∃ t : State, exec (.rackReceive n) s = .next t ∧ taken t ∧ t.xbar = s.xbar ∧
        (t.tile p).op? o.id = some { o with awaiting := o.awaiting - 1 }) ∧
      (bits k.status 0 16 ≠ 0 → ∃ t : State, exec (.rackReceive n) s = .next t ∧ taken t ∧ t.xbar = s.xbar ∧
        (t.tile p).op? o.id = none ∧
        Posted s t (srcTable (p / 13)) 2 (bits k.status 0 16) (faultTag (s.ltileOf p) o.bundle false) 0))

/-- TELEMETRY_WINDOW_END and TELE_RECEIVE (R282, R305, R308, R418): at the boundary that ends a window every port's counters go to its CMAP and
restart at 0, and with TEN and this device as DEST the 1,024 bytes join the telemetry queue with the stamp and the next SSEQ of
the MGC source, which is the model's choice (log entry 48); at another beat nothing happens. A TELE packet joins that queue too. -/
def Obligations.TelemetryIsCopiedAndQueued : Prop :=
  ∀ s : State,
    let sseq := (s.queue (qKey 0 srcMgc)).sseq
    let copied := fun (t : State) => SameMemory s t ∧
      ∀ n < 64, (t.port n).cCirc = 0 ∧ (t.port n).cPkt = 0 ∧ (t.port n).cNaks = 0 ∧ (t.port n).cUncorr = 0 ∧
        (t.port n).cCorr = 0 ∧ (t.port n).cmap.length = 4 ∧
        nth 0 (t.port n).cmap 0 = BitVec.ofNat 32 (s.port n).cCirc ∧ nth 0 (t.port n).cmap 1 = BitVec.ofNat 32 (s.port n).cPkt
    (s.beat ≠ 0 ∨ s.tick % 2 ^ s.lnk.wlog ≠ 0 → exec .telemetryWindowEnd s = .next s) ∧
    (s.beat = 0 → s.tick % 2 ^ s.lnk.wlog = 0 → s.lnk.ten = false →
      ∃ t : State, exec .telemetryWindowEnd s = .next t ∧ copied t ∧ t.lnk.tele = s.lnk.tele) ∧
    (s.beat = 0 → s.tick % 2 ^ s.lnk.wlog = 0 → s.lnk.ten = true → s.lnk.dest = s.lnk.dev →
      ∃ (t : State) (data : List Byte), exec .telemetryWindowEnd s = .next t ∧ copied t ∧ data.length = 1024 ∧
        t.lnk.tele = s.lnk.tele ++ [(s.roundCounter, sseq, s.now, s.lnk.dev, data)]) ∧
    (s.beat = 0 → s.tick % 2 ^ s.lnk.wlog = 0 → s.lnk.ten = true → s.lnk.dest ≠ s.lnk.dev →
      ∃ t : State, exec .telemetryWindowEnd s = .next t ∧ copied t ∧ t.lnk.tele = s.lnk.tele) ∧
    (∀ n b k rest, n < 64 → (s.port n).vc2.rxq = (b, k) :: rest → k.ptype = 0x30 →
      ∃ t : State, exec (.teleReceive n) s = .next t ∧ SameMemory s t ∧ (t.port n).vc2.rxq = rest ∧
        t.lnk.tele = s.lnk.tele ++ [(s.roundCounter, sseq, k.addr, k.src, k.payload)])

/-! ### The host interface (R300 to R313) -/

/-- CR_TAIL_WRITE and RR_HEAD_WRITE (R303): a CR TAIL is taken when its count stays from the old one up to 2^SIZE_LOG, and an RR HEAD when
it advances by at most what is published; an equal value is taken and changes nothing; any other write is ignored with 0x2001 on
the MGC source. Both are publishing writes (R251): while an earlier BAR2 write of the same requester has rows to come, they wait.
Before the HIF is released (R412) they have no effect (log entry 13). -/
def Obligations.DoorbellsKeepTheirRings : Prop :=
  ∀ (s : State) (rq : Requester) (i : Nat) (v : Word), fnOk rq.fn = true →
    let c := s.cr rq.fn i
    let r := s.rr rq.fn i
    let queues := fun t => (t : State).hif.queues = s.hif.queues
    (s.hif.released = false → (i < 4 → exec (.crTailWrite rq i v) s = .next s) ∧
      (i < recRings rq.fn → exec (.rrHeadWrite rq i v) s = .next s)) ∧
    (s.hif.released = true → s.hif.accs = [] → i < 4 → (c.tail - c.head).toNat ≤ (v - c.head).toNat → (v - c.head).toNat ≤ 2 ^ c.sizeLog →
      ∃ t : State, exec (.crTailWrite rq i v) s = .next t ∧ SameMemory s t ∧ t.cr rq.fn i = { c with tail := v } ∧ queues t) ∧
    (s.hif.released = true → s.hif.accs = [] → i < 4 → ((v - c.head).toNat < (c.tail - c.head).toNat ∨ 2 ^ c.sizeLog < (v - c.head).toNat) →
      ∃ t : State, exec (.crTailWrite rq i v) s = .next t ∧ SameMemory s t ∧ t.cr rq.fn i = c ∧ Posted s t srcMgc 2 0x2001 0 0) ∧
    (s.hif.released = true → s.hif.accs = [] → i < recRings rq.fn → (v - r.head).toNat ≤ (r.prod - r.head).toNat →
      ∃ t : State, exec (.rrHeadWrite rq i v) s = .next t ∧ SameMemory s t ∧ t.rr rq.fn i = { r with head := v } ∧ queues t) ∧
    (s.hif.released = true → s.hif.accs = [] → i < recRings rq.fn → (r.prod - r.head).toNat < (v - r.head).toNat →
      ∃ t : State, exec (.rrHeadWrite rq i v) s = .next t ∧ SameMemory s t ∧ t.rr rq.fn i = r ∧ Posted s t srcMgc 2 0x2001 0 0) ∧
    (∀ a p off data, s.hif.released = true → s.hif.accs = [a] → a.id < s.hif.fetched → a.what = .write p off data → a.rq.id = rq.id → a.started = true →
      a.left ≠ 0 →
      let waits := fun t => ∃ b, t = { s with hif := { s.hif with accs := [a, b], fetched := s.hif.fetched + 1 } }
      (i < 4 → ∃ t : State, exec (.crTailWrite rq i v) s = .next t ∧ waits t) ∧
      (i < recRings rq.fn → ∃ t : State, exec (.rrHeadWrite rq i v) s = .next t ∧ waits t))

/-- HOST_RING_ENABLE (R302): turning a ring on takes its size, when that is 6 to 16 for a command ring and 6 to 20 for a record
ring, and restarts its counters at 0; a write to a ring that is on leaves its size, its counters and its place. -/
def Claims.RingsRestartWhenEnabled : Prop :=
  ∀ (s : State) (fn : Fn) (i : Nat) (cfg : Word), fnOk fn = true →
    let n := bits cfg.toNat 0 5
    let c := s.cr fn i
    let r := s.rr fn i
    (i < 4 → c.enable = true → ∃ t : State, exec (.hostRingEnable fn false i cfg) s = .next t ∧ OnlyFn fn s t ∧
      t.cr fn i = { c with enable := bit cfg.toNat 31 }) ∧
    (i < 4 → c.enable = false → ∃ t : State, exec (.hostRingEnable fn false i cfg) s = .next t ∧ OnlyFn fn s t ∧
      t.cr fn i = { c with
        enable := bit cfg.toNat 31, sizeLog := if 6 ≤ n ∧ n ≤ 16 then n else c.sizeLog,
        tail := if bit cfg.toNat 31 then 0 else c.tail, head := if bit cfg.toNat 31 then 0 else c.head }) ∧
    (i < recRings fn → r.enable = true → ∃ t : State, exec (.hostRingEnable fn true i cfg) s = .next t ∧ OnlyFn fn s t ∧
      t.rr fn i = { r with enable := bit cfg.toNat 31, inten := bit cfg.toNat 30, holdoff := bits cfg.toNat 16 8 }) ∧
    (i < recRings fn → r.enable = false → ∃ t : State, exec (.hostRingEnable fn true i cfg) s = .next t ∧ OnlyFn fn s t ∧
      t.rr fn i = { r with
        enable := bit cfg.toNat 31, inten := bit cfg.toNat 30, holdoff := bits cfg.toNat 16 8,
        sizeLog := if 6 ≤ n ∧ n ≤ 20 then n else r.sizeLog,
        vector := if fn = .pf ∨ bits cfg.toNat 5 11 < 112 then bits cfg.toNat 5 11 else r.vector,
        prod := if bit cfg.toNat 31 then 0 else r.prod, head := if bit cfg.toNat 31 then 0 else r.head })

/-- COMMAND_FETCH (R292, R296, R297, R304, R306, R418): a ring that is on, idle and not empty, with room for the completion, gives its next
command and HEAD goes on. One that cannot be read completes with 0x2004 and TAG 0; one with a reserved opcode or bit, or a deck command
of a virtual function, with 0x2002; one for a window without a follower with 0x2003; FLAGS bit 0 hides none of these. A command for a
follower's window waits for the follower. A NOP completes with 0 unless FLAGS bit 0 hides it, a FENCE once no earlier command of its
window is in progress, a PHASE with the STATUS that its write of RCU.PSW gives. A DECK_LOAD in NONE or LOADED that reads a good header is
LOADING, a DECK_START that passes the checks is STARTING and completes, a DECK_STOP is STOPPING with the pending switches that could still be
cancelled gone; a failing check gives RESULT and status. HDMA_IN and HDMA_OUT ask for their rows as class H. A SERVE waits for its
descriptors. With the ring off, busy or empty, or no room, nothing happens. Records that wait enter the queue as the place kept for
the completion becomes free. The SSEQ that a completion for a window takes, and the count of those, are the model's choice (log
entries 19 and 48). -/
def Obligations.CommandsAreCheckedInOrder : Prop :=
  ∀ (s : State) (fn : Fn) (i : Nat) (host : HostBytes), fnOk fn = true → i < 4 →
    let r := s.cr fn i
    let now := fun t => (t : State).cr fn i = { r with head := r.head + 1 } ∧ SameMemory s t
    let stored := fun (win status tag : Nat) =>
      let q := s.queue (qKey win (fnSrc fn))
      { q with
        recs := q.recs ++ [{ status, kind := 0, src := fnSrc fn, win, sseq := q.sseq, stamp := s.roundCounter, tag, detail := 0 }],
        sseq := (q.sseq + 1) % 65536, own := if win = 0 then q.own else q.own + 1 }
    let done := fun (t : State) (win status tag : Nat) => t.queue (qKey win (fnSrc fn)) = stored win status tag
    let key := qKey 0 (fnSrc fn)
    let settled := fun (q : SrcQ) => SrcQ.settle (s.owed key) q.waiting.length q
    (∀ cmd, r.enable = false ∨ r.run ≠ none ∨ r.head = r.tail → exec (.commandFetch fn i cmd host) s = .next s) ∧
    (r.enable = true → r.run = none → r.head ≠ r.tail →
      (s.completionRoom fn 0 = true → ∃ t : State, exec (.commandFetch fn i none host) s = .next t ∧ now t ∧ done t 0 0x2004 0) ∧
      (∀ l : List Byte, l.length = 64 →
        let c := cmdOf l
        let bad := 8 < c.op ∨ c.reserved = true ∨ (fn ≠ .pf ∧ 2 ≤ c.op ∧ c.op ≤ 4)
        let noFence := ∀ j ∈ runRings, ∀ x, (s.cr fn j).run = some x → x.op ≠ 1
        (s.completionRoom fn c.win = false → exec (.commandFetch fn i (some l) host) s = .next s) ∧
        (s.completionRoom fn c.win = true → bad →
          ∃ t : State, exec (.commandFetch fn i (some l) host) s = .next t ∧ now t ∧ done t c.win 0x2002 c.tag) ∧
        (s.completionRoom fn c.win = true → ¬bad → c.win ≠ 0 → s.follower c.win = none →
          ∃ t : State, exec (.commandFetch fn i (some l) host) s = .next t ∧ now t ∧ done t c.win 0x2003 c.tag) ∧
        (s.completionRoom fn c.win = true → ¬bad → c.win ≠ 0 → s.follower c.win ≠ none → s.hif.accs = [] →
          ∃ t x, exec (.commandFetch fn i (some l) host) s = .next t ∧ SameMemory s t ∧
            t.cr fn i = { r with head := r.head + 1, run := some x } ∧ x.op = c.op ∧ x.win = c.win ∧ x.tag = c.tag) ∧
        (s.completionRoom fn c.win = true → ¬bad → c.win = 0 →
          let goes := fun (t : State) => exec (.commandFetch fn i (some l) host) s = .next t ∧ SameMemory s t
          let ended := fun (t : State) (status : Nat) => goes t ∧ now t ∧ t.queue key = settled (if status = 0 ∧ bit c.flags 0 = true
            then s.queue key else stored 0 status c.tag)
          let runs := fun (t : State) (x : CmdRun) => goes t ∧ t.cr fn i = { r with head := r.head + 1, run := some x } ∧
            x.op = c.op ∧ x.tag = c.tag ∧ x.win = 0 ∧ x.order = s.hif.fetched
          let tick := c.arg 16 8
          (noFence → c.op = 0 → ∃ t : State, ended t 0 ∧ t.dck = s.dck ∧ t.rcu = s.rcu ∧ t.tables = s.tables) ∧
          (c.op = 1 → (∀ j ∈ runRings, ∀ x, (s.cr fn j).run = some x → x.win ≠ 0) → ∃ t : State, ended t 0) ∧
          (c.op = 1 → (∃ j ∈ runRings, ∃ x, (s.cr fn j).run = some x ∧ x.win = 0 ∧ x.op ≠ 1 ∧ x.order < s.hif.fetched) →
            ∃ t x, runs t x) ∧
          (noFence → c.op = 5 →
            let v := c.arg 24 2 + c.arg 26 1 * 2 ^ 16
            let u := ({ s with rcu := { s.rcu with pswTick := tick % 2 ^ 48 } } : State).pswFields fn v
            let w := if c.arg 27 1 = 1 then u.pswCancel fn v else u.pswGo fn v
            ∃ t : State, ended t w.rcu.pswStatus ∧ t.rcu = w.rcu ∧ t.tables = w.tables) ∧
          -- the deck's commands
          (noFence → (c.op = 2 ∧ s.dck.state ≠ .none_ ∧ s.dck.state ≠ .loaded) ∨ (c.op = 3 ∧ s.dck.state ≠ .loaded) ∨
              (c.op = 4 ∧ s.dck.state ≠ .starting ∧ s.dck.state ≠ .running) →
            ∃ t : State, ended t 0x2007 ∧ t.dck = { s.dck with result := 0x2007 }) ∧
          (c.op = 2 → s.dck.state = .none_ ∨ s.dck.state = .loaded →
            let fails := fun (t : State) (f : Nat × Nat) => ended t f.1 ∧ t.dck.state = .none_ ∧ t.dck.load = none ∧
              t.dck.result = f.1 ∧ t.dck.failEntry = 0xFFFF ∧ t.dck.failOff = f.2
            let h := host.data
            (noFence → c.arg 24 8 < 256 → ∃ t : State, fails t (0x100D, 0)) ∧
            (noFence → 256 ≤ c.arg 24 8 → h.length < 256 → ∃ t : State, fails t (0x100D, h.length)) ∧
            (noFence → 256 ≤ c.arg 24 8 → 256 ≤ h.length → ∀ f, headerBad h (c.arg 24 8) = some f → f.1 ≠ 0 → ∃ t : State, fails t f) ∧
            (256 ≤ c.arg 24 8 → 256 ≤ h.length → headerBad h (c.arg 24 8) = none → ∃ t x, runs t x ∧ t.dck = { s.dck with
              state := .loading, failEntry := 0, failOff := 0, pass := 1,
              load := some { cmd := c.pend fn i 0 false, addr := tick, len := leAt h 24 8, bytes := h.take (leAt h 24 8) } })) ∧
          (noFence → c.op = 3 → s.dck.state = .loaded →
            let code := if s.dck.devices ≠ s.dck.cfg.devices then 0x1006 else if s.rcu.state ≠ .locked then 0x2009
              else if tick < s.tick + 2 then 0x2008 else 0
            ∃ t : State, ended t code ∧ t.dck = { s.dck with
              result := code, state := if code = 0 then .starting else .loaded
              start := if code = 0 then some (c.pend fn i tick false) else s.dck.start }) ∧
          (c.op = 4 → s.dck.state = .starting ∨ s.dck.state = .running →
            let abort := bit (c.arg 24 1) 0
            (noFence → abort = false → tick < s.tick + 2 → ∃ t : State, ended t 0x2008 ∧ t.dck = { s.dck with result := 0x2008 } ∧
              t.tables = s.tables) ∧
            (abort = true ∨ s.tick + 2 ≤ tick → ∃ t x, runs t x ∧ t.dck = { s.dck with
                state := .stopping, stop := some (c.pend fn i ((if abort then s.tick else tick) + 1) abort) } ∧
              ∀ n, (t.table n).switch = match (s.table n).switch with
                | some w => if s.tick + 2 ≤ w.tick then none else some w
                | none => none)) ∧
          -- HDMA
          (c.op = 6 ∨ c.op = 7 → c.arg 28 4 = 0 → noFence → ∃ t : State, ended t 0) ∧
          (c.op = 6 ∨ c.op = 7 → 0 < c.arg 28 4 → s.sramOff = false →
            let dev := c.arg 24 4
            let n := c.arg 28 4
            let data := host.data.take n
            let len := if c.op = 6 then data.length else n
            let noTile := ∃ k, 64 * k < n ∧ s.hdmaNoTile (dev + 64 * k) = true
            ∃ t x, runs t x ∧ (noTile → x.status = 0x3001) ∧ (¬noTile → x.status = if c.op = 6 ∧ host.data.length < n then 0x2004 else 0) ∧
              x.left = (s.hdmaRows fn (c.op == 6) dev len).2.length ∧
              ∀ w p row, 0 < len → dev / 64 ≤ w → 64 * w < dev + len → s.hdmaRow fn (64 * w) = some (p, row) → row < mappedRows →
                s.mayAccess p 1 (c.op == 6) row = true →
                let lo := max dev (64 * w) - 64 * w
                ∃ q ∈ (t.tile p).reqs, q.cls = 5 ∧ q.row = row ∧ q.use = if c.op = 6
                  then .fromHost (fnKey fn) i lo ((data.drop (64 * w + lo - dev)).take (min (dev + len) (64 * w + 64) - 64 * w - lo))
                  else .toHost (fnKey fn) i (64 * (w - dev / 64))) ∧
          (c.op = 8 → c.arg 24 4 = 0 → noFence → ∃ t : State, ended t 0) ∧
          (c.op = 8 → c.arg 24 4 ≠ 0 → ∃ t x, runs t x ∧ x.left = c.arg 24 4))))

/-- HDMA_COMPLETE (R304, R312): when every row has finished, an HDMA_OUT's bytes go to host memory, on a follower through its lead, and the
command completes with its status unless that is 0 and FLAGS bit 0 hides it; while a row, or a read through the lead, is to come
nothing happens. Records that wait enter the queue as the place kept for the completion becomes free (R306). -/
def Obligations.HdmaCompletesWithItsRows : Prop :=
  ∀ (s : State) (fn : Fn) (i : Nat) (c : CmdRun), fnOk fn = true → i < 5 → (s.cr fn i).run = some c → c.win = 0 →
    (c.op = 6 ∨ c.op = 7) →
    let read := ∃ x ∈ s.hif.hostReads, x.2.1 = fnKey fn
    let noFence := ∀ j ∈ runRings, ∀ x, (s.cr fn j).run = some x → x.op ≠ 1
    let ended := fun (t : State) => SameMemory s t ∧ (t.cr fn i).run = none ∧
      t.out = s.out ++ (if c.op = 7 then [.hostWrite c.addr (readCells c.buf (c.dev % 64) c.len)] else [])
    let key := qKey 0 (fnSrc fn)
    let q := s.queue key
    let end_ : Rec := ⟨c.status, 0, fnSrc fn, 0, q.sseq, s.roundCounter, c.tag, 0⟩
    let settled := fun (q : SrcQ) => SrcQ.settle ((s.setCr fn i { s.cr fn i with run := none }).owed key) q.waiting.length q
    (c.left ≠ 0 ∨ read → exec (.hdmaComplete fn i) s = .next s) ∧
    (c.left = 0 → ¬read → noFence → s.hif.leadValid = false → (c.status ≠ 0 ∨ bit c.flags 0 = false) →
      ∃ t : State, exec (.hdmaComplete fn i) s = .next t ∧ ended t ∧ t.queue key = settled { q with
        recs := q.recs ++ [end_], sseq := (q.sseq + 1) % 65536 }) ∧
    (c.left = 0 → ¬read → noFence → s.hif.leadValid = false → c.status = 0 → bit c.flags 0 = true →
      ∃ t : State, exec (.hdmaComplete fn i) s = .next t ∧ ended t ∧ t.queue key = settled q) ∧
    (c.left = 0 → ¬read → noFence → s.hif.leadValid = true →
      ∃ t : State, exec (.hdmaComplete fn i) s = .next t ∧ SameMemory s t ∧ (t.cr fn i).run = none ∧ t.out = s.out)

/-- DECK_LOAD_COMPLETE (R292 to R295, R298, R312, R425): a pass 1 that did not read the whole deck ends in NONE with 0x100D and the offset of the
first unread byte, and the first failing check of steps 2 and 3 with its code; pass 2 ends in NONE with its first failing check's code, entry and
offset, or with 0x1003 when the two passes differ; a deck that passes every check is LOADED with RESULT 0 and the TICK of
pass 1, every table IDLE. `b` holds the bytes of pass 2, which a follower has through its lead. That a pass 1 which no idle beat has ended
ends with this command is the model's choice (log entry 29). -/
def Obligations.DeckLoadsOrFails : Prop :=
  ∀ (s : State) (l : Load) (own b : List Byte) (ok : Bool),
    let fails := fun (t : State) (code entry off : Nat) => t.dck.load = none ∧ t.dck.state = .none_ ∧ t.dck.result = code ∧
      t.dck.failEntry = entry ∧ t.dck.failOff = off
    let d := s.deckIn (b ++ rep (l.len - b.length) 0#8)
    let loads := fun (t : State) (k : Nat) => t.dck.load = none ∧ t.dck.state = .loaded ∧ t.dck.result = 0 ∧
      t.dck.jobId = d.at_ 40 8 ∧ t.rcu.k = k ∧ (∀ n, (t.table n).phase = 0 ∧ (t.table n).switch = none ∧ (t.table n).prog = none) ∧
      t.acc = [] ∧ t.accBad = []
    let first := firstSome [s.signatureBad l.bytes, s.identityBad (s.deckIn l.bytes)] id
    let pass1 := s.dck.state = .loading ∧ s.dck.load = some l ∧ s.dck.pass = 1 ∧ l.far = false ∧ b = upTo own ok l.len
    let pass2 := s.dck.state = .loading ∧ s.dck.load = some l ∧ s.dck.pass = 2 ∧
      ((l.far = false ∧ b = upTo own ok l.len) ∨ (l.far = true ∧ s.farPass l 2 = some b))
    (s.dck.state ≠ .loading ∨ s.dck.load = none → exec (.deckLoadComplete own ok) s = .next s) ∧
    (s.dck.state = .loading → s.dck.load = some l → l.far = true →
      (s.dck.pass = 1 ∧ s.farPass l 1 = none) ∨ (s.dck.pass = 2 ∧ s.farPass l 2 = none) → exec (.deckLoadComplete own ok) s = .next s) ∧
    (pass1 → l.bytes.length < l.len →
      ∃ t : State, exec (.deckLoadComplete own ok) s = .next t ∧ SameMemory s t ∧ fails t 0x100D 0xFFFF l.bytes.length) ∧
    (pass1 → l.len ≤ l.bytes.length → ∀ f, first = some f →
      ∃ t : State, exec (.deckLoadComplete own ok) s = .next t ∧ SameMemory s t ∧ fails t f.1 0xFFFF f.2) ∧
    (pass2 ∨ (pass1 ∧ l.len ≤ l.bytes.length ∧ first = none) → ∀ n entry f, d.pass2Bad b.length = some (n, entry, f) →
      ∃ t : State, exec (.deckLoadComplete own ok) s = .next t ∧ fails t f.1 entry f.2) ∧
    (pass2 ∨ (pass1 ∧ l.len ≤ l.bytes.length ∧ first = none) → d.pass2Bad b.length = none → sha384 l.bytes ≠ sha384 b →
      ∃ t : State, exec (.deckLoadComplete own ok) s = .next t ∧ fails t 0x1003 0xFFFF (l.len - 128)) ∧
    (pass1 → l.len ≤ l.bytes.length → first = none → d.pass2Bad b.length = none → sha384 l.bytes = sha384 b →
      ∃ t : State, exec (.deckLoadComplete own ok) s = .next t ∧ loads t (s.deckIn l.bytes).k) ∧
    (pass2 → d.pass2Bad b.length = none → sha384 l.bytes = sha384 b →
      ∃ t : State, exec (.deckLoadComplete own ok) s = .next t ∧ loads t (11 + l.tick11.val))

/-- RECORD_PUBLISH and HOLDOFF_EXPIRE (R305, R307, R308, R310): a batch of records goes to the ring's next places with the PHASE of their
count, then PROD to the PIDX address, then the message, at once for a KIND 3 record or when HOLDOFF has elapsed. The message that HOLDOFF
held is sent when it ends. A message to a masked vector is kept as a pending bit (log entry 14, from PCI Express). A telemetry packet
takes 33 places of ring 17. -/
def Claims.RecordsArePublishedInOrder : Prop :=
  ∀ (s : State) (fn : Fn) (i : Nat), fnOk fn = true → i < recRings fn →
    let r := s.rr fn i
    let vector := vectorBase fn + r.vector
    let masked := bit (Map.get 0#32 s.hif.msix (4 * vector + 3)).toNat 0
    let absent := s.vectors fn ≤ r.vector
    let l := (s.takeBatch (s.ringQueues fn i) r.room).2
    let notice := ∃ x ∈ l, x.kind = 3
    let published := fun (t : State) (msg : List Out) => SameMemory s t ∧ l.length ≤ r.room ∧
      (t.rr fn i).prod = r.prod + BitVec.ofNat 32 l.length ∧ (t.rr fn i).head = r.head ∧
      t.out = s.out ++ (l.zipIdx.map fun x =>
          .hostWrite (r.base.toNat + 32 * ((r.prod + BitVec.ofNat 32 x.2).toNat % 2 ^ r.sizeLog))
            (x.1.bytes (!bit (r.prod + BitVec.ofNat 32 x.2).toNat r.sizeLog))) ++
        [.hostWrite r.pidx.toNat (leBytes 4 (r.prod + BitVec.ofNat 32 l.length).toNat)] ++ msg
    (s.hif.leadValid = false → (r.enable = false ∨ (¬(fn = .pf ∧ i = 17) ∧ l = [])) → exec (.recordPublish fn i) s = .next s) ∧
    (s.hif.leadValid = false → r.enable = true → ¬(fn = .pf ∧ i = 17) → l ≠ [] →
      (r.inten = false → ∃ t : State, exec (.recordPublish fn i) s = .next t ∧ published t []) ∧
      (r.inten = true → (notice ∨ s.holdoffOver r = true) → absent ∨ masked = true →
        ∃ t : State, exec (.recordPublish fn i) s = .next t ∧ published t []) ∧
      (r.inten = true → (notice ∨ s.holdoffOver r = true) → ¬absent → masked = false →
        ∃ t : State, exec (.recordPublish fn i) s = .next t ∧ published t [.msix fn r.vector]) ∧
      (r.inten = true → ¬notice → s.holdoffOver r = false →
        ∃ t : State, exec (.recordPublish fn i) s = .next t ∧ published t [] ∧ (t.rr fn i).heldMsg = true)) ∧
    (s.hif.leadValid = false → fn = .pf → i = 17 → r.enable = true → r.inten = false → 33 ≤ r.room → ∀ x, s.lnk.tele = [x] →
      ∃ t : State, exec (.recordPublish fn i) s = .next t ∧ SameMemory s t ∧ (t.rr fn i).prod = r.prod + 33 ∧ t.lnk.tele = []) ∧
    (s.hif.leadValid = true → ∃ t : State, exec (.recordPublish fn i) s = .next t ∧ SameMemory s t ∧ t.out = s.out ∧
      t.rr fn i = r) ∧
    (r.heldMsg = false ∨ r.inten = false ∨ s.holdoffOver r = false → exec (.holdoffExpire fn i) s = .next s) ∧
    (r.heldMsg = true → r.inten = true → s.holdoffOver r = true →
      let ended := fun (t : State) => SameMemory s t ∧ t.rr fn i = { r with heldMsg := false, lastMsg := some s.age }
      (absent → ∃ t : State, exec (.holdoffExpire fn i) s = .next t ∧ ended t ∧ t.out = s.out) ∧
      (¬absent → masked = false → ∃ t : State, exec (.holdoffExpire fn i) s = .next t ∧ ended t ∧
        t.out = s.out ++ [.msix fn r.vector]) ∧
      (¬absent → masked = true → ∃ t : State, exec (.holdoffExpire fn i) s = .next t ∧ ended t ∧ t.out = s.out ∧
        vector ∈ t.hif.pba))

/-- `Claims.RingsRestartWhenEnabled` and `Claims.RecordsArePublishedInOrder` hold. -/
def Obligations.RecordRingsRestartAndPublish : Prop := Claims.RingsRestartWhenEnabled ∧ Claims.RecordsArePublishedInOrder

/-- FOLLOWER_ACCESS and FOLLOWER_TIMEOUT (R300, R301, R312, R313), with no earlier access unfinished: a window without a follower reads
zeros and ignores writes; one with a follower gets the access in a packet. The register aperture is the physical function's and that
of the window that FOLSEL names: another access to it reads zeros and writes nothing. A follower read without a reply for 32 us returns
zeros, and 0x2006 is raised; the time is told by the beats since power-on (log entry 51). Before the HIF is released (R412) an access has
no effect and no answer (log entry 13). -/
def Claims.MissingFollowersReadZeros : Prop :=
  ∀ s : State,
    (∀ fn win, fnOk fn = true → win < 64 → s.hif.accs = [] →
      let taken : State := { s with hif := { s.hif with fetched := s.hif.fetched + 1 } }
      let own := fn = .pf ∧ win = s.hif.folWin
      let zeros := fun (off len : Nat) => Host.Outcome.next { taken with out := s.out ++ [.readData fn off (rep len 0#8)] }
      (s.hif.released = false → ∀ a, exec (.followerAccess fn win a) s = .next s) ∧
      (s.hif.released = true → ¬own → (∀ off, exec (.followerAccess fn win (.regRead off)) s = zeros (0x2000000 + off) 4) ∧
        ∀ off v, exec (.followerAccess fn win (.regWrite off v)) s = .next s) ∧
      (s.hif.released = true → s.follower win = none →
        (∀ off len, exec (.followerAccess fn win (.bar2Read off len)) s = zeros off len) ∧
        (∀ off, exec (.followerAccess fn win (.regRead off)) s = zeros (0x2000000 + off) 4) ∧
        (∀ off data, exec (.followerAccess fn win (.bar2Write off data)) s = .next taken) ∧
        (own → ∀ off v, exec (.followerAccess fn win (.regWrite off v)) s = .next taken) ∧
        (∀ bytes, exec (.followerAccess fn win (.command bytes)) s = .next taken)) ∧
      (s.hif.released = true → s.tly.flips = [] → ∀ d m, s.follower win = some d → s.routeUp d = some m →
        let sent := fun (a : FolAccess) (k : Packet → Prop) => ∃ (t : State) (e : Packet),
          exec (.followerAccess fn win a) s = .next t ∧ SameMemory s t ∧
            (t.port m).vc0.txq = (s.port m).vc0.txq ++ [(inHif, s.age, e)] ∧ e.dst = d ∧ k e
        let next := s.hif.nextReq
        (∀ off data, sent (.bar2Write off data) fun e => e.ptype = 0x20 ∧ e.addr = windowOffset fn off ∧
          e.payload = hostHeader 1 (fnKey fn) 0 0 ++ data) ∧
        (∀ off len, sent (.bar2Read off len) fun e => e.ptype = 0x20 ∧ e.addr = windowOffset fn off ∧
          e.payload = hostHeader 2 (fnKey fn) next len) ∧
        (own → ∀ off, sent (.regRead off) fun e => e.ptype = 0x10 ∧ e.addr = off ∧ e.payload = hostHeader 0 0 next 0) ∧
        (own → ∀ off v, sent (.regWrite off v) fun e => e.ptype = 0x11 ∧ e.addr = off ∧
          e.payload = hostHeader 0 0 0 0 ++ leBytes 4 v.toNat))) ∧
    (∀ r rest, takeFirst (fun (x : FolReq) => x.id == r.id && decide (x.since + 32 * s.usBeats ≤ s.age)) s.hif.folReqs = some (r, rest) →
      ∃ t : State, exec (.followerTimeout r.id) s = .next t ∧ SameMemory s t ∧ t.hif.folReqs = rest ∧ t.hif.folTimeout = true ∧
        t.out = s.out ++ [.readData r.fn r.off (rep r.len 0#8)] ∧ Posted s t srcMgc 2 0x2006 0 0) ∧
    (∀ id, takeFirst (fun (x : FolReq) => x.id == id && decide (x.since + 32 * s.usBeats ≤ s.age)) s.hif.folReqs = none →
      exec (.followerTimeout id) s = .next s)

/-- The follower read that a reply answers (R312, R313), with those that stay: `reg` tells a register read from a BAR2 read. -/
def Claims.answered (s : State) (k : Packet) (reg : Bool) : Option (FolReq × List FolReq) :=
  takeFirst (fun (r : FolReq) => r.id == k.reqid && r.reg == reg && s.follower r.win == some k.src) s.hif.folReqs

/-- REGRSP_RECEIVE, HOST_READ_DATA and HOST_RECORD (R304, R312, R313, R418), from a follower on VC 1: a reply ends its read with its data, and a
late one changes nothing; a record joins its source's queue under its window, while the queue has room beside the places kept for
completions. A completion ends the command that it answers, and is not kept when that succeeded and hides its record; what SSEQ a
record takes here, and that one not kept leaves no gap, are the model's choice (log entries 19 and 48). -/
def Claims.RepliesAndRecordsReachTheLead : Prop :=
  ∀ (s : State) (n b : Nat) (k : Packet) (rest : List (Nat × Packet)), n < 64 → s.fromFollower k = true →
    (s.port n).vc1.rxq = (b, k) :: rest →
    let taken := fun (t : State) => SameMemory s t ∧ (t.port n).vc1.rxq = rest
    let replied := fun (t : State) (r : FolReq) (l : List FolReq) =>
      t.hif.folReqs = l ∧ t.out = s.out ++ [.readData r.fn r.off (padTo r.len k.data)]
    let quiet := fun (t : State) => t.hif.folReqs = s.hif.folReqs ∧ t.out = s.out
    (k.ptype = 0x12 → k.sub = 0 →
      (∀ r l, Claims.answered s k true = some (r, l) → ∃ t : State, exec (.regrspReceive n) s = .next t ∧ taken t ∧ replied t r l) ∧
      (Claims.answered s k true = none → ∃ t : State, exec (.regrspReceive n) s = .next t ∧ taken t ∧ quiet t)) ∧
    (k.ptype = 0x20 → k.sub = 3 →
      (∀ r l, Claims.answered s k false = some (r, l) → ∃ t : State, exec (.hostReadData n) s = .next t ∧ taken t ∧ replied t r l) ∧
      (Claims.answered s k false = none → ∃ t : State, exec (.hostReadData n) s = .next t ∧ taken t ∧ quiet t)) ∧
    (k.ptype = 0x20 → k.sub = 5 →
      let r0 := recOf k.data ((s.winOf k.src).getD 0)
      let q := s.queue (qKey r0.win r0.src)
      let r := { r0 with sseq := (r0.sseq + q.own) % 65536 }
      let stored := fun (t : State) => (t.queue (qKey r0.win r0.src)).recs = q.recs ++ [r]
      (r0.kind ≠ 0 ∨ s.forwarded r = none → q.recs.length + s.owed (qKey r0.win r0.src) < queueMax →
        ∃ t : State, exec (.hostRecord n) s = .next t ∧ taken t ∧ stored t) ∧
      (r0.kind ≠ 0 ∨ s.forwarded r = none → queueMax ≤ q.recs.length + s.owed (qKey r0.win r0.src) →
        exec (.hostRecord n) s = .next s) ∧
      (∀ f i c, r0.kind = 0 → s.forwarded r = some (f, i) → (s.cr f i).run = some c →
        (r0.status = 0 → bit c.flags 0 = true →
          ∃ t : State, exec (.hostRecord n) s = .next t ∧ taken t ∧ (t.cr f i).run = none ∧
            (q.waiting = [] → t.queue (qKey r0.win r0.src) = { q with own := (q.own + 65535) % 65536 })) ∧
        ((r0.status ≠ 0 ∨ bit c.flags 0 = false) → q.recs.length < queueMax →
          ∃ t : State, exec (.hostRecord n) s = .next t ∧ taken t ∧ (t.cr f i).run = none ∧ (q.waiting = [] → stored t)) ∧
        ((r0.status ≠ 0 ∨ bit c.flags 0 = false) → queueMax ≤ q.recs.length → exec (.hostRecord n) s = .next s)))

/-- HOST_WRITE and HOST_READ_REQUEST (R312), from a follower on VC 0: its bytes go to host memory; host memory's bytes go back with SUB 0x07, and
0x2004 as STATUS when the read failed. -/
def Claims.FollowersReachHostMemory : Prop :=
  ∀ (s : State) (n b : Nat) (k : Packet) (rest : List (Nat × Packet)), n < 64 → s.fromFollower k = true → k.ptype = 0x20 →
    (s.port n).vc0.rxq = (b, k) :: rest →
    let taken := fun (t : State) => SameMemory s t ∧ (t.port n).vc0.rxq = rest
    (k.sub = 8 → ∃ t : State, exec (.hostWrite n) s = .next t ∧ taken t ∧ t.out = s.out ++ [.hostWrite k.addr k.data]) ∧
    (k.sub = 6 → s.tly.flips = [] → ∀ (d : HostBytes) (m : Nat), s.routeUp k.src = some m →
      ∃ (t : State) (e : Packet), exec (.hostReadRequest n d) s = .next t ∧ taken t ∧
        (t.port m).vc1.txq = (s.port m).vc1.txq ++ [(inHif, s.age, e)] ∧
        e.ptype = 0x20 ∧ e.dst = k.src ∧ e.payload = hostHeader 7 k.func k.reqid k.nbytes ++ d.data.take k.nbytes ∧
        e.status = if d.ok = true ∧ k.nbytes ≤ d.data.length then 0 else 0x2004)

/-- `Claims.MissingFollowersReadZeros` and `Claims.RepliesAndRecordsReachTheLead` and `Claims.FollowersReachHostMemory` hold. -/
def Obligations.LeadServesItsFollowers : Prop := Claims.MissingFollowersReadZeros ∧ Claims.RepliesAndRecordsReachTheLead ∧ Claims.FollowersReachHostMemory

/-- REGRD_, REGWR_RECEIVE, HOST_BAR2_WRITE, HOST_BAR2_READ, HOST_COMMAND and HOST_DATA (R312): a follower serves its lead, with
no earlier access unfinished and the HIF released (R412). A register read is answered on VC 1; a register write takes effect; the rows of a BAR2
access become class H requests; a command starts in place 4 of its function, when that is free and its completion has room: that place is
the model's choice (log entry 19); data end the host read that asked for
them, and join what its command has read. A packet from a device that is not the lead is discarded with 0x2005. -/
def Obligations.FollowerServesItsLead : Prop :=
  ∀ (s : State) (n b : Nat) (k : Packet) (rest : List (Nat × Packet)), n < 64 → s.hif.accs = [] → s.hif.released = true → s.tly.flips = [] →
    ((s.port n).vc0.rxq = (b, k) :: rest → s.fromLead k = true →
      let u := s.modPort n fun x => { x with vc0 := { x.vc0 with rxq := rest, freed := (x.vc0.freed + b) % 2 ^ 16 } }
      let w : State := { u with hif := { u.hif with fetched := u.hif.fetched + 1 } }
      (k.ptype = 0x10 → k.sub = 0 → ∀ m, s.routeUp k.src = some m → ∃ t : State, exec (.regrdReceive n) s = .next t ∧ SameMemory s t ∧
        (t.port n).vc0.rxq = rest ∧ ∃ e, (t.port m).vc1.txq = (s.port m).vc1.txq ++ [(inHif, s.age, e)] ∧
          e.ptype = 0x12 ∧ e.dst = k.src ∧ e.payload = hostHeader 0 k.func k.reqid 0 ++ leBytes 4 (w.regRead (fnOf k.func) k.addr).2) ∧
      (k.ptype = 0x11 → k.sub = 0 → publishes (fnOf k.func) k.addr = false →
        exec (.regwrReceive n) s = .next (u.regWrite (fnOf k.func) k.addr (leAt k.data 0 4))) ∧
      (k.ptype = 0x11 → k.sub = 0 → publishes (fnOf k.func) k.addr = true →
        exec (.regwrReceive n) s = .next (w.regWrite (fnOf k.func) k.addr (leAt k.data 0 4))) ∧
      (k.ptype = 0x20 → ∀ w p off q row, bar2Decode (fnOf k.func) (windowOffset (fnOf k.func) k.addr) = some (w, p, off) →
        s.sramOff = false → s.serves p = some q → off / 64 ≤ row → row < mappedRows →
        (k.sub = 1 → 64 * row < off + k.data.length → s.mayAccess q 1 true row = true →
          ∃ t : State, exec (.hostBar2Write n) s = .next t ∧ SameMemory s t ∧ (t.port n).vc0.rxq = rest ∧
            ∃ r ∈ (t.tile q).reqs, r.cls = 5 ∧ r.row = row ∧
              ∃ lo l, r.use = .fromWin s.hif.fetched lo l ∧ l.length ≤ 64) ∧
        (k.sub = 2 → 64 * row < off + k.nbytes → s.mayAccess q 1 false row = true →
          ∃ t : State, exec (.hostBar2Read n) s = .next t ∧ SameMemory s t ∧ (t.port n).vc0.rxq = rest ∧
            ∃ r ∈ (t.tile q).reqs, r.cls = 5 ∧ r.row = row ∧ r.use = .toWin s.hif.fetched (64 * (row - off / 64)))) ∧
      (k.ptype = 0x20 → k.sub = 4 → (s.cr (fnOf k.func) 4).run = none → (cmdOf k.data).op = 8 →
        s.cmdCheck (fnOf k.func) { cmdOf k.data with win := 0 } = 0 → (cmdOf k.data).arg 24 4 ≠ 0 → s.completionRoom (fnOf k.func) 0 = true →
        ∃ t x, exec (.hostCommand n) s = .next t ∧ SameMemory s t ∧ (t.port n).vc0.rxq = rest ∧
          (t.cr (fnOf k.func) 4).run = some x ∧ x.op = 8 ∧ x.left = (cmdOf k.data).arg 24 4 ∧ x.tag = (cmdOf k.data).tag) ∧
      (k.ptype = 0x20 → k.sub = 4 → (s.cr (fnOf k.func) 4).run ≠ none ∨ s.completionRoom (fnOf k.func) 0 = false →
        exec (.hostCommand n) s = .next s)) ∧
    ((s.port n).vc1.rxq = (b, k) :: rest → k.ptype = 0x20 → k.sub = 7 →
      (s.fromLead k = true → ∀ x l c, takeFirst (fun (x : Nat × Nat × Nat × Nat) => x.1 == k.reqid) s.hif.hostReads = some (x, l) →
        (s.cr (fnOf x.2.1) 4).run = some c →
        let put := fun (g : HostGet) => g.put x.2.2.2 (k.status == 0) k.data
        (∀ g, c.gets.find? (·.key == x.2.2.1) = some g → (put g).left ≠ 0 →
          ∃ t : State, exec (.hostData n) s = .next t ∧ SameMemory s t ∧ (t.port n).vc1.rxq = rest ∧ t.hif.hostReads = l ∧
            (t.cr (fnOf x.2.1) 4).run = some { c with gets := c.gets.map fun g => if g.key == x.2.2.1 then put g else g })) ∧
      (s.fromLead k = false → ∃ t : State, exec (.hostData n) s = .next t ∧ SameMemory s t ∧ (t.port n).vc1.rxq = rest ∧
        Posted s t srcMgc 2 0x2005 0 0))

/-- REGISTER_READ_CLEAR and REGISTER_WRITE (R10 to R12, R27, R31, R252, R395), by registers of each access type, with no earlier access
unfinished; every read goes through the majority vote of the register's latches (log entry 47). A read of an RC field returns it and
clears it; a write to it, or to an RO field, changes nothing; an RW field takes the value, a reserved value leaves it; a
virtual function reads 0 where it reaches nothing; a 64-bit read of RCU.NOW returns the whole count. Before the HIF is released (R412)
none of these has an effect or an answer (log entry 13). -/
def Obligations.RegisterFieldsActByType : Prop :=
  ∀ (s : State) (id : Nat) (v : Word), s.hif.accs = [] →
    (s.hif.released = false → ∀ fn r off, fnOk fn = true → exec (.registerReadClear false ⟨fn, id⟩ r) s = .next s ∧
      exec (.registerWrite false ⟨fn, id⟩ off v) s = .next s) ∧
    (s.hif.released = true →
    let reads := fun (fn : Fn) (off : Nat) (wide : Bool) (l : List Byte) (t : State) =>
      exec (.registerReadClear false ⟨fn, id⟩ ⟨off, wide⟩) s = .next t ∧ SameMemory s t ∧ t.out = s.out ++ [.readData fn off l]
    let write := fun off => exec (.registerWrite false ⟨.pf, id⟩ off v) s
    (∃ t : State, reads .pf 0x500418 false (leBytes 4 (s.tly.lost ^^^ s.voteMask .pf 0x500418)) t ∧ t.tly = { s.tly with lost := 0 }) ∧
    (∀ tbl < 16, ∃ t : State,
      reads (.vf tbl) (0x500300 + 4 * tbl) false (leBytes 4 ((s.table tbl).vstat ^^^ s.voteMask (.vf tbl) (0x500300 + 4 * tbl))) t ∧
      t.table tbl = { s.table tbl with tallyV := 0, arrayV := 0, tileV := 0, unchecked := 0 }) ∧
    (∀ a b, a < 16 → b < 16 → a ≠ b → ∃ t : State, reads (.vf a) (0x500300 + 4 * b) false [0, 0, 0, 0] t ∧ t.tables = s.tables) ∧
    (s.voteMask .pf 0x200000 = 0 → s.voteMask .pf 0x200004 = 0 →
      ∃ t : State, reads .pf 0x200000 true (leBytes 8 s.roundCounter) t ∧ t.rcu = s.rcu) ∧
    write 0x500418 = .next s ∧
    write 0x500414 = .next s ∧
    (s.noDeck = false → write 0x300000 = .next s) ∧
    (s.noDeck = true → write 0x300000 = .next { s with
      lnk := { s.lnk with dev := bits v.toNat 0 10, group := bits v.toNat 10 6, pos := bits v.toNat 16 4 } }) ∧
    (1024 < bits v.toNat 0 11 → write 0x100004 = .next s) ∧
    (bits v.toNat 0 11 ≤ 1024 → s.dck.state = .none_ ∨ s.dck.state = .loaded →
      write 0x100004 = .next { s with dck := { s.dck with devices := bits v.toNat 0 11 } }))

/-! ### Resets and power (R314, R315, R403, R409, R412) -/

/-- VF_FLR, PF_FLR, HOT_RESET, PERST and SR_IOV_ENABLE (R310, R314): a VF FLR clears its function's rings and vectors and nothing else; the three
others clear every function's, SR-IOV and the followers, end forwarded commands and a deck load, and keep tile memory and a loaded or
running deck. Other commands in progress finish. SR-IOV waits for the release of the HIF. -/
def Claims.FunctionResetsKeepTheDevice : Prop :=
  ∀ s : State,
    let cleared := fun (t : State) => SameMemory s t ∧ t.now = s.now ∧ t.acc = s.acc ∧ t.tables = s.tables ∧ t.hif.sriov = false ∧
      t.hif.folValid = [] ∧ t.hif.folDev = [] ∧ t.hif.msix = [] ∧ t.hif.pba = [] ∧ t.mgc.flash = s.mgc.flash ∧ (∀ f, (t.fn f).rrs = [])
    let kept := fun (t : State) => t.dck = s.dck ∧ t.tiles = s.tiles ∧
      (∀ f i x, (s.cr f i).run = some x → x.win = 0 → x.op ≠ 1 → (t.cr f i).run = some x) ∧
      ∀ f ∈ allFns, ∀ i < 4, ∀ x, (s.cr f i).run = some x → x.win ≠ 0 → (t.cr f i).run = none
    let unloaded := fun (t : State) => t.dck.state = .none_ ∧ t.dck.load = none
    (∀ n < 16, ∃ t : State, exec (.vfFlr n) s = .next t ∧
      t = { s with hif := { s.hif with fns := t.hif.fns, msix := t.hif.msix, pba := t.hif.pba } } ∧
      (∀ g, fnKey g ≠ fnKey (.vf n) → t.fn g = s.fn g) ∧ (t.fn (.vf n)).rrs = [] ∧
      (∀ i x, (s.cr (.vf n) i).run = some x → (t.cr (.vf n) i).run = some x) ∧
      ∀ v, if vectorBase (.vf n) ≤ v ∧ v < vectorBase (.vf n) + s.vectors (.vf n) then
        v ∉ t.hif.pba ∧ ∀ w < 4, Map.get 0#32 t.hif.msix (4 * v + w) = 0
      else (v ∈ t.hif.pba ↔ v ∈ s.hif.pba) ∧ ∀ w < 4, Map.get 0#32 t.hif.msix (4 * v + w) = Map.get 0#32 s.hif.msix (4 * v + w)) ∧
    (s.dck.state ≠ .loading → ∃ t : State, exec .pfFlr s = .next t ∧ cleared t ∧ kept t) ∧
    (s.dck.state ≠ .loading → ∃ t : State, exec .hotReset s = .next t ∧ cleared t ∧ kept t) ∧
    (s.dck.state ≠ .loading → ∃ t : State, exec .perst s = .next t ∧ cleared t ∧ kept t) ∧
    (s.dck.state = .loading → ∃ t : State, exec .pfFlr s = .next t ∧ cleared t ∧ unloaded t) ∧
    (s.dck.state = .loading → ∃ t : State, exec .hotReset s = .next t ∧ cleared t ∧ unloaded t) ∧
    (s.dck.state = .loading → ∃ t : State, exec .perst s = .next t ∧ cleared t ∧ unloaded t) ∧
    (∀ on, s.hif.released = true → exec (.srIovEnable on) s = .next { s with hif := { s.hif with sriov := on } }) ∧
    (∀ on, s.hif.released = false → exec (.srIovEnable on) s = .next s)

/-- DEVICE_RESET and DEVICE_RESET_COMPLETE (R314, R315): with GO and KEY 0xD1CE and DCK in NONE or LOADED, everything but the management state, the
seat maps and the trims is as after reset, and BUSY reads 1 until the reset completes; that a recovery cut short ends with its joker
standing in is the model's reading (log entry 22); while a deck loads or runs RESULT reads 0x2007 and nothing else changes; without GO or with another key nothing happens. -/
def Claims.DeviceResetClearsTheFabric : Prop :=
  ∀ (s : State) (v : Word),
    (bit v.toNat 0 = false ∨ bits v.toNat 16 16 ≠ 0xD1CE → exec (.deviceReset v) s = .next s) ∧
    (bit v.toNat 0 = true → bits v.toNat 16 16 = 0xD1CE → s.dck.state ≠ .none_ → s.dck.state ≠ .loaded →
      exec (.deviceReset v) s = .next { s with dck := { s.dck with result := 0x2007 } }) ∧
    (bit v.toNat 0 = true → bits v.toNat 16 16 = 0xD1CE → s.dck.state = .none_ ∨ s.dck.state = .loaded →
      ∃ t : State, exec (.deviceReset v) s = .next t ∧
        (∀ p o, t.readByte p o = 0) ∧ t.acc = [] ∧ t.tiles = [] ∧ t.ports = [] ∧ t.xbar = [] ∧ t.rcu = {} ∧ t.dck = {} ∧ t.svc = {} ∧
        t.hif.resetBusy = true ∧ t.hif.hostReads = [] ∧ t.mgc = s.mgc ∧ t.tly.trim = s.tly.trim ∧ t.tly.events = s.tly.events ∧
        (∀ n, (s.table n).recovering = false → (t.table n).jokerFor = (s.table n).jokerFor ∧
          (t.table n).jokerState = (s.table n).jokerState ∧ (t.table n).retired = (s.table n).retired ∧
          (t.table n).failed = (s.table n).failed ∧ (t.table n).phase = 0) ∧
        ∀ n x, (s.table n).recovering = true → (s.table n).subst = some x → (t.table n).jokerFor = x.seat ∧
          (t.table n).jokerState = 1 ∧ (t.table n).recovering = false ∧ (t.table n).phase = 0) ∧
    exec .deviceResetComplete s = .next { s with hif := { s.hif with resetBusy := false } }

/-- `Claims.FunctionResetsKeepTheDevice` and `Claims.DeviceResetClearsTheFabric` hold. -/
def Obligations.ResetsClearWhatTheyReach : Prop := Claims.FunctionResetsKeepTheDevice ∧ Claims.DeviceResetClearsTheFabric

/-- POWER_ON, POWER_DOWN, RAIL_ENABLE_TIMEOUT and MGC_RESTART_COMPLETE (R403, R405, R409, R412, R314): the named bank runs when it verifies, the other
with FALLBACK when only that does; firmware that runs sets READY, and the HIF is released; with neither, READY stays 0. Power going down loses
all but the flash, of which a bank that is being written has no header yet. A rail that misses its time drops every enable with 0x9005. FW_ACTIVATE
ends with the restart. An image verifies when its length and security version fit and its signature does, whose outcome comes with
the command (log entry 25). That POWER_ON acts with READY at 0, RAIL_ENABLE_TIMEOUT within 35 ms of power-on and with DCK in NONE, the 0x9006
of a failed restart, and that memory reads 0 after power are the model's choice (log entries 7, 8 and 13). -/
def Obligations.PowerRunsTheVerifiedFirmware : Prop :=
  ∀ (s : State) (fw : FwCheck),
    let boot := s.mgc.flash.bootBank
    let u := s.powerOff
    let b := u.mgc.flash.bootBank
    let named := u.accepts b fw.namedOk = true
    let other := u.accepts (1 - b) fw.otherOk = true
    let fresh := fun (t : State) => (∀ p o, t.readByte p o = 0) ∧ t.tiles = [] ∧ t.grade = s.grade
    let runs := fun (t : State) (bank : Nat) (fallback : Bool) => t.mgc.ready = true ∧ t.mgc.bank = bank ∧ t.mgc.fallback = fallback ∧
      t.mgc.fwrev = fw.rev % 2 ^ 16
    (s.mgc.ready = true ∨ s.mgc.restarting ≠ none → exec (.powerOn fw) s = .next s) ∧
    (u = { State.reset with
      pending := s.pending, freeIdx := s.freeIdx, out := s.out, grade := s.grade, stepping := s.stepping, minVersion := s.minVersion,
      mgc := { flash := s.mgc.flashOpen.foldl (fun f w => f.setRecord w.1 (setBank (f.record w.1) w.2 [])) s.mgc.flash },
      hif := { released := false } }) ∧
    (s.mgc.ready = false → s.mgc.restarting = none →
      (named → ∃ t : State, exec (.powerOn fw) s = .next t ∧ fresh t ∧ runs t b false ∧ t.hif.released = true ∧
        t.mgc.rails = railOrder ∧ t.mgc.flash = u.mgc.flash) ∧
      (¬named → other → ∃ t : State, exec (.powerOn fw) s = .next t ∧ fresh t ∧ runs t (1 - b) true ∧ t.hif.released = true ∧
        t.mgc.rails = railOrder ∧ t.mgc.flash = u.mgc.flash) ∧
      (¬named → ¬other → exec (.powerOn fw) s = .next u)) ∧
    exec .powerDown s = .next u ∧
    (∀ rail, rail < 7 → rail ∈ s.mgc.rails → s.age ≤ 35000 * s.usBeats → s.dck.state = .none_ →
      ∃ t : State, exec (.railEnableTimeout rail) s = .next t ∧ SameMemory s t ∧ t.mgc.rails = [] ∧ t.mgc.dead = true ∧
        t.hif.released = false ∧ Posted s t srcMgc 3 0x9005 0 0) ∧
    (∀ rail, rail < 7 → (rail ∉ s.mgc.rails ∨ 35000 * s.usBeats < s.age ∨ s.dck.state ≠ .none_) →
      exec (.railEnableTimeout rail) s = .next s) ∧
    (s.mgc.restarting = none → exec (.mgcRestartComplete fw) s = .next s) ∧
    (∀ smb, s.mgc.restarting = some smb → s.accepts boot fw.namedOk = true → ∃ t : State, exec (.mgcRestartComplete fw) s = .next t ∧
      runs t boot false ∧ t.mgc.restarting = none ∧ (t.mgc.mbox smb).busy = false ∧ (t.mgc.mbox smb).status = 0) ∧
    (∀ smb, s.mgc.restarting = some smb → s.accepts boot fw.namedOk = false → s.accepts (1 - boot) fw.otherOk = true →
      ∃ t : State, exec (.mgcRestartComplete fw) s = .next t ∧
        runs t (1 - boot) true ∧ t.mgc.restarting = none ∧ (t.mgc.mbox smb).busy = false ∧ (t.mgc.mbox smb).status = 0) ∧
    (∀ smb, s.mgc.restarting = some smb → s.accepts boot fw.namedOk = false → s.accepts (1 - boot) fw.otherOk = false →
      ∃ t : State, exec (.mgcRestartComplete fw) s = .next t ∧ t = { s with mgc := t.mgc } ∧ t.mgc.restarting = none ∧
        t.mgc.ready = s.mgc.ready ∧ (t.mgc.mbox smb).busy = false ∧ (t.mgc.mbox smb).status = 0x9006)

/-! ### The management controller (R400 to R413) -/

/-- LOG_READ, FW_WRITE, FW_COMMIT, FW_ACTIVATE, REG_WRITE and REG_READ (R400, R401), on the mailbox whose command the MGC serves, with the
operands that GO submitted: the page, the inactive image's bytes, the boot record or the register that each names, and STATUS 0; the boot
record of an image that is accepted goes to the bank that is invalid or holds the lower SEQ, and when the flash does not verify it, that bank is
left invalid, with 0x9009 (R405); outside
NONE, FW_ACTIVATE and REG_WRITE end with 0x9002 and change nothing; a page past 2,047 gives 0x9001 (log entry 28), an empty
one 0x9003, and an image that does not verify 0x9006: its signature's outcome comes with the command (log entry 25). A command that
the MGC does not serve waits. -/
def Obligations.MailboxCommandsEndWithStatus : Prop :=
  ∀ (s : State) (smb : Bool),
    let x := s.mgc.mbox smb
    let off := bits x.runArg.toNat 0 32
    let page := s.mgc.flash.record (.page x.runArg.toNat)
    let boot := s.mgc.flash.record .boot
    let seq := s.mgc.flash.seq .boot
    let none_ := s.dck.state = .none_
    let ends := fun (t : State) (status n : Nat) => t = { s with mgc := t.mgc } ∧
      (t.mgc.mbox smb).busy = false ∧ (t.mgc.mbox smb).status = status ∧ (t.mgc.mbox smb).rlen = n
    (s.serves_ smb 1 = true →
      (2048 ≤ x.runArg.toNat → ∃ t : State, exec (.logRead smb) s = .next t ∧ ends t 0x9001 0) ∧
      (∀ b, x.runArg.toNat < 2048 → pickBank 4096 page = some b → ∃ t : State, exec (.logRead smb) s = .next t ∧ ends t 0 4096 ∧
        readCells (t.mgc.mbox smb).buf 0 4096 = padTo 4096 (bankAt page b)) ∧
      (x.runArg.toNat < 2048 → pickBank 4096 page = none → ∃ t : State, exec (.logRead smb) s = .next t ∧ ends t 0x9003 0)) ∧
    (s.serves_ smb 2 = true →
      (x.runArg.toNat % 4096 = 0 → x.runArg.toNat < 2 ^ 22 → s.mgc.bank = 1 → ∃ t : State, exec (.fwWrite smb) s = .next t ∧
        ends t 0 0 ∧ readCells t.mgc.flash.imageA x.runArg.toNat x.runLen = readCells x.buf 0 x.runLen ∧
        t.mgc.flash.imageB = s.mgc.flash.imageB) ∧
      (x.runArg.toNat % 4096 = 0 → x.runArg.toNat < 2 ^ 22 → s.mgc.bank = 0 → ∃ t : State, exec (.fwWrite smb) s = .next t ∧
        ends t 0 0 ∧ readCells t.mgc.flash.imageB x.runArg.toNat x.runLen = readCells x.buf 0 x.runLen ∧
        t.mgc.flash.imageA = s.mgc.flash.imageA) ∧
      (x.runArg.toNat % 4096 ≠ 0 ∨ 2 ^ 22 ≤ x.runArg.toNat → ∃ t : State, exec (.fwWrite smb) s = .next t ∧ ends t 0x9001 0 ∧
        t.mgc.flash = s.mgc.flash)) ∧
    (s.serves_ smb 3 = true →
      ∀ ok, (s.accepts s.mgc.inactive ok = true → s.mgc.flashWrites ∉ s.mgc.flashBad →
        ∃ t : State, exec (.fwCommit smb ok) s = .next t ∧ ends t 0 0 ∧
          t.mgc.flash = { s.mgc.flash with boot := writeBank 4096 boot seq [BitVec.ofNat 8 s.mgc.inactive] } ∧
          (s.mgc.bank < 2 → seq < 2 ^ 32 → t.mgc.flash.bootBank = 1 - s.mgc.bank)) ∧
      (s.accepts s.mgc.inactive ok = true → s.mgc.flashWrites ∈ s.mgc.flashBad → ∃ t : State, exec (.fwCommit smb ok) s = .next t ∧
        SameMemory s t ∧ (t.mgc.mbox smb).busy = false ∧ t.mgc.flash = { s.mgc.flash with boot := spoilBank 4096 boot } ∧
        Posted s t srcMgc 2 0x9009 0 0) ∧
      (s.accepts s.mgc.inactive ok = false → ∃ t : State, exec (.fwCommit smb ok) s = .next t ∧ ends t 0x9006 0 ∧
        t.mgc.flash = s.mgc.flash)) ∧
    (s.serves_ smb 4 = true →
      (none_ → exec (.fwActivate smb) s = .next { s with mgc := { s.mgc with ready := false, restarting := some smb } }) ∧
      (¬none_ → ∃ t : State, exec (.fwActivate smb) s = .next t ∧ ends t 0x9002 0)) ∧
    (s.serves_ smb 7 = true →
      (none_ → mboxReg off = true →
        exec (.regWrite smb) s = .next ((s.regWrite .pf off (bits x.runArg.toNat 32 32)).mboxDone smb 0 [])) ∧
      (none_ → mboxReg off = false → ∃ t : State, exec (.regWrite smb) s = .next t ∧ ends t 0x9001 0) ∧
      (¬none_ → ∃ t : State, exec (.regWrite smb) s = .next t ∧ ends t 0x9002 0)) ∧
    (s.serves_ smb 8 = true →
      (mboxReg off = true →
        exec (.regRead smb) s = .next ((s.regRead .pf off).1.mboxDone smb 0 (leBytes 4 (s.regRead .pf off).2))) ∧
      (mboxReg off = false → ∃ t : State, exec (.regRead smb) s = .next t ∧ ends t 0x9001 0)) ∧
    (s.serves_ smb 1 = false → exec (.logRead smb) s = .next s) ∧ (s.serves_ smb 2 = false → exec (.fwWrite smb) s = .next s) ∧
    (∀ ok, s.serves_ smb 3 = false → exec (.fwCommit smb ok) s = .next s) ∧
    (s.serves_ smb 4 = false → exec (.fwActivate smb) s = .next s) ∧
    (s.serves_ smb 7 = false → exec (.regWrite smb) s = .next s) ∧ (s.serves_ smb 8 = false → exec (.regRead smb) s = .next s)

/-- KEY_ENROL and KEY_REVOKE (R14, R401, R402, R405): in NONE, an empty slot takes a point of the curve, and a valid one is revoked, when AUTHSLOT names
another valid key by which the operands are signed, r and s being read little-endian; a failed signature gives 0x9008, any
other unmet condition 0x9002; no other slot changes. A record goes to its bank that is invalid or holds the lower SEQ; when the flash does not
verify it, that bank is left invalid, with 0x9009 (log entry 49). -/
def Obligations.KeysChangeUnderASignature : Prop :=
  ∀ (s : State) (smb : Bool),
    let buf := readCells (s.mgc.mbox smb).buf 0 195
    let a := keyArgs (s.mgc.mbox smb)
    let f := s.mgc.flash
    let auth := s.dck.state = .none_ ∧ a.slot < 8 ∧ a.auth < 8 ∧ a.auth ≠ a.slot ∧ (f.key a.auth).state = 1
    let mayEnrol := auth ∧ (f.key a.slot).state = 0 ∧ a.coords ≠ none
    let mayRevoke := auth ∧ (f.key a.slot).state = 1 ∧ ∀ b ∈ a.point, b = 0
    let signed := ecdsaOk (f.key a.auth).x (f.key a.auth).y (leAt buf 99 48) (leAt buf 147 48) (buf.take 99) = true
    let ends := fun (t : State) (status : Nat) => t = { s with mgc := t.mgc } ∧ (t.mgc.mbox smb).busy = false ∧
      (t.mgc.mbox smb).status = status
    let others := fun (t : State) => ∀ i, i ≠ a.slot → t.mgc.flash.key i = f.key i
    let fails := s.mgc.flashWrites ∈ s.mgc.flashBad
    let unwritten := fun (t : State) => SameMemory s t ∧ (t.mgc.mbox smb).busy = false ∧ others t ∧
      t.mgc.flash = f.setRecord (.key a.slot) (spoilBank 4096 (f.record (.key a.slot))) ∧ Posted s t srcMgc 2 0x9009 0 0
    (s.serves_ smb 5 = true →
      (¬mayEnrol → ∃ t : State, exec (.keyEnrol smb) s = .next t ∧ ends t 0x9002 ∧ t.mgc.flash = f) ∧
      (mayEnrol → ¬signed → ∃ t : State, exec (.keyEnrol smb) s = .next t ∧ ends t 0x9008 ∧ t.mgc.flash = f) ∧
      (mayEnrol → signed → fails → ∃ t : State, exec (.keyEnrol smb) s = .next t ∧ unwritten t) ∧
      (∀ xy, mayEnrol → a.coords = some xy → signed → ¬fails → f.seq (.key a.slot) < 2 ^ 32 → ∃ t : State, exec (.keyEnrol smb) s = .next t ∧ ends t 0 ∧ others t ∧
        (t.mgc.flash.key a.slot).state = 1 ∧ (t.mgc.flash.key a.slot).x = xy.1 ∧ (t.mgc.flash.key a.slot).y = xy.2)) ∧
    (s.serves_ smb 6 = true →
      (¬mayRevoke → ∃ t : State, exec (.keyRevoke smb) s = .next t ∧ ends t 0x9002 ∧ t.mgc.flash = f) ∧
      (mayRevoke → ¬signed → ∃ t : State, exec (.keyRevoke smb) s = .next t ∧ ends t 0x9008 ∧ t.mgc.flash = f) ∧
      (mayRevoke → signed → fails → ∃ t : State, exec (.keyRevoke smb) s = .next t ∧ unwritten t) ∧
      (mayRevoke → signed → ¬fails → f.seq (.key a.slot) < 2 ^ 32 → ∃ t : State, exec (.keyRevoke smb) s = .next t ∧ ends t 0 ∧ others t ∧
        t.mgc.flash.key a.slot = { f.key a.slot with state := 2 })) ∧
    (s.serves_ smb 5 = false → exec (.keyEnrol smb) s = .next s) ∧ (s.serves_ smb 6 = false → exec (.keyRevoke smb) s = .next s)

/-- TEMP_SAMPLE, COOLANT_HIGH, COOLANT_SENSOR_FAULT and POWER_WINDOW_END (R407, R408): their readings are kept, a sensor at 105 degrees raises 0xA010 once, and its alarm clears
below 100; an inlet above 40 degrees gives 0xA012, a failed coolant sensor 0xA013 once, a second above 1,500 W 0xA004, and one with 0xA002 in
more than 1 % of its ticks 0xA003. Coolant readings end a coolant fault, and which command brings which readings is the model's choice (log entry
38). They change management state and records alone. -/
def Claims.SensorsRaiseTheirNotices : Prop :=
  ∀ s : State,
    (∀ i (v : BitVec 12), i < 64 →
      let old : Temp := Map.get {} s.mgc.temps i
      let sampled := fun (t : State) (alarm : Bool) => SameMemory s t ∧ t.tables = s.tables ∧
        Map.get {} t.mgc.temps i = ({ t := v, alarm } : Temp)
      (1680 ≤ v.toInt → old.alarm = false → ∃ t : State, exec (.tempSample i v) s = .next t ∧ sampled t true ∧
        Posted s t srcMgc 3 0xA010 0 0 ∧ 0xA010 ∈ t.mgc.alerts) ∧
      (1600 ≤ v.toInt → old.alarm = true → ∃ t : State, exec (.tempSample i v) s = .next t ∧ sampled t true ∧ t.hif = s.hif) ∧
      (v.toInt < 1680 → old.alarm = false → ∃ t : State, exec (.tempSample i v) s = .next t ∧ sampled t false ∧ t.hif = s.hif) ∧
      (v.toInt < 1600 → ∃ t : State, exec (.tempSample i v) s = .next t ∧ sampled t false ∧ t.hif = s.hif)) ∧
    (∀ c : CoolantIn, 640 < c.inlet.toInt → ∃ t : State, exec (.coolantHigh c) s = .next t ∧ SameMemory s t ∧ t.tables = s.tables ∧
      t.mgc.inlet = c.inlet ∧ t.mgc.outlet = c.outlet ∧ Posted s t srcMgc 3 0xA012 0 0 ∧ 0xA012 ∈ t.mgc.alerts ∧
      t.mgc.coolFault = false ∧ 0xA013 ∉ t.mgc.alerts) ∧
    (∀ c : CoolantIn, c.inlet.toInt ≤ 640 → ∃ t : State, exec (.coolantHigh c) s = .next t ∧ t = { s with mgc := t.mgc } ∧
      t.mgc.inlet = c.inlet ∧ t.mgc.outlet = c.outlet ∧ 0xA012 ∉ t.mgc.alerts ∧ t.mgc.coolFault = false ∧ 0xA013 ∉ t.mgc.alerts) ∧
    (s.mgc.coolFault = false → ∃ t : State, exec .coolantSensorFault s = .next t ∧ SameMemory s t ∧ t.mgc.coolFault = true ∧
      0xA013 ∈ t.mgc.alerts ∧ Posted s t srcMgc 3 0xA013 0 0) ∧
    (s.mgc.coolFault = true → exec .coolantSensorFault s = .next s) ∧
    (∀ r : PowerIn,
      let counted := fun (t : State) => SameMemory s t ∧ t.mgc.w1s = r.w1s ∧ t.pwr.ticks = 0 ∧ t.pwr.overruns = 0 ∧
        (∀ j a, r.amps = [(j, a)] → j < 9 → ∀ i, Map.get 0 t.mgc.irail i = if i = j then a else Map.get 0 s.mgc.irail i) ∧
        (r.amps = [] → t.mgc.irail = s.mgc.irail) ∧ t.ports = s.ports ∧ (r.light = [] → t.mgc.optp = s.mgc.optp) ∧
        ∀ n x y, r.light = [(n, x, y)] → n < 64 → Map.get (0, 0) t.mgc.optp n = (x, y)
      let heavy := s.pwr.ticks < s.pwr.overruns * 100
      (1500 < r.w1s.toNat → ¬heavy → ∃ t : State, exec (.powerWindowEnd r) s = .next t ∧ counted t ∧
        Posted s t srcMgc 3 0xA004 0 0) ∧
      (r.w1s.toNat ≤ 1500 → heavy → ∃ t : State, exec (.powerWindowEnd r) s = .next t ∧ counted t ∧
        Posted s t srcMgc 3 0xA003 0 0) ∧
      (1500 < r.w1s.toNat → heavy → ∃ t u : State, exec (.powerWindowEnd r) s = .next t ∧ counted t ∧
        Posted s u srcMgc 3 0xA004 0 0 ∧ Posted u t srcMgc 3 0xA003 0 0) ∧
      (r.w1s.toNat ≤ 1500 → ¬heavy → ∃ t : State, exec (.powerWindowEnd r) s = .next t ∧ counted t ∧ t.hif = s.hif))

/-- THERMAL_STOP, POWER_STOP, RAIL_FAULT and THERM_RESTART (R408, R409): a comparator at 115 degrees, 1 ms power above 1,800 W, or a monitor that has read outside its rail's tolerance
for 10 ms (R411) under a running deck stops the device with its code: every dealer is told to stop, and the stop's code stands. In a stop, once every sensor
reads below 95 degrees, THERM_RESTART resets the device and ends the stop; otherwise it ends with 0x9002. RAIL_FAULT's operand with its held
flag, and that its alarm clears when no monitor reads out of tolerance, are the model's choice (log entry 38). -/
def Obligations.StopsEndInARestart : Prop :=
  ∀ s : State,
    let raised := fun (t : State) (code : Nat) => SameMemory s t ∧ Posted s t srcMgc 3 code 0 0 ∧ code ∈ t.mgc.alerts ∧ t.mgc.tstop = true
    let stops := fun (t : State) (code : Nat) => raised t code ∧ t.mgc.stopCode = some code ∧ t.mgc.stopAt = s.age ∧
      ∀ n < 16, (t.table n).stopping = true
    let goes := fun (t : State) (code : Nat) => raised t code ∧ t.mgc.stopCode = s.mgc.stopCode ∧ t.tables = s.tables
    (∀ i (v : BitVec 12), i < 64 →
      (1840 ≤ v.toInt → s.mgc.tstop = false → ∃ t : State, exec (.thermalStop i v) s = .next t ∧ stops t 0xA011) ∧
      (1840 ≤ v.toInt → s.mgc.tstop = true → ∃ t : State, exec (.thermalStop i v) s = .next t ∧ goes t 0xA011) ∧
      (v.toInt < 1840 → exec (.thermalStop i v) s = .next s)) ∧
    (∀ w : BitVec 16,
      (1800 < w.toNat → s.mgc.tstop = false → ∃ t : State, exec (.powerStop w) s = .next t ∧ t.mgc.w1ms = w ∧ stops t 0xA005) ∧
      (1800 < w.toNat → s.mgc.tstop = true → ∃ t : State, exec (.powerStop w) s = .next t ∧ t.mgc.w1ms = w ∧ goes t 0xA005) ∧
      (w.toNat ≤ 1800 → exec (.powerStop w) s = .next { s with mgc := { s.mgc with w1ms := w } })) ∧
    (∀ i (mv : BitVec 16), i < 24 →
      let rail := railSpec (monitorRail i)
      let low := decide (mv.toNat * 100 < rail.1 * (100 - rail.2))
      let high := decide (rail.1 * (100 + rail.2) < mv.toNat * 100)
      let outside := low = true ∨ high = true
      let read := fun (t : State) => Map.get (0, false, false) t.mgc.vmon i = (mv, low, high)
      (outside → s.deckRuns = true → s.mgc.tstop = false → ∃ t : State, exec (.railFault i mv true) s = .next t ∧ read t ∧
        stops t 0x9005) ∧
      (outside → s.deckRuns = true → s.mgc.tstop = true → ∃ t : State, exec (.railFault i mv true) s = .next t ∧ read t ∧
        goes t 0x9005) ∧
      (∀ held, outside → (held = false ∨ s.deckRuns = false) → ∃ t : State, exec (.railFault i mv held) s = .next t ∧ read t ∧
        t = { s with mgc := t.mgc } ∧ t.mgc.alerts = s.mgc.alerts) ∧
      (∀ held, ¬outside → ∃ t : State, exec (.railFault i mv held) s = .next t ∧ read t ∧ t = { s with mgc := t.mgc } ∧
        ((∀ e ∈ s.mgc.vmon, e.2.2.1 = false ∧ e.2.2.2 = false) → 0x9005 ∉ t.mgc.alerts))) ∧
    (∀ smb, s.serves_ smb 9 = true →
      let cool := ∀ e ∈ s.mgc.temps, e.2.t.toInt < 1520
      (s.mgc.tstop = true → cool → ∃ t : State, exec (.thermRestart smb) s = .next t ∧ (t.mgc.mbox smb).busy = false ∧
        (t.mgc.mbox smb).status = 0 ∧ t.mgc.tstop = false ∧ t.mgc.stopCode = none ∧ t.mgc.rails = railOrder ∧
        (∀ p o, t.readByte p o = 0) ∧ t.dck = {}) ∧
      (s.mgc.tstop = false ∨ ¬cool → ∃ t : State, exec (.thermRestart smb) s = .next t ∧ (t.mgc.mbox smb).busy = false ∧
        (t.mgc.mbox smb).status = 0x9002 ∧ t = { s with mgc := t.mgc })) ∧
    (∀ smb, s.serves_ smb 9 = false → exec (.thermRestart smb) s = .next s)

/-- LOG_PAGE_WRITE and LOG_SUPPRESSED (R405, R406): 100 ms after the last write, or at once for a key code, waiting entries join the open page and the
page goes to flash under the next SEQ; at 124 entries the log moves to the next of its 2,048 pages; when
the flash does not verify the page, 0x9009 is raised and the entries go on waiting. The end of a second counts the entries
that the limit kept out in one 0x900A entry and clears the limit. That the entries of a page that is not verified go on waiting, and the layout
of a page, are log entries 49 and 25; the time is told by the beats since power-on (log entry 51). -/
def Claims.LogPagesAreWritten : Prop :=
  ∀ s : State,
    let m := s.mgc
    let l := (m.logPage ++ m.logNew).take 124
    let lost := (m.logRate.map (·.2.2)).sum
    (m.logNew = [] ∨ (s.age < m.logAt + 100000 * s.usBeats ∧ ∀ r ∈ m.logNew, urgentCode r.status = false) →
      exec .logPageWrite s = .next s) ∧
    (m.logNew ≠ [] → (m.logAt + 100000 * s.usBeats ≤ s.age ∨ ∃ r ∈ m.logNew, urgentCode r.status = true) →
      m.flashWrites ∉ m.flashBad →
      ∃ t : State, exec .logPageWrite s = .next t ∧ t = { s with mgc := t.mgc } ∧ t.mgc.logSeq = m.logSeq + 1 ∧ t.mgc.logAt = s.age ∧
        t.mgc.logPage ++ t.mgc.logNew = (if l.length < 124 then m.logPage ++ m.logNew else (m.logPage ++ m.logNew).drop 124) ∧
        t.mgc.logIdx = (if l.length < 124 then m.logIdx else (m.logIdx + 1) % 2048) ∧
        t.mgc.flash = m.flash.setRecord (.page m.logIdx)
          (writeBank 4096 (m.flash.record (.page m.logIdx)) (m.logSeq + 1) (s.logPayload l))) ∧
    (m.logNew ≠ [] → (m.logAt + 100000 * s.usBeats ≤ s.age ∨ ∃ r ∈ m.logNew, urgentCode r.status = true) →
      m.flashWrites ∈ m.flashBad → ∃ t : State, exec .logPageWrite s = .next t ∧ SameMemory s t ∧ t.mgc.logSeq = m.logSeq ∧
        t.mgc.logAt = s.age ∧ m.logNew <+: t.mgc.logNew ∧ t.mgc.logPage = m.logPage ∧
        t.mgc.flash = m.flash.setRecord (.page m.logIdx) (spoilBank 4096 (m.flash.record (.page m.logIdx))) ∧
        Posted s t srcMgc 2 0x9009 0 0) ∧
    (lost = 0 → exec .logSuppressed s = .next { s with mgc := { m with logRate := [] } }) ∧
    (lost ≠ 0 → ∃ t r, exec .logSuppressed s = .next t ∧ t = { s with mgc := t.mgc } ∧ t.mgc.logRate = [] ∧
      t.mgc.logNew = m.logNew ++ [r] ∧ r.status = 0x900A ∧ r.detail = lost % 2 ^ 32)

/-- `Claims.SensorsRaiseTheirNotices` and `Claims.LogPagesAreWritten` hold. -/
def Obligations.SensorsAndTheLog : Prop := Claims.SensorsRaiseTheirNotices ∧ Claims.LogPagesAreWritten

/-! ### Serving (R317 to R349) -/

/-- GENERATE and SCORE (R317, R318, R320, R321, R347): from a SERVE command in progress, a descriptor that passes every check enters the request table
as QUEUED with its prompt; one with MAXNEW 0 ends at once; one that fails a check, or whose prompt host memory did not answer whole
(0x2004), ends with a terminal record and leaves no request; a duplicate joins its original. The last descriptor of a SERVE
completes it. `e` and `l` are the descriptor and its prompt, on a follower as its lead has sent them; until then nothing happens. That
duplicates are found before the checks, the 0x2004 of a short prompt, and the fault record of a reserved OP are the model's choice (log
entry 21). -/
def Obligations.DescriptorsEnterTheTable : Prop :=
  ∀ (s : State) (d e : DescIn) (prompt l : List Word) (c : CmdRun),
    let x := descOf e.bytes
    (s.descHere d = none → exec (.generate d prompt) s = .next s ∧ exec (.score d prompt) s = .next s) ∧
    (s.descHere d = some e → s.tokensOf d 0 prompt = some l → fnOk d.fn = true → (s.cr d.fn d.ring).run = some c → c.op = 8 →
      let taken := fun (t : State) => SameMemory s t ∧ (t.cr d.fn d.ring).run = some { c with left := c.left - 1 }
      let new := s.duplicate x = none ∧ s.descCode d.fn e.bytes = none ∧ x.plen ≤ l.length
      let queued := fun (t : State) => ∃ q, t.svc.reqs = s.svc.reqs ++ [q] ∧ q.id = x.id ∧ q.table = x.table ∧ q.cust = x.cust ∧
        q.state = .queued ∧ q.isScore = decide (x.op = 2) ∧ q.prompt = (l.take x.plen).map (·.toNat) ∧ q.intake = s.tick ∧
        q.order = s.svc.nextOrder ∧ q.maxNew = x.maxNew ∧ q.temp = x.temp ∧ q.topk = x.topk ∧ q.seed = x.seed ∧ q.steps = [] ∧
        q.delivered = 0 ∧ q.dups = 0 ∧ t.hif.queues = s.hif.queues
      let ends := fun (t : State) (code end_ : Nat) => t.svc.reqs = s.svc.reqs ∧
        Posted s t (srcTable x.table) 1 code x.id (termDetail 0 end_ false false 0)
      let joins := fun (t : State) => t.hif.queues = s.hif.queues ∧
        t.svc.reqs = s.svc.reqs.map fun y => if y.id = x.id then { y with dups := y.dups + 1 } else y
      (x.op = 1 → 1 < c.left →
        (new → x.maxNew ≠ 0 → ∃ t : State, exec (.generate d prompt) s = .next t ∧ taken t ∧ queued t) ∧
        (new → x.maxNew = 0 → ∃ t : State, exec (.generate d prompt) s = .next t ∧ taken t ∧ ends t 0 0) ∧
        (∀ code, s.duplicate x = none → s.descCode d.fn e.bytes = some code →
          ∃ t : State, exec (.generate d prompt) s = .next t ∧ taken t ∧ ends t code 0xFF) ∧
        (s.duplicate x = none → s.descCode d.fn e.bytes = none → l.length < x.plen →
          ∃ t : State, exec (.generate d prompt) s = .next t ∧ taken t ∧ ends t 0x2004 0xFF) ∧
        (∀ q, s.req? x.id = some q → q.dups < 255 → ∃ t : State, exec (.generate d prompt) s = .next t ∧ taken t ∧ joins t)) ∧
      (x.op = 2 → 1 < c.left →
        (new → ∃ t : State, exec (.score d prompt) s = .next t ∧ taken t ∧ queued t) ∧
        (∀ code, s.duplicate x = none → s.descCode d.fn e.bytes = some code →
          ∃ t : State, exec (.score d prompt) s = .next t ∧ taken t ∧ ends t code 0xFF) ∧
        (s.duplicate x = none → s.descCode d.fn e.bytes = none → l.length < x.plen →
          ∃ t : State, exec (.score d prompt) s = .next t ∧ taken t ∧ ends t 0x2004 0xFF) ∧
        (∀ q, s.req? x.id = some q → q.dups < 255 → ∃ t : State, exec (.score d prompt) s = .next t ∧ taken t ∧ joins t)) ∧
      (x.op = 0 ∨ 6 < x.op → 1 < c.left → ∃ t : State, exec (.generate d prompt) s = .next t ∧ taken t ∧ t.svc.reqs = s.svc.reqs ∧
        Posted s t (srcTable x.table) 2 0x6002 x.id 0) ∧
      (x.op = 1 → c.left = 1 → ∃ t : State, exec (.generate d prompt) s = .next t ∧ (t.cr d.fn d.ring).run = none) ∧
      (x.op = 2 → c.left = 1 → ∃ t : State, exec (.score d prompt) s = .next t ∧ (t.cr d.fn d.ring).run = none))

/-- CANCEL, PARK, BIND and RESUME (R321, R331, R341, R345, R347): an action that passes its checks waits for the next boundary; one that fails raises a fault
record with the code. A RESUME that fails a check, or whose record is not whole or of another deck (0x6040), ends with a terminal
record; one that passes is QUEUED at its recorded position with the recorded SEED (R343, R346). `e`, `record` and `prompt` are the descriptor and what it names,
on a follower as its lead has sent them. -/
def Obligations.ActionsWaitForTheBoundary : Prop :=
  ∀ (s : State) (d e : DescIn) (c : CmdRun), s.descHere d = some e → fnOk d.fn = true → (s.cr d.fn d.ring).run = some c → c.op = 8 →
    1 < c.left →
    let x := descOf e.bytes
    let taken := fun (t : State) => SameMemory s t ∧ (t.cr d.fn d.ring).run = some { c with left := c.left - 1 } ∧
      t.svc.reqs = s.svc.reqs
    let waits := fun (t : State) => taken t ∧ t.svc.acts = s.svc.acts ++ [(s.tick, x.table, e.bytes)] ∧ t.hif.queues = s.hif.queues
    let refused := fun (t : State) (code : Nat) => taken t ∧ t.svc.acts = s.svc.acts ∧ Posted s t (srcTable x.table) 2 code x.id 0
    let failed := fun (t : State) (code : Nat) => taken t ∧
      Posted s t (srcTable x.table) 1 code x.id (termDetail 0 0xFF false false 0)
    (x.op = 3 →
      (s.descCode d.fn e.bytes = none → ∃ t : State, exec (.cancel d) s = .next t ∧ waits t) ∧
      (∀ code, s.descCode d.fn e.bytes = some code → ∃ t : State, exec (.cancel d) s = .next t ∧ refused t code)) ∧
    (x.op = 4 →
      (s.descCode d.fn e.bytes = none → ∃ t : State, exec (.park d) s = .next t ∧ waits t) ∧
      (∀ code, s.descCode d.fn e.bytes = some code → ∃ t : State, exec (.park d) s = .next t ∧ refused t code)) ∧
    (x.op = 6 →
      (s.descCode d.fn e.bytes = none → ∃ t : State, exec (.bind d) s = .next t ∧ waits t) ∧
      (∀ code, s.descCode d.fn e.bytes = some code → ∃ t : State, exec (.bind d) s = .next t ∧ refused t code)) ∧
    (∀ own words record prompt, x.op = 5 → s.resumeParts d own words = some (record, prompt) → s.duplicate x = none →
      (∀ code, s.descCode d.fn e.bytes = some code → ∃ t : State, exec (.resume d own words) s = .next t ∧ failed t code) ∧
      (s.descCode d.fn e.bytes = none → parkedOk record s.dck.jobId = false →
        ∃ t : State, exec (.resume d own words) s = .next t ∧ failed t 0x6040) ∧
      (s.descCode d.fn e.bytes = none → parkedOk record s.dck.jobId = true → x.adnum = 0xFFFF → x.plen ≤ prompt.length →
        x.maxNew ≠ 0 → (leAt record 36 4 ≠ 0xFFFFFFFF ∨ x.plen ≠ 0) →
        ∃ t q, exec (.resume d own words) s = .next t ∧ SameMemory s t ∧ t.svc.reqs = s.svc.reqs ++ [q] ∧ q.id = x.id ∧
          q.state = .queued ∧ q.resume = true ∧ q.pos = leAt record 32 4 ∧ q.seed = leAt record 40 8 ∧
          q.ready = (if x.plen = 0 then some (leAt record 36 4) else none)))

/-- RESULT_READ, INPUT_RECORD_DEADLINE and LANE_MAP_SAMPLE (R160, R323, R324, R328 to R330, R349): from RBEAT on, the result rows of the steps
that are due, and the rows of a FOLLOW table's lane map, are asked for as class L requests, once; before that beat the two do nothing. With all
rows in, a SCORE's last lane gives its request's score, written to OUT, and ends it with END 3, or with FAILED 0x2004 when that write
fails, and a lane map gives the lanes of the next tick. Input records whose rows are not all in place by IDONE end the requests of the
tick's lanes. That the rows are class L requests whose last one ends the read, and that RESULT_READ carries the requests whose OUT write
fails, are log entry 21. -/
def Obligations.TablesReadTheirRecords : Prop :=
  ∀ (s : State) (tbl : Nat), tbl < 16 →
    let x := s.serveTable tbl
    let id := s.svc.nextRead
    let asks := fun (t : State) (y : SvcRead) (p row off : Nat) => row < mappedRows → s.mayAccess p 2 false row = true →
      (p, row, off) ∈ y.rows ∧ ∃ q ∈ (t.tile p).reqs, q.cls = 3 ∧ q.row = row ∧ q.use = .toSvc id off
    (∀ l, s.deckRuns = true → x.role = 1 →
      let p := s.physOf x.resTile
      (s.tableBeat tbl < x.rbeat ∨ s.dueSteps tbl s.tick = [] ∨ s.read? (.results tbl) ≠ none →
        exec (.resultRead ⟨tbl, l⟩) s = .next s) ∧
      (x.rbeat ≤ s.tableBeat tbl → s.dueSteps tbl s.tick ≠ [] → s.read? (.results tbl) = none → s.sramOff = false →
        ∃ t : State, exec (.resultRead ⟨tbl, l⟩) s = .next t ∧ SameMemory s t ∧ t.out = s.out ∧ t.svc.reqs = s.svc.reqs ∧
          ∃ y ∈ t.svc.reads, y.id = id ∧ y.key = .results tbl ∧ y.fails = l ∧
            ∀ r ∈ s.dueSteps tbl s.tick, ∀ i < r.n, asks t y p (x.resRow + r.lane + i) (64 * r.lane + 64 * i))) ∧
    (∀ y q r, s.svc.reads = [y] → y.key = .results tbl → y.rows = [] → y.far = [] → s.svc.reqs = [q] → q.table = tbl → q.isScore = true →
      q.result = none → q.due x.step s.tick = [r] → r.gen = false → r.sampled = true → (s.table tbl).dfault = none →
      let recs := y.records r.lane r.n
      let score := (nth (resultOf []) recs (r.n - 1)).token
      let t := s.takeReads
      stepFault r recs = none → s.hif.leadValid = false → SameMemory s t ∧ t.svc.reads = [] ∧ ∃ q', t.svc.reqs = [q'] ∧ q'.id = q.id ∧
        q'.delivered = q.delivered ∧
        (q.id ∉ y.fails → t.out = s.out ++ [.hostWrite q.out (leBytes 4 score)] ∧ q'.result = some (0, 3) ∧ q'.score = score) ∧
        (q.id ∈ y.fails → t.out = s.out ∧ q'.result = some (0x2004, 0xFF))) ∧
    (let p := s.physOf x.inTile
     let find := takeFirst (fun (r : RxOp) => r.src == inputSrc tbl) (s.tile p).rx
     (find = none → exec (.inputRecordDeadline tbl) s = .next s) ∧
     ∀ r rest, find = some (r, rest) →
      (s.tableBeat tbl < x.idone → exec (.inputRecordDeadline tbl) s = .next s) ∧
      (x.idone ≤ s.tableBeat tbl → r.total ≤ r.done → ∃ t : State, exec (.inputRecordDeadline tbl) s = .next t ∧ OnlyTile p s t ∧
        (t.tile p).rx = rest) ∧
      (x.idone ≤ s.tableBeat tbl → r.done < r.total → ∃ t : State, exec (.inputRecordDeadline tbl) s = .next t ∧ SameMemory s t ∧
        (t.tile p).rx = rest ∧
        (∀ q ∈ t.svc.reqs, q ∈ s.svc.reqs ∧ (q.table = tbl → ∀ y ∈ q.steps, y.tick ≠ s.tick)) ∧
        (∀ q ∈ s.svc.reqs, (∀ y ∈ s.svc.reqs, y.id = q.id → y.table ≠ tbl ∨ ∀ z ∈ y.steps, z.tick ≠ s.tick) →
          q ∈ t.svc.reqs))) ∧
    (s.deckRuns = true → x.role = 2 →
      (s.tableBeat tbl < x.rbeat ∨ tbl ∈ s.svc.mapsRead → exec (.laneMapSample tbl) s = .next s) ∧
      (x.rbeat ≤ s.tableBeat tbl → tbl ∉ s.svc.mapsRead → s.sramOff = false →
        ∃ t : State, exec (.laneMapSample tbl) s = .next t ∧ SameMemory s t ∧ t.svc.lanes = s.svc.lanes ∧
          t.svc.nextLanes = s.svc.nextLanes ∧ t.svc.mapsRead = s.svc.mapsRead ++ [tbl] ∧
          ∃ y ∈ t.svc.reads, y.id = id ∧ y.key = .lanes tbl ∧
            ∀ i < ceilDiv (2 * x.nlane) 64, asks t y (s.physOf x.mapTile) (x.mapRow + i) (64 * i))) ∧
    (∀ y, s.svc.reads = [y] → y.key = .lanes tbl → y.rows = [] → y.far = [] →
      let t := s.takeReads
      SameMemory s t ∧ t.svc.reads = [] ∧ t.svc.lanes = s.svc.lanes ∧
        (∀ i < x.nlane, Map.get {} t.svc.nextLanes (x.lane0 + i) = laneOf (leNat (readCells y.buf (2 * i) 2))) ∧
        (∀ n, (n < x.lane0 ∨ x.lane0 + x.nlane ≤ n) → Map.get {} t.svc.nextLanes n = Map.get {} s.svc.nextLanes n))

/-- GATHER and GATHER_DEADLINE (R151, R172, R173, R255, R337): from START, once a tick, each full lane with an adapter has the rows of its chunk
requested as class L reads of its slot; a source row without memory, or that a handle denies, is zeros, which are written. At DONE a lane whose rows are not in place has rows of the canonical NaN requested for its chunk, as class L
writes under the adapter engine's handles, with one 0x6030; with all in place nothing is requested. -/
def Obligations.GathersFillTheirChunks : Prop :=
  ∀ (s : State) (g : Nat) (c : GatherCfg), s.gatherCfg g = some c →
    let p := s.physOf c.ltile
    let lay := Map.get (0, 0, 0) s.dck.cfg.layout c.ltile
    let n := if lay.2.2 = 1 then 32 else 16
    let mine := (s.tile p).rx.filter fun x => x.src == svcSrc + 32 + g
    let ended := fun (t : State) => SameMemory s t ∧ ∀ x ∈ (t.tile p).rx, x.src ≠ svcSrc + 32 + g
    (s.deckRuns = true → c.start ≤ s.tableBeat (c.ltile / 12) → g ∉ s.svc.gathering →
      ∃ t : State, exec (.gather g) s = .next t ∧ SameMemory s t ∧ t.svc.gathering = s.svc.gathering ++ [g] ∧
        ∀ i < c.nl, ∀ r < n, let l := Map.get {} s.svc.lanes (c.lanef + i)
          let src := lay.1 + l.aslot * lay.2.1 + n * c.j + r
          let dst := c.dest + n * i + r
          l.full = true → l.adapter = true → dst < mappedRows → s.mayAccess p 2 true dst = true →
            (src < mappedRows → s.mayAccess p 2 false src = true →
              ∃ q ∈ (t.tile p).reqs, q.cls = 3 ∧ q.row = src ∧ q.use = .toGather (32 + g) (c.lanef + i) dst) ∧
            (mappedRows ≤ src ∨ s.mayAccess p 2 false src = false →
              ∃ q ∈ (t.tile p).reqs, q.cls = 3 ∧ q.row = dst ∧
                q.use = .writeRx 0 (rep 64 0#8) (svcSrc + 32 + g) (c.lanef + i))) ∧
    (g ∈ s.svc.gathering ∨ s.tableBeat (c.ltile / 12) < c.start ∨ s.deckRuns = false → exec (.gather g) s = .next s) ∧
    (mine = [] ∨ s.tableBeat (c.ltile / 12) < c.done → exec (.gatherDeadline g) s = .next s) ∧
    (mine ≠ [] → c.done ≤ s.tableBeat (c.ltile / 12) → (∀ x ∈ mine, x.total ≤ x.done) →
      ∃ t : State, exec (.gatherDeadline g) s = .next t ∧ ended t ∧ t.hif = s.hif) ∧
    (c.done ≤ s.tableBeat (c.ltile / 12) → (nanRow lay.2.2).length = 64 →
      (∀ x ∈ mine, x.done < x.total → ∀ r < n, c.dest + n * (x.op - c.lanef) + r < mappedRows ∧
        s.mayAccess p 2 true (c.dest + n * (x.op - c.lanef) + r) = true) →
      ∀ x ∈ mine, x.done < x.total → ∃ t : State, exec (.gatherDeadline g) s = .next t ∧ ended t ∧
        Posted s t (srcTable (c.ltile / 12)) 2 0x6030 (faultTag c.ltile 0 true) 0 ∧
        ∀ r < n, ∃ q ∈ (t.tile p).reqs, q.cls = 3 ∧ q.row = c.dest + n * (x.op - c.lanef) + r ∧
          q.use = .writeRx 0 (nanRow lay.2.2) (svcKeep + 32 + g) x.op) ∧
    (c.done ≤ s.tableBeat (c.ltile / 12) → ∀ x ∈ mine, x.done < x.total →
      ∃ t u : State, exec (.gatherDeadline g) s = .next t ∧ ended t ∧
        Posted u t (srcTable (c.ltile / 12)) 2 0x6030 (faultTag c.ltile 0 true) 0)

/-- PARK_COMPLETE and RESTORE_COMPLETE (R206, R255, R342 to R345, R417): with a row of a park's segments to come nothing happens, unless the
SVC waits no longer for rows of other devices, which then count as unreachable with 0x4002: when it stops waiting is the model's choice
(log entry 21), as is the logical tile of its fault records. A park whose segments were read and fit is written to host memory with
its header last and the request ends with END 2; otherwise 0x6042 is raised and the park is void. A restored request is ACTIVE once its
rows are in their banks. Other requests stay. -/
def Obligations.ParkedRequestsLeaveAndReturn : Prop :=
  ∀ (s : State) (q : Request), s.req? q.id = some q →
    (∀ dst cap lossy giveUp, q.state = .parking → q.parkTo = some (dst, cap, lossy) →
      let x : SvcRead := (s.read? (.park q.id)).getD { id := s.svc.nextRead, key := .park q.id }
      let r := if q.slot = none then ([], false) else s.parkSegments q lossy x
      let gone := fun (t : State) => SameMemory s t ∧ t.svc.reqs = s.svc.reqs.filter (fun y => y.id != q.id)
      let stays := fun (t : State) => exec (.parkComplete q.id giveUp) s = .next t ∧ SameMemory s t ∧ t.out = s.out ∧
        t.svc.reqs = s.svc.reqs.map fun y => if y.id = q.id then { y with parkTo := none } else y
      let told := fun (u v : State) (code : Nat) => ∃ lt, Posted u v (srcTable q.table) 2 code (faultTag lt 0 true) 0
      (x.rows ≠ [] ∨ (x.far ≠ [] ∧ giveUp = false) → exec (.parkComplete q.id giveUp) s = .next s) ∧
      (x.rows = [] → x.far ≠ [] → giveUp = true → ∃ t u : State, stays t ∧ told s u 0x4002 ∧ told u t 0x6042) ∧
      (x.rows = [] → x.far = [] → x.bad = true ∨ cap < 64 + r.1.length → ∃ t : State, stays t ∧ told s t 0x6042) ∧
      (x.rows = [] → x.far = [] → x.bad = false → 64 + r.1.length ≤ cap → s.hif.leadValid = false → q.dups = 0 →
        ∃ (t : State) (head : List Byte), exec (.parkComplete q.id giveUp) s = .next t ∧ gone t ∧
          head.length = 64 ∧ head.take 8 = parkMagic ∧
          t.out = s.out ++ (if r.1 = [] then [] else [.hostWrite (dst + 64) r.1]) ++ [.hostWrite dst head] ∧
          Posted s t (srcTable q.table) 1 (if q.cancelled then 0x0011 else 0) q.id
            (termDetail q.delivered 2 false (q.lossy || r.2) q.version)) ∧
      (x.rows = [] → x.far = [] → x.bad = false → 64 + r.1.length ≤ cap →
        ∃ t : State, exec (.parkComplete q.id giveUp) s = .next t ∧ gone t)) ∧
    (∀ giveUp, q.state ≠ .parking ∨ q.parkTo = none → exec (.parkComplete q.id giveUp) s = .next s) ∧
    (q.state = .restoring → s.svcBusy restoreSrc q.id = false →
      exec (.restoreComplete q.id) s = .next (s.modReq q.id fun y => { y with state := .active })) ∧
    (q.state ≠ .restoring ∨ s.svcBusy restoreSrc q.id = true → exec (.restoreComplete q.id) s = .next s)

/-! ### Budgets and learning (R333, R364 to R367) -/

/-- BUDGET_PERIOD_END, GRANT_FROM_WAITING and PUBLICATION_SAMPLE (R333, R364, R365, R367, R378), on the running deck: at the end of a period each customer of the
table has its BUDGET, less any debt, and what was left of its balance joins the kitty up to its bound. A waiting grant is made when
its slot is free: the slot is granted, its word's row requested and one choice of the table counted, unless no handle grants it. In beat
2^k - 64 of a tick the published row of a standing grant is asked for, once, as a class L request; a row that may not be read gives no sample,
and nothing is raised. With the row in, it is the sample (log entry 21). -/
def Obligations.BudgetsGrantsAndPublications : Prop :=
  ∀ (s : State), s.deckRuns = true →
    (∀ tbl, tbl < 16 →
      let cs := (s.svc.custs.filter fun e => e.2.table == tbl).map (·.1)
      (s.beat ≠ 0 ∨ s.periodEnds tbl s.tick = false → exec (.budgetPeriodEnd tbl) s = .next s) ∧
      (s.beat = 0 → s.periodEnds tbl s.tick = true → cs.Nodup → cs ≠ [] →
        ∃ t : State, exec (.budgetPeriodEnd tbl) s = .next t ∧ t = { s with svc := t.svc } ∧
          (∀ c ∈ cs, (t.svc.cust c).balance = (s.svc.cust c).budget + min (s.svc.cust c).balance 0) ∧
          (∀ c, c ∉ cs → t.svc.cust c = s.svc.cust c) ∧
          (t.svc.table tbl).kitty =
            min ((s.svc.table tbl).kitty + (cs.map fun c => (max (s.svc.cust c).balance 0).toNat).sum) (s.serveTable tbl).kittyMax) ∧
      (s.beat = 0 → s.periodEnds tbl s.tick = true → cs = [] →
        ∃ t : State, exec (.budgetPeriodEnd tbl) s = .next t ∧ t = { s with svc := t.svc } ∧ t.svc.custs = s.svc.custs ∧
          (t.svc.table tbl).kitty = (s.svc.table tbl).kitty)) ∧
    (∀ i r, s.learnRec i = some r →
      (s.beat ≠ 0 ∨ (s.svc.rec_ i).gstate ≠ 1 ∨ (s.table r.ltable).phase ≠ 3 ∨ (s.svc.slot (s.grantTarget r)).state ≠ 0 →
        exec (.grantFromWaiting i) s = .next s) ∧
      (∀ p row, s.beat = 0 → (s.svc.rec_ i).gstate = 1 → (s.table r.ltable).phase = 3 → s.rowHere r.grantRow = some (p, row) →
        let slot := s.grantTarget r
        (s.svc.slot slot).state = 0 →
        (s.mayAccess p 2 true row = false → ∃ t : State, exec (.grantFromWaiting i) s = .next t ∧ SameMemory s t ∧
          (t.svc.rec_ i).gstate = 0 ∧ t.svc.slot slot = s.svc.slot slot) ∧
        (s.mayAccess p 2 true row = true → row < mappedRows → ∃ t : State, exec (.grantFromWaiting i) s = .next t ∧ SameMemory s t ∧
          (t.svc.rec_ i).gstate = 2 ∧ (t.svc.rec_ i).grantVer = s.grantVersion r ∧ (t.svc.slot slot).state = 3 ∧
          (t.table r.ltable).choice = min ((s.table r.ltable).choice + 1) (2 ^ 64 - 1) ∧
          (t.svc.slot slot).ad = r.adnum ∧ (t.svc.slot slot).version = s.grantVersion r ∧
          ∃ q ∈ (t.tile p).reqs, q.cls = 3 ∧ q.row = row ∧ ∃ a b,
            q.use = .writeRx 0 (leBytes 8 (slot % 4096 + 2 ^ 31 + s.grantVersion r % 2 ^ 32 * 2 ^ 32) ++ rep 56 0) a b))) ∧
    (∀ i r, s.learnRec i = some r →
      ((s.svc.rec_ i).gstate ≠ 2 ∨ (s.svc.rec_ i).asked = true ∨ s.beat ≠ s.tickLen - 64 ∨ s.rowHere r.pubRow = none →
        exec (.publicationSample i) s = .next s) ∧
      (∀ p row, s.rowHere r.pubRow = some (p, row) → (s.svc.rec_ i).gstate = 2 → (s.svc.rec_ i).asked = false → s.beat = s.tickLen - 64 →
        s.sramOff = false →
        let id := s.svc.nextRead
        ∃ t y, exec (.publicationSample i) s = .next t ∧ SameMemory s t ∧ t.hif = s.hif ∧ (t.svc.rec_ i).asked = true ∧
          (∀ j, j ≠ i → t.svc.rec_ j = s.svc.rec_ j) ∧ y ∈ t.svc.reads ∧ y.id = id ∧ y.key = .pub i ∧
          (row < mappedRows → s.mayAccess p 2 false row = true → y.bad = false ∧ y.rows = [(p, row, 0)] ∧
            ∃ q ∈ (t.tile p).reqs, q.cls = 3 ∧ q.row = row ∧ q.use = .toSvc id 0) ∧
          (mappedRows ≤ row ∨ s.mayAccess p 2 false row = false → y.bad = true ∧ y.rows = [])) ∧
      (∀ y, s.svc.reads = [y] → y.key = .pub i → y.rows = [] → y.far = [] →
        let t := s.takeReads
        t.svc.reads = [] ∧ (t.svc.rec_ i).sample = (if y.bad then none else some (readCells y.buf 0 64)) ∧
          ∀ j, j ≠ i → t.svc.rec_ j = s.svc.rec_ j))
end

