-- ==== Sys2Proof/Laws/Map.lean ====
section
/-! SUPPORT. Sparse maps: what a lookup gives after an update, and that updates keep the canonical form (keys rising,
no entry equal to the default). -/

namespace Sys2Proof.Machine

variable {α : Type}

theorem Map.get_put (d : α) (m : List (Nat × α)) (i : Nat) (v : α) (j : Nat) :
    Map.get d (Map.put m i v) j = if j = i then v else Map.get d m j := by
  induction m with
  | nil =>
    by_cases h : j = i
    · simp [Map.put, Map.get, h]
    · simp [Map.put, Map.get, h, Ne.symm h]
  | cons x m ih =>
    obtain ⟨k, w⟩ := x
    simp only [Map.put]
    by_cases h1 : i < k
    · by_cases h : j = i
      · simp [h1, Map.get, h]
      · have h' : i ≠ j := fun e => h e.symm
        simp [h1, Map.get, h, h']
    · by_cases h2 : i = k
      · subst h2
        by_cases h : j = i
        · simp [Map.get, h]
        · have h' : i ≠ j := fun e => h e.symm
          simp [Map.get, h, h']
      · by_cases h3 : k = j
        · subst h3
          have h2' : k ≠ i := fun e => h2 e.symm
          simp [h1, h2, Map.get, h2']
        · simp [h1, h2, Map.get, h3, ih]

/-- A lower bound of every key. -/
def Map.above (lo : Option Nat) (k : Nat) : Prop := ∀ l, lo = some l → l < k

theorem Map.wfFrom_cons [DecidableEq α] (d : α) (lo : Option Nat) (k : Nat) (v : α) (m : List (Nat × α)) :
    Map.wfFrom d lo ((k, v) :: m) = true ↔ Map.above lo k ∧ v ≠ d ∧ Map.wfFrom d (some k) m = true := by
  cases lo <;> simp [Map.wfFrom, Map.above, and_assoc]

theorem Map.wfFrom_weaken [DecidableEq α] (d : α) {lo lo' : Option Nat} (m : List (Nat × α))
    (h : Map.wfFrom d lo m = true) (hl : ∀ k, Map.above lo k → Map.above lo' k) : Map.wfFrom d lo' m = true := by
  cases m with
  | nil => simp [Map.wfFrom]
  | cons x m =>
    obtain ⟨k, w⟩ := x
    rw [Map.wfFrom_cons] at h ⊢
    exact ⟨hl k h.1, h.2⟩

theorem Map.wfFrom_put [DecidableEq α] (d : α) (lo : Option Nat) (m : List (Nat × α)) (i : Nat) (v : α)
    (h : Map.wfFrom d lo m = true) (hi : Map.above lo i) (hv : v ≠ d) : Map.wfFrom d lo (Map.put m i v) = true := by
  induction m generalizing lo with
  | nil => simp only [Map.put]; rw [Map.wfFrom_cons]; exact ⟨hi, hv, by simp [Map.wfFrom]⟩
  | cons x m ih =>
    obtain ⟨k, w⟩ := x
    rw [Map.wfFrom_cons] at h
    simp only [Map.put]
    split
    · rename_i hlt
      rw [Map.wfFrom_cons, Map.wfFrom_cons]
      exact ⟨hi, hv, fun l e => by cases e; exact hlt, h.2⟩
    · split
      · rename_i e
        subst e
        rw [Map.wfFrom_cons]
        exact ⟨hi, hv, h.2.2⟩
      · rw [Map.wfFrom_cons]
        exact ⟨h.1, h.2.1, ih (some k) h.2.2 fun l e => by cases e; omega⟩

theorem Map.wfFrom_erase [DecidableEq α] (d : α) (lo : Option Nat) (m : List (Nat × α)) (i : Nat)
    (h : Map.wfFrom d lo m = true) : Map.wfFrom d lo (Map.erase m i) = true := by
  induction m generalizing lo with
  | nil => simpa [Map.erase] using h
  | cons x m ih =>
    obtain ⟨k, w⟩ := x
    rw [Map.wfFrom_cons] at h
    simp only [Map.erase]
    split
    · exact Map.wfFrom_weaken d _ (ih (some k) h.2.2) fun j hj l e => Nat.lt_trans (h.1 l e) (hj k rfl)
    · rw [Map.wfFrom_cons]
      exact ⟨h.1, h.2.1, ih (some k) h.2.2⟩

/-- An update keeps the canonical form. -/
theorem Map.wf_set [DecidableEq α] (d : α) (m : List (Nat × α)) (i : Nat) (v : α) (h : Map.wf d m = true) :
    Map.wf d (Map.set d m i v) = true := by
  unfold Map.wf Map.set at *
  split
  · exact Map.wfFrom_erase d none m i h
  · rename_i hv
    exact Map.wfFrom_put d none m i v h (fun l e => by cases e) hv

theorem Map.get_erase_of_ne (d : α) (m : List (Nat × α)) (i j : Nat) (h : j ≠ i) :
    Map.get d (Map.erase m i) j = Map.get d m j := by
  induction m with
  | nil => simp [Map.erase]
  | cons x m ih =>
    obtain ⟨k, w⟩ := x
    simp only [Map.erase]
    split
    · rename_i e
      subst e
      simp [Map.get, h.symm, ih]
    · simp [Map.get, ih]

/-- An update leaves every other key alone. -/
theorem Map.get_set_of_ne [DecidableEq α] (d : α) (m : List (Nat × α)) (i : Nat) (v : α) (j : Nat) (h : j ≠ i) :
    Map.get d (Map.set d m i v) j = Map.get d m j := by
  unfold Map.set
  split
  · exact Map.get_erase_of_ne d m i j h
  · simp [Map.get_put, h]

/-- An erased key reads as the default. -/
theorem Map.get_erase_self (d : α) (m : List (Nat × α)) (i : Nat) : Map.get d (Map.erase m i) i = d := by
  induction m with
  | nil => rfl
  | cons x m ih =>
    obtain ⟨k, w⟩ := x
    simp only [Map.erase]
    split
    · exact ih
    · rename_i e
      simp only [Map.get, if_neg fun e' : k = i => e e'.symm]
      exact ih

/-- An update is read back. -/
theorem Map.get_set_self [DecidableEq α] (d : α) (m : List (Nat × α)) (i : Nat) (v : α) :
    Map.get d (Map.set d m i v) i = v := by
  unfold Map.set
  split
  · rename_i e
    rw [e]
    exact Map.get_erase_self d m i
  · simp [Map.get_put]

/-- A lookup after an update. -/
theorem Map.get_set [DecidableEq α] (d : α) (m : List (Nat × α)) (i : Nat) (v : α) (j : Nat) :
    Map.get d (Map.set d m i v) j = if j = i then v else Map.get d m j := by
  split
  · rename_i e; subst e; exact Map.get_set_self d m j v
  · rename_i e; exact Map.get_set_of_ne d m i v j e

/-! ### Byte maps -/

theorem writeCells_wf (m : List Host.Cell) (a : Nat) (l : List Byte) (h : Map.wf 0#8 m = true) :
    Map.wf 0#8 (writeCells m a l) = true := by
  induction l generalizing m a with
  | nil => exact h
  | cons b l ih => exact ih _ _ (Map.wf_set 0#8 m a b h)

/-- Bytes outside those written read as before. -/
theorem writeCells_other (m : List Host.Cell) (a : Nat) (l : List Byte) (j : Nat) (h : j < a ∨ a + l.length ≤ j) :
    Map.get 0#8 (writeCells m a l) j = Map.get 0#8 m j := by
  induction l generalizing m a with
  | nil => rfl
  | cons b l ih =>
    simp only [List.length_cons] at h
    rw [writeCells, ih _ _ (by omega), Map.get_set_of_ne _ _ _ _ _ (by omega)]

/-- A byte written is read back. -/
theorem writeCells_read (m : List Host.Cell) (a : Nat) (l : List Byte) (i : Nat)
    (hi : i < l.length) : Map.get 0#8 (writeCells m a l) (a + i) = l.getD i 0#8 := by
  induction l generalizing m a i with
  | nil => simp at hi
  | cons b l ih =>
    rw [writeCells]
    cases i with
    | zero => rw [writeCells_other _ _ _ _ (by omega)]; simp [Map.get_set_self]
    | succ i =>
      have := ih (Map.set 0#8 m a b) (a + 1) i (by simpa using hi)
      rw [show a + (i + 1) = a + 1 + i by omega, this]
      simp

/-! ### Reads of other units after an update -/

theorem State.tile_setTile (s : State) (p q : Nat) (t : Tile) :
    (s.setTile p t).tile q = if q = p then t else s.tile q := Map.get_set _ _ _ _ _
theorem State.port_setPort (s : State) (n m : Nat) (x : Port) :
    (s.setPort n x).port m = if m = n then x else s.port m := Map.get_set _ _ _ _ _
theorem State.table_setTable (s : State) (n m : Nat) (x : Table) :
    (s.setTable n x).table m = if m = n then x else s.table m := Map.get_set _ _ _ _ _
theorem State.tile_setTile_ne (s : State) (p q : Nat) (t : Tile) (h : q ≠ p) : (s.setTile p t).tile q = s.tile q :=
  Map.get_set_of_ne _ _ _ _ _ h
theorem State.port_setPort_ne (s : State) (n m : Nat) (x : Port) (h : m ≠ n) : (s.setPort n x).port m = s.port m :=
  Map.get_set_of_ne _ _ _ _ _ h
theorem State.table_setTable_ne (s : State) (n m : Nat) (x : Table) (h : m ≠ n) : (s.setTable n x).table m = s.table m :=
  Map.get_set_of_ne _ _ _ _ _ h

/-! ### Tile memory (R156) -/

theorem State.pokeBytes_mem (s : State) (p off : Nat) (l : List Byte) :
    (s.pokeBytes p off l).mem = writeCells s.mem (memKey p off) l := rfl

theorem State.pokeBytes_wf (s : State) (p off : Nat) (l : List Byte) (h : Map.wf 0#8 s.mem = true) :
    Map.wf 0#8 (s.pokeBytes p off l).mem = true := writeCells_wf _ _ _ h

/-- A poke leaves every byte outside its range alone. -/
theorem State.readByte_pokeBytes_other (s : State) (p off q o : Nat) (l : List Byte)
    (h : memKey q o < memKey p off ∨ memKey p off + l.length ≤ memKey q o) :
    (s.pokeBytes p off l).readByte q o = s.readByte q o := writeCells_other _ _ _ _ h

/-- A poke is read back. -/
theorem State.readByte_pokeBytes (s : State) (p off i : Nat) (l : List Byte)
    (hi : i < l.length) : (s.pokeBytes p off l).readByte p (off + i) = l.getD i 0#8 := by
  have : memKey p (off + i) = memKey p off + i := by simp [memKey]; omega
  simp only [State.readByte, State.pokeBytes_mem, this]
  exact writeCells_read _ _ _ _ hi

/-- A row write keeps the canonical form, its mirror copy included (R391). -/
theorem State.writeRow_wf (s : State) (p row lo : Nat) (l : List Byte) (h : Map.wf 0#8 s.mem = true) :
    Map.wf 0#8 (s.writeRow p row lo l).mem = true := by
  unfold State.writeRow
  simp only
  split
  · exact State.pokeBytes_wf _ _ _ _ (State.pokeBytes_wf _ _ _ _ h)
  · exact State.pokeBytes_wf _ _ _ _ h

/-- An accumulator write keeps the canonical form (R111). -/
theorem State.writeAcc_wf (s : State) (p a : Nat) (l : List Byte) (h : Map.wf 0#8 s.acc = true) :
    Map.wf 0#8 (s.writeAcc p a l).acc = true := by
  unfold State.writeAcc
  simp only
  split
  · exact writeCells_wf _ _ _ (writeCells_wf _ _ _ h)
  · exact writeCells_wf _ _ _ h

end Sys2Proof.Machine
end

