-- ==== Sys2Proof/Laws/Kept.lean ====
section
/-! SUPPORT. What every operation of the block keeps: the fused identity, the commands that wait, the outputs so far,
the free values drawn, the legality of the state (`Moved`), and the count unless the operation sets it (`Kept`). The
files Laws/Kept*.lean state it once per operation. -/

namespace Sys2Proof.Machine

/-- A state reached from another without undoing what nothing may undo. -/
structure Moved (s0 s : State) : Prop where
  grade : s.grade = s0.grade
  stepping : s.stepping = s0.stepping
  pending : s.pending = s0.pending
  drawn : s0.freeIdx ≤ s.freeIdx
  out : s0.out <+: s.out
  legal : Legal s

/-- The same, and the count stands. -/
structure Kept (s0 s : State) : Prop extends Moved s0 s where
  count : s.rcu.count = s0.rcu.count

theorem Moved.refl {s : State} (h : Legal s) : Moved s s :=
  ⟨rfl, rfl, rfl, Nat.le_refl _, List.prefix_refl _, h⟩

theorem Moved.trans {s0 s1 s2 : State} (h : Moved s0 s1) (g : Moved s1 s2) : Moved s0 s2 :=
  ⟨g.grade.trans h.grade, g.stepping.trans h.stepping, g.pending.trans h.pending, Nat.le_trans h.drawn g.drawn,
    h.out.trans g.out, g.legal⟩

theorem Kept.refl {s : State} (h : Legal s) : Kept s s := ⟨Moved.refl h, rfl⟩

theorem Kept.trans {s0 s1 s2 : State} (h : Kept s0 s1) (g : Kept s1 s2) : Kept s0 s2 :=
  ⟨h.toMoved.trans g.toMoved, g.count.trans h.count⟩

/-- An operation that keeps the count, after one that may have moved it. -/
theorem moved_of {s0 s t : State} (k : Legal s → Kept s t) (h : Moved s0 s) : Moved s0 t := h.trans (k h.legal).toMoved

/-- Changing only parts that `Moved` does not read. -/
theorem moved_mk {s0 u : State} {tiles tables xbar ports lnk svc tly pwr mgc} {hif : Hif} {out : List Out} {n age fused : Nat}
    {mem acc : List Host.Cell} {bad : List (Nat × Bool)} {rcu : Rcu} {dck : Dck} (h : Moved s0 u)
    (hn : u.freeIdx ≤ n) (ho : u.out <+: out) (hm : Map.wf 0#8 u.mem = true → Map.wf 0#8 mem = true)
    (ha : Map.wf 0#8 u.acc = true → Map.wf 0#8 acc = true) (hb : Map.wf false u.accBad = true → Map.wf false bad = true)
    (hr : 11 ≤ u.rcu.k ∧ u.rcu.k ≤ 16 ∧ u.rcu.role ≤ 2 → 11 ≤ rcu.k ∧ rcu.k ≤ 16 ∧ rcu.role ≤ 2)
    (hd : u.dck.devices ≤ 1024 → dck.devices ≤ 1024) :
    Moved s0 (State.mk u.pending n out age u.grade u.stepping fused mem acc bad tiles tables xbar ports lnk rcu dck hif svc tly pwr mgc) :=
  ⟨h.grade, h.stepping, h.pending, Nat.le_trans h.drawn hn, h.out.trans ho,
    ⟨hm h.legal.mem, ha h.legal.acc, hb h.legal.bad, (hr ⟨h.legal.tickLow, h.legal.tickHigh, h.legal.role⟩).1,
      (hr ⟨h.legal.tickLow, h.legal.tickHigh, h.legal.role⟩).2.1, (hr ⟨h.legal.tickLow, h.legal.tickHigh, h.legal.role⟩).2.2,
      hd h.legal.devices⟩⟩

/-- Changing only parts that `Kept` does not read. -/
theorem kept_mk {s0 u : State} {tiles tables xbar ports lnk svc tly pwr mgc} {hif : Hif} {out : List Out} {n age fused : Nat}
    {mem acc : List Host.Cell} {bad : List (Nat × Bool)} {rcu : Rcu} {dck : Dck} (h : Kept s0 u)
    (hn : u.freeIdx ≤ n) (ho : u.out <+: out) (hm : Map.wf 0#8 u.mem = true → Map.wf 0#8 mem = true)
    (ha : Map.wf 0#8 u.acc = true → Map.wf 0#8 acc = true) (hb : Map.wf false u.accBad = true → Map.wf false bad = true)
    (hc : rcu.count = u.rcu.count)
    (hr : 11 ≤ u.rcu.k ∧ u.rcu.k ≤ 16 ∧ u.rcu.role ≤ 2 → 11 ≤ rcu.k ∧ rcu.k ≤ 16 ∧ rcu.role ≤ 2)
    (hd : u.dck.devices ≤ 1024 → dck.devices ≤ 1024) :
    Kept s0 (State.mk u.pending n out age u.grade u.stepping fused mem acc bad tiles tables xbar ports lnk rcu dck hif svc tly pwr mgc) :=
  ⟨moved_mk h.toMoved hn ho hm ha hb hr hd, hc.trans h.count⟩

/-- The same where the RCU's tick exponent, role and count, and the job's device count, stand as they were. -/
theorem kept_upd {s0 u : State} {tiles tables xbar ports lnk svc tly pwr mgc} {hif : Hif} {rcu : Rcu} {dck : Dck} {age fused : Nat}
    (hk : rcu.k = u.rcu.k) (hr : rcu.role = u.rcu.role) (hc : rcu.count = u.rcu.count) (hd : dck.devices = u.dck.devices)
    (h : Kept s0 u) :
    Kept s0 (State.mk u.pending u.freeIdx u.out age u.grade u.stepping fused u.mem u.acc u.accBad tiles tables xbar ports lnk rcu dck hif
      svc tly pwr mgc) :=
  kept_mk h (Nat.le_refl _) (List.prefix_refl _) (fun h => h) (fun h => h) (fun h => h) hc
    (fun h => by rw [hk, hr]; exact h) (fun h => by rw [hd]; exact h)

/-- The same for `Moved`. -/
theorem moved_upd {s0 u : State} {tiles tables xbar ports lnk svc tly pwr mgc} {hif : Hif} {rcu : Rcu} {dck : Dck} {age fused : Nat}
    (hk : rcu.k = u.rcu.k) (hr : rcu.role = u.rcu.role) (hd : dck.devices = u.dck.devices) (h : Moved s0 u) :
    Moved s0 (State.mk u.pending u.freeIdx u.out age u.grade u.stepping fused u.mem u.acc u.accBad tiles tables xbar ports lnk rcu dck hif
      svc tly pwr mgc) :=
  moved_mk h (Nat.le_refl _) (List.prefix_refl _) (fun h => h) (fun h => h) (fun h => h)
    (fun h => by rw [hk, hr]; exact h) (fun h => by rw [hd]; exact h)

theorem moved_foldl {α : Type} {s0 : State} {f : State → α → State} (hf : ∀ s x, Moved s0 s → Moved s0 (f s x)) :
    ∀ (l : List α) (s : State), Moved s0 s → Moved s0 (l.foldl f s)
  | [], _, h => h
  | x :: l, s, h => moved_foldl hf l (f s x) (hf s x h)

theorem moved_of_fst {β : Type} {s0 a : State} {p : State × β} {b : β} (e : p = (a, b)) (h : Moved s0 p.1) : Moved s0 a := by
  rw [e] at h; exact h

theorem kept_foldl {α : Type} {s0 : State} {f : State → α → State} (hf : ∀ s x, Kept s0 s → Kept s0 (f s x)) :
    ∀ (l : List α) (s : State), Kept s0 s → Kept s0 (l.foldl f s)
  | [], _, h => h
  | x :: l, s, h => kept_foldl hf l (f s x) (hf s x h)

/-- The same for a fold that carries something beside the state. -/
theorem kept_foldl_fst {α β : Type} {s0 : State} {f : State × β → α → State × β}
    (hf : ∀ s x, Kept s0 s.1 → Kept s0 (f s x).1) :
    ∀ (l : List α) (s : State × β), Kept s0 s.1 → Kept s0 (l.foldl f s).1
  | [], _, h => h
  | x :: l, s, h => kept_foldl_fst hf l (f s x) (hf s x h)

theorem kept_of_fst {β : Type} {s0 a : State} {p : State × β} {b : β} (e : p = (a, b)) (h : Kept s0 p.1) : Kept s0 a := by
  rw [e] at h; exact h

/-- A meaning that completes keeps it. -/
def KeptRes (s0 : State) (r : Res) : Prop := ∀ t, r = .next t → Kept s0 t

theorem keptRes_next {s0 s : State} (h : Kept s0 s) : KeptRes s0 (.next s) := fun t e => by cases e; exact h
theorem keptRes_fault {s0 : State} (f : Fault) : KeptRes s0 (.fault f) := fun t e => by cases e
theorem keptRes_within {s0 : State} {i n : Nat} {r : Res} (h : KeptRes s0 r) : KeptRes s0 (within i n r) := by
  unfold within
  split
  · exact h
  · exact keptRes_fault _
/-- A meaning that completes moves it. -/
def MovedRes (s0 : State) (r : Res) : Prop := ∀ t, r = .next t → Moved s0 t

theorem movedRes_next {s0 s : State} (h : Moved s0 s) : MovedRes s0 (.next s) := fun t e => by cases e; exact h
theorem movedRes_fault {s0 : State} (f : Fault) : MovedRes s0 (.fault f) := fun t e => by cases e
theorem movedRes_within {s0 : State} {i n : Nat} {r : Res} (h : MovedRes s0 r) : MovedRes s0 (within i n r) := by
  unfold within
  split
  · exact h
  · exact movedRes_fault _

theorem movedRes_of {s0 s : State} {r : Res} (k : Legal s → KeptRes s r) (h : Moved s0 s) : MovedRes s0 r :=
  fun t e => h.trans (k h.legal t e).toMoved
theorem moved_orKeep {s0 s : State} {r : Res} (hr : MovedRes s0 r) (h : Moved s0 s) : Moved s0 (orKeep r s) := by
  unfold orKeep
  split
  · exact hr _ rfl
  · exact h

theorem kept_orKeep {s0 s : State} {r : Res} (hr : KeptRes s0 r) (h : Kept s0 s) : Kept s0 (orKeep r s) := by
  unfold orKeep
  split
  · exact hr _ rfl
  · exact h

end Sys2Proof.Machine
end

