-- ==== Sys2Proof/Laws/KeptOps.lean ====
section
/-! SUPPORT. What the shared operations, the arbiter of tile memory, host memory and transfers keep (`Kept`): one lemma for each operation and for each command. -/

namespace Sys2Proof.Machine

/-! ### Machine/Ops.lean -/

theorem State.setTile_kept {s0 : State} (s : State) (p : Nat) (t : Tile) (h : Kept s0 s) : Kept s0 (State.setTile s p
    t) := by
  unfold State.setTile
  repeat' with_reducible first
    | assumption
    | fail_if_no_progress apply kept_upd (by rfl) (by rfl) (by rfl) (by rfl)

theorem State.modTile_kept {s0 : State} (s : State) (p : Nat) (f : Tile → Tile) (h : Kept s0 s) : Kept s0
    (State.modTile s p f) := by
  unfold State.modTile
  repeat' with_reducible first
    | assumption
    | apply State.setTile_kept

theorem State.setTable_kept {s0 : State} (s : State) (t : Nat) (x : Table) (h : Kept s0 s) : Kept s0 (State.setTable s
    t x) := by
  unfold State.setTable
  repeat' with_reducible first
    | assumption
    | fail_if_no_progress apply kept_upd (by rfl) (by rfl) (by rfl) (by rfl)

theorem State.modTable_kept {s0 : State} (s : State) (t : Nat) (f : Table → Table) (h : Kept s0 s) : Kept s0
    (State.modTable s t f) := by
  unfold State.modTable
  repeat' with_reducible first
    | assumption
    | apply State.setTable_kept

theorem State.addChoice_kept {s0 : State} (s : State) (tbl n : Nat) (h : Kept s0 s) : Kept s0 (State.addChoice s tbl
    n) := by
  unfold State.addChoice
  repeat' with_reducible first
    | assumption
    | apply State.modTable_kept

theorem State.setPort_kept {s0 : State} (s : State) (n : Nat) (x : Port) (h : Kept s0 s) : Kept s0 (State.setPort s n
    x) := by
  unfold State.setPort
  repeat' with_reducible first
    | assumption
    | fail_if_no_progress apply kept_upd (by rfl) (by rfl) (by rfl) (by rfl)

theorem State.modPort_kept {s0 : State} (s : State) (n : Nat) (f : Port → Port) (h : Kept s0 s) : Kept s0
    (State.modPort s n f) := by
  unfold State.modPort
  repeat' with_reducible first
    | assumption
    | apply State.setPort_kept

theorem State.modFn_kept {s0 : State} (s : State) (f : Fn) (g : FnState → FnState) (h : Kept s0 s) : Kept s0
    (State.modFn s f g) := by
  unfold State.modFn
  repeat' with_reducible first
    | assumption
    | fail_if_no_progress apply kept_upd (by rfl) (by rfl) (by rfl) (by rfl)

theorem State.setCr_kept {s0 : State} (s : State) (f : Fn) (i : Nat) (r : CmdRing) (h : Kept s0 s) : Kept s0
    (State.setCr s f i r) := by
  unfold State.setCr
  repeat' with_reducible first
    | assumption
    | apply State.modFn_kept

theorem State.modAcc_kept {s0 : State} (s : State) (id : Nat) (g : HostAcc → HostAcc) (h : Kept s0 s) : Kept s0
    (State.modAcc s id g) := by
  unfold State.modAcc
  repeat' with_reducible first
    | assumption
    | fail_if_no_progress apply kept_upd (by rfl) (by rfl) (by rfl) (by rfl)

theorem State.setRr_kept {s0 : State} (s : State) (f : Fn) (i : Nat) (r : RecRing) (h : Kept s0 s) : Kept s0
    (State.setRr s f i r) := by
  unfold State.setRr
  repeat' with_reducible first
    | assumption
    | apply State.modFn_kept

theorem State.emit_kept {s0 : State} (s : State) (o : Out) (h : Kept s0 s) : Kept s0 (State.emit s o) := kept_mk h (Nat.le_refl _) (List.prefix_append _ _) (fun h => h) (fun h => h) (fun h => h) rfl (fun h => h) (fun h => h)

theorem State.pokeBytes_kept {s0 : State} (s : State) (p : Nat) (off : Nat) (l : List Byte) (h : Kept s0 s) : Kept s0 (State.pokeBytes s p off l) := kept_mk h (Nat.le_refl _) (List.prefix_refl _) (writeCells_wf _ _ _) (fun h => h) (fun h => h) rfl (fun h => h) (fun h => h)

theorem State.writeRow_kept {s0 : State} (s : State) (p row lo : Nat) (l : List Byte) (h : Kept s0 s) : Kept s0
    (State.writeRow s p row lo l) := by
  unfold State.writeRow
  try dsimp only
  repeat' with_reducible first
    | assumption
    | apply State.pokeBytes_kept
    | apply State.modTable_kept
    | fail_if_no_progress apply kept_upd (by rfl) (by rfl) (by rfl) (by rfl)
    | split

theorem State.modSeat_kept {s0 : State} (s : State) (p : Nat) (f : Tile → Tile) (h : Kept s0 s) : Kept s0
    (State.modSeat s p f) := by
  unfold State.modSeat
  try dsimp only
  repeat' with_reducible first
    | assumption
    | apply State.modTile_kept
    | split

theorem State.writeAcc_kept {s0 : State} (s : State) (p a : Nat) (l : List Byte) (h : Kept s0 s) : Kept s0
    (State.writeAcc s p a l) := by
  have h1 : ∀ (u : State) (m : Nat), Kept s0 u → Kept s0 { u with acc := writeCells u.acc m l } := fun u m hu =>
    kept_mk hu (Nat.le_refl _) (List.prefix_refl _) (fun h => h) (writeCells_wf _ _ _) (fun h => h) rfl (fun h => h) (fun h => h)
  unfold State.writeAcc
  dsimp only
  split
  · exact h1 _ _ (h1 _ _ h)
  · exact h1 _ _ h

theorem State.setHalf_kept {s0 : State} (s : State) (p : Nat) (h_ : Nat) (valid : Bool) (h : Kept s0 s) : Kept s0
    (State.setHalf s p h_ valid) := by
  refine kept_mk h (Nat.le_refl _) (List.prefix_refl _) (fun h => h) (fun h => h) (fun hb => ?_) rfl (fun h => h) (fun h => h)
  dsimp only
  split
  · exact Map.wf_set _ _ _ _ (Map.wf_set _ _ _ _ hb)
  · exact Map.wf_set _ _ _ _ hb

theorem State.setHalves_kept {s0 : State} (s : State) (p : Nat) (hs : List Nat) (valid : Bool) (h : Kept s0 s) : Kept
    s0 (State.setHalves s p hs valid) := by
  unfold State.setHalves
  repeat' with_reducible first
    | assumption
    | apply State.setHalf_kept
    | refine kept_foldl (fun s1 x1 h1 => ?_) _ _ ?_

theorem State.setAccEntry_kept {s0 : State} (s : State) (p : Nat) (lacc : Bool) (row n v : Nat) (h : Kept s0 s) : Kept
    s0 (State.setAccEntry s p lacc row n v) := by
  unfold State.setAccEntry
  repeat' with_reducible first
    | assumption
    | apply State.writeAcc_kept

theorem State.setQueue_kept {s0 : State} (s : State) (key : Nat) (q : SrcQ) (h : Kept s0 s) : Kept s0 (State.setQueue
    s key q) := by
  unfold State.setQueue
  repeat' with_reducible first
    | assumption
    | fail_if_no_progress apply kept_upd (by rfl) (by rfl) (by rfl) (by rfl)

theorem State.raise_kept {s0 : State} (s : State) (src kind status tag detail : Nat) (h : Kept s0 s) : Kept s0
    (State.raise s src kind status tag detail) := by
  unfold State.raise
  repeat' with_reducible first
    | assumption
    | apply State.setQueue_kept
    | fail_if_no_progress apply kept_upd (by rfl) (by rfl) (by rfl) (by rfl)

theorem State.addTele_kept {s0 : State} (s : State) (count dev : Nat) (data : List Byte) (h : Kept s0 s) : Kept s0
    (State.addTele s count dev data) := by
  unfold State.addTele
  repeat' with_reducible first
    | assumption
    | apply State.setQueue_kept
    | fail_if_no_progress apply kept_upd (by rfl) (by rfl) (by rfl) (by rfl)

theorem State.raiseMgc_kept {s0 : State} (s : State) (code : Nat) (detail : optParam Nat 0) (h : Kept s0 s) : Kept s0
    (State.raiseMgc s code detail) := by
  unfold State.raiseMgc
  repeat' with_reducible first
    | assumption
    | apply State.raise_kept

theorem State.noticeMgc_kept {s0 : State} (s : State) (code : Nat) (detail : optParam Nat 0) (h : Kept s0 s) : Kept s0
    (State.noticeMgc s code detail) := by
  unfold State.noticeMgc
  repeat' with_reducible first
    | assumption
    | apply State.raise_kept

theorem State.raisePort_kept {s0 : State} (s : State) (n code : Nat) (h : Kept s0 s) : Kept s0 (State.raisePort s n
    code) := by
  unfold State.raisePort
  repeat' with_reducible first
    | assumption
    | apply State.raise_kept
    | apply State.modPort_kept

theorem State.raiseTile_kept {s0 : State} (s : State) (p bundle code : Nat) (detail : optParam Nat 0) (h : Kept s0 s)
    : Kept s0 (State.raiseTile s p bundle code detail) := by
  unfold State.raiseTile
  repeat' with_reducible first
    | assumption
    | apply State.raise_kept

theorem State.raiseExt_kept {s0 : State} (s : State) (p code : Nat) (detail : optParam Nat 0) (h : Kept s0 s) : Kept
    s0 (State.raiseExt s p code detail) := by
  unfold State.raiseExt
  repeat' with_reducible first
    | assumption
    | apply State.raise_kept

theorem State.suspect_kept {s0 : State} (s : State) (p : Nat) (h : Kept s0 s) : Kept s0 (State.suspect s p) := by
  unfold State.suspect
  repeat' with_reducible first
    | assumption
    | fail_if_no_progress apply kept_upd (by rfl) (by rfl) (by rfl) (by rfl)

theorem State.raiseDeadline_kept {s0 : State} (s : State) (p bundle code : Nat) (h : Kept s0 s) : Kept s0
    (State.raiseDeadline s p bundle code) := by
  unfold State.raiseDeadline
  try dsimp only
  repeat' with_reducible first
    | assumption
    | apply State.raiseTile_kept
    | apply State.suspect_kept
    | apply State.setTable_kept
    | fail_if_no_progress apply kept_upd (by rfl) (by rfl) (by rfl) (by rfl)
    | split

theorem State.drawFree_kept {s0 : State} (s : State) (h : Kept s0 s) : Kept s0 (State.drawFree s).1 := kept_mk h (Nat.le_succ _) (List.prefix_refl _) (fun h => h) (fun h => h) (fun h => h) rfl (fun h => h) (fun h => h)

theorem State.raiseSvc_kept {s0 : State} (s : State) (tbl code : Nat) (h : Kept s0 s) : Kept s0
    (State.raiseSvc s tbl code) := by
  unfold State.raiseSvc
  try dsimp only
  repeat' with_reducible first
    | assumption
    | apply State.drawFree_kept
    | apply State.raise_kept

/-! ### Machine/Arbiter.lean -/

theorem State.rxFault_kept {s0 : State} (s : State) (p src op : Nat) (h : Kept s0 s) : Kept s0 (State.rxFault s p src
    op) := by
  unfold State.rxFault
  try dsimp only
  repeat' with_reducible first
    | assumption
    | apply State.modTile_kept
    | apply State.raiseExt_kept
    | fail_if_no_progress apply kept_upd (by rfl) (by rfl) (by rfl) (by rfl)
    | split

theorem State.rxDenied_kept {s0 : State} (s : State) (p src op : Nat) (h : Kept s0 s) : Kept s0
    (State.rxDenied s p src op) := by
  unfold State.rxDenied
  try dsimp only
  repeat' with_reducible first
    | assumption
    | apply State.modTile_kept
    | apply State.raiseExt_kept
    | fail_if_no_progress apply kept_upd (by rfl) (by rfl) (by rfl) (by rfl)
    | split

theorem State.opFault_kept {s0 : State} (s : State) (p id : Nat) (h : Kept s0 s) : Kept s0 (State.opFault s p id) :=
    by
  unfold State.opFault
  repeat' with_reducible first
    | assumption
    | apply State.modTile_kept
    | apply State.raiseExt_kept
    | apply State.raiseTile_kept
    | fail_if_no_progress apply kept_upd (by rfl) (by rfl) (by rfl) (by rfl)
    | split

theorem State.reqWriteAt_kept {s0 : State} (s : State) (p cls since : Nat) (o : Op) (row : Nat) (use : RowUse) (h :
    Kept s0 s) : Kept s0 (State.reqWriteAt s p cls since o row use) := by
  unfold State.reqWriteAt
  repeat' with_reducible first
    | assumption
    | apply State.modTile_kept
    | apply State.opFault_kept
    | fail_if_no_progress apply kept_upd (by rfl) (by rfl) (by rfl) (by rfl)
    | split

theorem State.reqWrite_kept {s0 : State} (s : State) (p cls : Nat) (o : Op) (row lo : Nat) (data : List Byte) (h :
    Kept s0 s) : Kept s0 (State.reqWrite s p cls o row lo data) := by
  unfold State.reqWrite
  repeat' with_reducible first
    | assumption
    | apply State.reqWriteAt_kept

theorem State.reqReadAt_kept {s0 : State} (s : State) (p since : Nat) (o : Op) (row lo len off : Nat) (h : Kept s0 s)
    : Kept s0 (State.reqReadAt s p since o row lo len off) := by
  unfold State.reqReadAt
  repeat' with_reducible first
    | assumption
    | apply State.modTile_kept
    | apply State.opFault_kept
    | fail_if_no_progress apply kept_upd (by rfl) (by rfl) (by rfl) (by rfl)
    | split

theorem State.reqRead_kept {s0 : State} (s : State) (p : Nat) (o : Op) (row lo len off : Nat) (h : Kept s0 s) : Kept
    s0 (State.reqRead s p o row lo len off) := by
  unfold State.reqRead
  repeat' with_reducible first
    | assumption
    | apply State.reqReadAt_kept

theorem State.releaseHeld_kept {s0 : State} (s : State) (p id : Nat) (h : Kept s0 s) : Kept s0 (State.releaseHeld s p
    id) := by
  unfold State.releaseHeld
  repeat' with_reducible first
    | assumption
    | apply State.modTile_kept
    | apply State.reqWrite_kept
    | fail_if_no_progress apply kept_upd (by rfl) (by rfl) (by rfl) (by rfl)
    | refine kept_foldl (fun s1 x1 h1 => ?_) _ _ ?_
    | split

theorem State.refuseOp_kept {s0 : State} (s : State) (p id code : Nat) (h : Kept s0 s) : Kept s0 (State.refuseOp s p
    id code) := by
  unfold State.refuseOp
  repeat' with_reducible first
    | assumption
    | apply State.modTile_kept
    | apply State.raiseTile_kept
    | fail_if_no_progress apply kept_upd (by rfl) (by rfl) (by rfl) (by rfl)
    | split

theorem State.startPush_kept {s0 : State} (s : State) (p : Nat) (o : Op) (h : Kept s0 s) : Kept s0 (State.startPush s
    p o) := by
  unfold State.startPush
  try dsimp only
  repeat' with_reducible first
    | assumption
    | apply State.refuseOp_kept
    | apply State.modTile_kept
    | fail_if_no_progress apply kept_upd (by rfl) (by rfl) (by rfl) (by rfl)
    | split

theorem State.startPop_kept {s0 : State} (s : State) (p : Nat) (o : Op) (h : Kept s0 s) : Kept s0 (State.startPop s p
    o) := by
  unfold State.startPop
  try dsimp only
  repeat' with_reducible first
    | assumption
    | apply State.modTile_kept
    | apply State.reqRead_kept
    | fail_if_no_progress apply kept_upd (by rfl) (by rfl) (by rfl) (by rfl)
    | refine kept_foldl (fun s1 x1 h1 => ?_) _ _ ?_
    | split

theorem State.onGrant_kept {s0 : State} (s : State) (p : Nat) (r : RowReq) (h : Kept s0 s) : Kept s0 (State.onGrant s
    p r).1 := by
  unfold State.onGrant
  try dsimp only
  repeat' with_reducible first
    | assumption
    | apply State.startPush_kept
    | apply State.startPop_kept
    | fail_if_no_progress apply kept_upd (by rfl) (by rfl) (by rfl) (by rfl)
    | split

theorem State.pushPiece_kept {s0 : State} (s : State) (p : Nat) (r : RowReq) (src op : Nat) (granted : Bool) (h : Kept
    s0 s) : Kept s0 (State.pushPiece s p r src op granted) := by
  unfold State.pushPiece
  repeat' with_reducible first
    | assumption
    | apply State.rxFault_kept
    | apply State.modTile_kept
    | split

theorem State.pushSlotRows_kept {s0 : State} (s : State) (p : Nat) (r : RowReq) (first ring off : Nat) (data : List
    Byte) (src op : Nat) (got : List Nat) (h : Kept s0 s) : Kept s0 (State.pushSlotRows s p r first ring off data src
    op got) := by
  unfold State.pushSlotRows
  repeat' with_reducible first
    | assumption
    | apply State.pushPiece_kept
    | fail_if_no_progress apply kept_upd (by rfl) (by rfl) (by rfl) (by rfl)
    | refine kept_foldl (fun s1 x1 h1 => ?_) _ _ ?_

theorem State.askPush_kept {s0 : State} (s : State) (p no deadline : Nat) (side : Bool) (ring n off : Nat) (data :
    List Byte) (src op : Nat) (h : Kept s0 s) : Kept s0 (State.askPush s p no deadline side ring n off data src op) :=
    by
  unfold State.askPush
  repeat' with_reducible first
    | assumption
    | apply State.modTile_kept
    | refine kept_foldl (fun s1 x1 h1 => ?_) _ _ ?_

theorem State.grantPush_kept {s0 : State} (s : State) (p : Nat) (r : RowReq) (got : List Nat) (h : Kept s0 s) : Kept
    s0 (State.grantPush s p r got) := by
  unfold State.grantPush
  try dsimp only
  repeat' with_reducible first
    | assumption
    | apply State.modTile_kept
    | apply State.pushSlotRows_kept
    | fail_if_no_progress apply kept_upd (by rfl) (by rfl) (by rfl) (by rfl)
    | refine kept_foldl (fun s1 x1 h1 => ?_) _ _ ?_
    | split

theorem State.grantOne_kept {s0 : State} (s : State) (p : Nat) (g : List RowReq) (r : RowReq) (h : Kept s0 s) : Kept
    s0 (State.grantOne s p g r) := by
  unfold State.grantOne
  try dsimp only
  repeat' with_reducible first
    | assumption
    | apply State.onGrant_kept
    | apply State.grantPush_kept
    | apply State.modTile_kept
    | fail_if_no_progress apply kept_upd (by rfl) (by rfl) (by rfl) (by rfl)
    | split

theorem State.grantBeat_kept {s0 : State} (s : State) (p : Nat) (h : Kept s0 s) : Kept s0 (State.grantBeat s p) := by
  unfold State.grantBeat
  repeat' with_reducible first
    | assumption
    | apply State.addChoice_kept
    | apply State.setTile_kept
    | apply State.grantOne_kept
    | fail_if_no_progress apply kept_upd (by rfl) (by rfl) (by rfl) (by rfl)
    | refine kept_foldl (fun s1 x1 h1 => ?_) _ _ ?_
    | split

theorem State.copyLands_kept {s0 : State} (s : State) (p tbl row : Nat) (data : List Byte) (h : Kept s0 s) : Kept s0
    (State.copyLands s p tbl row data) := by
  unfold State.copyLands
  try dsimp only
  repeat' with_reducible first
    | assumption
    | apply State.modTable_kept
    | apply State.pokeBytes_kept
    | fail_if_no_progress apply kept_upd (by rfl) (by rfl) (by rfl) (by rfl)
    | refine kept_foldl (fun s1 x1 h1 => ?_) _ _ ?_
    | split

theorem State.applyWrite_kept {s0 : State} (s : State) (p : Nat) (b : Banked) (h : Kept s0 s) : Kept s0
    (State.applyWrite s p b) := by
  unfold State.applyWrite
  repeat' with_reducible first
    | assumption
    | apply State.modTile_kept
    | apply State.writeRow_kept
    | apply State.setCr_kept
    | apply State.modAcc_kept
    | apply State.copyLands_kept
    | fail_if_no_progress apply kept_upd (by rfl) (by rfl) (by rfl) (by rfl)
    | refine kept_foldl (fun s1 x1 h1 => ?_) _ _ ?_
    | split

theorem State.modRead_kept {s0 : State} (s : State) (id : Nat) (f : SvcRead → SvcRead) (h : Kept s0 s) : Kept s0
    (State.modRead s id f) := by
  unfold State.modRead
  try dsimp only
  repeat' with_reducible first
    | assumption
    | fail_if_no_progress apply kept_upd (by rfl) (by rfl) (by rfl) (by rfl)

theorem State.deliver_kept {s0 : State} (s : State) (p : Nat) (b : Banked) (row : List Byte) (h : Kept s0 s) : Kept s0
    (State.deliver s p b row) := by
  unfold State.deliver
  repeat' with_reducible first
    | assumption
    | apply State.modTile_kept
    | apply State.setCr_kept
    | apply State.modAcc_kept
    | apply State.modTable_kept
    | apply State.modRead_kept
    | fail_if_no_progress apply kept_upd (by rfl) (by rfl) (by rfl) (by rfl)
    | split

theorem State.pipRows_kept {s0 : State} (s : State) (p : Nat) (l : List (Nat × List Host.Cell)) (h : Kept s0 s) : Kept
    s0 (State.pipRows s p l) := by
  unfold State.pipRows
  repeat' with_reducible first
    | assumption
    | apply State.writeRow_kept
    | refine kept_foldl (fun s1 x1 h1 => ?_) _ _ ?_

theorem State.bankBeat_kept {s0 : State} (s : State) (p : Nat) (h : Kept s0 s) : Kept s0 (State.bankBeat s p) := by
  unfold State.bankBeat
  repeat' with_reducible first
    | assumption
    | apply State.setTile_kept
    | apply State.applyWrite_kept
    | apply State.pipRows_kept
    | apply State.deliver_kept
    | fail_if_no_progress apply kept_upd (by rfl) (by rfl) (by rfl) (by rfl)
    | refine kept_foldl (fun s1 x1 h1 => ?_) _ _ ?_

/-! ### Machine/HostMem.lean -/

theorem State.reportRows_kept {s0 : State} (s : State) (p : Nat) (unmapped denied : Bool) (h : Kept s0 s) : Kept s0
    (State.reportRows s p unmapped denied) := by
  unfold State.reportRows
  repeat' with_reducible first
    | assumption
    | apply State.raiseExt_kept
    | split

theorem State.writeTail_kept {s0 : State} (s : State) (user p r : Nat) (v : Word) (h : Kept s0 s) : Kept s0
    (State.writeTail s user p r v) := by
  unfold State.writeTail
  try dsimp only
  repeat' with_reducible first
    | assumption
    | apply State.modTile_kept
    | apply State.raiseExt_kept
    | fail_if_no_progress apply kept_upd (by rfl) (by rfl) (by rfl) (by rfl)
    | split

theorem State.writeHead_kept {s0 : State} (s : State) (user p r : Nat) (v : Word) (h : Kept s0 s) : Kept s0
    (State.writeHead s user p r v) := by
  unfold State.writeHead
  try dsimp only
  repeat' with_reducible first
    | assumption
    | apply State.modTile_kept
    | apply State.raiseExt_kept
    | fail_if_no_progress apply kept_upd (by rfl) (by rfl) (by rfl) (by rfl)
    | split

theorem State.hdmaSettle_kept {s0 : State} (s : State) (fn ring off n : Nat) (h : Kept s0 s) : Kept s0
    (State.hdmaSettle s fn ring off n) := by
  unfold State.hdmaSettle
  repeat' with_reducible first
    | assumption
    | apply State.setCr_kept

/-! ### Machine/Transfer.lean -/

theorem State.portFault_kept {s0 : State} (s : State) (n code detail : Nat) (h : Kept s0 s) : Kept s0 (State.portFault s n
    code detail) := by
  unfold State.portFault
  repeat' with_reducible first
    | assumption
    | apply State.raisePort_kept
    | apply State.modPort_kept
    | apply State.enter_kept
    | apply State.raise_kept

theorem State.meetWord_kept {s0 : State} (s : State) (n w : Nat) (h : Kept s0 s) : Kept s0
    (State.meetWord s n w) := by
  unfold State.meetWord
  try dsimp only
  repeat' with_reducible first
    | assumption
    | apply State.portFault_kept
    | split

theorem State.meetCircuit_kept {s0 : State} (s : State) (n e : Nat) (h : Kept s0 s) : Kept s0
    (State.meetCircuit s n e) := by
  unfold State.meetCircuit
  try dsimp only
  repeat' with_reducible first
    | assumption
    | apply State.meetWord_kept

theorem State.meetRoute_kept {s0 : State} (s : State) (d : Nat) (h : Kept s0 s) : Kept s0
    (State.meetRoute s d) := by
  unfold State.meetRoute
  try dsimp only
  repeat' with_reducible first
    | assumption
    | apply State.meetWord_kept
    | refine kept_foldl (fun s1 x1 h1 => ?_) _ _ ?_
    | split

theorem State.queuePacket_kept {s0 : State} (s : State) (port vc input : Nat) (pk : Packet) (h : Kept s0 s) : Kept s0
    (State.queuePacket s port vc input pk) := by
  unfold State.queuePacket
  repeat' with_reducible first
    | assumption
    | apply State.modPort_kept

theorem State.sendPacket_kept {s0 : State} (s : State) (vc input : Nat) (pk : Packet) (h : Kept s0 s) : Kept s0
    (State.sendPacket s vc input pk) := by
  unfold State.sendPacket
  try dsimp only
  repeat' with_reducible first
    | assumption
    | apply State.queuePacket_kept
    | apply State.meetRoute_kept
    | fail_if_no_progress apply kept_upd (by rfl) (by rfl) (by rfl) (by rfl)
    | split

theorem State.sendFlag_kept {s0 : State} (s : State) (p : Nat) (f : FlagReq) (bundle : Option Nat) (op rank earliest
    deadline : Nat) (h : Kept s0 s) : Kept s0 (State.sendFlag s p f bundle op rank earliest deadline) := by
  unfold State.sendFlag
  try dsimp only
  repeat' with_reducible first
    | assumption
    | apply State.modTile_kept
    | apply State.raiseTile_kept
    | apply State.raiseExt_kept
    | fail_if_no_progress apply kept_upd (by rfl) (by rfl) (by rfl) (by rfl)
    | split

theorem State.landRows_kept {s0 : State} (s : State) (p no : Nat) (x : XSlot) (row n : Nat) (data : List Byte) (h :
    Kept s0 s) : Kept s0 (State.landRows s p no x row n data) := by
  unfold State.landRows
  repeat' with_reducible first
    | assumption
    | apply State.modTile_kept
    | apply State.rxFault_kept
    | apply State.rxDenied_kept
    | refine kept_foldl (fun s1 x1 h1 => ?_) _ _ ?_
    | split

theorem State.landFlag_kept {s0 : State} (s : State) (p no : Nat) (x : XSlot) (f : FlagReq) (h : Kept s0 s) : Kept s0
    (State.landFlag s p no x f) := by
  unfold State.landFlag
  repeat' with_reducible first
    | assumption
    | apply State.modTile_kept
    | apply State.raiseExt_kept
    | apply State.rxFault_kept
    | split

theorem State.landRead_kept {s0 : State} (s : State) (p no : Nat) (x : XSlot) (row n : Nat) (h : Kept s0 s) : Kept s0
    (State.landRead s p no x row n) := by
  unfold State.landRead
  try dsimp only
  repeat' with_reducible first
    | assumption
    | apply State.modTile_kept
    | apply State.raiseExt_kept
    | fail_if_no_progress apply kept_upd (by rfl) (by rfl) (by rfl) (by rfl)
    | refine kept_foldl (fun s1 x1 h1 => ?_) _ _ ?_
    | split

theorem State.landReply_kept {s0 : State} (s : State) (p no op idx n : Nat) (data : List Byte) (side : Bool) (h : Kept
    s0 s) : Kept s0 (State.landReply s p no op idx n data side) := by
  unfold State.landReply
  try dsimp only
  repeat' with_reducible first
    | assumption
    | apply State.modTile_kept
    | apply State.opFault_kept
    | fail_if_no_progress apply kept_upd (by rfl) (by rfl) (by rfl) (by rfl)
    | refine kept_foldl (fun s1 x1 h1 => ?_) _ _ ?_
    | split

theorem State.landPush_kept {s0 : State} (s : State) (p no : Nat) (x : XSlot) (ring n off : Nat) (data : List Byte) (h
    : Kept s0 s) : Kept s0 (State.landPush s p no x ring n off data) := by
  unfold State.landPush
  try dsimp only
  repeat' with_reducible first
    | assumption
    | apply State.modTile_kept
    | apply State.pushSlotRows_kept
    | apply State.askPush_kept
    | split

theorem State.land_kept {s0 : State} (s : State) (p : Nat) (x : XSlot) (h : Kept s0 s) : Kept s0 (State.land s p x) :=
    by
  unfold State.land
  repeat' with_reducible first
    | assumption
    | apply State.modTile_kept
    | apply State.landRows_kept
    | apply State.landFlag_kept
    | apply State.landRead_kept
    | apply State.landReply_kept
    | apply State.landPush_kept
    | fail_if_no_progress apply kept_upd (by rfl) (by rfl) (by rfl) (by rfl)
    | split

theorem State.loseSlot_kept {s0 : State} (s : State) (p : Nat) (x : XSlot) (h : Kept s0 s) : Kept s0 (State.loseSlot s
    p x) := by
  unfold State.loseSlot
  repeat' with_reducible first
    | assumption
    | apply State.raiseExt_kept
    | apply State.modTile_kept
    | fail_if_no_progress apply kept_upd (by rfl) (by rfl) (by rfl) (by rfl)
    | refine kept_foldl (fun s1 x1 h1 => ?_) _ _ ?_
    | split

theorem execSlotLanding_kept {s0 : State} (p : Nat) (s : State) (h : Kept s0 s) : KeptRes s0 (execSlotLanding p s) :=
    by
  unfold execSlotLanding
  try dsimp only
  repeat' with_reducible first
    | assumption
    | apply State.modTile_kept
    | apply State.land_kept
    | apply State.loseSlot_kept
    | apply keptRes_next
    | apply keptRes_within
    | fail_if_no_progress apply kept_upd (by rfl) (by rfl) (by rfl) (by rfl)
    | split

theorem State.slotPacket_kept {s0 : State} (s : State) (p : Nat) (x : XSlot) (h : Kept s0 s) : Kept s0
    (State.slotPacket s p x) := by
  unfold State.slotPacket
  repeat' with_reducible first
    | assumption
    | apply State.sendPacket_kept
    | split

theorem State.outBeat_kept {s0 : State} (s : State) (p : Nat) (circuitTaken : Bool) (h : Kept s0 s) : Kept s0
    (State.outBeat s p circuitTaken) := by
  unfold State.outBeat
  try dsimp only
  repeat' with_reducible first
    | assumption
    | apply State.modTile_kept
    | apply State.slotPacket_kept
    | fail_if_no_progress apply kept_upd (by rfl) (by rfl) (by rfl) (by rfl)
    | split

theorem State.pumpOp_kept {s0 : State} (s : State) (p id : Nat) (h : Kept s0 s) : Kept s0 (State.pumpOp s p id) := by
  unfold State.pumpOp
  try dsimp only
  repeat' with_reducible first
    | assumption
    | apply State.setTile_kept
    | apply State.modTile_kept
    | fail_if_no_progress apply kept_upd (by rfl) (by rfl) (by rfl) (by rfl)
    | split

theorem State.askLater_kept {s0 : State} (s : State) (p id : Nat) (h : Kept s0 s) : Kept s0 (State.askLater s p id) :=
    by
  unfold State.askLater
  repeat' with_reducible first
    | assumption
    | apply State.modTile_kept
    | apply State.reqReadAt_kept
    | fail_if_no_progress apply kept_upd (by rfl) (by rfl) (by rfl) (by rfl)
    | refine kept_foldl (fun s1 x1 h1 => ?_) _ _ ?_
    | split

theorem State.popHead_kept {s0 : State} (s : State) (p id : Nat) (h : Kept s0 s) : Kept s0 (State.popHead s p id) :=
    by
  unfold State.popHead
  repeat' with_reducible first
    | assumption
    | apply State.modTile_kept
    | apply State.startPush_kept
    | fail_if_no_progress apply kept_upd (by rfl) (by rfl) (by rfl) (by rfl)
    | split

theorem State.finishOp_kept {s0 : State} (s : State) (p id : Nat) (h : Kept s0 s) : Kept s0 (State.finishOp s p id) :=
    by
  unfold State.finishOp
  try dsimp only
  repeat' with_reducible first
    | assumption
    | apply State.modTile_kept
    | fail_if_no_progress apply kept_upd (by rfl) (by rfl) (by rfl) (by rfl)
    | split

theorem State.takeAcks_kept {s0 : State} (s : State) (p : Nat) (h : Kept s0 s) : Kept s0 (State.takeAcks s p) := by
  unfold State.takeAcks
  repeat' with_reducible first
    | assumption
    | apply State.modTile_kept
    | apply State.raiseTile_kept
    | fail_if_no_progress apply kept_upd (by rfl) (by rfl) (by rfl) (by rfl)
    | refine kept_foldl (fun s1 x1 h1 => ?_) _ _ ?_
    | split

theorem State.sendAck_kept {s0 : State} (s : State) (p src op status : Nat) (h : Kept s0 s) : Kept s0 (State.sendAck s p
    src op status) := by
  unfold State.sendAck
  repeat' with_reducible first
    | assumption
    | apply State.modTile_kept
    | apply State.sendPacket_kept
    | fail_if_no_progress apply kept_upd (by rfl) (by rfl) (by rfl) (by rfl)
    | split

theorem State.finishRx_kept {s0 : State} (s : State) (p : Nat) (h : Kept s0 s) : Kept s0 (State.finishRx s p) := by
  unfold State.finishRx
  repeat' with_reducible first
    | assumption
    | apply State.sendAck_kept
    | apply State.modTile_kept
    | apply State.complete_kept
    | fail_if_no_progress apply kept_upd (by rfl) (by rfl) (by rfl) (by rfl)
    | refine kept_foldl (fun s1 x1 h1 => ?_) _ _ ?_
    | split

theorem execCompletionFlagWrite_kept {s0 : State} (p op : Nat) (s : State) (h : Kept s0 s) : KeptRes s0
    (execCompletionFlagWrite p op s) := by
  unfold execCompletionFlagWrite
  repeat' with_reducible first
    | assumption
    | apply State.modTile_kept
    | apply State.sendFlag_kept
    | apply keptRes_next
    | apply keptRes_within
    | fail_if_no_progress apply kept_upd (by rfl) (by rfl) (by rfl) (by rfl)
    | split

theorem execRingPublish_kept {s0 : State} (p r : Nat) (s : State) (h : Kept s0 s) : KeptRes s0 (execRingPublish p r s)
    := by
  unfold execRingPublish
  try dsimp only
  repeat' with_reducible first
    | assumption
    | apply State.modTile_kept
    | apply State.raiseExt_kept
    | apply keptRes_next
    | apply keptRes_within
    | fail_if_no_progress apply kept_upd (by rfl) (by rfl) (by rfl) (by rfl)
    | split

theorem State.expireOp_kept {s0 : State} (s : State) (p op : Nat) (h : Kept s0 s) : Kept s0 (State.expireOp s p op) :=
    by
  unfold State.expireOp
  try dsimp only
  repeat' with_reducible first
    | assumption
    | apply State.modTile_kept
    | apply State.raiseDeadline_kept
    | fail_if_no_progress apply kept_upd (by rfl) (by rfl) (by rfl) (by rfl)
    | split

theorem execDeadlineExpire_kept {s0 : State} (p op : Nat) (s : State) (h : Kept s0 s) : KeptRes s0 (execDeadlineExpire
    p op s) := by
  unfold execDeadlineExpire
  repeat' with_reducible first
    | assumption
    | apply State.expireOp_kept
    | apply keptRes_next
    | apply keptRes_within

end Sys2Proof.Machine
end

