-- ==== Sys2Proof/Laws/KeptLinks.lean ====
section
/-! SUPPORT. What the ports and the packets keep (`Kept`): one lemma for each operation and for each command. -/

namespace Sys2Proof.Machine

/-! ### Machine/Wire.lean -/

theorem State.carry_kept {s0 : State} (s : State) (n : Nat) (w : Wire) (h : Kept s0 s) : Kept s0 (State.carry s n w)
    := by
  unfold State.carry
  repeat' with_reducible first
    | assumption
    | apply State.modPort_kept
    | fail_if_no_progress apply kept_upd (by rfl) (by rfl) (by rfl) (by rfl)
    | split

theorem State.arrives_kept {s0 : State} {α : Type} (s : State) (n : Nat) (pick : Wire → Option α) (outside : α)
    (h : Kept s0 s) : Kept s0 (s.arrives n pick outside).1 := by
  unfold State.arrives
  repeat' with_reducible first
    | assumption
    | apply State.modPort_kept
    | fail_if_no_progress apply kept_upd (by rfl) (by rfl) (by rfl) (by rfl)
    | split

theorem State.sendLink_kept {s0 : State} (s : State) (n ptype : Nat) (payload : List Byte) (w : Wire) (h : Kept s0 s)
    : Kept s0 (State.sendLink s n ptype payload w) := by
  unfold State.sendLink
  repeat' with_reducible first
    | assumption
    | apply State.carry_kept
    | apply State.modPort_kept

/-! ### Machine/Links.lean -/

theorem State.linkDown_kept {s0 : State} (s : State) (n : Nat) (h : Kept s0 s) : Kept s0 (State.linkDown s n) := by
  unfold State.linkDown
  repeat' with_reducible first
    | assumption
    | apply State.raisePort_kept
    | apply State.modPort_kept

theorem State.portUp_kept {s0 : State} (s : State) (n : Nat) (h : Kept s0 s) : Kept s0 (State.portUp s n) := by
  unfold State.portUp
  repeat' with_reducible first
    | assumption
    | apply State.modPort_kept

theorem execPortEnable_kept {s0 : State} (port : Nat) (s : State) (h : Kept s0 s) : KeptRes s0 (execPortEnable port s)
    := by
  unfold execPortEnable
  repeat' with_reducible first
    | assumption
    | apply State.modPort_kept
    | apply keptRes_next
    | apply keptRes_within

theorem execPortDisable_kept {s0 : State} (port : Nat) (s : State) (h : Kept s0 s) : KeptRes s0 (execPortDisable port
    s) := by
  unfold execPortDisable
  repeat' with_reducible first
    | assumption
    | apply State.modPort_kept
    | apply keptRes_next
    | apply keptRes_within

theorem execPortRetrain_kept {s0 : State} (port : Nat) (s : State) (h : Kept s0 s) : KeptRes s0 (execPortRetrain port
    s) := by
  unfold execPortRetrain
  repeat' with_reducible first
    | assumption
    | apply State.modPort_kept
    | apply keptRes_next
    | apply keptRes_within

theorem execLaserLightGain_kept {s0 : State} (i : Nat) (power : BitVec 12) (s : State) (h : Kept s0 s) : KeptRes s0
    (execLaserLightGain i power s) := by
  unfold execLaserLightGain
  try dsimp only
  repeat' with_reducible first
    | assumption
    | apply State.modPort_kept
    | apply State.raisePort_kept
    | apply keptRes_next
    | apply keptRes_within
    | apply State.enter_kept
    | fail_if_no_progress apply kept_upd (by rfl) (by rfl) (by rfl) (by rfl)
    | refine kept_foldl (fun s1 x1 h1 => ?_) _ _ ?_
    | split

theorem execLightLoss_kept {s0 : State} (port : Nat) (s : State) (h : Kept s0 s) : KeptRes s0 (execLightLoss port s)
    := by
  unfold execLightLoss
  repeat' with_reducible first
    | assumption
    | apply State.modPort_kept
    | apply State.linkDown_kept
    | apply keptRes_next
    | apply keptRes_within
    | fail_if_no_progress apply kept_upd (by rfl) (by rfl) (by rfl) (by rfl)
    | split

theorem execTrainSettled_kept {s0 : State} (port : Nat) (s : State) (h : Kept s0 s) : KeptRes s0 (execTrainSettled
    port s) := by
  unfold execTrainSettled
  try dsimp only
  repeat' with_reducible first
    | assumption
    | apply State.modPort_kept
    | apply keptRes_next
    | apply keptRes_within
    | apply State.enter_kept
    | split

theorem execTrainTimeout_kept {s0 : State} (port : Nat) (s : State) (h : Kept s0 s) : KeptRes s0 (execTrainTimeout
    port s) := by
  unfold execTrainTimeout
  try dsimp only
  repeat' with_reducible first
    | assumption
    | apply State.portFault_kept
    | apply keptRes_next
    | apply keptRes_within
    | split

theorem execIdentReceive_kept {s0 : State} (port : Nat) (f : IdentFlit) (s : State) (h : Kept s0 s) : KeptRes s0
    (execIdentReceive port f s) := by
  unfold execIdentReceive
  try dsimp only
  repeat' with_reducible first
    | assumption
    | apply State.portUp_kept
    | apply State.portFault_kept
    | apply keptRes_next
    | apply keptRes_within
    | (refine kept_of_fst (by assumption) (State.arrives_kept _ _ _ _ ?_))
    | split

theorem execIdentSend_kept {s0 : State} (port : Nat) (s : State) (h : Kept s0 s) : KeptRes s0 (execIdentSend port s)
    := by
  unfold execIdentSend
  try dsimp only
  repeat' with_reducible first
    | assumption
    | apply State.emit_kept
    | apply State.sendLink_kept
    | apply State.modPort_kept
    | apply keptRes_next
    | apply keptRes_within
    | fail_if_no_progress apply kept_upd (by rfl) (by rfl) (by rfl) (by rfl)
    | split

theorem State.countTurn_kept {s0 : State} (s : State) (input : Nat) (h : Kept s0 s) : Kept s0 (State.countTurn s
    input) := by
  unfold State.countTurn
  repeat' with_reducible first
    | assumption
    | apply State.addChoice_kept
    | fail_if_no_progress apply kept_upd (by rfl) (by rfl) (by rfl) (by rfl)
    | split

theorem State.nextPacket_kept {s0 : State} (s : State) (n vc : Nat) (h : Kept s0 s) : Kept s0 (State.nextPacket s n
    vc) := by
  unfold State.nextPacket
  try dsimp only
  repeat' with_reducible first
    | assumption
    | apply State.modPort_kept
    | apply State.countTurn_kept
    | fail_if_no_progress apply kept_upd (by rfl) (by rfl) (by rfl) (by rfl)
    | split

theorem State.sendBlock_kept {s0 : State} (s : State) (n vc : Nat) (h : Kept s0 s) : Kept s0 (State.sendBlock s n
    vc).1 := by
  unfold State.sendBlock
  try dsimp only
  repeat' with_reducible first
    | assumption
    | apply State.nextPacket_kept
    | apply State.modPort_kept
    | fail_if_no_progress apply kept_upd (by rfl) (by rfl) (by rfl) (by rfl)
    | split

theorem State.nextPkt_kept {s0 : State} (s : State) (n : Nat) (h : Kept s0 s) : Kept s0 (State.nextPkt s n).1 := by
  unfold State.nextPkt
  try dsimp only
  repeat' with_reducible first
    | assumption
    | apply State.modPort_kept
    | apply State.sendBlock_kept
    | fail_if_no_progress apply kept_upd (by rfl) (by rfl) (by rfl) (by rfl)
    | (refine kept_of_fst (by assumption) (State.sendBlock_kept _ _ _ ?_))
    | split

theorem State.freePosition_kept {s0 : State} (s : State) (n : Nat) (h : Kept s0 s) : Kept s0 (State.freePosition s
    n).1 := by
  unfold State.freePosition
  try dsimp only
  repeat' with_reducible first
    | assumption
    | apply State.modPort_kept
    | (refine kept_of_fst (by assumption) (State.nextPkt_kept _ _ ?_))
    | split

theorem State.sendPosition_kept {s0 : State} (s : State) (n x : Nat) (h : Kept s0 s) : Kept s0 (State.sendPosition s n
    x).1 := by
  unfold State.sendPosition
  try dsimp only
  repeat' with_reducible first
    | assumption
    | apply State.modPort_kept
    | apply State.freePosition_kept
    | fail_if_no_progress apply kept_upd (by rfl) (by rfl) (by rfl) (by rfl)
    | split

theorem execFrameSend_kept {s0 : State} (port : Nat) (s : State) (h : Kept s0 s) : KeptRes s0 (execFrameSend port s)
    := by
  unfold execFrameSend
  try dsimp only
  repeat' with_reducible first
    | assumption
    | apply State.emit_kept
    | apply State.sendPosition_kept
    | apply State.carry_kept
    | apply State.modPort_kept
    | apply keptRes_next
    | apply keptRes_within
    | fail_if_no_progress apply kept_upd (by rfl) (by rfl) (by rfl) (by rfl)
    | refine kept_foldl_fst (fun s1 x1 h1 => ?_) _ _ ?_
    | refine kept_foldl (fun s1 x1 h1 => ?_) _ _ ?_
    | split

theorem State.recvCirc_kept {s0 : State} (s : State) (n stamp : Nat) (poison void : Bool) (data : List Byte) (h : Kept
    s0 s) : Kept s0 (State.recvCirc s n stamp poison void data) := by
  unfold State.recvCirc
  try dsimp only
  repeat' with_reducible first
    | assumption
    | apply State.raisePort_kept
    | apply State.modPort_kept
    | apply State.meetCircuit_kept
    | fail_if_no_progress apply kept_upd (by rfl) (by rfl) (by rfl) (by rfl)
    | split

theorem State.recvPacket_kept {s0 : State} (s : State) (n vc blocks : Nat) (k : Packet) (h : Kept s0 s) : Kept s0
    (State.recvPacket s n vc blocks k) := by
  unfold State.recvPacket
  try dsimp only
  repeat' with_reducible first
    | assumption
    | apply State.raisePort_kept
    | apply State.modPort_kept
    | apply State.queuePacket_kept
    | apply State.meetRoute_kept
    | fail_if_no_progress apply kept_upd (by rfl) (by rfl) (by rfl) (by rfl)
    | split

theorem State.recvPkt_kept {s0 : State} (s : State) (n word : Nat) (bytes : List Byte) (h : Kept s0 s) : Kept s0
    (State.recvPkt s n word bytes) := by
  unfold State.recvPkt
  try dsimp only
  repeat' with_reducible first
    | assumption
    | apply State.modPort_kept
    | apply State.recvPacket_kept
    | apply State.raisePort_kept
    | fail_if_no_progress apply kept_upd (by rfl) (by rfl) (by rfl) (by rfl)
    | split

theorem State.recvBlock_kept {s0 : State} (s : State) (n : Nat) (failed : List Nat) (i : Nat) (b : List Byte) (h :
    Kept s0 s) : Kept s0 (State.recvBlock s n failed i b) := by
  unfold State.recvBlock
  try dsimp only
  repeat' with_reducible first
    | assumption
    | apply State.raisePort_kept
    | apply State.modPort_kept
    | apply State.recvCirc_kept
    | apply State.recvPkt_kept
    | split

theorem State.recvNak_kept {s0 : State} (s : State) (n q : Nat) (h : Kept s0 s) : Kept s0 (State.recvNak s n q) := by
  unfold State.recvNak
  try dsimp only
  repeat' with_reducible first
    | assumption
    | apply State.modPort_kept
    | apply State.portFault_kept
    | fail_if_no_progress apply kept_upd (by rfl) (by rfl) (by rfl) (by rfl)
    | split

theorem State.recvHeader_kept {s0 : State} (s : State) (n : Nat) (h_ : List Byte) (h : Kept s0 s) : Kept s0
    (State.recvHeader s n h_) := by
  unfold State.recvHeader
  try dsimp only
  repeat' with_reducible first
    | assumption
    | apply State.modPort_kept
    | apply State.recvNak_kept
    | fail_if_no_progress apply kept_upd (by rfl) (by rfl) (by rfl) (by rfl)
    | split

theorem State.recvBlocks_kept {s0 : State} (s : State) (n : Nat) (failed : List Nat) (a1 : Nat) (a2 : List Byte) (h :
    Kept s0 s) : Kept s0 (State.recvBlocks s n failed a1 a2) := by
  unfold State.recvBlocks
  repeat' with_reducible first
    | assumption
    | apply State.recvBlock_kept
    | refine kept_foldl_fst (fun s1 x1 h1 => ?_) _ _ ?_
    | refine kept_foldl (fun s1 x1 h1 => ?_) _ _ ?_
    | split

theorem State.takeFrame_kept {s0 : State} (s : State) (port : Nat) (f : Decoded) (h : Kept s0 s) : Kept s0
    (State.takeFrame s port f) := by
  unfold State.takeFrame
  try dsimp only
  repeat' with_reducible first
    | assumption
    | apply State.modPort_kept
    | apply State.linkDown_kept
    | apply State.recvHeader_kept
    | apply State.recvBlocks_kept
    | apply State.raisePort_kept
    | apply State.enter_kept
    | fail_if_no_progress apply kept_upd (by rfl) (by rfl) (by rfl) (by rfl)
    | split

theorem execFrameReceive_kept {s0 : State} (port : Nat) (f : RxFrame) (s : State) (h : Kept s0 s) : KeptRes s0
    (execFrameReceive port f s) := by
  unfold execFrameReceive
  repeat' with_reducible first
    | assumption
    | apply State.takeFrame_kept
    | apply keptRes_next
    | apply keptRes_within
    | fail_if_no_progress apply kept_upd (by rfl) (by rfl) (by rfl) (by rfl)
    | (refine kept_of_fst (by assumption) (State.arrives_kept _ _ _ _ ?_))
    | split

theorem execAckTimeout_kept {s0 : State} (port : Nat) (s : State) (h : Kept s0 s) : KeptRes s0 (execAckTimeout port s)
    := by
  unfold execAckTimeout
  try dsimp only
  repeat' with_reducible first
    | assumption
    | apply State.portFault_kept
    | apply keptRes_next
    | apply keptRes_within
    | split

theorem execPacketWaitLimit_kept {s0 : State} (port : Nat) (s : State) (h : Kept s0 s) : KeptRes s0
    (execPacketWaitLimit port s) := by
  unfold execPacketWaitLimit
  repeat' with_reducible first
    | assumption
    | apply State.raisePort_kept
    | apply State.modPort_kept
    | apply keptRes_next
    | apply keptRes_within
    | split

theorem State.poisonSlot_kept {s0 : State} (s : State) (p op : Nat) (h : Kept s0 s) : Kept s0 (State.poisonSlot s p
    op) := by
  unfold State.poisonSlot
  repeat' with_reducible first
    | assumption
    | apply State.modTile_kept

theorem State.takeSlot_kept {s0 : State} (s : State) (p port entry op i : Nat) (h_ : Option Held) (h : Kept s0 s) :
    Kept s0 (State.takeSlot s p port entry op i h_) := by
  unfold State.takeSlot
  try dsimp only
  repeat' with_reducible first
    | assumption
    | apply State.modTile_kept
    | apply State.raiseDeadline_kept
    | apply State.poisonSlot_kept
    | apply State.raiseTile_kept
    | apply State.raiseExt_kept
    | apply State.opFault_kept
    | fail_if_no_progress apply kept_upd (by rfl) (by rfl) (by rfl) (by rfl)
    | refine kept_foldl (fun s1 x1 h1 => ?_) _ _ ?_
    | split

theorem State.releaseSlot_kept {s0 : State} (s : State) (n entry : Nat) (c : CircuitE) (h : Kept s0 s) : Kept s0
    (State.releaseSlot s n entry c) := by
  unfold State.releaseSlot
  try dsimp only
  repeat' with_reducible first
    | assumption
    | apply State.modPort_kept
    | apply State.takeSlot_kept
    | apply State.raiseDeadline_kept
    | apply State.raiseExt_kept
    | fail_if_no_progress apply kept_upd (by rfl) (by rfl) (by rfl) (by rfl)
    | split

theorem execCircuitSlotRelease_kept {s0 : State} (port : Nat) (s : State) (h : Kept s0 s) : KeptRes s0
    (execCircuitSlotRelease port s) := by
  unfold execCircuitSlotRelease
  repeat' with_reducible first
    | assumption
    | apply State.releaseSlot_kept
    | apply State.modPort_kept
    | apply keptRes_next
    | apply keptRes_within
    | apply State.meetCircuit_kept
    | fail_if_no_progress apply kept_upd (by rfl) (by rfl) (by rfl) (by rfl)
    | split

theorem State.takePacket_kept {s0 : State} (s : State) (n vc : Nat) (want : Packet → Bool) {y : State × Packet} (h :
    Kept s0 s) (e : State.takePacket s n vc want = some y) : Kept s0 y.1 := by
  unfold State.takePacket at e
  split at e
  · cases e
  · split at e
    · cases e; dsimp only; exact State.modPort_kept _ _ _ h
    · cases e

theorem State.cross_kept {s0 : State} (s : State) (port : Nat) (l : List XSlot) (h : Kept s0 s) : Kept s0 (State.cross
    s port l) := by
  unfold State.cross
  repeat' with_reducible first
    | assumption
    | fail_if_no_progress apply kept_upd (by rfl) (by rfl) (by rfl) (by rfl)

theorem State.svcReply_kept {s0 : State} (s : State) (k : Packet) (h : Kept s0 s) : Kept s0
    (State.svcReply s k) := by
  unfold State.svcReply
  try dsimp only
  repeat' with_reducible first
    | assumption
    | fail_if_no_progress apply kept_upd (by rfl) (by rfl) (by rfl) (by rfl)

theorem execRwrReceive_kept {s0 : State} (port : Nat) (s : State) (h : Kept s0 s) : KeptRes s0 (execRwrReceive port s)
    := by
  unfold execRwrReceive
  repeat' with_reducible first
    | assumption
    | apply State.modTile_kept
    | apply State.cross_kept
    | apply keptRes_next
    | apply keptRes_within
    | refine State.takePacket_kept (y := (_, _)) _ _ _ _ ?_ (by assumption)
    | split

theorem execRflagReceive_kept {s0 : State} (port : Nat) (s : State) (h : Kept s0 s) : KeptRes s0 (execRflagReceive
    port s) := by
  unfold execRflagReceive
  try dsimp only
  repeat' with_reducible first
    | assumption
    | apply State.modTile_kept
    | apply State.cross_kept
    | apply keptRes_next
    | apply keptRes_within
    | fail_if_no_progress apply kept_upd (by rfl) (by rfl) (by rfl) (by rfl)
    | refine State.takePacket_kept (y := (_, _)) _ _ _ _ ?_ (by assumption)
    | split

theorem execRrdReceive_kept {s0 : State} (port : Nat) (s : State) (h : Kept s0 s) : KeptRes s0 (execRrdReceive port s)
    := by
  unfold execRrdReceive
  repeat' with_reducible first
    | assumption
    | apply State.cross_kept
    | apply keptRes_next
    | apply keptRes_within
    | refine State.takePacket_kept (y := (_, _)) _ _ _ _ ?_ (by assumption)
    | split

theorem execRrspReceive_kept {s0 : State} (port : Nat) (s : State) (h : Kept s0 s) : KeptRes s0 (execRrspReceive port
    s) := by
  unfold execRrspReceive
  try dsimp only
  repeat' with_reducible first
    | assumption
    | apply State.cross_kept
    | apply keptRes_next
    | apply keptRes_within
    | apply State.svcReply_kept
    | refine State.takePacket_kept (y := (_, _)) _ _ _ _ ?_ (by assumption)
    | split

theorem execRpushReceive_kept {s0 : State} (port : Nat) (s : State) (h : Kept s0 s) : KeptRes s0 (execRpushReceive
    port s) := by
  unfold execRpushReceive
  repeat' with_reducible first
    | assumption
    | apply State.modTile_kept
    | apply State.cross_kept
    | apply keptRes_next
    | apply keptRes_within
    | refine State.takePacket_kept (y := (_, _)) _ _ _ _ ?_ (by assumption)
    | split

theorem execRackReceive_kept {s0 : State} (port : Nat) (s : State) (h : Kept s0 s) : KeptRes s0 (execRackReceive port
    s) := by
  unfold execRackReceive
  try dsimp only
  repeat' with_reducible first
    | assumption
    | apply State.takeAcks_kept
    | apply State.modTile_kept
    | apply keptRes_next
    | apply keptRes_within
    | fail_if_no_progress apply kept_upd (by rfl) (by rfl) (by rfl) (by rfl)
    | refine State.takePacket_kept (y := (_, _)) _ _ _ _ ?_ (by assumption)
    | split

theorem execTelemetryWindowEnd_kept {s0 : State} (s : State) (h : Kept s0 s) : KeptRes s0 (execTelemetryWindowEnd s)
    := by
  unfold execTelemetryWindowEnd
  repeat' with_reducible first
    | assumption
    | apply State.modPort_kept
    | apply State.addTele_kept
    | apply State.sendPacket_kept
    | apply keptRes_next
    | refine kept_foldl (fun s1 x1 h1 => ?_) _ _ ?_
    | split

theorem execTeleReceive_kept {s0 : State} (port : Nat) (s : State) (h : Kept s0 s) : KeptRes s0 (execTeleReceive port
    s) := by
  unfold execTeleReceive
  repeat' with_reducible first
    | assumption
    | apply State.addTele_kept
    | apply keptRes_next
    | apply keptRes_within
    | refine State.takePacket_kept (y := (_, _)) _ _ _ _ ?_ (by assumption)
    | split

end Sys2Proof.Machine
end

