-- ==== Sys2Proof/Laws/KeptHost.lean ====
section
/-! SUPPORT. What the host interface, serving, learning and admission keep (`Kept`): one lemma for each operation and for each command. -/

namespace Sys2Proof.Machine

/-! ### Machine/HostIf.lean -/

theorem State.writeCrTail_kept {s0 : State} (s : State) (f : Fn) (i : Nat) (v : Word) (h : Kept s0 s) : Kept s0
    (State.writeCrTail s f i v) := by
  unfold State.writeCrTail
  try dsimp only
  repeat' with_reducible first
    | assumption
    | apply State.setCr_kept
    | apply State.raiseMgc_kept
    | fail_if_no_progress apply kept_upd (by rfl) (by rfl) (by rfl) (by rfl)
    | split

theorem State.writeRrHead_kept {s0 : State} (s : State) (f : Fn) (j : Nat) (v : Word) (h : Kept s0 s) : Kept s0
    (State.writeRrHead s f j v) := by
  unfold State.writeRrHead
  try dsimp only
  repeat' with_reducible first
    | assumption
    | apply State.setRr_kept
    | apply State.raiseMgc_kept
    | fail_if_no_progress apply kept_upd (by rfl) (by rfl) (by rfl) (by rfl)
    | split

theorem execHostRingEnable_kept {s0 : State} (fn : Fn) (record : Bool) (ring : Nat) (cfg : Word) (s : State) (h : Kept
    s0 s) : KeptRes s0 (execHostRingEnable fn record ring cfg s) := by
  unfold execHostRingEnable
  repeat' with_reducible first
    | assumption
    | apply State.setRr_kept
    | apply State.setCr_kept
    | apply keptRes_next
    | apply keptRes_fault
    | apply keptRes_within
    | split

theorem State.complete_kept {s0 : State} (s : State) (f : Fn) (status tag : Nat) (quiet : Bool) (h : Kept s0 s) : Kept
    s0 (State.complete s f status tag quiet) := by
  unfold State.complete
  repeat' with_reducible first
    | assumption
    | apply State.raise_kept
    | split

theorem State.completeAt_kept {s0 : State} (s : State) (f : Fn) (win status tag : Nat) (quiet : Bool) (h : Kept s0 s)
    : Kept s0 (State.completeAt s f win status tag quiet) := by
  unfold State.completeAt
  repeat' with_reducible first
    | assumption
    | apply State.complete_kept
    | apply State.setQueue_kept
    | apply State.raise_kept
    | fail_if_no_progress apply kept_upd (by rfl) (by rfl) (by rfl) (by rfl)
    | split

theorem State.freeEntries_kept {s0 : State} (s : State) (key : Nat) (h : Kept s0 s) : Kept s0 (State.freeEntries s
    key) := by
  unfold State.freeEntries
  repeat' with_reducible first
    | assumption
    | fail_if_no_progress apply kept_upd (by rfl) (by rfl) (by rfl) (by rfl)

theorem State.settleQueue_kept {s0 : State} (s : State) (key : Nat) (h : Kept s0 s) : Kept s0
    (State.settleQueue s key) := by
  unfold State.settleQueue
  try dsimp only
  repeat' with_reducible first
    | assumption
    | apply State.freeEntries_kept
    | apply State.setQueue_kept
    | apply State.settle_kept
    | split

theorem State.clearRun_kept {s0 : State} (s : State) (f : Fn) (i : Nat) (h : Kept s0 s) : Kept s0
    (State.clearRun s f i) := by
  unfold State.clearRun
  try dsimp only
  repeat' with_reducible first
    | assumption
    | apply State.setCr_kept
    | apply State.settleQueue_kept
    | fail_if_no_progress apply kept_upd (by rfl) (by rfl) (by rfl) (by rfl)
    | split

theorem State.dropRun_kept {s0 : State} (s : State) (f : Fn) (i status : Nat) (h : Kept s0 s) : Kept s0 (State.dropRun
    s f i status) := by
  unfold State.dropRun
  try dsimp only
  repeat' with_reducible first
    | assumption
    | apply State.setCr_kept
    | apply State.complete_kept
    | apply State.clearRun_kept
    | split

theorem State.settleFences_kept {s0 : State} (s : State) (f : Fn) (h : Kept s0 s) : Kept s0 (State.settleFences s f)
    := by
  unfold State.settleFences
  repeat' with_reducible first
    | assumption
    | apply State.dropRun_kept
    | refine kept_foldl (fun s1 x1 h1 => ?_) _ _ ?_
    | split

theorem State.freeRing_kept {s0 : State} (s : State) (f : Fn) (i : Nat) (h : Kept s0 s) : Kept s0 (State.freeRing s f
    i) := by
  unfold State.freeRing
  repeat' with_reducible first
    | assumption
    | apply State.settleFences_kept
    | apply State.setCr_kept
    | apply State.clearRun_kept

theorem State.endRun_kept {s0 : State} (s : State) (f : Fn) (i status : Nat) (h : Kept s0 s) : Kept s0 (State.endRun s
    f i status) := by
  unfold State.endRun
  repeat' with_reducible first
    | assumption
    | apply State.freeRing_kept
    | apply State.complete_kept
    | split

theorem State.endForwarded_kept {s0 : State} (s : State) (f : Fn) (h : Kept s0 s) : Kept s0 (State.endForwarded s f)
    := by
  unfold State.endForwarded
  repeat' with_reducible first
    | assumption
    | apply State.drawFree_kept
    | apply State.freeRing_kept
    | apply State.completeAt_kept
    | refine kept_foldl (fun s1 x1 h1 => ?_) _ _ ?_
    | split

theorem State.putEntry_kept {s0 : State} (s : State) (f : Fn) (j : Nat) (data : Bool → List Byte) (h : Kept s0 s) :
    Kept s0 (State.putEntry s f j data) := by
  unfold State.putEntry
  repeat' with_reducible first
    | assumption
    | apply State.emit_kept
    | apply State.setRr_kept

theorem State.takeRecs_kept {s0 : State} (s : State) (key n : Nat) (h : Kept s0 s) : Kept s0 (State.takeRecs s key
    n).1 := by
  unfold State.takeRecs
  repeat' with_reducible first
    | assumption
    | apply State.freeEntries_kept
    | apply State.setQueue_kept
    | apply State.settleQueue_kept

theorem State.takeBatch_kept {s0 : State} (s : State) (keys : List Nat) (room : Nat) (h : Kept s0 s) : Kept s0
    (State.takeBatch s keys room).1 := by
  unfold State.takeBatch
  repeat' with_reducible first
    | assumption
    | apply State.takeRecs_kept
    | refine kept_foldl_fst (fun s1 x1 h1 => ?_) _ _ ?_

theorem State.putTele_kept {s0 : State} (s : State) (t : Nat × Nat × Nat × Nat × List Byte) (h : Kept s0 s) : Kept s0
    (State.putTele s t) := by
  unfold State.putTele
  repeat' with_reducible first
    | assumption
    | apply State.putEntry_kept
    | refine kept_foldl (fun s1 x1 h1 => ?_) _ _ ?_

theorem State.putTeles_kept {s0 : State} (s : State) (a1 : Nat) (h : Kept s0 s) : Kept s0 (State.putTeles s a1) := by
  induction a1 generalizing s with
  | zero => exact h
  | succ n ih =>
    unfold State.putTeles
    split
    · exact h
    · split
      · apply ih; apply State.putTele_kept; exact kept_upd rfl rfl rfl rfl h
      · exact h

theorem State.sendMsix_kept {s0 : State} (s : State) (f : Fn) (vector : Nat) (h : Kept s0 s) : Kept s0 (State.sendMsix
    s f vector) := by
  unfold State.sendMsix
  try dsimp only
  repeat' with_reducible first
    | assumption
    | apply State.emit_kept
    | fail_if_no_progress apply kept_upd (by rfl) (by rfl) (by rfl) (by rfl)
    | split

theorem State.clearVectors_kept {s0 : State} (s : State) (f : Fn) (h : Kept s0 s) : Kept s0 (State.clearVectors s f)
    := by
  unfold State.clearVectors
  repeat' with_reducible first
    | assumption
    | fail_if_no_progress apply kept_upd (by rfl) (by rfl) (by rfl) (by rfl)

theorem State.sendMsg_kept {s0 : State} (s : State) (f : Fn) (j : Nat) (h : Kept s0 s) : Kept s0 (State.sendMsg s f j)
    := by
  unfold State.sendMsg
  repeat' with_reducible first
    | assumption
    | apply State.sendMsix_kept
    | apply State.setRr_kept

theorem State.announce_kept {s0 : State} (s : State) (f : Fn) (j : Nat) (notice : Bool) (h : Kept s0 s) : Kept s0
    (State.announce s f j notice) := by
  unfold State.announce
  try dsimp only
  repeat' with_reducible first
    | assumption
    | apply State.sendMsg_kept
    | apply State.setRr_kept
    | fail_if_no_progress apply kept_upd (by rfl) (by rfl) (by rfl) (by rfl)
    | split

theorem State.publishEnd_kept {s0 : State} (s : State) (f : Fn) (j : Nat) (notice : Bool) (h : Kept s0 s) : Kept s0
    (State.publishEnd s f j notice) := by
  unfold State.publishEnd
  repeat' with_reducible first
    | assumption
    | apply State.announce_kept
    | apply State.emit_kept

theorem State.sendHost_kept {s0 : State} (s : State) (vc ptype dst addr sub func reqid nbytes status : Nat) (data :
    List Byte) (h : Kept s0 s) : Kept s0 (State.sendHost s vc ptype dst addr sub func reqid nbytes status data) := by
  unfold State.sendHost
  repeat' with_reducible first
    | assumption
    | apply State.sendPacket_kept

theorem State.takeHost_kept {s0 : State} (s : State) (n vc ptype sub : Nat) (known : Nat → Bool) (from_ : Packet →
    Bool) (h : Kept s0 s) : Kept s0 (State.takeHost s n vc ptype sub known from_).1 := by
  unfold State.takeHost
  repeat' with_reducible first
    | assumption
    | apply State.raiseMgc_kept
    | refine State.takePacket_kept (y := (_, _)) _ _ _ _ ?_ (by assumption)
    | split

theorem State.awaitReply_kept {s0 : State} (s : State) (win : Nat) (f : Fn) (off len : Nat) (reg : Bool) (h : Kept s0
    s) : Kept s0 (State.awaitReply s win f off len reg) := by
  unfold State.awaitReply
  repeat' with_reducible first
    | assumption
    | fail_if_no_progress apply kept_upd (by rfl) (by rfl) (by rfl) (by rfl)

theorem State.forwardTo_kept {s0 : State} (s : State) (f : Fn) (win : Nat) (a : FolAccess) (h : Kept s0 s) : Kept s0
    (State.forwardTo s f win a) := by
  unfold State.forwardTo
  try dsimp only
  repeat' with_reducible first
    | assumption
    | apply State.awaitReply_kept
    | apply State.sendHost_kept
    | apply State.emit_kept
    | apply State.regRead_kept
    | apply State.regWrite_kept
    | split

theorem execFollowerTimeout_kept {s0 : State} (req : Nat) (s : State) (h : Kept s0 s) : KeptRes s0
    (execFollowerTimeout req s) := by
  unfold execFollowerTimeout
  repeat' with_reducible first
    | assumption
    | apply State.raiseMgc_kept
    | apply State.emit_kept
    | apply keptRes_next
    | fail_if_no_progress apply kept_upd (by rfl) (by rfl) (by rfl) (by rfl)
    | split

theorem State.replyArrived_kept {s0 : State} (s : State) (k : Packet) (reg : Bool) (h : Kept s0 s) : Kept s0
    (State.replyArrived s k reg) := by
  unfold State.replyArrived
  repeat' with_reducible first
    | assumption
    | apply State.emit_kept
    | fail_if_no_progress apply kept_upd (by rfl) (by rfl) (by rfl) (by rfl)
    | split

theorem execRegrspReceive_kept {s0 : State} (port : Nat) (s : State) (h : Kept s0 s) : KeptRes s0 (execRegrspReceive
    port s) := by
  unfold execRegrspReceive
  repeat' with_reducible first
    | assumption
    | apply State.replyArrived_kept
    | apply keptRes_next
    | apply keptRes_within
    | (refine kept_of_fst (by assumption) (State.takeHost_kept _ _ _ _ _ _ _ ?_))
    | split

theorem execHostReadData_kept {s0 : State} (port : Nat) (s : State) (h : Kept s0 s) : KeptRes s0 (execHostReadData
    port s) := by
  unfold execHostReadData
  repeat' with_reducible first
    | assumption
    | apply State.replyArrived_kept
    | apply keptRes_next
    | apply keptRes_within
    | (refine kept_of_fst (by assumption) (State.takeHost_kept _ _ _ _ _ _ _ ?_))
    | split

theorem execHostReadRequest_kept {s0 : State} (port : Nat) (d : HostBytes) (s : State) (h : Kept s0 s) : KeptRes s0
    (execHostReadRequest port d s) := by
  unfold execHostReadRequest
  repeat' with_reducible first
    | assumption
    | apply State.sendHost_kept
    | apply keptRes_next
    | apply keptRes_within
    | (refine kept_of_fst (by assumption) (State.takeHost_kept _ _ _ _ _ _ _ ?_))
    | split

theorem execHostWrite_kept {s0 : State} (port : Nat) (s : State) (h : Kept s0 s) : KeptRes s0 (execHostWrite port s)
    := by
  unfold execHostWrite
  repeat' with_reducible first
    | assumption
    | apply State.emit_kept
    | apply keptRes_next
    | apply keptRes_within
    | (refine kept_of_fst (by assumption) (State.takeHost_kept _ _ _ _ _ _ _ ?_))
    | split

theorem execHostRecord_kept {s0 : State} (port : Nat) (s : State) (h : Kept s0 s) : KeptRes s0 (execHostRecord port s)
    := by
  unfold execHostRecord
  try dsimp only
  repeat' with_reducible first
    | assumption
    | apply State.setQueue_kept
    | apply State.freeRing_kept
    | apply keptRes_next
    | apply keptRes_within
    | fail_if_no_progress apply kept_upd (by rfl) (by rfl) (by rfl) (by rfl)
    | (refine kept_of_fst (by assumption) (State.takeHost_kept _ _ _ _ _ _ _ ?_))
    | split

theorem State.askLead_kept {s0 : State} (s : State) (f : Fn) (key addr n : Nat) (h : Kept s0 s) : Kept s0
    (State.askLead s f key addr n) := by
  unfold State.askLead
  repeat' with_reducible first
    | assumption
    | apply State.sendHost_kept
    | fail_if_no_progress apply kept_upd (by rfl) (by rfl) (by rfl) (by rfl)
    | refine kept_foldl (fun s1 x1 h1 => ?_) _ _ ?_

theorem State.getHost_kept {s0 : State} (s : State) (f : Fn) (key addr n : Nat) (h : Kept s0 s) : Kept s0
    (State.getHost s f key addr n) := by
  unfold State.getHost
  repeat' with_reducible first
    | assumption
    | apply State.askLead_kept
    | apply State.setCr_kept

theorem State.publishToLead_kept {s0 : State} (s : State) (f : Fn) (j : Nat) (h : Kept s0 s) : Kept s0
    (State.publishToLead s f j) := by
  unfold State.publishToLead
  repeat' with_reducible first
    | assumption
    | apply State.takeBatch_kept
    | apply State.sendHost_kept
    | refine kept_foldl (fun s1 x1 h1 => ?_) _ _ ?_
    | split

theorem execRecordPublish_kept {s0 : State} (fn : Fn) (ring : Nat) (s : State) (h : Kept s0 s) : KeptRes s0
    (execRecordPublish fn ring s) := by
  unfold execRecordPublish
  try dsimp only
  repeat' with_reducible first
    | assumption
    | apply State.publishToLead_kept
    | apply State.putTeles_kept
    | apply State.publishEnd_kept
    | apply State.takeBatch_kept
    | apply State.putEntry_kept
    | apply keptRes_next
    | apply keptRes_fault
    | apply keptRes_within
    | refine kept_foldl (fun s1 x1 h1 => ?_) _ _ ?_
    | split

theorem execHoldoffExpire_kept {s0 : State} (fn : Fn) (ring : Nat) (s : State) (h : Kept s0 s) : KeptRes s0
    (execHoldoffExpire fn ring s) := by
  unfold execHoldoffExpire
  try dsimp only
  repeat' with_reducible first
    | assumption
    | apply State.sendMsg_kept
    | apply keptRes_next
    | apply keptRes_fault
    | apply keptRes_within
    | split

/-! ### Machine/Serving.lean -/

theorem State.hostStore_kept {s0 : State} (s : State) (f : Fn) (addr : Nat) (data : List Byte) (h : Kept s0 s) : Kept
    s0 (State.hostStore s f addr data) := by
  unfold State.hostStore
  repeat' with_reducible first
    | assumption
    | apply State.sendHost_kept
    | apply State.emit_kept
    | refine kept_foldl (fun s1 x1 h1 => ?_) _ _ ?_
    | split

theorem State.terminal_kept {s0 : State} (s : State) (tbl status id detail : Nat) (h : Kept s0 s) : Kept s0
    (State.terminal s tbl status id detail) := by
  unfold State.terminal
  repeat' with_reducible first
    | assumption
    | apply State.raise_kept

theorem State.stopRestore_kept {s0 : State} (s : State) (q : Request) (h : Kept s0 s) : Kept s0 (State.stopRestore s q) := by
  unfold State.stopRestore
  repeat' with_reducible first
    | assumption
    | fail_if_no_progress apply kept_upd (by rfl) (by rfl) (by rfl) (by rfl)
    | split

theorem State.endRequest_kept {s0 : State} (s : State) (q : Request) (status end_ : Nat) (h : Kept s0 s) : Kept s0
    (State.endRequest s q status end_) := by
  unfold State.endRequest
  repeat' with_reducible first
    | assumption
    | apply State.terminal_kept
    | apply State.stopRestore_kept
    | fail_if_no_progress apply kept_upd (by rfl) (by rfl) (by rfl) (by rfl)
    | refine kept_foldl (fun s1 x1 h1 => ?_) _ _ ?_

theorem State.endAll_kept {s0 : State} (s : State) (p : Request → Bool) (status : Nat) (h : Kept s0 s) : Kept s0
    (State.endAll s p status) := by
  unfold State.endAll
  repeat' with_reducible first
    | assumption
    | apply State.endRequest_kept
    | refine kept_foldl (fun s1 x1 h1 => ?_) _ _ ?_

theorem State.modReq_kept {s0 : State} (s : State) (id : Nat) (f : Request → Request) (h : Kept s0 s) : Kept s0
    (State.modReq s id f) := by
  unfold State.modReq
  repeat' with_reducible first
    | assumption
    | fail_if_no_progress apply kept_upd (by rfl) (by rfl) (by rfl) (by rfl)

theorem State.descTaken_kept {s0 : State} (s : State) (d : DescIn) (h : Kept s0 s) : Kept s0 (State.descTaken s d) :=
    by
  unfold State.descTaken
  try dsimp only
  repeat' with_reducible first
    | assumption
    | apply State.setCr_kept
    | apply State.endRun_kept
    | fail_if_no_progress apply kept_upd (by rfl) (by rfl) (by rfl) (by rfl)
    | split

theorem State.noteSource_kept {s0 : State} (s : State) (d : DescIn) (h : Kept s0 s) : Kept s0 (State.noteSource s d)
    := by
  unfold State.noteSource
  try dsimp only
  repeat' with_reducible first
    | assumption
    | fail_if_no_progress apply kept_upd (by rfl) (by rfl) (by rfl) (by rfl)
    | split

theorem State.takeDesc_kept {s0 : State} {α : Type} (s : State) (d0 : DescIn) (op : Nat) (named : Option α) (k : State
    → DescIn → α → State) (hk : ∀ s x y, Kept s0 s → Kept s0 (k s x y)) (h : Kept s0 s) : Kept s0 (State.takeDesc s d0
    op named k) := by
  unfold State.takeDesc
  try dsimp only
  repeat' with_reducible first
    | assumption
    | apply hk
    | apply State.descTaken_kept
    | apply State.raise_kept
    | apply State.noteSource_kept
    | split

theorem State.failIntake_kept {s0 : State} (s : State) (x : Desc) (code : Nat) (h : Kept s0 s) : Kept s0
    (State.failIntake s x code) := by
  unfold State.failIntake
  repeat' with_reducible first
    | assumption
    | apply State.terminal_kept
    | fail_if_no_progress apply kept_upd (by rfl) (by rfl) (by rfl) (by rfl)
    | split

theorem State.duplicate_kept {s0 s1 : State} (s : State) (x : Desc) (h : Kept s0 s) (e : s.duplicate x = some s1) :
    Kept s0 s1 := by
  unfold State.duplicate at e
  split at e
  · split at e
    · cases e; apply State.modReq_kept; exact h
    · cases e; apply State.terminal_kept; exact h
  · split at e
    · cases e; apply State.terminal_kept; exact h
    · split at e
      · obtain ⟨r, -, rfl⟩ := Option.map_eq_some_iff.mp e
        exact State.terminal_kept _ _ _ _ _ h
      · cases e

theorem State.enter_kept {s0 : State} (s : State) (x : Desc) (q : Request) (h : Kept s0 s) : Kept s0 (State.enter s x
    q) := by
  unfold State.enter
  repeat' with_reducible first
    | assumption
    | apply State.endRequest_kept
    | fail_if_no_progress apply kept_upd (by rfl) (by rfl) (by rfl) (by rfl)
    | split

theorem State.takePrompted_kept {s0 : State} (s : State) (d : DescIn) (prompt : List Word) (h : Kept s0 s) : Kept s0
    (State.takePrompted s d prompt) := by
  unfold State.takePrompted
  try dsimp only
  repeat' with_reducible first
    | assumption
    | apply State.failIntake_kept
    | apply State.enter_kept
    | exact State.duplicate_kept _ _ h (by assumption)
    | split

theorem State.takeResume_kept {s0 : State} (s : State) (d : DescIn) (rec_ : List Byte) (prompt : List Word) (h : Kept
    s0 s) : Kept s0 (State.takeResume s d rec_ prompt) := by
  unfold State.takeResume
  try dsimp only
  repeat' with_reducible first
    | assumption
    | apply State.failIntake_kept
    | apply State.enter_kept
    | fail_if_no_progress apply kept_upd (by rfl) (by rfl) (by rfl) (by rfl)
    | exact State.duplicate_kept _ _ h (by assumption)
    | split

theorem State.takeAct_kept {s0 : State} (s : State) (d : DescIn) (h : Kept s0 s) : Kept s0 (State.takeAct s d) := by
  unfold State.takeAct
  repeat' with_reducible first
    | assumption
    | apply State.raise_kept
    | fail_if_no_progress apply kept_upd (by rfl) (by rfl) (by rfl) (by rfl)
    | split

theorem execGenerate_kept {s0 : State} (d : DescIn) (prompt : List Word) (s : State) (h : Kept s0 s) : KeptRes s0
    (execGenerate d prompt s) := by
  unfold execGenerate
  repeat' with_reducible first
    | assumption
    | apply State.takeDesc_kept
    | apply State.takePrompted_kept
    | apply keptRes_next

theorem execScore_kept {s0 : State} (d : DescIn) (prompt : List Word) (s : State) (h : Kept s0 s) : KeptRes s0
    (execScore d prompt s) := by
  unfold execScore
  repeat' with_reducible first
    | assumption
    | apply State.takeDesc_kept
    | apply State.takePrompted_kept
    | apply keptRes_next

theorem execCancel_kept {s0 : State} (d : DescIn) (s : State) (h : Kept s0 s) : KeptRes s0 (execCancel d s) := by
  unfold execCancel
  repeat' with_reducible first
    | assumption
    | apply State.takeDesc_kept
    | apply State.takeAct_kept
    | apply keptRes_next
    | intro _

theorem execPark_kept {s0 : State} (d : DescIn) (s : State) (h : Kept s0 s) : KeptRes s0 (execPark d s) := by
  unfold execPark
  repeat' with_reducible first
    | assumption
    | apply State.takeDesc_kept
    | apply State.takeAct_kept
    | apply keptRes_next
    | intro _

theorem execResume_kept {s0 : State} (d : DescIn) (record : List Byte) (prompt : List Word) (s : State) (h : Kept s0
    s) : KeptRes s0 (execResume d record prompt s) := by
  unfold execResume
  repeat' with_reducible first
    | assumption
    | apply State.takeDesc_kept
    | apply State.takeResume_kept
    | apply keptRes_next
    | intro _

theorem execBind_kept {s0 : State} (d : DescIn) (s : State) (h : Kept s0 s) : KeptRes s0 (execBind d s) := by
  unfold execBind
  repeat' with_reducible first
    | assumption
    | apply State.takeDesc_kept
    | apply State.takeAct_kept
    | apply keptRes_next
    | intro _

theorem State.deliverToken_kept {s0 : State} (s : State) (q : Request) (tok : Nat) (h : Kept s0 s) : Kept s0
    (State.deliverToken s q tok).1 := by
  unfold State.deliverToken
  try dsimp only
  repeat' with_reducible first
    | assumption
    | apply State.hostStore_kept
    | apply State.raise_kept
    | fail_if_no_progress apply kept_upd (by rfl) (by rfl) (by rfl) (by rfl)
    | split

theorem State.deliverTokens_kept {s0 : State} (s : State) (b : Bool) (q : Request) (a1 : List Nat) (h : Kept s0 s) :
    Kept s0 (State.deliverTokens s b q a1).1 := by
  induction a1 generalizing s q with
  | nil => exact h
  | cons t ts ih =>
    unfold State.deliverTokens
    have h1 := State.deliverToken_kept s q t h
    dsimp only
    split
    · exact h
    · split
      · exact h1
      · split
        · exact h1
        · exact ih _ _ h1

theorem State.openRead_kept {s0 : State} (s : State) (key : SvcKey) (fails : List Nat) (h : Kept s0 s) : Kept s0
    (State.openRead s key fails).1 := by
  unfold State.openRead
  try dsimp only
  repeat' with_reducible first
    | assumption
    | fail_if_no_progress apply kept_upd (by rfl) (by rfl) (by rfl) (by rfl)

theorem State.closeRead_kept {s0 : State} (s : State) (id : Nat) (h : Kept s0 s) : Kept s0
    (State.closeRead s id) := by
  unfold State.closeRead
  try dsimp only
  repeat' with_reducible first
    | assumption
    | fail_if_no_progress apply kept_upd (by rfl) (by rfl) (by rfl) (by rfl)

theorem State.askSvcRows_kept {s0 : State} (s : State) (id p row n off : Nat) (quiet : Bool) (h : Kept s0 s) : Kept s0
    (State.askSvcRows s id p row n off quiet) := by
  unfold State.askSvcRows
  try dsimp only
  repeat' with_reducible first
    | assumption
    | apply State.modRead_kept
    | apply State.modTile_kept
    | apply State.reportRows_kept
    | fail_if_no_progress apply kept_upd (by rfl) (by rfl) (by rfl) (by rfl)
    | refine kept_foldl (fun s1 x1 h1 => ?_) _ _ ?_
    | split

theorem State.forceRead_kept {s0 : State} (s : State) (id : Nat) (h : Kept s0 s) : Kept s0
    (State.forceRead s id) := by
  unfold State.forceRead
  try dsimp only
  repeat' with_reducible first
    | assumption
    | apply State.modRead_kept
    | fail_if_no_progress apply kept_upd (by rfl) (by rfl) (by rfl) (by rfl)

theorem State.genResult_kept {s0 : State} (s : State) (b : Bool) (q : Request) (r : StepRun) (l : List ResultRec)
    (h : Kept s0 s) : Kept s0 (State.genResult s b q r l).1 := by
  unfold State.genResult
  repeat' with_reducible first
    | assumption
    | apply State.deliverTokens_kept
    | apply State.setTable_kept
    | fail_if_no_progress apply kept_upd (by rfl) (by rfl) (by rfl) (by rfl)

theorem State.stepResult_kept {s0 : State} (s : State) (b : Bool) (q : Request) (r : StepRun) (l : List ResultRec) (h : Kept s0 s) : Kept s0
    (State.stepResult s b q r l).1 := by
  unfold State.stepResult
  try dsimp only
  repeat' with_reducible first
    | assumption
    | apply State.genResult_kept
    | apply State.hostStore_kept
    | apply State.deliverTokens_kept
    | fail_if_no_progress apply kept_upd (by rfl) (by rfl) (by rfl) (by rfl)
    | split

theorem State.readRequest_kept {s0 : State} (s : State) (t : Nat) (l : SvcRead) (q : Request) (h : Kept s0 s) : Kept s0
    (State.readRequest s t l q) := by
  unfold State.readRequest
  try dsimp only
  repeat' with_reducible first
    | assumption
    | apply State.stepResult_kept
    | apply State.modReq_kept
    | refine kept_foldl_fst (fun s1 x1 h1 => ?_) _ _ ?_
    | refine kept_foldl (fun s1 x1 h1 => ?_) _ _ ?_
    | split

theorem State.readResults_kept {s0 : State} (s : State) (tbl t : Nat) (l : SvcRead) (h : Kept s0 s) : Kept s0 (State.readResults s
    tbl t l) := by
  unfold State.readResults
  repeat' with_reducible first
    | assumption
    | apply State.readRequest_kept
    | refine kept_foldl (fun s1 x1 h1 => ?_) _ _ ?_

theorem State.askResults_kept {s0 : State} (s : State) (tbl t : Nat) (fails : List Nat) (h : Kept s0 s) : Kept s0
    (State.askResults s tbl t fails) := by
  unfold State.askResults
  try dsimp only
  repeat' with_reducible first
    | assumption
    | apply State.askSvcRows_kept
    | apply State.openRead_kept
    | refine kept_foldl (fun s1 x1 h1 => ?_) _ _ ?_
    | split

theorem State.takeResults_kept {s0 : State} (s : State) (tbl t : Nat) (h : Kept s0 s) : Kept s0
    (State.takeResults s tbl t) := by
  unfold State.takeResults
  try dsimp only
  repeat' with_reducible first
    | assumption
    | apply State.closeRead_kept
    | apply State.forceRead_kept
    | apply State.readResults_kept
    | split

theorem execResultRead_kept {s0 : State} (r : ResultIn) (s : State) (h : Kept s0 s) : KeptRes s0 (execResultRead r s) := by
  unfold execResultRead
  repeat' with_reducible first
    | assumption
    | apply State.readResults_kept
    | apply keptRes_next
    | apply keptRes_within
    | apply State.askResults_kept
    | split

theorem State.svcRows_kept {s0 : State} (s : State) (p src op end_ off : Nat) (data : List Byte) (h : Kept s0 s) :
    Kept s0 (State.svcRows s p src op end_ off data) := by
  unfold State.svcRows
  repeat' with_reducible first
    | assumption
    | apply State.modTile_kept
    | apply State.reportRows_kept
    | fail_if_no_progress apply kept_upd (by rfl) (by rfl) (by rfl) (by rfl)
    | refine kept_foldl (fun s1 x1 h1 => ?_) _ _ ?_
    | split

theorem State.svcWrites_kept {s0 : State} (s : State) (p src op off : Nat) (data : List Byte) (h : Kept s0 s) : Kept
    s0 (State.svcWrites s p src op off data) := by
  unfold State.svcWrites
  repeat' with_reducible first
    | assumption
    | apply State.svcRows_kept
    | apply State.modTile_kept

theorem State.judgeInputs_kept {s0 : State} (s : State) (tbl : Nat) (h : Kept s0 s) : Kept s0 (State.judgeInputs s tbl) := by
  unfold State.judgeInputs
  try dsimp only
  repeat' with_reducible first
    | assumption
    | apply State.modTile_kept
    | apply State.endAll_kept
    | fail_if_no_progress apply kept_upd (by rfl) (by rfl) (by rfl) (by rfl)
    | split

theorem State.askLanes_kept {s0 : State} (s : State) (tbl : Nat) (h : Kept s0 s) : Kept s0
    (State.askLanes s tbl) := by
  unfold State.askLanes
  try dsimp only
  repeat' with_reducible first
    | assumption
    | apply State.askSvcRows_kept
    | apply State.openRead_kept
    | fail_if_no_progress apply kept_upd (by rfl) (by rfl) (by rfl) (by rfl)
    | split

theorem State.takeLanes_kept {s0 : State} (s : State) (tbl : Nat) (h : Kept s0 s) : Kept s0
    (State.takeLanes s tbl) := by
  unfold State.takeLanes
  try dsimp only
  repeat' with_reducible first
    | assumption
    | apply State.closeRead_kept
    | apply State.forceRead_kept
    | fail_if_no_progress apply kept_upd (by rfl) (by rfl) (by rfl) (by rfl)
    | refine kept_foldl (fun s1 x1 h1 => ?_) _ _ ?_
    | split

theorem execInputRecordDeadline_kept {s0 : State} (tbl : Nat) (s : State) (h : Kept s0 s) : KeptRes s0
    (execInputRecordDeadline tbl s) := by
  unfold execInputRecordDeadline
  repeat' with_reducible first
    | assumption
    | apply State.judgeInputs_kept
    | apply keptRes_next
    | apply keptRes_within
    | split

theorem execLaneMapSample_kept {s0 : State} (tbl : Nat) (s : State) (h : Kept s0 s) : KeptRes s0 (execLaneMapSample
    tbl s) := by
  unfold execLaneMapSample
  try dsimp only
  repeat' with_reducible first
    | assumption
    | apply keptRes_next
    | apply keptRes_within
    | apply State.askLanes_kept
    | split

theorem State.sampleRest_kept {s0 : State} (s : State) (h : Kept s0 s) : Kept s0 (State.sampleRest s) := by
  unfold State.sampleRest
  repeat' with_reducible first
    | assumption
    | apply State.askLanes_kept
    | apply State.takeLanes_kept
    | refine kept_foldl (fun s1 x1 h1 => ?_) _ _ ?_
    | split

theorem State.gatherLane_kept {s0 : State} (s : State) (g : Nat) (c : GatherCfg) (p i : Nat) (h : Kept s0 s) : Kept s0
    (State.gatherLane s g c p i) := by
  unfold State.gatherLane
  try dsimp only
  repeat' with_reducible first
    | assumption
    | apply State.svcWrites_kept
    | apply State.modTile_kept
    | apply State.reportRows_kept
    | fail_if_no_progress apply kept_upd (by rfl) (by rfl) (by rfl) (by rfl)
    | refine kept_foldl (fun s1 x1 h1 => ?_) _ _ ?_
    | split

theorem execGather_kept {s0 : State} (g : Nat) (s : State) (h : Kept s0 s) : KeptRes s0 (execGather g s) := by
  unfold execGather
  repeat' with_reducible first
    | assumption
    | apply State.gatherLane_kept
    | apply keptRes_next
    | fail_if_no_progress apply kept_upd (by rfl) (by rfl) (by rfl) (by rfl)
    | refine kept_foldl (fun s1 x1 h1 => ?_) _ _ ?_
    | split

theorem State.judgeGather_kept {s0 : State} (s : State) (g : Nat) (h : Kept s0 s) : Kept s0 (State.judgeGather s g) := by
  unfold State.judgeGather
  try dsimp only
  repeat' with_reducible first
    | assumption
    | apply State.modTile_kept
    | apply State.svcRows_kept
    | apply State.raise_kept
    | fail_if_no_progress apply kept_upd (by rfl) (by rfl) (by rfl) (by rfl)
    | refine kept_foldl (fun s1 x1 h1 => ?_) _ _ ?_
    | split

theorem execGatherDeadline_kept {s0 : State} (g : Nat) (s : State) (h : Kept s0 s) : KeptRes s0 (execGatherDeadline g
    s) := by
  unfold execGatherDeadline
  repeat' with_reducible first
    | assumption
    | apply State.judgeGather_kept
    | apply keptRes_next
    | split

theorem State.svcPacket_kept {s0 : State} (s : State) (ptype id dev lt off : Nat) (payload : List Byte) (h : Kept s0 s) :
    Kept s0 (State.svcPacket s ptype id dev lt off payload) := by
  unfold State.svcPacket
  repeat' with_reducible first
    | assumption
    | apply State.sendPacket_kept

theorem State.askEntry_kept {s0 : State} (s : State) (id tbl : Nat) (m : StateMap) (slot off : Nat) (h : Kept s0 s) : Kept s0
    (State.askEntry s id tbl m slot off) := by
  unfold State.askEntry
  try dsimp only
  repeat' with_reducible first
    | assumption
    | apply State.askSvcRows_kept
    | apply State.modRead_kept
    | apply State.raiseSvc_kept
    | apply State.svcPacket_kept
    | fail_if_no_progress apply kept_upd (by rfl) (by rfl) (by rfl) (by rfl)
    | refine kept_foldl (fun s1 x1 h1 => ?_) _ _ ?_
    | split

theorem State.askSlot_kept {s0 : State} (s : State) (q : Request) (h : Kept s0 s) : Kept s0 (State.askSlot s q) := by
  unfold State.askSlot
  repeat' with_reducible first
    | assumption
    | apply State.svcPacket_kept
    | apply State.askEntry_kept
    | apply State.openRead_kept
    | refine kept_foldl (fun s1 x1 h1 => ?_) _ _ ?_
    | split

theorem State.stopPark_kept {s0 : State} (s : State) (q : Request) (h : Kept s0 s) : Kept s0
    (State.stopPark s q) := by
  unfold State.stopPark
  try dsimp only
  repeat' with_reducible first
    | assumption
    | apply State.modReq_kept
    | apply State.raiseSvc_kept

theorem execParkComplete_kept {s0 : State} (reqid : Nat) (giveUp : Bool) (s : State) (h : Kept s0
    s) : KeptRes s0 (execParkComplete reqid giveUp s) := by
  unfold execParkComplete
  try dsimp only
  repeat' with_reducible first
    | assumption
    | apply State.modReq_kept
    | apply State.raise_kept
    | apply State.hostStore_kept
    | apply State.endRequest_kept
    | apply keptRes_next
    | apply State.closeRead_kept
    | apply State.raiseSvc_kept
    | apply State.stopPark_kept
    | fail_if_no_progress apply kept_upd (by rfl) (by rfl) (by rfl) (by rfl)
    | split

theorem State.restoreSegment_kept {s0 : State} (s : State) (id slot : Nat) (g : Nat × Nat × List Byte) (h : Kept s0 s)
    : Kept s0 (State.restoreSegment s id slot g) := by
  unfold State.restoreSegment
  try dsimp only
  repeat' with_reducible first
    | assumption
    | apply State.svcRows_kept
    | apply State.svcPacket_kept
    | apply State.raiseSvc_kept
    | refine kept_foldl (fun s1 x1 h1 => ?_) _ _ ?_
    | split

theorem State.beginRestore_kept {s0 : State} (s : State) (q : Request) (slot : Nat) (h : Kept s0 s) : Kept s0
    (State.beginRestore s q slot) := by
  unfold State.beginRestore
  repeat' with_reducible first
    | assumption
    | apply State.modReq_kept
    | apply State.restoreSegment_kept
    | fail_if_no_progress apply kept_upd (by rfl) (by rfl) (by rfl) (by rfl)
    | refine kept_foldl (fun s1 x1 h1 => ?_) _ _ ?_

theorem execRestoreComplete_kept {s0 : State} (reqid : Nat) (s : State) (h : Kept s0 s) : KeptRes s0
    (execRestoreComplete reqid s) := by
  unfold execRestoreComplete
  repeat' with_reducible first
    | assumption
    | apply State.modReq_kept
    | apply keptRes_next
    | fail_if_no_progress apply kept_upd (by rfl) (by rfl) (by rfl) (by rfl)
    | split

/-! ### Machine/Learning.lean -/

theorem State.makeGrant_kept {s0 : State} (s : State) (i : Nat) (r : LearnRec) (h : Kept s0 s) : Kept s0
    (State.makeGrant s i r) := by
  unfold State.makeGrant
  try dsimp only
  repeat' with_reducible first
    | assumption
    | apply State.svcRows_kept
    | fail_if_no_progress apply kept_upd (by rfl) (by rfl) (by rfl) (by rfl)
    | split

theorem State.startGrant_kept {s0 : State} (s : State) (i : Nat) (r : LearnRec) (h : Kept s0 s) : Kept s0
    (State.startGrant s i r) := by
  unfold State.startGrant
  try dsimp only
  repeat' with_reducible first
    | assumption
    | apply State.makeGrant_kept
    | apply State.raise_kept
    | apply State.raiseSvc_kept
    | fail_if_no_progress apply kept_upd (by rfl) (by rfl) (by rfl) (by rfl)
    | split

theorem State.retryGrant_kept {s0 : State} (s : State) (i : Nat) (r : LearnRec) (h : Kept s0 s) : Kept s0
    (State.retryGrant s i r) := by
  unfold State.retryGrant
  try dsimp only
  repeat' with_reducible first
    | assumption
    | apply State.makeGrant_kept
    | apply State.addChoice_kept
    | split

theorem State.askPub_kept {s0 : State} (s : State) (i : Nat) (r : LearnRec) (h : Kept s0 s) : Kept s0
    (State.askPub s i r) := by
  unfold State.askPub
  try dsimp only
  repeat' with_reducible first
    | assumption
    | apply State.askSvcRows_kept
    | apply State.openRead_kept
    | fail_if_no_progress apply kept_upd (by rfl) (by rfl) (by rfl) (by rfl)
    | split

theorem State.takePub_kept {s0 : State} (s : State) (i : Nat) (h : Kept s0 s) : Kept s0
    (State.takePub s i) := by
  unfold State.takePub
  try dsimp only
  repeat' with_reducible first
    | assumption
    | apply State.closeRead_kept
    | apply State.forceRead_kept
    | fail_if_no_progress apply kept_upd (by rfl) (by rfl) (by rfl) (by rfl)
    | split

theorem State.samplePubs_kept {s0 : State} (s : State) (h : Kept s0 s) : Kept s0
    (State.samplePubs s) := by
  unfold State.samplePubs
  try dsimp only
  repeat' with_reducible first
    | assumption
    | apply State.askPub_kept
    | refine kept_foldl (fun s1 x1 h1 => ?_) _ _ ?_
    | split

theorem State.takeReads_kept {s0 : State} (s : State) (h : Kept s0 s) : Kept s0
    (State.takeReads s) := by
  unfold State.takeReads
  try dsimp only
  repeat' with_reducible first
    | assumption
    | apply State.takeLanes_kept
    | apply State.takePub_kept
    | apply State.takeResults_kept
    | refine kept_foldl (fun s1 x1 h1 => ?_) _ _ ?_
    | split

theorem execGrantFromWaiting_kept {s0 : State} (idx : Nat) (s : State) (h : Kept s0 s) : KeptRes s0
    (execGrantFromWaiting idx s) := by
  unfold execGrantFromWaiting
  repeat' with_reducible first
    | assumption
    | apply State.retryGrant_kept
    | apply keptRes_next
    | split

theorem execPublicationSample_kept {s0 : State} (idx : Nat) (s : State) (h : Kept s0 s) : KeptRes s0
    (execPublicationSample idx s) := by
  unfold execPublicationSample
  try dsimp only
  repeat' with_reducible first
    | assumption
    | apply keptRes_next
    | apply State.askPub_kept
    | fail_if_no_progress apply kept_upd (by rfl) (by rfl) (by rfl) (by rfl)
    | split

theorem State.decide1_kept {s0 : State} (s : State) (i : Nat) (r : LearnRec) (h : Kept s0 s) : Kept s0 (State.decide1
    s i r) := by
  unfold State.decide1
  try dsimp only
  repeat' with_reducible first
    | assumption
    | apply State.raise_kept
    | apply State.addChoice_kept
    | apply State.askPub_kept
    | apply State.raiseSvc_kept
    | apply State.takePub_kept
    | fail_if_no_progress apply kept_upd (by rfl) (by rfl) (by rfl) (by rfl)
    | split

theorem State.withdraw_kept {s0 : State} (s : State) (i : Nat) (h : Kept s0 s) : Kept s0 (State.withdraw s i) := by
  unfold State.withdraw
  repeat' with_reducible first
    | assumption
    | fail_if_no_progress apply kept_upd (by rfl) (by rfl) (by rfl) (by rfl)

theorem State.decideAll_kept {s0 : State} (s : State) (h : Kept s0 s) : Kept s0 (State.decideAll s) := by
  unfold State.decideAll
  repeat' with_reducible first
    | assumption
    | apply State.decide1_kept
    | refine kept_foldl (fun s1 x1 h1 => ?_) _ _ ?_

theorem State.grantAll_kept {s0 : State} (s : State) (entered : List Nat) (h : Kept s0 s) : Kept s0 (State.grantAll s
    entered) := by
  unfold State.grantAll
  repeat' with_reducible first
    | assumption
    | apply State.withdraw_kept
    | apply State.startGrant_kept
    | apply State.retryGrant_kept
    | refine kept_foldl (fun s1 x1 h1 => ?_) _ _ ?_
    | split

/-! ### Machine/Admission.lean -/

theorem State.finishRequest_kept {s0 : State} (s : State) (id : Nat) (h : Kept s0 s) : Kept s0 (State.finishRequest s
    id) := by
  unfold State.finishRequest
  try dsimp only
  repeat' with_reducible first
    | assumption
    | apply State.endRequest_kept
    | apply State.modReq_kept
    | fail_if_no_progress apply kept_upd (by rfl) (by rfl) (by rfl) (by rfl)
    | split

theorem State.finishResults_kept {s0 : State} (s : State) (tbl t : Nat) (h : Kept s0 s) : Kept s0 (State.finishResults
    s tbl t) := by
  unfold State.finishResults
  repeat' with_reducible first
    | assumption
    | apply State.readResults_kept
    | apply State.finishRequest_kept
    | apply State.askResults_kept
    | apply State.takeResults_kept
    | refine kept_foldl (fun s1 x1 h1 => ?_) _ _ ?_

theorem State.refill_kept {s0 : State} (s : State) (tbl : Nat) (h : Kept s0 s) : Kept s0 (State.refill s tbl) := by
  unfold State.refill
  repeat' with_reducible first
    | assumption
    | apply State.setTable_kept
    | fail_if_no_progress apply kept_upd (by rfl) (by rfl) (by rfl) (by rfl)
    | refine kept_foldl (fun s1 x1 h1 => ?_) _ _ ?_

theorem State.applyPeriod_kept {s0 : State} (s : State) (tbl t : Nat) (h : Kept s0 s) : Kept s0 (State.applyPeriod s
    tbl t) := by
  unfold State.applyPeriod
  repeat' with_reducible first
    | assumption
    | apply State.refill_kept
    | apply State.setTable_kept
    | fail_if_no_progress apply kept_upd (by rfl) (by rfl) (by rfl) (by rfl)
    | split

theorem execBudgetPeriodEnd_kept {s0 : State} (tbl : Nat) (s : State) (h : Kept s0 s) : KeptRes s0
    (execBudgetPeriodEnd tbl s) := by
  unfold execBudgetPeriodEnd
  repeat' with_reducible first
    | assumption
    | apply State.applyPeriod_kept
    | apply keptRes_next
    | apply keptRes_within
    | split

theorem State.applyCancel_kept {s0 : State} (s : State) (tbl id : Nat) (h : Kept s0 s) : Kept s0 (State.applyCancel s
    tbl id) := by
  unfold State.applyCancel
  try dsimp only
  repeat' with_reducible first
    | assumption
    | apply State.addChoice_kept
    | apply State.raise_kept
    | apply State.modReq_kept
    | apply State.endRequest_kept
    | apply State.raiseSvc_kept
    | fail_if_no_progress apply kept_upd (by rfl) (by rfl) (by rfl) (by rfl)
    | split

theorem State.notePark_kept {s0 : State} (s : State) (tbl : Nat) (x : Desc) (h : Kept s0 s) : Kept s0 (State.notePark
    s tbl x) := by
  unfold State.notePark
  repeat' with_reducible first
    | assumption
    | apply State.modReq_kept
    | fail_if_no_progress apply kept_upd (by rfl) (by rfl) (by rfl) (by rfl)
    | split

theorem State.applyParks_kept {s0 : State} (s : State) (tbl : Nat) (h : Kept s0 s) : Kept s0 (State.applyParks s tbl)
    := by
  unfold State.applyParks
  repeat' with_reducible first
    | assumption
    | apply State.askSlot_kept
    | apply State.modReq_kept
    | apply State.addChoice_kept
    | fail_if_no_progress apply kept_upd (by rfl) (by rfl) (by rfl) (by rfl)
    | refine kept_foldl (fun s1 x1 h1 => ?_) _ _ ?_
    | split

theorem State.applyBind_kept {s0 : State} (s : State) (tbl : Nat) (x : Desc) (h : Kept s0 s) : Kept s0
    (State.applyBind s tbl x) := by
  unfold State.applyBind
  try dsimp only
  repeat' with_reducible first
    | assumption
    | apply State.raise_kept
    | apply State.raiseSvc_kept
    | fail_if_no_progress apply kept_upd (by rfl) (by rfl) (by rfl) (by rfl)
    | split

theorem State.applyActs_kept {s0 : State} (s : State) (tbl t : Nat) (h : Kept s0 s) : Kept s0 (State.applyActs s tbl
    t) := by
  unfold State.applyActs
  repeat' with_reducible first
    | assumption
    | apply State.applyCancel_kept
    | apply State.notePark_kept
    | apply State.applyParks_kept
    | apply State.applyBind_kept
    | fail_if_no_progress apply kept_upd (by rfl) (by rfl) (by rfl) (by rfl)
    | refine kept_foldl (fun s1 x1 h1 => ?_) _ _ ?_

theorem State.phaseEffects_kept {s0 : State} (s : State) (tbl t : Nat) (h : Kept s0 s) : Kept s0 (State.phaseEffects s
    tbl t) := by
  unfold State.phaseEffects
  try dsimp only
  repeat' with_reducible first
    | assumption
    | apply State.endAll_kept
    | split

theorem State.charge_kept {s0 : State} (s : State) (tbl : Nat) (q : Request) (u : Nat) (kitty : Bool) (h : Kept s0 s)
    : Kept s0 (State.charge s tbl q u kitty) := by
  unfold State.charge
  repeat' with_reducible first
    | assumption
    | apply State.drawFree_kept
    | apply State.setTable_kept
    | fail_if_no_progress apply kept_upd (by rfl) (by rfl) (by rfl) (by rfl)
    | split

theorem State.seat_kept {s0 : State} (s : State) (tbl : Nat) (q : Request) (h : Kept s0 s) : Kept s0 (State.seat s tbl
    q).1 := by
  unfold State.seat
  try dsimp only
  repeat' with_reducible first
    | assumption
    | fail_if_no_progress apply kept_upd (by rfl) (by rfl) (by rfl) (by rfl)
    | split

theorem Placing.place_kept {s0 : State} (a : Placing) (tbl t n : Nat) (q : Request) (toks : List Nat) (gen ends : Bool)
    (h : Kept s0 a.s) : Kept s0 (a.place tbl t n q toks gen ends).s := by
  unfold Placing.place
  repeat' first
    | with_reducible assumption
    | with_reducible apply State.modReq_kept
    | fail_if_no_progress with_reducible apply kept_upd (by rfl) (by rfl) (by rfl) (by rfl)

theorem Placing.admitGen_kept {s0 : State} (tbl t n : Nat) (ids : List Nat) (a : Placing) (h : Kept s0 a.s) :
    Kept s0 (Placing.admitGen tbl t n ids a).s := by
  induction n generalizing ids a with
  | zero => exact h
  | succ n ih =>
    unfold Placing.admitGen
    dsimp only
    split
    · exact h
    · split
      · exact h
      · apply ih; exact State.charge_kept _ _ _ _ _ (Placing.place_kept _ _ _ _ _ _ _ _ h)

theorem Placing.admitPool_kept {s0 : State} (tbl t : Nat) (kitty : Bool) (n : Nat) (ids : List Nat) (a : Placing)
    (h : Kept s0 a.s) : Kept s0 (Placing.admitPool tbl t kitty n ids a).s := by
  induction n generalizing ids a with
  | zero => exact h
  | succ n ih =>
    unfold Placing.admitPool
    dsimp only
    split
    · exact h
    · split
      · exact h
      · (repeat' split) <;> apply ih <;> first
          | exact State.endRequest_kept _ _ _ _ h
          | exact State.charge_kept _ _ _ _ _ (Placing.place_kept _ _ _ _ _ _ _ _ (State.seat_kept _ _ _ h))

theorem State.startRestores_kept {s0 : State} (tbl t a1 : Nat) (a2 : State) (h : Kept s0 a2) : Kept s0
    (State.startRestores tbl t a1 a2) := by
  induction a1 generalizing a2 with
  | zero => exact h
  | succ n ih =>
    unfold State.startRestores
    dsimp only
    split
    · split
      · apply ih; apply State.beginRestore_kept; exact h
      · exact h
    · exact h

theorem State.wakeCustomers_kept {s0 : State} (s : State) (tbl : Nat) (l : List Request) (h : Kept s0 s) : Kept s0
    (State.wakeCustomers s tbl l) := by
  unfold State.wakeCustomers
  repeat' with_reducible first
    | assumption
    | fail_if_no_progress apply kept_upd (by rfl) (by rfl) (by rfl) (by rfl)
    | refine kept_foldl (fun s1 x1 h1 => ?_) _ _ ?_

theorem State.rebaseVt_kept {s0 : State} (s : State) (tbl : Nat) (h : Kept s0 s) : Kept s0 (State.rebaseVt s tbl) :=
    by
  unfold State.rebaseVt
  try dsimp only
  repeat' with_reducible first
    | assumption
    | apply State.setTable_kept
    | fail_if_no_progress apply kept_upd (by rfl) (by rfl) (by rfl) (by rfl)
    | refine kept_foldl (fun s1 x1 h1 => ?_) _ _ ?_
    | split

theorem State.admitRequests_kept {s0 : State} (s : State) (tbl t : Nat) (h : Kept s0 s) : Kept s0 (State.admitRequests
    s tbl t) := by
  have h1 : Kept s0 (if (!(s.table tbl).closing && ((s.table tbl).phase == 1 || (s.table tbl).phase == 2) && !(s.table tbl).failed &&
      !(s.table tbl).recovering) && (s.table tbl).phase == 1 then State.startRestores tbl t (s.reqsOf tbl).length s else s) := by
    split
    · exact State.startRestores_kept _ _ _ _ h
    · exact h
  unfold State.admitRequests
  dsimp only
  have h2 := fun l => State.wakeCustomers_kept _ tbl l (State.rebaseVt_kept _ tbl h1)
  have h3 := fun l n1 l1 n2 l2 => Placing.admitPool_kept tbl t false n2 l2 _ (Placing.admitGen_kept tbl t n1 l1
    (Placing.mk _ 0 []) (h2 l))
  split
  · split
    · exact h3 _ _ _ _ _
    · exact Placing.admitPool_kept _ _ _ _ _ _ (h3 _ _ _ _ _)
  · apply State.svcWrites_kept
    split
    · exact h3 _ _ _ _ _
    · exact Placing.admitPool_kept _ _ _ _ _ _ (h3 _ _ _ _ _)

theorem State.countSources_kept {s0 : State} (s : State) (h : Kept s0 s) : Kept s0 (State.countSources s) := by
  unfold State.countSources
  repeat' with_reducible first
    | assumption
    | apply State.addChoice_kept
    | fail_if_no_progress apply kept_upd (by rfl) (by rfl) (by rfl) (by rfl)
    | refine kept_foldl (fun s1 x1 h1 => ?_) _ _ ?_

theorem State.eachAdmit_kept {s0 : State} (s : State) (f : State → Nat → State) (hf : ∀ s x, Kept s0 s → Kept s0 (f s
    x)) (h : Kept s0 s) : Kept s0 (State.eachAdmit s f) := by
  unfold State.eachAdmit
  repeat' with_reducible first
    | assumption
    | apply hf
    | refine kept_foldl (fun s1 x1 h1 => ?_) _ _ ?_
    | split

theorem State.serveBoundary_kept {s0 : State} (s : State) (t : Nat) (entered : List Nat) (h : Kept s0 s) : Kept s0
    (State.serveBoundary s t entered) := by
  unfold State.serveBoundary
  repeat' with_reducible first
    | assumption
    | apply State.eachAdmit_kept
    | apply State.applyActs_kept
    | apply State.applyPeriod_kept
    | apply State.finishResults_kept
    | apply State.grantAll_kept
    | apply State.decideAll_kept
    | apply State.admitRequests_kept
    | apply State.phaseEffects_kept
    | intro _

theorem State.endDevice_kept {s0 : State} (s : State) (code : Nat) (h : Kept s0 s) : Kept s0 (State.endDevice s code)
    := by
  unfold State.endDevice
  repeat' with_reducible first
    | assumption
    | apply State.endAll_kept

theorem State.endTable_kept {s0 : State} (s : State) (tbl code : Nat) (h : Kept s0 s) : Kept s0 (State.endTable s tbl
    code) := by
  unfold State.endTable
  repeat' with_reducible first
    | assumption
    | apply State.endAll_kept

theorem State.svcBoundary_kept {s0 : State} (s : State) (t : Nat) (entered : List Nat) (h : Kept s0 s) : Kept s0
    (State.svcBoundary s t entered) := by
  unfold State.svcBoundary
  repeat' with_reducible first
    | assumption
    | apply State.countSources_kept
    | apply State.sampleRest_kept
    | apply State.serveBoundary_kept
    | apply State.settle_kept
    | fail_if_no_progress apply kept_upd (by rfl) (by rfl) (by rfl) (by rfl)

end Sys2Proof.Machine
end

