-- ==== Sys2Proof/Laws/KeptTile.lean ====
section
/-! SUPPORT. What the matrix engines, the pips, the dealer, the tallies and one fabric beat keep (`Kept`): one lemma for each operation and for each command. -/

namespace Sys2Proof.Machine

/-! ### Machine/Matrix.lean -/

theorem State.setEngine_kept {s0 : State} (s : State) (p : Nat) (side : Bool) (e : Engine) (h : Kept s0 s) : Kept s0
    (State.setEngine s p side e) := by
  unfold State.setEngine
  repeat' with_reducible first
    | assumption
    | apply State.modTile_kept

theorem State.issueLoad_kept {s0 : State} (s : State) (p idx w : Nat) (side : Bool) (h : Kept s0 s) : Kept s0
    (State.issueLoad s p idx w side) := by
  unfold State.issueLoad
  try dsimp only
  repeat' with_reducible first
    | assumption
    | apply State.raiseDeadline_kept
    | apply State.setEngine_kept
    | fail_if_no_progress apply kept_upd (by rfl) (by rfl) (by rfl) (by rfl)
    | split

theorem execLoadComplete_kept {s0 : State} (p : Nat) (side : Bool) (s : State) (h : Kept s0 s) : KeptRes s0
    (execLoadComplete p side s) := by
  unfold execLoadComplete
  repeat' with_reducible first
    | assumption
    | apply State.setEngine_kept
    | apply keptRes_next
    | apply keptRes_within

theorem State.issuePass_kept {s0 : State} (s : State) (p idx w : Nat) (t : Tile) (h : Kept s0 s) : Kept s0
    (State.issuePass s p idx w t) := by
  unfold State.issuePass
  extract_lets
  split
  · exact State.raiseTile_kept _ _ _ _ _ h
  split
  · exact State.raiseTile_kept _ _ _ _ _ h
  split
  extract_lets
  split
  · exact State.raiseDeadline_kept _ _ _ _ h
  split
  · exact h
  · exact State.setEngine_kept _ _ _ _ h

theorem State.issueSpass_kept {s0 : State} (s : State) (p idx w : Nat) (t : Tile) (h : Kept s0 s) : Kept s0
    (State.issueSpass s p idx w t) := by
  unfold State.issueSpass
  extract_lets
  split
  · exact State.raiseTile_kept _ _ _ _ _ h
  split
  · exact State.raiseTile_kept _ _ _ _ _ h
  split
  extract_lets
  split
  · exact State.raiseDeadline_kept _ _ _ _ h
  split
  · exact h
  · exact State.setEngine_kept _ _ _ _ h

theorem State.engineBeat_kept {s0 : State} (s : State) (p : Nat) (side : Bool) (h : Kept s0 s) : Kept s0
    (State.engineBeat s p side) := by
  unfold State.engineBeat
  repeat' with_reducible first
    | assumption
    | apply State.setEngine_kept

theorem State.footTerm_kept {s0 : State} (s : State) (p : Nat) (x : Pass) (row n : Nat) (first : Bool) (term : Nat) (h
    : Kept s0 s) : Kept s0 (State.footTerm s p x row n first term) := by
  unfold State.footTerm
  repeat' with_reducible first
    | assumption
    | apply State.setHalf_kept
    | apply State.setAccEntry_kept
    | split

theorem State.spoilRows_kept {s0 : State} (s : State) (p : Nat) (lacc : Bool) (rows : List Nat) (h : Kept s0 s) : Kept
    s0 (State.spoilRows s p lacc rows) := by
  unfold State.spoilRows
  repeat' with_reducible first
    | assumption
    | apply State.setHalves_kept

theorem State.retirePasses_kept {s0 : State} (s : State) (p : Nat) (side : Bool) (h : Kept s0 s) : Kept s0
    (State.retirePasses s p side) := by
  unfold State.retirePasses
  repeat' with_reducible first
    | assumption
    | apply State.setEngine_kept

theorem State.issueDrain_kept {s0 : State} (s : State) (p idx w : Nat) (t : Tile) (h : Kept s0 s) : Kept s0
    (State.issueDrain s p idx w t) := by
  unfold State.issueDrain
  try dsimp only
  repeat' with_reducible first
    | assumption
    | apply State.raiseTile_kept
    | apply State.raiseDeadline_kept
    | apply State.modTile_kept
    | split

theorem State.clearAccSlot_kept {s0 : State} (s : State) (p slot : Nat) (h : Kept s0 s) : Kept s0 (State.clearAccSlot
    s p slot) := by
  unfold State.clearAccSlot
  repeat' with_reducible first
    | assumption
    | apply State.setHalves_kept
    | apply State.writeAcc_kept

theorem State.reqBytes_kept {s0 : State} (s : State) (p cls since : Nat) (o : Op) (addr : Nat) (l : List Byte) (h :
    Kept s0 s) : Kept s0 (State.reqBytes s p cls since o addr l) := by
  unfold State.reqBytes
  try dsimp only
  repeat' with_reducible first
    | assumption
    | apply State.reqWriteAt_kept
    | refine kept_foldl (fun s1 x1 h1 => ?_) _ _ ?_
    | split

theorem State.drainRead_kept {s0 : State} (s : State) (p : Nat) (d : Drain) (h : Kept s0 s) : Kept s0 (State.drainRead
    s p d).1 := by
  unfold State.drainRead
  repeat' with_reducible first
    | assumption
    | apply State.clearAccSlot_kept
    | fail_if_no_progress apply kept_upd (by rfl) (by rfl) (by rfl) (by rfl)
    | split

theorem State.drainBeat_kept {s0 : State} (s : State) (p : Nat) (h : Kept s0 s) : Kept s0 (State.drainBeat s p) := by
  unfold State.drainBeat
  try dsimp only
  repeat' with_reducible first
    | assumption
    | apply State.modTile_kept
    | apply State.reqBytes_kept
    | apply State.drainRead_kept
    | fail_if_no_progress apply kept_upd (by rfl) (by rfl) (by rfl) (by rfl)
    | refine kept_foldl (fun s1 x1 h1 => ?_) _ _ ?_
    | split

theorem State.issueAccm_kept {s0 : State} (s : State) (p idx w : Nat) (t : Tile) (h : Kept s0 s) : Kept s0
    (State.issueAccm s p idx w t) := by
  unfold State.issueAccm
  try dsimp only
  repeat' with_reducible first
    | assumption
    | apply State.raiseTile_kept
    | apply State.raiseDeadline_kept
    | apply State.modTile_kept
    | fail_if_no_progress apply kept_upd (by rfl) (by rfl) (by rfl) (by rfl)
    | refine kept_foldl (fun s1 x1 h1 => ?_) _ _ ?_
    | split

theorem State.accmAdd_kept {s0 : State} (s : State) (p : Nat) (a : Accm) (k : Nat) (v : List Byte) (h : Kept s0 s) :
    Kept s0 (State.accmAdd s p a k v) := by
  unfold State.accmAdd
  try dsimp only
  repeat' with_reducible first
    | assumption
    | apply State.setHalves_kept
    | apply State.writeAcc_kept
    | apply State.setAccEntry_kept
    | refine kept_foldl (fun s1 x1 h1 => ?_) _ _ ?_
    | split

theorem State.accmBeat_kept {s0 : State} (s : State) (p : Nat) (h : Kept s0 s) : Kept s0 (State.accmBeat s p) := by
  unfold State.accmBeat
  try dsimp only
  repeat' with_reducible first
    | assumption
    | apply State.modTile_kept
    | apply State.accmAdd_kept
    | apply State.spoilRows_kept
    | fail_if_no_progress apply kept_upd (by rfl) (by rfl) (by rfl) (by rfl)
    | refine kept_foldl (fun s1 x1 h1 => ?_) _ _ ?_
    | split

theorem State.issueShuf_kept {s0 : State} (s : State) (p idx w : Nat) (t : Tile) (h : Kept s0 s) : Kept s0
    (State.issueShuf s p idx w t) := by
  unfold State.issueShuf
  try dsimp only
  repeat' with_reducible first
    | assumption
    | apply State.raiseTile_kept
    | apply State.raiseDeadline_kept
    | apply State.modTile_kept
    | apply State.reqRead_kept
    | fail_if_no_progress apply kept_upd (by rfl) (by rfl) (by rfl) (by rfl)
    | refine kept_foldl (fun s1 x1 h1 => ?_) _ _ ?_
    | split

theorem State.shufBeat_kept {s0 : State} (s : State) (p : Nat) (h : Kept s0 s) : Kept s0 (State.shufBeat s p) := by
  unfold State.shufBeat
  try dsimp only
  repeat' with_reducible first
    | assumption
    | apply State.modTile_kept
    | apply State.reqWriteAt_kept
    | apply State.reqReadAt_kept
    | fail_if_no_progress apply kept_upd (by rfl) (by rfl) (by rfl) (by rfl)
    | refine kept_foldl (fun s1 x1 h1 => ?_) _ _ ?_
    | split

theorem State.cutEngine_kept {s0 : State} (s : State) (p : Nat) (side : Bool) (h : Kept s0 s) : Kept s0
    (State.cutEngine s p side) := by
  unfold State.cutEngine
  repeat' with_reducible first
    | assumption
    | apply State.setEngine_kept
    | apply State.raiseDeadline_kept
    | apply State.spoilRows_kept
    | fail_if_no_progress apply kept_upd (by rfl) (by rfl) (by rfl) (by rfl)
    | refine kept_foldl (fun s1 x1 h1 => ?_) _ _ ?_
    | split

theorem State.cutOp_kept {s0 : State} (s : State) (p id : Nat) (h : Kept s0 s) : Kept s0 (State.cutOp s p id) := by
  unfold State.cutOp
  repeat' with_reducible first
    | assumption
    | apply State.modTile_kept
    | apply State.raiseDeadline_kept
    | fail_if_no_progress apply kept_upd (by rfl) (by rfl) (by rfl) (by rfl)
    | split

theorem State.cutMatrix_kept {s0 : State} (s : State) (p : Nat) (h : Kept s0 s) : Kept s0 (State.cutMatrix s p) := by
  unfold State.cutMatrix
  repeat' with_reducible first
    | assumption
    | apply State.cutEngine_kept
    | apply State.spoilRows_kept
    | apply State.modTile_kept
    | apply State.cutOp_kept
    | fail_if_no_progress apply kept_upd (by rfl) (by rfl) (by rfl) (by rfl)
    | refine kept_foldl (fun s1 x1 h1 => ?_) _ _ ?_
    | split

/-! ### Machine/Pips.lean -/

theorem State.setPips_kept {s0 : State} (s : State) (p : Nat) (x : Pips) (h : Kept s0 s) : Kept s0 (State.setPips s p
    x) := by
  unfold State.setPips
  repeat' with_reducible first
    | assumption
    | apply State.modTile_kept

theorem State.pipRun_kept {s0 : State} (s : State) (p op : Nat) (f : Pips → Nat → Pips) (h : Kept s0 s) : KeptRes s0
    (State.pipRun s p op f) := by
  unfold State.pipRun
  repeat' with_reducible first
    | assumption
    | apply State.setPips_kept
    | apply keptRes_next
    | apply keptRes_within
    | split

theorem execPipNop_kept {s0 : State} (p : Nat) (s : State) (h : Kept s0 s) : KeptRes s0 (execPipNop p s) := by
  unfold execPipNop
  repeat' with_reducible first
    | assumption
    | apply State.pipRun_kept

theorem execHalt_kept {s0 : State} (p : Nat) (s : State) (h : Kept s0 s) : KeptRes s0 (execHalt p s) := by
  unfold execHalt
  repeat' with_reducible first
    | assumption
    | apply State.modTile_kept
    | apply keptRes_next
    | apply keptRes_within
    | fail_if_no_progress apply kept_upd (by rfl) (by rfl) (by rfl) (by rfl)
    | split

theorem execFma_kept {s0 : State} (p : Nat) (s : State) (h : Kept s0 s) : KeptRes s0 (execFma p s) := by
  unfold execFma
  repeat' with_reducible first
    | assumption
    | apply State.pipRun_kept

theorem execFalu_kept {s0 : State} (p : Nat) (s : State) (h : Kept s0 s) : KeptRes s0 (execFalu p s) := by
  unfold execFalu
  repeat' with_reducible first
    | assumption
    | apply State.pipRun_kept

theorem execBfma_kept {s0 : State} (p : Nat) (s : State) (h : Kept s0 s) : KeptRes s0 (execBfma p s) := by
  unfold execBfma
  repeat' with_reducible first
    | assumption
    | apply State.pipRun_kept

theorem execBalu_kept {s0 : State} (p : Nat) (s : State) (h : Kept s0 s) : KeptRes s0 (execBalu p s) := by
  unfold execBalu
  repeat' with_reducible first
    | assumption
    | apply State.pipRun_kept

theorem execFcmp_kept {s0 : State} (p : Nat) (s : State) (h : Kept s0 s) : KeptRes s0 (execFcmp p s) := by
  unfold execFcmp
  repeat' with_reducible first
    | assumption
    | apply State.pipRun_kept

theorem execIalu_kept {s0 : State} (p : Nat) (s : State) (h : Kept s0 s) : KeptRes s0 (execIalu p s) := by
  unfold execIalu
  repeat' with_reducible first
    | assumption
    | apply State.pipRun_kept

theorem execIcmp_kept {s0 : State} (p : Nat) (s : State) (h : Kept s0 s) : KeptRes s0 (execIcmp p s) := by
  unfold execIcmp
  repeat' with_reducible first
    | assumption
    | apply State.pipRun_kept

theorem execSel_kept {s0 : State} (p : Nat) (s : State) (h : Kept s0 s) : KeptRes s0 (execSel p s) := by
  unfold execSel
  repeat' with_reducible first
    | assumption
    | apply State.pipRun_kept

theorem execAddi_kept {s0 : State} (p : Nat) (s : State) (h : Kept s0 s) : KeptRes s0 (execAddi p s) := by
  unfold execAddi
  repeat' with_reducible first
    | assumption
    | apply State.pipRun_kept

theorem execLui_kept {s0 : State} (p : Nat) (s : State) (h : Kept s0 s) : KeptRes s0 (execLui p s) := by
  unfold execLui
  repeat' with_reducible first
    | assumption
    | apply State.pipRun_kept

theorem execOri_kept {s0 : State} (p : Nat) (s : State) (h : Kept s0 s) : KeptRes s0 (execOri p s) := by
  unfold execOri
  repeat' with_reducible first
    | assumption
    | apply State.pipRun_kept

theorem execCvt_kept {s0 : State} (p : Nat) (s : State) (h : Kept s0 s) : KeptRes s0 (execCvt p s) := by
  unfold execCvt
  repeat' with_reducible first
    | assumption
    | apply State.pipRun_kept

theorem execSfu_kept {s0 : State} (p : Nat) (s : State) (h : Kept s0 s) : KeptRes s0 (execSfu p s) := by
  unfold execSfu
  repeat' with_reducible first
    | assumption
    | apply State.pipRun_kept

theorem execMovs_kept {s0 : State} (p : Nat) (s : State) (h : Kept s0 s) : KeptRes s0 (execMovs p s) := by
  unfold execMovs
  repeat' with_reducible first
    | assumption
    | apply State.pipRun_kept

theorem execRnd_kept {s0 : State} (p : Nat) (s : State) (h : Kept s0 s) : KeptRes s0 (execRnd p s) := by
  unfold execRnd
  repeat' with_reducible first
    | assumption
    | apply State.pipRun_kept

theorem State.pipMem_kept {s0 : State} (s : State) (p op : Nat) (who : Pips → List Nat) (f : Pips → Nat → List Nat →
    Pips) (h : Kept s0 s) : KeptRes s0 (State.pipMem s p op who f) := by
  unfold State.pipMem
  try dsimp only
  repeat' with_reducible first
    | assumption
    | apply State.setPips_kept
    | apply State.raiseTile_kept
    | apply keptRes_next
    | apply keptRes_within
    | split

theorem execLd_kept {s0 : State} (p : Nat) (s : State) (h : Kept s0 s) : KeptRes s0 (execLd p s) := by
  unfold execLd
  repeat' with_reducible first
    | assumption
    | apply State.pipMem_kept

theorem execLds_kept {s0 : State} (p : Nat) (s : State) (h : Kept s0 s) : KeptRes s0 (execLds p s) := by
  unfold execLds
  repeat' with_reducible first
    | assumption
    | apply State.pipMem_kept

theorem execLdp_kept {s0 : State} (p : Nat) (s : State) (h : Kept s0 s) : KeptRes s0 (execLdp p s) := by
  unfold execLdp
  repeat' with_reducible first
    | assumption
    | apply State.pipMem_kept

theorem execSt_kept {s0 : State} (p : Nat) (s : State) (h : Kept s0 s) : KeptRes s0 (execSt p s) := by
  unfold execSt
  repeat' with_reducible first
    | assumption
    | apply State.pipMem_kept

theorem execSts_kept {s0 : State} (p : Nat) (s : State) (h : Kept s0 s) : KeptRes s0 (execSts p s) := by
  unfold execSts
  repeat' with_reducible first
    | assumption
    | apply State.pipMem_kept

theorem execStp_kept {s0 : State} (p : Nat) (s : State) (h : Kept s0 s) : KeptRes s0 (execStp p s) := by
  unfold execStp
  repeat' with_reducible first
    | assumption
    | apply State.pipMem_kept

theorem execPipMemoryComplete_kept {s0 : State} (p : Nat) (s : State) (h : Kept s0 s) : KeptRes s0
    (execPipMemoryComplete p s) := by
  unfold execPipMemoryComplete
  try dsimp only
  repeat' with_reducible first
    | assumption
    | apply State.setPips_kept
    | apply keptRes_next
    | apply keptRes_within
    | fail_if_no_progress apply kept_upd (by rfl) (by rfl) (by rfl) (by rfl)
    | split

theorem execPcinv_kept {s0 : State} (p : Nat) (s : State) (h : Kept s0 s) : KeptRes s0 (execPcinv p s) := by
  unfold execPcinv
  repeat' with_reducible first
    | assumption
    | apply State.pipRun_kept

theorem execRed_kept {s0 : State} (p : Nat) (s : State) (h : Kept s0 s) : KeptRes s0 (execRed p s) := by
  unfold execRed
  repeat' with_reducible first
    | assumption
    | apply State.pipRun_kept

theorem execXch_kept {s0 : State} (p : Nat) (s : State) (h : Kept s0 s) : KeptRes s0 (execXch p s) := by
  unfold execXch
  repeat' with_reducible first
    | assumption
    | apply State.pipRun_kept

theorem execMxq_kept {s0 : State} (p : Nat) (s : State) (h : Kept s0 s) : KeptRes s0 (execMxq p s) := by
  unfold execMxq
  repeat' with_reducible first
    | assumption
    | apply State.pipRun_kept

theorem execBr_kept {s0 : State} (p : Nat) (s : State) (h : Kept s0 s) : KeptRes s0 (execBr p s) := by
  unfold execBr
  repeat' with_reducible first
    | assumption
    | apply State.pipRun_kept

theorem execBrk_kept {s0 : State} (p : Nat) (s : State) (h : Kept s0 s) : KeptRes s0 (execBrk p s) := by
  unfold execBrk
  try dsimp only
  repeat' with_reducible first
    | assumption
    | apply State.pipRun_kept
    | apply State.drawFree_kept
    | split

theorem execLoop_kept {s0 : State} (p : Nat) (s : State) (h : Kept s0 s) : KeptRes s0 (execLoop p s) := by
  unfold execLoop
  repeat' with_reducible first
    | assumption
    | apply State.pipRun_kept

theorem execLoopr_kept {s0 : State} (p : Nat) (s : State) (h : Kept s0 s) : KeptRes s0 (execLoopr p s) := by
  unfold execLoopr
  repeat' with_reducible first
    | assumption
    | apply State.pipRun_kept

theorem State.cutPips_kept {s0 : State} (s : State) (p last : Nat) (h : Kept s0 s) : Kept s0 (State.cutPips s p last)
    := by
  unfold State.cutPips
  try dsimp only
  repeat' with_reducible first
    | assumption
    | apply State.pipRows_kept
    | apply State.setPips_kept
    | apply State.modTile_kept
    | apply State.raiseDeadline_kept
    | apply State.settle_kept
    | fail_if_no_progress apply kept_upd (by rfl) (by rfl) (by rfl) (by rfl)
    | refine kept_foldl (fun s1 x1 h1 => ?_) _ _ ?_
    | split

/-! ### Machine/Dealer.lean -/

theorem State.raiseX_kept {s0 : State} (s : State) (p idx code : Nat) (h : Kept s0 s) : Kept s0 (State.raiseX s p idx
    code) := by
  unfold State.raiseX
  repeat' with_reducible first
    | assumption
    | apply State.raiseTile_kept
    | split

theorem State.takeOp_kept {s0 : State} (s : State) (p : Nat) (o : Op) (h : Kept s0 s) : Kept s0 (State.takeOp s p o)
    := by
  unfold State.takeOp
  repeat' with_reducible first
    | assumption
    | apply State.modTile_kept

theorem State.beginX_kept {s0 : State} (s : State) (p w : Nat) (o : Op) (h : Kept s0 s) : Kept s0
    (State.beginX s p w o) := by
  unfold State.beginX
  try dsimp only
  repeat' with_reducible first
    | assumption
    | apply State.modTile_kept
    | apply State.raiseTile_kept
    | fail_if_no_progress apply kept_upd (by rfl) (by rfl) (by rfl) (by rfl)
    | split

theorem State.endEmpty_kept {s0 : State} (s : State) (p : Nat) (o : Op) (h : Kept s0 s) : Kept s0
    (State.endEmpty s p o) := by
  unfold State.endEmpty
  try dsimp only
  repeat' with_reducible first
    | assumption
    | apply State.modTile_kept
    | fail_if_no_progress apply kept_upd (by rfl) (by rfl) (by rfl) (by rfl)
    | split

theorem State.firstRows_kept {s0 : State} (s : State) (p : Nat) (o : Op) (h : Kept s0 s) : Kept s0
    (State.firstRows s p o) := by
  unfold State.firstRows
  try dsimp only
  repeat' with_reducible first
    | assumption
    | apply State.modTile_kept
    | apply State.reqRead_kept
    | apply State.reqWrite_kept
    | apply State.sendFlag_kept
    | fail_if_no_progress apply kept_upd (by rfl) (by rfl) (by rfl) (by rfl)
    | refine kept_foldl (fun s1 x1 h1 => ?_) _ _ ?_
    | split

theorem State.startX_kept {s0 : State} (s : State) (p id w : Nat) (h : Kept s0 s) : Kept s0 (State.startX s p id w) :=
    by
  unfold State.startX
  repeat' with_reducible first
    | assumption
    | apply State.raiseTile_kept
    | apply State.modTile_kept
    | apply State.endEmpty_kept
    | apply State.firstRows_kept
    | apply State.beginX_kept
    | split

theorem State.removeDecoded_kept {s0 : State} (s : State) (p stop : Nat) (h : Kept s0 s) : Kept s0
    (State.removeDecoded s p stop) := by
  unfold State.removeDecoded
  repeat' with_reducible first
    | assumption
    | apply State.setTile_kept

theorem State.skipBundles_kept {s0 : State} (s : State) (p n stop : Nat) (h : Kept s0 s) : Kept s0 (State.skipBundles
    s p n stop) := by
  unfold State.skipBundles
  repeat' with_reducible first
    | assumption
    | apply State.removeDecoded_kept
    | apply State.modTile_kept

theorem State.issueCld_kept {s0 : State} (s : State) (p idx w now : Nat) (t : Tile) (h : Kept s0 s) : Kept s0
    (State.issueCld s p idx w now t) := by
  unfold State.issueCld
  try dsimp only
  repeat' with_reducible first
    | assumption
    | apply State.raiseTile_kept
    | apply State.modTile_kept
    | fail_if_no_progress apply kept_upd (by rfl) (by rfl) (by rfl) (by rfl)
    | split

theorem State.issueSetup_kept {s0 : State} (s : State) (p idx w now : Nat) (t : Tile) (h : Kept s0 s) : Kept s0
    (State.issueSetup s p idx w now t) := by
  unfold State.issueSetup
  try dsimp only
  repeat' with_reducible first
    | assumption
    | apply State.raiseTile_kept
    | apply State.modTile_kept
    | fail_if_no_progress apply kept_upd (by rfl) (by rfl) (by rfl) (by rfl)
    | refine kept_foldl (fun s1 x1 h1 => ?_) _ _ ?_
    | split

theorem State.issueC_kept {s0 : State} (s : State) (p idx w now : Nat) (t : Tile) (stop : Nat) (h : Kept s0 s) : Kept
    s0 (State.issueC s p idx w now t stop) := by
  unfold State.issueC
  try dsimp only
  repeat' with_reducible first
    | assumption
    | apply State.modTile_kept
    | apply State.issueCld_kept
    | apply State.skipBundles_kept
    | apply State.raiseTile_kept
    | apply State.removeDecoded_kept
    | apply State.issueSetup_kept
    | fail_if_no_progress apply kept_upd (by rfl) (by rfl) (by rfl) (by rfl)
    | split

theorem State.dispatch_kept {s0 : State} (s : State) (p idx now entry mask arg : Nat) (h : Kept s0 s) : Kept s0
    (State.dispatch s p idx now entry mask arg) := by
  unfold State.dispatch
  try dsimp only
  repeat' with_reducible first
    | assumption
    | apply State.raiseDeadline_kept
    | apply State.setPips_kept
    | split

theorem State.issueV_kept {s0 : State} (s : State) (p idx w now : Nat) (t : Tile) (h : Kept s0 s) : Kept s0
    (State.issueV s p idx w now t) := by
  unfold State.issueV
  try dsimp only
  repeat' with_reducible first
    | assumption
    | apply State.raiseTile_kept
    | apply State.dispatch_kept
    | split

theorem State.issueM_kept {s0 : State} (s : State) (p idx w : Nat) (t : Tile) (h : Kept s0 s) : Kept s0 (State.issueM
    s p idx w t) := by
  unfold State.issueM
  repeat' with_reducible first
    | assumption
    | apply State.issueLoad_kept
    | apply State.issuePass_kept
    | apply State.issueSpass_kept
    | apply State.issueDrain_kept
    | apply State.issueAccm_kept
    | apply State.issueShuf_kept
    | split

theorem State.issueX_kept {s0 : State} (s : State) (p idx w now dl stamp : Nat) (t : Tile) (h : Kept s0 s) : Kept s0
    (State.issueX s p idx w now dl stamp t) := by
  unfold State.issueX
  repeat' with_reducible first
    | assumption
    | apply State.raiseX_kept
    | apply State.startX_kept
    | apply State.modTile_kept
    | apply State.takeOp_kept
    | fail_if_no_progress apply kept_upd (by rfl) (by rfl) (by rfl) (by rfl)
    | split

theorem State.issueBundle_kept {s0 : State} (s : State) (p : Nat) (h : Kept s0 s) : Kept s0 (State.issueBundle s p) :=
    by
  unfold State.issueBundle
  try dsimp only
  repeat' with_reducible first
    | assumption
    | apply State.modTile_kept
    | apply State.issueX_kept
    | apply State.issueV_kept
    | apply State.issueM_kept
    | apply State.issueC_kept
    | fail_if_no_progress apply kept_upd (by rfl) (by rfl) (by rfl) (by rfl)
    | refine kept_foldl (fun s1 x1 h1 => ?_) _ _ ?_
    | split

theorem execBundleIssue_kept {s0 : State} (p : Nat) (s : State) (h : Kept s0 s) : KeptRes s0 (execBundleIssue p s) :=
    by
  unfold execBundleIssue
  repeat' with_reducible first
    | assumption
    | apply State.issueBundle_kept
    | apply keptRes_next
    | apply keptRes_within

theorem execBundleDecode_kept {s0 : State} (p : Nat) (s : State) (h : Kept s0 s) : KeptRes s0 (execBundleDecode p s)
    := by
  unfold execBundleDecode
  try dsimp only
  repeat' with_reducible first
    | assumption
    | apply State.modTile_kept
    | apply State.takeOp_kept
    | apply keptRes_next
    | apply keptRes_within
    | fail_if_no_progress apply kept_upd (by rfl) (by rfl) (by rfl) (by rfl)
    | split

theorem execCldResult_kept {s0 : State} (p : Nat) (s : State) (h : Kept s0 s) : KeptRes s0 (execCldResult p s) := by
  unfold execCldResult
  try dsimp only
  repeat' with_reducible first
    | assumption
    | apply State.modTile_kept
    | apply State.raiseDeadline_kept
    | apply keptRes_next
    | apply keptRes_within
    | fail_if_no_progress apply kept_upd (by rfl) (by rfl) (by rfl) (by rfl)
    | split

theorem execRingResultWrite_kept {s0 : State} (p : Nat) (s : State) (h : Kept s0 s) : KeptRes s0 (execRingResultWrite
    p s) := by
  unfold execRingResultWrite
  try dsimp only
  repeat' with_reducible first
    | assumption
    | apply State.modTile_kept
    | apply State.raiseDeadline_kept
    | apply keptRes_next
    | apply keptRes_within
    | fail_if_no_progress apply kept_upd (by rfl) (by rfl) (by rfl) (by rfl)
    | split

theorem State.setupFresh_kept {s0 : State} (s : State) (p : Nat) (c : Setup) (h : Kept s0 s) : Kept s0
    (State.setupFresh s p c) := by
  unfold State.setupFresh
  repeat' with_reducible first
    | assumption
    | fail_if_no_progress apply kept_upd (by rfl) (by rfl) (by rfl) (by rfl)

theorem execSetupWrite_kept {s0 : State} (p : Nat) (s : State) (h : Kept s0 s) : KeptRes s0 (execSetupWrite p s) := by
  unfold execSetupWrite
  try dsimp only
  repeat' with_reducible first
    | assumption
    | apply State.modTile_kept
    | apply State.setupFresh_kept
    | apply State.raiseDeadline_kept
    | apply keptRes_next
    | apply keptRes_within
    | apply State.modSeat_kept
    | fail_if_no_progress apply kept_upd (by rfl) (by rfl) (by rfl) (by rfl)
    | split

theorem State.cutSetups_kept {s0 : State} (s : State) (p last : Nat) (h : Kept s0 s) : Kept s0 (State.cutSetups s p
    last) := by
  unfold State.cutSetups
  repeat' with_reducible first
    | assumption
    | apply State.modTile_kept
    | apply State.raiseDeadline_kept
    | fail_if_no_progress apply kept_upd (by rfl) (by rfl) (by rfl) (by rfl)
    | refine kept_foldl (fun s1 x1 h1 => ?_) _ _ ?_

/-! ### Machine/Tally.lean -/

theorem State.tallyRow_kept {s0 : State} (s : State) (p : Nat) (side : Bool) (x : Pass) (q r : Nat) (h : Kept s0 s) :
    Kept s0 (State.tallyRow s p side x q r) := by
  unfold State.tallyRow
  repeat' with_reducible first
    | assumption
    | apply State.modTable_kept
    | apply State.modTile_kept
    | fail_if_no_progress apply kept_upd (by rfl) (by rfl) (by rfl) (by rfl)
    | split

theorem State.footWrite_kept {s0 : State} (s : State) (p : Nat) (side : Bool) (x : Pass) (q r : Nat) (upset : Option
    Nat) (h : Kept s0 s) : Kept s0 (State.footWrite s p side x q r upset) := by
  unfold State.footWrite
  repeat' with_reducible first
    | assumption
    | apply State.footTerm_kept
    | apply State.tallyRow_kept
    | apply State.setEngine_kept
    | fail_if_no_progress apply kept_upd (by rfl) (by rfl) (by rfl) (by rfl)
    | refine kept_foldl (fun s1 x1 h1 => ?_) _ _ ?_
    | split

theorem State.settle_kept {s0 : State} (s : State) (p : Nat) (l : List (Bool × Pass)) (now lo hi : Nat) (h : Kept s0
    s) : Kept s0 (State.settle s p l now lo hi) := by
  unfold State.settle
  repeat' with_reducible first
    | assumption
    | apply State.footWrite_kept
    | refine kept_foldl (fun s1 x1 h1 => ?_) _ _ ?_
    | split

theorem State.settleFeet_kept {s0 : State} (s : State) (p : Nat) (h : Kept s0 s) : Kept s0 (State.settleFeet s p) :=
    by
  unfold State.settleFeet
  try dsimp only
  repeat' with_reducible first
    | assumption
    | apply State.settle_kept
    | refine kept_foldl (fun s1 x1 h1 => ?_) _ _ ?_
    | split

theorem State.settleTile_kept {s0 : State} (s : State) (p : Nat) (h : Kept s0 s) : Kept s0 (State.settleTile s p) :=
    by
  unfold State.settleTile
  repeat' with_reducible first
    | assumption
    | apply State.settle_kept

theorem State.flashWrite_kept {s0 : State} (s : State) (w : FlashPart) (seq : Nat) (payload : List Byte) (h : Kept s0 s) :
    Kept s0 (State.flashWrite s w seq payload).1 := by
  unfold State.flashWrite
  try dsimp only
  repeat' with_reducible first
    | assumption
    | apply State.raiseMgc_kept
    | fail_if_no_progress apply kept_upd (by rfl) (by rfl) (by rfl) (by rfl)
    | split

theorem State.storePattern_kept {s0 : State} (s : State) (p : Nat) (c : Capture) (h : Kept s0 s) : Kept s0
    (State.storePattern s p c) := by
  unfold State.storePattern
  try dsimp only
  repeat' with_reducible first
    | assumption
    | apply State.flashWrite_kept
    | refine kept_foldl (fun s1 x1 h1 => ?_) _ _ ?_
    | split

theorem execFootWrite_kept {s0 : State} (p pass stream row : Nat) (upset : Option Nat) (s : State) (h : Kept s0 s) :
    KeptRes s0 (execFootWrite p pass stream row upset s) := by
  unfold execFootWrite
  try dsimp only
  repeat' with_reducible first
    | assumption
    | apply State.footWrite_kept
    | apply keptRes_next
    | apply keptRes_within
    | split

theorem execTallyMismatch_kept {s0 : State} (p : Nat) (s : State) (h : Kept s0 s) : KeptRes s0 (execTallyMismatch p s)
    := by
  unfold execTallyMismatch
  try dsimp only
  repeat' with_reducible first
    | assumption
    | apply State.setHalves_kept
    | apply State.setTile_kept
    | apply State.modTile_kept
    | apply State.raiseTile_kept
    | apply keptRes_next
    | apply keptRes_within
    | fail_if_no_progress apply kept_upd (by rfl) (by rfl) (by rfl) (by rfl)
    | split

theorem execTallyVerdict_kept {s0 : State} (p : Nat) (s : State) (h : Kept s0 s) : KeptRes s0 (execTallyVerdict p s)
    := by
  unfold execTallyVerdict
  repeat' with_reducible first
    | assumption
    | apply State.modTile_kept
    | apply State.raiseTile_kept
    | apply State.modTable_kept
    | apply State.suspect_kept
    | apply keptRes_next
    | apply keptRes_within
    | apply State.judge_kept
    | fail_if_no_progress apply kept_upd (by rfl) (by rfl) (by rfl) (by rfl)
    | split

theorem execCaptureCopy_kept {s0 : State} (p : Nat) (s : State) (h : Kept s0 s) : KeptRes s0 (execCaptureCopy p s) :=
    by
  unfold execCaptureCopy
  repeat' with_reducible first
    | assumption
    | apply State.modTile_kept
    | apply keptRes_next
    | apply keptRes_within
    | apply State.storePattern_kept
    | fail_if_no_progress apply kept_upd (by rfl) (by rfl) (by rfl) (by rfl)
    | apply State.flashWrite_kept
    | split

theorem execDigestPost_kept {s0 : State} (p : Nat) (s : State) (h : Kept s0 s) : KeptRes s0 (execDigestPost p s) := by
  unfold execDigestPost
  try dsimp only
  repeat' with_reducible first
    | assumption
    | apply State.setTile_kept
    | apply State.raiseMgc_kept
    | apply keptRes_next
    | apply keptRes_within
    | fail_if_no_progress apply kept_upd (by rfl) (by rfl) (by rfl) (by rfl)
    | split

/-! ### Machine/Beat.lean -/

theorem State.eachOp_kept {s0 : State} (s : State) (p : Nat) (f : State → Nat → State) (hf : ∀ s x, Kept s0 s → Kept
    s0 (f s x)) (h : Kept s0 s) : Kept s0 (State.eachOp s p f) := by
  unfold State.eachOp
  repeat' with_reducible first
    | assumption
    | apply hf
    | refine kept_foldl (fun s1 x1 h1 => ?_) _ _ ?_

theorem State.tileWork_kept {s0 : State} (s : State) (p : Nat) (h : Kept s0 s) : Kept s0
    (State.tileWork s p) := by
  unfold State.tileWork
  try dsimp only
  repeat' with_reducible first
    | assumption
    | apply State.accmBeat_kept
    | apply State.askLater_kept
    | apply State.bankBeat_kept
    | apply State.drainBeat_kept
    | refine State.eachOp_kept _ _ _ (fun s1 x1 h1 => ?_) ?_
    | apply State.engineBeat_kept
    | apply State.finishOp_kept
    | apply State.finishRx_kept
    | apply State.grantBeat_kept
    | apply State.modTile_kept
    | apply State.popHead_kept
    | apply State.pumpOp_kept
    | apply State.releaseHeld_kept
    | apply State.retirePasses_kept
    | apply State.settleFeet_kept
    | apply State.shufBeat_kept

theorem State.tileBeat_kept {s0 : State} (s : State) (p : Nat) (h : Kept s0 s) : Kept s0 (State.tileBeat s p) := by
  unfold State.tileBeat
  repeat' with_reducible first
    | assumption
    | apply State.modTile_kept
    | apply State.drainBeat_kept
    | apply State.engineBeat_kept
    | refine State.eachOp_kept _ _ _ (fun s1 x1 h1 => ?_) ?_
    | apply State.askLater_kept
    | apply State.bankBeat_kept
    | apply State.grantBeat_kept
    | apply State.popHead_kept
    | apply State.releaseHeld_kept
    | apply State.shufBeat_kept
    | apply State.accmBeat_kept
    | apply State.settleFeet_kept
    | apply State.finishOp_kept
    | apply State.pumpOp_kept
    | apply State.retirePasses_kept
    | apply State.finishRx_kept
    | apply State.tileWork_kept
    | fail_if_no_progress apply kept_upd (by rfl) (by rfl) (by rfl) (by rfl)
    | intro _
    | split

theorem State.endBeat_kept {s0 : State} (s : State) (p : Nat) (h : Kept s0 s) : Kept s0
    (State.endBeat s p) := by
  unfold State.endBeat
  try dsimp only
  repeat' with_reducible first
    | assumption
    | apply State.modTile_kept
    | apply State.takeAcks_kept
    | apply State.tileWork_kept
    | fail_if_no_progress apply kept_upd (by rfl) (by rfl) (by rfl) (by rfl)
    | split

theorem State.fillFrom_kept {s0 : State} (s : State) (n entry p : Nat) (h : Kept s0 s) : Kept s0 (State.fillFrom s n
    entry p).1 := by
  unfold State.fillFrom
  try dsimp only
  repeat' with_reducible first
    | assumption
    | apply State.modTile_kept
    | apply State.raiseDeadline_kept
    | apply State.finishOp_kept
    | fail_if_no_progress apply kept_upd (by rfl) (by rfl) (by rfl) (by rfl)
    | split

theorem State.circuitBeat_kept {s0 : State} (s : State) (n : Nat) (h : Kept s0 s) : Kept s0 (State.circuitBeat s n).1
    := by
  unfold State.circuitBeat
  repeat' with_reducible first
    | assumption
    | apply State.fillFrom_kept
    | apply State.modPort_kept
    | apply State.meetCircuit_kept
    | fail_if_no_progress apply kept_upd (by rfl) (by rfl) (by rfl) (by rfl)
    | split

theorem State.beatWork_kept {s0 : State} (s : State) (h : Kept s0 s) : Kept s0 (State.beatWork s) := by
  unfold State.beatWork
  repeat' with_reducible first
    | assumption
    | apply State.takeAcks_kept
    | apply State.tileBeat_kept
    | apply State.circuitBeat_kept
    | apply State.outBeat_kept
    | refine kept_foldl (fun s1 x1 h1 => ?_) _ _ ?_
    | refine kept_foldl_fst (fun s1 x1 h1 => ?_) _ _ ?_
    | split

end Sys2Proof.Machine
end

