-- ==== Sys2Proof/Laws/KeptMgmt.lean ====
section
/-! SUPPORT. What the flash, integrity, resets, the round clock, the register pages and management keep (`Kept`): one lemma for each operation and for each command. -/

namespace Sys2Proof.Machine

/-! ### Machine/Flash.lean -/

theorem State.saveCalib_kept {s0 : State} (s : State) (h : Kept s0 s) : Kept s0 (State.saveCalib s) := by
  unfold State.saveCalib
  try dsimp only
  repeat' with_reducible first
    | assumption
    | fail_if_no_progress apply kept_upd (by rfl) (by rfl) (by rfl) (by rfl)
    | apply State.flashWrite_kept
    | split

/-! ### Machine/Integrity.lean -/

theorem Map.wfFrom_iff {α : Type} [DecidableEq α] (d : α) (m : List (Nat × α)) (lo : Option Nat) :
    Map.wfFrom d lo m = true ↔
      (∀ e ∈ m, Map.above lo e.1 ∧ e.2 ≠ d) ∧ m.Pairwise fun a b => a.1 < b.1 := by
  induction m generalizing lo with
  | nil => simp [Map.wfFrom]
  | cons x m ih =>
    rw [Map.wfFrom_cons, ih, List.forall_mem_cons, List.pairwise_cons]
    refine ⟨fun ⟨h1, h2, h3, h4⟩ => ⟨⟨⟨h1, h2⟩, fun e he => ⟨fun l hl => ?_, (h3 e he).2⟩⟩, fun e he => ?_, h4⟩,
      fun ⟨⟨h1, h2⟩, h3, h4⟩ => ⟨h1.1, h1.2, fun e he => ⟨fun l hl => ?_, (h2 e he).2⟩, h4⟩⟩
    · exact Nat.lt_trans (h1 l hl) ((h3 e he).1 _ rfl)
    · exact (h3 e he).1 _ rfl
    · cases hl; exact h3 e he

theorem Map.wf_iff {α : Type} [DecidableEq α] (d : α) (m : List (Nat × α)) :
    Map.wf d m = true ↔ (∀ e ∈ m, e.2 ≠ d) ∧ m.Pairwise fun a b => a.1 < b.1 := by
  unfold Map.wf
  rw [Map.wfFrom_iff]
  simp [Map.above]

/-- A part of a canonical map is canonical. -/
theorem Map.wf_filter {α : Type} [DecidableEq α] (d : α) (m : List (Nat × α)) (p : Nat × α → Bool) (h : Map.wf d m = true) :
    Map.wf d (m.filter p) = true := by
  rw [Map.wf_iff] at h ⊢
  exact ⟨fun e he => h.1 e (List.mem_filter.1 he).1, h.2.filter p⟩

theorem State.putArrayWord_kept {s0 : State} (s : State) (arr unit w v : Nat) (h : Kept s0 s) : Kept s0
    (State.putArrayWord s arr unit w v) := by
  unfold State.putArrayWord
  repeat' with_reducible first
    | assumption
    | apply State.modTile_kept
    | apply State.modPort_kept
    | fail_if_no_progress apply kept_upd (by rfl) (by rfl) (by rfl) (by rfl)
    | split

theorem State.retireFail_kept {s0 : State} (s : State) (p : Nat) (h : Kept s0 s) : Kept s0 (State.retireFail s p) :=
    by
  unfold State.retireFail
  repeat' with_reducible first
    | assumption
    | apply State.noticeMgc_kept
    | apply State.modTable_kept

theorem State.failTable_kept {s0 : State} (s : State) (tbl : Nat) (h : Kept s0 s) : Kept s0 (State.failTable s tbl) :=
    by
  unfold State.failTable
  repeat' with_reducible first
    | assumption
    | apply State.modTable_kept

theorem State.retireJoker_kept {s0 : State} (s : State) (tbl : Nat) (h : Kept s0 s) : Kept s0 (State.retireJoker s
    tbl) := by
  unfold State.retireJoker
  repeat' with_reducible first
    | assumption
    | apply State.modTable_kept
    | apply State.failTable_kept
    | split

theorem State.dropFlips_kept {s0 : State} (s : State) (p : Nat) (h : Kept s0 s) : Kept s0 (State.dropFlips s p) := by
  unfold State.dropFlips
  repeat' with_reducible first
    | assumption
    | fail_if_no_progress apply kept_upd (by rfl) (by rfl) (by rfl) (by rfl)

theorem State.copyLine_kept {s0 : State} (s : State) (p q i : Nat) (h : Kept s0 s) : Kept s0
    (State.copyLine s p q i) := by
  unfold State.copyLine
  try dsimp only
  repeat' with_reducible first
    | assumption
    | apply State.modTile_kept
    | apply State.setHalf_kept
    | apply State.writeAcc_kept
    | fail_if_no_progress apply kept_upd (by rfl) (by rfl) (by rfl) (by rfl)
    | split

theorem State.clearPos_kept {s0 : State} (s : State) (p : Nat) (h : Kept s0 s) : Kept s0 (State.clearPos s p) := by
  unfold State.clearPos
  exact kept_mk h (Nat.le_refl _) (List.prefix_refl _) (Map.wf_filter _ _ _) (Map.wf_filter _ _ _) (Map.wf_filter _ _ _) rfl
    (fun h => h) (fun h => h)

theorem State.moveSeat_kept {s0 : State} (s : State) (tbl seat : Nat) (h : Kept s0 s) : Kept s0 (State.moveSeat s tbl
    seat) := by
  unfold State.moveSeat
  dsimp only
  repeat' with_reducible first
    | assumption
    | apply State.modTable_kept
    | apply State.clearPos_kept
    | apply State.dropFlips_kept
    | apply State.setTile_kept

theorem State.substitute_kept {s0 : State} (s : State) (tbl seat : Nat) (h : Kept s0 s) : Kept s0 (State.substitute s
    tbl seat) := by
  unfold State.substitute
  repeat' with_reducible first
    | assumption
    | apply State.noticeMgc_kept
    | apply State.raise_kept
    | apply State.moveSeat_kept

theorem State.switchSeat_kept {s0 : State} (s : State) (tbl : Nat) (h : Kept s0 s) : Kept s0 (State.switchSeat s tbl)
    := by
  unfold State.switchSeat
  repeat' with_reducible first
    | assumption
    | apply State.substitute_kept
    | apply State.seat_kept
    | split

theorem execSubstitutionSwitch_kept {s0 : State} (tbl : Nat) (s : State) (h : Kept s0 s) : KeptRes s0
    (execSubstitutionSwitch tbl s) := by
  unfold execSubstitutionSwitch
  repeat' with_reducible first
    | assumption
    | apply State.switchSeat_kept
    | apply keptRes_next
    | apply keptRes_within
    | split

theorem State.copyRow_kept {s0 : State} (s : State) (tbl : Nat) (h : Kept s0 s) : Kept s0 (State.copyRow s tbl) := by
  unfold State.copyRow
  repeat' with_reducible first
    | assumption
    | apply State.modTile_kept
    | apply State.modTable_kept
    | apply State.copyLine_kept
    | fail_if_no_progress apply kept_upd (by rfl) (by rfl) (by rfl) (by rfl)
    | split

theorem State.copyRows_kept {s0 : State} (s : State) (h : Kept s0 s) : Kept s0 (State.copyRows s) := by
  unfold State.copyRows
  repeat' with_reducible first
    | assumption
    | apply State.copyRow_kept
    | refine kept_foldl (fun s1 x1 h1 => ?_) _ _ ?_

theorem execSubstitutionCopyTimeout_kept {s0 : State} (tbl : Nat) (s : State) (h : Kept s0 s) : KeptRes s0
    (execSubstitutionCopyTimeout tbl s) := by
  unfold execSubstitutionCopyTimeout
  repeat' with_reducible first
    | assumption
    | apply State.modTable_kept
    | apply keptRes_next
    | apply keptRes_within
    | fail_if_no_progress apply kept_upd (by rfl) (by rfl) (by rfl) (by rfl)
    | split

theorem State.zeroItem_kept {s0 : State} (s : State) (q : Nat) (x : Subst) (i : SeatItem) (h : Kept s0 s) : Kept s0
    (State.zeroItem s q x i) := by
  cases i
  case pipReg pip r =>
    cases r <;> (unfold State.zeroItem; exact State.modTile_kept _ _ _ h)
  all_goals
    unfold State.zeroItem
    repeat' with_reducible first
      | assumption
      | apply State.pokeBytes_kept
      | apply State.writeAcc_kept
      | apply State.setHalf_kept
      | apply State.modTile_kept
      | refine kept_foldl (fun s1 x1 h1 => ?_) _ _ ?_

theorem execRecoveryComplete_kept {s0 : State} (tbl : Nat) (unread : List SeatItem) (s : State) (h : Kept s0 s) : KeptRes
    s0 (execRecoveryComplete tbl unread s) := by
  unfold execRecoveryComplete
  try dsimp only
  repeat' with_reducible first
    | assumption
    | apply State.raiseMgc_kept
    | apply State.writeRow_kept
    | apply State.substitute_kept
    | apply State.zeroItem_kept
    | apply State.putArrayWord_kept
    | apply keptRes_next
    | apply keptRes_within
    | apply State.seat_kept
    | refine kept_foldl (fun s1 x1 h1 => ?_) _ _ ?_
    | split

theorem State.queueProbe_kept {s0 : State} (s : State) (p : Nat) (h : Kept s0 s) : Kept s0 (State.queueProbe s p) :=
    by
  unfold State.queueProbe
  repeat' with_reducible first
    | assumption
    | fail_if_no_progress apply kept_upd (by rfl) (by rfl) (by rfl) (by rfl)

theorem State.planSubst_kept {s0 : State} (s : State) (p : Nat) (h : Kept s0 s) : Kept s0 (State.planSubst s p) := by
  unfold State.planSubst
  try dsimp only
  repeat' with_reducible first
    | assumption
    | apply State.queueProbe_kept
    | apply State.modTable_kept
    | apply State.retireFail_kept
    | apply State.retireJoker_kept
    | apply State.seat_kept
    | fail_if_no_progress apply kept_upd (by rfl) (by rfl) (by rfl) (by rfl)
    | split

theorem State.abruptSubst_kept {s0 : State} (s : State) (p : Nat) (h : Kept s0 s) : Kept s0 (State.abruptSubst s p) :=
    by
  unfold State.abruptSubst
  try dsimp only
  repeat' with_reducible first
    | assumption
    | apply State.modTable_kept
    | apply State.clearPos_kept
    | apply State.retireFail_kept
    | apply State.retireJoker_kept
    | apply State.seat_kept
    | fail_if_no_progress apply kept_upd (by rfl) (by rfl) (by rfl) (by rfl)
    | split

theorem State.ladderStep_kept {s0 : State} (s : State) (p : Nat) (h : Kept s0 s) : Kept s0 (State.ladderStep s p) :=
    by
  unfold State.ladderStep
  try dsimp only
  repeat' with_reducible first
    | assumption
    | apply State.noticeMgc_kept
    | apply State.modTable_kept
    | apply State.planSubst_kept
    | fail_if_no_progress apply kept_upd (by rfl) (by rfl) (by rfl) (by rfl)
    | split

theorem State.respond_kept {s0 : State} (s : State) (h : Kept s0 s) : Kept s0 (State.respond s) := by
  unfold State.respond
  repeat' with_reducible first
    | assumption
    | apply State.ladderStep_kept
    | apply State.abruptSubst_kept
    | apply State.saveCalib_kept
    | apply State.modTable_kept
    | fail_if_no_progress apply kept_upd (by rfl) (by rfl) (by rfl) (by rfl)
    | refine kept_foldl (fun s1 x1 h1 => ?_) _ _ ?_
    | split

theorem execTrimDecay_kept {s0 : State} (p : Nat) (s : State) (h : Kept s0 s) : KeptRes s0 (execTrimDecay p s) := by
  unfold execTrimDecay
  try dsimp only
  repeat' with_reducible first
    | assumption
    | apply State.saveCalib_kept
    | apply keptRes_next
    | apply keptRes_within
    | fail_if_no_progress apply kept_upd (by rfl) (by rfl) (by rfl) (by rfl)
    | split

theorem State.writeProbe_kept {s0 : State} (s : State) (v : Nat) (h : Kept s0 s) : Kept s0 (State.writeProbe s v) :=
    by
  unfold State.writeProbe
  try dsimp only
  repeat' with_reducible first
    | assumption
    | apply State.queueProbe_kept
    | fail_if_no_progress apply kept_upd (by rfl) (by rfl) (by rfl) (by rfl)
    | split

theorem execProbeGo_kept {s0 : State} (v : Word) (s : State) (h : Kept s0 s) : KeptRes s0 (execProbeGo v s) := by
  unfold execProbeGo
  repeat' with_reducible first
    | assumption
    | apply State.writeProbe_kept
    | apply keptRes_next

theorem State.probeFailed_kept {s0 : State} (s : State) (p fail : Nat) (h : Kept s0 s) : Kept s0 (State.probeFailed s
    p fail) := by
  unfold State.probeFailed
  try dsimp only
  repeat' with_reducible first
    | assumption
    | apply State.raiseMgc_kept
    | apply State.retireJoker_kept
    | apply State.planSubst_kept
    | apply State.retireFail_kept
    | apply State.seat_kept
    | split

theorem State.probePassed_kept {s0 : State} (s : State) (p : Nat) (h : Kept s0 s) : Kept s0 (State.probePassed s p) :=
    by
  unfold State.probePassed
  repeat' with_reducible first
    | assumption
    | apply State.modTable_kept
    | fail_if_no_progress apply kept_upd (by rfl) (by rfl) (by rfl) (by rfl)
    | split

theorem execProbeComplete_kept {s0 : State} (e : ProbeEnd) (s : State) (h : Kept s0 s) : KeptRes s0
    (execProbeComplete e s) := by
  unfold execProbeComplete
  try dsimp only
  repeat' with_reducible first
    | assumption
    | apply State.raiseMgc_kept
    | apply State.probeFailed_kept
    | apply State.probePassed_kept
    | apply keptRes_next
    | fail_if_no_progress apply kept_upd (by rfl) (by rfl) (by rfl) (by rfl)
    | refine kept_foldl (fun s1 x1 h1 => ?_) _ _ ?_
    | split

theorem execProbePeriodic_kept {s0 : State} (s : State) (h : Kept s0 s) : KeptRes s0 (execProbePeriodic s) := by
  unfold execProbePeriodic
  repeat' with_reducible first
    | assumption
    | apply State.queueProbe_kept
    | apply keptRes_next
    | refine kept_foldl (fun s1 x1 h1 => ?_) _ _ ?_

/-! ### Machine/Reset.lean -/

theorem State.clearStores_kept {s0 : State} (s : State) (h : Kept s0 s) : Kept s0 (State.clearStores s) := by
  unfold State.clearStores
  exact kept_mk h (Nat.le_refl _) (List.prefix_refl _) (fun h => h) (fun h => h) (fun h => h) rfl
    (fun hr => ⟨by simp, by simp, hr.2.2⟩) (fun h => h)

theorem State.endLoad_kept {s0 : State} (s : State) (h : Kept s0 s) : Kept s0 (State.endLoad s) := by
  unfold State.endLoad
  repeat' with_reducible first
    | assumption
    | apply State.drawFree_kept
    | apply State.clearStores_kept
    | apply State.endRun_kept
    | fail_if_no_progress apply kept_upd (by rfl) (by rfl) (by rfl) (by rfl)
    | refine kept_foldl (fun s1 x1 h1 => ?_) _ _ ?_
    | split

theorem execVfFlr_kept {s0 : State} (n : Nat) (s : State) (h : Kept s0 s) : KeptRes s0 (execVfFlr n s) := by
  unfold execVfFlr
  repeat' with_reducible first
    | assumption
    | apply State.modFn_kept
    | apply State.clearVectors_kept
    | apply keptRes_next
    | apply keptRes_within

theorem State.functionReset_kept {s0 : State} (s : State) (h : Kept s0 s) : Kept s0 (State.functionReset s) := by
  unfold State.functionReset
  repeat' with_reducible first
    | assumption
    | apply State.endLoad_kept
    | apply State.endForwarded_kept
    | fail_if_no_progress apply kept_upd (by rfl) (by rfl) (by rfl) (by rfl)
    | refine kept_foldl (fun s1 x1 h1 => ?_) _ _ ?_

theorem State.configReset_kept {s0 : State} (s : State) (h : Kept s0 s) : Kept s0 (State.configReset s) := by
  unfold State.configReset
  repeat' with_reducible first
    | assumption
    | apply State.functionReset_kept
    | fail_if_no_progress apply kept_upd (by rfl) (by rfl) (by rfl) (by rfl)

theorem execPfFlr_kept {s0 : State} (s : State) (h : Kept s0 s) : KeptRes s0 (execPfFlr s) := by
  unfold execPfFlr
  repeat' with_reducible first
    | assumption
    | apply State.functionReset_kept
    | apply keptRes_next

theorem execHotReset_kept {s0 : State} (s : State) (h : Kept s0 s) : KeptRes s0 (execHotReset s) := by
  unfold execHotReset
  repeat' with_reducible first
    | assumption
    | apply State.configReset_kept
    | apply keptRes_next

theorem execPerst_kept {s0 : State} (s : State) (h : Kept s0 s) : KeptRes s0 (execPerst s) := by
  unfold execPerst
  repeat' with_reducible first
    | assumption
    | apply State.configReset_kept
    | apply keptRes_next

theorem execSrIovEnable_kept {s0 : State} (on : Bool) (s : State) (h : Kept s0 s) : KeptRes s0 (execSrIovEnable on s)
    := by
  unfold execSrIovEnable
  repeat' with_reducible first
    | assumption
    | apply keptRes_next
    | fail_if_no_progress apply kept_upd (by rfl) (by rfl) (by rfl) (by rfl)
    | split

theorem State.endServes_kept {s0 : State} (s : State) (h : Kept s0 s) : Kept s0 (State.endServes s) := by
  unfold State.endServes
  repeat' with_reducible first
    | assumption
    | apply State.endRun_kept
    | refine kept_foldl (fun s1 x1 h1 => ?_) _ _ ?_
    | split

theorem State.endStop_kept {s0 : State} (s : State) (h : Kept s0 s) : Kept s0
    (State.endStop s) := by
  unfold State.endStop
  try dsimp only
  repeat' with_reducible first
    | assumption
    | apply State.complete_kept
    | apply State.freeRing_kept
    | split

theorem State.deviceReset_moved {s0 : State} (s : State) (h : Moved s0 s) : Moved s0 (State.deviceReset s) := by
  have hm : Moved s0 s.functionReset.endStop :=
    moved_of (fun hl => State.endStop_kept _ (State.functionReset_kept s (Kept.refl hl))) h
  unfold State.deviceReset
  generalize s.functionReset.endStop = u at hm
  dsimp only
  refine moved_of (fun hl => State.endServes_kept _ (Kept.refl hl)) ?_
  exact moved_mk hm (Nat.le_refl _) (List.prefix_refl _) (fun _ => rfl) (fun _ => rfl) (fun _ => rfl)
    (fun _ => by decide) (fun _ => by decide)

theorem execDeviceReset_moved {s0 : State} (v : Word) (s : State) (h : Moved s0 s) : MovedRes s0 (execDeviceReset v s)
    := by
  unfold execDeviceReset
  repeat' with_reducible first
    | assumption
    | apply State.deviceReset_moved
    | apply movedRes_next
    | fail_if_no_progress apply moved_upd (by rfl) (by rfl) (by rfl)
    | split

theorem execDeviceResetComplete_kept {s0 : State} (s : State) (h : Kept s0 s) : KeptRes s0 (execDeviceResetComplete s)
    := by
  unfold execDeviceResetComplete
  repeat' with_reducible first
    | assumption
    | apply keptRes_next
    | fail_if_no_progress apply kept_upd (by rfl) (by rfl) (by rfl) (by rfl)

/-! ### Machine/Rcu.lean -/

theorem State.latchNow_kept {s0 : State} (s : State) (h : Kept s0 s) : Kept s0 (State.latchNow s) := by
  unfold State.latchNow
  repeat' with_reducible first
    | assumption
    | fail_if_no_progress apply kept_upd (by rfl) (by rfl) (by rfl) (by rfl)

theorem execRcuNowLowWrite_kept {s0 : State} (v : Word) (s : State) (h : Kept s0 s) : KeptRes s0 (execRcuNowLowWrite v
    s) := by
  unfold execRcuNowLowWrite
  repeat' with_reducible first
    | assumption
    | apply keptRes_next
    | fail_if_no_progress apply kept_upd (by rfl) (by rfl) (by rfl) (by rfl)

theorem State.writeTick_moved {s0 : State} (s : State) (t : Nat) (h : Moved s0 s) : Moved s0 (State.writeTick s t) :=
    by
  unfold State.writeTick
  repeat' with_reducible first
    | assumption
    | fail_if_no_progress apply moved_upd (by rfl) (by rfl) (by rfl)
    | split

theorem execRcuTickWrite_moved {s0 : State} (hi : Word) (lo : Option Word) (s : State) (h : Moved s0 s) : MovedRes s0
    (execRcuTickWrite hi lo s) := by
  unfold execRcuTickWrite
  repeat' with_reducible first
    | assumption
    | apply State.writeTick_moved
    | apply movedRes_next

theorem execRcuConfigWrite_kept {s0 : State} (v : Word) (s : State) (h : Kept s0 s) : KeptRes s0 (execRcuConfigWrite v
    s) := by
  unfold execRcuConfigWrite
  apply keptRes_next
  split
  · exact h
  · refine kept_mk h (Nat.le_refl _) (List.prefix_refl _) (fun h => h) (fun h => h) (fun h => h) rfl (fun hr => ?_) (fun h => h)
    refine ⟨hr.1, hr.2.1, ?_⟩
    dsimp only
    have hb : bits v.toNat 4 2 < 4 := by unfold bits; omega
    split
    · exact hr.2.2
    · omega

theorem State.enterLost_kept {s0 : State} (s : State) (h : Kept s0 s) : Kept s0 (State.enterLost s) := by
  unfold State.enterLost
  repeat' with_reducible first
    | assumption
    | apply State.raiseMgc_kept
    | apply State.modTable_kept
    | fail_if_no_progress apply kept_upd (by rfl) (by rfl) (by rfl) (by rfl)
    | refine kept_foldl (fun s1 x1 h1 => ?_) _ _ ?_
    | split

theorem State.sendSync_kept {s0 : State} (s : State) (n : Nat) (h : Kept s0 s) : Kept s0 (State.sendSync s n) := by
  unfold State.sendSync
  repeat' with_reducible first
    | assumption
    | apply State.emit_kept
    | apply State.sendLink_kept
    | apply State.modPort_kept

theorem execSyncSend_kept {s0 : State} (s : State) (h : Kept s0 s) : KeptRes s0 (execSyncSend s) := by
  unfold execSyncSend
  repeat' with_reducible first
    | assumption
    | apply State.raiseMgc_kept
    | apply State.sendSync_kept
    | apply keptRes_next
    | refine kept_foldl (fun s1 x1 h1 => ?_) _ _ ?_
    | split

theorem State.sendFollow_kept {s0 : State} (s : State) (n : Nat) (h : Kept s0 s) : Kept s0 (State.sendFollow s n) :=
    by
  unfold State.sendFollow
  repeat' with_reducible first
    | assumption
    | apply State.emit_kept
    | apply State.sendLink_kept
    | split

theorem execFollowSend_kept {s0 : State} (s : State) (h : Kept s0 s) : KeptRes s0 (execFollowSend s) := by
  unfold execFollowSend
  repeat' with_reducible first
    | assumption
    | apply State.sendFollow_kept
    | apply keptRes_next
    | refine kept_foldl (fun s1 x1 h1 => ?_) _ _ ?_
    | split

theorem execSyncReceive_kept {s0 : State} (port : Nat) (f : SyncFlit) (arrive : Nat) (s : State) (h : Kept s0 s) :
    KeptRes s0 (execSyncReceive port f arrive s) := by
  unfold execSyncReceive
  repeat' with_reducible first
    | assumption
    | apply State.raiseMgc_kept
    | apply State.modPort_kept
    | apply keptRes_next
    | apply keptRes_within
    | fail_if_no_progress apply kept_upd (by rfl) (by rfl) (by rfl) (by rfl)
    | (refine kept_of_fst (by assumption) (State.arrives_kept _ _ _ _ ?_))
    | split

theorem State.putDelay_kept {s0 : State} (s : State) (n : Nat) (d : Int) (h : Kept s0 s) : Kept s0 (State.putDelay s n
    d) := by
  unfold State.putDelay
  try dsimp only
  repeat' with_reducible first
    | assumption
    | apply State.modPort_kept
    | apply State.raiseMgc_kept
    | fail_if_no_progress apply kept_upd (by rfl) (by rfl) (by rfl) (by rfl)
    | split

theorem State.retrim_kept {s0 : State} (s : State) (h : Kept s0 s) : Kept s0 (State.retrim s) := by
  unfold State.retrim
  repeat' with_reducible first
    | assumption
    | apply State.drawFree_kept
    | fail_if_no_progress apply kept_upd (by rfl) (by rfl) (by rfl) (by rfl)

theorem State.stepCount_moved {s0 : State} (s : State) (offset : Int) (h : Moved s0 s) : Moved s0 (State.stepCount s
    offset) := by
  unfold State.stepCount
  repeat' with_reducible first
    | assumption
    | fail_if_no_progress apply moved_upd (by rfl) (by rfl) (by rfl)

theorem State.parentExchange_moved {s0 : State} (s : State) (f : SyncFlit) (offset : Int) (h : Moved s0 s) : Moved s0
    (State.parentExchange s f offset) := by
  unfold State.parentExchange
  try dsimp only
  repeat' with_reducible first
    | assumption
    | refine moved_of (fun hl => State.raiseMgc_kept _ _ _ (Kept.refl hl)) ?_
    | refine moved_of (fun hl => State.retrim_kept _ (Kept.refl hl)) ?_
    | apply State.stepCount_moved
    | refine moved_of (fun hl => State.enterLost_kept _ (Kept.refl hl)) ?_
    | fail_if_no_progress apply moved_upd (by rfl) (by rfl) (by rfl)
    | split

theorem execFollowReceive_moved {s0 : State} (port : Nat) (f : FollowFlit) (s : State) (h : Moved s0 s) : MovedRes s0
    (execFollowReceive port f s) := by
  unfold execFollowReceive
  try dsimp only
  repeat' with_reducible first
    | assumption
    | refine moved_of (fun hl => State.putDelay_kept _ _ _ (Kept.refl hl)) ?_
    | apply State.parentExchange_moved
    | apply movedRes_next
    | apply movedRes_within
    | (refine moved_of_fst (by assumption) (moved_of (fun hl => State.arrives_kept _ _ _ _ (Kept.refl hl)) ?_))
    | split

theorem execHoldoverEnter_kept {s0 : State} (s : State) (h : Kept s0 s) : KeptRes s0 (execHoldoverEnter s) := by
  unfold execHoldoverEnter
  try dsimp only
  repeat' with_reducible first
    | assumption
    | apply State.enterLost_kept
    | apply State.raiseMgc_kept
    | apply keptRes_next
    | fail_if_no_progress apply kept_upd (by rfl) (by rfl) (by rfl) (by rfl)
    | split

theorem execHoldoverExpire_kept {s0 : State} (s : State) (h : Kept s0 s) : KeptRes s0 (execHoldoverExpire s) := by
  unfold execHoldoverExpire
  repeat' with_reducible first
    | assumption
    | apply State.enterLost_kept
    | apply keptRes_next
    | split

theorem State.pswFields_kept {s0 : State} (s : State) (fn : Fn) (v : Nat) (h : Kept s0 s) : Kept s0 (State.pswFields s
    fn v) := by
  unfold State.pswFields
  repeat' with_reducible first
    | assumption
    | fail_if_no_progress apply kept_upd (by rfl) (by rfl) (by rfl) (by rfl)

theorem State.pswGo_kept {s0 : State} (s : State) (fn : Fn) (v : Nat) (h : Kept s0 s) : Kept s0 (State.pswGo s fn v)
    := by
  unfold State.pswGo
  try dsimp only
  repeat' with_reducible first
    | assumption
    | apply State.modTable_kept
    | fail_if_no_progress apply kept_upd (by rfl) (by rfl) (by rfl) (by rfl)
    | refine kept_foldl (fun s1 x1 h1 => ?_) _ _ ?_
    | split

theorem State.pswCancel_kept {s0 : State} (s : State) (fn : Fn) (v : Nat) (h : Kept s0 s) : Kept s0 (State.pswCancel s
    fn v) := by
  unfold State.pswCancel
  repeat' with_reducible first
    | assumption
    | apply State.modTable_kept
    | fail_if_no_progress apply kept_upd (by rfl) (by rfl) (by rfl) (by rfl)
    | refine kept_foldl (fun s1 x1 h1 => ?_) _ _ ?_
    | split

theorem execPswGo_kept {s0 : State} (fn : Fn) (v : Word) (s : State) (h : Kept s0 s) : KeptRes s0 (execPswGo fn v s)
    := by
  unfold execPswGo
  repeat' with_reducible first
    | assumption
    | apply State.pswFields_kept
    | apply State.pswCancel_kept
    | apply State.pswGo_kept
    | apply keptRes_next
    | split

theorem execPswCancel_kept {s0 : State} (fn : Fn) (v : Word) (s : State) (h : Kept s0 s) : KeptRes s0 (execPswCancel
    fn v s) := by
  unfold execPswCancel
  repeat' with_reducible first
    | assumption
    | apply State.pswFields_kept
    | apply State.pswCancel_kept
    | apply keptRes_next
    | split

/-! ### Machine/Registers.lean -/

theorem State.writeCr_kept {s0 : State} (s : State) (f : Fn) (i r v : Nat) (h : Kept s0 s) : Kept s0 (State.writeCr s
    f i r v) := by
  unfold State.writeCr
  try dsimp only
  repeat' with_reducible first
    | assumption
    | apply State.setCr_kept
    | apply State.writeCrTail_kept
    | fail_if_no_progress apply kept_upd (by rfl) (by rfl) (by rfl) (by rfl)
    | split

theorem State.writeRr_kept {s0 : State} (s : State) (f : Fn) (j r v : Nat) (h : Kept s0 s) : Kept s0 (State.writeRr s
    f j r v) := by
  unfold State.writeRr
  try dsimp only
  repeat' with_reducible first
    | assumption
    | apply State.setRr_kept
    | apply State.writeRrHead_kept
    | fail_if_no_progress apply kept_upd (by rfl) (by rfl) (by rfl) (by rfl)
    | split

theorem State.writeMsix_kept {s0 : State} (s : State) (f : Fn) (w v : Nat) (h : Kept s0 s) : Kept s0 (State.writeMsix
    s f w v) := by
  unfold State.writeMsix
  try dsimp only
  repeat' with_reducible first
    | assumption
    | apply State.sendMsix_kept
    | fail_if_no_progress apply kept_upd (by rfl) (by rfl) (by rfl) (by rfl)
    | split

theorem State.writeFollower_kept {s0 : State} (s : State) (w v : Nat) (h : Kept s0 s) : Kept s0 (State.writeFollower s
    w v) := by
  unfold State.writeFollower
  repeat' with_reducible first
    | assumption
    | fail_if_no_progress apply kept_upd (by rfl) (by rfl) (by rfl) (by rfl)
    | split

theorem State.writeHif_moved {s0 : State} (s : State) (f : Fn) (o v : Nat) (h : Moved s0 s) : Moved s0 (State.writeHif
    s f o v) := by
  unfold State.writeHif
  repeat' with_reducible first
    | assumption
    | apply execDeviceReset_moved
    | refine moved_of (fun hl => State.writeFollower_kept _ _ _ (Kept.refl hl)) ?_
    | refine moved_of (fun hl => State.writeCr_kept _ _ _ _ _ (Kept.refl hl)) ?_
    | refine moved_of (fun hl => State.writeRr_kept _ _ _ _ _ (Kept.refl hl)) ?_
    | refine moved_of (fun hl => State.writeMsix_kept _ _ _ _ (Kept.refl hl)) ?_
    | apply moved_orKeep
    | fail_if_no_progress apply moved_upd (by rfl) (by rfl) (by rfl)
    | split

theorem State.writeDck_kept {s0 : State} (s : State) (o v : Nat) (h : Kept s0 s) : Kept s0 (State.writeDck s o v) :=
    by
  unfold State.writeDck
  split
  · rename_i hc
    refine kept_mk h (Nat.le_refl _) (List.prefix_refl _) (fun h => h) (fun h => h) (fun h => h) rfl (fun h => h) (fun _ => ?_)
    simp only [Bool.and_eq_true, decide_eq_true_eq] at hc
    exact hc.2
  · exact h

theorem State.readRcu_kept {s0 : State} (s : State) (f : Fn) (o : Nat) (h : Kept s0 s) : Kept s0 (State.readRcu s f
    o).1 := by
  unfold State.readRcu
  repeat' with_reducible first
    | assumption
    | apply State.latchNow_kept
    | refine kept_foldl (fun s1 x1 h1 => ?_) _ _ ?_
    | split

theorem State.writeRcu_moved {s0 : State} (s : State) (f : Fn) (o v : Nat) (h : Moved s0 s) : Moved s0 (State.writeRcu
    s f o v) := by
  unfold State.writeRcu
  repeat' with_reducible first
    | assumption
    | refine movedRes_of (fun hl => execPswGo_kept _ _ _ (Kept.refl hl)) ?_
    | refine movedRes_of (fun hl => execRcuNowLowWrite_kept _ _ (Kept.refl hl)) ?_
    | apply execRcuTickWrite_moved
    | refine movedRes_of (fun hl => execRcuConfigWrite_kept _ _ (Kept.refl hl)) ?_
    | apply moved_orKeep
    | fail_if_no_progress apply moved_upd (by rfl) (by rfl) (by rfl)
    | split

theorem State.writePortCtrl_kept {s0 : State} (s : State) (n v : Nat) (h : Kept s0 s) : Kept s0 (State.writePortCtrl s
    n v) := by
  unfold State.writePortCtrl
  try dsimp only
  repeat' with_reducible first
    | assumption
    | apply State.modPort_kept
    | apply execPortEnable_kept
    | apply execPortDisable_kept
    | apply execPortRetrain_kept
    | apply kept_orKeep
    | fail_if_no_progress apply kept_upd (by rfl) (by rfl) (by rfl) (by rfl)
    | split

theorem State.writeLnk_kept {s0 : State} (s : State) (o v : Nat) (h : Kept s0 s) : Kept s0 (State.writeLnk s o v) :=
    by
  unfold State.writeLnk
  try dsimp only
  repeat' with_reducible first
    | assumption
    | apply State.writePortCtrl_kept
    | apply State.modPort_kept
    | fail_if_no_progress apply kept_upd (by rfl) (by rfl) (by rfl) (by rfl)
    | split

theorem State.readSvc_kept {s0 : State} (s : State) (f : Fn) (o : Nat) (h : Kept s0 s) : Kept s0 (State.readSvc s f
    o).1 := by
  unfold State.readSvc
  try dsimp only
  repeat' with_reducible first
    | assumption
    | apply State.setTable_kept
    | fail_if_no_progress apply kept_upd (by rfl) (by rfl) (by rfl) (by rfl)
    | split

theorem State.writeSvc_kept {s0 : State} (s : State) (f : Fn) (o v : Nat) (h : Kept s0 s) : Kept s0 (State.writeSvc s
    f o v) := by
  unfold State.writeSvc
  try dsimp only
  repeat' with_reducible first
    | assumption
    | fail_if_no_progress apply kept_upd (by rfl) (by rfl) (by rfl) (by rfl)
    | split

theorem State.readTly_kept {s0 : State} (s : State) (f : Fn) (o : Nat) (h : Kept s0 s) : Kept s0 (State.readTly s f
    o).1 := by
  unfold State.readTly
  try dsimp only
  repeat' with_reducible first
    | assumption
    | apply State.modTable_kept
    | fail_if_no_progress apply kept_upd (by rfl) (by rfl) (by rfl) (by rfl)
    | split

theorem State.writeTly_kept {s0 : State} (s : State) (f : Fn) (o v : Nat) (h : Kept s0 s) : Kept s0 (State.writeTly s
    f o v) := by
  unfold State.writeTly
  try dsimp only
  repeat' with_reducible first
    | assumption
    | apply State.writeProbe_kept
    | fail_if_no_progress apply kept_upd (by rfl) (by rfl) (by rfl) (by rfl)
    | split

theorem State.writePwr_kept {s0 : State} (s : State) (f : Fn) (o v : Nat) (h : Kept s0 s) : Kept s0 (State.writePwr s
    f o v) := by
  unfold State.writePwr
  repeat' with_reducible first
    | assumption
    | apply State.modTable_kept
    | fail_if_no_progress apply kept_upd (by rfl) (by rfl) (by rfl) (by rfl)
    | split

theorem State.setMbox_kept {s0 : State} (s : State) (smb : Bool) (x : Mbox) (h : Kept s0 s) : Kept s0 (State.setMbox s
    smb x) := by
  unfold State.setMbox
  repeat' with_reducible first
    | assumption
    | fail_if_no_progress apply kept_upd (by rfl) (by rfl) (by rfl) (by rfl)

theorem State.answerUnknown_kept {s0 : State} (s : State) (h : Kept s0 s) : Kept s0
    (State.answerUnknown s) := by
  unfold State.answerUnknown
  try dsimp only
  repeat' with_reducible first
    | assumption
    | fail_if_no_progress apply kept_upd (by rfl) (by rfl) (by rfl) (by rfl)
    | split

theorem State.writeMboxCmd_kept {s0 : State} (s : State) (smb : Bool) (v : Nat) (h : Kept s0 s) : Kept s0
    (State.writeMboxCmd s smb v) := by
  unfold State.writeMboxCmd
  try dsimp only
  repeat' with_reducible first
    | assumption
    | apply State.setMbox_kept
    | apply State.answerUnknown_kept
    | fail_if_no_progress apply kept_upd (by rfl) (by rfl) (by rfl) (by rfl)
    | split

theorem State.writeMgc_kept {s0 : State} (s : State) (smb : Bool) (o v : Nat) (h : Kept s0 s) : Kept s0
    (State.writeMgc s smb o v) := by
  unfold State.writeMgc
  repeat' with_reducible first
    | assumption
    | apply State.setMbox_kept
    | apply State.writeMboxCmd_kept
    | fail_if_no_progress apply kept_upd (by rfl) (by rfl) (by rfl) (by rfl)
    | split

theorem State.writeWindow_kept {s0 : State} (s : State) (p o v : Nat) (h : Kept s0 s) : Kept s0 (State.writeWindow s p
    o v) := by
  unfold State.writeWindow
  repeat' with_reducible first
    | assumption
    | apply State.writeHead_kept
    | apply State.writeTail_kept
    | split

theorem State.blockRead_kept {s0 : State} (s : State) (f : Fn) (off : Nat) (h : Kept s0 s) : Kept s0 (State.blockRead
    s f off).1 := by
  unfold State.blockRead
  try dsimp only
  repeat' with_reducible first
    | assumption
    | apply State.readRcu_kept
    | apply State.readSvc_kept
    | apply State.readTly_kept
    | split

theorem State.regRead_kept {s0 : State} (s : State) (f : Fn) (off : Nat) (h : Kept s0 s) : Kept s0 (State.regRead s f
    off).1 := by
  unfold State.regRead
  repeat' with_reducible first
    | assumption
    | apply State.blockRead_kept

theorem State.regRead64_kept {s0 : State} (s : State) (f : Fn) (off : Nat) (h : Kept s0 s) : Kept s0 (State.regRead64
    s f off).1 := by
  unfold State.regRead64
  repeat' with_reducible first
    | assumption
    | apply State.regRead_kept
    | split

theorem State.blockWrite_moved {s0 : State} (s : State) (f : Fn) (off v : Nat) (h : Moved s0 s) : Moved s0
    (State.blockWrite s f off v) := by
  unfold State.blockWrite
  try dsimp only
  repeat' with_reducible first
    | assumption
    | apply State.writeHif_moved
    | refine moved_of (fun hl => State.writeDck_kept _ _ _ (Kept.refl hl)) ?_
    | apply State.writeRcu_moved
    | refine moved_of (fun hl => State.writeLnk_kept _ _ _ (Kept.refl hl)) ?_
    | refine moved_of (fun hl => State.writeSvc_kept _ _ _ _ (Kept.refl hl)) ?_
    | refine moved_of (fun hl => State.writeTly_kept _ _ _ _ (Kept.refl hl)) ?_
    | refine moved_of (fun hl => State.writePwr_kept _ _ _ _ (Kept.refl hl)) ?_
    | refine moved_of (fun hl => State.writeMgc_kept _ _ _ _ (Kept.refl hl)) ?_
    | refine moved_of (fun hl => State.writeWindow_kept _ _ _ _ (Kept.refl hl)) ?_
    | split

theorem State.regWrite_moved {s0 : State} (s : State) (f : Fn) (off v : Nat) (h : Moved s0 s) : Moved s0
    (State.regWrite s f off v) := by
  unfold State.regWrite
  repeat' with_reducible first
    | assumption
    | apply State.blockWrite_moved

/-! ### Machine/Scrub.lean -/

theorem State.pokeTables_kept {s0 : State} (s : State) (f : Nat → Table → Table) (h : Kept s0 s) : Kept s0
    (State.pokeTables s f) := by
  unfold State.pokeTables
  try dsimp only
  repeat' with_reducible first
    | assumption
    | apply State.modTable_kept
    | refine kept_foldl (fun s1 x1 h1 => ?_) _ _ ?_

theorem State.pokeHif_kept {s0 : State} (s : State) (f : Fn) (o v : Nat) (h : Kept s0 s) : Kept s0
    (State.pokeHif s f o v) := by
  unfold State.pokeHif
  try dsimp only
  repeat' with_reducible first
    | assumption
    | apply State.setCr_kept
    | apply State.setRr_kept
    | fail_if_no_progress apply kept_upd (by rfl) (by rfl) (by rfl) (by rfl)
    | split

theorem State.pokeDck_kept {s0 : State} (s : State) (o v : Nat) (h : Kept s0 s) : Kept s0
    (State.pokeDck s o v) := by
  unfold State.pokeDck
  dsimp only
  split
  case h_2 =>
    refine kept_mk h (Nat.le_refl _) (List.prefix_refl _) (fun h => h) (fun h => h) (fun h => h) rfl (fun h => h) (fun hd => ?_)
    dsimp only
    split
    · assumption
    · exact hd
  all_goals repeat' with_reducible first
    | assumption
    | fail_if_no_progress apply kept_upd (by rfl) (by rfl) (by rfl) (by rfl)

theorem State.pokeRcu_kept {s0 : State} (s : State) (o v : Nat) (h : Kept s0 s) : Kept s0
    (State.pokeRcu s o v) := by
  have hb : bits v 0 4 < 16 := Nat.mod_lt _ (by decide)
  unfold State.pokeRcu
  dsimp only
  split
  · exact State.modPort_kept _ _ _ h
  split
  case h_2 =>
    refine kept_mk h (Nat.le_refl _) (List.prefix_refl _) (fun h => h) (fun h => h) (fun h => h) rfl (fun hr => ?_) (fun h => h)
    dsimp only
    refine ⟨?_, ?_, ?_⟩ <;> split <;> omega
  all_goals repeat' with_reducible first
    | assumption
    | apply State.modPort_kept
    | apply State.pokeTables_kept
    | fail_if_no_progress apply kept_upd (by rfl) (by rfl) (by rfl) (by rfl)

theorem State.pokeLnk_kept {s0 : State} (s : State) (o v : Nat) (h : Kept s0 s) : Kept s0
    (State.pokeLnk s o v) := by
  unfold State.pokeLnk
  try dsimp only
  repeat' with_reducible first
    | assumption
    | apply State.modPort_kept
    | fail_if_no_progress apply kept_upd (by rfl) (by rfl) (by rfl) (by rfl)
    | split

theorem State.pokeSvc_kept {s0 : State} (s : State) (o v : Nat) (h : Kept s0 s) : Kept s0
    (State.pokeSvc s o v) := by
  unfold State.pokeSvc
  try dsimp only
  repeat' with_reducible first
    | assumption
    | apply State.setTable_kept
    | fail_if_no_progress apply kept_upd (by rfl) (by rfl) (by rfl) (by rfl)
    | split

theorem State.pokeTly_kept {s0 : State} (s : State) (o v : Nat) (h : Kept s0 s) : Kept s0
    (State.pokeTly s o v) := by
  unfold State.pokeTly
  try dsimp only
  repeat' with_reducible first
    | assumption
    | apply State.modTable_kept
    | fail_if_no_progress apply kept_upd (by rfl) (by rfl) (by rfl) (by rfl)
    | split

theorem State.pokePwr_kept {s0 : State} (s : State) (o v : Nat) (h : Kept s0 s) : Kept s0
    (State.pokePwr s o v) := by
  unfold State.pokePwr
  try dsimp only
  repeat' with_reducible first
    | assumption
    | apply State.modTable_kept
    | fail_if_no_progress apply kept_upd (by rfl) (by rfl) (by rfl) (by rfl)
    | split

theorem State.pokeMgc_kept {s0 : State} (s : State) (o v : Nat) (h : Kept s0 s) : Kept s0
    (State.pokeMgc s o v) := by
  unfold State.pokeMgc
  try dsimp only
  repeat' with_reducible first
    | assumption
    | fail_if_no_progress apply kept_upd (by rfl) (by rfl) (by rfl) (by rfl)
    | split

theorem State.pokeReg_kept {s0 : State} (s : State) (f : Fn) (off v : Nat) (h : Kept s0 s) : Kept s0
    (State.pokeReg s f off v) := by
  unfold State.pokeReg
  try dsimp only
  repeat' with_reducible first
    | assumption
    | apply State.modTile_kept
    | apply State.pokeDck_kept
    | apply State.pokeHif_kept
    | apply State.pokeLnk_kept
    | apply State.pokeMgc_kept
    | apply State.pokePwr_kept
    | apply State.pokeRcu_kept
    | apply State.pokeSvc_kept
    | apply State.pokeTly_kept
    | split

theorem State.voteBit_kept {s0 : State} (s : State) (b : Fn × Nat × Nat) (h : Kept s0 s) : Kept s0
    (State.voteBit s b) := by
  unfold State.voteBit
  try dsimp only
  repeat' with_reducible first
    | assumption
    | apply State.blockRead_kept
    | apply State.pokeReg_kept
    | fail_if_no_progress apply kept_upd (by rfl) (by rfl) (by rfl) (by rfl)
    | split

theorem State.scrubLatches_kept {s0 : State} (s : State) (upsets : List LatchUpset) (h : Kept s0 s) : Kept s0
    (State.scrubLatches s upsets) := by
  unfold State.scrubLatches
  try dsimp only
  repeat' with_reducible first
    | assumption
    | apply State.voteBit_kept
    | fail_if_no_progress apply kept_upd (by rfl) (by rfl) (by rfl) (by rfl)
    | refine kept_foldl (fun s1 x1 h1 => ?_) _ _ ?_

theorem State.flipBits_kept {s0 : State} (s : State) (h_ : ScrubHit) (h : Kept s0 s) : Kept s0 (State.flipBits s h_)
    := by
  unfold State.flipBits
  repeat' with_reducible first
    | assumption
    | apply State.putArrayWord_kept
    | fail_if_no_progress apply kept_upd (by rfl) (by rfl) (by rfl) (by rfl)
    | refine kept_foldl (fun s1 x1 h1 => ?_) _ _ ?_

theorem State.scrubArray_kept {s0 : State} (s : State) (u : Nat × Nat) (h : Kept s0 s) : Kept s0 (State.scrubArray s
    u) := by
  unfold State.scrubArray
  repeat' with_reducible first
    | assumption
    | apply State.raise_kept
    | apply State.modPort_kept
    | apply State.raiseTile_kept
    | apply State.portFault_kept
    | fail_if_no_progress apply kept_upd (by rfl) (by rfl) (by rfl) (by rfl)
    | split

theorem execScrub_kept {s0 : State} (upsets : List LatchUpset) (hits : List ScrubHit) (s : State) (h : Kept s0 s) :
    KeptRes s0 (execScrub upsets hits s) := by
  unfold execScrub
  repeat' with_reducible first
    | assumption
    | apply State.flipBits_kept
    | apply State.scrubLatches_kept
    | apply State.scrubArray_kept
    | apply keptRes_next
    | apply keptRes_fault
    | fail_if_no_progress apply kept_upd (by rfl) (by rfl) (by rfl) (by rfl)
    | refine kept_foldl (fun s1 x1 h1 => ?_) _ _ ?_
    | split

/-! ### Machine/Window.lean -/

theorem State.askHost_kept {s0 : State} (s : State) (p row seq : Nat) (use : RowUse) (h : Kept s0 s) : Kept s0
    (State.askHost s p row seq use) := by
  unfold State.askHost
  repeat' with_reducible first
    | assumption
    | apply State.modTile_kept

theorem State.askRows_kept {s0 : State} (s : State) (id p off n : Nat) (write : Bool) (use : PWrite → RowUse) (h :
    Kept s0 s) : Kept s0 (State.askRows s id p off n write use) := by
  unfold State.askRows
  repeat' with_reducible first
    | assumption
    | apply State.modAcc_kept
    | apply State.reportRows_kept
    | apply State.askHost_kept
    | fail_if_no_progress apply kept_upd (by rfl) (by rfl) (by rfl) (by rfl)
    | refine kept_foldl (fun s1 x1 h1 => ?_) _ _ ?_
    | split

theorem State.dropAcc_kept {s0 : State} (s : State) (id : Nat) (h : Kept s0 s) : Kept s0 (State.dropAcc s id) := by
  unfold State.dropAcc
  repeat' with_reducible first
    | assumption
    | fail_if_no_progress apply kept_upd (by rfl) (by rfl) (by rfl) (by rfl)

theorem State.readBar0_kept {s0 : State} (s : State) (a : HostAcc) (off : Nat) (wide : Bool) (h : Kept s0 s) : Kept s0
    (State.readBar0 s a off wide) := by
  unfold State.readBar0
  repeat' with_reducible first
    | assumption
    | apply State.regRead64_kept
    | apply State.emit_kept
    | apply State.sendHost_kept
    | (refine kept_of_fst (by assumption) (State.regRead_kept _ _ _ ?_))
    | split

theorem State.answerBar2_kept {s0 : State} (s : State) (a : HostAcc) (data : List Byte) (h : Kept s0 s) : Kept s0
    (State.answerBar2 s a data) := by
  unfold State.answerBar2
  repeat' with_reducible first
    | assumption
    | apply State.sendHost_kept
    | apply State.emit_kept
    | split

theorem State.serveAcc_moved {s0 : State} (s : State) (id : Nat) (h : Moved s0 s) : Moved s0 (State.serveAcc s id) :=
    by
  unfold State.serveAcc
  try dsimp only
  repeat' with_reducible first
    | assumption
    | refine moved_of (fun hl => State.dropAcc_kept _ _ (Kept.refl hl)) ?_
    | refine moved_of (fun hl => State.answerBar2_kept _ _ _ (Kept.refl hl)) ?_
    | refine moved_of (fun hl => State.askRows_kept _ _ _ _ _ _ _ (Kept.refl hl)) ?_
    | apply State.regWrite_moved
    | refine moved_of (fun hl => State.readBar0_kept _ _ _ _ (Kept.refl hl)) ?_
    | refine moved_of (fun hl => State.forwardTo_kept _ _ _ _ (Kept.refl hl)) ?_
    | split

theorem State.pumpHost_moved {s0 : State} (s : State) (h : Moved s0 s) : Moved s0 (State.pumpHost s) := by
  unfold State.pumpHost
  repeat' with_reducible first
    | assumption
    | apply State.serveAcc_moved
    | refine moved_foldl (fun s1 x1 h1 => ?_) _ _ ?_

theorem State.takeAcc_moved {s0 : State} (s : State) (rq : Requester) (what : HostWhat) (addr : Nat) (reply : Option
    (Nat × Nat)) (h : Moved s0 s) : Moved s0 (State.takeAcc s rq what addr reply) := by
  unfold State.takeAcc
  try dsimp only
  repeat' with_reducible first
    | assumption
    | apply State.pumpHost_moved
    | fail_if_no_progress apply moved_upd (by rfl) (by rfl) (by rfl)
    | split

theorem State.takeFar_moved {s0 : State} (s : State) (rq : Requester) (win : Nat) (a : FolAccess) (h : Moved s0 s) : Moved s0
    (State.takeFar s rq win a) := by
  unfold State.takeFar
  dsimp only
  repeat' with_reducible first
    | assumption
    | apply State.takeAcc_moved
    | split

theorem execBar2Write_moved {s0 : State} (rq : Requester) (addr : Nat) (data : List Byte) (s : State) (h : Moved s0 s)
    : MovedRes s0 (execBar2Write rq addr data s) := by
  unfold execBar2Write
  repeat' with_reducible first
    | assumption
    | apply State.takeAcc_moved
    | apply movedRes_next
    | apply movedRes_fault
    | split

theorem execBar2Read_moved {s0 : State} (rq : Requester) (addr len : Nat) (s : State) (h : Moved s0 s) : MovedRes s0
    (execBar2Read rq addr len s) := by
  unfold execBar2Read
  repeat' with_reducible first
    | assumption
    | refine moved_of (fun hl => State.emit_kept _ _ (Kept.refl hl)) ?_
    | apply State.takeAcc_moved
    | apply movedRes_next
    | apply movedRes_fault
    | split

theorem execFollowerAccess_moved {s0 : State} (fn : Fn) (win : Nat) (a : FolAccess) (s : State) (h : Moved s0 s) :
    MovedRes s0 (execFollowerAccess fn win a s) := by
  unfold execFollowerAccess
  try dsimp only
  repeat' with_reducible first
    | assumption
    | apply State.takeFar_moved
    | apply movedRes_next
    | apply movedRes_fault
    | apply movedRes_within
    | split

theorem execHostBar2Write_moved {s0 : State} (port : Nat) (s : State) (h : Moved s0 s) : MovedRes s0
    (execHostBar2Write port s) := by
  unfold execHostBar2Write
  repeat' with_reducible first
    | assumption
    | apply State.takeAcc_moved
    | apply movedRes_next
    | apply movedRes_within
    | (refine moved_of_fst (by assumption) (moved_of (fun hl => State.takeHost_kept _ _ _ _ _ _ _ (Kept.refl hl)) ?_))
    | split

theorem execHostBar2Read_moved {s0 : State} (port : Nat) (s : State) (h : Moved s0 s) : MovedRes s0 (execHostBar2Read
    port s) := by
  unfold execHostBar2Read
  repeat' with_reducible first
    | assumption
    | apply State.takeAcc_moved
    | refine moved_of (fun hl => State.sendHost_kept _ _ _ _ _ _ _ _ _ _ _ (Kept.refl hl)) ?_
    | apply movedRes_next
    | apply movedRes_within
    | (refine moved_of_fst (by assumption) (moved_of (fun hl => State.takeHost_kept _ _ _ _ _ _ _ (Kept.refl hl)) ?_))
    | split

theorem State.takeRead_moved {s0 : State} (s : State) (rq : Requester) (off : Nat) (wide : Bool) (h : Moved s0 s) :
    Moved s0 (State.takeRead s rq off wide) := by
  unfold State.takeRead
  repeat' with_reducible first
    | assumption
    | apply State.takeAcc_moved
    | refine moved_of (fun hl => State.emit_kept _ _ (Kept.refl hl)) ?_
    | split

theorem execRegisterReadClear_moved {s0 : State} (smb : Bool) (rq : Requester) (r : BarRead) (s : State)
    (h : Moved s0 s) : MovedRes s0 (execRegisterReadClear smb rq r s) := by
  unfold execRegisterReadClear
  repeat' with_reducible first
    | assumption
    | refine moved_of (fun hl => State.emit_kept _ _ (Kept.refl hl)) ?_
    | apply State.takeRead_moved
    | apply movedRes_next
    | apply movedRes_fault
    | split

theorem execRcuNowLowRead_moved {s0 : State} (s : State) (h : Moved s0 s) : MovedRes s0
    (execRcuNowLowRead s) := by
  unfold execRcuNowLowRead
  exact movedRes_next (State.takeRead_moved _ _ _ _ h)

theorem execRegisterWrite_moved {s0 : State} (smb : Bool) (rq : Requester) (off : Nat) (v : Word) (s : State) (h :
    Moved s0 s) : MovedRes s0 (execRegisterWrite smb rq off v s) := by
  unfold execRegisterWrite
  repeat' with_reducible first
    | assumption
    | refine moved_of (fun hl => State.writeMgc_kept _ _ _ _ (Kept.refl hl)) ?_
    | apply State.takeAcc_moved
    | apply State.regWrite_moved
    | apply movedRes_next
    | apply movedRes_fault
    | split

theorem execCrTailWrite_moved {s0 : State} (rq : Requester) (ring : Nat) (v : Word) (s : State) (h : Moved s0 s) :
    MovedRes s0 (execCrTailWrite rq ring v s) := by
  unfold execCrTailWrite
  repeat' with_reducible first
    | assumption
    | apply State.takeAcc_moved
    | apply movedRes_next
    | apply movedRes_fault
    | apply movedRes_within
    | split

theorem execRrHeadWrite_moved {s0 : State} (rq : Requester) (ring : Nat) (v : Word) (s : State) (h : Moved s0 s) :
    MovedRes s0 (execRrHeadWrite rq ring v s) := by
  unfold execRrHeadWrite
  repeat' with_reducible first
    | assumption
    | apply State.takeAcc_moved
    | apply movedRes_next
    | apply movedRes_fault
    | apply movedRes_within
    | split

theorem execRingTailWrite_moved {s0 : State} (mgc : Bool) (rq : Requester) (p r : Nat) (v : Word) (s : State) (h :
    Moved s0 s) : MovedRes s0 (execRingTailWrite mgc rq p r v s) := by
  unfold execRingTailWrite
  repeat' with_reducible first
    | assumption
    | refine moved_of (fun hl => State.writeTail_kept _ _ _ _ _ (Kept.refl hl)) ?_
    | apply State.takeAcc_moved
    | apply movedRes_next
    | apply movedRes_fault
    | apply movedRes_within
    | split

theorem execRingHeadWrite_moved {s0 : State} (mgc : Bool) (rq : Requester) (p r : Nat) (v : Word) (s : State) (h :
    Moved s0 s) : MovedRes s0 (execRingHeadWrite mgc rq p r v s) := by
  unfold execRingHeadWrite
  repeat' with_reducible first
    | assumption
    | refine moved_of (fun hl => State.writeHead_kept _ _ _ _ _ (Kept.refl hl)) ?_
    | apply State.takeAcc_moved
    | apply movedRes_next
    | apply movedRes_fault
    | apply movedRes_within
    | split

theorem execRegrdReceive_moved {s0 : State} (port : Nat) (s : State) (h : Moved s0 s) : MovedRes s0 (execRegrdReceive
    port s) := by
  unfold execRegrdReceive
  repeat' with_reducible first
    | assumption
    | apply State.takeAcc_moved
    | apply movedRes_next
    | apply movedRes_within
    | (refine moved_of_fst (by assumption) (moved_of (fun hl => State.takeHost_kept _ _ _ _ _ _ _ (Kept.refl hl)) ?_))
    | split

theorem execRegwrReceive_moved {s0 : State} (port : Nat) (s : State) (h : Moved s0 s) : MovedRes s0 (execRegwrReceive
    port s) := by
  unfold execRegwrReceive
  repeat' with_reducible first
    | assumption
    | apply State.takeAcc_moved
    | apply State.regWrite_moved
    | apply movedRes_next
    | apply movedRes_within
    | (refine moved_of_fst (by assumption) (moved_of (fun hl => State.takeHost_kept _ _ _ _ _ _ _ (Kept.refl hl)) ?_))
    | split

theorem execHostWaitLimit_moved {s0 : State} (p : Nat) (s : State) (h : Moved s0 s) : MovedRes s0 (execHostWaitLimit p
    s) := by
  unfold execHostWaitLimit
  try dsimp only
  repeat' with_reducible first
    | assumption
    | refine moved_of (fun hl => State.modTile_kept _ _ _ (Kept.refl hl)) ?_
    | apply State.pumpHost_moved
    | refine moved_of (fun hl => State.raiseMgc_kept _ _ _ (Kept.refl hl)) ?_
    | refine moved_of (fun hl => State.hdmaSettle_kept _ _ _ _ _ (Kept.refl hl)) ?_
    | refine moved_of (fun hl => State.modTable_kept _ _ _ (Kept.refl hl)) ?_
    | refine moved_of (fun hl => State.modAcc_kept _ _ _ (Kept.refl hl)) ?_
    | refine moved_foldl (fun s1 x1 h1 => ?_) _ _ ?_
    | apply movedRes_next
    | apply movedRes_within
    | split

/-! ### Machine/Mgmt.lean -/

theorem State.mboxDone_kept {s0 : State} (s : State) (smb : Bool) (status : Nat) (result : List Byte) (h : Kept s0 s)
    : Kept s0 (State.mboxDone s smb status result) := by
  unfold State.mboxDone
  repeat' with_reducible first
    | assumption
    | apply State.setMbox_kept
    | apply State.answerUnknown_kept

theorem State.mboxUnwritten_kept {s0 : State} (s : State) (smb : Bool) (h : Kept s0 s) : Kept s0 (State.mboxUnwritten s smb) := by
  unfold State.mboxUnwritten
  repeat' with_reducible first
    | assumption
    | apply State.mboxDone_kept
    | apply State.drawFree_kept

theorem State.serveMbox_kept {s0 : State} (s : State) (smb : Bool) (op : Nat) (allowed : Bool) (f : Mbox → State) (hf
    : ∀ x, Kept s0 (f x)) (h : Kept s0 s) : Kept s0 (State.serveMbox s smb op allowed f) := by
  unfold State.serveMbox
  repeat' with_reducible first
    | assumption
    | apply hf
    | apply State.mboxDone_kept
    | fail_if_no_progress apply kept_upd (by rfl) (by rfl) (by rfl) (by rfl)
    | split

theorem execLogRead_kept {s0 : State} (smb : Bool) (s : State) (h : Kept s0 s) : KeptRes s0 (execLogRead smb s) := by
  unfold execLogRead
  try dsimp only
  repeat' with_reducible first
    | assumption
    | apply State.serveMbox_kept
    | apply State.mboxDone_kept
    | apply keptRes_next
    | intro _
    | split

theorem execFwWrite_kept {s0 : State} (smb : Bool) (s : State) (h : Kept s0 s) : KeptRes s0 (execFwWrite smb s) := by
  unfold execFwWrite
  try dsimp only
  repeat' with_reducible first
    | assumption
    | apply State.serveMbox_kept
    | apply State.mboxDone_kept
    | apply keptRes_next
    | fail_if_no_progress apply kept_upd (by rfl) (by rfl) (by rfl) (by rfl)
    | intro _
    | split

theorem execFwCommit_kept {s0 : State} (smb ok : Bool) (s : State) (h : Kept s0 s) : KeptRes s0 (execFwCommit smb ok
    s) := by
  unfold execFwCommit
  try dsimp only
  repeat' with_reducible first
    | assumption
    | apply State.mboxUnwritten_kept
    | apply State.serveMbox_kept
    | apply State.mboxDone_kept
    | apply keptRes_next
    | fail_if_no_progress apply kept_upd (by rfl) (by rfl) (by rfl) (by rfl)
    | apply State.flashWrite_kept
    | intro _
    | split

theorem execFwActivate_kept {s0 : State} (smb : Bool) (s : State) (h : Kept s0 s) : KeptRes s0 (execFwActivate smb s)
    := by
  unfold execFwActivate
  repeat' with_reducible first
    | assumption
    | apply State.serveMbox_kept
    | apply keptRes_next
    | fail_if_no_progress apply kept_upd (by rfl) (by rfl) (by rfl) (by rfl)
    | intro _

theorem State.keyDone_kept {s0 : State} (s : State) (smb : Bool) (a : KeyArgs) (new : Option KeySlot) (h : Kept s0 s)
    : Kept s0 (State.keyDone s smb a new) := by
  unfold State.keyDone
  try dsimp only
  repeat' with_reducible first
    | assumption
    | apply State.mboxUnwritten_kept
    | apply State.mboxDone_kept
    | fail_if_no_progress apply kept_upd (by rfl) (by rfl) (by rfl) (by rfl)
    | apply State.flashWrite_kept
    | split

theorem execKeyEnrol_kept {s0 : State} (smb : Bool) (s : State) (h : Kept s0 s) : KeptRes s0 (execKeyEnrol smb s) :=
    by
  unfold execKeyEnrol
  repeat' with_reducible first
    | assumption
    | apply State.serveMbox_kept
    | apply State.keyDone_kept
    | apply keptRes_next
    | intro _

theorem execKeyRevoke_kept {s0 : State} (smb : Bool) (s : State) (h : Kept s0 s) : KeptRes s0 (execKeyRevoke smb s) :=
    by
  unfold execKeyRevoke
  repeat' with_reducible first
    | assumption
    | apply State.serveMbox_kept
    | apply State.keyDone_kept
    | apply keptRes_next
    | intro _

theorem State.serveMbox_moved {s0 : State} (s : State) (smb : Bool) (op : Nat) (allowed : Bool) (f : Mbox → State)
    (h : Moved s0 s) (hf : ∀ x, Moved s0 (f x)) : Moved s0 (s.serveMbox smb op allowed f) := by
  unfold State.serveMbox
  split
  · exact h
  · split
    · exact moved_of (fun hl => State.mboxDone_kept _ _ _ _ (Kept.refl hl)) h
    · exact hf _

theorem execRegWrite_moved {s0 : State} (smb : Bool) (s : State) (h : Moved s0 s) : MovedRes s0 (execRegWrite smb s)
    := by
  unfold execRegWrite
  try dsimp only
  repeat' with_reducible first
    | assumption
    | refine State.serveMbox_moved _ _ _ _ _ ?_ (fun x1 => ?_)
    | refine moved_of (fun hl => State.mboxDone_kept _ _ _ _ (Kept.refl hl)) ?_
    | apply State.regWrite_moved
    | apply movedRes_next
    | split

theorem execRegRead_kept {s0 : State} (smb : Bool) (s : State) (h : Kept s0 s) : KeptRes s0 (execRegRead smb s) := by
  unfold execRegRead
  try dsimp only
  repeat' with_reducible first
    | assumption
    | apply State.serveMbox_kept
    | apply State.mboxDone_kept
    | apply State.regRead_kept
    | apply keptRes_next
    | intro _
    | split

theorem State.alert_kept {s0 : State} (s : State) (code : Nat) (h : Kept s0 s) : Kept s0 (State.alert s code) := by
  unfold State.alert
  repeat' with_reducible first
    | assumption
    | fail_if_no_progress apply kept_upd (by rfl) (by rfl) (by rfl) (by rfl)

theorem State.clearAlert_kept {s0 : State} (s : State) (code : Nat) (h : Kept s0 s) : Kept s0 (State.clearAlert s
    code) := by
  unfold State.clearAlert
  repeat' with_reducible first
    | assumption
    | fail_if_no_progress apply kept_upd (by rfl) (by rfl) (by rfl) (by rfl)

theorem State.judge_kept {s0 : State} (s : State) (code : Nat) (on : Bool) (h : Kept s0 s) : Kept s0 (State.judge s
    code on) := by
  unfold State.judge
  repeat' with_reducible first
    | assumption
    | apply State.alert_kept
    | apply State.noticeMgc_kept
    | apply State.clearAlert_kept
    | split

theorem State.stopAll_kept {s0 : State} (s : State) (h : Kept s0 s) : Kept s0 (State.stopAll s) := by
  unfold State.stopAll
  repeat' with_reducible first
    | assumption
    | apply State.modTable_kept
    | fail_if_no_progress apply kept_upd (by rfl) (by rfl) (by rfl) (by rfl)
    | refine kept_foldl (fun s1 x1 h1 => ?_) _ _ ?_

theorem State.stopDevice_kept {s0 : State} (s : State) (code : Nat) (h : Kept s0 s) : Kept s0 (State.stopDevice s
    code) := by
  unfold State.stopDevice
  repeat' with_reducible first
    | assumption
    | apply State.alert_kept
    | apply State.noticeMgc_kept
    | apply State.stopAll_kept
    | fail_if_no_progress apply kept_upd (by rfl) (by rfl) (by rfl) (by rfl)
    | split

theorem execTempSample_kept {s0 : State} (i : Nat) (t : BitVec 12) (s : State) (h : Kept s0 s) : KeptRes s0
    (execTempSample i t s) := by
  unfold execTempSample
  try dsimp only
  repeat' with_reducible first
    | assumption
    | apply State.judge_kept
    | apply State.clearAlert_kept
    | apply keptRes_next
    | apply keptRes_within
    | fail_if_no_progress apply kept_upd (by rfl) (by rfl) (by rfl) (by rfl)
    | split

theorem execThermalStop_kept {s0 : State} (i : Nat) (t : BitVec 12) (s : State) (h : Kept s0 s) : KeptRes s0
    (execThermalStop i t s) := by
  unfold execThermalStop
  repeat' with_reducible first
    | assumption
    | apply State.stopDevice_kept
    | apply keptRes_next
    | apply keptRes_within
    | split

theorem execPowerStop_kept {s0 : State} (w : BitVec 16) (s : State) (h : Kept s0 s) : KeptRes s0 (execPowerStop w s)
    := by
  unfold execPowerStop
  repeat' with_reducible first
    | assumption
    | apply State.stopDevice_kept
    | apply keptRes_next
    | fail_if_no_progress apply kept_upd (by rfl) (by rfl) (by rfl) (by rfl)
    | split

theorem execRailFault_kept {s0 : State} (i : Nat) (mv : BitVec 16) (held : Bool) (s : State) (h : Kept s0 s) : KeptRes
    s0 (execRailFault i mv held s) := by
  unfold execRailFault
  try dsimp only
  repeat' with_reducible first
    | assumption
    | apply State.clearAlert_kept
    | apply State.stopDevice_kept
    | apply keptRes_next
    | apply keptRes_within
    | fail_if_no_progress apply kept_upd (by rfl) (by rfl) (by rfl) (by rfl)
    | split

theorem execCoolantHigh_kept {s0 : State} (c : CoolantIn) (s : State) (h : Kept s0 s) : KeptRes s0
    (execCoolantHigh c s) := by
  unfold execCoolantHigh
  repeat' with_reducible first
    | assumption
    | apply State.judge_kept
    | apply keptRes_next
    | fail_if_no_progress apply kept_upd (by rfl) (by rfl) (by rfl) (by rfl)

theorem execCoolantSensorFault_kept {s0 : State} (s : State) (h : Kept s0 s) : KeptRes s0 (execCoolantSensorFault s)
    := by
  unfold execCoolantSensorFault
  repeat' with_reducible first
    | assumption
    | apply State.judge_kept
    | apply keptRes_next
    | fail_if_no_progress apply kept_upd (by rfl) (by rfl) (by rfl) (by rfl)
    | split

theorem execPowerWindowEnd_kept {s0 : State} (r : PowerIn) (s : State) (h : Kept s0 s) : KeptRes s0
    (execPowerWindowEnd r s) := by
  unfold execPowerWindowEnd
  try dsimp only
  repeat' with_reducible first
    | assumption
    | apply State.judge_kept
    | apply State.modPort_kept
    | apply keptRes_next
    | fail_if_no_progress apply kept_upd (by rfl) (by rfl) (by rfl) (by rfl)
    | refine kept_foldl (fun s1 x1 h1 => ?_) _ _ ?_

theorem execLogPageWrite_kept {s0 : State} (s : State) (h : Kept s0 s) : KeptRes s0 (execLogPageWrite s) := by
  unfold execLogPageWrite
  try dsimp only
  repeat' with_reducible first
    | assumption
    | apply keptRes_next
    | fail_if_no_progress apply kept_upd (by rfl) (by rfl) (by rfl) (by rfl)
    | apply State.flashWrite_kept
    | split

theorem execLogSuppressed_kept {s0 : State} (s : State) (h : Kept s0 s) : KeptRes s0 (execLogSuppressed s) := by
  unfold execLogSuppressed
  repeat' with_reducible first
    | assumption
    | apply keptRes_next
    | fail_if_no_progress apply kept_upd (by rfl) (by rfl) (by rfl) (by rfl)

theorem execThermRestart_moved {s0 : State} (smb : Bool) (s : State) (h : Moved s0 s) : MovedRes s0 (execThermRestart
    smb s) := by
  unfold execThermRestart
  repeat' with_reducible first
    | assumption
    | refine State.serveMbox_moved _ _ _ _ _ ?_ (fun x1 => ?_)
    | refine moved_of (fun hl => State.endDevice_kept _ _ (Kept.refl hl)) ?_
    | apply State.deviceReset_moved
    | refine moved_of (fun hl => State.mboxDone_kept _ _ _ _ (Kept.refl hl)) ?_
    | apply movedRes_next
    | fail_if_no_progress apply moved_upd (by rfl) (by rfl) (by rfl)

theorem State.startFirmware_kept {s0 : State} (s : State) (bank : Nat) (fallback : Bool) (fw : FwCheck) (h : Kept s0 s) :
    Kept s0 (State.startFirmware s bank fallback fw) := by
  unfold State.startFirmware
  repeat' with_reducible first
    | assumption
    | apply State.noticeMgc_kept
    | apply State.raiseMgc_kept
    | apply State.queueProbe_kept
    | fail_if_no_progress apply kept_upd (by rfl) (by rfl) (by rfl) (by rfl)
    | refine kept_foldl (fun s1 x1 h1 => ?_) _ _ ?_
    | split

theorem State.bringUp_kept {s0 : State} (s : State) (h : Kept s0 s) : Kept s0 (State.bringUp s) := by
  unfold State.bringUp
  try dsimp only
  repeat' with_reducible first
    | assumption
    | apply State.raiseMgc_kept
    | apply State.setTable_kept
    | fail_if_no_progress apply kept_upd (by rfl) (by rfl) (by rfl) (by rfl)
    | refine kept_foldl (fun s1 x1 h1 => ?_) _ _ ?_
    | split

theorem State.powerOff_moved {s0 : State} (s : State) (h : Moved s0 s) : Moved s0 (State.powerOff s) := by
  unfold State.powerOff
  exact moved_mk h (Nat.le_refl _) (List.prefix_refl _) (fun _ => rfl) (fun _ => rfl) (fun _ => rfl)
    (fun _ => by decide) (fun _ => by decide)

theorem execPowerOn_moved {s0 : State} (fw : FwCheck) (s : State) (h : Moved s0 s) : MovedRes s0 (execPowerOn fw s) :=
    by
  unfold execPowerOn
  try dsimp only
  repeat' with_reducible first
    | assumption
    | apply State.powerOff_moved
    | refine moved_of (fun hl => State.startFirmware_kept _ _ _ _ (Kept.refl hl)) ?_
    | refine moved_of (fun hl => State.bringUp_kept _ (Kept.refl hl)) ?_
    | apply movedRes_next
    | split

theorem execRailEnableTimeout_kept {s0 : State} (rail : Nat) (s : State) (h : Kept s0 s) : KeptRes s0
    (execRailEnableTimeout rail s) := by
  unfold execRailEnableTimeout
  repeat' with_reducible first
    | assumption
    | apply State.noticeMgc_kept
    | apply keptRes_next
    | apply keptRes_within
    | fail_if_no_progress apply kept_upd (by rfl) (by rfl) (by rfl) (by rfl)
    | split

theorem execPowerDown_moved {s0 : State} (s : State) (h : Moved s0 s) : MovedRes s0 (execPowerDown s) := by
  unfold execPowerDown
  repeat' with_reducible first
    | assumption
    | apply State.powerOff_moved
    | apply movedRes_next

theorem execMgcRestartComplete_kept {s0 : State} (fw : FwCheck) (s : State) (h : Kept s0 s) : KeptRes s0
    (execMgcRestartComplete fw s) := by
  unfold execMgcRestartComplete
  repeat' with_reducible first
    | assumption
    | apply State.mboxDone_kept
    | apply State.bringUp_kept
    | apply State.startFirmware_kept
    | apply keptRes_next
    | fail_if_no_progress apply kept_upd (by rfl) (by rfl) (by rfl) (by rfl)
    | split

end Sys2Proof.Machine
end

