-- ==== Sys2Proof/Laws/KeptDeck.lean ====
section
/-! SUPPORT. What decks, the tick boundary and the commands of the host rings keep (`Kept`): one lemma for each operation and for each command. -/

namespace Sys2Proof.Machine

/-! ### Machine/Deck.lean -/

theorem State.writeInit_kept {s0 : State} (s : State) (d : DeckIn) (n : Nat) (h : Kept s0 s) : Kept s0
    (State.writeInit s d n) := by
  unfold State.writeInit
  repeat' with_reducible first
    | assumption
    | apply State.pokeBytes_kept
    | refine kept_foldl (fun s1 x1 h1 => ?_) _ _ ?_
    | split

theorem State.loaded_kept {s0 : State} (s : State) (l : Load) (d : DeckIn) (h : Kept s0 s) : Kept s0 (State.loaded s l
    d) := by
  unfold State.loaded
  dsimp only
  exact kept_mk (State.clearStores_kept s h) (Nat.le_refl _) (List.prefix_refl _) (fun h => h) (fun _ => rfl) (fun _ => rfl) rfl
    (fun hr => ⟨Nat.le_add_right _ _, Nat.le_trans (Nat.add_le_add_left (Nat.le_of_lt_succ l.tick11.isLt) 11) (by decide), hr.2.2⟩) (fun h => h)

theorem State.endDeckCmd_kept {s0 : State} (s : State) (c : Pend) (status : Nat) (h : Kept s0 s) : Kept s0
    (State.endDeckCmd s c status) := by
  unfold State.endDeckCmd
  repeat' with_reducible first
    | assumption
    | apply State.freeRing_kept
    | apply State.complete_kept
    | fail_if_no_progress apply kept_upd (by rfl) (by rfl) (by rfl) (by rfl)

theorem State.loadFails_kept {s0 : State} (s : State) (c : Pend) (entry : Nat) (f : Fail) (h : Kept s0 s) : Kept s0
    (State.loadFails s c entry f) := by
  unfold State.loadFails
  repeat' with_reducible first
    | assumption
    | apply State.clearStores_kept
    | apply State.endDeckCmd_kept
    | fail_if_no_progress apply kept_upd (by rfl) (by rfl) (by rfl) (by rfl)

theorem State.loadHeader_kept {s0 : State} (s : State) (c : Pend) (addr len : Nat) (h_ : HostBytes) (h : Kept s0 s) :
    Kept s0 (State.loadHeader s c addr len h_) := by
  unfold State.loadHeader
  repeat' with_reducible first
    | assumption
    | apply State.loadFails_kept
    | fail_if_no_progress apply kept_upd (by rfl) (by rfl) (by rfl) (by rfl)
    | split

theorem State.acceptLoad_kept {s0 : State} (s : State) (c : Pend) (len : Nat) (h : Kept s0 s) : Kept s0
    (State.acceptLoad s c len).1 := by
  unfold State.acceptLoad
  repeat' with_reducible first
    | assumption
    | apply State.endDeckCmd_kept
    | apply State.loadFails_kept
    | apply State.loaded_kept
    | fail_if_no_progress apply kept_upd (by rfl) (by rfl) (by rfl) (by rfl)
    | split

theorem State.checkPass1_kept {s0 : State} (s : State) (l : Load) (h : Kept s0 s) : Kept s0 (State.checkPass1 s l) :=
    by
  unfold State.checkPass1
  repeat' with_reducible first
    | assumption
    | apply State.loadFails_kept
    | apply State.getHost_kept
    | fail_if_no_progress apply kept_upd (by rfl) (by rfl) (by rfl) (by rfl)
    | split

theorem State.endPass1_kept {s0 : State} (s : State) (h : Kept s0 s) : Kept s0 (State.endPass1 s) := by
  unfold State.endPass1
  repeat' with_reducible first
    | assumption
    | apply State.checkPass1_kept
    | fail_if_no_progress apply kept_upd (by rfl) (by rfl) (by rfl) (by rfl)
    | split

theorem State.runPass2_kept {s0 : State} (s : State) (l : Load) (b : List Byte) (h : Kept s0 s) : Kept s0
    (State.runPass2 s l b) := by
  unfold State.runPass2
  try dsimp only
  repeat' with_reducible first
    | assumption
    | apply State.loadFails_kept
    | apply State.writeInit_kept
    | apply State.endDeckCmd_kept
    | apply State.loaded_kept
    | split

theorem State.endPass2_kept {s0 : State} (s : State) (own : List Byte) (ok : Bool) (h : Kept s0 s) : Kept s0
    (State.endPass2 s own ok) := by
  unfold State.endPass2
  repeat' with_reducible first
    | assumption
    | apply State.runPass2_kept
    | split

theorem execDeckLoadComplete_kept {s0 : State} (data : List Byte) (ok : Bool) (s : State) (h : Kept s0 s) : KeptRes s0
    (execDeckLoadComplete data ok s) := by
  unfold execDeckLoadComplete
  repeat' with_reducible first
    | assumption
    | apply State.endPass2_kept
    | apply State.endPass1_kept
    | apply keptRes_next

theorem State.acceptStart_kept {s0 : State} (s : State) (c : Pend) (h : Kept s0 s) : Kept s0 (State.acceptStart s c)
    := by
  unfold State.acceptStart
  repeat' with_reducible first
    | assumption
    | apply State.endDeckCmd_kept
    | apply State.loaded_kept
    | fail_if_no_progress apply kept_upd (by rfl) (by rfl) (by rfl) (by rfl)
    | split

theorem State.acceptStop_kept {s0 : State} (s : State) (c : Pend) (h : Kept s0 s) : Kept s0 (State.acceptStop s c) :=
    by
  unfold State.acceptStop
  repeat' with_reducible first
    | assumption
    | apply State.endDeckCmd_kept
    | fail_if_no_progress apply kept_upd (by rfl) (by rfl) (by rfl) (by rfl)
    | split

theorem State.deckStart_kept {s0 : State} (s : State) (h : Kept s0 s) : Kept s0 (State.deckStart s) := by
  unfold State.deckStart
  repeat' with_reducible first
    | assumption
    | fail_if_no_progress apply kept_upd (by rfl) (by rfl) (by rfl) (by rfl)

theorem State.deckStop_kept {s0 : State} (s : State) (c : Pend) (h : Kept s0 s) : Kept s0 (State.deckStop s c) := by
  unfold State.deckStop
  repeat' with_reducible first
    | assumption
    | apply State.endDevice_kept
    | apply State.withdraw_kept
    | apply State.clearStores_kept
    | apply State.endDeckCmd_kept
    | apply State.decideAll_kept
    | fail_if_no_progress apply kept_upd (by rfl) (by rfl) (by rfl) (by rfl)
    | refine kept_foldl (fun s1 x1 h1 => ?_) _ _ ?_

/-! ### Machine/Boundary.lean -/

theorem State.eachTable_kept {s0 : State} (s : State) (f : State → Nat → State) (hf : ∀ s x, Kept s0 s → Kept s0 (f s
    x)) (h : Kept s0 s) : Kept s0 (State.eachTable s f) := by
  unfold State.eachTable
  repeat' with_reducible first
    | assumption
    | apply hf
    | refine kept_foldl (fun s1 x1 h1 => ?_) _ _ ?_

theorem State.eachTile_kept {s0 : State} (s : State) (f : State → Nat → State) (hf : ∀ s x, Kept s0 s → Kept s0 (f s
    x)) (h : Kept s0 s) : Kept s0 (State.eachTile s f) := by
  unfold State.eachTile
  repeat' with_reducible first
    | assumption
    | apply hf
    | refine kept_foldl (fun s1 x1 h1 => ?_) _ _ ?_

theorem State.eachPort_kept {s0 : State} (s : State) (f : State → Nat → State) (hf : ∀ s x, Kept s0 s → Kept s0 (f s
    x)) (h : Kept s0 s) : Kept s0 (State.eachPort s f) := by
  unfold State.eachPort
  repeat' with_reducible first
    | assumption
    | apply hf
    | refine kept_foldl (fun s1 x1 h1 => ?_) _ _ ?_

theorem State.cutTile_kept {s0 : State} (s : State) (p : Nat) (h : Kept s0 s) : Kept s0 (State.cutTile s p) := by
  unfold State.cutTile
  repeat' with_reducible first
    | assumption
    | apply State.cutSetups_kept
    | apply State.cutPips_kept
    | apply State.cutMatrix_kept
    | apply State.settleTile_kept

theorem execTickEndCutoff_kept {s0 : State} (p : Nat) (s : State) (h : Kept s0 s) : KeptRes s0 (execTickEndCutoff p s)
    := by
  unfold execTickEndCutoff
  repeat' with_reducible first
    | assumption
    | apply State.cutTile_kept
    | apply keptRes_next
    | apply keptRes_within
    | apply State.endBeat_kept
    | split

theorem State.meterTick_kept {s0 : State} (s : State) (h : Kept s0 s) : Kept s0 (State.meterTick s) := by
  unfold State.meterTick
  try dsimp only
  repeat' with_reducible first
    | assumption
    | apply State.eachTable_kept
    | apply State.modTable_kept
    | apply State.raise_kept
    | apply State.raiseMgc_kept
    | fail_if_no_progress apply kept_upd (by rfl) (by rfl) (by rfl) (by rfl)
    | intro _
    | refine kept_foldl (fun s1 x1 h1 => ?_) _ _ ?_
    | split

theorem State.carryTile_kept {s0 : State} (s : State) (p : Nat) (h : Kept s0 s) : Kept s0
    (State.carryTile s p) := by
  unfold State.carryTile
  try dsimp only
  repeat' with_reducible first
    | assumption
    | apply State.modTile_kept

theorem State.eachTile_moved {s0 : State} (s : State) (f : State → Nat → State) (hf : ∀ s p, Moved s0 s → Moved s0 (f s p))
    (h : Moved s0 s) : Moved s0 (s.eachTile f) := moved_foldl hf _ _ h

theorem State.judgeLate_kept {s0 : State} (s : State) (h : Kept s0 s) : Kept s0 (State.judgeLate s) := by
  unfold State.judgeLate
  repeat' with_reducible first
    | assumption
    | apply State.judgeGather_kept
    | apply State.eachTable_kept
    | apply State.judgeInputs_kept
    | refine kept_foldl (fun s1 x1 h1 => ?_) _ _ ?_
    | intro _
    | split

theorem State.pass_moved {s0 : State} (s : State) (n : Nat) (h : Moved s0 s) : Moved s0 (s.pass n) := by
  unfold State.pass
  apply moved_upd (by rfl) (by rfl) (by rfl)
  assumption

theorem State.closeTick_moved {s0 : State} (s : State) (h : Moved s0 s) : Moved s0 (State.closeTick s) := by
  unfold State.closeTick
  try dsimp only
  repeat' with_reducible first
    | assumption
    | refine moved_of (fun hl => State.meterTick_kept _ (Kept.refl hl)) ?_
    | refine moved_of (fun hl => State.judgeLate_kept _ (Kept.refl hl)) ?_
    | refine State.eachTile_moved _ _ (fun s1 x1 h1 => ?_) ?_
    | refine moved_of (fun hl => State.cutTile_kept _ _ (Kept.refl hl)) ?_
    | refine moved_of (fun hl => State.carryTile_kept _ _ (Kept.refl hl)) ?_
    | apply State.pass_moved

theorem State.expireTile_kept {s0 : State} (s : State) (p : Nat) (h : Kept s0 s) : Kept s0 (State.expireTile s p) :=
    by
  unfold State.expireTile
  repeat' with_reducible first
    | assumption
    | apply State.expireOp_kept
    | refine kept_foldl (fun s1 x1 h1 => ?_) _ _ ?_

theorem State.changeClock_kept {s0 : State} (s : State) (tbl : Nat) (h : Kept s0 s) : Kept s0 (State.changeClock s
    tbl) := by
  unfold State.changeClock
  repeat' with_reducible first
    | assumption
    | apply State.modTable_kept

theorem State.stopTables_kept {s0 : State} (s : State) (h : Kept s0 s) : Kept s0 (State.stopTables s) := by
  unfold State.stopTables
  repeat' with_reducible first
    | assumption
    | apply State.eachTable_kept
    | apply State.endTable_kept
    | apply State.modTable_kept
    | intro _
    | split

theorem State.deckBoundary_kept {s0 : State} (s : State) (h : Kept s0 s) : Kept s0 (State.deckBoundary s) := by
  unfold State.deckBoundary
  repeat' with_reducible first
    | assumption
    | apply State.deckStop_kept
    | apply State.deckStart_kept
    | split

theorem State.stepTable_kept {s0 : State} (s : State) (t : Nat) (h : Kept s0 s) : Kept s0 (State.stepTable s t) := by
  unfold State.stepTable
  repeat' with_reducible first
    | assumption
    | apply State.modTable_kept
    | apply State.modTile_kept
    | fail_if_no_progress apply kept_upd (by rfl) (by rfl) (by rfl) (by rfl)
    | refine kept_foldl (fun s1 x1 h1 => ?_) _ _ ?_

theorem State.portTick_kept {s0 : State} (s : State) (n : Nat) (h : Kept s0 s) : Kept s0 (State.portTick s n) := by
  unfold State.portTick
  repeat' with_reducible first
    | assumption
    | apply State.modPort_kept

theorem State.rcuTick_kept {s0 : State} (s : State) (h : Kept s0 s) : Kept s0 (State.rcuTick s) := by
  unfold State.rcuTick
  repeat' with_reducible first
    | assumption
    | fail_if_no_progress apply kept_upd (by rfl) (by rfl) (by rfl) (by rfl)

theorem State.railsOff_kept {s0 : State} (s : State) (h : Kept s0 s) : Kept s0 (State.railsOff s) := by
  unfold State.railsOff
  repeat' with_reducible first
    | assumption
    | fail_if_no_progress apply kept_upd (by rfl) (by rfl) (by rfl) (by rfl)
    | split

theorem State.boundary_kept {s0 : State} (s : State) (h : Kept s0 s) : Kept s0 (State.boundary s) := by
  unfold State.boundary
  repeat' with_reducible first
    | assumption
    | apply State.respond_kept
    | apply State.eachTable_kept
    | apply State.eachTile_kept
    | apply State.railsOff_kept
    | apply State.rcuTick_kept
    | apply State.expireTile_kept
    | apply State.switchSeat_kept
    | apply State.deckBoundary_kept
    | apply State.stopTables_kept
    | apply State.changeClock_kept
    | apply State.eachPort_kept
    | apply State.portTick_kept
    | apply State.stepTable_kept
    | apply State.svcBoundary_kept
    | apply State.modTable_kept
    | intro _

theorem State.fabricWork_moved {s0 : State} (s : State) (h : Moved s0 s) : Moved s0 (State.fabricWork s) := by
  unfold State.fabricWork
  repeat' with_reducible first
    | assumption
    | refine moved_of (fun hl => State.endPass1_kept _ (Kept.refl hl)) ?_
    | apply State.pumpHost_moved
    | refine moved_of (fun hl => State.takeReads_kept _ (Kept.refl hl)) ?_
    | refine moved_of (fun hl => State.beatWork_kept _ (Kept.refl hl)) ?_
    | refine moved_of (fun hl => State.samplePubs_kept _ (Kept.refl hl)) ?_
    | refine moved_of (fun hl => State.copyRows_kept _ (Kept.refl hl)) ?_

theorem State.nextTick_moved {s0 : State} (s : State) (h : Moved s0 s) : Moved s0 (State.nextTick s) := by
  unfold State.nextTick
  exact moved_of (fun hl => State.boundary_kept _ (Kept.refl hl)) (State.pass_moved _ _ (State.closeTick_moved _ h))

theorem execTickBoundary_moved {s0 : State} (s : State) (h : Moved s0 s) : MovedRes s0 (execTickBoundary s) := by
  unfold execTickBoundary
  apply movedRes_next
  split
  · exact State.nextTick_moved _ (State.fabricWork_moved _ h)
  · exact State.nextTick_moved _ h

theorem State.idleBeat_moved {s0 : State} (s : State) (h : Moved s0 s) : Moved s0 (State.idleBeat s) := by
  unfold State.idleBeat
  have w := State.fabricWork_moved _ h
  dsimp only
  split
  · exact State.nextTick_moved _ w
  · exact State.pass_moved _ _ w

/-! ### Machine/Fetch.lean -/

theorem State.addLeft_kept {s0 : State} (s : State) (f : Fn) (i n : Nat) (h : Kept s0 s) : Kept s0 (State.addLeft s f
    i n) := by
  unfold State.addLeft
  repeat' with_reducible first
    | assumption
    | apply State.setCr_kept

theorem State.setStatus_kept {s0 : State} (s : State) (f : Fn) (i code : Nat) (h : Kept s0 s) : Kept s0
    (State.setStatus s f i code) := by
  unfold State.setStatus
  repeat' with_reducible first
    | assumption
    | apply State.setCr_kept

theorem State.hdmaRows_kept {s0 : State} (s : State) (f : Fn) (write : Bool) (addr n : Nat) (h : Kept s0 s) : Kept s0
    (State.hdmaRows s f write addr n).1 := by
  unfold State.hdmaRows
  repeat' with_reducible first
    | assumption
    | apply State.reportRows_kept
    | refine kept_foldl (fun s1 x1 h1 => ?_) _ _ ?_

theorem State.hdmaIn_kept {s0 : State} (s : State) (f : Fn) (i : Nat) (c : CmdRun) (off : Nat) (data : List Byte) (h :
    Kept s0 s) : Kept s0 (State.hdmaIn s f i c off data) := by
  unfold State.hdmaIn
  repeat' with_reducible first
    | assumption
    | apply State.hdmaRows_kept
    | apply State.askHost_kept
    | apply State.addLeft_kept
    | refine kept_foldl (fun s1 x1 h1 => ?_) _ _ ?_

theorem State.hdmaOut_kept {s0 : State} (s : State) (f : Fn) (i : Nat) (c : CmdRun) (h : Kept s0 s) : Kept s0
    (State.hdmaOut s f i c) := by
  unfold State.hdmaOut
  repeat' with_reducible first
    | assumption
    | apply State.setCr_kept
    | apply State.askHost_kept
    | apply State.addLeft_kept
    | fail_if_no_progress apply kept_upd (by rfl) (by rfl) (by rfl) (by rfl)
    | refine kept_foldl (fun s1 x1 h1 => ?_) _ _ ?_
    | (refine kept_of_fst (by assumption) (State.hdmaRows_kept _ _ _ _ _ ?_))
    | split

theorem execHdmaComplete_kept {s0 : State} (fn : Fn) (ring : Nat) (s : State) (h : Kept s0 s) : KeptRes s0
    (execHdmaComplete fn ring s) := by
  unfold execHdmaComplete
  repeat' with_reducible first
    | assumption
    | apply State.hostStore_kept
    | apply State.endRun_kept
    | apply keptRes_next
    | apply keptRes_fault
    | apply keptRes_within
    | split

theorem State.startCmd_kept {s0 : State} (s : State) (f : Fn) (i : Nat) (c : Cmd) (host : Option HostBytes) (h : Kept
    s0 s) : Kept s0 (State.startCmd s f i c host) := by
  unfold State.startCmd
  try dsimp only
  repeat' with_reducible first
    | assumption
    | apply State.setCr_kept
    | apply State.endRun_kept
    | apply State.settleFences_kept
    | apply State.acceptLoad_kept
    | apply State.loadHeader_kept
    | apply State.getHost_kept
    | apply State.acceptStart_kept
    | apply State.acceptStop_kept
    | apply State.pswFields_kept
    | apply State.pswCancel_kept
    | apply State.pswGo_kept
    | apply State.setStatus_kept
    | apply State.hdmaIn_kept
    | apply State.hdmaOut_kept
    | fail_if_no_progress apply kept_upd (by rfl) (by rfl) (by rfl) (by rfl)
    | split

theorem State.forwardCmd_moved {s0 : State} (s : State) (f : Fn) (i : Nat) (c : Cmd) (h : Moved s0 s) : Moved s0
    (State.forwardCmd s f i c) := by
  unfold State.forwardCmd
  repeat' with_reducible first
    | assumption
    | apply State.takeAcc_moved
    | refine moved_of (fun hl => State.setCr_kept _ _ _ _ (Kept.refl hl)) ?_
    | fail_if_no_progress apply moved_upd (by rfl) (by rfl) (by rfl)

theorem State.fetch_moved {s0 : State} (s : State) (f : Fn) (i : Nat) (cmd : Option (List Byte)) (host : HostBytes) (h
    : Moved s0 s) : Moved s0 (State.fetch s f i cmd host) := by
  unfold State.fetch
  try dsimp only
  repeat' with_reducible first
    | assumption
    | refine moved_of (fun hl => State.setCr_kept _ _ _ _ (Kept.refl hl)) ?_
    | refine moved_of (fun hl => State.completeAt_kept _ _ _ _ _ _ (Kept.refl hl)) ?_
    | refine moved_of (fun hl => State.startCmd_kept _ _ _ _ _ (Kept.refl hl)) ?_
    | apply State.forwardCmd_moved
    | split

theorem execCommandFetch_moved {s0 : State} (fn : Fn) (ring : Nat) (cmd : Option (List Byte)) (host : HostBytes) (s :
    State) (h : Moved s0 s) : MovedRes s0 (execCommandFetch fn ring cmd host s) := by
  unfold execCommandFetch
  repeat' with_reducible first
    | assumption
    | apply State.fetch_moved
    | apply movedRes_next
    | apply movedRes_fault
    | apply movedRes_within
    | split

theorem execHostCommand_kept {s0 : State} (port : Nat) (s : State) (h : Kept s0 s) : KeptRes s0 (execHostCommand port
    s) := by
  unfold execHostCommand
  try dsimp only
  repeat' with_reducible first
    | assumption
    | apply State.completeAt_kept
    | apply State.startCmd_kept
    | apply keptRes_next
    | apply keptRes_within
    | fail_if_no_progress apply kept_upd (by rfl) (by rfl) (by rfl) (by rfl)
    | (refine kept_of_fst (by assumption) (State.takeHost_kept _ _ _ _ _ _ _ ?_))
    | split

theorem State.askParts_kept {s0 : State} (s : State) (f : Fn) (k : Nat) (l : List Byte) (h : Kept s0 s) : Kept s0
    (State.askParts s f k l) := by
  unfold State.askParts
  try dsimp only
  repeat' with_reducible first
    | assumption
    | apply State.getHost_kept
    | split

theorem State.askRecord_kept {s0 : State} (s : State) (f : Fn) (k : Nat) (g : HostGet) (h : Kept s0 s) : Kept s0
    (State.askRecord s f k g) := by
  unfold State.askRecord
  try dsimp only
  repeat' with_reducible first
    | assumption
    | apply State.getHost_kept
    | split

theorem State.servedRead_kept {s0 : State} (s : State) (f : Fn) (g : HostGet) (count : Nat) (h : Kept s0 s) : Kept s0
    (State.servedRead s f g count) := by
  unfold State.servedRead
  try dsimp only
  repeat' with_reducible first
    | assumption
    | apply State.endRun_kept
    | apply State.askParts_kept
    | apply State.askRecord_kept
    | refine kept_foldl (fun s1 x1 h1 => ?_) _ _ ?_
    | split

theorem State.hostBytes_kept {s0 : State} (s : State) (f : Fn) (key off : Nat) (ok : Bool) (data : List Byte) (h :
    Kept s0 s) : Kept s0 (State.hostBytes s f key off ok data) := by
  unfold State.hostBytes
  try dsimp only
  repeat' with_reducible first
    | assumption
    | apply State.setCr_kept
    | apply State.loadHeader_kept
    | apply State.getHost_kept
    | apply State.endPass1_kept
    | apply State.hdmaIn_kept
    | apply State.setStatus_kept
    | apply State.servedRead_kept
    | fail_if_no_progress apply kept_upd (by rfl) (by rfl) (by rfl) (by rfl)
    | split

theorem execHostData_kept {s0 : State} (port : Nat) (s : State) (h : Kept s0 s) : KeptRes s0 (execHostData port s) :=
    by
  unfold execHostData
  repeat' with_reducible first
    | assumption
    | apply State.hostBytes_kept
    | apply keptRes_next
    | apply keptRes_within
    | fail_if_no_progress apply kept_upd (by rfl) (by rfl) (by rfl) (by rfl)
    | (refine kept_of_fst (by assumption) (State.takeHost_kept _ _ _ _ _ _ _ ?_))
    | split

end Sys2Proof.Machine
end

