-- ==== Sys2Proof/Laws/State.lean ====
section
/-! SUPPORT. Reading the state after a named update: one lemma per update and field, and per reader of a unit. -/

namespace Sys2Proof.Machine

/-! ### setTile -/

@[simp] theorem State.setTile_pending (s : State) (p : Nat) (t : Tile) : (s.setTile p t).pending = s.pending := (rfl)
@[simp] theorem State.setTile_freeIdx (s : State) (p : Nat) (t : Tile) : (s.setTile p t).freeIdx = s.freeIdx := (rfl)
@[simp] theorem State.setTile_out (s : State) (p : Nat) (t : Tile) : (s.setTile p t).out = s.out := (rfl)
@[simp] theorem State.setTile_grade (s : State) (p : Nat) (t : Tile) : (s.setTile p t).grade = s.grade := (rfl)
@[simp] theorem State.setTile_age (s : State) (p : Nat) (t : Tile) : (s.setTile p t).age = s.age := (rfl)
@[simp] theorem State.setTile_minVersion (s : State) (p : Nat) (t : Tile) : (s.setTile p t).minVersion = s.minVersion := (rfl)
@[simp] theorem State.setTile_stepping (s : State) (p : Nat) (t : Tile) : (s.setTile p t).stepping = s.stepping := (rfl)
@[simp] theorem State.setTile_mem (s : State) (p : Nat) (t : Tile) : (s.setTile p t).mem = s.mem := (rfl)
@[simp] theorem State.setTile_acc (s : State) (p : Nat) (t : Tile) : (s.setTile p t).acc = s.acc := (rfl)
@[simp] theorem State.setTile_accBad (s : State) (p : Nat) (t : Tile) : (s.setTile p t).accBad = s.accBad := (rfl)
@[simp] theorem State.setTile_tiles (s : State) (p : Nat) (t : Tile) : (s.setTile p t).tiles = Map.set {} s.tiles p t := (rfl)
@[simp] theorem State.setTile_tables (s : State) (p : Nat) (t : Tile) : (s.setTile p t).tables = s.tables := (rfl)
@[simp] theorem State.setTile_xbar (s : State) (p : Nat) (t : Tile) : (s.setTile p t).xbar = s.xbar := (rfl)
@[simp] theorem State.setTile_ports (s : State) (p : Nat) (t : Tile) : (s.setTile p t).ports = s.ports := (rfl)
@[simp] theorem State.setTile_lnk (s : State) (p : Nat) (t : Tile) : (s.setTile p t).lnk = s.lnk := (rfl)
@[simp] theorem State.setTile_rcu (s : State) (p : Nat) (t : Tile) : (s.setTile p t).rcu = s.rcu := (rfl)
@[simp] theorem State.setTile_dck (s : State) (p : Nat) (t : Tile) : (s.setTile p t).dck = s.dck := (rfl)
@[simp] theorem State.setTile_hif (s : State) (p : Nat) (t : Tile) : (s.setTile p t).hif = s.hif := (rfl)
@[simp] theorem State.setTile_svc (s : State) (p : Nat) (t : Tile) : (s.setTile p t).svc = s.svc := (rfl)
@[simp] theorem State.setTile_tly (s : State) (p : Nat) (t : Tile) : (s.setTile p t).tly = s.tly := (rfl)
@[simp] theorem State.setTile_pwr (s : State) (p : Nat) (t : Tile) : (s.setTile p t).pwr = s.pwr := (rfl)
@[simp] theorem State.setTile_mgc (s : State) (p : Nat) (t : Tile) : (s.setTile p t).mgc = s.mgc := (rfl)
@[simp] theorem State.table_setTile (s : State) (p : Nat) (t : Tile) (q : Nat) : (s.setTile p t).table q = s.table q := (rfl)
@[simp] theorem State.port_setTile (s : State) (p : Nat) (t : Tile) (q : Nat) : (s.setTile p t).port q = s.port q := (rfl)
@[simp] theorem State.fn_setTile (s : State) (p : Nat) (t : Tile) (g : Fn) : (s.setTile p t).fn g = s.fn g := (rfl)
@[simp] theorem State.queue_setTile (s : State) (p : Nat) (t : Tile) (q : Nat) : (s.setTile p t).queue q = s.queue q := (rfl)
@[simp] theorem State.readByte_setTile (s : State) (p : Nat) (t : Tile) (q o : Nat) : (s.setTile p t).readByte q o = s.readByte q o := (rfl)
@[simp] theorem State.now_setTile (s : State) (p : Nat) (t : Tile) : (s.setTile p t).now = s.now := (rfl)

/-! ### modTile -/

@[simp] theorem State.modTile_pending (s : State) (p : Nat) (f : Tile → Tile) : (s.modTile p f).pending = s.pending := (rfl)
@[simp] theorem State.modTile_freeIdx (s : State) (p : Nat) (f : Tile → Tile) : (s.modTile p f).freeIdx = s.freeIdx := (rfl)
@[simp] theorem State.modTile_out (s : State) (p : Nat) (f : Tile → Tile) : (s.modTile p f).out = s.out := (rfl)
@[simp] theorem State.modTile_grade (s : State) (p : Nat) (f : Tile → Tile) : (s.modTile p f).grade = s.grade := (rfl)
@[simp] theorem State.modTile_age (s : State) (p : Nat) (f : Tile → Tile) : (s.modTile p f).age = s.age := (rfl)
@[simp] theorem State.modTile_minVersion (s : State) (p : Nat) (f : Tile → Tile) : (s.modTile p f).minVersion = s.minVersion := (rfl)
@[simp] theorem State.modTile_stepping (s : State) (p : Nat) (f : Tile → Tile) : (s.modTile p f).stepping = s.stepping := (rfl)
@[simp] theorem State.modTile_mem (s : State) (p : Nat) (f : Tile → Tile) : (s.modTile p f).mem = s.mem := (rfl)
@[simp] theorem State.modTile_acc (s : State) (p : Nat) (f : Tile → Tile) : (s.modTile p f).acc = s.acc := (rfl)
@[simp] theorem State.modTile_accBad (s : State) (p : Nat) (f : Tile → Tile) : (s.modTile p f).accBad = s.accBad := (rfl)
@[simp] theorem State.modTile_tiles (s : State) (p : Nat) (f : Tile → Tile) : (s.modTile p f).tiles = Map.set {} s.tiles p (f (s.tile p)) := (rfl)
@[simp] theorem State.modTile_tables (s : State) (p : Nat) (f : Tile → Tile) : (s.modTile p f).tables = s.tables := (rfl)
@[simp] theorem State.modTile_xbar (s : State) (p : Nat) (f : Tile → Tile) : (s.modTile p f).xbar = s.xbar := (rfl)
@[simp] theorem State.modTile_ports (s : State) (p : Nat) (f : Tile → Tile) : (s.modTile p f).ports = s.ports := (rfl)
@[simp] theorem State.modTile_lnk (s : State) (p : Nat) (f : Tile → Tile) : (s.modTile p f).lnk = s.lnk := (rfl)
@[simp] theorem State.modTile_rcu (s : State) (p : Nat) (f : Tile → Tile) : (s.modTile p f).rcu = s.rcu := (rfl)
@[simp] theorem State.modTile_dck (s : State) (p : Nat) (f : Tile → Tile) : (s.modTile p f).dck = s.dck := (rfl)
@[simp] theorem State.modTile_hif (s : State) (p : Nat) (f : Tile → Tile) : (s.modTile p f).hif = s.hif := (rfl)
@[simp] theorem State.modTile_svc (s : State) (p : Nat) (f : Tile → Tile) : (s.modTile p f).svc = s.svc := (rfl)
@[simp] theorem State.modTile_tly (s : State) (p : Nat) (f : Tile → Tile) : (s.modTile p f).tly = s.tly := (rfl)
@[simp] theorem State.modTile_pwr (s : State) (p : Nat) (f : Tile → Tile) : (s.modTile p f).pwr = s.pwr := (rfl)
@[simp] theorem State.modTile_mgc (s : State) (p : Nat) (f : Tile → Tile) : (s.modTile p f).mgc = s.mgc := (rfl)
@[simp] theorem State.table_modTile (s : State) (p : Nat) (f : Tile → Tile) (q : Nat) : (s.modTile p f).table q = s.table q := (rfl)
@[simp] theorem State.port_modTile (s : State) (p : Nat) (f : Tile → Tile) (q : Nat) : (s.modTile p f).port q = s.port q := (rfl)
@[simp] theorem State.fn_modTile (s : State) (p : Nat) (f : Tile → Tile) (g : Fn) : (s.modTile p f).fn g = s.fn g := (rfl)
@[simp] theorem State.queue_modTile (s : State) (p : Nat) (f : Tile → Tile) (q : Nat) : (s.modTile p f).queue q = s.queue q := (rfl)
@[simp] theorem State.readByte_modTile (s : State) (p : Nat) (f : Tile → Tile) (q o : Nat) : (s.modTile p f).readByte q o = s.readByte q o := (rfl)
@[simp] theorem State.now_modTile (s : State) (p : Nat) (f : Tile → Tile) : (s.modTile p f).now = s.now := (rfl)

/-! ### setTable -/

@[simp] theorem State.setTable_pending (s : State) (n : Nat) (x : Table) : (s.setTable n x).pending = s.pending := (rfl)
@[simp] theorem State.setTable_freeIdx (s : State) (n : Nat) (x : Table) : (s.setTable n x).freeIdx = s.freeIdx := (rfl)
@[simp] theorem State.setTable_out (s : State) (n : Nat) (x : Table) : (s.setTable n x).out = s.out := (rfl)
@[simp] theorem State.setTable_grade (s : State) (n : Nat) (x : Table) : (s.setTable n x).grade = s.grade := (rfl)
@[simp] theorem State.setTable_age (s : State) (n : Nat) (x : Table) : (s.setTable n x).age = s.age := (rfl)
@[simp] theorem State.setTable_minVersion (s : State) (n : Nat) (x : Table) : (s.setTable n x).minVersion = s.minVersion := (rfl)
@[simp] theorem State.setTable_stepping (s : State) (n : Nat) (x : Table) : (s.setTable n x).stepping = s.stepping := (rfl)
@[simp] theorem State.setTable_mem (s : State) (n : Nat) (x : Table) : (s.setTable n x).mem = s.mem := (rfl)
@[simp] theorem State.setTable_acc (s : State) (n : Nat) (x : Table) : (s.setTable n x).acc = s.acc := (rfl)
@[simp] theorem State.setTable_accBad (s : State) (n : Nat) (x : Table) : (s.setTable n x).accBad = s.accBad := (rfl)
@[simp] theorem State.setTable_tiles (s : State) (n : Nat) (x : Table) : (s.setTable n x).tiles = s.tiles := (rfl)
@[simp] theorem State.setTable_tables (s : State) (n : Nat) (x : Table) : (s.setTable n x).tables = Map.set {} s.tables n x := (rfl)
@[simp] theorem State.setTable_xbar (s : State) (n : Nat) (x : Table) : (s.setTable n x).xbar = s.xbar := (rfl)
@[simp] theorem State.setTable_ports (s : State) (n : Nat) (x : Table) : (s.setTable n x).ports = s.ports := (rfl)
@[simp] theorem State.setTable_lnk (s : State) (n : Nat) (x : Table) : (s.setTable n x).lnk = s.lnk := (rfl)
@[simp] theorem State.setTable_rcu (s : State) (n : Nat) (x : Table) : (s.setTable n x).rcu = s.rcu := (rfl)
@[simp] theorem State.setTable_dck (s : State) (n : Nat) (x : Table) : (s.setTable n x).dck = s.dck := (rfl)
@[simp] theorem State.setTable_hif (s : State) (n : Nat) (x : Table) : (s.setTable n x).hif = s.hif := (rfl)
@[simp] theorem State.setTable_svc (s : State) (n : Nat) (x : Table) : (s.setTable n x).svc = s.svc := (rfl)
@[simp] theorem State.setTable_tly (s : State) (n : Nat) (x : Table) : (s.setTable n x).tly = s.tly := (rfl)
@[simp] theorem State.setTable_pwr (s : State) (n : Nat) (x : Table) : (s.setTable n x).pwr = s.pwr := (rfl)
@[simp] theorem State.setTable_mgc (s : State) (n : Nat) (x : Table) : (s.setTable n x).mgc = s.mgc := (rfl)
@[simp] theorem State.tile_setTable (s : State) (n : Nat) (x : Table) (q : Nat) : (s.setTable n x).tile q = s.tile q := (rfl)
@[simp] theorem State.port_setTable (s : State) (n : Nat) (x : Table) (q : Nat) : (s.setTable n x).port q = s.port q := (rfl)
@[simp] theorem State.fn_setTable (s : State) (n : Nat) (x : Table) (g : Fn) : (s.setTable n x).fn g = s.fn g := (rfl)
@[simp] theorem State.queue_setTable (s : State) (n : Nat) (x : Table) (q : Nat) : (s.setTable n x).queue q = s.queue q := (rfl)
@[simp] theorem State.readByte_setTable (s : State) (n : Nat) (x : Table) (q o : Nat) : (s.setTable n x).readByte q o = s.readByte q o := (rfl)
@[simp] theorem State.now_setTable (s : State) (n : Nat) (x : Table) : (s.setTable n x).now = s.now := (rfl)

/-! ### modTable -/

@[simp] theorem State.modTable_pending (s : State) (n : Nat) (f : Table → Table) : (s.modTable n f).pending = s.pending := (rfl)
@[simp] theorem State.modTable_freeIdx (s : State) (n : Nat) (f : Table → Table) : (s.modTable n f).freeIdx = s.freeIdx := (rfl)
@[simp] theorem State.modTable_out (s : State) (n : Nat) (f : Table → Table) : (s.modTable n f).out = s.out := (rfl)
@[simp] theorem State.modTable_grade (s : State) (n : Nat) (f : Table → Table) : (s.modTable n f).grade = s.grade := (rfl)
@[simp] theorem State.modTable_age (s : State) (n : Nat) (f : Table → Table) : (s.modTable n f).age = s.age := (rfl)
@[simp] theorem State.modTable_minVersion (s : State) (n : Nat) (f : Table → Table) : (s.modTable n f).minVersion = s.minVersion := (rfl)
@[simp] theorem State.modTable_stepping (s : State) (n : Nat) (f : Table → Table) : (s.modTable n f).stepping = s.stepping := (rfl)
@[simp] theorem State.modTable_mem (s : State) (n : Nat) (f : Table → Table) : (s.modTable n f).mem = s.mem := (rfl)
@[simp] theorem State.modTable_acc (s : State) (n : Nat) (f : Table → Table) : (s.modTable n f).acc = s.acc := (rfl)
@[simp] theorem State.modTable_accBad (s : State) (n : Nat) (f : Table → Table) : (s.modTable n f).accBad = s.accBad := (rfl)
@[simp] theorem State.modTable_tiles (s : State) (n : Nat) (f : Table → Table) : (s.modTable n f).tiles = s.tiles := (rfl)
@[simp] theorem State.modTable_tables (s : State) (n : Nat) (f : Table → Table) : (s.modTable n f).tables = Map.set {} s.tables n (f (s.table n)) := (rfl)
@[simp] theorem State.modTable_xbar (s : State) (n : Nat) (f : Table → Table) : (s.modTable n f).xbar = s.xbar := (rfl)
@[simp] theorem State.modTable_ports (s : State) (n : Nat) (f : Table → Table) : (s.modTable n f).ports = s.ports := (rfl)
@[simp] theorem State.modTable_lnk (s : State) (n : Nat) (f : Table → Table) : (s.modTable n f).lnk = s.lnk := (rfl)
@[simp] theorem State.modTable_rcu (s : State) (n : Nat) (f : Table → Table) : (s.modTable n f).rcu = s.rcu := (rfl)
@[simp] theorem State.modTable_dck (s : State) (n : Nat) (f : Table → Table) : (s.modTable n f).dck = s.dck := (rfl)
@[simp] theorem State.modTable_hif (s : State) (n : Nat) (f : Table → Table) : (s.modTable n f).hif = s.hif := (rfl)
@[simp] theorem State.modTable_svc (s : State) (n : Nat) (f : Table → Table) : (s.modTable n f).svc = s.svc := (rfl)
@[simp] theorem State.modTable_tly (s : State) (n : Nat) (f : Table → Table) : (s.modTable n f).tly = s.tly := (rfl)
@[simp] theorem State.modTable_pwr (s : State) (n : Nat) (f : Table → Table) : (s.modTable n f).pwr = s.pwr := (rfl)
@[simp] theorem State.modTable_mgc (s : State) (n : Nat) (f : Table → Table) : (s.modTable n f).mgc = s.mgc := (rfl)
@[simp] theorem State.tile_modTable (s : State) (n : Nat) (f : Table → Table) (q : Nat) : (s.modTable n f).tile q = s.tile q := (rfl)
@[simp] theorem State.port_modTable (s : State) (n : Nat) (f : Table → Table) (q : Nat) : (s.modTable n f).port q = s.port q := (rfl)
@[simp] theorem State.fn_modTable (s : State) (n : Nat) (f : Table → Table) (g : Fn) : (s.modTable n f).fn g = s.fn g := (rfl)
@[simp] theorem State.queue_modTable (s : State) (n : Nat) (f : Table → Table) (q : Nat) : (s.modTable n f).queue q = s.queue q := (rfl)
@[simp] theorem State.readByte_modTable (s : State) (n : Nat) (f : Table → Table) (q o : Nat) : (s.modTable n f).readByte q o = s.readByte q o := (rfl)
@[simp] theorem State.now_modTable (s : State) (n : Nat) (f : Table → Table) : (s.modTable n f).now = s.now := (rfl)

/-! ### setPort -/

@[simp] theorem State.setPort_pending (s : State) (n : Nat) (x : Port) : (s.setPort n x).pending = s.pending := (rfl)
@[simp] theorem State.setPort_freeIdx (s : State) (n : Nat) (x : Port) : (s.setPort n x).freeIdx = s.freeIdx := (rfl)
@[simp] theorem State.setPort_out (s : State) (n : Nat) (x : Port) : (s.setPort n x).out = s.out := (rfl)
@[simp] theorem State.setPort_grade (s : State) (n : Nat) (x : Port) : (s.setPort n x).grade = s.grade := (rfl)
@[simp] theorem State.setPort_age (s : State) (n : Nat) (x : Port) : (s.setPort n x).age = s.age := (rfl)
@[simp] theorem State.setPort_minVersion (s : State) (n : Nat) (x : Port) : (s.setPort n x).minVersion = s.minVersion := (rfl)
@[simp] theorem State.setPort_stepping (s : State) (n : Nat) (x : Port) : (s.setPort n x).stepping = s.stepping := (rfl)
@[simp] theorem State.setPort_mem (s : State) (n : Nat) (x : Port) : (s.setPort n x).mem = s.mem := (rfl)
@[simp] theorem State.setPort_acc (s : State) (n : Nat) (x : Port) : (s.setPort n x).acc = s.acc := (rfl)
@[simp] theorem State.setPort_accBad (s : State) (n : Nat) (x : Port) : (s.setPort n x).accBad = s.accBad := (rfl)
@[simp] theorem State.setPort_tiles (s : State) (n : Nat) (x : Port) : (s.setPort n x).tiles = s.tiles := (rfl)
@[simp] theorem State.setPort_tables (s : State) (n : Nat) (x : Port) : (s.setPort n x).tables = s.tables := (rfl)
@[simp] theorem State.setPort_xbar (s : State) (n : Nat) (x : Port) : (s.setPort n x).xbar = s.xbar := (rfl)
@[simp] theorem State.setPort_ports (s : State) (n : Nat) (x : Port) : (s.setPort n x).ports = Map.set {} s.ports n x := (rfl)
@[simp] theorem State.setPort_lnk (s : State) (n : Nat) (x : Port) : (s.setPort n x).lnk = s.lnk := (rfl)
@[simp] theorem State.setPort_rcu (s : State) (n : Nat) (x : Port) : (s.setPort n x).rcu = s.rcu := (rfl)
@[simp] theorem State.setPort_dck (s : State) (n : Nat) (x : Port) : (s.setPort n x).dck = s.dck := (rfl)
@[simp] theorem State.setPort_hif (s : State) (n : Nat) (x : Port) : (s.setPort n x).hif = s.hif := (rfl)
@[simp] theorem State.setPort_svc (s : State) (n : Nat) (x : Port) : (s.setPort n x).svc = s.svc := (rfl)
@[simp] theorem State.setPort_tly (s : State) (n : Nat) (x : Port) : (s.setPort n x).tly = s.tly := (rfl)
@[simp] theorem State.setPort_pwr (s : State) (n : Nat) (x : Port) : (s.setPort n x).pwr = s.pwr := (rfl)
@[simp] theorem State.setPort_mgc (s : State) (n : Nat) (x : Port) : (s.setPort n x).mgc = s.mgc := (rfl)
@[simp] theorem State.tile_setPort (s : State) (n : Nat) (x : Port) (q : Nat) : (s.setPort n x).tile q = s.tile q := (rfl)
@[simp] theorem State.table_setPort (s : State) (n : Nat) (x : Port) (q : Nat) : (s.setPort n x).table q = s.table q := (rfl)
@[simp] theorem State.fn_setPort (s : State) (n : Nat) (x : Port) (g : Fn) : (s.setPort n x).fn g = s.fn g := (rfl)
@[simp] theorem State.queue_setPort (s : State) (n : Nat) (x : Port) (q : Nat) : (s.setPort n x).queue q = s.queue q := (rfl)
@[simp] theorem State.readByte_setPort (s : State) (n : Nat) (x : Port) (q o : Nat) : (s.setPort n x).readByte q o = s.readByte q o := (rfl)
@[simp] theorem State.now_setPort (s : State) (n : Nat) (x : Port) : (s.setPort n x).now = s.now := (rfl)

/-! ### modPort -/

@[simp] theorem State.modPort_pending (s : State) (n : Nat) (f : Port → Port) : (s.modPort n f).pending = s.pending := (rfl)
@[simp] theorem State.modPort_freeIdx (s : State) (n : Nat) (f : Port → Port) : (s.modPort n f).freeIdx = s.freeIdx := (rfl)
@[simp] theorem State.modPort_out (s : State) (n : Nat) (f : Port → Port) : (s.modPort n f).out = s.out := (rfl)
@[simp] theorem State.modPort_grade (s : State) (n : Nat) (f : Port → Port) : (s.modPort n f).grade = s.grade := (rfl)
@[simp] theorem State.modPort_age (s : State) (n : Nat) (f : Port → Port) : (s.modPort n f).age = s.age := (rfl)
@[simp] theorem State.modPort_minVersion (s : State) (n : Nat) (f : Port → Port) : (s.modPort n f).minVersion = s.minVersion := (rfl)
@[simp] theorem State.modPort_stepping (s : State) (n : Nat) (f : Port → Port) : (s.modPort n f).stepping = s.stepping := (rfl)
@[simp] theorem State.modPort_mem (s : State) (n : Nat) (f : Port → Port) : (s.modPort n f).mem = s.mem := (rfl)
@[simp] theorem State.modPort_acc (s : State) (n : Nat) (f : Port → Port) : (s.modPort n f).acc = s.acc := (rfl)
@[simp] theorem State.modPort_accBad (s : State) (n : Nat) (f : Port → Port) : (s.modPort n f).accBad = s.accBad := (rfl)
@[simp] theorem State.modPort_tiles (s : State) (n : Nat) (f : Port → Port) : (s.modPort n f).tiles = s.tiles := (rfl)
@[simp] theorem State.modPort_tables (s : State) (n : Nat) (f : Port → Port) : (s.modPort n f).tables = s.tables := (rfl)
@[simp] theorem State.modPort_xbar (s : State) (n : Nat) (f : Port → Port) : (s.modPort n f).xbar = s.xbar := (rfl)
@[simp] theorem State.modPort_ports (s : State) (n : Nat) (f : Port → Port) : (s.modPort n f).ports = Map.set {} s.ports n (f (s.port n)) := (rfl)
@[simp] theorem State.modPort_lnk (s : State) (n : Nat) (f : Port → Port) : (s.modPort n f).lnk = s.lnk := (rfl)
@[simp] theorem State.modPort_rcu (s : State) (n : Nat) (f : Port → Port) : (s.modPort n f).rcu = s.rcu := (rfl)
@[simp] theorem State.modPort_dck (s : State) (n : Nat) (f : Port → Port) : (s.modPort n f).dck = s.dck := (rfl)
@[simp] theorem State.modPort_hif (s : State) (n : Nat) (f : Port → Port) : (s.modPort n f).hif = s.hif := (rfl)
@[simp] theorem State.modPort_svc (s : State) (n : Nat) (f : Port → Port) : (s.modPort n f).svc = s.svc := (rfl)
@[simp] theorem State.modPort_tly (s : State) (n : Nat) (f : Port → Port) : (s.modPort n f).tly = s.tly := (rfl)
@[simp] theorem State.modPort_pwr (s : State) (n : Nat) (f : Port → Port) : (s.modPort n f).pwr = s.pwr := (rfl)
@[simp] theorem State.modPort_mgc (s : State) (n : Nat) (f : Port → Port) : (s.modPort n f).mgc = s.mgc := (rfl)
@[simp] theorem State.tile_modPort (s : State) (n : Nat) (f : Port → Port) (q : Nat) : (s.modPort n f).tile q = s.tile q := (rfl)
@[simp] theorem State.table_modPort (s : State) (n : Nat) (f : Port → Port) (q : Nat) : (s.modPort n f).table q = s.table q := (rfl)
@[simp] theorem State.fn_modPort (s : State) (n : Nat) (f : Port → Port) (g : Fn) : (s.modPort n f).fn g = s.fn g := (rfl)
@[simp] theorem State.queue_modPort (s : State) (n : Nat) (f : Port → Port) (q : Nat) : (s.modPort n f).queue q = s.queue q := (rfl)
@[simp] theorem State.readByte_modPort (s : State) (n : Nat) (f : Port → Port) (q o : Nat) : (s.modPort n f).readByte q o = s.readByte q o := (rfl)
@[simp] theorem State.now_modPort (s : State) (n : Nat) (f : Port → Port) : (s.modPort n f).now = s.now := (rfl)

/-! ### modFn -/

@[simp] theorem State.modFn_pending (s : State) (f : Fn) (k : FnState → FnState) : (s.modFn f k).pending = s.pending := (rfl)
@[simp] theorem State.modFn_freeIdx (s : State) (f : Fn) (k : FnState → FnState) : (s.modFn f k).freeIdx = s.freeIdx := (rfl)
@[simp] theorem State.modFn_out (s : State) (f : Fn) (k : FnState → FnState) : (s.modFn f k).out = s.out := (rfl)
@[simp] theorem State.modFn_grade (s : State) (f : Fn) (k : FnState → FnState) : (s.modFn f k).grade = s.grade := (rfl)
@[simp] theorem State.modFn_age (s : State) (f : Fn) (k : FnState → FnState) : (s.modFn f k).age = s.age := (rfl)
@[simp] theorem State.modFn_minVersion (s : State) (f : Fn) (k : FnState → FnState) : (s.modFn f k).minVersion = s.minVersion := (rfl)
@[simp] theorem State.modFn_stepping (s : State) (f : Fn) (k : FnState → FnState) : (s.modFn f k).stepping = s.stepping := (rfl)
@[simp] theorem State.modFn_mem (s : State) (f : Fn) (k : FnState → FnState) : (s.modFn f k).mem = s.mem := (rfl)
@[simp] theorem State.modFn_acc (s : State) (f : Fn) (k : FnState → FnState) : (s.modFn f k).acc = s.acc := (rfl)
@[simp] theorem State.modFn_accBad (s : State) (f : Fn) (k : FnState → FnState) : (s.modFn f k).accBad = s.accBad := (rfl)
@[simp] theorem State.modFn_tiles (s : State) (f : Fn) (k : FnState → FnState) : (s.modFn f k).tiles = s.tiles := (rfl)
@[simp] theorem State.modFn_tables (s : State) (f : Fn) (k : FnState → FnState) : (s.modFn f k).tables = s.tables := (rfl)
@[simp] theorem State.modFn_xbar (s : State) (f : Fn) (k : FnState → FnState) : (s.modFn f k).xbar = s.xbar := (rfl)
@[simp] theorem State.modFn_ports (s : State) (f : Fn) (k : FnState → FnState) : (s.modFn f k).ports = s.ports := (rfl)
@[simp] theorem State.modFn_lnk (s : State) (f : Fn) (k : FnState → FnState) : (s.modFn f k).lnk = s.lnk := (rfl)
@[simp] theorem State.modFn_rcu (s : State) (f : Fn) (k : FnState → FnState) : (s.modFn f k).rcu = s.rcu := (rfl)
@[simp] theorem State.modFn_dck (s : State) (f : Fn) (k : FnState → FnState) : (s.modFn f k).dck = s.dck := (rfl)
@[simp] theorem State.modFn_hif (s : State) (f : Fn) (k : FnState → FnState) : (s.modFn f k).hif = { s.hif with fns := Map.set {} s.hif.fns (fnKey f) (k (s.fn f)) } := (rfl)
@[simp] theorem State.modFn_svc (s : State) (f : Fn) (k : FnState → FnState) : (s.modFn f k).svc = s.svc := (rfl)
@[simp] theorem State.modFn_tly (s : State) (f : Fn) (k : FnState → FnState) : (s.modFn f k).tly = s.tly := (rfl)
@[simp] theorem State.modFn_pwr (s : State) (f : Fn) (k : FnState → FnState) : (s.modFn f k).pwr = s.pwr := (rfl)
@[simp] theorem State.modFn_mgc (s : State) (f : Fn) (k : FnState → FnState) : (s.modFn f k).mgc = s.mgc := (rfl)
@[simp] theorem State.tile_modFn (s : State) (f : Fn) (k : FnState → FnState) (q : Nat) : (s.modFn f k).tile q = s.tile q := (rfl)
@[simp] theorem State.table_modFn (s : State) (f : Fn) (k : FnState → FnState) (q : Nat) : (s.modFn f k).table q = s.table q := (rfl)
@[simp] theorem State.port_modFn (s : State) (f : Fn) (k : FnState → FnState) (q : Nat) : (s.modFn f k).port q = s.port q := (rfl)
@[simp] theorem State.queue_modFn (s : State) (f : Fn) (k : FnState → FnState) (q : Nat) : (s.modFn f k).queue q = s.queue q := (rfl)
@[simp] theorem State.readByte_modFn (s : State) (f : Fn) (k : FnState → FnState) (q o : Nat) : (s.modFn f k).readByte q o = s.readByte q o := (rfl)
@[simp] theorem State.now_modFn (s : State) (f : Fn) (k : FnState → FnState) : (s.modFn f k).now = s.now := (rfl)

/-! ### setCr -/

@[simp] theorem State.setCr_pending (s : State) (f : Fn) (i : Nat) (r : CmdRing) : (s.setCr f i r).pending = s.pending := (rfl)
@[simp] theorem State.setCr_freeIdx (s : State) (f : Fn) (i : Nat) (r : CmdRing) : (s.setCr f i r).freeIdx = s.freeIdx := (rfl)
@[simp] theorem State.setCr_out (s : State) (f : Fn) (i : Nat) (r : CmdRing) : (s.setCr f i r).out = s.out := (rfl)
@[simp] theorem State.setCr_grade (s : State) (f : Fn) (i : Nat) (r : CmdRing) : (s.setCr f i r).grade = s.grade := (rfl)
@[simp] theorem State.setCr_age (s : State) (f : Fn) (i : Nat) (r : CmdRing) : (s.setCr f i r).age = s.age := (rfl)
@[simp] theorem State.setCr_minVersion (s : State) (f : Fn) (i : Nat) (r : CmdRing) : (s.setCr f i r).minVersion = s.minVersion := (rfl)
@[simp] theorem State.setCr_stepping (s : State) (f : Fn) (i : Nat) (r : CmdRing) : (s.setCr f i r).stepping = s.stepping := (rfl)
@[simp] theorem State.setCr_mem (s : State) (f : Fn) (i : Nat) (r : CmdRing) : (s.setCr f i r).mem = s.mem := (rfl)
@[simp] theorem State.setCr_acc (s : State) (f : Fn) (i : Nat) (r : CmdRing) : (s.setCr f i r).acc = s.acc := (rfl)
@[simp] theorem State.setCr_accBad (s : State) (f : Fn) (i : Nat) (r : CmdRing) : (s.setCr f i r).accBad = s.accBad := (rfl)
@[simp] theorem State.setCr_tiles (s : State) (f : Fn) (i : Nat) (r : CmdRing) : (s.setCr f i r).tiles = s.tiles := (rfl)
@[simp] theorem State.setCr_tables (s : State) (f : Fn) (i : Nat) (r : CmdRing) : (s.setCr f i r).tables = s.tables := (rfl)
@[simp] theorem State.setCr_xbar (s : State) (f : Fn) (i : Nat) (r : CmdRing) : (s.setCr f i r).xbar = s.xbar := (rfl)
@[simp] theorem State.setCr_ports (s : State) (f : Fn) (i : Nat) (r : CmdRing) : (s.setCr f i r).ports = s.ports := (rfl)
@[simp] theorem State.setCr_lnk (s : State) (f : Fn) (i : Nat) (r : CmdRing) : (s.setCr f i r).lnk = s.lnk := (rfl)
@[simp] theorem State.setCr_rcu (s : State) (f : Fn) (i : Nat) (r : CmdRing) : (s.setCr f i r).rcu = s.rcu := (rfl)
@[simp] theorem State.setCr_dck (s : State) (f : Fn) (i : Nat) (r : CmdRing) : (s.setCr f i r).dck = s.dck := (rfl)
@[simp] theorem State.setCr_svc (s : State) (f : Fn) (i : Nat) (r : CmdRing) : (s.setCr f i r).svc = s.svc := (rfl)
@[simp] theorem State.setCr_tly (s : State) (f : Fn) (i : Nat) (r : CmdRing) : (s.setCr f i r).tly = s.tly := (rfl)
@[simp] theorem State.setCr_pwr (s : State) (f : Fn) (i : Nat) (r : CmdRing) : (s.setCr f i r).pwr = s.pwr := (rfl)
@[simp] theorem State.setCr_mgc (s : State) (f : Fn) (i : Nat) (r : CmdRing) : (s.setCr f i r).mgc = s.mgc := (rfl)
@[simp] theorem State.tile_setCr (s : State) (f : Fn) (i : Nat) (r : CmdRing) (q : Nat) : (s.setCr f i r).tile q = s.tile q := (rfl)
@[simp] theorem State.table_setCr (s : State) (f : Fn) (i : Nat) (r : CmdRing) (q : Nat) : (s.setCr f i r).table q = s.table q := (rfl)
@[simp] theorem State.port_setCr (s : State) (f : Fn) (i : Nat) (r : CmdRing) (q : Nat) : (s.setCr f i r).port q = s.port q := (rfl)
@[simp] theorem State.queue_setCr (s : State) (f : Fn) (i : Nat) (r : CmdRing) (q : Nat) : (s.setCr f i r).queue q = s.queue q := (rfl)
@[simp] theorem State.readByte_setCr (s : State) (f : Fn) (i : Nat) (r : CmdRing) (q o : Nat) : (s.setCr f i r).readByte q o = s.readByte q o := (rfl)
@[simp] theorem State.now_setCr (s : State) (f : Fn) (i : Nat) (r : CmdRing) : (s.setCr f i r).now = s.now := (rfl)

/-! ### setRr -/

@[simp] theorem State.setRr_pending (s : State) (f : Fn) (i : Nat) (r : RecRing) : (s.setRr f i r).pending = s.pending := (rfl)
@[simp] theorem State.setRr_freeIdx (s : State) (f : Fn) (i : Nat) (r : RecRing) : (s.setRr f i r).freeIdx = s.freeIdx := (rfl)
@[simp] theorem State.setRr_out (s : State) (f : Fn) (i : Nat) (r : RecRing) : (s.setRr f i r).out = s.out := (rfl)
@[simp] theorem State.setRr_grade (s : State) (f : Fn) (i : Nat) (r : RecRing) : (s.setRr f i r).grade = s.grade := (rfl)
@[simp] theorem State.setRr_age (s : State) (f : Fn) (i : Nat) (r : RecRing) : (s.setRr f i r).age = s.age := (rfl)
@[simp] theorem State.setRr_minVersion (s : State) (f : Fn) (i : Nat) (r : RecRing) : (s.setRr f i r).minVersion = s.minVersion := (rfl)
@[simp] theorem State.setRr_stepping (s : State) (f : Fn) (i : Nat) (r : RecRing) : (s.setRr f i r).stepping = s.stepping := (rfl)
@[simp] theorem State.setRr_mem (s : State) (f : Fn) (i : Nat) (r : RecRing) : (s.setRr f i r).mem = s.mem := (rfl)
@[simp] theorem State.setRr_acc (s : State) (f : Fn) (i : Nat) (r : RecRing) : (s.setRr f i r).acc = s.acc := (rfl)
@[simp] theorem State.setRr_accBad (s : State) (f : Fn) (i : Nat) (r : RecRing) : (s.setRr f i r).accBad = s.accBad := (rfl)
@[simp] theorem State.setRr_tiles (s : State) (f : Fn) (i : Nat) (r : RecRing) : (s.setRr f i r).tiles = s.tiles := (rfl)
@[simp] theorem State.setRr_tables (s : State) (f : Fn) (i : Nat) (r : RecRing) : (s.setRr f i r).tables = s.tables := (rfl)
@[simp] theorem State.setRr_xbar (s : State) (f : Fn) (i : Nat) (r : RecRing) : (s.setRr f i r).xbar = s.xbar := (rfl)
@[simp] theorem State.setRr_ports (s : State) (f : Fn) (i : Nat) (r : RecRing) : (s.setRr f i r).ports = s.ports := (rfl)
@[simp] theorem State.setRr_lnk (s : State) (f : Fn) (i : Nat) (r : RecRing) : (s.setRr f i r).lnk = s.lnk := (rfl)
@[simp] theorem State.setRr_rcu (s : State) (f : Fn) (i : Nat) (r : RecRing) : (s.setRr f i r).rcu = s.rcu := (rfl)
@[simp] theorem State.setRr_dck (s : State) (f : Fn) (i : Nat) (r : RecRing) : (s.setRr f i r).dck = s.dck := (rfl)
@[simp] theorem State.setRr_svc (s : State) (f : Fn) (i : Nat) (r : RecRing) : (s.setRr f i r).svc = s.svc := (rfl)
@[simp] theorem State.setRr_tly (s : State) (f : Fn) (i : Nat) (r : RecRing) : (s.setRr f i r).tly = s.tly := (rfl)
@[simp] theorem State.setRr_pwr (s : State) (f : Fn) (i : Nat) (r : RecRing) : (s.setRr f i r).pwr = s.pwr := (rfl)
@[simp] theorem State.setRr_mgc (s : State) (f : Fn) (i : Nat) (r : RecRing) : (s.setRr f i r).mgc = s.mgc := (rfl)
@[simp] theorem State.tile_setRr (s : State) (f : Fn) (i : Nat) (r : RecRing) (q : Nat) : (s.setRr f i r).tile q = s.tile q := (rfl)
@[simp] theorem State.table_setRr (s : State) (f : Fn) (i : Nat) (r : RecRing) (q : Nat) : (s.setRr f i r).table q = s.table q := (rfl)
@[simp] theorem State.port_setRr (s : State) (f : Fn) (i : Nat) (r : RecRing) (q : Nat) : (s.setRr f i r).port q = s.port q := (rfl)
@[simp] theorem State.queue_setRr (s : State) (f : Fn) (i : Nat) (r : RecRing) (q : Nat) : (s.setRr f i r).queue q = s.queue q := (rfl)
@[simp] theorem State.readByte_setRr (s : State) (f : Fn) (i : Nat) (r : RecRing) (q o : Nat) : (s.setRr f i r).readByte q o = s.readByte q o := (rfl)
@[simp] theorem State.now_setRr (s : State) (f : Fn) (i : Nat) (r : RecRing) : (s.setRr f i r).now = s.now := (rfl)

/-! ### modAcc -/

@[simp] theorem State.modAcc_pending (s : State) (i : Nat) (k : HostAcc → HostAcc) : (s.modAcc i k).pending = s.pending := (rfl)
@[simp] theorem State.modAcc_freeIdx (s : State) (i : Nat) (k : HostAcc → HostAcc) : (s.modAcc i k).freeIdx = s.freeIdx := (rfl)
@[simp] theorem State.modAcc_out (s : State) (i : Nat) (k : HostAcc → HostAcc) : (s.modAcc i k).out = s.out := (rfl)
@[simp] theorem State.modAcc_grade (s : State) (i : Nat) (k : HostAcc → HostAcc) : (s.modAcc i k).grade = s.grade := (rfl)
@[simp] theorem State.modAcc_age (s : State) (i : Nat) (k : HostAcc → HostAcc) : (s.modAcc i k).age = s.age := (rfl)
@[simp] theorem State.modAcc_minVersion (s : State) (i : Nat) (k : HostAcc → HostAcc) : (s.modAcc i k).minVersion = s.minVersion := (rfl)
@[simp] theorem State.modAcc_stepping (s : State) (i : Nat) (k : HostAcc → HostAcc) : (s.modAcc i k).stepping = s.stepping := (rfl)
@[simp] theorem State.modAcc_mem (s : State) (i : Nat) (k : HostAcc → HostAcc) : (s.modAcc i k).mem = s.mem := (rfl)
@[simp] theorem State.modAcc_acc (s : State) (i : Nat) (k : HostAcc → HostAcc) : (s.modAcc i k).acc = s.acc := (rfl)
@[simp] theorem State.modAcc_accBad (s : State) (i : Nat) (k : HostAcc → HostAcc) : (s.modAcc i k).accBad = s.accBad := (rfl)
@[simp] theorem State.modAcc_tiles (s : State) (i : Nat) (k : HostAcc → HostAcc) : (s.modAcc i k).tiles = s.tiles := (rfl)
@[simp] theorem State.modAcc_tables (s : State) (i : Nat) (k : HostAcc → HostAcc) : (s.modAcc i k).tables = s.tables := (rfl)
@[simp] theorem State.modAcc_xbar (s : State) (i : Nat) (k : HostAcc → HostAcc) : (s.modAcc i k).xbar = s.xbar := (rfl)
@[simp] theorem State.modAcc_ports (s : State) (i : Nat) (k : HostAcc → HostAcc) : (s.modAcc i k).ports = s.ports := (rfl)
@[simp] theorem State.modAcc_lnk (s : State) (i : Nat) (k : HostAcc → HostAcc) : (s.modAcc i k).lnk = s.lnk := (rfl)
@[simp] theorem State.modAcc_rcu (s : State) (i : Nat) (k : HostAcc → HostAcc) : (s.modAcc i k).rcu = s.rcu := (rfl)
@[simp] theorem State.modAcc_dck (s : State) (i : Nat) (k : HostAcc → HostAcc) : (s.modAcc i k).dck = s.dck := (rfl)
@[simp] theorem State.modAcc_svc (s : State) (i : Nat) (k : HostAcc → HostAcc) : (s.modAcc i k).svc = s.svc := (rfl)
@[simp] theorem State.modAcc_tly (s : State) (i : Nat) (k : HostAcc → HostAcc) : (s.modAcc i k).tly = s.tly := (rfl)
@[simp] theorem State.modAcc_pwr (s : State) (i : Nat) (k : HostAcc → HostAcc) : (s.modAcc i k).pwr = s.pwr := (rfl)
@[simp] theorem State.modAcc_mgc (s : State) (i : Nat) (k : HostAcc → HostAcc) : (s.modAcc i k).mgc = s.mgc := (rfl)
@[simp] theorem State.tile_modAcc (s : State) (i : Nat) (k : HostAcc → HostAcc) (q : Nat) : (s.modAcc i k).tile q = s.tile q := (rfl)
@[simp] theorem State.table_modAcc (s : State) (i : Nat) (k : HostAcc → HostAcc) (q : Nat) : (s.modAcc i k).table q = s.table q := (rfl)
@[simp] theorem State.port_modAcc (s : State) (i : Nat) (k : HostAcc → HostAcc) (q : Nat) : (s.modAcc i k).port q = s.port q := (rfl)
@[simp] theorem State.fn_modAcc (s : State) (i : Nat) (k : HostAcc → HostAcc) (g : Fn) : (s.modAcc i k).fn g = s.fn g := (rfl)
@[simp] theorem State.queue_modAcc (s : State) (i : Nat) (k : HostAcc → HostAcc) (q : Nat) : (s.modAcc i k).queue q = s.queue q := (rfl)
@[simp] theorem State.readByte_modAcc (s : State) (i : Nat) (k : HostAcc → HostAcc) (q o : Nat) : (s.modAcc i k).readByte q o = s.readByte q o := (rfl)
@[simp] theorem State.now_modAcc (s : State) (i : Nat) (k : HostAcc → HostAcc) : (s.modAcc i k).now = s.now := (rfl)

/-! ### setQueue -/

@[simp] theorem State.setQueue_pending (s : State) (i : Nat) (x : SrcQ) : (s.setQueue i x).pending = s.pending := (rfl)
@[simp] theorem State.setQueue_freeIdx (s : State) (i : Nat) (x : SrcQ) : (s.setQueue i x).freeIdx = s.freeIdx := (rfl)
@[simp] theorem State.setQueue_out (s : State) (i : Nat) (x : SrcQ) : (s.setQueue i x).out = s.out := (rfl)
@[simp] theorem State.setQueue_grade (s : State) (i : Nat) (x : SrcQ) : (s.setQueue i x).grade = s.grade := (rfl)
@[simp] theorem State.setQueue_age (s : State) (i : Nat) (x : SrcQ) : (s.setQueue i x).age = s.age := (rfl)
@[simp] theorem State.setQueue_minVersion (s : State) (i : Nat) (x : SrcQ) : (s.setQueue i x).minVersion = s.minVersion := (rfl)
@[simp] theorem State.setQueue_stepping (s : State) (i : Nat) (x : SrcQ) : (s.setQueue i x).stepping = s.stepping := (rfl)
@[simp] theorem State.setQueue_mem (s : State) (i : Nat) (x : SrcQ) : (s.setQueue i x).mem = s.mem := (rfl)
@[simp] theorem State.setQueue_acc (s : State) (i : Nat) (x : SrcQ) : (s.setQueue i x).acc = s.acc := (rfl)
@[simp] theorem State.setQueue_accBad (s : State) (i : Nat) (x : SrcQ) : (s.setQueue i x).accBad = s.accBad := (rfl)
@[simp] theorem State.setQueue_tiles (s : State) (i : Nat) (x : SrcQ) : (s.setQueue i x).tiles = s.tiles := (rfl)
@[simp] theorem State.setQueue_tables (s : State) (i : Nat) (x : SrcQ) : (s.setQueue i x).tables = s.tables := (rfl)
@[simp] theorem State.setQueue_xbar (s : State) (i : Nat) (x : SrcQ) : (s.setQueue i x).xbar = s.xbar := (rfl)
@[simp] theorem State.setQueue_ports (s : State) (i : Nat) (x : SrcQ) : (s.setQueue i x).ports = s.ports := (rfl)
@[simp] theorem State.setQueue_lnk (s : State) (i : Nat) (x : SrcQ) : (s.setQueue i x).lnk = s.lnk := (rfl)
@[simp] theorem State.setQueue_rcu (s : State) (i : Nat) (x : SrcQ) : (s.setQueue i x).rcu = s.rcu := (rfl)
@[simp] theorem State.setQueue_dck (s : State) (i : Nat) (x : SrcQ) : (s.setQueue i x).dck = s.dck := (rfl)
@[simp] theorem State.setQueue_hif (s : State) (i : Nat) (x : SrcQ) : (s.setQueue i x).hif = { s.hif with queues := Map.set {} s.hif.queues i x } := (rfl)
@[simp] theorem State.setQueue_svc (s : State) (i : Nat) (x : SrcQ) : (s.setQueue i x).svc = s.svc := (rfl)
@[simp] theorem State.setQueue_tly (s : State) (i : Nat) (x : SrcQ) : (s.setQueue i x).tly = s.tly := (rfl)
@[simp] theorem State.setQueue_pwr (s : State) (i : Nat) (x : SrcQ) : (s.setQueue i x).pwr = s.pwr := (rfl)
@[simp] theorem State.setQueue_mgc (s : State) (i : Nat) (x : SrcQ) : (s.setQueue i x).mgc = s.mgc := (rfl)
@[simp] theorem State.tile_setQueue (s : State) (i : Nat) (x : SrcQ) (q : Nat) : (s.setQueue i x).tile q = s.tile q := (rfl)
@[simp] theorem State.table_setQueue (s : State) (i : Nat) (x : SrcQ) (q : Nat) : (s.setQueue i x).table q = s.table q := (rfl)
@[simp] theorem State.port_setQueue (s : State) (i : Nat) (x : SrcQ) (q : Nat) : (s.setQueue i x).port q = s.port q := (rfl)
@[simp] theorem State.fn_setQueue (s : State) (i : Nat) (x : SrcQ) (g : Fn) : (s.setQueue i x).fn g = s.fn g := (rfl)
@[simp] theorem State.readByte_setQueue (s : State) (i : Nat) (x : SrcQ) (q o : Nat) : (s.setQueue i x).readByte q o = s.readByte q o := (rfl)
@[simp] theorem State.now_setQueue (s : State) (i : Nat) (x : SrcQ) : (s.setQueue i x).now = s.now := (rfl)

/-! ### emit -/

@[simp] theorem State.emit_pending (s : State) (o' : Out) : (s.emit o').pending = s.pending := (rfl)
@[simp] theorem State.emit_freeIdx (s : State) (o' : Out) : (s.emit o').freeIdx = s.freeIdx := (rfl)
@[simp] theorem State.emit_out (s : State) (o' : Out) : (s.emit o').out = s.out ++ [o'] := (rfl)
@[simp] theorem State.emit_grade (s : State) (o' : Out) : (s.emit o').grade = s.grade := (rfl)
@[simp] theorem State.emit_age (s : State) (o' : Out) : (s.emit o').age = s.age := (rfl)
@[simp] theorem State.emit_minVersion (s : State) (o' : Out) : (s.emit o').minVersion = s.minVersion := (rfl)
@[simp] theorem State.emit_stepping (s : State) (o' : Out) : (s.emit o').stepping = s.stepping := (rfl)
@[simp] theorem State.emit_mem (s : State) (o' : Out) : (s.emit o').mem = s.mem := (rfl)
@[simp] theorem State.emit_acc (s : State) (o' : Out) : (s.emit o').acc = s.acc := (rfl)
@[simp] theorem State.emit_accBad (s : State) (o' : Out) : (s.emit o').accBad = s.accBad := (rfl)
@[simp] theorem State.emit_tiles (s : State) (o' : Out) : (s.emit o').tiles = s.tiles := (rfl)
@[simp] theorem State.emit_tables (s : State) (o' : Out) : (s.emit o').tables = s.tables := (rfl)
@[simp] theorem State.emit_xbar (s : State) (o' : Out) : (s.emit o').xbar = s.xbar := (rfl)
@[simp] theorem State.emit_ports (s : State) (o' : Out) : (s.emit o').ports = s.ports := (rfl)
@[simp] theorem State.emit_lnk (s : State) (o' : Out) : (s.emit o').lnk = s.lnk := (rfl)
@[simp] theorem State.emit_rcu (s : State) (o' : Out) : (s.emit o').rcu = s.rcu := (rfl)
@[simp] theorem State.emit_dck (s : State) (o' : Out) : (s.emit o').dck = s.dck := (rfl)
@[simp] theorem State.emit_hif (s : State) (o' : Out) : (s.emit o').hif = s.hif := (rfl)
@[simp] theorem State.emit_svc (s : State) (o' : Out) : (s.emit o').svc = s.svc := (rfl)
@[simp] theorem State.emit_tly (s : State) (o' : Out) : (s.emit o').tly = s.tly := (rfl)
@[simp] theorem State.emit_pwr (s : State) (o' : Out) : (s.emit o').pwr = s.pwr := (rfl)
@[simp] theorem State.emit_mgc (s : State) (o' : Out) : (s.emit o').mgc = s.mgc := (rfl)
@[simp] theorem State.tile_emit (s : State) (o' : Out) (q : Nat) : (s.emit o').tile q = s.tile q := (rfl)
@[simp] theorem State.table_emit (s : State) (o' : Out) (q : Nat) : (s.emit o').table q = s.table q := (rfl)
@[simp] theorem State.port_emit (s : State) (o' : Out) (q : Nat) : (s.emit o').port q = s.port q := (rfl)
@[simp] theorem State.fn_emit (s : State) (o' : Out) (g : Fn) : (s.emit o').fn g = s.fn g := (rfl)
@[simp] theorem State.queue_emit (s : State) (o' : Out) (q : Nat) : (s.emit o').queue q = s.queue q := (rfl)
@[simp] theorem State.readByte_emit (s : State) (o' : Out) (q o : Nat) : (s.emit o').readByte q o = s.readByte q o := (rfl)
@[simp] theorem State.now_emit (s : State) (o' : Out) : (s.emit o').now = s.now := (rfl)

/-! ### pokeBytes -/

@[simp] theorem State.pokeBytes_pending (s : State) (p off : Nat) (l : List Byte) : (s.pokeBytes p off l).pending = s.pending := (rfl)
@[simp] theorem State.pokeBytes_freeIdx (s : State) (p off : Nat) (l : List Byte) : (s.pokeBytes p off l).freeIdx = s.freeIdx := (rfl)
@[simp] theorem State.pokeBytes_out (s : State) (p off : Nat) (l : List Byte) : (s.pokeBytes p off l).out = s.out := (rfl)
@[simp] theorem State.pokeBytes_grade (s : State) (p off : Nat) (l : List Byte) : (s.pokeBytes p off l).grade = s.grade := (rfl)
@[simp] theorem State.pokeBytes_age (s : State) (p off : Nat) (l : List Byte) : (s.pokeBytes p off l).age = s.age := (rfl)
@[simp] theorem State.pokeBytes_minVersion (s : State) (p off : Nat) (l : List Byte) : (s.pokeBytes p off l).minVersion = s.minVersion := (rfl)
@[simp] theorem State.pokeBytes_stepping (s : State) (p off : Nat) (l : List Byte) : (s.pokeBytes p off l).stepping = s.stepping := (rfl)
@[simp] theorem State.pokeBytes_acc (s : State) (p off : Nat) (l : List Byte) : (s.pokeBytes p off l).acc = s.acc := (rfl)
@[simp] theorem State.pokeBytes_accBad (s : State) (p off : Nat) (l : List Byte) : (s.pokeBytes p off l).accBad = s.accBad := (rfl)
@[simp] theorem State.pokeBytes_tiles (s : State) (p off : Nat) (l : List Byte) : (s.pokeBytes p off l).tiles = s.tiles := (rfl)
@[simp] theorem State.pokeBytes_tables (s : State) (p off : Nat) (l : List Byte) : (s.pokeBytes p off l).tables = s.tables := (rfl)
@[simp] theorem State.pokeBytes_xbar (s : State) (p off : Nat) (l : List Byte) : (s.pokeBytes p off l).xbar = s.xbar := (rfl)
@[simp] theorem State.pokeBytes_ports (s : State) (p off : Nat) (l : List Byte) : (s.pokeBytes p off l).ports = s.ports := (rfl)
@[simp] theorem State.pokeBytes_lnk (s : State) (p off : Nat) (l : List Byte) : (s.pokeBytes p off l).lnk = s.lnk := (rfl)
@[simp] theorem State.pokeBytes_rcu (s : State) (p off : Nat) (l : List Byte) : (s.pokeBytes p off l).rcu = s.rcu := (rfl)
@[simp] theorem State.pokeBytes_dck (s : State) (p off : Nat) (l : List Byte) : (s.pokeBytes p off l).dck = s.dck := (rfl)
@[simp] theorem State.pokeBytes_hif (s : State) (p off : Nat) (l : List Byte) : (s.pokeBytes p off l).hif = s.hif := (rfl)
@[simp] theorem State.pokeBytes_svc (s : State) (p off : Nat) (l : List Byte) : (s.pokeBytes p off l).svc = s.svc := (rfl)
@[simp] theorem State.pokeBytes_tly (s : State) (p off : Nat) (l : List Byte) : (s.pokeBytes p off l).tly = s.tly := (rfl)
@[simp] theorem State.pokeBytes_pwr (s : State) (p off : Nat) (l : List Byte) : (s.pokeBytes p off l).pwr = s.pwr := (rfl)
@[simp] theorem State.pokeBytes_mgc (s : State) (p off : Nat) (l : List Byte) : (s.pokeBytes p off l).mgc = s.mgc := (rfl)
@[simp] theorem State.tile_pokeBytes (s : State) (p off : Nat) (l : List Byte) (q : Nat) : (s.pokeBytes p off l).tile q = s.tile q := (rfl)
@[simp] theorem State.table_pokeBytes (s : State) (p off : Nat) (l : List Byte) (q : Nat) : (s.pokeBytes p off l).table q = s.table q := (rfl)
@[simp] theorem State.port_pokeBytes (s : State) (p off : Nat) (l : List Byte) (q : Nat) : (s.pokeBytes p off l).port q = s.port q := (rfl)
@[simp] theorem State.fn_pokeBytes (s : State) (p off : Nat) (l : List Byte) (g : Fn) : (s.pokeBytes p off l).fn g = s.fn g := (rfl)
@[simp] theorem State.queue_pokeBytes (s : State) (p off : Nat) (l : List Byte) (q : Nat) : (s.pokeBytes p off l).queue q = s.queue q := (rfl)
@[simp] theorem State.now_pokeBytes (s : State) (p off : Nat) (l : List Byte) : (s.pokeBytes p off l).now = s.now := (rfl)

/-! ### setHalf -/

@[simp] theorem State.setHalf_pending (s : State) (p h : Nat) (v : Bool) : (s.setHalf p h v).pending = s.pending := (rfl)
@[simp] theorem State.setHalf_freeIdx (s : State) (p h : Nat) (v : Bool) : (s.setHalf p h v).freeIdx = s.freeIdx := (rfl)
@[simp] theorem State.setHalf_out (s : State) (p h : Nat) (v : Bool) : (s.setHalf p h v).out = s.out := (rfl)
@[simp] theorem State.setHalf_grade (s : State) (p h : Nat) (v : Bool) : (s.setHalf p h v).grade = s.grade := (rfl)
@[simp] theorem State.setHalf_age (s : State) (p h : Nat) (v : Bool) : (s.setHalf p h v).age = s.age := (rfl)
@[simp] theorem State.setHalf_minVersion (s : State) (p h : Nat) (v : Bool) : (s.setHalf p h v).minVersion = s.minVersion := (rfl)
@[simp] theorem State.setHalf_stepping (s : State) (p h : Nat) (v : Bool) : (s.setHalf p h v).stepping = s.stepping := (rfl)
@[simp] theorem State.setHalf_mem (s : State) (p h : Nat) (v : Bool) : (s.setHalf p h v).mem = s.mem := (rfl)
@[simp] theorem State.setHalf_acc (s : State) (p h : Nat) (v : Bool) : (s.setHalf p h v).acc = s.acc := (rfl)
@[simp] theorem State.setHalf_accBad (s : State) (p h : Nat) (v : Bool) : (s.setHalf p h v).accBad =
    match s.mirrorOf p with
    | some q => Map.set false (Map.set false s.accBad (p * 2048 + h) (!v)) (q * 2048 + h) (!v)
    | none => Map.set false s.accBad (p * 2048 + h) (!v) := (rfl)
@[simp] theorem State.setHalf_tiles (s : State) (p h : Nat) (v : Bool) : (s.setHalf p h v).tiles = s.tiles := (rfl)
@[simp] theorem State.setHalf_tables (s : State) (p h : Nat) (v : Bool) : (s.setHalf p h v).tables = s.tables := (rfl)
@[simp] theorem State.setHalf_xbar (s : State) (p h : Nat) (v : Bool) : (s.setHalf p h v).xbar = s.xbar := (rfl)
@[simp] theorem State.setHalf_ports (s : State) (p h : Nat) (v : Bool) : (s.setHalf p h v).ports = s.ports := (rfl)
@[simp] theorem State.setHalf_lnk (s : State) (p h : Nat) (v : Bool) : (s.setHalf p h v).lnk = s.lnk := (rfl)
@[simp] theorem State.setHalf_rcu (s : State) (p h : Nat) (v : Bool) : (s.setHalf p h v).rcu = s.rcu := (rfl)
@[simp] theorem State.setHalf_dck (s : State) (p h : Nat) (v : Bool) : (s.setHalf p h v).dck = s.dck := (rfl)
@[simp] theorem State.setHalf_hif (s : State) (p h : Nat) (v : Bool) : (s.setHalf p h v).hif = s.hif := (rfl)
@[simp] theorem State.setHalf_svc (s : State) (p h : Nat) (v : Bool) : (s.setHalf p h v).svc = s.svc := (rfl)
@[simp] theorem State.setHalf_tly (s : State) (p h : Nat) (v : Bool) : (s.setHalf p h v).tly = s.tly := (rfl)
@[simp] theorem State.setHalf_pwr (s : State) (p h : Nat) (v : Bool) : (s.setHalf p h v).pwr = s.pwr := (rfl)
@[simp] theorem State.setHalf_mgc (s : State) (p h : Nat) (v : Bool) : (s.setHalf p h v).mgc = s.mgc := (rfl)
@[simp] theorem State.tile_setHalf (s : State) (p h : Nat) (v : Bool) (q : Nat) : (s.setHalf p h v).tile q = s.tile q := (rfl)
@[simp] theorem State.table_setHalf (s : State) (p h : Nat) (v : Bool) (q : Nat) : (s.setHalf p h v).table q = s.table q := (rfl)
@[simp] theorem State.port_setHalf (s : State) (p h : Nat) (v : Bool) (q : Nat) : (s.setHalf p h v).port q = s.port q := (rfl)
@[simp] theorem State.fn_setHalf (s : State) (p h : Nat) (v : Bool) (g : Fn) : (s.setHalf p h v).fn g = s.fn g := (rfl)
@[simp] theorem State.queue_setHalf (s : State) (p h : Nat) (v : Bool) (q : Nat) : (s.setHalf p h v).queue q = s.queue q := (rfl)
@[simp] theorem State.readByte_setHalf (s : State) (p h : Nat) (v : Bool) (q o : Nat) : (s.setHalf p h v).readByte q o = s.readByte q o := (rfl)
@[simp] theorem State.now_setHalf (s : State) (p h : Nat) (v : Bool) : (s.setHalf p h v).now = s.now := (rfl)

/-! ### raise -/

@[simp] theorem State.raise_pending (s : State) (src kind status tag detail : Nat) : (s.raise src kind status tag detail).pending = s.pending := (rfl)
@[simp] theorem State.raise_freeIdx (s : State) (src kind status tag detail : Nat) : (s.raise src kind status tag detail).freeIdx = s.freeIdx := (rfl)
@[simp] theorem State.raise_out (s : State) (src kind status tag detail : Nat) : (s.raise src kind status tag detail).out = s.out := (rfl)
@[simp] theorem State.raise_grade (s : State) (src kind status tag detail : Nat) : (s.raise src kind status tag detail).grade = s.grade := (rfl)
@[simp] theorem State.raise_age (s : State) (src kind status tag detail : Nat) : (s.raise src kind status tag detail).age = s.age := (rfl)
@[simp] theorem State.raise_minVersion (s : State) (src kind status tag detail : Nat) : (s.raise src kind status tag detail).minVersion = s.minVersion := (rfl)
@[simp] theorem State.raise_stepping (s : State) (src kind status tag detail : Nat) : (s.raise src kind status tag detail).stepping = s.stepping := (rfl)
@[simp] theorem State.raise_mem (s : State) (src kind status tag detail : Nat) : (s.raise src kind status tag detail).mem = s.mem := (rfl)
@[simp] theorem State.raise_acc (s : State) (src kind status tag detail : Nat) : (s.raise src kind status tag detail).acc = s.acc := (rfl)
@[simp] theorem State.raise_accBad (s : State) (src kind status tag detail : Nat) : (s.raise src kind status tag detail).accBad = s.accBad := (rfl)
@[simp] theorem State.raise_tiles (s : State) (src kind status tag detail : Nat) : (s.raise src kind status tag detail).tiles = s.tiles := (rfl)
@[simp] theorem State.raise_tables (s : State) (src kind status tag detail : Nat) : (s.raise src kind status tag detail).tables = s.tables := (rfl)
@[simp] theorem State.raise_xbar (s : State) (src kind status tag detail : Nat) : (s.raise src kind status tag detail).xbar = s.xbar := (rfl)
@[simp] theorem State.raise_ports (s : State) (src kind status tag detail : Nat) : (s.raise src kind status tag detail).ports = s.ports := (rfl)
@[simp] theorem State.raise_lnk (s : State) (src kind status tag detail : Nat) : (s.raise src kind status tag detail).lnk = s.lnk := (rfl)
@[simp] theorem State.raise_rcu (s : State) (src kind status tag detail : Nat) : (s.raise src kind status tag detail).rcu = s.rcu := (rfl)
@[simp] theorem State.raise_dck (s : State) (src kind status tag detail : Nat) : (s.raise src kind status tag detail).dck = s.dck := (rfl)
@[simp] theorem State.raise_svc (s : State) (src kind status tag detail : Nat) : (s.raise src kind status tag detail).svc = s.svc := (rfl)
@[simp] theorem State.raise_tly (s : State) (src kind status tag detail : Nat) : (s.raise src kind status tag detail).tly = s.tly := (rfl)
@[simp] theorem State.raise_pwr (s : State) (src kind status tag detail : Nat) : (s.raise src kind status tag detail).pwr = s.pwr := (rfl)
@[simp] theorem State.tile_raise (s : State) (src kind status tag detail : Nat) (q : Nat) : (s.raise src kind status tag detail).tile q = s.tile q := (rfl)
@[simp] theorem State.table_raise (s : State) (src kind status tag detail : Nat) (q : Nat) : (s.raise src kind status tag detail).table q = s.table q := (rfl)
@[simp] theorem State.port_raise (s : State) (src kind status tag detail : Nat) (q : Nat) : (s.raise src kind status tag detail).port q = s.port q := (rfl)
@[simp] theorem State.fn_raise (s : State) (src kind status tag detail : Nat) (g : Fn) : (s.raise src kind status tag detail).fn g = s.fn g := (rfl)
@[simp] theorem State.readByte_raise (s : State) (src kind status tag detail : Nat) (q o : Nat) : (s.raise src kind status tag detail).readByte q o = s.readByte q o := (rfl)
@[simp] theorem State.now_raise (s : State) (src kind status tag detail : Nat) : (s.raise src kind status tag detail).now = s.now := (rfl)

/-! ### raiseMgc -/

@[simp] theorem State.raiseMgc_pending (s : State) (c d : Nat) : (s.raiseMgc c d).pending = s.pending := State.raise_pending _ _ _ _ _ _
@[simp] theorem State.raiseMgc_freeIdx (s : State) (c d : Nat) : (s.raiseMgc c d).freeIdx = s.freeIdx := State.raise_freeIdx _ _ _ _ _ _
@[simp] theorem State.raiseMgc_out (s : State) (c d : Nat) : (s.raiseMgc c d).out = s.out := State.raise_out _ _ _ _ _ _
@[simp] theorem State.raiseMgc_grade (s : State) (c d : Nat) : (s.raiseMgc c d).grade = s.grade := State.raise_grade _ _ _ _ _ _
@[simp] theorem State.raiseMgc_age (s : State) (c d : Nat) : (s.raiseMgc c d).age = s.age := State.raise_age _ _ _ _ _ _
@[simp] theorem State.raiseMgc_minVersion (s : State) (c d : Nat) : (s.raiseMgc c d).minVersion = s.minVersion := State.raise_minVersion _ _ _ _ _ _
@[simp] theorem State.raiseMgc_stepping (s : State) (c d : Nat) : (s.raiseMgc c d).stepping = s.stepping := State.raise_stepping _ _ _ _ _ _
@[simp] theorem State.raiseMgc_mem (s : State) (c d : Nat) : (s.raiseMgc c d).mem = s.mem := State.raise_mem _ _ _ _ _ _
@[simp] theorem State.raiseMgc_acc (s : State) (c d : Nat) : (s.raiseMgc c d).acc = s.acc := State.raise_acc _ _ _ _ _ _
@[simp] theorem State.raiseMgc_accBad (s : State) (c d : Nat) : (s.raiseMgc c d).accBad = s.accBad := State.raise_accBad _ _ _ _ _ _
@[simp] theorem State.raiseMgc_tiles (s : State) (c d : Nat) : (s.raiseMgc c d).tiles = s.tiles := State.raise_tiles _ _ _ _ _ _
@[simp] theorem State.raiseMgc_tables (s : State) (c d : Nat) : (s.raiseMgc c d).tables = s.tables := State.raise_tables _ _ _ _ _ _
@[simp] theorem State.raiseMgc_xbar (s : State) (c d : Nat) : (s.raiseMgc c d).xbar = s.xbar := State.raise_xbar _ _ _ _ _ _
@[simp] theorem State.raiseMgc_ports (s : State) (c d : Nat) : (s.raiseMgc c d).ports = s.ports := State.raise_ports _ _ _ _ _ _
@[simp] theorem State.raiseMgc_lnk (s : State) (c d : Nat) : (s.raiseMgc c d).lnk = s.lnk := State.raise_lnk _ _ _ _ _ _
@[simp] theorem State.raiseMgc_rcu (s : State) (c d : Nat) : (s.raiseMgc c d).rcu = s.rcu := State.raise_rcu _ _ _ _ _ _
@[simp] theorem State.raiseMgc_dck (s : State) (c d : Nat) : (s.raiseMgc c d).dck = s.dck := State.raise_dck _ _ _ _ _ _
@[simp] theorem State.raiseMgc_svc (s : State) (c d : Nat) : (s.raiseMgc c d).svc = s.svc := State.raise_svc _ _ _ _ _ _
@[simp] theorem State.raiseMgc_tly (s : State) (c d : Nat) : (s.raiseMgc c d).tly = s.tly := State.raise_tly _ _ _ _ _ _
@[simp] theorem State.raiseMgc_pwr (s : State) (c d : Nat) : (s.raiseMgc c d).pwr = s.pwr := State.raise_pwr _ _ _ _ _ _
@[simp] theorem State.tile_raiseMgc (s : State) (c d : Nat) (q : Nat) : (s.raiseMgc c d).tile q = s.tile q := State.tile_raise _ _ _ _ _ _ _
@[simp] theorem State.table_raiseMgc (s : State) (c d : Nat) (q : Nat) : (s.raiseMgc c d).table q = s.table q := State.table_raise _ _ _ _ _ _ _
@[simp] theorem State.port_raiseMgc (s : State) (c d : Nat) (q : Nat) : (s.raiseMgc c d).port q = s.port q := State.port_raise _ _ _ _ _ _ _
@[simp] theorem State.fn_raiseMgc (s : State) (c d : Nat) (g : Fn) : (s.raiseMgc c d).fn g = s.fn g := State.fn_raise _ _ _ _ _ _ _
@[simp] theorem State.readByte_raiseMgc (s : State) (c d : Nat) (q o : Nat) : (s.raiseMgc c d).readByte q o = s.readByte q o := State.readByte_raise _ _ _ _ _ _ _ _
@[simp] theorem State.now_raiseMgc (s : State) (c d : Nat) : (s.raiseMgc c d).now = s.now := State.now_raise _ _ _ _ _ _

/-! ### noticeMgc -/

@[simp] theorem State.noticeMgc_pending (s : State) (c d : Nat) : (s.noticeMgc c d).pending = s.pending := State.raise_pending _ _ _ _ _ _
@[simp] theorem State.noticeMgc_freeIdx (s : State) (c d : Nat) : (s.noticeMgc c d).freeIdx = s.freeIdx := State.raise_freeIdx _ _ _ _ _ _
@[simp] theorem State.noticeMgc_out (s : State) (c d : Nat) : (s.noticeMgc c d).out = s.out := State.raise_out _ _ _ _ _ _
@[simp] theorem State.noticeMgc_grade (s : State) (c d : Nat) : (s.noticeMgc c d).grade = s.grade := State.raise_grade _ _ _ _ _ _
@[simp] theorem State.noticeMgc_age (s : State) (c d : Nat) : (s.noticeMgc c d).age = s.age := State.raise_age _ _ _ _ _ _
@[simp] theorem State.noticeMgc_minVersion (s : State) (c d : Nat) : (s.noticeMgc c d).minVersion = s.minVersion := State.raise_minVersion _ _ _ _ _ _
@[simp] theorem State.noticeMgc_stepping (s : State) (c d : Nat) : (s.noticeMgc c d).stepping = s.stepping := State.raise_stepping _ _ _ _ _ _
@[simp] theorem State.noticeMgc_mem (s : State) (c d : Nat) : (s.noticeMgc c d).mem = s.mem := State.raise_mem _ _ _ _ _ _
@[simp] theorem State.noticeMgc_acc (s : State) (c d : Nat) : (s.noticeMgc c d).acc = s.acc := State.raise_acc _ _ _ _ _ _
@[simp] theorem State.noticeMgc_accBad (s : State) (c d : Nat) : (s.noticeMgc c d).accBad = s.accBad := State.raise_accBad _ _ _ _ _ _
@[simp] theorem State.noticeMgc_tiles (s : State) (c d : Nat) : (s.noticeMgc c d).tiles = s.tiles := State.raise_tiles _ _ _ _ _ _
@[simp] theorem State.noticeMgc_tables (s : State) (c d : Nat) : (s.noticeMgc c d).tables = s.tables := State.raise_tables _ _ _ _ _ _
@[simp] theorem State.noticeMgc_xbar (s : State) (c d : Nat) : (s.noticeMgc c d).xbar = s.xbar := State.raise_xbar _ _ _ _ _ _
@[simp] theorem State.noticeMgc_ports (s : State) (c d : Nat) : (s.noticeMgc c d).ports = s.ports := State.raise_ports _ _ _ _ _ _
@[simp] theorem State.noticeMgc_lnk (s : State) (c d : Nat) : (s.noticeMgc c d).lnk = s.lnk := State.raise_lnk _ _ _ _ _ _
@[simp] theorem State.noticeMgc_rcu (s : State) (c d : Nat) : (s.noticeMgc c d).rcu = s.rcu := State.raise_rcu _ _ _ _ _ _
@[simp] theorem State.noticeMgc_dck (s : State) (c d : Nat) : (s.noticeMgc c d).dck = s.dck := State.raise_dck _ _ _ _ _ _
@[simp] theorem State.noticeMgc_svc (s : State) (c d : Nat) : (s.noticeMgc c d).svc = s.svc := State.raise_svc _ _ _ _ _ _
@[simp] theorem State.noticeMgc_tly (s : State) (c d : Nat) : (s.noticeMgc c d).tly = s.tly := State.raise_tly _ _ _ _ _ _
@[simp] theorem State.noticeMgc_pwr (s : State) (c d : Nat) : (s.noticeMgc c d).pwr = s.pwr := State.raise_pwr _ _ _ _ _ _
@[simp] theorem State.tile_noticeMgc (s : State) (c d : Nat) (q : Nat) : (s.noticeMgc c d).tile q = s.tile q := State.tile_raise _ _ _ _ _ _ _
@[simp] theorem State.table_noticeMgc (s : State) (c d : Nat) (q : Nat) : (s.noticeMgc c d).table q = s.table q := State.table_raise _ _ _ _ _ _ _
@[simp] theorem State.port_noticeMgc (s : State) (c d : Nat) (q : Nat) : (s.noticeMgc c d).port q = s.port q := State.port_raise _ _ _ _ _ _ _
@[simp] theorem State.fn_noticeMgc (s : State) (c d : Nat) (g : Fn) : (s.noticeMgc c d).fn g = s.fn g := State.fn_raise _ _ _ _ _ _ _
@[simp] theorem State.readByte_noticeMgc (s : State) (c d : Nat) (q o : Nat) : (s.noticeMgc c d).readByte q o = s.readByte q o := State.readByte_raise _ _ _ _ _ _ _ _
@[simp] theorem State.now_noticeMgc (s : State) (c d : Nat) : (s.noticeMgc c d).now = s.now := State.now_raise _ _ _ _ _ _

/-! ### raisePort -/

@[simp] theorem State.raisePort_pending (s : State) (n c : Nat) : (s.raisePort n c).pending = s.pending := (State.raise_pending _ _ _ _ _ _).trans (State.modPort_pending _ _ _)
@[simp] theorem State.raisePort_freeIdx (s : State) (n c : Nat) : (s.raisePort n c).freeIdx = s.freeIdx := (State.raise_freeIdx _ _ _ _ _ _).trans (State.modPort_freeIdx _ _ _)
@[simp] theorem State.raisePort_out (s : State) (n c : Nat) : (s.raisePort n c).out = s.out := (State.raise_out _ _ _ _ _ _).trans (State.modPort_out _ _ _)
@[simp] theorem State.raisePort_grade (s : State) (n c : Nat) : (s.raisePort n c).grade = s.grade := (State.raise_grade _ _ _ _ _ _).trans (State.modPort_grade _ _ _)
@[simp] theorem State.raisePort_age (s : State) (n c : Nat) : (s.raisePort n c).age = s.age := (State.raise_age _ _ _ _ _ _).trans (State.modPort_age _ _ _)
@[simp] theorem State.raisePort_minVersion (s : State) (n c : Nat) : (s.raisePort n c).minVersion = s.minVersion := (State.raise_minVersion _ _ _ _ _ _).trans (State.modPort_minVersion _ _ _)
@[simp] theorem State.raisePort_stepping (s : State) (n c : Nat) : (s.raisePort n c).stepping = s.stepping := (State.raise_stepping _ _ _ _ _ _).trans (State.modPort_stepping _ _ _)
@[simp] theorem State.raisePort_mem (s : State) (n c : Nat) : (s.raisePort n c).mem = s.mem := (State.raise_mem _ _ _ _ _ _).trans (State.modPort_mem _ _ _)
@[simp] theorem State.raisePort_acc (s : State) (n c : Nat) : (s.raisePort n c).acc = s.acc := (State.raise_acc _ _ _ _ _ _).trans (State.modPort_acc _ _ _)
@[simp] theorem State.raisePort_accBad (s : State) (n c : Nat) : (s.raisePort n c).accBad = s.accBad := (State.raise_accBad _ _ _ _ _ _).trans (State.modPort_accBad _ _ _)
@[simp] theorem State.raisePort_tiles (s : State) (n c : Nat) : (s.raisePort n c).tiles = s.tiles := (State.raise_tiles _ _ _ _ _ _).trans (State.modPort_tiles _ _ _)
@[simp] theorem State.raisePort_tables (s : State) (n c : Nat) : (s.raisePort n c).tables = s.tables := (State.raise_tables _ _ _ _ _ _).trans (State.modPort_tables _ _ _)
@[simp] theorem State.raisePort_xbar (s : State) (n c : Nat) : (s.raisePort n c).xbar = s.xbar := (State.raise_xbar _ _ _ _ _ _).trans (State.modPort_xbar _ _ _)
@[simp] theorem State.raisePort_lnk (s : State) (n c : Nat) : (s.raisePort n c).lnk = s.lnk := (State.raise_lnk _ _ _ _ _ _).trans (State.modPort_lnk _ _ _)
@[simp] theorem State.raisePort_rcu (s : State) (n c : Nat) : (s.raisePort n c).rcu = s.rcu := (State.raise_rcu _ _ _ _ _ _).trans (State.modPort_rcu _ _ _)
@[simp] theorem State.raisePort_dck (s : State) (n c : Nat) : (s.raisePort n c).dck = s.dck := (State.raise_dck _ _ _ _ _ _).trans (State.modPort_dck _ _ _)
@[simp] theorem State.raisePort_svc (s : State) (n c : Nat) : (s.raisePort n c).svc = s.svc := (State.raise_svc _ _ _ _ _ _).trans (State.modPort_svc _ _ _)
@[simp] theorem State.raisePort_tly (s : State) (n c : Nat) : (s.raisePort n c).tly = s.tly := (State.raise_tly _ _ _ _ _ _).trans (State.modPort_tly _ _ _)
@[simp] theorem State.raisePort_pwr (s : State) (n c : Nat) : (s.raisePort n c).pwr = s.pwr := (State.raise_pwr _ _ _ _ _ _).trans (State.modPort_pwr _ _ _)
@[simp] theorem State.tile_raisePort (s : State) (n c : Nat) (q : Nat) : (s.raisePort n c).tile q = s.tile q := (State.tile_raise _ _ _ _ _ _ _).trans (State.tile_modPort _ _ _ _)
@[simp] theorem State.table_raisePort (s : State) (n c : Nat) (q : Nat) : (s.raisePort n c).table q = s.table q := (State.table_raise _ _ _ _ _ _ _).trans (State.table_modPort _ _ _ _)
@[simp] theorem State.fn_raisePort (s : State) (n c : Nat) (g : Fn) : (s.raisePort n c).fn g = s.fn g := (State.fn_raise _ _ _ _ _ _ _).trans (State.fn_modPort _ _ _ _)
@[simp] theorem State.readByte_raisePort (s : State) (n c : Nat) (q o : Nat) : (s.raisePort n c).readByte q o = s.readByte q o := (State.readByte_raise _ _ _ _ _ _ _ _).trans (State.readByte_modPort _ _ _ _ _)
@[simp] theorem State.now_raisePort (s : State) (n c : Nat) : (s.raisePort n c).now = s.now := (State.now_raise _ _ _ _ _ _).trans (State.now_modPort _ _ _)

/-! ### raiseTile -/

@[simp] theorem State.raiseTile_pending (s : State) (p b c d : Nat) : (s.raiseTile p b c d).pending = s.pending := State.raise_pending _ _ _ _ _ _
@[simp] theorem State.raiseTile_freeIdx (s : State) (p b c d : Nat) : (s.raiseTile p b c d).freeIdx = s.freeIdx := State.raise_freeIdx _ _ _ _ _ _
@[simp] theorem State.raiseTile_out (s : State) (p b c d : Nat) : (s.raiseTile p b c d).out = s.out := State.raise_out _ _ _ _ _ _
@[simp] theorem State.raiseTile_grade (s : State) (p b c d : Nat) : (s.raiseTile p b c d).grade = s.grade := State.raise_grade _ _ _ _ _ _
@[simp] theorem State.raiseTile_age (s : State) (p b c d : Nat) : (s.raiseTile p b c d).age = s.age := State.raise_age _ _ _ _ _ _
@[simp] theorem State.raiseTile_minVersion (s : State) (p b c d : Nat) : (s.raiseTile p b c d).minVersion = s.minVersion := State.raise_minVersion _ _ _ _ _ _
@[simp] theorem State.raiseTile_stepping (s : State) (p b c d : Nat) : (s.raiseTile p b c d).stepping = s.stepping := State.raise_stepping _ _ _ _ _ _
@[simp] theorem State.raiseTile_mem (s : State) (p b c d : Nat) : (s.raiseTile p b c d).mem = s.mem := State.raise_mem _ _ _ _ _ _
@[simp] theorem State.raiseTile_acc (s : State) (p b c d : Nat) : (s.raiseTile p b c d).acc = s.acc := State.raise_acc _ _ _ _ _ _
@[simp] theorem State.raiseTile_accBad (s : State) (p b c d : Nat) : (s.raiseTile p b c d).accBad = s.accBad := State.raise_accBad _ _ _ _ _ _
@[simp] theorem State.raiseTile_tiles (s : State) (p b c d : Nat) : (s.raiseTile p b c d).tiles = s.tiles := State.raise_tiles _ _ _ _ _ _
@[simp] theorem State.raiseTile_tables (s : State) (p b c d : Nat) : (s.raiseTile p b c d).tables = s.tables := State.raise_tables _ _ _ _ _ _
@[simp] theorem State.raiseTile_xbar (s : State) (p b c d : Nat) : (s.raiseTile p b c d).xbar = s.xbar := State.raise_xbar _ _ _ _ _ _
@[simp] theorem State.raiseTile_ports (s : State) (p b c d : Nat) : (s.raiseTile p b c d).ports = s.ports := State.raise_ports _ _ _ _ _ _
@[simp] theorem State.raiseTile_lnk (s : State) (p b c d : Nat) : (s.raiseTile p b c d).lnk = s.lnk := State.raise_lnk _ _ _ _ _ _
@[simp] theorem State.raiseTile_rcu (s : State) (p b c d : Nat) : (s.raiseTile p b c d).rcu = s.rcu := State.raise_rcu _ _ _ _ _ _
@[simp] theorem State.raiseTile_dck (s : State) (p b c d : Nat) : (s.raiseTile p b c d).dck = s.dck := State.raise_dck _ _ _ _ _ _
@[simp] theorem State.raiseTile_svc (s : State) (p b c d : Nat) : (s.raiseTile p b c d).svc = s.svc := State.raise_svc _ _ _ _ _ _
@[simp] theorem State.raiseTile_tly (s : State) (p b c d : Nat) : (s.raiseTile p b c d).tly = s.tly := State.raise_tly _ _ _ _ _ _
@[simp] theorem State.raiseTile_pwr (s : State) (p b c d : Nat) : (s.raiseTile p b c d).pwr = s.pwr := State.raise_pwr _ _ _ _ _ _
@[simp] theorem State.tile_raiseTile (s : State) (p b c d : Nat) (q : Nat) : (s.raiseTile p b c d).tile q = s.tile q := State.tile_raise _ _ _ _ _ _ _
@[simp] theorem State.table_raiseTile (s : State) (p b c d : Nat) (q : Nat) : (s.raiseTile p b c d).table q = s.table q := State.table_raise _ _ _ _ _ _ _
@[simp] theorem State.port_raiseTile (s : State) (p b c d : Nat) (q : Nat) : (s.raiseTile p b c d).port q = s.port q := State.port_raise _ _ _ _ _ _ _
@[simp] theorem State.fn_raiseTile (s : State) (p b c d : Nat) (g : Fn) : (s.raiseTile p b c d).fn g = s.fn g := State.fn_raise _ _ _ _ _ _ _
@[simp] theorem State.readByte_raiseTile (s : State) (p b c d : Nat) (q o : Nat) : (s.raiseTile p b c d).readByte q o = s.readByte q o := State.readByte_raise _ _ _ _ _ _ _ _
@[simp] theorem State.now_raiseTile (s : State) (p b c d : Nat) : (s.raiseTile p b c d).now = s.now := State.now_raise _ _ _ _ _ _

/-! ### raiseExt -/

@[simp] theorem State.raiseExt_pending (s : State) (p c d : Nat) : (s.raiseExt p c d).pending = s.pending := State.raise_pending _ _ _ _ _ _
@[simp] theorem State.raiseExt_freeIdx (s : State) (p c d : Nat) : (s.raiseExt p c d).freeIdx = s.freeIdx := State.raise_freeIdx _ _ _ _ _ _
@[simp] theorem State.raiseExt_out (s : State) (p c d : Nat) : (s.raiseExt p c d).out = s.out := State.raise_out _ _ _ _ _ _
@[simp] theorem State.raiseExt_grade (s : State) (p c d : Nat) : (s.raiseExt p c d).grade = s.grade := State.raise_grade _ _ _ _ _ _
@[simp] theorem State.raiseExt_age (s : State) (p c d : Nat) : (s.raiseExt p c d).age = s.age := State.raise_age _ _ _ _ _ _
@[simp] theorem State.raiseExt_minVersion (s : State) (p c d : Nat) : (s.raiseExt p c d).minVersion = s.minVersion := State.raise_minVersion _ _ _ _ _ _
@[simp] theorem State.raiseExt_stepping (s : State) (p c d : Nat) : (s.raiseExt p c d).stepping = s.stepping := State.raise_stepping _ _ _ _ _ _
@[simp] theorem State.raiseExt_mem (s : State) (p c d : Nat) : (s.raiseExt p c d).mem = s.mem := State.raise_mem _ _ _ _ _ _
@[simp] theorem State.raiseExt_acc (s : State) (p c d : Nat) : (s.raiseExt p c d).acc = s.acc := State.raise_acc _ _ _ _ _ _
@[simp] theorem State.raiseExt_accBad (s : State) (p c d : Nat) : (s.raiseExt p c d).accBad = s.accBad := State.raise_accBad _ _ _ _ _ _
@[simp] theorem State.raiseExt_tiles (s : State) (p c d : Nat) : (s.raiseExt p c d).tiles = s.tiles := State.raise_tiles _ _ _ _ _ _
@[simp] theorem State.raiseExt_tables (s : State) (p c d : Nat) : (s.raiseExt p c d).tables = s.tables := State.raise_tables _ _ _ _ _ _
@[simp] theorem State.raiseExt_xbar (s : State) (p c d : Nat) : (s.raiseExt p c d).xbar = s.xbar := State.raise_xbar _ _ _ _ _ _
@[simp] theorem State.raiseExt_ports (s : State) (p c d : Nat) : (s.raiseExt p c d).ports = s.ports := State.raise_ports _ _ _ _ _ _
@[simp] theorem State.raiseExt_lnk (s : State) (p c d : Nat) : (s.raiseExt p c d).lnk = s.lnk := State.raise_lnk _ _ _ _ _ _
@[simp] theorem State.raiseExt_rcu (s : State) (p c d : Nat) : (s.raiseExt p c d).rcu = s.rcu := State.raise_rcu _ _ _ _ _ _
@[simp] theorem State.raiseExt_dck (s : State) (p c d : Nat) : (s.raiseExt p c d).dck = s.dck := State.raise_dck _ _ _ _ _ _
@[simp] theorem State.raiseExt_svc (s : State) (p c d : Nat) : (s.raiseExt p c d).svc = s.svc := State.raise_svc _ _ _ _ _ _
@[simp] theorem State.raiseExt_tly (s : State) (p c d : Nat) : (s.raiseExt p c d).tly = s.tly := State.raise_tly _ _ _ _ _ _
@[simp] theorem State.raiseExt_pwr (s : State) (p c d : Nat) : (s.raiseExt p c d).pwr = s.pwr := State.raise_pwr _ _ _ _ _ _
@[simp] theorem State.tile_raiseExt (s : State) (p c d : Nat) (q : Nat) : (s.raiseExt p c d).tile q = s.tile q := State.tile_raise _ _ _ _ _ _ _
@[simp] theorem State.table_raiseExt (s : State) (p c d : Nat) (q : Nat) : (s.raiseExt p c d).table q = s.table q := State.table_raise _ _ _ _ _ _ _
@[simp] theorem State.port_raiseExt (s : State) (p c d : Nat) (q : Nat) : (s.raiseExt p c d).port q = s.port q := State.port_raise _ _ _ _ _ _ _
@[simp] theorem State.fn_raiseExt (s : State) (p c d : Nat) (g : Fn) : (s.raiseExt p c d).fn g = s.fn g := State.fn_raise _ _ _ _ _ _ _
@[simp] theorem State.readByte_raiseExt (s : State) (p c d : Nat) (q o : Nat) : (s.raiseExt p c d).readByte q o = s.readByte q o := State.readByte_raise _ _ _ _ _ _ _ _
@[simp] theorem State.now_raiseExt (s : State) (p c d : Nat) : (s.raiseExt p c d).now = s.now := State.now_raise _ _ _ _ _ _

/-! ### suspect -/

@[simp] theorem State.suspect_pending (s : State) (p : Nat) : (s.suspect p).pending = s.pending := (rfl)
@[simp] theorem State.suspect_freeIdx (s : State) (p : Nat) : (s.suspect p).freeIdx = s.freeIdx := (rfl)
@[simp] theorem State.suspect_out (s : State) (p : Nat) : (s.suspect p).out = s.out := (rfl)
@[simp] theorem State.suspect_grade (s : State) (p : Nat) : (s.suspect p).grade = s.grade := (rfl)
@[simp] theorem State.suspect_age (s : State) (p : Nat) : (s.suspect p).age = s.age := (rfl)
@[simp] theorem State.suspect_minVersion (s : State) (p : Nat) : (s.suspect p).minVersion = s.minVersion := (rfl)
@[simp] theorem State.suspect_stepping (s : State) (p : Nat) : (s.suspect p).stepping = s.stepping := (rfl)
@[simp] theorem State.suspect_mem (s : State) (p : Nat) : (s.suspect p).mem = s.mem := (rfl)
@[simp] theorem State.suspect_acc (s : State) (p : Nat) : (s.suspect p).acc = s.acc := (rfl)
@[simp] theorem State.suspect_accBad (s : State) (p : Nat) : (s.suspect p).accBad = s.accBad := (rfl)
@[simp] theorem State.suspect_tiles (s : State) (p : Nat) : (s.suspect p).tiles = s.tiles := (rfl)
@[simp] theorem State.suspect_tables (s : State) (p : Nat) : (s.suspect p).tables = s.tables := (rfl)
@[simp] theorem State.suspect_xbar (s : State) (p : Nat) : (s.suspect p).xbar = s.xbar := (rfl)
@[simp] theorem State.suspect_ports (s : State) (p : Nat) : (s.suspect p).ports = s.ports := (rfl)
@[simp] theorem State.suspect_lnk (s : State) (p : Nat) : (s.suspect p).lnk = s.lnk := (rfl)
@[simp] theorem State.suspect_rcu (s : State) (p : Nat) : (s.suspect p).rcu = s.rcu := (rfl)
@[simp] theorem State.suspect_dck (s : State) (p : Nat) : (s.suspect p).dck = s.dck := (rfl)
@[simp] theorem State.suspect_hif (s : State) (p : Nat) : (s.suspect p).hif = s.hif := (rfl)
@[simp] theorem State.suspect_svc (s : State) (p : Nat) : (s.suspect p).svc = s.svc := (rfl)
@[simp] theorem State.suspect_pwr (s : State) (p : Nat) : (s.suspect p).pwr = s.pwr := (rfl)
@[simp] theorem State.suspect_mgc (s : State) (p : Nat) : (s.suspect p).mgc = s.mgc := (rfl)
@[simp] theorem State.tile_suspect (s : State) (p : Nat) (q : Nat) : (s.suspect p).tile q = s.tile q := (rfl)
@[simp] theorem State.table_suspect (s : State) (p : Nat) (q : Nat) : (s.suspect p).table q = s.table q := (rfl)
@[simp] theorem State.port_suspect (s : State) (p : Nat) (q : Nat) : (s.suspect p).port q = s.port q := (rfl)
@[simp] theorem State.fn_suspect (s : State) (p : Nat) (g : Fn) : (s.suspect p).fn g = s.fn g := (rfl)
@[simp] theorem State.queue_suspect (s : State) (p : Nat) (q : Nat) : (s.suspect p).queue q = s.queue q := (rfl)
@[simp] theorem State.readByte_suspect (s : State) (p : Nat) (q o : Nat) : (s.suspect p).readByte q o = s.readByte q o := (rfl)
@[simp] theorem State.now_suspect (s : State) (p : Nat) : (s.suspect p).now = s.now := (rfl)

/-! ### A unit after an update of it -/

@[simp] theorem State.tile_setTile_self (s : State) (p : Nat) (t : Tile) : (s.setTile p t).tile p = t :=
  Map.get_set_self _ _ _ _
@[simp] theorem State.tile_modTile_self (s : State) (p : Nat) (f : Tile → Tile) : (s.modTile p f).tile p = f (s.tile p) :=
  Map.get_set_self _ _ _ _
@[simp] theorem State.table_setTable_self (s : State) (n : Nat) (x : Table) : (s.setTable n x).table n = x :=
  Map.get_set_self _ _ _ _
@[simp] theorem State.table_modTable_self (s : State) (n : Nat) (f : Table → Table) :
    (s.modTable n f).table n = f (s.table n) := Map.get_set_self _ _ _ _
@[simp] theorem State.port_setPort_self (s : State) (n : Nat) (x : Port) : (s.setPort n x).port n = x :=
  Map.get_set_self _ _ _ _
@[simp] theorem State.port_modPort_self (s : State) (n : Nat) (f : Port → Port) : (s.modPort n f).port n = f (s.port n) :=
  Map.get_set_self _ _ _ _
@[simp] theorem State.fn_modFn_self (s : State) (f : Fn) (k : FnState → FnState) : (s.modFn f k).fn f = k (s.fn f) :=
  Map.get_set_self _ _ _ _
@[simp] theorem State.cr_setCr_self (s : State) (f : Fn) (i : Nat) (r : CmdRing) : (s.setCr f i r).cr f i = r := by
  simp [State.cr, State.setCr, Map.get_set_self]
@[simp] theorem State.rr_setRr_self (s : State) (f : Fn) (i : Nat) (r : RecRing) : (s.setRr f i r).rr f i = r := by
  simp [State.rr, State.setRr, Map.get_set_self]
@[simp] theorem State.queue_setQueue_self (s : State) (i : Nat) (x : SrcQ) : (s.setQueue i x).queue i = x :=
  Map.get_set_self _ _ _ _
@[simp] theorem Tile.ring_setRing_self (t : Tile) (r : Nat) (x : Ring) : (t.setRing r x).ring r = x :=
  Map.get_set_self _ _ _ _

end Sys2Proof.Machine
end

