-- ==== Sys2Proof/Laws/Records.lean ====
section
/-! SUPPORT. What raising a record does (R305, R306, R406): it reaches its source's queue and the log, and nothing else. -/

namespace Sys2Proof.Machine

theorem Mgc.log_frame (m : Mgc) (r : Rec) : m.log r = { m with logNew := (m.log r).logNew, logRate := (m.log r).logRate } := by
  unfold Mgc.log
  dsimp only
  split
  · split <;> rfl
  · rfl

theorem State.raise_onlyRecords (s : State) (src kind status tag detail : Nat) :
    OnlyRecords s (s.raise src kind status tag detail) := by
  show State.raise _ _ _ _ _ _ = _
  unfold State.raise
  dsimp only [State.setQueue]
  rw [Mgc.log_frame]

theorem State.raise_posted (s : State) (src kind status tag detail : Nat) :
    Posted s (s.raise src kind status tag detail) src kind status tag detail := Map.get_set_self _ _ _ _

/-- What a deadline fault reaches (R51, R52, R390): its record, the log, its table, and the ladder of suspects. -/
theorem State.raiseDeadline_frame (s : State) (p bundle code : Nat) :
    s.raiseDeadline p bundle code = { s with
      hif := (s.raiseTile p bundle code).hif, mgc := (s.raiseTile p bundle code).mgc,
      tables := (s.raiseDeadline p bundle code).tables, tly := (s.raiseDeadline p bundle code).tly } := by
  have h := State.raise_onlyRecords s (srcTable (p / 13)) 2 code (faultTag (s.ltileOf p) bundle false) 0
  have e : s.raiseTile p bundle code = { s with
      hif := (s.raiseTile p bundle code).hif, mgc := (s.raiseTile p bundle code).mgc } := by
    unfold State.raiseTile at *
    unfold OnlyRecords at h
    generalize s.raise (srcTable (p / 13)) 2 code (faultTag (s.ltileOf p) bundle false) 0 = u at h
    rw [h]
  unfold State.raiseDeadline
  dsimp only
  generalize s.raiseTile p bundle code = u at e
  split
  · rw [e]; rfl
  · rw [e]; rfl

theorem State.raiseDeadline_posted (s : State) (p bundle code : Nat) :
    Posted s (s.raiseDeadline p bundle code) (srcTable (p / 13)) 2 code (faultTag (s.ltileOf p) bundle false) 0 := by
  have h := State.raise_posted s (srcTable (p / 13)) 2 code (faultTag (s.ltileOf p) bundle false) 0
  have e : ∀ k, (s.raiseDeadline p bundle code).queue k = (s.raiseTile p bundle code).queue k := fun k => by
    rw [State.raiseDeadline_frame]; rfl
  unfold Posted at *
  rw [e]
  exact h

end Sys2Proof.Machine
end

