-- ==== Sys2Proof/Laws/Units.lean ====
section
/-! SUPPORT. What a fold of updates over units does to one unit, and to the rest of the state. -/

namespace Sys2Proof.Machine

/-- Updates of distinct tables, in any order: each table of the list is changed once. -/
theorem State.table_foldl_modTable (l : List Nat) (hl : l.Nodup) (g : Nat → Table → Table) (s : State) (n : Nat) :
    (l.foldl (fun s t => s.modTable t (g t)) s).table n = if n ∈ l then g n (s.table n) else s.table n := by
  induction l generalizing s with
  | nil => simp
  | cons a l ih =>
    rw [List.nodup_cons] at hl
    rw [List.foldl_cons, ih hl.2]
    by_cases h : n = a
    · subst h
      simp [hl.1]
    · simp [h, State.modTable, State.table_setTable]

theorem State.foldl_modTable_frame (l : List Nat) (g : Nat → Table → Table) (s : State) :
    l.foldl (fun s t => s.modTable t (g t)) s =
      { s with tables := (l.foldl (fun s t => s.modTable t (g t)) s).tables } := by
  induction l generalizing s with
  | nil => rfl
  | cons a l ih =>
    rw [List.foldl_cons, ih]
    rfl

theorem State.foldl_emit (l : List Nat) (g : Nat → Option Out) (s : State) :
    l.foldl (fun s n => match g n with | some o => s.emit o | none => s) s = { s with out := s.out ++ l.filterMap g } := by
  induction l generalizing s with
  | nil => simp
  | cons a l ih =>
    rw [List.foldl_cons, ih]
    cases h : g a <;> simp [h]

/-- What arrives at a port: nothing changes but the fibre of a loopback port, and every other port takes what the outside sends. -/
theorem State.arrives_frame {α : Type} (s : State) (n : Nat) (pick : Wire → Option α) (a : α) :
    OnlyPort n s (s.arrives n pick a).1 ∧ (loopPeer n = none → s.arrives n pick a = (s, some a)) := by
  unfold State.arrives
  split
  · exact ⟨⟨rfl, fun _ _ => rfl⟩, fun _ => rfl⟩
  · rename_i h
    refine ⟨?_, fun e => by rw [e] at h; cases h⟩
    split
    · exact ⟨rfl, fun m hm => by simp [State.modPort, State.port_setPort, hm]⟩
    · exact ⟨rfl, fun _ _ => rfl⟩

end Sys2Proof.Machine
end

