-- ==== Sys2Proof/Tests/Slice0.lean ====
section
/-! SUPPORT. Small tests, each of one step on a small state. A theorem named `witness_<statement>...` shows a state and operands
that meet the hypotheses of that statement of Sys2Proof/Certificates/Slice0/Obligations.lean, clause by clause where it has
several, and what the command does there; the expected values are worked out from the rules that the statement names. -/

set_option Elab.async false

namespace Sys2Proof.Tests

open Sys2Proof Sys2Proof.Machine

/-! ### Small states -/

/-- The state that a command leaves. -/
def after (c : Instr) (s : State) : State :=
  match exec c s with
  | .next t => t
  | _ => State.reset
/-- The command answers a next state. -/
def goes (c : Instr) (s : State) : Bool :=
  match exec c s with
  | .next _ => true
  | _ => false
/-- The command answers that very state. -/
def stays (c : Instr) (s : State) : Bool :=
  match exec c s with
  | .next t => t == s
  | _ => false
/-- The command stops with the fault of an absent unit. -/
def stops (c : Instr) (s : State) : Bool :=
  match exec c s with
  | .fault .noSuchUnit => true
  | _ => false
/-- Status codes of the records that wait, by source. -/
def codes (s : State) (src : Nat) : List Nat := (s.queue (qKey 0 src)).recs.map (·.status)
/-- A state whose position 0 is as given. -/
def tile0 (x : Tile) : State := { State.reset with tiles := [(0, x)] }
/-- A state whose port 0 is as given. -/
def port0 (x : Port) : State := { State.reset with ports := [(0, x)] }
/-- A state whose table 0 is as given. -/
def table0 (x : Table) : State := { State.reset with tables := [(0, x)] }
/-- The host, as a requester through the physical function. -/
def host : Requester := ⟨.pf, 0⟩
/-- The running deck. -/
def running (s : State) : State := { s with dck := { s.dck with state := .running } }
/-- The same state at another count. -/
def at_ (n : Nat) (s : State) : State := { s with rcu := { s.rcu with count := BitVec.ofNat 64 n }, age := n }
/-- The state with its HIF not released yet. -/
def closed (s : State) : State := { s with hif := { s.hif with released := false } }

/-! ### Ill-formed commands are refused by the check -/

theorem test_wf_position : (Instr.bundleIssue 207).wf = true ∧ (Instr.bundleIssue 208).wf = false := by decide
theorem test_wf_port : (Instr.frameSend 63).wf = true ∧ (Instr.frameSend 64).wf = false := by decide
theorem test_wf_table : (Instr.resultRead ⟨15, []⟩).wf = true ∧ (Instr.resultRead ⟨16, []⟩).wf = false := by decide
theorem test_wf_function : (Instr.pswGo (.vf 15) 0).wf = true ∧ (Instr.pswGo (.vf 16) 0).wf = false := by decide
theorem test_wf_vf_reset : (Instr.vfFlr 15).wf = true ∧ (Instr.vfFlr 16).wf = false := by decide
theorem test_wf_sync : (Instr.syncReceive 0 ⟨1023, 1023, 0, 7, 0⟩ 0).wf = true ∧
    (Instr.syncReceive 0 ⟨1024, 0, 0, 0, 0⟩ 0).wf = false ∧ (Instr.syncReceive 0 ⟨0, 1024, 0, 0, 0⟩ 0).wf = false ∧
    (Instr.syncReceive 0 ⟨0, 0, 0, 8, 0⟩ 0).wf = false := by decide
theorem test_wf_ident : (Instr.identReceive 0 ⟨1023, 63, 15, 63, 3⟩).wf = true ∧
    (Instr.identReceive 0 ⟨1024, 0, 0, 0, 0⟩).wf = false ∧ (Instr.identReceive 0 ⟨0, 64, 0, 0, 0⟩).wf = false ∧
    (Instr.identReceive 0 ⟨0, 0, 16, 0, 0⟩).wf = false ∧ (Instr.identReceive 0 ⟨0, 0, 0, 64, 0⟩).wf = false ∧
    (Instr.identReceive 0 ⟨0, 0, 0, 0, 4⟩).wf = false := by decide
theorem test_wf_frame : (Instr.frameReceive 0 ⟨rep 10280 0#8, [⟨15, 543, 1⟩]⟩).wf = true ∧
    (Instr.frameReceive 0 ⟨rep 10279 0#8, []⟩).wf = false ∧
    (Instr.frameReceive 0 ⟨rep 10280 0#8, [⟨16, 0, 1⟩]⟩).wf = false := by decide +kernel
theorem test_wf_foot : (Instr.footWrite 0 0 3 127 (some 1)).wf = true ∧ (Instr.footWrite 0 0 4 0 none).wf = false ∧
    (Instr.footWrite 0 0 0 128 none).wf = false ∧ (Instr.footWrite 0 0 0 0 (some (2 ^ 128))).wf = false := by decide
theorem test_wf_ring : (Instr.ringPublish 0 15).wf = true ∧ (Instr.ringPublish 0 16).wf = false ∧
    (Instr.ringTailWrite true host 0 16 0).wf = false ∧ (Instr.ringHeadWrite true host 0 16 0).wf = false := by decide
theorem test_wf_bar2 : (Instr.bar2Read ⟨.pf, 0⟩ (2 ^ 37 - 4) 4).wf = true ∧ (Instr.bar2Read ⟨.pf, 0⟩ (2 ^ 37 - 3) 4).wf = false ∧
    (Instr.bar2Write ⟨.vf 0, 0⟩ (2 ^ 33) [0]).wf = false := by decide
theorem test_wf_bar0 : (Instr.registerWrite false host (2 ^ 26) 0).wf = false ∧
    (Instr.registerReadClear false host ⟨2 ^ 26, false⟩).wf = false := by decide
theorem test_wf_follower : (Instr.followerAccess .pf 64 (.regRead 0)).wf = false ∧
    (Instr.followerAccess .pf 63 (.regRead (2 ^ 26))).wf = false ∧ (Instr.followerAccess .pf 63 (.command [])).wf = false := by decide
theorem test_wf_host_rings : (Instr.crTailWrite host 4 0).wf = false ∧ (Instr.rrHeadWrite host 17 0).wf = true ∧
    (Instr.rrHeadWrite host 18 0).wf = false ∧ (Instr.rrHeadWrite ⟨.vf 0, 0⟩ 1 0).wf = false ∧
    (Instr.hostRingEnable .pf false 4 0).wf = false ∧ (Instr.hostRingEnable (.vf 3) true 1 0).wf = false ∧
    (Instr.recordPublish (.vf 0) 1).wf = false ∧ (Instr.holdoffExpire .pf 18).wf = false ∧ (Instr.hdmaComplete .pf 5).wf = false := by
  decide
theorem test_wf_command : (Instr.commandFetch .pf 3 none ⟨[], true⟩).wf = true ∧ (Instr.commandFetch .pf 4 none ⟨[], true⟩).wf = false ∧
    (Instr.commandFetch .pf 0 (some (rep 63 0#8)) ⟨[], true⟩).wf = false := by decide +kernel
theorem test_wf_descriptor : (Instr.cancel ⟨.pf, 4, rep 128 0#8⟩).wf = true ∧ (Instr.cancel ⟨.pf, 5, rep 128 0#8⟩).wf = false ∧
    (Instr.cancel ⟨.pf, 0, rep 127 0#8⟩).wf = false ∧
    (Instr.cancel ⟨.vf 16, 0, rep 128 0#8⟩).wf = false := by decide +kernel
theorem test_wf_scrub : (Instr.scrub [⟨0x200008, 31, 2, .pf⟩] [.tile 207 2 [(0, 31)]]).wf = true ∧ (Instr.scrub [] [.tile 208 0 []]).wf = false ∧
    (Instr.scrub [] [.tile 0 3 []]).wf = false ∧ (Instr.scrub [] [.port 64 []]).wf = false ∧
    (Instr.scrub [⟨0, 32, 0, .pf⟩] []).wf = false ∧ (Instr.scrub [⟨0, 0, 3, .pf⟩] []).wf = false := by decide
theorem test_wf_sensors : (Instr.tempSample 64 0).wf = false ∧ (Instr.thermalStop 64 0).wf = false ∧
    (Instr.railFault 24 0 true).wf = false ∧ (Instr.railEnableTimeout 7).wf = false ∧ (Instr.laserLightGain 16 0).wf = false ∧
    (Instr.probeComplete ⟨some 0xFFFF, []⟩).wf = false ∧ (Instr.probeComplete ⟨none, [0xFEFF]⟩).wf = false ∧
    (Instr.powerWindowEnd ⟨0, [(9, 1)], []⟩).wf = false ∧ (Instr.powerWindowEnd ⟨0, [], [(64, 1, 1)]⟩).wf = false := by decide

/-! ### The block as a whole -/

/-- The front command runs, on the queue's rest. -/
theorem witness_StepRunsTheFrontCommand :
    let s := { State.reset with pending := [.rcuNowLowWrite 0x12340000, .tickBoundary] }
    (match step s with | .next t => t.rcu.hold == 0x1234 && t.pending == [.tickBoundary] | _ => false) = true := by decide +kernel
/-- An empty queue: one beat passes, with no host access waiting; in the last beat of a tick the boundary comes. -/
theorem witness_EmptyQueueLetsTimePass :
    let s := { State.reset with mem := [(64, 7)] }
    Legal s ∧ s.pending = [] ∧ s.copyRows.samplePubs.beatWork.takeReads.hif.accs = [] ∧ s.fabricWork.beat + 1 ≠ s.fabricWork.tickLen ∧
      (match step s with | .next t => t.pending == [] && t.now == 1 && t.age == 1 | _ => false) = true :=
  ⟨⟨by decide, by decide, by decide, by decide, by decide, by decide, by decide⟩, rfl, by decide +kernel, by decide +kernel, by decide +kernel⟩
theorem witness_EmptyQueueLetsTimePass_boundary :
    let s := at_ 4095 { State.reset with mem := [(64, 7)] }
    s.fabricWork.beat + 1 = s.fabricWork.tickLen ∧
      (match step s with | .next t => t.now == 4096 && t.pwr.ticks == 1 | _ => false) = true := by decide +kernel
theorem witness_EveryStepKeepsLegal :
    Legal { State.reset with pending := [.rcuConfigWrite 0x8002a10] } ∧
      (match step { State.reset with pending := [.rcuConfigWrite 0x8002a10] } with
        | .next t => t.rcu.role == 1 && t.rcu.parent == 42 && t.rcu.state == .locked | _ => false) = true :=
  ⟨⟨by decide, by decide, by decide, by decide, by decide, by decide, by decide⟩, by decide +kernel⟩
theorem witness_CommandsKeepIdentityAndQueue :
    let s := { State.reset with pending := [.tickBoundary], out := [.msix .pf 1] }
    Legal s ∧ goes (.portEnable 0) s = true ∧ (after (.portEnable 0) s).pending = [.tickBoundary] :=
  ⟨⟨by decide, by decide, by decide, by decide, by decide, by decide, by decide⟩, by decide +kernel, by decide +kernel⟩
theorem witness_OnlyTimeCommandsMoveTheCount :
    Legal (at_ 77 State.reset) ∧  goes .telemetryWindowEnd (at_ 77 State.reset) = true ∧
      (after .telemetryWindowEnd (at_ 77 State.reset)).now = 77 :=
  ⟨⟨by decide, by decide, by decide, by decide, by decide, by decide, by decide⟩, by decide +kernel, by decide +kernel⟩
theorem witness_WellFormedCommandsComplete :
    (Instr.deadlineExpire 207 9).wf = true ∧ goes (.deadlineExpire 207 9) State.reset = true := by decide +kernel
theorem witness_AbsentUnitsStop :
    stops (.bundleIssue 208) State.reset = true ∧ stops (.trimDecay 208) State.reset = true ∧
      stops (.frameSend 64) State.reset = true ∧ stops (.resultRead ⟨16, []⟩) State.reset = true ∧ stops (.vfFlr 16) State.reset = true ∧
      goes (.trimDecay 207) State.reset = true ∧ goes (.frameSend 63) State.reset = true ∧ goes (.resultRead ⟨15, []⟩) State.reset = true := by
  decide +kernel
theorem test_no_words : decodeTableWord 32 0 = none := by decide

/-! ### The round counter -/

/-- Count 0x500000007 with k = 12 is tick 0x500000, beat 7. -/
theorem witness_RoundCounterAccesses_now_low_read :
    let t := after .rcuNowLowRead (at_ 0x500000007 State.reset)
    t.rcu.latch = 0x50 ∧ t.out = [.readData .pf 0x200000 [7, 0, 0, 0]] := by decide +kernel
/-- The whole count in one read; the latch stays. -/
theorem witness_RoundCounterAccesses_now_read_64 :
    let t := after (.registerReadClear false host ⟨0x200000, true⟩) (at_ 0x500000007 State.reset)
    t.rcu.latch = 0 ∧ t.out = [.readData .pf 0x200000 [7, 0, 0, 0, 0x50, 0, 0, 0]] := by decide +kernel
/-- A read behind the requester's own write of a row waits; one of another requester does not. -/
theorem witness_RoundCounterAccesses_waits :
    let a : HostAcc := { id := 0, rq := host, what := .write 0 0 [1], addr := 0, reply := none, started := true, left := 1 }
    let s := { State.reset with hif := { State.reset.hif with accs := [a], fetched := 1 } }
    (after .rcuNowLowRead s).out = [] ∧ (after .rcuNowLowRead s).hif.accs.length = 2 ∧
      (after (.registerReadClear false ⟨.pf, 1⟩ ⟨0x200000, false⟩) s).out = [.readData .pf 0x200000 [0, 0, 0, 0]] := by decide +kernel
theorem witness_RoundCounterAccesses_now_low_write : (after (.rcuNowLowWrite 0xABCD1234) State.reset).rcu.hold = 0xABCD := by decide +kernel
/-- TICK 0x20003 on a root with k = 12: the count is 0x20003 * 4096. -/
theorem witness_RoundCounterAccesses_tick_write :
    let s := { State.reset with rcu := { role := 1, state := .locked, hold := 3 } }
    (after (.rcuTickWrite 2 none) s).now = 0x20003000 ∧ stays (.rcuTickWrite 2 none) (running s) = true ∧
      (after (.rcuTickWrite 0 (some 0x50000)) s).now = 0x5000 := by decide +kernel
theorem witness_RoleWriteSetsState :
    State.reset.noDeck = true ∧ (running State.reset).noDeck = false ∧
      (after (.rcuConfigWrite 0x480520) State.reset).rcu.depth = 8 ∧ (after (.rcuConfigWrite 0x480520) State.reset).rcu.syncLog = 4 ∧
      (after (.rcuConfigWrite 0x480520) State.reset).rcu.state = .acquire ∧
      (after (.rcuConfigWrite 0x590510) State.reset).rcu.depth = 0 ∧ (after (.rcuConfigWrite 0x590510) State.reset).rcu.syncLog = 0 ∧
      (after (.rcuConfigWrite 0x590510) State.reset).rcu.state = .locked ∧
      (after (.rcuConfigWrite 0x530) State.reset).rcu.state = .free ∧ (after (.rcuConfigWrite 0x530) State.reset).rcu.parent = 5 ∧
      stays (.rcuConfigWrite 0x480520) (running State.reset) = true := by decide +kernel
/-- A root with port 0 up, at beat 64 and at beat 1,024 of a sync tick. -/
def rootUp : State :=
  { port0 { state := .up, gotSync := some (⟨7, 0, 1, 2, 99⟩, 123) } with
    rcu := { role := 1, state := .locked, rootDev := 9, syncLog := 0 }, lnk := { dev := 9 } }
theorem witness_SyncFlitsLeaveTheUpPorts :
    (at_ 64 rootUp).tick % 2 ^ (at_ 64 rootUp).rcu.syncLog = 0 ∧ (at_ 64 rootUp).beat = 64 ∧
      (after .syncSend (at_ 64 rootUp)).out = [.sync 0 ⟨9, 9, 0, 2, 1024⟩] ∧
      (at_ 1024 rootUp).beat = 1024 ∧ (after .followSend (at_ 1024 rootUp)).out = [.follow 0 ⟨99, 123⟩] ∧
      stays .syncSend (at_ 63 rootUp) = true ∧ stays .followSend (at_ 64 rootUp) = true ∧ stays .syncSend (at_ 64 State.reset) = true := by
  decide +kernel
/-- A SYNC on the fibre between ports 45 and 46: port 46 takes it and the fibre is empty. -/
theorem witness_SyncOfAnotherRootIsDiscarded_loopback :
    let s := { rootUp with ports := [(46, { state := .up, wire := [.sync ⟨9, 9, 0, 2, 5⟩] })] }
    let u := after (.syncReceive 46 ⟨7, 8, 1, 2, 99⟩ 5) s
    (u.port 46).gotSync = some (⟨9, 9, 0, 2, 5⟩, 5) ∧ (u.port 46).wire = [] ∧
      stays (.syncReceive 46 ⟨7, 9, 1, 2, 99⟩ 5) (port0 {}) = true := by decide +kernel
theorem witness_SyncOfAnotherRootIsDiscarded :
    (rootUp.port 0).state = .up ∧
      codes (after (.syncReceive 0 ⟨7, 8, 1, 2, 99⟩ 5) rootUp) srcMgc = [0x5001] ∧
      ((after (.syncReceive 0 ⟨7, 8, 1, 2, 99⟩ 5) rootUp).port 0).gotSync = none ∧
      stays (.syncReceive 0 ⟨7, 9, 1, 2, 98⟩ 5) (port0 {}) = true ∧
      ((after (.syncReceive 0 ⟨7, 9, 1, 2, 98⟩ 5) rootUp).port 0).gotSync = some (⟨7, 9, 1, 2, 98⟩, 5) := by decide +kernel
/-- A LOCKED member; its parent's SYNC departed at 1,000 and arrived at 2,000 sixteenths. -/
def member (st : SyncState) : State :=
  { port0 { state := .up, gotSync := some (⟨9, 0, 0, 2, 1000⟩, 2000) } with
    rcu := { role := 2, state := st, depth := 1, syncLog := 0, holdTicks := 1, count := 77 } }
/-- Offsets 8, 9, 16 and 17 sixteenths: the peer's stamps of this device's SYNC differ. -/
theorem witness_LockedExchangeKeepsOrLosesLock :
    (member .locked).arrives 0 Wire.follow? ⟨3000, 3984⟩ = (member .locked, some ⟨3000, 3984⟩) ∧
    (syncExchange 1000 2000 3000 3984).2 = 8 ∧ (syncExchange 1000 2000 3000 3982).2 = 9 ∧
      (syncExchange 1000 2000 3000 3968).2 = 16 ∧ (syncExchange 1000 2000 3000 3966).2 = 17 ∧
      codes (after (.followReceive 0 ⟨3000, 3984⟩) (member .locked)) srcMgc = [] ∧
      codes (after (.followReceive 0 ⟨3000, 3982⟩) (member .locked)) srcMgc = [0x5005] ∧
      (after (.followReceive 0 ⟨3000, 3968⟩) (member .locked)).rcu.state = .locked ∧
      (after (.followReceive 0 ⟨3000, 3968⟩) (member .locked)).rcu.holdTicks = 0 ∧
      codes (after (.followReceive 0 ⟨3000, 3966⟩) (member .locked)) srcMgc = [0x5005, 0x5004] ∧
      (after (.followReceive 0 ⟨3000, 3966⟩) (member .locked)).rcu.state = .lost ∧
      ((after (.followReceive 0 ⟨3000, 3966⟩) (member .locked)).table 15).stopping = true := by decide +kernel
theorem witness_HoldoverEntersAndExpires :
    let s := { member .locked with rcu := { (member .locked).rcu with holdTicks := 2 } }
    let u := { member .holdover with rcu := { (member .holdover).rcu with holdTicks := 4096 } }
    (s.rcu.role = 2 ∧ s.rcu.state = .locked ∧ s.rcu.holdLimit ≠ 0 ∧ 2 * 2 ^ s.rcu.syncLog ≤ s.rcu.holdTicks) ∧
      (after .holdoverEnter s).rcu.state = .holdover ∧ codes (after .holdoverEnter s) srcMgc = [0x5003] ∧
      stays .holdoverEnter (member .locked) = true ∧
      (u.rcu.state = .holdover ∧ u.rcu.holdLimit ≤ u.rcu.holdTicks) ∧ (after .holdoverExpire u).rcu.state = .lost ∧
      codes (after .holdoverExpire u) srcMgc = [0x5004] := by decide +kernel
/-- A running deck whose table 0 has a program of section 2; T names tick 2 while tick 0 runs. -/
def pswState (x : Table) (t : Nat) : State :=
  { running (table0 x) with
    rcu := { pswTick := t }, dck := { state := .running, cfg := { progs := [⟨0, 0, 2, 0, 0, 0, 0, 0, 0⟩] } } }
theorem witness_GoIsCheckedInOrder :
    (bit (0x80020001 : Nat) 31 = true ∧ bit (0x80020001 : Nat) 30 = false) ∧
      (after (.pswGo .pf 0x80020001) (pswState {} 2)).rcu.pswStatus = 0 ∧
      ((after (.pswGo .pf 0x80020001) (pswState {} 2)).table 0).switch = some ⟨2, 2⟩ ∧
      (after (.pswGo .pf 0x80020001) (pswState {} 1)).rcu.pswStatus = 0x5020 ∧
      (after (.pswGo .pf 0x80020001) (pswState { switch := some ⟨5, 2⟩ } 2)).rcu.pswStatus = 0x5021 ∧
      (after (.pswGo .pf 0x80010001) (pswState {} 2)).rcu.pswStatus = 0x5022 ∧
      (after (.pswGo .pf 0x80020001) (pswState { failed := true } 2)).rcu.pswStatus = 0x5024 ∧
      (after (.pswGo .pf 0x80020001) State.reset).rcu.pswStatus = 0x5023 ∧
      (after (.pswGo (.vf 1) 0x80020001) (pswState {} 0)).rcu.pswStatus = 0 := by decide +kernel
theorem witness_CancelRemovesPendingSwitches :
    ((after (.pswCancel .pf 0x40000001) (pswState { switch := some ⟨2, 2⟩ } 0)).table 0).switch = none ∧
      (after (.pswCancel .pf 0x40000001) (pswState { switch := some ⟨2, 2⟩ } 0)).rcu.pswStatus = 0 ∧
      ((after (.pswCancel .pf 0x40000001) (pswState { switch := some ⟨1, 2⟩ } 0)).table 0).switch = some ⟨1, 2⟩ ∧
      (after (.pswCancel .pf 0x40000001) (pswState { switch := some ⟨1, 2⟩ } 0)).rcu.pswStatus = 0x5020 ∧
      (after (.pswCancel .pf 0x40000001) State.reset).rcu.pswStatus = 0x5023 := by decide +kernel
theorem witness_TickBoundaryEndsTheTick :
    Legal (at_ 100 State.reset) ∧ (after .tickBoundary (at_ 100 State.reset)).now = 4096 :=
  ⟨⟨by decide, by decide, by decide, by decide, by decide, by decide, by decide⟩, by decide +kernel⟩
/-- Before the HIF is released no register read has an effect. -/
theorem witness_RoundCounterAccesses_closed :
    stays .rcuNowLowRead (closed State.reset) = true ∧
      stays (.registerReadClear false host ⟨0x200000, true⟩) (closed State.reset) = true := by decide +kernel
/-- In ACQUIRE at DEPTH 2 under a parent of DEPTH 0; under one that is not LOCKED; the first exchange steps the count by 8
sixteenths; the sixteenth close one locks; one of 5 sixteenths starts over. -/
theorem witness_LockedExchangeKeepsOrLosesLock_acquire :
    let s := fun depth close stepped pst : Nat =>
      { member .acquire with
        ports := [(0, { state := .up, gotSync := some (⟨9, 0, 0, pst, 1000⟩, 2000) })]
        rcu := { (member .acquire).rcu with depth, close, stepped := stepped == 1 } }
    let t := fun d c st p arr => after (.followReceive 0 ⟨3000, arr⟩) (s d c st p)
    codes (t 2 0 0 2 4000) srcMgc = [0x5002] ∧ (t 2 0 0 2 4000).rcu.depthTold = true ∧
      codes (after (.followReceive 0 ⟨3000, 4000⟩) { s 2 0 0 2 with rcu := { (s 2 0 0 2).rcu with depthTold := true } }) srcMgc = [] ∧
      (t 1 0 0 1 4000).rcu.stepped = false ∧ (t 1 0 0 1 4000).rcu.holdTicks = 0 ∧
      (t 1 0 0 2 3984).rcu.stepped = true ∧ (t 1 0 0 2 3984).rcu.offset = 8 ∧
      ((t 1 0 0 2 3984).now, (t 1 0 0 2 3984).rcu.frac) = (76, 8) ∧
      (t 1 15 1 2 3992).rcu.state = .locked ∧ (t 1 14 1 2 3992).rcu.state = .acquire ∧ (t 1 14 1 2 3992).rcu.close = 15 ∧
      (t 1 14 1 2 3990).rcu.close = 0 := by decide +kernel
/-- In HOLDOVER one beat of offset locks again, and 17 sixteenths do not. -/
theorem witness_LockedExchangeKeepsOrLosesLock_holdover :
    (after (.followReceive 0 ⟨3000, 3968⟩) (member .holdover)).rcu.state = .locked ∧
      (after (.followReceive 0 ⟨3000, 3966⟩) (member .holdover)).rcu.state = .holdover ∧
      (after (.followReceive 0 ⟨3000, 3966⟩) (member .holdover)).rcu.offset = 17 := by decide +kernel
/-- With HOLD_LIMIT 0 the first exchange that is missed loses the lock. -/
theorem witness_HoldoverEntersAndExpires_no_limit :
    let s := fun n : Nat => { member .locked with rcu := { (member .locked).rcu with holdTicks := n, holdLimit := 0 } }
    (after .holdoverEnter (s 2)).rcu.state = .lost ∧ codes (after .holdoverEnter (s 2)) srcMgc = [0x5004] ∧
      stays .holdoverEnter (s 1) = true := by decide +kernel
/-- The meter, a clock change, a stopped table, and a running one. -/
theorem witness_TickBoundaryEndsTheTick_tables :
    let x : Table := { role := some 0, phase := 2, newClock := some 1, switch := some ⟨9, 1⟩ }
    let s := running (table0 x)
    ((s.meterTick.table 0).used, (s.meterTick.table 0).map, (s.meterTick.table 0).overrun) = (0, 0, false) ∧
      (s.meterTick.table 1).used = 0 ∧ s.meterTick.pwr.ticks = 1 ∧ ((s.changeClock 0).table 0).clock = 1 ∧
      s.halted = false ∧ ((s.stopTables).table 0) = x ∧
      (let u := (running (table0 { x with stopping := true })).stopTables.table 0
       (u.phase, u.switch, u.role, u.stopping) = (0, none, none, false)) ∧
      ({ s with rcu := { s.rcu with state := .lost } } : State).halted = true := by decide +kernel
/-- A deck's start and stop, and their tick to come; a port's congestion counts. -/
theorem witness_TickBoundaryEndsTheTick_deck :
    let c : Nat → Pend := fun t => ⟨t, false, .pf, 0, 5, false, 0⟩
    let s := fun (start stop : Option Pend) => { (table0 { phase := 2, choice := 7 }) with dck := { state := .starting, start, stop } }
    ((s (some (c 0)) none).deckBoundary.dck.state, ((s (some (c 0)) none).deckBoundary.table 0).choice) = (.running, 0) ∧
      (s (some (c 1)) none).deckBoundary = s (some (c 1)) none ∧
      ((s none (some (c 0))).deckBoundary.dck.state, ((s none (some (c 0))).deckBoundary.table 0).phase) = (.none_, 0) ∧
      (let p := ((port0 { state := .up, cBmax := 4, stalled := true, cStall := 255, suspended := true }).portTick 0).port 0
       (p.cBmax, p.cStall, p.stalled) = (4, 255, false)) := by decide +kernel
/-- The phase step: a switch to come, of this tick (the drain), and past (the entry); none; the drain of a deck that stops; a
device that has halted. -/
theorem witness_TickBoundaryEndsTheTick_phase :
    let s := fun (w : Option Switch) (stop : Option Pend) =>
      at_ (5 * 4096) { running (table0 { phase := 2, switch := w }) with
        dck := { state := .running, stop }, tiles := [(3, { reps := [⟨0, 1, 1, 0, 0, none⟩], poison := 1 })] }
    let y := fun s : State => ((s.stepTable 0).table 0)
    (s none none).deckRuns = true ∧ (s none none).tick = 5 ∧
      ((y (s (some ⟨6, 1⟩) none)).phase, (y (s (some ⟨6, 1⟩) none)).role) = (2, some 0) ∧
      ((y (s (some ⟨5, 1⟩) none)).phase, (y (s (some ⟨5, 1⟩) none)).role) = (2, some 1) ∧
      ((y (s (some ⟨4, 1⟩) none)).phase, (y (s (some ⟨4, 1⟩) none)).role, (y (s (some ⟨4, 1⟩) none)).cycle0) = (1, some 2, 6) ∧
      ((y (s none none)).phase, (y (s none none)).role) = (2, some 0) ∧
      (y (s none (some ⟨6, false, .pf, 0, 5, false, 0⟩))).role = some 1 ∧
      (y { s none none with rcu := { (s none none).rcu with state := .lost } }).role = none ∧
      (((s none none).stepTable 0).tile 3).reps = [] ∧ (((s none none).stepTable 0).tile 3).poison = 0 := by decide +kernel
/-- In the last beat its work comes first. -/
theorem witness_TickBoundaryEndsTheTick_last :
    (at_ 4095 State.reset).beat + 1 = (at_ 4095 State.reset).tickLen ∧ (after .tickBoundary (at_ 4095 State.reset)).now = 4096 := by
  decide +kernel

/-! ### The pips -/

/-- A pip instruction of form Three or Imm (R129), the rest of its word below [16]. -/
def pipI (op d a low : Nat) : Word := BitVec.ofNat 32 (op * 2 ^ 26 + d * 2 ^ 21 + a * 2 ^ 16 + low)
/-- Form Three. -/
def pip3 (op d a b c fn : Nat) : Word := pipI op d a (b * 2 ^ 11 + c * 2 ^ 6 + fn)
/-- Position 0 at beat 10 of tick 0, dispatched on the masked pips, each with the same words and the registers given. -/
def pipState (words : List Word) (mask : Nat) (regs : List (Nat × Word)) (p : List (Nat × Bool) := []) : State :=
  at_ 10 (tile0 { pips := {
    regs, p, run := some ⟨mask, 0, 0, 0⟩
    istore := ((List.range 64).filter (bit mask)).flatMap fun i => words.zipIdx.map fun (w : Word × Nat) => (i * 2048 + w.2, w.1) } })
/-- The same state with other pips. -/
def withPips (f : Pips → Pips) (s : State) : State := s.setPips 0 (f (s.tile 0).pips)
/-- The pips of position 0 after a command. -/
def pipsAfter (c : Instr) (s : State) : Pips := ((after c s).tile 0).pips
/-- One result for register 5 of pip 0, ready `n` beats after beat 10. -/
def gives (c : Instr) (op n : Nat) (v : Word) (s : State) : Bool :=
  s.pipIssues 0 op && (pipsAfter c s).pend == [⟨pipKey 0 5, 10 + n, v⟩] && (pipsAfter c s).pc == 1

/-- 1.5 * 2 + 0.25. -/
theorem witness_PipNumericResults_fma : gives (.fma 0) 0x02 4 0x40500000
    (pipState [pip3 0x02 5 1 2 3 0] 1 [(1, 0x3fc00000), (2, 0x40000000), (3, 0x3e800000)]) = true := by decide +kernel
/-- 3 - 1. -/
theorem witness_PipNumericResults_falu_sub : gives (.falu 0) 0x03 4 0x40000000
    (pipState [pip3 0x03 5 1 2 0 1] 1 [(1, 0x40400000), (2, 0x3f800000)]) = true := by decide +kernel
/-- FMIN of -0 and +0 is -0. -/
theorem witness_PipNumericResults_falu_min_zero : gives (.falu 0) 0x03 4 0x80000000
    (pipState [pip3 0x03 5 1 2 0 3] 1 [(1, 0), (2, 0x80000000)]) = true := by decide +kernel
/-- High lane 1.5 * 2 + 0.25, low lane 1 * 1 + 1. -/
theorem witness_PipNumericResults_bfma : gives (.bfma 0) 0x04 4 0x40504000
    (pipState [pip3 0x04 5 1 2 3 0] 1 [(1, 0x3fc03f80), (2, 0x40003f80), (3, 0x3e803f80)]) = true := by decide +kernel
/-- FMAX in each lane: max(1, 2) and max(-1, 1). -/
theorem witness_PipNumericResults_balu_max : gives (.balu 0) 0x05 4 0x40003f80
    (pipState [pip3 0x05 5 1 2 0 4] 1 [(1, 0x3f80bf80), (2, 0x40003f80)]) = true := by decide +kernel
/-- FP32 to INT32, nearest even: 2.5 gives 2; -3.5 gives -4. -/
theorem witness_PipNumericResults_cvt_even : gives (.cvt 0) 0x0d 2 2 (pipState [pip3 0x0d 5 1 0 0 2] 1 [(1, 0x40200000)]) = true ∧
    gives (.cvt 0) 0x0d 2 0xfffffffc (pipState [pip3 0x0d 5 1 0 0 2] 1 [(1, 0xc0600000)]) = true := by decide +kernel
/-- Pack: BF16 of a low, BF16 of b high. -/
theorem witness_PipNumericResults_cvt_pack : gives (.cvt 0) 0x0d 2 0x40003f80
    (pipState [pip3 0x0d 5 1 2 0 0x18] 1 [(1, 0x3f800000), (2, 0x40000000)]) = true := by decide +kernel
/-- RCP of 2. -/
theorem witness_PipNumericResults_sfu_rcp : gives (.sfu 0) 0x0e 8 0x3f000000 (pipState [pip3 0x0e 5 1 0 0 1] 1 [(1, 0x40000000)]) = true := by
  decide +kernel
/-- mix32(1, 2), worked out from R147. -/
theorem witness_PipNumericResults_rnd : gives (.rnd 0) 0x10 2 0x12bc8390 (pipState [pip3 0x10 5 1 2 0 0] 1 [(1, 1), (2, 2)]) = true := by decide +kernel
/-- SUB wraps. -/
theorem witness_PipIntegerResults_ialu_sub : gives (.ialu 0) 0x07 1 0xffffffff (pipState [pip3 0x07 5 1 2 0 1] 1 [(1, 1), (2, 2)]) = true := by
  decide +kernel
/-- SAR uses b[4:0]: a count of 33 shifts by one. -/
theorem witness_PipIntegerResults_ialu_sar : gives (.ialu 0) 0x07 1 0xc0000001 (pipState [pip3 0x07 5 1 2 0 8] 1 [(1, 0x80000002), (2, 33)]) = true := by
  decide +kernel
theorem witness_PipIntegerResults_sel : gives (.sel 0) 0x09 1 7 (pipState [pip3 0x09 5 1 2 0 0] 1 [(1, 7), (2, 8)] [(0, true)]) = true ∧
    gives (.sel 0) 0x09 1 8 (pipState [pip3 0x09 5 1 2 0 0] 1 [(1, 7), (2, 8)]) = true := by decide +kernel
theorem witness_PipIntegerResults_addi : gives (.addi 0) 0x0a 1 0xffffffff (pipState [pipI 0x0a 5 1 0xfffe] 1 [(1, 1)]) = true := by decide +kernel
theorem witness_PipIntegerResults_lui : gives (.lui 0) 0x0b 1 0xfffe0000 (pipState [pipI 0x0b 5 0 0xfffe] 1 []) = true := by decide +kernel
theorem witness_PipIntegerResults_ori : gives (.ori 0) 0x0c 1 0x0000fffe (pipState [pipI 0x0c 5 1 0xfff0] 1 [(1, 0xe)]) = true := by decide +kernel
/-- The table beat, 10. -/
theorem witness_PipIntegerResults_movs : gives (.movs 0) 0x0f 1 10 (pipState [pipI 0x0f 5 0 5] 1 []) = true := by decide +kernel
/-- -0 equals +0; a NaN is neither equal nor less, and UN is true. -/
theorem witness_PipCompareResults_fcmp : (pipState [pip3 0x06 0 1 2 0 0] 1 []).pipIssues 0 0x06 = true ∧
    (pipsAfter (.fcmp 0) (pipState [pip3 0x06 0 1 2 0 0] 1 [(1, 0), (2, 0x80000000)])).pend = [⟨2048, 11, 1⟩] ∧
    (pipsAfter (.fcmp 0) (pipState [pip3 0x06 0 1 2 0 2] 1 [(1, 0x7fc00000)])).pend = [⟨2048, 11, 0⟩] ∧
    (pipsAfter (.fcmp 0) (pipState [pip3 0x06 0 1 2 0 3] 1 [(1, 0x7fc00000)])).pend = [⟨2048, 11, 1⟩] := by decide +kernel
/-- Signed and unsigned less-than of -1 and 1. -/
theorem witness_PipCompareResults_icmp : (pipState [pip3 0x08 0 1 2 0 2] 1 []).pipIssues 0 0x08 = true ∧
    (pipsAfter (.icmp 0) (pipState [pip3 0x08 0 1 2 0 2] 1 [(1, 0xffffffff), (2, 1)])).pend = [⟨2048, 11, 1⟩] ∧
    (pipsAfter (.icmp 0) (pipState [pip3 0x08 0 1 2 0 4] 1 [(1, 0xffffffff), (2, 1)])).pend = [⟨2048, 11, 0⟩] := by decide +kernel
/-- IADD over pips 0 and 2 of the mask, at both. -/
theorem witness_PipCrossResults_red_iadd : (pipState [pip3 0x18 5 1 0 0 3] 5 [(1, 7), (65, 0xfffffffe)]).pipIssues 0 0x18 = true ∧
    (pipsAfter (.red 0) (pipState [pip3 0x18 5 1 0 0 3] 5 [(1, 7), (65, 0xfffffffe)])).pend = [⟨5, 18, 5⟩, ⟨69, 18, 5⟩] := by
  decide +kernel
/-- ARGMAX of 1 and 2: the value in d, the winner's index in c. -/
theorem witness_PipCrossResults_red_argmax :
    (pipsAfter (.red 0) (pipState [pip3 0x18 5 1 0 6 8] 3 [(1, 0x3f800000), (33, 0x40000000)])).pend =
      [⟨5, 18, 0x40000000⟩, ⟨6, 18, 1⟩, ⟨37, 18, 0x40000000⟩, ⟨38, 18, 1⟩] := by decide +kernel
/-- Shift -1: pip 0 reads the inactive pip 63. -/
theorem witness_PipCrossResults_xch : gives (.xch 0) 0x19 2 9 (pipState [pipI 0x19 5 1 0xffff] 1 [(63 * 32 + 1, 9)]) = true := by decide +kernel
/-- MXFP8 E4M3 (0x5): block maximum 1.0 = 2^0, scale exponent 0 - 8, so X = 119 and the element is 1.0 * 2^8 = 256, code 0x78. -/
theorem witness_PipCrossResults_mxq : gives (.mxq 0) 0x1a 10 0x7778 (pipState [pip3 0x1a 5 1 0 0 5] 1 [(1, 0x3f800000)]) = true := by decide +kernel
theorem witness_PipCrossResults_pcinv :
    let s := withPips (fun x => { x with cache := [(3, ⟨true, 1, [5]⟩), (35, ⟨true, 2, [6]⟩)] }) (pipState [pipI 0x17 0 0 0] 1 [])
    s.pipIssues 0 0x17 = true ∧ (pipsAfter (.pcinv 0) s).line 0 3 = {} ∧ (pipsAfter (.pcinv 0) s).line 1 3 = ⟨true, 2, [6]⟩ := by
  decide +kernel
/-- A fill in flight does not outlive the invalidation of its pip. -/
theorem witness_PipCrossResults_pcinv_fill :
    let s := withPips (fun x => { x with acc := [⟨[[1], [], []], [], 0, [], [], .fill [(0, 5, 1, 0)], 8⟩] }) (pipState [pipI 0x17 0 0 0] 1 [])
    s.pipIssues 0 0x17 = true ∧ (pipsAfter (.pcinv 0) s).acc.map (·.use) = [.load [(0, 5, 1, 0)]] := by decide +kernel

theorem witness_PipControl_pip_nop : (pipState [0] 1 []).pipIssues 0 0 = true ∧ (pipsAfter (.pipNop 0) (pipState [0] 1 [])).pc = 1 := by
  decide +kernel
theorem witness_PipControl_halt : (pipState [0x04000000] 1 []).pipIssues 0 1 = true ∧
    (pipsAfter (.halt 0) (pipState [0x04000000] 1 [])).run = none := by decide +kernel
/-- Condition 1, P in every active pip, target 9. -/
theorem witness_PipControl_br : (pipState [0x6c000809] 3 [] [(0, true), (1, true)]).pipIssues 0 0x1b = true ∧
    (pipsAfter (.br 0) (pipState [0x6c000809] 3 [] [(0, true), (1, true)])).pc = 9 ∧
    (pipsAfter (.br 0) (pipState [0x6c000809] 3 [] [(0, true)])).pc = 1 := by decide +kernel
/-- LOOP end 4, count 3; with count 0 the body is skipped. -/
theorem witness_PipControl_loop : (pipState [0x74020003] 1 []).pipIssues 0 0x1d = true ∧
    (pipsAfter (.loop 0) (pipState [0x74020003] 1 [])).stack = [⟨1, 4, 3⟩] ∧
    (pipsAfter (.loop 0) (pipState [0x74020000] 1 [])).pc = 5 := by decide +kernel
/-- LOOPR: register 1 of the lead pip holds 9, the bound is 4. -/
theorem witness_PipControl_loopr : (pipState [0x78020404] 2 [(33, 9)]).pipIssues 0 0x1e = true ∧
    (pipsAfter (.loopr 0) (pipState [0x78020404] 2 [(33, 9)])).stack = [⟨1, 4, 4⟩] := by decide +kernel
/-- BRK, always: out of the innermost loop, whose end an outer loop shares; the outer one goes on. -/
theorem witness_PipControl_brk :
    let s := withPips (fun x => { x with stack := [⟨0, 6, 2⟩, ⟨0, 6, 2⟩] }) (pipState [0x70000000] 1 [])
    s.pipIssues 0 0x1c = true ∧ (pipsAfter (.brk 0) s).pc = 0 ∧ (pipsAfter (.brk 0) s).stack = [⟨0, 6, 1⟩] := by decide +kernel
/-- BRK with no loop: not taken, it goes on; taken, nothing but the address is open. -/
theorem witness_PipControl_brk_no_loop :
    let s := pipState [0x70000800] 1 []
    let u := withPips (fun x => { x with p := [(0, true)] }) s
    s.pipIssues 0 0x1c = true ∧ (s.pipsAt 0).stack = [] ∧ (pipsAfter (.brk 0) s).pc = 1 ∧
    u.pipIssues 0 0x1c = true ∧ pipCond 1 ((u.pipsAt 0).active.map (u.pipsAt 0).cond) = true ∧ goes (.brk 0) u = true := by
  decide +kernel

/-- LD at byte 64: row 1, word 0; near the end of the mapped rows the address maps to nothing and 0x3001 is raised. -/
theorem witness_PipLoadsTakeTheirRows :
    (pipState [pipI 0x11 5 1 64] 1 []).pipIssues 0 0x11 = true ∧
    (pipsAfter (.ld 0) (pipState [pipI 0x11 5 1 64] 1 [])).acc = [⟨[[1], [], []], [], 0, [], [], .load [(0, 5, 1, 0)], 10⟩] ∧
    codes (after (.ld 0) (pipState [pipI 0x11 5 1 0] 1 [(1, 6356992)])) (srcTable 0) = [0x3001] ∧
    codes (after (.ld 0) (pipState [pipI 0x11 5 1 0] 1 [(1, 6356988)])) (srcTable 0) = [] := by decide +kernel
/-- LDS: the lead pip's g1 plus the stride 4 for each pip. -/
theorem witness_PipLoadsTakeTheirRows_lds : (pipState [pipI 0x12 5 1 64] 3 []).pipIssues 0 0x12 = true ∧
    (pipsAfter (.lds 0) (pipState [pipI 0x12 5 1 4] 3 [])).acc.map (·.use) = [.load [(0, 5, 0, 0), (1, 5, 0, 1)]] := by decide +kernel
/-- LDP that hits: ready in two beats, and no access. -/
theorem witness_PipLoadsTakeTheirRows_ldp_hit :
    let s := withPips (fun x => { x with cache := [(1, ⟨true, 0, [1, 2]⟩)] }) (pipState [pipI 0x13 5 1 68] 1 [])
    s.pipIssues 0 0x13 = true ∧ (pipsAfter (.ldp 0) s).pend = [⟨5, 12, 2⟩] ∧ (pipsAfter (.ldp 0) s).acc = [] := by decide +kernel
/-- LDP that misses: the row takes the path, to fill its line. -/
theorem witness_PipLoadsTakeTheirRows_ldp_miss :
    let s := pipState [pipI 0x13 5 1 68] 1 []
    s.pipIssues 0 0x13 = true ∧ (pipsAfter (.ldp 0) s).pend = [] ∧
    (pipsAfter (.ldp 0) s).acc.map (fun a => (a.wait, a.use)) = [([[1], [], []], .fill [(0, 5, 1, 1)])] := by decide +kernel
/-- Two pips store to one word: the higher-numbered one's is written. -/
theorem witness_PipStoresTakeTheirRows :
    (pipState [pipI 0x14 5 1 64] 3 [(5, 0x11), (37, 0x22)]).pipIssues 0 0x14 = true ∧
    (pipsAfter (.st 0) (pipState [pipI 0x14 5 1 64] 3 [(5, 0x11), (37, 0x22)])).acc.map (fun a => readCells (Map.get [] a.stores 1) 0 4) =
      [[0x22, 0, 0, 0]] := by decide +kernel
theorem witness_PipStoresTakeTheirRows_stp : (pipState [pipI 0x16 5 1 64] 3 [(5, 0x11), (37, 0x22)] [(0, true)]).pipIssues 0 0x16 = true ∧
    (pipsAfter (.stp 0) (pipState [pipI 0x16 5 1 64] 3 [(5, 0x11), (37, 0x22)] [(0, true)])).acc.map
      (fun a => readCells (Map.get [] a.stores 1) 0 4) = [[0x11, 0, 0, 0]] := by decide +kernel
theorem witness_PipStoresTakeTheirRows_sts : (pipState [pipI 0x15 5 1 64] 1 [(5, 0x11)]).pipIssues 0 0x15 = true ∧
    (pipsAfter (.sts 0) (pipState [pipI 0x15 5 1 64] 1 [(5, 0x11)])).acc.map (·.use) = [.store] := by decide +kernel
/-- A served load: its word goes to register 5 of pip 0, and its place on the path is free. -/
theorem witness_PipAccessCompletes :
    let a : PipAcc := ⟨[[], [], []], [], 2, [(1, rep 4 0xaa#8 ++ rep 60 0#8)], [], .load [(0, 5, 1, 0)], 2⟩
    let s := at_ 10 (tile0 { pips := { run := some ⟨1, 0, 0, 0⟩, acc := [a] } })
    (takeFirst (fun a => a.served (s.stamp 0)) (s.pipsAt 0).acc).isSome = true ∧
      (pipsAfter (.pipMemoryComplete 0) s).reg 0 5 = 0xaaaaaaaa ∧ (pipsAfter (.pipMemoryComplete 0) s).acc = [] := by decide +kernel
/-- A served fill: the register and the line of tag 0 at index 1 take the row. -/
theorem witness_PipAccessCompletes_fill :
    let a : PipAcc := ⟨[[], [], []], [], 2, [(1, rep 4 0xaa#8 ++ rep 60 0#8)], [], .fill [(0, 5, 1, 0)], 2⟩
    let s := at_ 10 (tile0 { pips := { run := some ⟨1, 0, 0, 0⟩, acc := [a] } })
    (takeFirst (fun a => a.served (s.stamp 0)) (s.pipsAt 0).acc).isSome = true ∧
      (pipsAfter (.pipMemoryComplete 0) s).reg 0 5 = 0xaaaaaaaa ∧ ((pipsAfter (.pipMemoryComplete 0) s).line 0 1).valid = true ∧
      ((pipsAfter (.pipMemoryComplete 0) s).line 0 1).tag = 0 ∧
      nth 0#32 ((pipsAfter (.pipMemoryComplete 0) s).line 0 1).data 0 = 0xaaaaaaaa#32 := by decide +kernel

/-! ### The dealer and tile memory -/

/-- Position 0 at beat 100 of tick 0. -/
def tileAt (x : Tile) : State := at_ 100 (tile0 x)
/-- Position 0 after a command. -/
def tileAfter (c : Instr) (s : State) : Tile := (after c s).tile 0

theorem witness_DueResultsEnterTheirCounters_cld :
    let s := tileAt { ctr := [(1, 8), (2, 9)], clds := [⟨1, 0, 99, some 7, 3, 1⟩] }
    let u := tileAt { ctr := [(1, 8), (2, 9)], clds := [⟨1, 0, 99, none, 3, 1⟩] }
    (takeFirst (fun (c : Cld) => decide (c.due < s.stamp 0)) (s.tile 0).clds).isSome = true ∧
      (tileAfter (.cldResult 0) s).ctr = [(1, 7), (2, 9)] ∧ (tileAfter (.cldResult 0) s).clds = [] ∧
      codes (after (.cldResult 0) u) (srcTable 0) = [0x5010] ∧ (tileAfter (.cldResult 0) u).ctr = [(1, 8), (2, 9)] ∧
      stays (.cldResult 0) (tileAt { clds := [⟨1, 0, 100, some 7, 3, 1⟩] }) = true := by decide +kernel
theorem witness_DueResultsEnterTheirCounters_ring :
    let s := tileAt { results := [⟨4, 99, some 6, 3, 1⟩] }
    let u := tileAt { results := [⟨4, 99, none, 3, 1⟩] }
    (takeFirst (fun (c : RingRes) => decide (c.due < s.stamp 0)) (s.tile 0).results).isSome = true ∧
      (tileAfter (.ringResultWrite 0) s).ctr = [(4, 6)] ∧ codes (after (.ringResultWrite 0) u) (srcTable 0) = [0x5010] := by
  decide +kernel
/-- One row of ODT entries from entry 4 on; one of handles from handle 8 on; a SETUP that has read too few rows. -/
theorem witness_SetupWritesAllItsTargets :
    let odt := tileAt { setups := [⟨0, 4, 1, 99, [(16, 5)], 1, 3, 1⟩] }
    let hnd := tileAt { setups := [⟨2, 8, 1, 99, [(8, 5)], 1, 3, 1⟩] }
    let few := tileAt { setups := [⟨0, 4, 2, 99, [(16, 5)], 1, 3, 1⟩] }
    (takeFirst (fun (c : Setup) => decide (c.due < odt.stamp 0)) (odt.tile 0).setups).isSome = true ∧
      (tileAfter (.setupWrite 0) odt).odt = [(5, 5)] ∧ (tileAfter (.setupWrite 0) hnd).handles = [(9, 5)] ∧
      (tileAfter (.setupWrite 0) few).odt = [] ∧ codes (after (.setupWrite 0) few) (srcTable 0) = [0x5010] := by decide +kernel
/-- A bundle at BEAT `beat` with a slot-C word and a slot-X word. -/
def bundle (beat c x : Nat) : BitVec 128 := BitVec.ofNat 128 (beat * 2 ^ 112 + c * 2 ^ 84 + x * 2 ^ 56)
/-- Position 0 at beat 100, about to issue one bundle. -/
def dealing (b : BitVec 128) : State := tileAt { store := [(0, b)], run := some (0, 1), ctr := [(3, 0x12345)], next := 0 }
theorem witness_BundleIssuesAtItsBeat :
    ((dealing (bundle 100 0 0)).tile 0).run = some (0, 1) ∧
      stays (.bundleIssue 0) (dealing (bundle 101 (1 * 2 ^ 22) 0)) = true ∧
      (tileAfter (.bundleIssue 0) (dealing (bundle 100 0 0))).next = 1 ∧
      -- SETI ctr2 := 5; SETHI ctr3 := 0xABCD in the high half; ADDI ctr2 := ctr3 - 1
      (tileAfter (.bundleIssue 0) (dealing (bundle 100 (1 * 2 ^ 22 + 2 * 2 ^ 18 + 5) 0))).ctr = [(2, 5), (3, 0x12345)] ∧
      (tileAfter (.bundleIssue 0) (dealing (bundle 100 (2 * 2 ^ 22 + 3 * 2 ^ 18 + 0xabcd) 0))).ctr = [(3, 0xabcd2345)] ∧
      (tileAfter (.bundleIssue 0) (dealing (bundle 100 (4 * 2 ^ 22 + 2 * 2 ^ 18 + 3 * 2 ^ 14 + 0x3fff) 0))).ctr =
        [(2, 0x12344), (3, 0x12345)] := by decide +kernel
/-- A GLOBAL entry (KIND 2) of one row of logical tile 1, row 5; a RANGE entry (KIND 1) of row 7; DMAW from it. -/
def dmawState (beat : Nat) : State :=
  let odt := [(0, BitVec.ofNat 128 (2 * 2 ^ 124 + 2 ^ 35 + (2 ^ 17 + 5))), (1, BitVec.ofNat 128 (2 ^ 124 + 2 ^ 17 + 7))]
  { tileAt { store := [(0, bundle beat 0 (3 * 2 ^ 22 + 0 * 2 ^ 12 + 1 * 2 ^ 2))], run := some (0, 1), odt } with
    dck := { devices := 1 } }
theorem witness_SendingOperationsAreDecodedEarly :
    (dmawState 116).undecoded ((dmawState 116).tile 0) = some (0, 116) ∧
      (dmawState 116).sending 0 ((dmawState 116).tile 0) (slotX (((dmawState 116).tile 0).bundleAt 0)) = true ∧
      stays (.bundleDecode 0) (dmawState 117) = true ∧
      (tileAfter (.bundleDecode 0) (dmawState 116)).decoded = [(0, 116, 1, 0)] ∧
      (tileAfter (.bundleDecode 0) (dmawState 116)).ops.map (·.dst) = [(0, 1, 5)] ∧
      (tileAfter (.bundleDecode 0) (dealing (bundle 116 0 0))).decoded = [(0, 116, 0, 0)] := by decide +kernel
/-- An operation of position 0. -/
def op1 (k : OpKind) (deadline : Nat) (tracked : Bool) (reads : Nat) : Op :=
  { id := 1, kind := k, bundle := 3, issue := 5, deadline, tracked, flag := none, reads, started := true }
theorem witness_LateWorkIsCutOff :
    let s := at_ 4095 (tile0 { pips := { run := some ⟨1, 0, 0, 0⟩ }, setups := [⟨0, 4, 1, 4095, [], 0, 3, 1⟩, ⟨0, 4, 1, 4096, [], 0, 3, 2⟩] })
    s.tableBeat 0 = s.lastBeat 0 ∧ stays (.tickEndCutoff 0) (at_ 4094 s) = true ∧
      (tileAfter (.tickEndCutoff 0) s).pips.run = none ∧ (tileAfter (.tickEndCutoff 0) s).setups.map (·.id) = [1] := by decide +kernel
theorem witness_LateWorkIsCutOff_deadline :
    let s := tileAt { ops := [op1 .copy 99 true 1], reqs := [{ cls := 4, seq := 1, row := 7, deadline := 99, since := 0, use := .toOp 1 0 64 0 }] }
    (s.tile 0).op? 1 = some (op1 .copy 99 true 1) ∧ (op1 .copy 99 true 1).deadline < s.now ∧
      (tileAfter (.deadlineExpire 0 1) s).ops = [] ∧ codes (after (.deadlineExpire 0 1) s) (srcTable 0) = [0x5010] ∧
      stays (.deadlineExpire 0 1) (tileAt { ops := [op1 .copy 100 true 1] }) = true := by decide +kernel
/-- The flag word is word 1 of row 2; the operation was poisoned. -/
theorem witness_CompletionFlagIsWritten :
    let o := { op1 .copy 200 false 0 with flag := some ⟨0, 0, 132, 9, 0⟩, poisoned := true }
    let s := tileAt { ops := [o] }
    ((s.tile 0).ops.find? fun o => o.id = 1 && !o.tracked && !o.cut && o.kind != .serve && decide (o.issue < s.stamp 0)) = some o ∧
      s.selfDev = 0 ∧ s.ltileOf 0 = 0 ∧ (tileAfter (.completionFlagWrite 0 1) s).ops = [] ∧
      (tileAfter (.completionFlagWrite 0 1) s).reqs.map (fun r => (r.row, r.use)) = [(2, .flag 1 0x80000009 0 0)] := by decide +kernel
/-- A remote row of another tile, and a landing queue of `n` slots. -/
def landing (n : Nat) (body : SlotBody := .rows 7 1 (rep 128 3#8)) : State :=
  { tileAt { reqs := (List.range n).map fun i => ⟨3, i, 50, 0, 0, .write 0 [] 1, false, false⟩ } with
    xbar := [{ src := 9, op := 4, dst := 0, arrive := 100, deadline := 900, total := 1, flag := none, poisoned := false, body }] }
theorem witness_LandingQueueHoldsThirtyTwoSlots :
    ((landing 31).tile 0).landingCount = 31 ∧ ((landing 32).tile 0).landingCount = 32 ∧
      codes (after (.slotLanding 0) (landing 32)) (srcTable 0) = [0x3007] ∧
      codes (after (.slotLanding 0) (landing 31)) (srcTable 0) = [] ∧
      ((tileAfter (.slotLanding 0) (landing 31)).reqs.filter (·.row = 7)).map (fun r => (r.cls, r.use)) =
        [(3, .writeRx 0 (rep 64 3#8) 9 4)] ∧
      (landing 31).arrived 0 = (landing 31).xbar.head? := by decide +kernel
theorem witness_RingTailPublishesTheOldestPush :
    let s := fun left bad due => tileAt { rings := [(2, { pushes := [(5, 3, left, bad, due), (8, 1, 0, false, 900)] })] }
    stays (.ringPublish 0 2) (s 1 false 100) = true ∧
      ((tileAfter (.ringPublish 0 2) (s 0 false 100)).ring 2).tail = 8 ∧
      ((tileAfter (.ringPublish 0 2) (s 0 false 100)).ring 2).pushes.length = 1 ∧
      codes (after (.ringPublish 0 2) (s 0 false 100)) (srcTable 0) = [] ∧
      codes (after (.ringPublish 0 2) (s 1 false 99)) (srcTable 0) = [0x300c] ∧
      codes (after (.ringPublish 0 2) (s 0 true 100)) (srcTable 0) = [0x300c] := by decide +kernel
/-- A slot waits while another has just landed; a flag word; a read request. -/
theorem witness_LandingQueueHoldsThirtyTwoSlots_others :
    let f : FlagReq := ⟨0, 0, 132, 9, 0⟩
    let u := landing 0 (.rdReq 7 2)
    stays (.slotLanding 0) { landing 0 with tiles := [(0, { (landing 0).tile 0 with landAt := 101 })] } = true ∧
      (tileAfter (.slotLanding 0) (landing 0)).landAt = 101 ∧
      (tileAfter (.slotLanding 0) { landing 0 with xbar := [{ src := 9, op := 0, dst := 0, arrive := 100, deadline := 900, total := 1, flag := none, poisoned := false, body := .flag f }] }).reqs.map
        (fun r => (r.cls, r.row, r.use)) = [(3, 2, .flag 1 9 0 0)] ∧
      (tileAfter (.slotLanding 0) u).ops.map (fun o => (o.n, o.reads, o.dst, o.aux)) = [(2, 2, (0, 9, 7), 4)] := by
  decide +kernel
/-- The beat after the stamped one issues nothing; FILL of one row at row 7 with ctr3; DISP at address 5; LOAD from row 2. -/
theorem witness_BundleIssuesAtItsBeat_slots :
    let fill := { tileAt { store := [(0, bundle 100 0 (1 * 2 ^ 22 + 1 * 2 ^ 12 + 3 * 2 ^ 8))], run := some (0, 1), ctr := [(3, 0x12345)],
                           odt := [(1, BitVec.ofNat 128 (2 ^ 124 + 2 ^ 17 + 7))] } with dck := { devices := 1 } }
    let disp := dealing (BitVec.ofNat 128 (100 * 2 ^ 112 + (2 * 2 ^ 22 + 5 * 2 ^ 11) * 2 ^ 28))
    let load := dealing (BitVec.ofNat 128 (100 * 2 ^ 112 + (1 * 2 ^ 22 + 2 * 2 ^ 12)))
    stays (.bundleIssue 0) (dealing (bundle 99 (1 * 2 ^ 22) 0)) = true ∧
      (tileAfter (.bundleIssue 0) fill).trackers = 1 ∧
      (tileAfter (.bundleIssue 0) fill).reqs.map (fun r => (r.cls, r.row, r.use)) =
        [(4, 7, .write 0 (List.replicate 16 [0x45#8, 0x23#8, 0x01#8, 0#8]).flatten 1)] ∧
      (tileAfter (.bundleIssue 0) disp).pips.pc = 5 ∧
      (tileAfter (.bundleIssue 0) disp).pips.run.map (·.mask) = some (2 ^ 64 - 1) ∧
      ((tileAfter (.bundleIssue 0) load).engine false).load.map (fun l => (l.src, l.issue)) = some (128, 100) := by decide +kernel
/-- RING1 takes four words, its reserved bits staying 0; ring 4 and on are not of the row. -/
theorem witness_SetupWritesAllItsTargets_rings :
    let s := tileAt { setups := [⟨1, 0, 1, 99, [(16, 7), (20, 0xff#8), (21, 0xff#8), (22, 0xff#8), (23, 0xff#8), (24, 3)], 1, 3, 1⟩] }
    (tileAfter (.setupWrite 0) s).ring 1 = { base := 7, cfg := 0x80fdffff, head := 3, tail := 0, reserve := 0, pushes := [] } ∧
      (tileAfter (.setupWrite 0) s).ring 4 = {} := by decide +kernel
/-- Entries of another kind: the code is kept until the issue beat; a missing device: the tracker is held as well. -/
theorem witness_SendingOperationsAreDecodedEarly_refused :
    let s := tileAt { store := [(0, bundle 116 0 (3 * 2 ^ 22))], run := some (0, 1) }
    let u := { dmawState 116 with dck := { devices := 0 } }
    s.undecoded (s.tile 0) = some (0, 116) ∧ s.sending 0 (s.tile 0) (slotX ((s.tile 0).bundleAt 0)) = true ∧
      (tileAfter (.bundleDecode 0) s).decoded = [(0, 116, 0, 0x300a)] ∧
      (tileAfter (.bundleDecode 0) u).decoded = [(0, 116, 1, 0x3001)] := by decide +kernel
/-- A flag of tile 9's operation 4, whose rows have all been acknowledged. -/
theorem witness_CompletionFlagIsWritten_remote :
    let x : RxOp := { src := 9, op := 4, total := 1, done := 1, bad := false, flag := some ⟨0, 0, 132, 9, 0⟩, deadline := 200, acked := true }
    let s := tileAt { rx := [x] }
    (takeFirst (fun (x : RxOp) => x.op == 4 && x.acked && x.status == 0 && decide (x.src < svcSrc)) (s.tile 0).rx) = some (x, []) ∧
      (tileAfter (.completionFlagWrite 0 4) s).rx = [] ∧
      (tileAfter (.completionFlagWrite 0 4) s).reqs.map (fun r => (r.row, r.use)) = [(2, .flag 1 9 0 0)] := by decide +kernel
/-- An ODT entry of a KIND. -/
def entry (kind low : Nat) : BitVec 128 := BitVec.ofNat 128 (kind * 2 ^ 124 + low)
/-- A RANGE entry: ROW and NROWS. -/
def range (row n : Nat) : BitVec 128 := entry 1 (row + n * 2 ^ 17)
/-- Position 0 at beat 100, about to issue one bundle with these slots C, X, V and M, its ODT as listed. -/
def deals (c x v m : Nat) (odt : List (BitVec 128)) (t : Tile := {}) : State :=
  { tileAt { t with store := [(0, BitVec.ofNat 128 (100 * 2 ^ 112 + c * 2 ^ 84 + x * 2 ^ 56 + v * 2 ^ 28 + m))], run := some (0, 1),
                    odt := odt.zipIdx.map fun e => (e.2, e.1), ctr := [(3, 0x12345), (4, 2)] } with dck := { devices := 1 } }
/-- The tile and the codes that the issue leaves. -/
def issued (s : State) : Tile := tileAfter (.bundleIssue 0) s
def issueCodes (s : State) : List Nat := codes (after (.bundleIssue 0) s) (srcTable 0)
/-- A word of slot C, X, V or M: its code and the rest. -/
def slot (op low : Nat) : Nat := op * 2 ^ 22 + low

/-- COP: ctr2 := ctr3 + ctr4; CRD of the tick (selector 0) and of a ring's count. -/
theorem witness_BundleIssuesAtItsBeat_counters :
    (issued (deals (slot 3 (2 * 2 ^ 18 + 3 * 2 ^ 14 + 4 * 2 ^ 10)) 0 0 0 [])).counter 2 = 0x12347 ∧
      (let s := deals (slot 6 (2 * 2 ^ 18 + 1 * 2 ^ 12)) 0 0 0 []
       some ((issued s).counter 2) = s.crd 0 (s.tile 0) 1 0) ∧
      (issued (deals (slot 9 0) 0 0 0 [])).next = 1 := by decide +kernel
/-- CLD of row 7, of a row that is not mapped, and of an entry that is no RANGE. -/
theorem witness_BundleIssuesAtItsBeat_cld :
    let s := fun e => deals (slot 5 (2 * 2 ^ 18 + 0 * 2 ^ 8 + 1 * 2 ^ 4)) 0 0 0 [e]
    (issued (s (range 7 1))).clds = [{ d := 2, w := 1, due := 131, value := none, bundle := 0, id := 1 }] ∧
      (issued (s (range 7 1))).reqs.map (fun r => (r.cls, r.row, r.use)) = [(4, 7, .toCld 1)] ∧
      issueCodes (s (range mappedRows 1)) = [0x3001] ∧ (issued (s (range mappedRows 1))).clds.map (·.value) = [some 0] ∧
      issueCodes (s (entry 2 7)) = [0x300a] ∧ (issued (s (entry 2 7))).clds = [] := by decide +kernel
/-- SKIP of five bundles always, and when ctr3 is 0; REP of a body of one bundle twice, of none, and of no LOOP entry. -/
theorem witness_BundleIssuesAtItsBeat_flow :
    skipCond 0 0 = true ∧ (issued (deals (slot 7 (2 * 2 ^ 18 + 0 * 2 ^ 15 + 5)) 0 0 0 [])).next = 6 ∧
      (issued (deals (slot 7 (3 * 2 ^ 18 + 1 * 2 ^ 15 + 5)) 0 0 0 [])).next = 1 ∧
      (let s := fun e => deals (slot 8 0) 0 0 0 [e]
       (issued (s (entry 5 (1 + 2 * 2 ^ 8 + 9 * 2 ^ 24)))).reps = [{ start := 1, len := 1, iters := 2, iter := 0, period := 9, ictr := none }] ∧
         (issued (s (entry 5 (3 + 0 * 2 ^ 8)))).next = 4 ∧ (issued (s (entry 5 (3 + 0 * 2 ^ 8)))).reps = [] ∧
         issueCodes (s (entry 1 0)) = [0x300a]) := by decide +kernel
/-- SETUP of ODT entries 8 to 11 from row 7; from an entry that is no RANGE. -/
theorem witness_BundleIssuesAtItsBeat_setup :
    let s := fun e => deals (slot 10 (0 * 2 ^ 20 + 8 * 2 ^ 10 + 0)) 0 0 0 [e]
    (issued (s (range 7 1))).setups =
        [{ what := 0, first := 8, nrows := 1, due := 132, data := [], got := 0, bundle := 0, id := 1 }] ∧
      (issued (s (range 7 1))).reqs.map (fun r => (r.cls, r.row, r.use)) = [(4, 7, .toSetup 1 0)] ∧
      issueCodes (s (entry 2 7)) = [0x300a] ∧ (issued (s (entry 2 7))).setups = [] := by decide +kernel
/-- What slot X reads: its kind and its count of rows, or the code. -/
def xOf (x : Nat) (odt : List (BitVec 128)) (t : Tile := {}) : Except Nat (Option (OpKind × Nat × Nat × Nat) × Nat) :=
  let s := deals 0 x 0 0 odt t
  match s.xRead 0 0 x 100 100 4000 (s.tile 0) with
  | .ok (o, c) => .ok (o.map fun o => (o.kind, o.n, o.arg, o.arg2), c)
  | .error c => .error c
/-- The code of a read that fails, or 0. -/
def xCode (x : Nat) (odt : List (BitVec 128)) (t : Tile := {}) : Nat := match xOf x odt t with | .error c => c | .ok _ => 0
/-- What the read finds. -/
def xFound (x : Nat) (odt : List (BitVec 128)) (t : Tile := {}) : Option (OpKind × Nat × Nat × Nat) :=
  match xOf x odt t with | .ok (o, 0) => o | _ => none
/-- A ring of the tile: enabled, PROD and CONS its own dealer, SIZE 8, four entries to come. -/
def ownRing : Tile := { rings := [(1, { cfg := 0x80000008, head := 4, tail := 6, reserve := 6 })] }
theorem witness_SlotXReadsItsOperands :
    xFound 0 [] = none ∧ xCode 0 [] = 0 ∧
      xFound (slot 1 (0 + 3 * 2 ^ 8)) [range 7 2] = some (.fill, 2, 7, 0x12345) ∧
      xFound (slot 2 (0 + 1 * 2 ^ 2)) [range 7 2, range 20 2] = some (.copy, 2, 7, 20) ∧
      (xFound (slot 3 (0 + 1 * 2 ^ 2)) [entry 2 (2 ^ 17 + 5 + 2 * 2 ^ 35), range 7 2]).map (·.1) = some .dmaw ∧
      (xFound (slot 4 (0 + 1 * 2 ^ 2)) [entry 2 (2 ^ 17 + 5 + 2 * 2 ^ 35), range 7 2]).map (·.1) = some .dmar ∧
      xFound (slot 5 (1 * 2 ^ 8)) [range 7 2] ownRing = some (.push, 2, 1, 7) ∧
      xFound (slot 6 (1 * 2 ^ 8)) [range 7 2] ownRing = some (.pop, 2, 1, 7) ∧
      (xFound (slot 7 (0 + 1 * 2 ^ 2)) [entry 6 (0 + 1 * 2 ^ 10 + 1 * 2 ^ 18), range 7 2]).map (·.1) = some .pushr ∧
      (xFound (slot 8 (0 + 1 * 2 ^ 2)) [entry 3 (0 + 5 * 2 ^ 6), range 7 2]).map (·.1) = some .csend ∧
      (xFound (slot 9 (0 + 1 * 2 ^ 2)) [entry 3 (0 + 5 * 2 ^ 6 + 2 ^ 18), range 7 2]).map (·.1) = some .crecv ∧
      (xFound (slot 10 0) [entry 4 (33 + 9 * 2 ^ 39)]).map (·.1) = some .flagw ∧
      (xFound (slot 11 77) [range 7 2]).map (·.1) = some .dgst := by decide +kernel
/-- Every tracker taken; entries of a wrong kind; a COPY onto itself. -/
theorem witness_SlotXReadsItsOperands_codes :
    let full : Tile := { ops := (List.range 1024).map fun i => { op1 .copy 900 true 1 with id := i + 1 } }
    xCode (slot 1 0) [range 7 2] full = 0x3009 ∧ xCode (slot 1 0) [entry 2 0] = 0x300a ∧ xCode (slot 3 4) [range 7 2, range 7 2] = 0x300a ∧
      xCode (slot 8 4) [range 7 2, range 7 2] = 0x300a ∧ xCode (slot 2 4) [range 7 2, range 8 2] = 0x3006 := by decide +kernel
/-- A read that fails; a ring of another user with RET to ctr9; a device without a route; a FILL and a DGST of no rows. -/
theorem witness_SlotXBeginsAtItsBeat_ends :
    let bad := deals 0 (slot 1 0) 0 0 [entry 2 0]
    let ret := deals 0 (slot 5 (1 * 2 ^ 8 + 9 * 2 ^ 4 + 2 ^ 2)) 0 0 [range 7 2]
    let far := { deals 0 (slot 3 (1 * 2 ^ 2)) 0 0 [entry 2 (2 ^ 25 + 5 + 2 * 2 ^ 35), range 7 2] with dck := { devices := 2 } }
    (100 = bad.bundleStamp ((bad.tile 0).atStart 100) 0 [] ∧ bad.stamp 0 = 100) ∧
      (issueCodes bad, (issued bad).ops) = ([0x300a], []) ∧
      (issueCodes ret, (issued ret).ops, (issued ret).results) = ([0x3003], [], [{ d := 9, due := 131, value := some 0, bundle := 0, id := 0 }]) ∧
      issueCodes far = [0x4002] ∧ (issued far).ops = [] ∧
      (issued (deals 0 (slot 1 0) 0 0 [range 7 0])).ops = [] ∧ issueCodes (deals 0 (slot 1 0) 0 0 [range 7 0]) = [] ∧
      (issued (deals 0 (slot 11 77) 0 0 [range 7 0])).digests.length = 1 := by decide +kernel
/-- COPY, PUSH with RET to ctr9, DMAR from tile 1, CRECV, CSEND with PP on a tile with a poisoned slot, FLAGW here and to tile 1. -/
theorem witness_SlotXBeginsAtItsBeat_begins :
    (let t := issued (deals 0 (slot 2 (1 * 2 ^ 2)) 0 0 [range 7 2, range 20 2])
     t.reqs.map (fun r => (r.cls, r.row, r.use)) = [(4, 20, .toOp 1 0 64 0), (4, 21, .toOp 1 0 64 64)]) ∧
      (let t := issued (deals 0 (slot 5 (1 * 2 ^ 8 + 9 * 2 ^ 4 + 2 ^ 2)) 0 0 [range 7 2] ownRing)
       t.reqs.map (fun r => (r.row, r.use)) = [(7, .toOp 1 0 64 0)] ∧
         t.results = [{ d := 9, due := 131, value := none, bundle := 0, id := 1 }]) ∧
      ((issued (deals 0 (slot 4 (1 * 2 ^ 2)) 0 0 [entry 2 (2 ^ 17 + 5 + 2 * 2 ^ 35), range 7 2])).outq.map
        fun e => (e.1, e.2.2.2.op, e.2.2.2.body)) = [(3, 1, .rdReq 5 2)] ∧
      (issued (deals 0 (slot 9 (1 * 2 ^ 2)) 0 0 [entry 3 (5 * 2 ^ 6 + 2 ^ 18), range 7 2])).crecvs = [(0, 5, 1, 0)] ∧
      (issued (deals 0 (slot 8 (1 * 2 ^ 2 + 2)) 0 0 [entry 3 (5 * 2 ^ 6), range 7 2] { poison := 1 })).ops.map (·.poisoned) = [true] ∧
      (issued (deals 0 (slot 10 0) 0 0 [entry 4 (33 + 9 * 2 ^ 39)])).reqs.map (fun r => (r.cls, r.row, r.use)) = [(4, 2, .flag 1 9 0 1)] ∧
      ((issued (deals 0 (slot 10 0) 0 0 [entry 4 (2 ^ 21 + 33 + 9 * 2 ^ 39)])).outq.map fun e => (e.1, e.2.2.2.body)) =
        [(3, .flag ⟨0, 1, 132, 9, 0⟩)] := by decide +kernel
/-- A DMAW that decode has taken at beat 84 begins at its issue beat 100; a code that decode found is raised there. -/
theorem witness_SlotXBeginsAtItsBeat_decoded :
    let at100 := fun (s : State) => at_ 100 (after (.bundleDecode 0) (at_ 84 s))
    let good := at100 (deals 0 (slot 3 (1 * 2 ^ 2)) 0 0 [entry 2 (2 ^ 17 + 5 + 2 * 2 ^ 35), range 7 2])
    let bad := at100 (deals 0 (slot 3 0) 0 0 [range 7 2])
    (good.tile 0).decoded = [(0, 100, 1, 0)] ∧ (issued good).ops.map (fun o => (o.kind, o.started)) = [(.dmaw, true)] ∧
      (issued good).decoded = [] ∧
      (bad.tile 0).decoded = [(0, 100, 0, 0x300a)] ∧ issueCodes bad = [0x300a] ∧ (issued bad).ops = [] := by decide +kernel
theorem witness_EnginesBeginAtTheirBeat_dispatch :
    let s := fun v e t => deals 0 0 v 0 [e] t
    let run : Tile := { pips := { run := some ⟨1, 0, 0, 0⟩ } }
    (issued (s (slot 1 0) (entry 0xe (5 + 6 * 2 ^ 11)) {})).pips.run.map (·.mask) = some 6 ∧
      (issued (s (slot 1 0) (entry 0xe (5 + 6 * 2 ^ 11)) {})).pips.pc = 5 ∧
      (issued (s (slot 1 0) (entry 0xe 5) {})).pips = {} ∧ issueCodes (s (slot 1 0) (entry 0xe 5) {}) = [] ∧
      issueCodes (s (slot 2 0) 0 run) = [0x5013] ∧ issueCodes (s (slot 1 0) (entry 1 5) {}) = [0x300a] := by decide +kernel
/-- LOAD with a swap that has not cleared; SLOAD; PASS of one row: good, on an entry of another kind, past the store, too soon. -/
theorem witness_EnginesBeginAtTheirBeat_passes :
    let m := fun w l t => deals 0 0 0 w l t
    let p := fun rows acc => [entry 7 (rows * 2 ^ 2 + 2 ^ 23 + acc * 2 ^ 47), entry 8 (2 ^ 30)]
    let sp := fun rows acc => [entry 0xa (rows * 2 + acc * 2 ^ 36)]
    issueCodes (m (slot 1 0) [] { quad := { swapClear := 101 } }) = [0x5013] ∧
      ((issued (m (slot 2 (3 * 2 ^ 12)) [] {})).side.load.map fun l => (l.src, l.issue)) = some (192, 100) ∧
      (issued (m (slot 3 0) (p 1 9) {})).quad.passes.map (fun y => (y.rows, y.b0, y.acc)) = [(1, 101, [9, 0, 0, 0])] ∧
      issueCodes (m (slot 3 0) [entry 1 0] {}) = [0x300a] ∧ issueCodes (m (slot 3 0) (p 2 1023) {}) = [0x300b] ∧
      issueCodes (m (slot 3 0) (p 1 9) { quad := (issued (m (slot 3 0) (p 1 9) {})).quad }) = [0x5013] ∧
      (issued (m (slot 4 0) (sp 1 9) {})).side.passes.map (fun y => (y.rows, y.b0, y.acc)) = [(1, 101, [9])] ∧
      issueCodes (m (slot 4 0) [entry 1 0] {}) = [0x300a] ∧ issueCodes (m (slot 4 0) (sp 2 1023) {}) = [0x300b] := by decide +kernel
/-- DRAIN, ACCM and SHUF: good, busy, on an entry of another kind; a DRAIN past the store. -/
theorem witness_EnginesBeginAtTheirBeat_tracked :
    let m := fun w l t => deals 0 0 0 w l t
    let dr := fun row n => [entry 0xb (row + n * 2 ^ 12 + 20 * 2 ^ 27)]
    let co := [entry 0xc (30 + 2 ^ 34 + 9 * 2 ^ 41 + 2 ^ 51)]
    let sh := [entry 0xd (1 * 2 ^ 4 + 1 * 2 ^ 11 + 7 * 2 ^ 18 + 20 * 2 ^ 35)]
    ((issued (m (slot 5 0) (dr 3 2) {})).drain.map fun d => (d.op, d.srow, d.count, d.dst)) = some (1, 3, 2, 1280) ∧
      issueCodes (m (slot 5 0) (dr 1023 2) {}) = [0x300b] ∧ issueCodes (m (slot 5 0) [entry 1 0] {}) = [0x300a] ∧
      issueCodes (m (slot 5 0) (dr 3 2) { drain := (issued (m (slot 5 0) (dr 3 2) {})).drain }) = [0x5013] ∧
      ((issued (m (slot 6 0) co {})).accm.map fun a => (a.op, a.nsrc, a.count, a.acc, a.row0)) = some (1, 1, 1, 9, 30) ∧
      issueCodes (m (slot 6 0) [entry 1 0] {}) = [0x300a] ∧
      issueCodes (m (slot 6 0) co { accm := (issued (m (slot 6 0) co {})).accm }) = [0x5013] ∧
      ((issued (m (slot 7 0) sh {})).shuf.map (·.1)) = some 1 ∧ issueCodes (m (slot 7 0) [entry 1 0] {}) = [0x300a] ∧
      issueCodes (m (slot 7 0) sh { shuf := some (1, 0) }) = [0x5013] := by decide +kernel
/-- A push past its deadline whose last piece is granted and on its way to its bank loses no row. -/
theorem witness_RingTailPublishesTheOldestPush_on_way :
    let b : Banked := { wait := 1, cls := 4, seq := 1, row := 7, use := .writePush 2 5 0 [] 1 }
    let s := tileAt { rings := [(2, { pushes := [(5, 3, 1, false, 99)] })], bank := [b] }
    (s.tile 0).piecesOnWay 2 5 = 1 ∧ codes (after (.ringPublish 0 2) s) (srcTable 0) = [] ∧
      ((tileAfter (.ringPublish 0 2) s).ring 2).tail = 8 := by decide +kernel
/-- A transfer past its deadline whose rows are all granted stays. -/
theorem witness_LateWorkIsCutOff_granted :
    stays (.deadlineExpire 0 1) (tileAt { ops := [op1 .copy 99 true 1] }) = true := by decide +kernel

/-! ### The matrix unit and the tally -/

/-- A forward INT8 pass of one row: weight (0, 0) is 3, element 0 of the row is 5, so column 0's term is 15. -/
def pass (first : Bool) : Pass :=
  { id := 0, bundle := 3, mode := .fwd, rows := 1, afmt := .int8, strict := false, first, width := 0, half := 0, b0 := 10, s := 1,
    rho := 1, swap := false, plane := some { fmt := .int8, elems := [(0, 3)] }, acc := [0], streams := [(true, 0, 0, 0)], xo := 0,
    masked := [], cfmt := .fp32, samples := [(0, 5#8 :: rep 31 0#8)], done := [], terms := [] }
/-- Position 0 with that pass in the quad; accumulator row 0 starts with 2^31 - 1. -/
def passState (first : Bool) : State :=
  { tileAt { quad := { passes := [pass first] } } with acc := [(0, 0xff), (1, 0xff), (2, 0xff), (3, 0x7f)], accBad := [(0, true)] }
theorem witness_FootWritesItsTerms :
    ((pass true).writes 0 0 = true ∧ (pass true).outputs = 64 ∧ (pass true).writeBeat false 0 0 = 44 ∧ (passState true).stamp 0 = 100) ∧
      (pass true).colTerms 0 0 0 = [15] ∧
      (after (.footWrite 0 0 0 0 none) (passState true)).accEntry 0 false 0 0 = 15 ∧
      (after (.footWrite 0 0 0 0 none) (passState true)).halfValid 0 0 = true ∧
      -- INT32 sums saturate, and a later pass leaves the half-slot's valid bit
      (after (.footWrite 0 0 0 0 none) (passState false)).accEntry 0 false 0 0 = 0x7fffffff ∧
      (after (.footWrite 0 0 0 0 none) (passState false)).halfValid 0 0 = false ∧
      (after (.footWrite 0 0 0 0 (some 16)) (passState true)).accEntry 0 false 0 0 = 16 := by decide +kernel
/-- A LOAD of 2,048 bytes, the last byte here or not yet. -/
def loading (n : Nat) : State :=
  tileAt { quad := { load := some ⟨0, .int8, 5, 2048, 7#8 :: rep (n - 1) 0#8, 3⟩ } }
theorem witness_ShadowPlaneTakesAWholeTile :
    (((loading 2047).tile 0).engine false).load.isSome = true ∧
      ((tileAfter (.loadComplete 0 false) (loading 2047)).quad.load).isSome = true ∧
      (tileAfter (.loadComplete 0 false) (loading 2048)).quad.load = none ∧
      (tileAfter (.loadComplete 0 false) (loading 2048)).quad.shadow.fmt = .int8 ∧
      Map.get 0 (tileAfter (.loadComplete 0 false) (loading 2048)).quad.shadow.elems 0 = 7 := by decide +kernel
/-- The row's check failed: column 0's term reads 16 where the reference gives 15. -/
def captureOf (term : Nat) (loc : Option Nat) : Capture :=
  ⟨pass true, false, 0, 0, term :: rep 63 0, 0, 15, 0, term, 0, 0, loc, false, none, 0⟩
theorem witness_MismatchInvalidatesItsRows :
    let m : Mismatch := ⟨90, captureOf 16 (some 0), [0, 1], 0⟩
    let s := fun c => tileAt { mismatches := [m], capture := c }
    let busy := { captureOf 16 none with busy := true }
    (takeFirst (fun (m : Mismatch) => decide (m.due ≤ (s none).stamp 0)) ((s none).tile 0).mismatches).isSome = true ∧
      (after (.tallyMismatch 0) (s none)).halfValid 0 1 = false ∧ (after (.tallyMismatch 0) (s none)).halfValid 0 2 = true ∧
      codes (after (.tallyMismatch 0) (s none)) (srcTable 0) = [0x8001] ∧
      (tileAfter (.tallyMismatch 0) (s none)).capture = some { m.capture with since := 100 } ∧
      codes (after (.tallyMismatch 0) (s (some (captureOf 16 none)))) (srcTable 0) = [0x8001, 0x8005] ∧
      codes (after (.tallyMismatch 0) (s (some busy))) (srcTable 0) = [0x8001] := by decide +kernel
/-- A = R: tally suspect. A = 16 and the row passes with R = 15: array suspect. -/
theorem witness_VerdictFollowsTheReference :
    let s := fun c => at_ 289 (tile0 { capture := some c })
    (captureOf 16 (some 0)).elements = 1 ∧
      stays (.tallyVerdict 0) (at_ 288 (s (captureOf 16 (some 0)))) = true ∧
      codes (after (.tallyVerdict 0) (s (captureOf 15 (some 0)))) (srcTable 0) = [0x8002] ∧
      codes (after (.tallyVerdict 0) (s (captureOf 16 (some 0)))) (srcTable 0) = [0x8003] ∧
      ((after (.tallyVerdict 0) (s (captureOf 16 (some 0)))).table 0).arrayV = 1 ∧
      -- a second term is wrong as well: the corrected row still fails
      codes (after (.tallyVerdict 0) (s { captureOf 16 (some 0) with terms := 16 :: 9 :: rep 62 0 })) (srcTable 0) = [0x8004] ∧
      (after (.tallyVerdict 0) (s { captureOf 16 (some 0) with terms := 16 :: 9 :: rep 62 0 })).tly.abrupt = [0] := by decide +kernel
theorem witness_CaptureIsStoredOnce :
    let c := { captureOf 16 (some 0) with verdict := some 2 }
    let s := tileAt { capture := some c }
    let u := after (.captureCopy 0) s
    stays (.captureCopy 0) (tileAt { capture := some (captureOf 16 (some 0)) }) = true ∧
      s.mgc.flash.stored = [] ∧ Flash.freePattern [] = 0 ∧
      u.mgc.flash.patterns.map (·.1) = [0] ∧ u.mgc.flashWrites = 1 ∧ (u.tile 0).capture = none ∧ codes u srcMgc = [] ∧
      -- the write does not verify: its bank is left invalid
      (let v := after (.captureCopy 0) { s with mgc := { s.mgc with flashBad := [0] } }
       v.mgc.flash.patterns = [] ∧ (v.tile 0).capture = none ∧ codes v srcMgc = [0x9009]) := by decide +kernel
/-- One finished digest, with room and with 4,096 records waiting. -/
def digesting (tail : Word) (told : Bool) : State :=
  { tileAt { digests := [[5, 6, 1, 2, 0, 9, 8, 100]] } with tly := { tail, lostTold := told } }
theorem witness_DigestsFillTheirBuffer :
    (after (.digestPost 0) (digesting 4095 false)).tly.tail = 4096 ∧
      readCells (after (.digestPost 0) (digesting 4095 false)).tly.buf (32 * 4095) 2 = [5, 0] ∧
      (after (.digestPost 0) (digesting 4096 false)).tly.tail = 4096 ∧ (after (.digestPost 0) (digesting 4096 false)).tly.lost = 1 ∧
      codes (after (.digestPost 0) (digesting 4096 false)) srcMgc = [0x8010] ∧
      codes (after (.digestPost 0) (digesting 4096 true)) srcMgc = [] := by decide +kernel
/-- Two digests due in one beat: that of the lower logical tile goes first. -/
theorem witness_DigestsFillTheirBuffer_order :
    let s := { tileAt {} with tiles := [(0, { digests := [[5, 6, 1, 1, 0, 9, 8, 100]] }), (1, { digests := [[5, 6, 1, 0, 0, 9, 8, 100]] })] }
    (takeFirst (s.postsNext 0) (s.tile 0).digests = none) ∧ stays (.digestPost 0) s = true ∧
      (takeFirst (s.postsNext 1) (s.tile 1).digests).isSome = true ∧ (after (.digestPost 1) s).tly.tail = 1 := by decide +kernel

/-! ### Substitution, probes and the scrub -/

/-- Seat 2 of table 0 is moving to the joker since tick 0, and its copy is whole; row 1 starts with 7. -/
def moving (abrupt : Bool) : State :=
  { table0 { subst := some ⟨2, 2, abrupt, true, 0, true, copyItems, [], false⟩, recovering := abrupt } with
    mem := [(12 * 2 ^ 23 + 64, 7), (12 * 2 ^ 23 + 128, 8)], rcu := { count := 4096 } }
theorem witness_JokerTakesTheSeat :
    (moving false).beat = 0 ∧ (moving false).tick = 1 ∧
      (let t := after (.substitutionSwitch 0) (moving false)
       t.readByte 12 64 = 7 ∧ (t.table 0).jokerFor = 2 ∧ bit (t.table 0).retired 2 = true ∧ codes t (srcTable 0) = [0x0010]) ∧
      (let t := after (.recoveryComplete 0 [.row 1]) (moving true)
       t.readByte 12 64 = 0 ∧ t.readByte 12 128 = 8 ∧ (t.table 0).recovering = false ∧ (t.table 0).jokerState = 1) ∧
      (after (.substitutionCopyTimeout 0) (at_ (65536 * 4096) (moving false))).tly.abrupt = [2] ∧
      stays (.substitutionCopyTimeout 0) (at_ (65535 * 4096) (moving false)) = true := by decide +kernel
/-- The copy of that seat is at row 5, which the mirror has not written whole: the row is asked for. -/
theorem witness_JokerTakesTheSeat_copy :
    let x : Subst := ⟨2, 2, false, true, 0, true, 5, [(5, 0, 8)], false⟩
    x.mirrored 5 = false ∧ x.has 5 7 = true ∧
      ((((table0 { subst := some x }).copyRow 0).tile 2).reqs.map fun r => (r.cls, r.row, r.use)) = [(5, 5, .toCopy 0)] ∧
      (let s := { moving true with tiles := [(2, { ctr := [(3, 9), (4, 8)] })] }
       (s.flipped 2 = []) ∧ (let t := after (.recoveryComplete 0 [.counter 3]) s
         (t.tile 12).counter 3 = 0 ∧ (t.tile 12).counter 4 = 8 ∧ codes t srcMgc = [0x8014, 0x8006])) := by decide +kernel
theorem witness_ProbesReportAndRetire :
    (after (.probeGo 0x1000c) (running State.reset)).tly.probeQueue = [12] ∧
      (after (.probeGo 0x100cf) State.reset).tly.probePos = 207 ∧
      (let s := { running State.reset with tables := [(0, { phase := 2 })] }
       s.mayProbe 3 = false ∧ (after (.probeGo 0x10003) s).tly.probeStatus = 0x8016 ∧
         (after (.probeGo 0x10003) s).tly.probeFail = 0xFFFF) ∧
      (let s := { State.reset with tly := { probeQueue := [12, 3], probeStatus := 1 } }
       (after (.probeComplete ⟨none, []⟩) s).tly.probeStatus = 0 ∧ (after (.probeComplete ⟨none, []⟩) s).tly.probeQueue = [3] ∧
         codes (after (.probeComplete ⟨some 0x101, []⟩) s) srcMgc = [0x8011] ∧
         ((after (.probeComplete ⟨some 0x101, []⟩) s).table 0).jokerState = 2 ∧
         (let t := after (.probeComplete ⟨some 0x101, [1]⟩) s
          codes t srcMgc = [0x9004] ∧ t.tly.probeStatus = 0 ∧ (t.table 0).jokerState = 0)) ∧
      -- a captured pattern that the flash does not hold fails none, one that it holds does
      (let f := fun l => { State.reset with tly := { probeQueue := [12] }, mgc := { flash := { patterns := l } } }
       codes (after (.probeComplete ⟨some 3, []⟩) (f [])) srcMgc = [] ∧
         codes (after (.probeComplete ⟨some 3, []⟩) (f [(3, bankBytes 1 [1#8], [])])) srcMgc = [0x8011]) ∧
      (after .probePeriodic State.reset).tly.probeQueue.length = 16 := by decide +kernel
theorem witness_TrimsDecayAndScrubsCount :
    let s := fun last => { running (at_ (2 ^ 24 * 4096) State.reset) with tly := { trim := [(5, 2)], lastEvent := last } }
    ((s []).tick = 2 ^ 24 ∧ (s []).deckRuns = true) ∧
      (after (.trimDecay 5) (s [])).tly.trim = [(5, 1)] ∧ stays (.trimDecay 5) (s [(5, 1)]) = true ∧
      (let t := fun h => after (.scrub [⟨0x200008, 3, 1, .pf⟩] h) State.reset
       (t []).tly.fixed = 1 ∧ (t []).tly.passes = 1) ∧
      (bit (unlatched 0x200008) 3 = false ∧ bit (unlatched 0x10) 16 = true ∧
        (after (.scrub [⟨0x10, 16, 1, .pf⟩] []) State.reset).tly.fixed = 0) ∧
      (let t := after (.scrub [] [.tile 5 1 [(9, 4)]]) State.reset
       codes t (srcTable 0) = [0x8008] ∧ t.tly.abrupt = [5] ∧ t.tly.flips = [(1, 5, 9, 4)]) ∧
      ((after (.scrub [] [.port 7 [(9, 4)]]) State.reset).port 7).state = .fault := by decide +kernel

/-! ### The scratchpad's host side and the circuits -/

/-- A ring of position 0: enabled, SIZE 4, PROD and CONS the host (2), HEAD 10 and TAIL 12. -/
def ringState (cfg : Word) : State := tileAt { rings := [(1, { cfg, head := 10, tail := 12 })] }
/-- The host's own rings of that kind: count from 2 to 4 for TAIL, up to 2 for HEAD. -/
theorem witness_RingCounterWrites :
    let s := ringState 0x80a00004
    (s.hif.accs = [] ∧ s.reachesWindow .pf 0 = true ∧ ((s.tile 0).ring 1).enabled = true ∧ ((s.tile 0).ring 1).size = 4 ∧
      ((s.tile 0).ring 1).prod = 2 ∧ ((s.tile 0).ring 1).cons = 2) ∧
      ((tileAfter (.ringTailWrite false host 0 1 14) s).ring 1).tail = 14 ∧
      ((tileAfter (.ringTailWrite false host 0 1 12) s).ring 1).tail = 12 ∧
      codes (after (.ringTailWrite false host 0 1 15) s) (srcTable 0) = [0x3004] ∧
      codes (after (.ringTailWrite false host 0 1 11) s) (srcTable 0) = [0x3004] ∧
      ((tileAfter (.ringHeadWrite false host 0 1 12) s).ring 1).head = 12 ∧
      codes (after (.ringHeadWrite false host 0 1 13) s) (srcTable 0) = [0x3004] ∧
      ((tileAfter (.ringTailWrite true host 0 1 14) s).ring 1).tail = 12 ∧
      codes (after (.ringTailWrite true host 0 1 14) s) (srcTable 0) = [] ∧
      ((tileAfter (.ringHeadWrite false host 0 1 12) (ringState 0x00a00004)).ring 1).head = 10 := by decide +kernel
/-- Rows 1 and 2 of position 0, through the host window, with no deck running. -/
theorem witness_Bar2RowsGoAsClassH :
    let rq : Requester := ⟨.pf, 0⟩
    (State.reset.hif.accs = [] ∧ bar2Decode .pf 126 = some (0, 0, 126) ∧ State.reset.sramOff = false ∧ State.reset.serves 0 = some 0 ∧
      State.reset.mayAccess 0 1 true 1 = true) ∧
      (tileAfter (.bar2Write rq 126 [1, 2, 3, 4]) State.reset).reqs.map (fun r => (r.cls, r.row, r.use)) =
        [(5, 1, .fromWin 0 62 [1, 2]), (5, 2, .fromWin 0 0 [3, 4])] ∧
      (tileAfter (.bar2Read rq 126 4) State.reset).reqs.map (fun r => (r.cls, r.row, r.use)) =
        [(5, 1, .toWin 0 0), (5, 2, .toWin 0 64)] ∧
      -- a deck runs and no handle grants the host anything
      (running State.reset).mayAccess 0 1 true 1 = false ∧
      codes (after (.bar2Write rq 126 [1]) (running State.reset)) (srcTable 0) = [0x3002] ∧
      -- a retired seat: nothing serves it
      (table0 { retired := 1 }).serves 0 = none ∧
      (after (.bar2Read rq 126 2) (table0 { retired := 1 })).out = [.readData .pf 126 [0, 0]] ∧
      (after (.bar2Write rq 126 [1]) (table0 { retired := 1 })).tiles = [] := by decide +kernel
theorem witness_WaitLimitEndsHostRows :
    let s := at_ 65536 (tile0 { reqs := [⟨5, 7, 3, 0, 0, .drop, false, false⟩, ⟨5, 7, 4, 0, 0, .drop, false, false⟩, ⟨5, 8, 5, 0, 1, .drop, false, false⟩] })
    s.hif.accs = [] ∧ stays (.hostWaitLimit 0) (at_ 65535 s) = true ∧ codes (after (.hostWaitLimit 0) s) srcMgc = [0x3008] ∧
      (tileAfter (.hostWaitLimit 0) s).reqs.map (·.row) = [5] := by decide +kernel
/-- Port 0's receive table schedules a slot for tile 0 at beat 100; a CRECV of one slot into row 9 claims it, or none. -/
def circuit (hold : List Held) (claimed : Bool) : State :=
  { tileAt { crecvs := if claimed then [(0, 4, 1, 0)] else [], ops := [{ op1 .crecv 200 true 0 with nslots := 1, n := 2, arg2 := 9 }] } with
    ports := [(0, { recvTbl := [(4, BitVec.ofNat 64 (100 + 2 ^ 16))], relAt := 100, hold })],
    tables := [(0, { role := some 0, prog := some 0 })] }
/-- A slot held for release at count 100: bytes 0 to 127. -/
def heldSlot (poison void : Bool) : Held := ⟨100, 0, 4, poison, void, (List.range 128).map (BitVec.ofNat 8)⟩
theorem witness_CircuitSlotsAreClaimed :
    let run := fun l c => after (.circuitSlotRelease 0) (circuit l c)
    (((circuit [] true).port 0).recvTbl.find? (fun e => ((circuitE e.2.toNat).slotAt 100).isSome &&
      (circuit [] true).liveAt (circuitE e.2.toNat) 0)).isSome = true ∧
      codes (run [] false) (srcTable 0) = [0x5011] ∧ codes (run [heldSlot false false] false) (srcTable 0) = [0x4003] ∧
      codes (run [heldSlot false true] false) (srcTable 0) = [] ∧ ((run [] false).port 0).relAt = 101 ∧
      codes (run [] true) (srcTable 0) = [0x5011] ∧ ((run [] true).tile 0).poison = 1 ∧
      codes (run [heldSlot true false] true) (srcTable 0) = [0x4001] ∧ ((run [heldSlot true false] true).tile 0).poison = 1 ∧
      ((run [heldSlot false false] true).tile 0).reqs.map (fun r => (r.cls, r.row)) = [(3, 9), (3, 10)] ∧
      ((run [heldSlot false false] true).tile 0).reqs.map (fun r => match r.use with | .write _ l _ => l.headD 0 | _ => 1) = [0, 64] := by
  decide +kernel
/-- A write of the same requester has a row to come: the ring writes wait behind it. -/
theorem witness_RingCounterWrites_wait :
    let a : HostAcc := { id := 3, rq := host, what := .write 0 64 [7], addr := 64, reply := none, started := true, left := 1 }
    let s := { ringState 0x80a00004 with hif := { accs := [a], fetched := 4 } }
    (after (.ringTailWrite false host 0 1 14) s).hif.accs.length = 2 ∧ ((tileAfter (.ringTailWrite false host 0 1 14) s).ring 1).tail = 12 ∧
      (after (.ringHeadWrite false host 0 1 12) s).hif.accs.length = 2 := by decide +kernel
/-- A void slot counts; one that finds 32 slots waiting is lost. -/
theorem witness_CircuitSlotsAreClaimed_more :
    let run := fun s => after (.circuitSlotRelease 0) s
    let full := fun s : State => { s with tiles := [(0, { s.tile 0 with
      reqs := (List.range 32).map fun i => ⟨3, i, 50, 0, 0, .write 0 [] 1, false, false⟩ })] }
    (((run (circuit [heldSlot false true] true)).tile 0).op? 1).map (·.slots) = some 1 ∧
      ((full (circuit [heldSlot false false] true)).tile 0).landingCount = 32 ∧
      codes (run (full (circuit [heldSlot false false] true))) (srcTable 0) = [0x3007] := by decide +kernel
/-- Before the HIF is released nothing of a requester's has an effect; an address that decodes to no memory reads zeros. -/
theorem witness_RingCounterWrites_closed :
    let s := closed (ringState 0x80a00004)
    stays (.ringTailWrite false host 0 1 14) s = true ∧ stays (.ringHeadWrite false host 0 1 12) s = true ∧
      stays (.bar2Write host 126 [1]) s = true ∧ stays (.bar2Read host 126 4) s = true ∧
      bar2Decode .pf (208 * 2 ^ 23) = none ∧ stays (.bar2Write host (208 * 2 ^ 23) [1]) State.reset = true ∧
      (after (.bar2Read host (208 * 2 ^ 23) 2) State.reset).out = [.readData .pf (208 * 2 ^ 23) [0, 0]] := by decide +kernel

/-! ### The optical ports -/

/-- Port 0 after a command. -/
def portAfter (c : Instr) (s : State) : Port := (after c s).port 0
/-- A state whose port 0 is in a state of its own, its laser input in order or not. -/
def portIn (st : PortState) (ok : Bool := true) : State :=
  { port0 { state := st, enable := true } with lnk := { lasers := [(0, { ok })] } }
theorem witness_PortsComeUpInOrder :
    (portAfter (.portEnable 0) (portIn .off)).state = .train ∧ (portAfter (.portEnable 0) (portIn .off false)).state = .dark ∧
      (portAfter (.portEnable 0) (portIn .fault)).state = .fault ∧
      (portAfter (.portDisable 0) (portIn .up)).state = .off ∧ (portAfter (.portDisable 0) (portIn .up)).enable = false ∧
      (portAfter (.portRetrain 0) (portIn .fault)).state = .train ∧ stays (.portRetrain 0) (port0 { state := .up }) = true ∧
      (portAfter (.trainSettled 0) (portIn .train)).state = .lock ∧
      stays (.trainSettled 0) (port0 { state := .train, peerTraining := true }) = true ∧
      codes (after (.trainTimeout 0) (at_ 280000000 (portIn .lock))) (srcPort 0) = [0x400c] ∧
      stays (.trainTimeout 0) (at_ 279999999 (portIn .lock)) = true := by decide +kernel
/-- +8.0 dBm is 800 hundredths; one less is too little. -/
theorem witness_LightBringsPortsUpAndDown :
    (portAfter (.laserLightGain 0 800) (portIn .dark false)).state = .train ∧
      (portAfter (.laserLightGain 0 799) (portIn .train)).state = .dark ∧
      (portAfter (.laserLightGain 0 799) (portIn .up)).last = 0x4007 ∧
      codes (after (.laserLightGain 0 0xf00) (portIn .up)) (srcPort 0) = [0x4007] ∧
      (portAfter (.laserLightGain 0 799) (portIn .fault)).state = .fault ∧
      (portAfter (.laserLightGain 1 799) (portIn .up)).state = .up ∧
      (portAfter (.lightLoss 0) (portIn .up)).state = .train ∧
      (portAfter (.lightLoss 0) (port0 { state := .up, auto := false })).state = .fault ∧
      codes (after (.lightLoss 0) (portIn .up)) (srcPort 0) = [0x4007] ∧ (portAfter (.lightLoss 0) (portIn .lock)).state = .lock := by
  decide +kernel
/-- A frame with a good header, made by this model's own FRAME_SEND, and one whose MARK is wrong. -/
def goodFrame : List Byte := (State.reset.frameHeader 0) ++ rep 10164 0#8
theorem test_frame_header : goodHeader (goodFrame.take 116) = true ∧ goodHeader (rep 116 0#8) = false := by decide +kernel
theorem witness_FramesAreWholeAndCounted :
    (match (after (.frameSend 0) (portIn .lock)).out with
      | [.frame 0 msg _] => decide (msg.length = 10280) && goodHeader (msg.take 116) && decide (msg.take 2 = [0xc3, 0x5a])
      | _ => false) = true ∧
      (match (after (.frameSend 0) (portIn .train)).out with
      | [.training 0 _] => true
      | _ => false) = true ∧
      stays (.frameSend 0) (portIn .fault) = true ∧ stays (.frameReceive 0 ⟨goodFrame, []⟩) (portIn .dark) = true := by decide +kernel
/-- Sixteen wrong symbols in codeword 3: one more than the code corrects. -/
def spoilt : List SymbolError := (List.range 16).map fun i => ⟨3, i, 1⟩
theorem witness_FramesAreWholeAndCounted_receive :
    let s := fun st good bad => port0 { state := st, good, badFrames := bad }
    (portAfter (.frameReceive 0 ⟨goodFrame, []⟩) (s .lock 63 0)).state = .ident ∧
      (portAfter (.frameReceive 0 ⟨goodFrame, []⟩) (s .lock 62 0)).good = 63 ∧
      (portAfter (.frameReceive 0 ⟨goodFrame, spoilt⟩) (s .lock 62 0)).good = 0 ∧
      (portAfter (.frameReceive 0 ⟨goodFrame, spoilt⟩) (s .lock 62 0)).cUncorr = 1 ∧
      (portAfter (.frameReceive 0 ⟨[], []⟩) (s .up 0 3)).state = .train ∧
      codes (after (.frameReceive 0 ⟨[], []⟩) (s .up 0 3)) (srcPort 0) = [0x4007] ∧
      (portAfter (.frameReceive 0 ⟨[], []⟩) (s .up 0 2)).state = .up := by decide +kernel
/-- The expected peer is port 9 of device 5, of this device's grade. -/
def identState : State := { port0 { state := .ident, peerDev := 5, peerPort := 9, peerValid := true, seq := 7 } with lnk := { dev := 3, group := 2, pos := 1 } }
theorem witness_PeersAreIdentifiedAndWatched :
    (after (.identSend 0) identState).out = [.ident 0 ⟨3, 2, 1, 0, 1⟩] ∧
      stays (.identSend 0) (after (.identSend 0) identState) = true ∧
      (portAfter (.identReceive 0 ⟨5, 0, 0, 9, 1⟩) identState).state = .up ∧
      (portAfter (.identReceive 0 ⟨5, 0, 0, 9, 1⟩) identState).seq = 0 ∧
      codes (after (.identReceive 0 ⟨5, 0, 0, 8, 1⟩) identState) (srcPort 0) = [0x400b] ∧
      stays (.identReceive 0 ⟨5, 0, 0, 9, 1⟩) (port0 { state := .ident }) = true ∧
      (let s := at_ 8192 (port0 { state := .up, replay := [⟨0, 0, true, true, []⟩] })
       codes (after (.ackTimeout 0) s) (srcPort 0) = [0x4005] ∧ (portAfter (.ackTimeout 0) s).state = .fault ∧
         stays (.ackTimeout 0) (at_ 8191 s) = true) ∧
      (let k : Packet := ⟨1, 15, 0, 1, 0, 0, 0, 0, []⟩
       let s := at_ 65536 (port0 { state := .up, vc0 := { txq := [(0, 0, k), (0, 1, k)] } })
       codes (after (.packetWaitLimit 0) s) (srcPort 0) = [0x400a] ∧ (portAfter (.packetWaitLimit 0) s).vc0.txq.length = 1 ∧
         stays (.packetWaitLimit 0) (at_ 65535 s) = true) := by decide +kernel
/-- A packet of 3 blocks at the head of a VC, for tile 1, byte 448. -/
def packetState (vc1 : Bool) (k : Packet) : State :=
  let v : Vc := { rxq := [(3, k)] }
  { port0 (if vc1 then { state := .up, vc1 := v } else { state := .up, vc0 := v }) with dck := { devices := 1 } }
/-- A packet from device 5 with tag operation 4 of tile 2. -/
def packet (ptype addr : Nat) (payload : List Byte) : Packet := ⟨0, 15, 5, ptype, addr, 900, 2 + 4 * 256, 0, payload⟩
/-- The crossbar slots that a command leaves. -/
def slots (c : Instr) (s : State) : List (Nat × Nat × Nat × Nat × SlotBody) :=
  (after c s).xbar.map fun x => (x.src, x.op, x.dst, x.arrive, x.body)
/-- Tile 1, byte 448: row 7. -/
def addr1 : Nat := 2 ^ 23 + 448
theorem witness_MemoryPacketsGoToTheirTile :
    (packetState false (packet 1 addr1 [])).packetTile addr1 = some (1, 448) ∧
      slots (.rwrReceive 0) (packetState false (packet 1 addr1 (rep 192 7#8))) =
        [(1538, 4, 1, 6, .rows 7 2 (rep 128 7#8)), (1538, 4, 1, 7, .rows 9 1 (rep 64 7#8 ++ rep 64 0#8))] ∧
      slots (.rrdReceive 0) (packetState false (packet 3 (addr1 + 1) [])) = [(1538, 4, 1, 6, .rdReq 7 2)] ∧
      (portAfter (.rrdReceive 0) (packetState false (packet 3 addr1 []))).vc0.freed = 3 ∧
      stays (.rwrReceive 0) (packetState false (packet 3 addr1 [])) = true := by decide +kernel
theorem witness_MemoryPacketsGoToTheirTile_push :
    slots (.rpushReceive 0) (packetState false (packet 5 (2 ^ 23 + 35) ([64, 0, 0, 0] ++ rep 32 9#8))) =
        [(1538, 4, 1, 6, .push 3 2 64 (rep 32 9#8))] ∧
      slots (.rflagReceive 0) (packetState false (packet 2 addr1 [9, 0, 0, 0, 1, 0, 0, 0, 1, 0, 0, 0])) =
        [(1538, 4, 1, 6, .flag ⟨0, 1, 448, 9, 1⟩)] := by decide +kernel
/-- A reply and an acknowledgement for operation 4 of tile 2, and its status 0x5010. -/
theorem witness_MemoryPacketsGoToTheirTile_replies :
    let o := { op1 .dmar 900 true 0 with id := 4, taken := 1 }
    let s := fun k => { packetState true k with tiles := [(2, { ops := [o] })] }
    ((s (packet 4 64 [])).tile 2).byTracker 4 = some o ∧
      (after (.rrspReceive 0) (s (packet 4 64 (rep 64 5#8)))).xbar.map (fun x => (x.src, x.op, x.dst, x.body)) =
        [(1536, 4, 2, .rdReply 1 1 (rep 64 5#8 ++ rep 64 0#8))] ∧
      ((after (.rackReceive 0) (s { packet 6 64 [] with status := 0x3007 })).tile 2).ops = [] ∧
      codes (after (.rackReceive 0) (s { packet 6 64 [] with status := 0x3007 })) (srcTable 0) = [0x3007] := by decide +kernel
theorem witness_TelemetryIsCopiedAndQueued :
    let s := { port0 { cCirc := 3, cPkt := 4 } with lnk := { ten := true } }
    let t := after .telemetryWindowEnd s
    (s.beat = 0 ∧ s.tick % 2 ^ s.lnk.wlog = 0) ∧ (t.port 0).cCirc = 0 ∧ nth 0 (t.port 0).cmap 0 = 3 ∧ nth 0 (t.port 0).cmap 1 = 4 ∧
      t.lnk.tele.map (fun x => (x.2.2.1, x.2.2.2.1, x.2.2.2.2.length)) = [(0, 0, 1024)] ∧
      stays .telemetryWindowEnd (at_ 1 s) = true ∧ stays .telemetryWindowEnd (at_ 4096 { s with lnk := { wlog := 1 } }) = true ∧
      (after .telemetryWindowEnd { s with lnk := {} }).lnk.tele = [] ∧
      (after .telemetryWindowEnd { s with lnk := { ten := true, dest := 5 } }).lnk.tele = [] ∧
      (after (.teleReceive 0) (port0 { state := .up, vc2 := { rxq := [(1, packet 0x30 77 [1])] } })).lnk.tele.map (·.2.2) = [(77, 5, [1])] := by
  decide +kernel
/-- Without AUTO a running port that loses its laser input goes to FAULT. -/
theorem witness_LightBringsPortsUpAndDown_no_auto :
    (portAfter (.laserLightGain 0 799) (port0 { state := .up, auto := false })).state = .fault ∧
      (portAfter (.laserLightGain 0 799) (portIn .up)).state = .dark := by decide +kernel
/-- A port in TRAIN or IDENT counts and stays; on a loopback port with an empty fibre nothing arrives; a frame on it does. -/
theorem witness_FramesAreWholeAndCounted_elsewhere :
    let w : State := { State.reset with ports := [(45, { state := .lock, good := 63, wire := [.frame goodFrame] })] }
    (portAfter (.frameReceive 0 ⟨goodFrame, spoilt⟩) (portIn .ident)).cUncorr = 1 ∧
      (portAfter (.frameReceive 0 ⟨goodFrame, []⟩) (portIn .train)).state = .train ∧
      stays (.frameReceive 45 ⟨goodFrame, []⟩) State.reset = true ∧
      ((after (.frameReceive 45 ⟨[], []⟩) w).port 45).state = .ident ∧ stays (.identReceive 45 ⟨5, 0, 0, 9, 1⟩) State.reset = true := by
  decide +kernel
/-- The packet of VC 0 that is being sent and has no credit. -/
theorem witness_PeersAreIdentifiedAndWatched_sending :
    let s := at_ 65536 (port0 { state := .up, vc0 := { txb := [⟨0, 0, true, true, []⟩] } })
    codes (after (.packetWaitLimit 0) s) (srcPort 0) = [0x400a] ∧ (portAfter (.packetWaitLimit 0) s).vc0.txb = [] := by decide +kernel
/-- A reply of three rows; one whose operation is gone; a good acknowledgement; a completion flag that stays with its rows. -/
theorem witness_MemoryPacketsGoToTheirTile_more :
    let o := { op1 .dmar 900 true 0 with id := 4, taken := 1, awaiting := 2 }
    let s := fun k => { packetState true k with tiles := [(2, { ops := [o] })] }
    (after (.rrspReceive 0) (s (packet 4 64 (rep 192 5#8)))).xbar.map (fun x => (x.arrive, x.body)) =
        [(6, .rdReply 1 2 (rep 128 5#8)), (7, .rdReply 3 1 (rep 64 5#8 ++ rep 64 0#8))] ∧
      (after (.rrspReceive 0) (packetState true (packet 4 64 (rep 64 5#8)))).xbar = [] ∧
      ((after (.rackReceive 0) (s (packet 6 64 []))).tile 2).ops.map (·.awaiting) = [1] ∧
      (let y : RxOp := { src := 1538, op := 4, total := 1, done := 1, bad := false, flag := none, deadline := 900 }
       let f := { packetState false (packet 2 addr1 ([9, 0, 0, 0, 1, 0, 0, 0, 2, 0, 0, 0, 1, 0, 0, 0, 3, 0, 0, 0])) with tiles := [(1, { rx := [y] })] }
       ((after (.rflagReceive 0) f).tile 1).rx.map (fun y => (y.total, y.flag)) = [(3, some ⟨0, 1, 448, 9, 1⟩)]) := by decide +kernel
/-- Slots of port 0 still cross: the next goes behind them. A reply to the SVC fills the rows of its read. -/
theorem witness_MemoryPacketsGoToTheirTile_order :
    let k : Packet := { packet 3 addr1 [] with src := 5 }
    let old : XSlot := { src := 1, op := 1, port := 1, dst := 1, arrive := 20, deadline := 0, total := 0, flag := none, poisoned := false, body := .rdReq 0 1 }
    let r : SvcRead := { id := 4, key := .park 9, far := [(5, 2, 7, 64), (5, 2, 8, 128)] }
    (after (.rrdReceive 0) { packetState false k with xbar := [old] }).xbar.map (·.arrive) = [20, 21] ∧
      (let t := after (.rrspReceive 0) { packetState true { packet 4 (2 * 2 ^ 23 + 448) (rep 64 5#8) with tag := 255 + 4 * 256 } with svc := { reads := [r] } }
       t.svc.reads.map (fun x => (x.far, readCells x.buf 63 2)) = [([(5, 2, 8, 128)], [0, 5])] ∧ t.xbar = []) := by decide +kernel
/-- A packet that waits at a port in IDENT goes out once its peer is there. -/
theorem witness_PeersAreIdentifiedAndWatched_waiting :
    let k : Packet := ⟨1, 15, 0, 1, 0, 0, 0, 0, []⟩
    let s := { identState with ports := [(0, { identState.port 0 with vc0 := { txq := [(0, 0, k)] } })] }
    (portAfter (.identReceive 0 ⟨5, 0, 0, 9, 1⟩) s).vc0.txq = [(0, 0, k)] ∧
      s.firstFree (s.port 0) = true ∧ (portAfter (.identSend 0) s).linkq.length = 1 := by decide +kernel

/-! ### The host interface -/

/-- A state whose command ring 0 of the physical function is as given. -/
def cr0 (r : CmdRing) : State := State.reset.setCr .pf 0 r
/-- A state whose record ring 16 of the physical function is as given. -/
def rr16 (r : RecRing) : State := State.reset.setRr .pf 16 r
/-- HEAD 5, TAIL 8, 64 entries; and an unfinished BAR2 write before the doorbell. -/
theorem witness_DoorbellsKeepTheirRings :
    let s := cr0 { enable := true, head := 5, tail := 8 }
    let u := rr16 { enable := true, head := 5, prod := 8 }
    (fnOk .pf = true ∧ s.hif.accs = []) ∧
      ((after (.crTailWrite host 0 8) s).cr .pf 0).tail = 8 ∧ ((after (.crTailWrite host 0 69) s).cr .pf 0).tail = 69 ∧
      codes (after (.crTailWrite host 0 70) s) srcMgc = [0x2001] ∧ codes (after (.crTailWrite host 0 7) s) srcMgc = [0x2001] ∧
      ((after (.crTailWrite host 0 7) s).cr .pf 0).tail = 8 ∧
      ((after (.rrHeadWrite host 16 8) u).rr .pf 16).head = 8 ∧ codes (after (.rrHeadWrite host 16 9) u) srcMgc = [0x2001] ∧
      (let w := { s with hif := { s.hif with fetched := 1, accs := [⟨0, ⟨.pf, 0⟩, .write 0 64 [1], 64, none, true, 1, []⟩] } }
       ((after (.crTailWrite host 0 9) w).cr .pf 0).tail = 8 ∧ (after (.crTailWrite host 0 9) w).hif.accs.length = 2) := by decide +kernel
theorem witness_RingsRestartWhenEnabled :
    let s := cr0 { head := 5, tail := 8 }
    let on := cr0 { enable := true, head := 5, tail := 8, sizeLog := 7 }
    let t := fun cfg s => (after (.hostRingEnable .pf false 0 cfg) s).cr .pf 0
    ((t 0x80000010 s).sizeLog, (t 0x80000010 s).tail, (t 0x80000010 s).enable) = (16, 0, true) ∧
      (t 0x80000011 s).sizeLog = 6 ∧ (t 0x80000005 s).sizeLog = 6 ∧ (t 0x00000006 s).tail = 8 ∧
      ((t 0x80000010 on).sizeLog, (t 0x80000010 on).tail) = (7, 8) ∧ (t 0 on).enable = false ∧
      (let r := (after (.hostRingEnable .pf true 16 0xc0070014) (rr16 { prod := 9 })).rr .pf 16
       (r.sizeLog, r.prod, r.holdoff, r.inten) = (20, 0, 7, true)) ∧
      ((after (.hostRingEnable .pf true 16 0xc0070015) (rr16 { prod := 9 })).rr .pf 16).sizeLog = 6 := by decide +kernel
/-- A command's 64 bytes: opcode, window, FLAGS, TAG 5, one parameter byte at 24. -/
def command (op win flags p : Nat) : List Byte :=
  [BitVec.ofNat 8 op, BitVec.ofNat 8 win, BitVec.ofNat 8 flags, 0, 0, 0, 0, 0, 5, 0, 0, 0, 0, 0, 0, 0] ++ rep 8 0#8 ++
    (BitVec.ofNat 8 p :: rep 39 0#8)
/-- The completion that a fetched command leaves, if any: status, KIND, TAG. -/
def fetched (cmd : Option (List Byte)) : List (Nat × Nat × Nat) :=
  ((after (.commandFetch .pf 0 cmd ⟨[], true⟩) (cr0 { enable := true, tail := 1 })).queue (qKey 0 srcMgc)).recs.map
    fun r => (r.status, r.kind, r.tag)
theorem witness_CommandsAreCheckedInOrder :
    let s := cr0 { enable := true, tail := 1 }
    (s.completionRoom .pf 0 = true ∧ (s.cr .pf 0).run = none ∧ (s.cr .pf 0).head ≠ (s.cr .pf 0).tail) ∧
      fetched none = [(0x2004, 0, 0)] ∧ fetched (some (command 9 0 1 0)) = [(0x2002, 0, 5)] ∧
      fetched (some (command 0 0 2 0)) = [(0x2002, 0, 5)] ∧ fetched (some (command 0 0 0 0)) = [(0, 0, 5)] ∧
      fetched (some (command 0 0 1 0)) = [] ∧
      ((after (.commandFetch .pf 0 (some (command 0 0 0 0)) ⟨[], true⟩) s).cr .pf 0).head = 1 ∧
      stays (.commandFetch .pf 0 (some (command 0 0 0 0)) ⟨[], true⟩) (cr0 { tail := 1 }) = true ∧
      stays (.commandFetch .pf 0 (some (command 0 0 0 0)) ⟨[], true⟩) (cr0 { enable := true }) = true ∧
      -- a SERVE of three descriptors waits for them
      ((after (.commandFetch .pf 0 (some (command 8 0 0 3)) ⟨[], true⟩) s).cr .pf 0).run.map (fun x => (x.op, x.left, x.tag)) =
        some (8, 3, 5) := by decide +kernel
theorem witness_CommandsAreCheckedInOrder_window :
    let s := cr0 { enable := true, tail := 1 }
    (s.follower 3 = none ∧ s.completionRoom .pf 3 = true) ∧
      ((after (.commandFetch .pf 0 (some (command 0 3 1 0)) ⟨[], true⟩) s).queue (qKey 3 srcMgc)).recs.map (fun r => (r.status, r.tag)) =
        [(0x2003, 5)] ∧
      ((after (.commandFetch (.vf 1) 0 (some (command 3 0 1 0)) ⟨[], true⟩) (State.reset.setCr (.vf 1) 0 { enable := true, tail := 1 })).queue
        (qKey 0 1)).recs.map (fun r => (r.status, r.tag)) = [(0x2002, 5)] ∧
      (let f := { s with hif := { s.hif with folValid := [(3, true)], folDev := [(3, 7)] } }
       f.follower 3 = some 7 ∧
         ((after (.commandFetch .pf 0 (some (command 0 3 1 0)) ⟨[], true⟩) f).cr .pf 0).run.map (fun x => (x.op, x.win)) = some (0, 3)) := by
  decide +kernel
/-- An HDMA_OUT of four bytes whose rows have finished, or not. -/
def hdma (left flags status : Nat) : State := cr0 { enable := true, run := some ⟨7, 0, flags, 5, status, left, 4096, 4, [(2, 9)], 2, 0, []⟩ }
theorem witness_HdmaCompletesWithItsRows :
    stays (.hdmaComplete .pf 0) (hdma 1 0 0) = true ∧
      (after (.hdmaComplete .pf 0) (hdma 0 0 0)).out = [.hostWrite 4096 [9, 0, 0, 0]] ∧
      codes (after (.hdmaComplete .pf 0) (hdma 0 0 0)) srcMgc = [0] ∧ codes (after (.hdmaComplete .pf 0) (hdma 0 1 0)) srcMgc = [] ∧
      codes (after (.hdmaComplete .pf 0) (hdma 0 1 0x3002)) srcMgc = [0x3002] ∧
      ((after (.hdmaComplete .pf 0) (hdma 0 0 0)).cr .pf 0).run = none := by decide +kernel
/-- Record ring 16 at its 63rd place, a KIND 2 and perhaps a KIND 3 record of the MGC waiting. -/
def publishing (r : RecRing) (kinds : List Nat) : State :=
  { rr16 r with hif := { (rr16 r).hif with queues := [(128, { recs := kinds.map fun k => ⟨0x2001, k, 128, 0, 0, 0, 0, 0⟩ })] } }
theorem witness_RecordsArePublishedInOrder :
    let r : RecRing := { enable := true, inten := true, vector := 3, base := 4096, pidx := 8192, prod := 63, head := 60, holdoff := 9 }
    let hosts := fun s => (after (.recordPublish .pf 16) s).out.map fun o => match o with
      | .hostWrite a l => (a, l.length)
      | _ => (0, 0)
    (((publishing r [2, 2]).takeBatch ((publishing r [2, 2]).ringQueues .pf 16) r.room).2.length = 2 ∧ (publishing r [2]).hif.leadValid = false) ∧
      -- the first record at place 63, the second at place 0; PROD; the message
      hosts (publishing r [2, 2]) = [(4096 + 32 * 63, 32), (4096, 32), (8192, 4), (0, 0)] ∧
      ((after (.recordPublish .pf 16) (publishing r [2, 2])).rr .pf 16).prod = 65 ∧
      hosts (publishing { r with lastMsg := some 0 } [2]) = [(4096 + 32 * 63, 32), (8192, 4)] ∧
      ((after (.recordPublish .pf 16) (publishing { r with lastMsg := some 0 } [2])).rr .pf 16).heldMsg = true ∧
      hosts (publishing { r with lastMsg := some 0 } [3]) = [(4096 + 32 * 63, 32), (8192, 4), (0, 0)] ∧
      hosts (publishing { r with inten := false } [3]) = [(4096 + 32 * 63, 32), (8192, 4)] ∧
      hosts (publishing { r with head := 63, prod := 127 } [3]) = [] ∧ stays (.recordPublish .pf 16) (publishing r []) = true := by
  decide +kernel
theorem witness_RecordsArePublishedInOrder_holdoff :
    let r : RecRing := { enable := true, inten := true, vector := 3, heldMsg := true, lastMsg := some 0, holdoff := 0 }
    (rr16 r).holdoffOver r = true ∧ (after (.holdoffExpire .pf 16) (rr16 r)).out = [.msix .pf 3] ∧
      (let m := { rr16 r with hif := { (rr16 r).hif with msix := [(15, 1)] } }
       (after (.holdoffExpire .pf 16) m).out = [] ∧ (after (.holdoffExpire .pf 16) m).hif.pba = [3]) ∧
      stays (.holdoffExpire .pf 16) (rr16 { r with holdoff := 1 }) = true := by decide +kernel
theorem witness_MissingFollowersReadZeros :
    State.reset.follower 5 = none ∧
      (after (.followerAccess .pf 5 (.bar2Read 64 2)) State.reset).out = [.readData .pf 64 [0, 0]] ∧
      (after (.followerAccess .pf 5 (.bar2Write 64 [1])) State.reset).out = [] ∧
      (after (.followerAccess .pf 5 (.bar2Write 64 [1])) State.reset).hif.accs = [] ∧
      (let s := { at_ 44800 State.reset with hif := { folReqs := [⟨4, 3, .pf, 64, 2, false, 0⟩] } }
       (after (.followerTimeout 4) s).out = [.readData .pf 64 [0, 0]] ∧ codes (after (.followerTimeout 4) s) srcMgc = [0x2006] ∧
         (after (.followerTimeout 4) s).hif.folTimeout = true ∧ stays (.followerTimeout 4) (at_ 44799 s) = true) := by decide +kernel
/-- A lead whose follower in window 3 is device 5; a packet of it at the head of a VC of port 0, which leads to it. -/
def leadState (vc1 : Bool) (ptype sub : Nat) (addr : Nat) (data : List Byte) : State :=
  let k : Packet := ⟨0, 15, 5, ptype, addr, 0, 0, 0, hostHeader sub 0 9 data.length ++ data⟩
  let v : Vc := { rxq := [(1, k)] }
  { port0 (if vc1 then { state := .up, vc1 := v } else { state := .up, vc0 := v }) with
    lnk := { route := [(5, 0x40)] },
    hif := { folValid := [(3, true)], folDev := [(3, 5)], folReqs := [⟨9, 3, .pf, 64, 4, ptype == 0x12, 0⟩] } }
theorem witness_RepliesAndRecordsReachTheLead :
    let s := leadState true 0x12 0 64 [1, 2, 3, 4]
    s.fromFollower ⟨0, 15, 5, 0x12, 64, 0, 0, 0, hostHeader 0 0 9 4⟩ = true ∧
      (after (.regrspReceive 0) s).out = [.readData .pf 64 [1, 2, 3, 4]] ∧ (after (.regrspReceive 0) s).hif.folReqs = [] ∧
      (after (.hostReadData 0) (leadState true 0x20 3 64 [5, 6])).out = [.readData .pf 64 [5, 6, 0, 0]] ∧
      ((after (.hostRecord 0) (leadState true 0x20 5 0 ([1, 0x20, 2, 128] ++ rep 28 0#8))).queue (qKey 3 128)).recs.map
        (fun r => (r.status, r.kind, r.win)) = [(0x2001, 2, 3)] := by decide +kernel
theorem witness_FollowersReachHostMemory :
    (after (.hostWrite 0) (leadState false 0x20 8 4096 [7, 8])).out = [.hostWrite 4096 [7, 8]] ∧
      (leadState false 0x20 6 4096 [7, 8]).routeUp 5 = some 0 ∧
      (((after (.hostReadRequest 0 ⟨[1, 2], true⟩) (leadState false 0x20 6 4096 [7, 8])).port 0).vc1.txq.map
        fun x => (x.2.2.dst, x.2.2.status, x.2.2.payload)) = [(5, 0, hostHeader 7 0 9 2 ++ [1, 2])] ∧
      (((after (.hostReadRequest 0 ⟨[1], true⟩) (leadState false 0x20 6 4096 [7, 8])).port 0).vc1.txq.map fun x => x.2.2.status) = [0x2004] := by
  decide +kernel
/-- A follower of device 5; a packet of it, or of device 6, at the head of a VC of port 0. -/
def folState (vc1 : Bool) (src ptype sub addr : Nat) (data : List Byte) (n : Nat := data.length) : State :=
  let k : Packet := ⟨0, 15, src, ptype, addr, 0, 0, 0, hostHeader sub 0 9 n ++ data⟩
  let v : Vc := { rxq := [(1, k)] }
  { port0 (if vc1 then { state := .up, vc1 := v } else { state := .up, vc0 := v }) with
    lnk := { route := [(5, 0x40)], dev := 4 }, hif := { leadDev := 5, leadValid := true, hostReads := [(9, 0, 0, 0)] } }
theorem witness_FollowerServesItsLead :
    ((after (.regrdReceive 0) (folState false 5 0x10 0 0x300000 [])).port 0).vc1.txq.map (fun x => (x.2.2.ptype, x.2.2.dst, x.2.2.payload)) =
      [(0x12, 5, hostHeader 0 0 9 0 ++ [4, 0, 0, 0])] ∧
      publishes .pf 0x300000 = false ∧ (after (.regwrReceive 0) (folState false 5 0x11 0 0x300000 [7, 0, 0, 0])).lnk.dev = 7 ∧
      (tileAfter (.hostBar2Write 0) (folState false 5 0x20 1 126 [1, 2, 3])).reqs.map (fun r => (r.cls, r.row)) = [(5, 1), (5, 2)] ∧
      (tileAfter (.hostBar2Read 0) (folState false 5 0x20 2 126 [] 3)).reqs.map (fun r => (r.cls, r.row, r.use)) =
        [(5, 1, .toWin 0 0), (5, 2, .toWin 0 64)] ∧
      (after (.hostData 0) (folState true 5 0x20 7 0 [1])).hif.hostReads = [] ∧
      ((after (.hostCommand 0) (folState false 5 0x20 4 0 (command 8 0 0 3))).cr .pf 4).run.map (fun x => (x.op, x.left)) = some (8, 3) ∧
      codes (after (.hostData 0) (folState true 6 0x20 7 0 [1])) srcMgc = [0x2005] := by decide +kernel
theorem witness_RegisterFieldsActByType :
    (let s := { State.reset with tly := { lost := 7 } }
     (after (.registerReadClear false host ⟨0x500418, false⟩) s).out = [.readData .pf 0x500418 [7, 0, 0, 0]] ∧
       (after (.registerReadClear false host ⟨0x500418, false⟩) s).tly.lost = 0 ∧ stays (.registerWrite false host 0x500418 9) s = true ∧
       stays (.registerWrite false host 0x500414 9) s = true) ∧
      (let s := table0 { tallyV := 1, arrayV := 2, tileV := 3, unchecked := 4 }
       (after (.registerReadClear false ⟨.vf 0, 0⟩ ⟨0x500300, false⟩) s).out = [.readData (.vf 0) 0x500300 [1, 2, 3, 4]] ∧
         ((after (.registerReadClear false ⟨.vf 0, 0⟩ ⟨0x500300, false⟩) s).table 0).tallyV = 0 ∧
         (after (.registerReadClear false ⟨.vf 1, 0⟩ ⟨0x500300, false⟩) s).out = [.readData (.vf 1) 0x500300 [0, 0, 0, 0]]) ∧
      (after (.registerWrite false host 0x300000 0x10405) State.reset).lnk.dev = 5 ∧
      (after (.registerWrite false host 0x300000 0x10405) State.reset).lnk.group = 1 ∧
      (after (.registerWrite false host 0x300000 0x10405) State.reset).lnk.pos = 1 ∧
      stays (.registerWrite false host 0x300000 0x10405) (running State.reset) = true ∧
      (after (.registerWrite false host 0x100004 1024) State.reset).dck.devices = 1024 ∧
      stays (.registerWrite false host 0x100004 1025) State.reset = true := by decide +kernel
/-- Both doorbells wait behind the requester's unfinished write. -/
theorem witness_DoorbellsKeepTheirRings_wait :
    let w := { rr16 { enable := true, head := 5, prod := 8 } with
      hif := { (rr16 { enable := true, head := 5, prod := 8 }).hif with
        fetched := 1, accs := [⟨0, ⟨.pf, 0⟩, .write 0 64 [1], 64, none, true, 1, []⟩] } }
    (after (.rrHeadWrite host 16 8) w).hif.accs.length = 2 ∧ ((after (.rrHeadWrite host 16 8) w).rr .pf 16).head = 5 := by decide +kernel
/-- DECK_START with no deck; a busy ring. -/
theorem witness_CommandsAreCheckedInOrder_more :
    let s := cr0 { enable := true, tail := 1 }
    fetched (some (command 3 0 0 0)) = [(0x2007, 0, 5)] ∧
      (after (.commandFetch .pf 0 (some (command 3 0 0 0)) ⟨[], true⟩) s).dck.result = 0x2007 ∧
      stays (.commandFetch .pf 0 (some (command 0 0 0 0)) ⟨[], true⟩) (hdma 1 0 0) = true := by decide +kernel
/-- The MGC's queue of window 0 holds `n` records. -/
def fullQueue (n : Nat) : State :=
  { State.reset with hif := { queues := [(128, { recs := List.replicate n ⟨0, 0, 128, 0, 0, 0, 0, 0⟩ })] } }
theorem fullQueue_room (n : Nat) (h : queueMax ≤ n) :
    (fullQueue n).completionRoom .pf 0 = false ∧ queueMax ≤ ((fullQueue n).queue (qKey 0 srcMgc)).recs.length := by
  have e : (fullQueue n).queue (qKey 0 srcMgc) = { recs := List.replicate n ⟨0, 0, 128, 0, 0, 0, 0, 0⟩ } := rfl
  have f : qKey 0 (fnSrc .pf) = qKey 0 srcMgc := rfl
  constructor
  · simp only [State.completionRoom, f, e, List.length_replicate, decide_eq_false_iff_not]; omega
  · simpa only [e, List.length_replicate] using h
theorem witness_CommandsAreCheckedInOrder_no_room : (fullQueue 4096).completionRoom .pf 0 = false :=
  (fullQueue_room 4096 (by decide)).1
theorem witness_RepliesAndRecordsReachTheLead_no_room : queueMax ≤ ((fullQueue 4096).queue (qKey 0 srcMgc)).recs.length :=
  (fullQueue_room 4096 (by decide)).2
/-- On a follower the bytes go through the lead. -/
theorem witness_HdmaCompletesWithItsRows_follower :
    let s := { hdma 0 0 0 with hif := { (hdma 0 0 0).hif with leadValid := true } }
    let r := { hdma 0 0 0 with hif := { (hdma 0 0 0).hif with hostReads := [(9, 0, 0, 0)] } }
    (after (.hdmaComplete .pf 0) s).out = [] ∧ ((after (.hdmaComplete .pf 0) s).cr .pf 0).run = none ∧
      stays (.hdmaComplete .pf 0) r = true := by decide +kernel
/-- A masked vector; one that is absent for a virtual function; a follower; the telemetry ring. -/
theorem witness_RecordsArePublishedInOrder_more :
    let r : RecRing := { enable := true, inten := true, vector := 3, base := 4096, pidx := 8192, prod := 63, head := 60, holdoff := 9 }
    let m := { publishing r [2] with hif := { (publishing r [2]).hif with msix := [(15, 1)] } }
    let f := { publishing r [2] with hif := { (publishing r [2]).hif with leadValid := true } }
    let t := { State.reset.setRr .pf 17 { enable := true, sizeLog := 10 } with lnk := { tele := [(0, 0, 0, 0, rep 1024 0#8)] } }
    (after (.recordPublish .pf 16) m).out.length = 2 ∧ (after (.recordPublish .pf 16) m).hif.pba = [3] ∧
      (after (.recordPublish .pf 16) f).out = [] ∧ ((after (.recordPublish .pf 16) f).rr .pf 16) = r ∧
      ((after (.recordPublish .pf 17) t).rr .pf 17).prod = 33 ∧ (after (.recordPublish .pf 17) t).lnk.tele = [] := by decide +kernel
/-- HOLDOFF ends for a vector that the function does not have. -/
theorem witness_RecordsArePublishedInOrder_absent :
    let r : RecRing := { enable := true, inten := true, vector := 3, heldMsg := true, lastMsg := some 0, holdoff := 0 }
    let s := State.reset.setRr (.vf 0) 0 r
    (s.vectors (.vf 0) ≤ 3) ∧ (after (.holdoffExpire (.vf 0) 0) s).out = [] ∧
      ((after (.holdoffExpire (.vf 0) 0) s).rr (.vf 0) 0).heldMsg = false := by decide +kernel
/-- A window with a follower: the write leaves in a packet. -/
theorem witness_MissingFollowersReadZeros_present :
    let s := { port0 { state := .up } with lnk := { route := [(5, 0x40)] }, hif := { folValid := [(3, true)], folDev := [(3, 5)] } }
    s.follower 3 = some 5 ∧ s.routeUp 5 = some 0 ∧
      ((after (.followerAccess .pf 3 (.bar2Write 64 [1])) s).port 0).vc0.txq.map
        (fun x => (x.2.2.ptype, x.2.2.dst, x.2.2.addr, x.2.2.payload)) = [(0x20, 5, 64, hostHeader 1 0 0 0 ++ [1])] := by decide +kernel
/-- A completion ends the forwarded command with its TAG; the hidden one is not kept. -/
theorem witness_RepliesAndRecordsReachTheLead_completion :
    let s := fun flags status => (leadState true 0x20 5 0 ([BitVec.ofNat 8 status, 0, 0, 128] ++ rep 12 0#8 ++ [5] ++ rep 15 0#8)).setCr .pf 0
      { enable := true, run := some ⟨0, 3, flags, 5, 0, 0, 0, 0, [], 0, 0, []⟩ }
    let l := fun flags status => ((after (.hostRecord 0) (s flags status)).queue (qKey 3 128)).recs.length
    l 1 0 = 0 ∧ l 0 0 = 1 ∧ l 1 4 = 1 ∧ ((after (.hostRecord 0) (s 1 0)).cr .pf 0).run = none := by decide +kernel
/-- A busy place; data that join a read of 8 bytes of which 4 are to come. -/
theorem witness_FollowerServesItsLead_more :
    let g : HostGet := { key := 7, addr := 4096, len := 8192, left := 8192 }
    let c : CmdRun := ⟨6, 0, 0, 5, 0, 0, 4096, 8, [], 0, 0, [g]⟩
    let s := { (folState true 5 0x20 7 0 [1, 2]).setCr .pf 4 { run := some c } with
      hif := { ((folState true 5 0x20 7 0 [1, 2]).setCr .pf 4 { run := some c }).hif with hostReads := [(9, 0, 7, 0)] } }
    (((after (.hostData 0) s).cr .pf 4).run.map fun c => c.gets.map (·.left)) = some [4096] ∧
      stays (.hostCommand 0) ((folState false 5 0x20 4 0 (command 8 0 0 3)).setCr .pf 4 { run := some c }) = true := by decide +kernel
/-- RCU.NOW in one read of 64 bits, at tick 5, beat 7. -/
theorem witness_RegisterFieldsActByType_now :
    let s := at_ (5 * 4096 + 7) State.reset
    s.voteMask .pf 0x200000 = 0 ∧ s.voteMask .pf 0x200004 = 0 ∧ s.roundCounter = 5 * 2 ^ 16 + 7 ∧
      (after (.registerReadClear false host ⟨0x200000, true⟩) s).out = [.readData .pf 0x200000 [7, 0, 5, 0, 0, 0, 0, 0]] := by decide +kernel
theorem witness_FunctionResetsKeepTheDevice :
    let s := { rr16 { prod := 5 } with mem := [(64, 7)] }
    let v := { State.reset.setRr (.vf 2) 0 { prod := 5 } with mem := [(64, 7)] }
    ((after (.vfFlr 2) v).fn (.vf 2)).rrs = [] ∧ ((after (.vfFlr 1) v).fn (.vf 2)).rrs.length = 1 ∧
      (after .pfFlr s).mem = [(64, 7)] ∧ ((after .pfFlr s).fn .pf).rrs = [] ∧ ((after .hotReset v).fn (.vf 2)).rrs = [] ∧
      (after .perst { s with hif := { s.hif with sriov := true } }).hif.sriov = false ∧
      (after (.srIovEnable true) State.reset).hif.sriov = true ∧
      stays (.srIovEnable true) { State.reset with hif := { released := false } } = true := by decide +kernel
/-- A load in progress ends in NONE; a forwarded command ends; the message table's words of the function are cleared. -/
theorem witness_FunctionResetsKeepTheDevice_loading :
    let s := { hdma 1 0 0 with dck := { state := .loading, load := some ⟨⟨0, false, .pf, 0, 5, false, 0⟩, 4096, 1024, [], 0⟩ } }
    let w := cr0 { enable := true, run := some ⟨0, 3, 0, 5, 0, 0, 0, 0, [], 0, 0, []⟩ }
    let v := { State.reset with hif := { sriov := true, msix := [(4 * 480 + 3, 1)] } }
    (after .pfFlr s).dck.state = .none_ ∧ (after .pfFlr s).dck.load = none ∧ ((after .pfFlr w).cr .pf 0).run = none ∧
      (vectorBase (.vf 2), v.vectors (.vf 2)) = (480, 112) ∧ (after (.vfFlr 2) v).hif.msix = [] := by decide +kernel
theorem witness_DeviceResetClearsTheFabric :
    let s := { State.reset with mem := [(64, 7)], tly := { trim := [(3, 2)] }, rcu := { role := 1, count := 5 } }
    let t := after (.deviceReset 0xD1CE0001) s
    (t.mem, t.rcu, t.tly.trim, t.hif.resetBusy) = ([], {}, [(3, 2)], true) ∧ (after .deviceResetComplete t).hif.resetBusy = false ∧
      stays (.deviceReset 0xD1CF0001) s = true ∧ stays (.deviceReset 0xD1CE0000) s = true ∧
      (after (.deviceReset 0xD1CE0001) (running s)).dck.result = 0x2007 ∧ (after (.deviceReset 0xD1CE0001) (running s)).mem = [(64, 7)] := by
  decide +kernel
/-- A recovery cut short: the joker stands in. -/
theorem witness_DeviceResetClearsTheFabric_recovery :
    let s := table0 { subst := some ⟨2, 2, true, true, 0, true, 0, [], false⟩, recovering := true }
    let t := after (.deviceReset 0xD1CE0001) s
    (t.table 0).jokerFor = 2 ∧ (t.table 0).jokerState = 1 ∧ (t.table 0).recovering = false := by decide +kernel
/-- Before the HIF is released an access has no effect. -/
theorem witness_HostAccessesWaitForTheRelease :
    let s := closed (cr0 { enable := true, head := 5, tail := 8 })
    stays (.crTailWrite host 0 9) s = true ∧ stays (.rrHeadWrite host 16 0) s = true ∧
      stays (.followerAccess .pf 5 (.bar2Read 64 2)) s = true ∧ stays (.registerReadClear false host ⟨0x300000, false⟩) s = true ∧
      stays (.registerWrite false host 0x300000 5) s = true := by decide +kernel
/-- A command with its parameters: bytes 16 to 23, 24 to 27, 28 to 31. -/
def commandOf (op flags a b c : Nat) : List Byte :=
  [BitVec.ofNat 8 op, 0, BitVec.ofNat 8 flags, 0, 0, 0, 0, 0, 5] ++ rep 7 0#8 ++ leBytes 8 a ++ leBytes 4 b ++ leBytes 4 c ++ rep 32 0#8
/-- The state that fetching it leaves. -/
def fetch (s : State) (cmd : List Byte) (data : List Byte := []) : State := after (.commandFetch .pf 0 (some cmd) ⟨data, true⟩) s
/-- A command ring with one command to fetch. -/
def ready : State := cr0 { enable := true, tail := 1 }
/-- A FENCE with nothing in progress, and behind an earlier command; a PHASE that begins a switch of table 0. -/
theorem witness_CommandsAreCheckedInOrder_fence :
    let busy := { ready.setCr .pf 1 { run := some ⟨8, 0, 0, 6, 0, 2, 0, 0, [], 0, 0, []⟩ } with
      hif := { (ready.setCr .pf 1 { run := some ⟨8, 0, 0, 6, 0, 2, 0, 0, [], 0, 0, []⟩ }).hif with fetched := 1 } }
    (runRings.all fun j => (ready.cr .pf j).run.isNone) = true ∧
      codes (fetch ready (command 1 0 0 0)) srcMgc = [0] ∧
      codes (fetch busy (command 1 0 0 0)) srcMgc = [] ∧ ((fetch busy (command 1 0 0 0)).cr .pf 0).run.map (·.op) = some 1 ∧
      codes (fetch ready (commandOf 5 0 10 0 0)) srcMgc = [(fetch ready (commandOf 5 0 10 0 0)).rcu.pswStatus] := by decide +kernel
/-- HDMA_IN of four bytes to row 1 of position 0, all of them read or none; HDMA_OUT; one of length 0; one to no tile. -/
theorem witness_CommandsAreCheckedInOrder_hdma :
    let run := fun (s : State) => (s.cr .pf 0).run.map fun x => (x.op, x.status, x.left)
    ready.hdmaNoTile 126 = false ∧ ready.hdmaRow .pf 64 = some (0, 1) ∧ ready.mayAccess 0 1 true 1 = true ∧
      (let t := fetch ready (commandOf 6 0 4096 126 4) [1, 2, 3, 4]
       run t = some (6, 0, 2) ∧ (t.tile 0).reqs.map (fun r => (r.cls, r.row, r.use)) =
         [(5, 1, .fromHost (fnKey .pf) 0 62 [1, 2]), (5, 2, .fromHost (fnKey .pf) 0 0 [3, 4])]) ∧
      run (fetch ready (commandOf 6 0 4096 126 4) [1]) = some (6, 0x2004, 1) ∧
      (let t := fetch ready (commandOf 7 0 4096 126 4)
       run t = some (7, 0, 2) ∧ (t.tile 0).reqs.map (fun r => (r.cls, r.row, r.use)) =
         [(5, 1, .toHost (fnKey .pf) 0 0), (5, 2, .toHost (fnKey .pf) 0 64)]) ∧
      codes (fetch ready (commandOf 6 0 4096 126 0)) srcMgc = [0] ∧ run (fetch ready (commandOf 6 0 4096 126 0)) = none ∧
      ready.hdmaNoTile (208 * 2 ^ 23) = true ∧ run (fetch ready (commandOf 7 0 4096 (208 * 2 ^ 23) 4)) = some (7, 0x3001, 0) := by
  decide +kernel
/-- A deck header that step 1 accepts: 1,024 bytes. -/
def goodHeaderBytes : List Byte :=
  leBytes 8 0x004B434544325646 ++ leBytes 2 1 ++ rep 8 0#8 ++ leBytes 2 1 ++ rep 4 0#8 ++ leBytes 8 1024 ++ rep 224 0#8
theorem witness_CommandsAreCheckedInOrder_load :
    let out := fun (s : State) => (s.dck.state, s.dck.result, s.dck.failOff)
    goodHeaderBytes.length = 256 ∧ headerBad goodHeaderBytes 1024 = none ∧
      headerBad (goodHeaderBytes.set 8 2) 1024 = some (0x1001, 8) ∧
      out (fetch ready (commandOf 2 0 4096 255 0)) = (.none_, 0x100D, 0) ∧
      out (fetch ready (commandOf 2 0 4096 1024 0) (rep 40 0#8)) = (.none_, 0x100D, 40) ∧
      out (fetch ready (commandOf 2 0 4096 1024 0) (goodHeaderBytes.set 8 2)) = (.none_, 0x1001, 8) ∧
      (let t := fetch ready (commandOf 2 0 4096 1024 0) goodHeaderBytes
       (t.dck.state, t.dck.pass, t.dck.load.map (·.len), codes t srcMgc) = (.loading, 1, some 1024, [])) := by decide +kernel
/-- DECK_START at tick 2 of a loaded deck of one device; at tick 1; DECK_STOP at tick 9, at once, and too early. -/
theorem witness_CommandsAreCheckedInOrder_deck :
    let s := fun st : DeckState => { ready with
      dck := { ready.dck with state := st, devices := 1, cfg := { devices := 1 } }, rcu := { ready.rcu with state := .locked },
      tables := [(0, { switch := some ⟨9, 1⟩ })] }
    let t := fetch (s .loaded) (commandOf 3 0 2 0 0)
    (t.dck.state, t.dck.result, codes t srcMgc, t.dck.start.map (·.tick)) = (.starting, 0, [0], some 2) ∧
      (let u := fetch (s .loaded) (commandOf 3 0 1 0 0)
       (u.dck.state, u.dck.result, codes u srcMgc) = (.loaded, 0x2008, [0x2008])) ∧
      (let v := fetch (s .running) (commandOf 4 0 9 0 0)
       (v.dck.state, v.dck.stop.map (·.tick), (v.table 0).switch, (v.cr .pf 0).run.map (·.op)) = (.stopping, some 10, none, some 4)) ∧
      (let v := fetch (s .running) (commandOf 4 0 0 1 0)
       (v.dck.state, v.dck.stop.map (·.tick)) = (.stopping, some 1)) ∧
      (let v := fetch (s .running) (commandOf 4 0 1 0 0)
       (v.dck.state, v.dck.result, codes v srcMgc) = (.running, 0x2008, [0x2008])) := by decide +kernel
/-- The aperture belongs to the window that FOLSEL names; another reads zeros. Its follower gets the access in a packet. -/
theorem witness_MissingFollowersReadZeros_aperture :
    let s := { port0 { state := .up } with lnk := { route := [(5, 0x40)] }, hif := { folValid := [(3, true)], folDev := [(3, 5)], folWin := 3 } }
    let sent := fun a => ((after (.followerAccess .pf 3 a) s).port 0).vc0.txq.map fun x => (x.2.2.ptype, x.2.2.addr, x.2.2.payload.length)
    s.follower 3 = some 5 ∧ s.routeUp 5 = some 0 ∧ s.tly.flips = [] ∧
      sent (.regRead 0x300000) = [(0x10, 0x300000, 8)] ∧ sent (.regWrite 0x300000 7) = [(0x11, 0x300000, 12)] ∧
      sent (.bar2Read 64 2) = [(0x20, 64, 8)] ∧
      (after (.followerAccess .pf 5 (.regRead 8)) s).out = [.readData .pf 0x2000008 [0, 0, 0, 0]] ∧
      stays (.followerAccess .pf 5 (.regWrite 8 7)) s = true := by decide +kernel

/-! ### Decks -/

/-- The public key of the private key 0x1234567890abcdef. -/
def keyX : Nat := 0xfbf96095915eb587390f850ec95b35f618ae121c72a70808ad8f9f4c261b602b63541743e395f7c778e52bb28c18dc83
def keyY : Nat := 0x16a6ff3f72c9368326ad50a3bd148a53cd2213bb480e4730ad019db87ae100995ec65df011e19811a15dc9ddfc9ab3c
/-- SHA-384 of "abc", from FIPS 180-4. -/
theorem test_sha384 : beNat (sha384 [0x61, 0x62, 0x63]) =
    0xcb00753f45a35e8bb5a03d699ac65007272c32ab0eded1631a8b605a43ff5bed8086072ba1e7cc2358baeca134c825a7 := by decide +kernel
/-- A deck of 1,024 bytes with one empty section, for device 0 of one, without its signature block. -/
def deckBody : List Byte :=
  ([70, 86, 50, 68, 69, 67, 75, 0, 1, 0, 1, 64, 1, 0, 0, 0, 12, 1, 1, 0, 0, 0, 0, 0, 0, 4, 0, 0, 0, 0, 0, 0, 0, 1, 0, 0, 0, 0, 0, 0, 77, 0, 0, 0, 0, 0, 0, 0] : List Nat).map (BitVec.ofNat 8) ++
    rep 208 0#8 ++ [2, 0, 0, 0, 0, 0, 0, 0, 64, 1] ++ rep 630 0#8
/-- The deck, signed by that key outside Lean. -/
def deck : List Byte := deckBody ++ leBytes 48 0xfc3aea8a23ea097889a403ca3a607f9d606a93c8916908eb2717747bf74ffd014633769a47c8473173e1b6a791c65ff7 ++
    leBytes 48 0x5a441e3c4c8c0ff182668a9160aa6e622d6bd543cc4de1ff4b371f4c10289cd92063c674d6f4d4d8150ab4f63ef268f6 ++ rep 32 0#8
/-- DECK_LOAD of it runs: pass 1 has read `bytes`, and the deck checks or the second pass follow. -/
def loadState (bytes : List Byte) (pass : Nat := 1) : State :=
  { State.reset with
    mgc := { flash := { keys := [(0, bankBytes 1 (keyPayload 1 keyX keyY 0), [])] } },
    dck := { state := .loading, pass, devices := 1, load := some ⟨⟨0, false, .pf, 0, 5, false, 0⟩, 4096, 1024, bytes, 1⟩ } }
theorem test_deck_length : deck.length = 1024 ∧ deckBody.length = 896 := by decide +kernel
theorem witness_DeckLoadsOrFails :
    ((loadState deck).signatureBad deck = none ∧ (loadState deck).identityBad ((loadState deck).deckIn deck) = none ∧
      ((loadState deck).deckIn deck).pass2Bad 1024 = none) ∧
      (after (.deckLoadComplete deck true) (loadState deck)).dck.state = .loaded := by decide +kernel
/-- After pass 1, the device's own pass 2 alone. -/
theorem witness_DeckLoadsOrFails_pass2 :
    (after (.deckLoadComplete deck true) (loadState deck 2)).dck.state = .loaded ∧
      (after (.deckLoadComplete deck true) (loadState deck 2)).rcu.k = 12 := by decide +kernel
/-- The serial differs between the passes. -/
theorem witness_DeckLoadsOrFails_passes :
    ((loadState deck).deckIn (deck.set 48 1)).pass2Bad 1024 = none ∧ sha384 deck ≠ sha384 (deck.set 48 1) := by decide +kernel
/-- Host memory ends at byte 1,000; the signature of another deck; a bad entry in pass 2. -/
theorem witness_DeckLoadsOrFails_unread :
    let t := after (.deckLoadComplete [] true) (loadState (deck.take 1000))
    let u := after (.deckLoadComplete (deck.take 1000) true) (loadState deck 2)
    (t.dck.state, t.dck.result, t.dck.failOff, t.dck.failEntry) = (.none_, 0x100D, 1000, 0xFFFF) ∧
      ((loadState deck).deckIn (deck.take 1000 ++ rep 24 0#8)).pass2Bad 1000 = some (1, 0xFFFF, 0x100D, 1000) ∧
      (u.dck.state, u.dck.result, u.dck.failOff) = (.none_, 0x100D, 1000) := by decide +kernel
theorem witness_DeckLoadsOrFails_signature :
    let s := loadState (deck.set 48 1)
    ((after (.deckLoadComplete [] true) s).dck.result, (after (.deckLoadComplete [] true) s).dck.failOff) = (0x1002, 896) := by
  decide +kernel
/-- A follower whose pass 2 has not all come waits. -/
theorem witness_DeckLoadsOrFails_far :
    let s := { loadState deck 2 with dck := { (loadState deck 2).dck with load := some ⟨⟨0, false, .pf, 4, 5, false, 0⟩, 4096, 1024, deck, 1⟩ } }
    let l : Load := ⟨⟨0, false, .pf, 4, 5, false, 0⟩, 4096, 1024, deck, 1⟩
    l.far = true ∧ s.farPass l 2 = none ∧ stays (.deckLoadComplete deck true) s = true := by decide +kernel

/-! ### Resets, power and the management controller -/

/-- A mailbox that runs command `op` with an argument, LEN 2 and two bytes. -/
def mbox (op arg : Nat) : State :=
  { State.reset with mgc := { State.reset.mgc with
      pcie := { runOp := op, runLen := 2, runArg := BitVec.ofNat 64 arg, busy := true, status := 7, buf := [(0, 9), (1, 8)] }, ready := true } }
/-- STATUS and RLEN of the PCIe mailbox once its command has ended. -/
def ended (s : State) : Option (Nat × Nat) := if s.mgc.pcie.busy then none else some (s.mgc.pcie.status, s.mgc.pcie.rlen)
theorem witness_PowerRunsTheVerifiedFirmware :
    let s := { State.reset with mem := [(64, 7)] }
    let on := fun a b => after (.powerOn ⟨a, b, 5, []⟩) s
    (s.mgc.ready = false ∧ s.mgc.restarting = none) ∧
      ((on true true).mem, (on true true).mgc.ready, (on true true).mgc.bank, (on true true).mgc.fwrev) = ([], true, 0, 5) ∧
      ((on false true).mgc.ready, (on false true).mgc.bank, (on false true).mgc.fallback) = (true, 1, true) ∧
      ((on false false).mgc.ready, (on false false).hif.released, (on false false).mgc.rails) = (false, false, []) ∧
      ((after .powerDown s).mem, (after .powerDown s).hif.released) = ([], false) ∧
      (let r := { State.reset with mgc := { State.reset.mgc with rails := [0, 1, 2] } }
       (after (.railEnableTimeout 2) r).mgc.rails = [] ∧ (after (.railEnableTimeout 2) r).mgc.dead = true ∧
         codes (after (.railEnableTimeout 2) r) srcMgc = [0x9005]) := by decide +kernel
theorem witness_PowerRunsTheVerifiedFirmware_restart :
    let s := after (.fwActivate false) (mbox 4 0)
    s.mgc.restarting = some false ∧ s.mgc.ready = false ∧
      (let t := after (.mgcRestartComplete ⟨false, true, 5, []⟩) s
       ended t = some (0, 0) ∧ t.mgc.ready = true ∧ t.mgc.bank = 1 ∧ t.mgc.restarting = none) ∧
      ended (after (.mgcRestartComplete ⟨false, false, 5, []⟩) s) = some (0x9006, 0) := by decide +kernel
theorem witness_MailboxCommandsEndWithStatus :
    (mbox 1 0).serves_ false 1 = true ∧ ended (after (.logRead false) (mbox 1 2047)) = some (0x9003, 0) ∧
      ended (after (.logRead false) (mbox 1 2048)) = some (0x9001, 0) ∧
      ended (after (.fwWrite false) (mbox 2 4096)) = some (0, 0) ∧
      readCells (after (.fwWrite false) (mbox 2 4096)).mgc.flash.imageB 4096 2 = [9, 8] ∧
      ended (after (.fwCommit false true) (mbox 3 0)) = some (0, 0) ∧ (after (.fwCommit false true) (mbox 3 0)).mgc.flash.bootBank = 1 ∧
      ended (after (.fwCommit false false) (mbox 3 0)) = some (0x9006, 0) ∧
      ended (after (.fwActivate false) (running (mbox 4 0))) = some (0x9002, 0) := by decide +kernel
/-- Page 3 of the log has a payload of two bytes. -/
def logged : State := { mbox 1 3 with mgc := { (mbox 1 3).mgc with flash := { log := [(3, writeBank 4096 ([], []) 1 [5, 6])] } } }
/-- LNK.SELF through the mailbox; offset 0x500414 lies in another block. -/
theorem witness_MailboxCommandsEndWithStatus_registers :
    ended (after (.regWrite false) (mbox 7 (0x300000 + 7 * 2 ^ 32))) = some (0, 0) ∧
      (after (.regWrite false) (mbox 7 (0x300000 + 7 * 2 ^ 32))).lnk.dev = 7 ∧
      ended (after (.regWrite false) (mbox 7 0x500414)) = some (0x9001, 0) ∧
      ended (after (.regWrite false) (running (mbox 7 0x300000))) = some (0x9002, 0) ∧
      ended (after (.regRead false) (mbox 8 0x300000)) = some (0, 4) ∧ ended (after (.regRead false) (mbox 8 0x500414)) = some (0x9001, 0) ∧
      pickBank 4096 (logged.mgc.flash.record (.page 3)) = some false ∧ (after (.logRead false) logged).mgc.pcie.rlen = 4096 := by decide +kernel
/-- Bank 1 runs: the image goes to bank 0. An offset that is no multiple of 4,096. A command that does not run. -/
theorem witness_MailboxCommandsEndWithStatus_more :
    let b1 := { mbox 2 4096 with mgc := { (mbox 2 4096).mgc with bank := 1 } }
    readCells (after (.fwWrite false) b1).mgc.flash.imageA 4096 2 = [9, 8] ∧
      ended (after (.fwWrite false) (mbox 2 4097)) = some (0x9001, 0) ∧ ended (after (.fwWrite false) (mbox 2 (2 ^ 22))) = some (0x9001, 0) ∧
      stays (.fwWrite false) (mbox 1 4096) = true ∧ stays (.logRead true) (mbox 1 3) = true ∧
      -- the boot record does not verify
      (let t := after (.fwCommit false true) { mbox 3 0 with mgc := { (mbox 3 0).mgc with flashBad := [0] } }
       t.mgc.flash.bootBank = 0 ∧ t.mgc.pcie.busy = false ∧ codes t srcMgc = [0x9009]) := by decide +kernel
/-- Stops that another stop precedes, and a rail that has come up in time. -/
theorem witness_PowerRunsTheVerifiedFirmware_waits :
    let r := { State.reset with mgc := { State.reset.mgc with rails := [0, 1, 2] } }
    stays (.railEnableTimeout 3) r = true ∧ stays (.railEnableTimeout 2) (at_ 49000001 r) = true ∧
      stays (.mgcRestartComplete ⟨true, true, 5, []⟩) r = true ∧
      stays (.powerOn ⟨true, true, 5, []⟩) { State.reset with mgc := { State.reset.mgc with ready := true } } = true := by decide +kernel
/-- Both images verify by their signature; the fused minimum security version is 2, and bank A's image has version 1. -/
theorem witness_PowerRunsTheVerifiedFirmware_version :
    let s := { State.reset with minVersion := 2, mgc := { flash := { imageA := [(4, 1)], imageB := [(4, 2)] } } }
    (s.powerOff.accepts 0 true = false ∧ s.powerOff.accepts 1 true = true) ∧
      ((after (.powerOn ⟨true, true, 5, []⟩) s).mgc.bank, (after (.powerOn ⟨true, true, 5, []⟩) s).mgc.fallback) = (1, true) ∧
      ended (after (.fwCommit false true) { mbox 3 0 with minVersion := 1 }) = some (0x9006, 0) := by decide +kernel
/-- A bank that is being written when the power goes has no header. -/
theorem witness_PowerRunsTheVerifiedFirmware_cut :
    let s := { State.reset with mgc := { flash := { calib := (bankBytes 1 [1#8], bankBytes 2 [2#8]) }, flashOpen := [(.calib, true)] } }
    (s.mgc.flash.read .calib).map (·.1) = some 2 ∧ ((after .powerDown s).mgc.flash.read .calib).map (·.1) = some 1 := by decide +kernel

/-! ### Keys, stops, sensors and the log -/

/-- KEY_ENROL of slot 2 by slot 0, with the key of slot 0 as the point, or KEY_REVOKE of slot 2; signed outside Lean. -/
def keyState (op : Nat) (point : List Byte) (r s : Nat) (slot2 : Nat) : State :=
  { State.reset with mgc := {
      ready := true, flash := { keys := [(0, bankBytes 1 (keyPayload 1 keyX keyY 0), [])] ++ (if slot2 = 0 then [] else [(2, bankBytes 1 (keyPayload slot2 0 0 0), [])]) },
      pcie := { runOp := op, busy := true, buf := writeCells [] 0 ([2, 0] ++ point ++ leBytes 48 r ++ leBytes 48 s) } } }
/-- The enrolment, with a good signature. -/
def enrol : State := keyState 5 (pointBytes keyX keyY) 0xfc3aea8a23ea097889a403ca3a607f9d606a93c8916908eb2717747bf74ffd014633769a47c8473173e1b6a791c65ff7
    0xf8f06bb4d10915581d01e8cc47e0c13bbc8ce841a19dcc3258a0ae66ec05f8ce289659677344fa2e14d6c5324c4e29b8 0
/-- The revocation of a valid slot, or of an empty one. -/
def revoke (slot2 : Nat) : State := keyState 6 (rep 97 0#8) 0x3289097caf14bbcbc1ca8681c18c005f02030bec4f64b6104011b3c3a8d40b59a57457bbae46123af520f9af02624694
    0x441e91434ad8d8d3c6f6e51151c7871f41538fd9c319990a69b183da80b7b8cc3062431e8b230a47c8aff2617f423737 slot2
theorem witness_KeysChangeUnderASignature :
    enrol.serves_ false 5 = true ∧ (keyArgs enrol.mgc.pcie).coords = some (keyX, keyY) ∧
      ((after (.keyEnrol false) enrol).mgc.flash.key 2).state = 1 := by decide +kernel
theorem witness_KeysChangeUnderASignature_revoke :
    (revoke 1).serves_ false 6 = true ∧ ((after (.keyRevoke false) (revoke 1)).mgc.flash.key 2).state = 2 := by decide +kernel
/-- A key that is no point of the curve, an empty slot to revoke, and a signature of zeros. -/
theorem witness_KeysChangeUnderASignature_refused :
    ended (after (.keyEnrol false) (keyState 5 (pointBytes 1 1) 1 1 0)) = some (0x9002, 0) ∧
      ended (after (.keyRevoke false) (revoke 0)) = some (0x9002, 0) ∧
      ended (after (.keyRevoke false) (keyState 6 (rep 97 0#8) 0 0 1)) = some (0x9008, 0) := by decide +kernel
/-- 105 degrees is 1,680 sixteenths; the alarm clears below 1,600. -/
theorem witness_SensorsRaiseTheirNotices :
    let hot := { State.reset with mgc := { State.reset.mgc with temps := [(3, { alarm := true })] } }
    codes (after (.tempSample 3 1680) State.reset) srcMgc = [0xA010] ∧ (after (.tempSample 3 1680) State.reset).mgc.alerts = [0xA010] ∧
      codes (after (.tempSample 3 1679) State.reset) srcMgc = [] ∧ codes (after (.tempSample 3 1680) hot) srcMgc = [] ∧
      (Map.get {} (after (.tempSample 3 1600) hot).mgc.temps 3).alarm = true ∧
      (Map.get {} (after (.tempSample 3 1599) hot).mgc.temps 3).alarm = false ∧
      codes (after (.coolantHigh ⟨641, 700⟩) State.reset) srcMgc = [0xA012] ∧ codes (after (.coolantHigh ⟨640, 700⟩) State.reset) srcMgc = [] ∧
      (after (.coolantHigh ⟨640, 700⟩) State.reset).mgc.outlet = 700 ∧
      codes (after .coolantSensorFault State.reset) srcMgc = [0xA013] ∧
      stays .coolantSensorFault { State.reset with mgc := { State.reset.mgc with coolFault := true } } = true := by decide +kernel
theorem witness_SensorsRaiseTheirNotices_power :
    let s := fun overruns => { State.reset with pwr := { ticks := 100, overruns } }
    codes (after (.powerWindowEnd ⟨1501, [], []⟩) (s 1)) srcMgc = [0xA004] ∧
      codes (after (.powerWindowEnd ⟨1500, [], []⟩) (s 1)) srcMgc = [] ∧
      (let t := after (.powerWindowEnd ⟨1500, [(8, 5)], [(63, 6, 7)]⟩) (s 2)
       codes t srcMgc = [0xA003] ∧ t.pwr.ticks = 0 ∧ t.mgc.irail = [(8, 5)] ∧ t.mgc.optp = [(63, 6, 7)]) := by
  decide +kernel
/-- 115 degrees is 1,840 sixteenths, 95 degrees 1,520. -/
theorem witness_StopsEndInARestart :
    let t := after (.thermalStop 3 1840) (at_ 50 State.reset)
    codes t srcMgc = [0xA011] ∧ t.mgc.tstop = true ∧ t.mgc.stopCode = some 0xA011 ∧ t.mgc.stopAt = 50 ∧ (t.table 15).stopping = true ∧
      stays (.thermalStop 3 1839) State.reset = true ∧ codes (after (.powerStop 1801) State.reset) srcMgc = [0xA005] ∧
      codes (after (.powerStop 1800) State.reset) srcMgc = [] ∧ codes (after (.railFault 5 700 true) (running State.reset)) srcMgc = [0x9005] ∧
      codes (after (.railFault 5 700 true) State.reset) srcMgc = [] ∧ codes (after (.railFault 5 700 false) (running State.reset)) srcMgc = [] ∧
      -- 2 % of 800 mV are 16 mV, 3 % of 1,200 mV are 36 mV
      vmonOf 7 783 = (783, true, false) ∧ vmonOf 7 784 = (784, false, false) ∧ vmonOf 7 816 = (816, false, false) ∧
      vmonOf 7 817 = (817, false, true) ∧ vmonOf 21 1236 = (1236, false, false) ∧ vmonOf 21 1237 = (1237, false, true) ∧
      (after (.railFault 5 800 true) { State.reset with mgc := { State.reset.mgc with alerts := [0x9005], vmon := [(5, 700, true, false)] } }).mgc.alerts = [] ∧
      (after (.thermalStop 3 1840) t).mgc.stopAt = 50 := by decide +kernel
/-- THERM_RESTART in a stop with the hottest sensor at a temperature, and outside a stop. -/
def stopped (tstop : Bool) (temp : BitVec 12) : State :=
  { mbox 9 0 with mem := [(64, 7)], mgc := { (mbox 9 0).mgc with tstop, stopCode := some 0xA011, temps := [(3, { t := temp })] } }
theorem witness_StopsEndInARestart_restart :
    (stopped true 1519).serves_ false 9 = true ∧
      (let t := after (.thermRestart false) (stopped true 1519)
       ended t = some (0, 0) ∧ t.mgc.tstop = false ∧ t.mgc.stopCode = none ∧ t.mgc.rails = railOrder ∧ t.mem = []) ∧
      ended (after (.thermRestart false) (stopped true 1520)) = some (0x9002, 0) ∧
      ended (after (.thermRestart false) (stopped false 0)) = some (0x9002, 0) := by decide +kernel
/-- A log with `n` entries on the page and one new one. -/
def logging (n code : Nat) : State :=
  let r : Rec := ⟨code, 2, 128, 0, 0, 0, 0, 0⟩
  { State.reset with mgc := { State.reset.mgc with logPage := rep n r, logNew := [r], logIdx := 2047, logSeq := 8 } }
theorem witness_LogPagesAreWritten :
    stays .logPageWrite State.reset = true ∧ stays .logPageWrite (at_ 139999999 (logging 0 0x2001)) = true ∧
      (let t := after .logPageWrite (at_ 140000000 (logging 0 0x2001))
       (t.mgc.logSeq, t.mgc.logPage.length, t.mgc.logNew, t.mgc.logIdx) = (9, 1, [], 2047)) ∧
      (let t := after .logPageWrite { logging 0 0x8011 with mgc := { (logging 0 0x8011).mgc with flashBad := [0] } }
       (t.mgc.logSeq, t.mgc.logPage.length) = (8, 0) ∧ t.mgc.logNew.map (·.status) = [0x8011, 0x9009] ∧ codes t srcMgc = [0x9009]) ∧
      (after .logPageWrite (logging 122 0x8011)).mgc.logIdx = 2047 ∧ (after .logPageWrite (logging 123 0x8011)).mgc.logIdx = 0 ∧
      (let s := { State.reset with mgc := { State.reset.mgc with logRate := [(5, 16, 2), (6, 16, 3)] } }
       (after .logSuppressed s).mgc.logNew.map (fun r => (r.status, r.detail)) = [(0x900A, 5)] ∧ (after .logSuppressed s).mgc.logRate = []) ∧
      (after .logSuppressed State.reset).mgc.logNew = [] := by decide +kernel
/-- A point of the curve whose enrolment is not signed. -/
theorem witness_KeysChangeUnderASignature_unsigned :
    ended (after (.keyEnrol false) (keyState 5 (pointBytes keyX keyY) 0 0 0)) = some (0x9008, 0) ∧
      stays (.keyRevoke false) enrol = true := by decide +kernel
/-- A signed enrolment, and a signed revocation, whose record the flash does not verify. -/
theorem witness_KeysChangeUnderASignature_unwritten :
    let bad := fun (s : State) => { s with mgc := { s.mgc with flashBad := [0] } }
    (let t := after (.keyEnrol false) (bad enrol)
     (t.mgc.flash.key 2).state = 0 ∧ t.mgc.pcie.busy = false ∧ codes t srcMgc = [0x9009]) ∧
      ((after (.keyRevoke false) (bad (revoke 1))).mgc.flash.key 2).state = 1 := by decide +kernel
theorem witness_SensorsRaiseTheirNotices_both :
    codes (after (.powerWindowEnd ⟨1501, [], []⟩) { State.reset with pwr := { ticks := 100, overruns := 2 } }) srcMgc = [0xA004, 0xA003] := by
  decide +kernel
/-- A second cause in a stop is raised and leaves the stop's code. -/
theorem witness_StopsEndInARestart_again :
    let t := after (.thermalStop 3 1840) (running State.reset)
    t.deckRuns = true ∧ (after (.powerStop 1801) t).mgc.stopCode = some 0xA011 ∧ (after (.powerStop 1801) t).mgc.alerts.contains 0xA005 = true ∧
      (after (.railFault 5 700 true) t).mgc.stopCode = some 0xA011 ∧ stays (.thermRestart true) (stopped true 1519) = true := by decide +kernel
/-- Coolant readings end a coolant fault. -/
theorem witness_SensorsRaiseTheirNotices_coolant :
    let s := after .coolantSensorFault State.reset
    (s.mgc.coolFault, s.mgc.alerts) = (true, [0xA013]) ∧
      (let t := after (.coolantHigh ⟨600, 620⟩) s
       (t.mgc.coolFault, t.mgc.alerts, t.mgc.inlet) = (false, [], 600)) := by decide +kernel

/-! ### Serving and learning -/

/-- A descriptor: ID 5, OP, table, customer 1, no adapter, PLEN, MAXNEW, OUT 0x2000 and a capacity of 100. -/
def desc (op table cust plen maxNew : Nat) : List Byte :=
  leBytes 8 5 ++ [BitVec.ofNat 8 op, BitVec.ofNat 8 table] ++ leBytes 2 cust ++ leBytes 2 0xFFFF ++ [0, 0] ++ leBytes 8 0x1000 ++
    leBytes 4 plen ++ leBytes 4 maxNew ++ leBytes 8 0x2000 ++ leBytes 4 100 ++ rep 84 0#8
def dIn (op table cust plen maxNew : Nat) : DescIn := ⟨.pf, 0, desc op table cust plen maxNew⟩
/-- A request of table 0 in a state of its own. -/
def req (id : Nat) (state : ReqState) : Request :=
  { id, order := 0, intake := 0, table := 0, isScore := false, cust := 1, ad := none, dmax := 0, maxNew := 10, out := 0x2000, outCap := 100,
    progress := 0, seed := 0, temp := 0, topk := 0, stops := [], state, slot := none, prompt := [], pos := 0, ready := none, drafts := [],
    steps := [], result := none, delivered := 0, pin := none, lossy := false, dcur := 0, streak := 0, wait := 0, accept := 0,
    cancelled := false, parkTo := none, dups := 0, restore := [], resume := false }
/-- A SERVE command with two descriptors to come; table 0 serves customer 1 and has room for `quota` requests. -/
def servingWith (quota : Nat) (reqs : List Request) : State :=
  let run : CmdRun := ⟨8, 0, 0, 3, 0, 2, 0, 0, [], 0, 0, []⟩
  let x : ServeTable := { role := 1, fair := 2, rquota := quota, nslot := 4, period := 1, kittyMax := 50, rbeat := 100, idone := 100 }
  let svc : Svc := { custs := [(1, { weight := 1, budget := 20, balance := 30 })], reqs }
  let s := running { State.reset with grade := .a14, svc, dck := { devices := 1, cfg := { serve := true, tables := [(0, x)] } } }
  s.setCr .pf 0 { run := some run }
/-- What a descriptor leaves: how many requests wait, the codes of table 0, and the descriptors still to come. -/
def taken (t : State) : Nat × List Nat × Option Nat := (t.svc.reqs.length, codes t 0, (t.cr .pf 0).run.map (·.left))
theorem witness_DescriptorsEnterTheTable :
    let s := servingWith 3 []
    let good := dIn 1 0 1 2 10
    (fnOk good.fn = true ∧ (s.cr good.fn good.ring).run.map (fun c => (c.op, c.left)) = some (8, 2)) ∧
      ((descOf good.bytes).op = 1 ∧ (s.duplicate (descOf good.bytes)).isNone = true ∧ s.descCode good.fn good.bytes = none) ∧
      taken (after (.generate good [7, 8, 9]) s) = (1, [], some 1) ∧
      (after (.generate good [7, 8, 9]) s).svc.reqs.map (fun q => (q.id, q.prompt, q.maxNew)) = [(5, [7, 8], 10)] ∧
      (after (.score (dIn 2 0 1 2 0) [7, 8]) s).svc.reqs.map (·.isScore) = [true] ∧
      taken (after (.generate good [7, 8]) (servingWith 3 [req 5 .queued])) = (1, [], some 1) ∧
      (after (.generate good [7, 8]) (servingWith 3 [req 5 .queued])).svc.reqs.map (·.dups) = [1] := by decide +kernel
theorem witness_DescriptorsEnterTheTable_fails :
    let s := servingWith 3 []
    taken (after (.generate (dIn 1 0 1 2 10) [7]) s) = (0, [0x2004], some 1) ∧
      taken (after (.generate (dIn 1 0 1 2 10) [7, 8]) (servingWith 0 [])) = (0, [0x6003], some 1) ∧
      codes (after (.generate (dIn 1 1 1 2 10) [7, 8]) s) 1 = [0x6004] ∧
      taken (after (.generate (dIn 1 0 1 0 10) []) s) = (0, [0x6005], some 1) ∧
      taken (after (.generate (dIn 1 0 2 2 10) [7, 8]) s) = (0, [0x6006], some 1) := by decide +kernel
/-- A parked record without segments, of position 4 and last token 9, for the deck of job 0. -/
def parked : List Byte := parkHeader (req 5 .queued) 0 0 false 4 9 []
theorem witness_ActionsWaitForTheBoundary :
    let s := servingWith 3 []
    (s.descCode .pf (dIn 3 0 0 0 0).bytes = none ∧ s.descCode .pf (dIn 4 0 0 0 0).bytes = some 0x6005) ∧
      (after (.cancel (dIn 3 0 0 0 0)) s).svc.acts.map (fun a => (a.1, a.2.1)) = [(0, 0)] ∧
      (after (.park (dIn 4 0 0 64 0)) s).svc.acts.length = 1 ∧ (after (.bind (dIn 6 0 0 0 0)) s).svc.acts.length = 1 ∧
      (let t := after (.park (dIn 4 0 0 63 0)) s
       t.svc.acts = [] ∧ taken t = (0, [0x6005], some 1)) ∧
      (parkedOk parked s.dck.jobId = true ∧ (s.duplicate (descOf (dIn 5 0 1 0 10).bytes)).isNone = true ∧
        s.descCode .pf (dIn 5 0 1 0 10).bytes = none ∧ leAt parked 36 4 = 9) ∧
      (after (.resume (dIn 5 0 1 0 10) parked []) s).svc.reqs.map (fun q => (q.id, q.pos, q.ready, q.resume)) = [(5, 4, some 9, true)] ∧
      taken (after (.resume (dIn 5 0 1 0 10) (parked.set 20 1#8) []) s) = (0, [0x6040], some 1) := by decide +kernel
/-- A handle that lets user 2 read and write every row. -/
def svcHandle : DWord := BitVec.ofNat 64 (2 * 2 ^ 40 + 3 * 2 ^ 42 + 99328 * 2 ^ 20)
/-- The same state at a table beat, position 0 open to the SVC and with input-record rows of table 0 outstanding. -/
def opened (beat : Nat) (rx : List RxOp) (s : State) : State := at_ beat { s with tiles := [(0, { handles := [(0, svcHandle)], rx })] }
/-- A SCORE with its one step of the running tick, placed on lane 2. -/
def scored : Request := { req 5 .active with isScore := true, steps := [⟨0, 2, 1, [7], 0, false, true, false⟩] }
/-- Input rows of table 0: `done` of two in place. -/
def inputRx (done : Nat) : RxOp := { src := inputSrc 0, op := 0, total := 2, done, bad := false, flag := none, deadline := 0 }
theorem witness_TablesReadTheirRecords :
    let s := opened 100 [] (servingWith 3 [scored])
    let s := { s with dck := { s.dck with cfg := { s.dck.cfg with tables := [(0, { s.serveTable 0 with step := 1 })] } } }
    (s.deckRuns = true ∧ (s.serveTable 0).role = 1 ∧ s.tableBeat 0 = 100 ∧ (s.dueSteps 0 s.tick).length = 1 ∧
      (s.read? (.results 0)).isNone = true ∧ s.sramOff = false) ∧
      stays (.resultRead ⟨0, []⟩) (at_ 99 s) = true ∧
      (let t := after (.resultRead ⟨0, [6]⟩) s
       t.svc.reads = [{ id := 0, key := .results 0, rows := [(0, 2, 128)], fails := [6] }] ∧
         (t.tile 0).reqs.map (fun q => (q.cls, q.row, q.use)) = [(3, 2, .toSvc 0 128)] ∧ stays (.resultRead ⟨0, [6]⟩) t = true) := by
  decide +kernel
/-- The rows are in: the SCORE's record names token 77 for its place. -/
theorem witness_TablesReadTheirRecords_taken :
    let s := opened 100 [] (servingWith 3 [scored])
    let s := { s with dck := { s.dck with cfg := { s.dck.cfg with tables := [(0, { s.serveTable 0 with step := 1 })] } } }
    let y : List Nat → SvcRead := fun fails =>
      { id := 0, key := .results 0, buf := writeCells [] 128 (leBytes 4 77 ++ [0, 0, 1, 0]), fails }
    let t := fun fails => ({ s with svc := { s.svc with reads := [y fails] } } : State).takeReads
    stepFault ⟨0, 2, 1, [7], 0, false, true, false⟩ ((y []).records 2 1) = none ∧ (t [6]).svc.reads = [] ∧
      (t [6]).out = [.hostWrite 0x2000 (leBytes 4 77)] ∧
      (t [6]).svc.reqs.map (fun q => (q.result, q.delivered, q.score)) = [(some (0, 3), 0, 77)] ∧
      (t [5]).out = [] ∧ (t [5]).svc.reqs.map (·.result) = [some (0x2004, 0xFF)] := by decide +kernel
theorem witness_TablesReadTheirRecords_input :
    let s := fun done beat => opened beat [inputRx done] (servingWith 3 [scored, req 6 .active])
    (takeFirst (fun (r : RxOp) => r.src == inputSrc 0) ((s 1 100).tile 0).rx).isSome = true ∧
      stays (.inputRecordDeadline 0) (s 1 99) = true ∧
      (let t := after (.inputRecordDeadline 0) (s 2 100)
       (t.tile 0).rx = [] ∧ t.svc.reqs.map (·.id) = [5, 6]) ∧
      (let t := after (.inputRecordDeadline 0) (s 1 100)
       (t.tile 0).rx = [] ∧ t.svc.reqs.map (·.id) = [6] ∧ codes t 0 = [0x6030]) := by decide +kernel
/-- Table 0 follows lanes 8 and 9; the lane map says full with adapter slot 3, and empty. -/
def following : State :=
  let s := opened 100 [] (servingWith 3 [])
  { s with dck := { s.dck with cfg := { s.dck.cfg with tables := [(0, { role := 2, rbeat := 100, lane0 := 8, nlane := 2 })] } } }
theorem witness_TablesReadTheirRecords_lanes :
    stays (.laneMapSample 0) (at_ 99 following) = true ∧
      (let t := after (.laneMapSample 0) following
       t.svc.reads.map (fun y => (y.id, y.key, y.rows)) = [(0, .lanes 0, [(0, 0, 0)])] ∧ t.svc.nextLanes = [] ∧ t.svc.mapsRead = [0] ∧
         stays (.laneMapSample 0) t = true) ∧
      (let y : SvcRead := { id := 0, key := .lanes 0, buf := [(0, 3), (1, 0x90)] }
       let t := ({ following with svc := { following.svc with reads := [y] } } : State).takeReads
       (Map.get {} t.svc.nextLanes 8, Map.get {} t.svc.nextLanes 9) = (⟨true, true, 3⟩, ({} : Lane)) ∧ t.svc.reads = []) := by decide +kernel
/-- Gather entry 0 copies one lane to row 10 of position 0, from its adapter slot 3, of 100 rows each, in chunks of 16. -/
def gatherer (done : Nat) : State :=
  let s := opened 100 [{ inputRx done with src := svcSrc + 32, op := 4 }] (servingWith 3 [])
  { s with svc := { s.svc with lanes := [(4, ⟨true, true, 3⟩)] },
           dck := { s.dck with cfg := { s.dck.cfg with layout := [(0, 2000, 100, 0)], gathers := [⟨0, 1, 4, 1, 10, 0, 0, 100, 100⟩] } } }
theorem witness_GathersFillTheirChunks :
    let s := gatherer 1
    ((s.gatherCfg 0).isSome = true ∧ s.mayAccess 0 2 false 2316 = true ∧ s.mayAccess 0 2 true 25 = true) ∧
      (let t := after (.gather 0) s
       t.svc.gathering = [0] ∧ stays (.gather 0) t = true ∧
         ((t.tile 0).reqs.filterMap fun q => match q.use with | .toGather g l r => some (q.cls, q.row, g, l, r) | _ => none).take 2 =
           [(3, 2316, 32, 4, 10), (3, 2317, 32, 4, 11)]) ∧
      stays (.gather 0) (at_ 99 s) = true ∧ stays (.gatherDeadline 0) (at_ 99 s) = true ∧
      (let t := after (.gatherDeadline 0) s
       (t.tile 0).rx = [] ∧ codes t 0 = [0x6030]) ∧
      (let t := after (.gatherDeadline 0) (gatherer 2)
       (t.tile 0).rx = [] ∧ codes t 0 = [] ∧ t.mem = []) := by decide +kernel
theorem witness_ParkedRequestsLeaveAndReturn :
    let s := fun cap => servingWith 3 [{ req 5 .parking with parkTo := some (0x3000, cap, false) }, req 6 .active]
    ((s 64).req? 5).isSome = true ∧ (s 64).hif.leadValid = false ∧
      (let t := after (.parkComplete 5 false) (s 64)
       t.svc.reqs.map (·.id) = [6] ∧ codes t 0 = [0] ∧ t.out.length = 1) ∧
      (let t := after (.parkComplete 5 false) (s 63)
       t.svc.reqs.map (fun q => (q.id, q.parkTo)) = [(5, none), (6, none)] ∧ codes t 0 = [0x6042] ∧ t.out = []) ∧
      (after (.restoreComplete 5) (servingWith 3 [{ req 5 .restoring with slot := some 1 }, req 6 .queued])).svc.reqs.map (·.state) =
        [.active, .queued] := by decide +kernel
/-- The one adapter record of a deck whose table 0 learns: adapter 9, slots 1 and 2, grant word in row 20, published row 21. -/
def learner (slotState gstate : Nat) (s : State) : State :=
  { s with tables := [(0, { phase := 3 })],
           svc := { s.svc with slots := [(1, { state := slotState, ad := 7 })], lrn := [(0, { gstate })] },
           dck := { s.dck with cfg := { s.dck.cfg with learn := [⟨9, 0, 1, 1, 2, 20, 21, 4, 16⟩] } } }
theorem witness_BudgetsGrantsAndPublications :
    let s := servingWith 3 []
    (s.deckRuns = true ∧ s.beat = 0 ∧ s.periodEnds 0 s.tick = true) ∧
      (let t := after (.budgetPeriodEnd 0) s
       (t.svc.cust 1).balance = 20 ∧ (t.svc.table 0).kitty = 30 ∧ stays (.budgetPeriodEnd 0) t = true) ∧
      stays (.budgetPeriodEnd 0) (at_ 1 s) = true := by decide +kernel
theorem witness_BudgetsGrantsAndPublications_grant :
    let s := fun slotState => learner slotState 1 (opened 0 [] (servingWith 3 []))
    ((s 0).rowHere 20 = some (0, 20) ∧ (s 0).grantTarget ⟨9, 0, 1, 1, 2, 20, 21, 4, 16⟩ = 1) ∧
      stays (.grantFromWaiting 0) (s 2) = true ∧
      (let t := after (.grantFromWaiting 0) (s 0)
       ((t.svc.rec_ 0).gstate, (t.svc.rec_ 0).grantVer, (t.svc.slot 1).state, (t.svc.slot 1).ad) = (2, 1, 3, 9) ∧
         (t.tile 0).reqs.map (fun q => (q.cls, q.row)) = [(3, 20)] ∧ (t.table 0).choice = 1) := by decide +kernel
theorem witness_BudgetsGrantsAndPublications_sample :
    let s := fun beat => learner 3 2 (opened beat [] (servingWith 3 []))
    (s 0).tickLen = 4096 ∧ stays (.publicationSample 0) (s 4031) = true ∧ stays (.publicationSample 0) (s 4033) = true ∧
      (let t := after (.publicationSample 0) (s 4032)
       t.svc.reads = [{ id := 0, key := .pub 0, rows := [(0, 21, 0)] }] ∧ (t.svc.rec_ 0).asked = true ∧
         (t.tile 0).reqs.map (fun q => (q.cls, q.row, q.use)) = [(3, 21, .toSvc 0 0)] ∧ stays (.publicationSample 0) t = true) ∧
      -- no handle lets the engine read the row
      (let t := after (.publicationSample 0) (at_ 4032 (learner 3 2 (servingWith 3 [])))
       t.svc.reads.map (·.bad) = [true] ∧ codes t 0 = []) ∧
      (let y := fun bad => ({ id := 0, key := .pub 0, buf := [(0, 9)], bad } : SvcRead)
       let t := fun bad => ({ s 4040 with svc := { (s 4040).svc with reads := [y bad] } } : State).takeReads
       ((t false).svc.rec_ 0).sample = some (9 :: rep 63 0#8) ∧ ((t true).svc.rec_ 0).sample = none) := by decide +kernel
/-- MAXNEW 0; a reserved OP; the last descriptor; on a follower, a descriptor that its lead has not sent yet. -/
theorem witness_DescriptorsEnterTheTable_more :
    let s := servingWith 3 []
    let one := s.setCr .pf 0 { run := some ⟨8, 0, 0, 3, 0, 1, 0, 0, [], 0, 0, []⟩ }
    let on := s.setCr .pf 4 { run := some ⟨8, 0, 0, 3, 0, 1, 0, 0, [], 0, 0, []⟩ }
    let lead := { on with hif := { on.hif with leadValid := true } }
    let far : DescIn := ⟨.pf, 4, desc 1 0 1 2 10⟩
    taken (after (.generate (dIn 1 0 1 2 0) [7, 8]) s) = (0, [0], some 1) ∧
      taken (after (.generate (dIn 7 0 1 2 0) [7, 8]) s) = (0, [0x6002], some 1) ∧
      ((after (.score (dIn 2 0 1 2 0) [7, 8]) one).cr .pf 0).run = none ∧
      lead.descHere far = none ∧ stays (.generate far [7, 8]) lead = true ∧
      s.descHere (dIn 1 0 1 2 10) = some (dIn 1 0 1 2 10) ∧ s.tokensOf (dIn 1 0 1 2 10) 0 [7, 8] = some [7, 8] := by decide +kernel
/-- Table 1 serves nothing: CANCEL and BIND are refused with a fault record, RESUME with a terminal one. -/
theorem witness_ActionsWaitForTheBoundary_refused :
    let s := servingWith 3 []
    codes (after (.cancel (dIn 3 1 0 0 0)) s) 1 = [0x6004] ∧ codes (after (.bind (dIn 6 1 0 0 0)) s) 1 = [0x6004] ∧
      codes (after (.resume (dIn 5 1 1 0 10) parked []) s) 1 = [0x6004] ∧
      s.resumeParts (dIn 5 0 1 0 10) parked [] = some (parked, []) := by decide +kernel
/-- A lane whose rows are not in place: its chunk of 16 rows is requested as NaN. -/
theorem witness_GathersFillTheirChunks_nan :
    let t := after (.gatherDeadline 0) (gatherer 1)
    (nanRow 0).length = 64 ∧ ((t.tile 0).reqs.map (·.row)) = (List.range 16).map (10 + ·) ∧
      (t.tile 0).reqs.all (fun q => q.cls == 3 && decide (q.use = .writeRx 0 (nanRow 0) (svcKeep + 32) 4)) = true := by decide +kernel
/-- A request that neither parks nor restores; one whose rows are still on their way; a duplicate's record. -/
theorem witness_ParkedRequestsLeaveAndReturn_more :
    let s := servingWith 3 [{ req 5 .parking with parkTo := some (0x3000, 64, false), dups := 1 }]
    let busy := { servingWith 3 [req 5 .restoring] with
      tiles := [(0, { reqs := [⟨3, 7, 50, 0, 0, .writeRx 0 [] restoreSrc 5, false, false⟩] })] }
    codes (after (.parkComplete 5 false) s) 0 = [0, 0] ∧ stays (.parkComplete 5 false) (servingWith 3 [req 5 .active]) = true ∧
      stays (.restoreComplete 5) (servingWith 3 [req 5 .active]) = true ∧
      busy.svcBusy restoreSrc 5 = true ∧ stays (.restoreComplete 5) busy = true := by decide +kernel
/-- A grant whose word no handle grants the learning engine; a period that ends for a table without customers. -/
theorem witness_BudgetsGrantsAndPublications_more :
    let s := at_ 0 (learner 0 1 (servingWith 3 []))
    let none_ := { servingWith 3 [] with svc := {} }
    (s.mayAccess 0 2 true 20 = false ∧ ((after (.grantFromWaiting 0) s).svc.rec_ 0).gstate = 0) ∧
      none_.periodEnds 0 none_.tick = true ∧ (after (.budgetPeriodEnd 0) none_).svc.custs = [] := by decide +kernel
/-- A park with segments to come waits; the SVC gives up the rows of another device. -/
theorem witness_ParkedRequestsLeaveAndReturn_waits :
    let s := fun far => { servingWith 3 [{ req 5 .parking with parkTo := some (0x3000, 64, false) }] with
      svc := { (servingWith 3 [{ req 5 .parking with parkTo := some (0x3000, 64, false) }]).svc with
        reads := [{ id := 4, key := .park 5, far, rows := if far = [] then [(0, 7, 0)] else [] }] } }
    stays (.parkComplete 5 true) (s []) = true ∧ stays (.parkComplete 5 false) (s [(3, 1, 9, 64)]) = true ∧
      (let t := after (.parkComplete 5 true) (s [(3, 1, 9, 64)])
       codes t 0 = [0x4002, 0x6042] ∧ t.svc.reqs.map (·.parkTo) = [none] ∧ t.out = []) := by decide +kernel
/-- A chunk whose source rows no handle lets the adapter engine read: its rows are written as zeros. -/
theorem witness_GathersFillTheirChunks_denied :
    let h := fun (rows first : Nat) (w : Nat) => BitVec.ofNat 64 (2 * 2 ^ 40 + w * 2 ^ 42 + rows * 2 ^ 20 + first)
    let s := gatherer 1
    let d := { s with tiles := [(0, { s.tile 0 with handles := [(0, h 100 0 3)] })] }
    (d.mayAccess 0 2 false 2316 = false ∧ d.mayAccess 0 2 true 10 = true) ∧
      (let t := after (.gather 0) d
       codes t 0 = [0x3002] ∧ ((t.tile 0).reqs.drop 1).map (fun q => (q.cls, q.row)) = (List.range 16).map (fun i => (3, 10 + i)) ∧
         ((t.tile 0).reqs.drop 1).all (fun q => decide (q.use = .writeRx 0 (rep 64 0#8) (svcSrc + 32) 4)) = true) := by decide +kernel
/-- A RESUME takes the recorded SEED. -/
theorem witness_ActionsWaitForTheBoundary_seed :
    let rec_ := parkHeader { req 5 .queued with seed := 77 } 0 0 false 4 9 []
    parkedOk rec_ 0 = true ∧ leAt rec_ 40 8 = 77 ∧
      (after (.resume (dIn 5 0 1 0 10) rec_ []) (servingWith 3 [])).svc.reqs.map (·.seed) = [77] := by decide +kernel

/-! ### The SVC at a boundary -/

/-- A CANCEL of a request that waits, of one with a step in its tick, and of one that is not there. -/
theorem witness_TickBoundaryEndsTheTick_cancel :
    let s := servingWith 3 [req 5 .queued, { scored with id := 6 }]
    (s.applyCancel 0 5).svc.reqs.map (·.id) = [6] ∧ (s.applyCancel 0 6).svc.reqs.map (fun q => (q.id, q.cancelled)) = [(5, false), (6, true)] ∧
      (s.applyCancel 0 7).svc.reqs.map (·.id) = [5, 6] := by decide +kernel
/-- A BIND of adapter 9 with rank 8 to slot 0 of table 0, free or taken. -/
theorem witness_TickBoundaryEndsTheTick_bind :
    let d : Desc := { descOf (desc 6 0 0 0 8) with adnum := 9 }
    let s := fun state => let s := servingWith 3 []
      { s with svc := { s.svc with slots := [(0, { state })] } }
    ((s 0).serveTable 0).hasSlot 0 = true ∧ (s 0).grantOpen 9 = false ∧
      (let t := (s 0).applyBind 0 d
       ((t.svc.ad 9).valid, (t.svc.ad 9).slot, (t.svc.slot 0).state, (t.svc.ad 9).version) = (true, 0, 1, 1)) ∧
      ((s 2).applyBind 0 d).svc = (s 2).svc := by decide +kernel
/-- A grant outside LEARN is withdrawn. A request ready to generate takes the first lane; in a closing table none is admitted. -/
theorem witness_TickBoundaryEndsTheTick_admit :
    (let s := { learner 0 1 (servingWith 3 []) with tables := [(0, { phase := 1 })] }
     s.learnRecs.length = 1 ∧ ((s.grantAll []).svc.rec_ 0).gstate = 0) ∧
      (let q := { req 5 .active with ready := some 77 }
       let s := fun closing => let s := servingWith 3 [q]
         { s with tables := [(0, { phase := 1, closing })],
                  dck := { s.dck with cfg := { s.dck.cfg with tables := [(0, { s.serveTable 0 with nlane := 4 })] } } }
       q.genReady = true ∧
         ((s false).admitRequests 0 3).svc.reqs.map (·.steps) =
           [[{ tick := 3, lane := 0, n := 1, tokens := [77], pos := 0, gen := true, sampled := true, read := false }]] ∧
         ((s true).admitRequests 0 3).svc.reqs.map (·.steps) = [[]]) := by decide +kernel
end Sys2Proof.Tests
end

section
/-! SUPPORT. What a CANCEL of phase switches does (R61): one equation for each state of the deck, and the tables it leaves. -/

namespace Sys2Proof.Machine

theorem maskedTables_nodup (fn : Fn) (v : Nat) : (maskedTables fn v).Nodup := List.nodup_range.filter _

/-! ### Pending switches a CANCEL reaches or not -/

/-- Table `n` has a pending switch that is at least two ticks ahead: a CANCEL removes it. -/
def State.switchAhead (s : State) (n : Nat) : Bool := (s.table n).switch.any fun w => decide (s.tick + 2 ≤ w.tick)

/-- Table `n` has a pending switch that is nearer than two ticks: a CANCEL comes too late for it. -/
def State.switchLate (s : State) (n : Nat) : Bool :=
  match (s.table n).switch with
  | some w => decide (w.tick < s.tick + 2)
  | none => false

/-- The same in the words of the statements. -/
theorem State.switchLate_eq_any (s : State) :
    s.switchLate = fun n => (s.table n).switch.any fun w => decide (w.tick < s.tick + 2) := by
  funext n
  unfold State.switchLate
  cases (s.table n).switch <;> rfl

/-- A CANCEL reaches exactly the pending switches that it is not too late for. -/
theorem State.switchAhead_eq (s : State) (n : Nat) :
    s.switchAhead n = ((s.table n).switch.isSome && !s.switchLate n) := by
  unfold State.switchAhead State.switchLate
  cases (s.table n).switch with
  | none => rfl
  | some w => simp [← decide_not]

/-- A table whose pending switch is removed. -/
def Table.withoutSwitch (x : Table) : Table := { x with switch := none, closing := false }

/-- The state with the pending switches of a list's tables removed where they are at least two ticks ahead. -/
def State.removeAhead (s : State) (ts : List Nat) : State :=
  (ts.filter s.switchAhead).foldl (fun s' n => s'.modTable n Table.withoutSwitch) s

theorem State.removeAhead_frame (s : State) (ts : List Nat) :
    s.removeAhead ts = { s with tables := (s.removeAhead ts).tables } :=
  State.foldl_modTable_frame _ (fun _ => Table.withoutSwitch) s

theorem State.table_removeAhead (s : State) (ts : List Nat) (hts : ts.Nodup) (n : Nat) :
    (s.removeAhead ts).table n =
      if n ∈ ts ∧ s.switchAhead n = true then (s.table n).withoutSwitch else s.table n := by
  unfold State.removeAhead
  rw [State.table_foldl_modTable _ (hts.filter _) (fun _ => Table.withoutSwitch)]
  simp only [List.mem_filter]

/-! ### The CANCEL -/

theorem State.pswCancel_of_not_running (s : State) (fn : Fn) (v : Nat) (h : s.dck.state ≠ .running) :
    s.pswCancel fn v = { s with rcu := { s.rcu with pswStatus := 0x5023 } } := if_pos h

theorem State.pswCancel_of_running (s : State) (fn : Fn) (v : Nat) (h : s.dck.state = .running) :
    s.pswCancel fn v = { s.removeAhead (maskedTables fn v) with
      rcu := { s.rcu with pswStatus := if (maskedTables fn v).any s.switchLate then 0x5020 else 0 } } := by
  have removed : (maskedTables fn v).foldl (fun s' n =>
      if (s.table n).switch.isSome && !s.switchLate n then s'.modTable n Table.withoutSwitch else s') s =
      s.removeAhead (maskedTables fn v) := by
    simp only [State.removeAhead, List.foldl_filter, State.switchAhead_eq]
  have kept : (s.removeAhead (maskedTables fn v)).rcu = s.rcu := by rw [State.removeAhead_frame]
  rw [← kept, ← removed, State.pswCancel, if_neg (not_not.mpr h)]
  rfl

theorem execPswCancel_of_cancel (fn : Fn) (v : Word) (s : State) (h : bit v.toNat 30 = true) :
    exec (.pswCancel fn v) s = .next ((s.pswFields fn v.toNat).pswCancel fn v.toNat) := by
  show execPswCancel fn v s = _
  rw [execPswCancel, if_pos h]

/-- Settles O13, by the equation of the CANCEL for each state of the deck: MASK and PHASE, which the write stores first, leave
the deck's state, the tick and the tables as they were. -/
theorem cancelRemovesPendingSwitches : Obligations.CancelRemovesPendingSwitches := by
  intro s fn v hv ts fields
  refine ⟨fun hstopped => ?_, fun hrunning => ?_⟩
  · refine ⟨_, execPswCancel_of_cancel fn v s hv, ?_⟩
    rw [State.pswCancel_of_not_running (s.pswFields fn v.toNat) fn v.toNat hstopped]
    exact ⟨rfl, rfl, rfl⟩
  · refine ⟨_, execPswCancel_of_cancel fn v s hv, ?_⟩
    rw [State.pswCancel_of_running (s.pswFields fn v.toNat) fn v.toNat hrunning, State.removeAhead_frame,
      State.switchLate_eq_any]
    exact ⟨rfl, rfl, State.table_removeAhead _ ts (maskedTables_nodup fn v.toNat)⟩

end Sys2Proof.Machine
end

section
/-! SUPPORT. The doorbells of the rings (R251, R303): how the HIF takes one, and what it writes when it runs. -/

namespace Sys2Proof.Machine

/-! ### Bounds of the ring counters (R303) -/

theorem State.writeCrTail_of_within (s : State) (f : Fn) (i : Nat) (v : Word)
    (hlow : ((s.cr f i).tail - (s.cr f i).head).toNat ≤ (v - (s.cr f i).head).toNat)
    (hhigh : (v - (s.cr f i).head).toNat ≤ 2 ^ (s.cr f i).sizeLog) :
    s.writeCrTail f i v = s.setCr f i { s.cr f i with tail := v } := by
  simp only [State.writeCrTail, hlow, hhigh, decide_true, Bool.and_self, if_true]

theorem State.writeCrTail_of_outside (s : State) (f : Fn) (i : Nat) (v : Word)
    (hout : (v - (s.cr f i).head).toNat < ((s.cr f i).tail - (s.cr f i).head).toNat ∨
      2 ^ (s.cr f i).sizeLog < (v - (s.cr f i).head).toNat) :
    s.writeCrTail f i v = s.raiseMgc 0x2001 := by
  refine if_neg fun hin => ?_
  obtain ⟨hlow, hhigh⟩ := Bool.and_eq_true_iff.mp hin
  exact hout.elim (Nat.not_lt.mpr (of_decide_eq_true hlow)) (Nat.not_lt.mpr (of_decide_eq_true hhigh))

theorem State.writeRrHead_of_within (s : State) (f : Fn) (j : Nat) (v : Word)
    (hin : (v - (s.rr f j).head).toNat ≤ ((s.rr f j).prod - (s.rr f j).head).toNat) :
    s.writeRrHead f j v = s.setRr f j { s.rr f j with head := v } := if_pos hin

theorem State.writeRrHead_of_beyond (s : State) (f : Fn) (j : Nat) (v : Word)
    (hout : ((s.rr f j).prod - (s.rr f j).head).toNat < (v - (s.rr f j).head).toNat) :
    s.writeRrHead f j v = s.raiseMgc 0x2001 := if_neg (Nat.not_le.mpr hout)

@[simp] theorem State.queues_setCr (s : State) (f : Fn) (i : Nat) (r : CmdRing) :
    (s.setCr f i r).hif.queues = s.hif.queues := rfl

@[simp] theorem State.queues_setRr (s : State) (f : Fn) (i : Nat) (r : RecRing) :
    (s.setRr f i r).hif.queues = s.hif.queues := rfl

@[simp] theorem State.cr_raiseMgc (s : State) (c d : Nat) (f : Fn) (i : Nat) : (s.raiseMgc c d).cr f i = s.cr f i := by
  simp only [State.cr, State.fn_raiseMgc]

@[simp] theorem State.rr_raiseMgc (s : State) (c d : Nat) (f : Fn) (i : Nat) : (s.raiseMgc c d).rr f i = s.rr f i := by
  simp only [State.rr, State.fn_raiseMgc]

/-! ### The doorbells' places in BAR0 (R302) -/

theorem recRings_le (f : Fn) : recRings f ≤ 18 := by cases f <;> simp [recRings]

theorem State.regWrite_hif (s : State) (f : Fn) (off v : Nat) (hoff : off < 0x100000) (hword : off % 4 = 0) :
    s.regWrite f off v = s.writeHif f off v := by
  have hblock : off / 0x100000 = 0 := by omega
  have hplace : off % 0x100000 / 4 * 4 = off := by omega
  simp only [State.regWrite, State.blockWrite, hblock, hplace]

theorem State.regWrite_crTail (s : State) (f : Fn) (i : Nat) (v : Word) (hi : i < cmdRings) :
    s.regWrite f (0x1000C + 0x20 * i) v.toNat = s.writeCrTail f i v := by
  have hi : i < 4 := hi
  have hring : (0x1000C + 0x20 * i - 0x10000) / 0x20 = i := by omega
  have hreg : (0x1000C + 0x20 * i) % 0x20 = 0x0C := by omega
  have hin : 0x10000 ≤ 0x1000C + 0x20 * i ∧ 0x1000C + 0x20 * i < 0x10000 + 0x20 * cmdRings := by
    simp only [cmdRings]; omega
  rw [State.regWrite_hif s f _ _ (by omega) (by omega), State.writeHif.eq_def, if_neg (by omega), if_neg (by omega),
    if_pos (by simpa using hin), hring, hreg]
  simp only [State.writeCr, BitVec.ofNat_toNat, BitVec.setWidth_eq]

theorem State.regWrite_rrHead (s : State) (f : Fn) (j : Nat) (v : Word) (hj : j < recRings f) :
    s.regWrite f (0x10114 + 0x20 * j) v.toNat = s.writeRrHead f j v := by
  have hfew := recRings_le f
  have hring : (0x10114 + 0x20 * j - 0x10100) / 0x20 = j := by omega
  have hreg : (0x10114 + 0x20 * j) % 0x20 = 0x14 := by omega
  have hcommand : ¬ (0x10114 + 0x20 * j < 0x10000 + 0x20 * cmdRings) := by simp only [cmdRings]; omega
  have hin : 0x10100 ≤ 0x10114 + 0x20 * j ∧ 0x10114 + 0x20 * j < 0x10100 + 0x20 * recRings f := by omega
  rw [State.regWrite_hif s f _ _ (by omega) (by omega), State.writeHif.eq_def, if_neg (by omega), if_neg (by omega),
    if_neg (by simp [hcommand]), if_pos (by simpa using hin), hring, hreg]
  simp only [State.writeRr, BitVec.ofNat_toNat, BitVec.setWidth_eq]

/-! ### Taking a BAR0 write that the HIF may hold (R251, R412) -/

/-- The state in which one more access has been numbered. -/
def State.countAcc (s : State) : State := { s with hif := { s.hif with fetched := s.hif.fetched + 1 } }

/-- The state in which an access has joined those in progress, before the pump serves any. -/
def State.joinAcc (s : State) (b : HostAcc) : State :=
  { s.countAcc with hif := { s.countAcc.hif with accs := s.hif.accs ++ [b] } }

theorem State.takeAcc_of_not_released (s : State) (rq : Requester) (what : HostWhat) (addr : Nat)
    (reply : Option (Nat × Nat)) (hrel : s.hif.released = false) : s.takeAcc rq what addr reply = s := by
  simp only [State.takeAcc, hrel, Bool.not_false, if_true]

theorem State.takeAcc_of_released (s : State) (rq : Requester) (what : HostWhat) (addr : Nat)
    (reply : Option (Nat × Nat)) (hrel : s.hif.released = true) :
    s.takeAcc rq what addr reply = (s.joinAcc { id := s.hif.fetched, rq, what, addr, reply }).pumpHost := by
  simp only [State.takeAcc, hrel, Bool.not_true, Bool.false_eq_true, if_false, State.joinAcc, State.countAcc]

theorem State.dropAcc_joinAcc_of_idle (s : State) (b : HostAcc) (hidle : s.hif.accs = []) :
    (s.joinAcc b).dropAcc b.id = s.countAcc := by
  simp only [State.dropAcc, State.joinAcc, hidle, List.nil_append, List.filter_cons, bne_self_eq_false,
    Bool.false_eq_true, if_false, List.filter_nil]
  rw [← hidle]
  rfl

/-- The rule of R251 for one held BAR0 write: what decides is the BAR2 writes of its requester before it. -/
theorem State.serveAcc_regWrite_of_no_rows_before (s : State) (b : HostAcc) (off v : Nat)
    (hfind : s.hif.accs.find? (·.id == b.id) = some b) (hwhat : b.what = .regWrite off v)
    (hstarted : b.started = false) (hrows : (s.accsBefore b).any (·.what.isRows) = false) :
    s.serveAcc b.id = (s.dropAcc b.id).regWrite b.rq.fn off v := by
  simp only [State.serveAcc, hfind, hwhat, hstarted, hrows, Bool.false_eq_true, if_false]

theorem State.serveAcc_regWrite_of_rows_before (s : State) (b : HostAcc) (off v : Nat)
    (hfind : s.hif.accs.find? (·.id == b.id) = some b) (hwhat : b.what = .regWrite off v)
    (hstarted : b.started = false) (hrows : (s.accsBefore b).any (·.what.isRows) = true) : s.serveAcc b.id = s := by
  simp only [State.serveAcc, hfind, hwhat, hstarted, hrows, Bool.false_eq_true, if_false, if_true]

theorem State.serveAcc_of_rows_left (s : State) (a : HostAcc) (p off : Nat) (data : List Byte)
    (hfind : s.hif.accs.find? (·.id == a.id) = some a) (hwhat : a.what = .write p off data)
    (hstarted : a.started = true) (hleft : a.left ≠ 0) : s.serveAcc a.id = s := by
  simp [State.serveAcc, hfind, hwhat, hstarted, hleft]

/-- The access joins alone, so the pump serves it and no other. -/
theorem State.takeAcc_regWrite_of_idle (s : State) (rq : Requester) (off v addr : Nat) (reply : Option (Nat × Nat))
    (hrel : s.hif.released = true) (hidle : s.hif.accs = []) :
    s.takeAcc rq (.regWrite off v) addr reply = s.countAcc.regWrite rq.fn off v := by
  rw [State.takeAcc_of_released s rq _ addr reply hrel]
  generalize hb : ({ id := s.hif.fetched, rq, what := .regWrite off v, addr, reply } : HostAcc) = b
  have halone : (s.joinAcc b).hif.accs = [b] := by simp [State.joinAcc, hidle]
  calc (s.joinAcc b).pumpHost
      = (s.joinAcc b).serveAcc b.id := by simp [State.pumpHost, halone]
    _ = ((s.joinAcc b).dropAcc b.id).regWrite b.rq.fn off v :=
        State.serveAcc_regWrite_of_no_rows_before _ b off v (by simp [halone]) (by simp [← hb]) (by simp [← hb])
          (by simp [State.accsBefore, halone])
    _ = s.countAcc.regWrite rq.fn off v := by rw [State.dropAcc_joinAcc_of_idle s b hidle, ← hb]

/-- The pump serves both in turn: the first has rows to come, and the second is held behind it. -/
theorem State.pumpHost_of_held_write (s : State) (a b : HostAcc) (p o off v : Nat) (data : List Byte)
    (haccs : s.hif.accs = [a, b]) (hid : a.id < b.id) (hrq : a.rq.id = b.rq.id) (hwhat : a.what = .write p o data)
    (hstarted : a.started = true) (hleft : a.left ≠ 0) (hheld : b.what = .regWrite off v) (hnew : b.started = false) :
    s.pumpHost = s := by
  have hfirst : s.serveAcc a.id = s := State.serveAcc_of_rows_left s a p o data (by simp [haccs]) hwhat hstarted hleft
  have hbefore : s.accsBefore b = [a] := by simp [State.accsBefore, haccs, hid, hrq]
  have hsecond : s.serveAcc b.id = s :=
    State.serveAcc_regWrite_of_rows_before s b off v (by simp [haccs, hid.ne]) hheld hnew
      (by simp [hbefore, hwhat, HostWhat.isRows])
  simp only [State.pumpHost, haccs, List.map_cons, List.map_nil, List.foldl_cons, List.foldl_nil, hfirst, hsecond]

theorem State.takeAcc_regWrite_of_rows_left (s : State) (rq : Requester) (off v addr : Nat) (reply : Option (Nat × Nat))
    (a : HostAcc) (p o : Nat) (data : List Byte) (hrel : s.hif.released = true) (haccs : s.hif.accs = [a])
    (hid : a.id < s.hif.fetched) (hwhat : a.what = .write p o data) (hrq : a.rq.id = rq.id) (hstarted : a.started = true)
    (hleft : a.left ≠ 0) :
    s.takeAcc rq (.regWrite off v) addr reply = { s with hif := { s.hif with
      accs := [a, { id := s.hif.fetched, rq, what := .regWrite off v, addr, reply }], fetched := s.hif.fetched + 1 } } := by
  rw [State.takeAcc_of_released s rq _ addr reply hrel,
    State.pumpHost_of_held_write _ a _ p o off v data (by rw [State.joinAcc, haccs]; rfl) hid hrq hwhat hstarted hleft rfl rfl,
    State.joinAcc, haccs]
  rfl

/-! ### The doorbells -/

theorem exec_crTailWrite (s : State) (rq : Requester) (i : Nat) (v : Word) (hfn : fnOk rq.fn = true) (hi : i < cmdRings) :
    exec (.crTailWrite rq i v) s = .next (s.takeAcc rq (.regWrite (0x1000C + 0x20 * i) v.toNat) 0 none) := by
  show execCrTailWrite rq i v s = _
  rw [execCrTailWrite, if_pos hfn, within, if_pos hi]

theorem exec_rrHeadWrite (s : State) (rq : Requester) (i : Nat) (v : Word) (hfn : fnOk rq.fn = true)
    (hi : i < recRings rq.fn) :
    exec (.rrHeadWrite rq i v) s = .next (s.takeAcc rq (.regWrite (0x10114 + 0x20 * i) v.toNat) 0 none) := by
  show execRrHeadWrite rq i v s = _
  rw [execRrHeadWrite, if_pos hfn, within, if_pos hi]

theorem exec_crTailWrite_of_idle (s : State) (rq : Requester) (i : Nat) (v : Word) (hfn : fnOk rq.fn = true)
    (hi : i < cmdRings) (hrel : s.hif.released = true) (hidle : s.hif.accs = []) :
    exec (.crTailWrite rq i v) s = .next (s.countAcc.writeCrTail rq.fn i v) := by
  rw [exec_crTailWrite s rq i v hfn hi, State.takeAcc_regWrite_of_idle s rq _ _ _ _ hrel hidle, State.regWrite_crTail _ _ _ _ hi]

theorem exec_rrHeadWrite_of_idle (s : State) (rq : Requester) (i : Nat) (v : Word) (hfn : fnOk rq.fn = true)
    (hi : i < recRings rq.fn) (hrel : s.hif.released = true) (hidle : s.hif.accs = []) :
    exec (.rrHeadWrite rq i v) s = .next (s.countAcc.writeRrHead rq.fn i v) := by
  rw [exec_rrHeadWrite s rq i v hfn hi, State.takeAcc_regWrite_of_idle s rq _ _ _ _ hrel hidle, State.regWrite_rrHead _ _ _ _ hi]

/-- A refused doorbell's record is the one that the state raises before it numbers the access. -/
theorem State.countAcc_raiseMgc_posted (s : State) (code : Nat) :
    Posted s (s.countAcc.raiseMgc code) srcMgc 2 code 0 0 := State.raise_posted s.countAcc srcMgc 2 code 0 0

/-- Settles O41. A doorbell that finds the HIF idle is the write of its counter, taken or refused by its bounds; one that finds
a BAR2 write of its requester with rows to come joins the accesses in progress; before the release it is dropped. -/
theorem doorbellsKeepTheirRings : Obligations.DoorbellsKeepTheirRings := by
  intro s rq i v hfn c r queues
  refine ⟨fun hrel => ⟨fun hi => ?_, fun hi => ?_⟩, fun hrel hidle hi hlow hhigh => ?_, fun hrel hidle hi hout => ?_,
    fun hrel hidle hi hin => ?_, fun hrel hidle hi hout => ?_, fun a p off data hrel haccs hid hwhat hrq hstarted hleft => ?_⟩
  · rw [exec_crTailWrite s rq i v hfn hi, State.takeAcc_of_not_released s rq _ _ _ hrel]
  · rw [exec_rrHeadWrite s rq i v hfn hi, State.takeAcc_of_not_released s rq _ _ _ hrel]
  · refine ⟨_, exec_crTailWrite_of_idle s rq i v hfn hi hrel hidle, ?_⟩
    rw [State.writeCrTail_of_within s.countAcc rq.fn i v hlow hhigh]
    exact ⟨fun _ _ => rfl, State.cr_setCr_self _ _ _ _, State.queues_setCr _ _ _ _⟩
  · refine ⟨_, exec_crTailWrite_of_idle s rq i v hfn hi hrel hidle, ?_⟩
    rw [State.writeCrTail_of_outside s.countAcc rq.fn i v hout]
    exact ⟨State.readByte_raiseMgc _ _ _, State.cr_raiseMgc _ _ _ _ _, s.countAcc_raiseMgc_posted _⟩
  · refine ⟨_, exec_rrHeadWrite_of_idle s rq i v hfn hi hrel hidle, ?_⟩
    rw [State.writeRrHead_of_within s.countAcc rq.fn i v hin]
    exact ⟨fun _ _ => rfl, State.rr_setRr_self _ _ _ _, State.queues_setRr _ _ _ _⟩
  · refine ⟨_, exec_rrHeadWrite_of_idle s rq i v hfn hi hrel hidle, ?_⟩
    rw [State.writeRrHead_of_beyond s.countAcc rq.fn i v hout]
    exact ⟨State.readByte_raiseMgc _ _ _, State.rr_raiseMgc _ _ _ _ _, s.countAcc_raiseMgc_posted _⟩
  · have held := fun o w => State.takeAcc_regWrite_of_rows_left s rq o w 0 none a p off data hrel haccs hid hwhat hrq hstarted hleft
    exact ⟨fun hi => ⟨_, exec_crTailWrite s rq i v hfn hi, _, held _ _⟩,
      fun hi => ⟨_, exec_rrHeadWrite s rq i v hfn hi, _, held _ _⟩⟩

end Sys2Proof.Machine
end

section
/-! SUPPORT. The block as a whole: what every command keeps, the idle beat, and what a command may answer. -/

namespace Sys2Proof.Machine

/-! ### What every command keeps -/

/-- A command that is not one of those that set the count leaves the state and its count kept. -/
theorem exec_kept {s : State} (hs : Legal s) (i : Instr) (hi : movesTime i = false) : KeptRes s (exec i s) := by
  have h := Kept.refl hs
  match i, hi with
  | .budgetPeriodEnd tbl, _ => exact execBudgetPeriodEnd_kept tbl s h
  | .grantFromWaiting idx, _ => exact execGrantFromWaiting_kept idx s h
  | .publicationSample idx, _ => exact execPublicationSample_kept idx s h
  | .tickEndCutoff p, _ => exact execTickEndCutoff_kept p s h
  | .deadlineExpire p op, _ => exact execDeadlineExpire_kept p op s h
  | .rcuNowLowWrite v, _ => exact execRcuNowLowWrite_kept v s h
  | .rcuConfigWrite v, _ => exact execRcuConfigWrite_kept v s h
  | .syncSend, _ => exact execSyncSend_kept s h
  | .followSend, _ => exact execFollowSend_kept s h
  | .syncReceive port f arrive, _ => exact execSyncReceive_kept port f arrive s h
  | .holdoverEnter, _ => exact execHoldoverEnter_kept s h
  | .holdoverExpire, _ => exact execHoldoverExpire_kept s h
  | .pswGo fn v, _ => exact execPswGo_kept fn v s h
  | .pswCancel fn v, _ => exact execPswCancel_kept fn v s h
  | .bundleDecode p, _ => exact execBundleDecode_kept p s h
  | .bundleIssue p, _ => exact execBundleIssue_kept p s h
  | .cldResult p, _ => exact execCldResult_kept p s h
  | .setupWrite p, _ => exact execSetupWrite_kept p s h
  | .ringResultWrite p, _ => exact execRingResultWrite_kept p s h
  | .digestPost p, _ => exact execDigestPost_kept p s h
  | .loadComplete p side, _ => exact execLoadComplete_kept p side s h
  | .footWrite p pass stream row upset, _ => exact execFootWrite_kept p pass stream row upset s h
  | .tallyMismatch p, _ => exact execTallyMismatch_kept p s h
  | .tallyVerdict p, _ => exact execTallyVerdict_kept p s h
  | .captureCopy p, _ => exact execCaptureCopy_kept p s h
  | .completionFlagWrite p op, _ => exact execCompletionFlagWrite_kept p op s h
  | .pipNop p, _ => exact execPipNop_kept p s h
  | .halt p, _ => exact execHalt_kept p s h
  | .fma p, _ => exact execFma_kept p s h
  | .falu p, _ => exact execFalu_kept p s h
  | .bfma p, _ => exact execBfma_kept p s h
  | .balu p, _ => exact execBalu_kept p s h
  | .fcmp p, _ => exact execFcmp_kept p s h
  | .ialu p, _ => exact execIalu_kept p s h
  | .icmp p, _ => exact execIcmp_kept p s h
  | .sel p, _ => exact execSel_kept p s h
  | .addi p, _ => exact execAddi_kept p s h
  | .lui p, _ => exact execLui_kept p s h
  | .ori p, _ => exact execOri_kept p s h
  | .cvt p, _ => exact execCvt_kept p s h
  | .sfu p, _ => exact execSfu_kept p s h
  | .movs p, _ => exact execMovs_kept p s h
  | .rnd p, _ => exact execRnd_kept p s h
  | .ld p, _ => exact execLd_kept p s h
  | .lds p, _ => exact execLds_kept p s h
  | .ldp p, _ => exact execLdp_kept p s h
  | .st p, _ => exact execSt_kept p s h
  | .sts p, _ => exact execSts_kept p s h
  | .stp p, _ => exact execStp_kept p s h
  | .pipMemoryComplete p, _ => exact execPipMemoryComplete_kept p s h
  | .pcinv p, _ => exact execPcinv_kept p s h
  | .red p, _ => exact execRed_kept p s h
  | .xch p, _ => exact execXch_kept p s h
  | .mxq p, _ => exact execMxq_kept p s h
  | .br p, _ => exact execBr_kept p s h
  | .brk p, _ => exact execBrk_kept p s h
  | .loop p, _ => exact execLoop_kept p s h
  | .loopr p, _ => exact execLoopr_kept p s h
  | .slotLanding p, _ => exact execSlotLanding_kept p s h
  | .circuitSlotRelease port, _ => exact execCircuitSlotRelease_kept port s h
  | .ringPublish p r, _ => exact execRingPublish_kept p r s h
  | .followerTimeout req, _ => exact execFollowerTimeout_kept req s h
  | .frameSend port, _ => exact execFrameSend_kept port s h
  | .frameReceive port f, _ => exact execFrameReceive_kept port f s h
  | .ackTimeout port, _ => exact execAckTimeout_kept port s h
  | .packetWaitLimit port, _ => exact execPacketWaitLimit_kept port s h
  | .rwrReceive port, _ => exact execRwrReceive_kept port s h
  | .rflagReceive port, _ => exact execRflagReceive_kept port s h
  | .rrdReceive port, _ => exact execRrdReceive_kept port s h
  | .rrspReceive port, _ => exact execRrspReceive_kept port s h
  | .rpushReceive port, _ => exact execRpushReceive_kept port s h
  | .rackReceive port, _ => exact execRackReceive_kept port s h
  | .regrspReceive port, _ => exact execRegrspReceive_kept port s h
  | .hostReadData port, _ => exact execHostReadData_kept port s h
  | .hostCommand port, _ => exact execHostCommand_kept port s h
  | .hostRecord port, _ => exact execHostRecord_kept port s h
  | .hostReadRequest port d, _ => exact execHostReadRequest_kept port d s h
  | .hostData port, _ => exact execHostData_kept port s h
  | .hostWrite port, _ => exact execHostWrite_kept port s h
  | .teleReceive port, _ => exact execTeleReceive_kept port s h
  | .identReceive port f, _ => exact execIdentReceive_kept port f s h
  | .identSend port, _ => exact execIdentSend_kept port s h
  | .telemetryWindowEnd, _ => exact execTelemetryWindowEnd_kept s h
  | .portEnable port, _ => exact execPortEnable_kept port s h
  | .portDisable port, _ => exact execPortDisable_kept port s h
  | .portRetrain port, _ => exact execPortRetrain_kept port s h
  | .laserLightGain idx power, _ => exact execLaserLightGain_kept idx power s h
  | .lightLoss port, _ => exact execLightLoss_kept port s h
  | .trainSettled port, _ => exact execTrainSettled_kept port s h
  | .trainTimeout port, _ => exact execTrainTimeout_kept port s h
  | .hostRingEnable fn record ring cfg, _ => exact execHostRingEnable_kept fn record ring cfg s h
  | .deckLoadComplete data ok, _ => exact execDeckLoadComplete_kept data ok s h
  | .recordPublish fn ring, _ => exact execRecordPublish_kept fn ring s h
  | .holdoffExpire fn ring, _ => exact execHoldoffExpire_kept fn ring s h
  | .vfFlr n, _ => exact execVfFlr_kept n s h
  | .pfFlr, _ => exact execPfFlr_kept s h
  | .hotReset, _ => exact execHotReset_kept s h
  | .perst, _ => exact execPerst_kept s h
  | .railEnableTimeout rail, _ => exact execRailEnableTimeout_kept rail s h
  | .generate d prompt, _ => exact execGenerate_kept d prompt s h
  | .score d prompt, _ => exact execScore_kept d prompt s h
  | .cancel d, _ => exact execCancel_kept d s h
  | .park d, _ => exact execPark_kept d s h
  | .resume d record prompt, _ => exact execResume_kept d record prompt s h
  | .bind d, _ => exact execBind_kept d s h
  | .inputRecordDeadline tbl, _ => exact execInputRecordDeadline_kept tbl s h
  | .resultRead r, _ => exact execResultRead_kept r s h
  | .laneMapSample tbl, _ => exact execLaneMapSample_kept tbl s h
  | .gather g, _ => exact execGather_kept g s h
  | .gatherDeadline g, _ => exact execGatherDeadline_kept g s h
  | .parkComplete reqid giveUp, _ => exact execParkComplete_kept reqid giveUp s h
  | .restoreComplete reqid, _ => exact execRestoreComplete_kept reqid s h
  | .substitutionSwitch tbl, _ => exact execSubstitutionSwitch_kept tbl s h
  | .substitutionCopyTimeout tbl, _ => exact execSubstitutionCopyTimeout_kept tbl s h
  | .recoveryComplete tbl unread, _ => exact execRecoveryComplete_kept tbl unread s h
  | .trimDecay p, _ => exact execTrimDecay_kept p s h
  | .probeGo v, _ => exact execProbeGo_kept v s h
  | .probeComplete e, _ => exact execProbeComplete_kept e s h
  | .probePeriodic, _ => exact execProbePeriodic_kept s h
  | .scrub upsets hits, _ => exact execScrub_kept upsets hits s h
  | .logRead smb, _ => exact execLogRead_kept smb s h
  | .fwWrite smb, _ => exact execFwWrite_kept smb s h
  | .fwCommit smb ok, _ => exact execFwCommit_kept smb ok s h
  | .fwActivate smb, _ => exact execFwActivate_kept smb s h
  | .keyEnrol smb, _ => exact execKeyEnrol_kept smb s h
  | .keyRevoke smb, _ => exact execKeyRevoke_kept smb s h
  | .regRead smb, _ => exact execRegRead_kept smb s h
  | .tempSample idx t, _ => exact execTempSample_kept idx t s h
  | .thermalStop idx t, _ => exact execThermalStop_kept idx t s h
  | .powerStop w, _ => exact execPowerStop_kept w s h
  | .railFault idx mv held, _ => exact execRailFault_kept idx mv held s h
  | .coolantHigh c, _ => exact execCoolantHigh_kept c s h
  | .powerWindowEnd r, _ => exact execPowerWindowEnd_kept r s h
  | .logPageWrite, _ => exact execLogPageWrite_kept s h
  | .logSuppressed, _ => exact execLogSuppressed_kept s h
  | .hdmaComplete fn ring, _ => exact execHdmaComplete_kept fn ring s h
  | .coolantSensorFault, _ => exact execCoolantSensorFault_kept s h
  | .srIovEnable on, _ => exact execSrIovEnable_kept on s h
  | .mgcRestartComplete fw, _ => exact execMgcRestartComplete_kept fw s h
  | .deviceResetComplete, _ => exact execDeviceResetComplete_kept s h

/-- Every command leaves the state moved on: a command that sets the count too. -/
theorem exec_moved {s : State} (hs : Legal s) (i : Instr) : MovedRes s (exec i s) := by
  have h := Moved.refl hs
  by_cases hi : movesTime i = false
  · exact fun t e => (exec_kept hs i hi t e).toMoved
  match i, hi with
  | .tickBoundary, _ => exact execTickBoundary_moved s h
  | .rcuNowLowRead, _ => exact execRcuNowLowRead_moved s h
  | .rcuTickWrite hi lo, _ => exact execRcuTickWrite_moved hi lo s h
  | .followReceive port f, _ => exact execFollowReceive_moved port f s h
  | .ringTailWrite mgc rq p r v, _ => exact execRingTailWrite_moved mgc rq p r v s h
  | .ringHeadWrite mgc rq p r v, _ => exact execRingHeadWrite_moved mgc rq p r v s h
  | .hostWaitLimit p, _ => exact execHostWaitLimit_moved p s h
  | .bar2Write rq addr data, _ => exact execBar2Write_moved rq addr data s h
  | .bar2Read rq addr len, _ => exact execBar2Read_moved rq addr len s h
  | .followerAccess fn win a, _ => exact execFollowerAccess_moved fn win a s h
  | .regrdReceive port, _ => exact execRegrdReceive_moved port s h
  | .regwrReceive port, _ => exact execRegwrReceive_moved port s h
  | .hostBar2Write port, _ => exact execHostBar2Write_moved port s h
  | .hostBar2Read port, _ => exact execHostBar2Read_moved port s h
  | .crTailWrite rq ring v, _ => exact execCrTailWrite_moved rq ring v s h
  | .rrHeadWrite rq ring v, _ => exact execRrHeadWrite_moved rq ring v s h
  | .commandFetch fn ring cmd host, _ => exact execCommandFetch_moved fn ring cmd host s h
  | .deviceReset v, _ => exact execDeviceReset_moved v s h
  | .powerOn fw, _ => exact execPowerOn_moved fw s h
  | .regWrite smb, _ => exact execRegWrite_moved smb s h
  | .thermRestart smb, _ => exact execThermRestart_moved smb s h
  | .registerReadClear smb rq r, _ => exact execRegisterReadClear_moved smb rq r s h
  | .registerWrite smb rq off v, _ => exact execRegisterWrite_moved smb rq off v s h
  | .powerDown, _ => exact execPowerDown_moved s h

theorem Legal.of_pending {s : State} (h : Legal s) (l : List Instr) : Legal { s with pending := l } :=
  ⟨h.mem, h.acc, h.bad, h.tickLow, h.tickHigh, h.role, h.devices⟩

/-- Settles O2, by what every command and the idle beat keep (`Moved`). -/
theorem everyStepKeepsLegal : Obligations.EveryStepKeepsLegal := by
  intro s t hs h
  unfold step at h
  split at h
  · rw [← Host.Outcome.next.inj h]
    exact (State.idleBeat_moved s (Moved.refl hs)).legal
  case h_2 i rest _ => exact (exec_moved (hs.of_pending rest) i t h).legal

/-- Settles O3. -/
theorem resetIsLegal : Obligations.ResetIsLegal := by
  refine ⟨?_, ?_, ?_, ?_, ?_, ?_, ?_⟩ <;> decide

/-- Settles O4. -/
theorem commandsKeepIdentityQueueAndCount : Obligations.CommandsKeepIdentityQueueAndCount := by
  refine ⟨fun i s t hs h => ?_, fun i s t hs hi h => ?_⟩
  · have m := exec_moved hs i t h
    exact ⟨m.grade, m.stepping, m.pending, m.out, m.drawn⟩
  · exact congrArg BitVec.toNat (exec_kept hs i hi t h).count

/-! ### The idle beat -/

/-- A fold of updates that each keep a part of the state keeps that part. -/
theorem foldl_keeps {α β : Type} (part : State → β) {f : State → α → State} (hf : ∀ s x, part (f s x) = part s) :
    ∀ (l : List α) (s : State), part (l.foldl f s) = part s
  | [], _ => rfl
  | x :: l, s => (foldl_keeps part hf l (f s x)).trans (hf s x)

theorem State.reportRows_rcu (s : State) (p : Nat) (un no : Bool) : (s.reportRows p un no).rcu = s.rcu := by
  unfold State.reportRows
  split <;> split <;> simp only [State.raiseExt_rcu]

theorem State.svcRows_rcu (s : State) (p src op e off : Nat) (data : List Byte) :
    (s.svcRows p src op e off data).rcu = s.rcu := by
  unfold State.svcRows
  dsimp only
  rw [State.reportRows_rcu, foldl_keeps State.rcu]
  · rfl
  · intro s x
    split <;> rfl

theorem State.endRequest_rcu (s : State) (q : Request) (status e : Nat) : (s.endRequest q status e).rcu = s.rcu := by
  unfold State.endRequest
  dsimp only
  refine (foldl_keeps State.rcu (fun s _ => State.raise_rcu s _ _ _ _ _) _ _).trans ?_
  unfold State.stopRestore
  split <;> rfl

theorem State.judgeInputs_rcu (s : State) (tbl : Nat) : (s.judgeInputs tbl).rcu = s.rcu := by
  unfold State.judgeInputs State.endAll
  dsimp only
  split
  · rfl
  · split
    · rfl
    · exact foldl_keeps State.rcu (fun s q => s.endRequest_rcu q _ _) _ _

theorem State.judgeGather_rcu (s : State) (g : Nat) : (s.judgeGather g).rcu = s.rcu := by
  unfold State.judgeGather
  dsimp only
  split
  · rfl
  · split
    · rfl
    · split <;> exact foldl_keeps State.rcu (fun s x => s.svcRows_rcu _ _ _ _ _ _) _ _

theorem State.judgeLate_rcu (s : State) : s.judgeLate.rcu = s.rcu := by
  unfold State.judgeLate State.eachTable
  split
  · rw [foldl_keeps State.rcu State.judgeGather_rcu, foldl_keeps State.rcu State.judgeInputs_rcu]
  · rfl

/-- Closing a tick in its last beat skips no beat. -/
theorem State.closeTick_kept_of_lastBeat {s0 s : State} (h : Kept s0 s) (hlast : s.beat + 1 = s.tickLen) : Kept s0 s.closeTick := by
  have hj := State.judgeLate_kept s h
  have hskip : s.judgeLate.tickLen - 1 - s.judgeLate.beat = 0 := by
    have : s.judgeLate.tickLen = s.tickLen ∧ s.judgeLate.beat = s.beat := by
      simp only [State.tickLen, State.beat, State.now, State.judgeLate_rcu, and_self]
    omega
  have hp : Kept s0 (s.judgeLate.pass 0) :=
    ⟨State.pass_moved _ 0 hj.toMoved, (BitVec.add_zero s.judgeLate.rcu.count).trans hj.count⟩
  unfold State.closeTick
  dsimp only
  rw [hskip]
  exact State.meterTick_kept _ (State.eachTile_kept _ _ (fun s p => State.carryTile_kept s p)
    (State.eachTile_kept _ _ (fun s p => State.cutTile_kept s p) hp))

theorem State.pass_one (s : State) : s.pass 1 = { s with
    age := s.age + 1, rcu := { s.rcu with count := s.rcu.count + 1 }, mgc := { s.mgc with flashOpen := [] } } := rfl

theorem State.now_pass_one (s : State) : (s.pass 1).now = (s.now + 1) % 2 ^ 64 := by
  show (s.rcu.count + BitVec.ofNat 64 1).toNat = _
  simp [State.now]

/-- With no access waiting the host window's pump moves nothing. -/
theorem State.fabricWork_now_of_idle {s : State} (hs : Legal s)
    (hidle : s.copyRows.samplePubs.beatWork.takeReads.hif.accs = []) : s.fabricWork.now = s.now := by
  have h : Kept s s.copyRows.samplePubs.beatWork.takeReads :=
    State.takeReads_kept _ (State.beatWork_kept _ (State.samplePubs_kept _ (State.copyRows_kept s (Kept.refl hs))))
  have hpump : s.copyRows.samplePubs.beatWork.takeReads.pumpHost = s.copyRows.samplePubs.beatWork.takeReads := by
    simp only [State.pumpHost, hidle, List.map_nil, List.foldl_nil]
  unfold State.fabricWork
  rw [hpump]
  exact congrArg BitVec.toNat (State.endPass1_kept _ h).count

/-- Settles O1. The idle beat does the beat's work, then passes one beat, behind which the last beat of a tick has the boundary. -/
theorem stepRunsTheFrontCommand : Obligations.StepRunsTheFrontCommand := by
  refine ⟨fun s i rest h => by simp only [step, h], ?_⟩
  intro s hnone hs w
  have hw : Moved s w := State.fabricWork_moved s (Moved.refl hs)
  have hstep : step s = .next s.idleBeat := by simp only [step, hnone]
  have hnow : s.idleBeat.now = (w.now + 1) % 2 ^ 64 := by
    by_cases hlast : w.beat + 1 = w.tickLen
    · have hclose := State.closeTick_kept_of_lastBeat (Kept.refl hw.legal) hlast
      have hpass := State.pass_moved _ 1 hclose.toMoved
      calc s.idleBeat.now = (w.closeTick.pass 1).boundary.now := by rw [State.idleBeat, if_pos hlast]; rfl
        _ = (w.closeTick.pass 1).now := congrArg BitVec.toNat (State.boundary_kept _ (Kept.refl hpass.legal)).count
        _ = (w.closeTick.now + 1) % 2 ^ 64 := State.now_pass_one _
        _ = (w.now + 1) % 2 ^ 64 := by rw [show w.closeTick.now = w.now from congrArg BitVec.toNat hclose.count]
    · rw [State.idleBeat, if_neg hlast]
      exact State.now_pass_one w
  refine ⟨_, hstep, (State.idleBeat_moved s (Moved.refl hs)).pending.trans hnone, hnow, fun hidle => ?_,
    fun hlast => ?_, fun hmid => ?_⟩
  · rw [hnow, show w.now = s.now from State.fabricWork_now_of_idle hs hidle]
  · rw [State.idleBeat, if_pos hlast]
    rfl
  · rw [State.idleBeat, if_neg hmid]
    exact State.pass_one w

/-! ### What a command may answer -/

/-- What an answer may be: the next state, or the fault of a unit that the device does not have; a well-formed command (`w`)
has the next state. -/
def Settles (w : Bool) (r : Res) : Prop := (r = .fault .noSuchUnit ∨ ∃ t, r = .next t) ∧ (w = true → ∃ t, r = .next t)

theorem settles_next {w : Bool} (t : State) : Settles w (.next t) := ⟨.inr ⟨t, rfl⟩, fun _ => ⟨t, rfl⟩⟩

theorem settles_ite {w : Bool} {c : Prop} [Decidable c] {r : Res} (hw : w = true → c) (hr : Settles w r) :
    Settles w (if c then r else .fault .noSuchUnit) := by
  by_cases hc : c
  · rw [if_pos hc]; exact hr
  · rw [if_neg hc]; exact ⟨.inl rfl, fun h => absurd (hw h) hc⟩

theorem settles_within {w : Bool} {i n : Nat} {r : Res} (hw : w = true → i < n) (hr : Settles w r) :
    Settles w (within i n r) := settles_ite hw hr

/-- The function that a command names. -/
theorem settles_fn {w : Bool} {f : Fn} {r : Res} (hw : w = true → f.wf = true) (hr : Settles w r) :
    Settles w (if !fnOk f then .fault .noSuchUnit else r) := by
  have same : fnOk f = f.wf := by cases f <;> rfl
  by_cases hf : fnOk f = true
  · simp only [hf, Bool.not_true, Bool.false_eq_true, if_false]; exact hr
  · simp only [hf, Bool.not_false, if_true]; exact ⟨.inl rfl, fun h => absurd (hw h) (same ▸ hf)⟩

theorem and_parts {a b : Bool} (h : (a && b) = true) : a = true ∧ b = true := Bool.and_eq_true_iff.mp h

theorem and_parts3 {a b c : Bool} (h : (a && b && c) = true) : a = true ∧ b = true ∧ c = true := by
  simpa [and_assoc] using h

theorem recRings_eq_recordRings (f : Fn) : recRings f = f.recordRings := by cases f <;> rfl

theorem fnOk_eq_wf (f : Fn) : fnOk f = f.wf := by cases f <;> rfl

theorem execBrk_settles (p : Nat) (s : State) : Settles (posWf p) (execBrk p s) := by
  have hp : posWf p = true → p < 208 := fun h => of_decide_eq_true h
  unfold execBrk
  dsimp only
  split
  · exact settles_within hp (settles_next _)
  · split
    · exact settles_within hp (settles_next _)
    · exact settles_within hp (settles_next _)

theorem scrubUnitOk_of_wf (hits : List ScrubHit) (h : hits.all ScrubHit.wf = true) : hits.all scrubUnitOk = true := by
  rw [List.all_eq_true] at h ⊢
  intro x hx
  have := h x hx
  cases x with
  | tile p arr flips => exact (and_parts3 this).1
  | port n flips => exact (and_parts this).1

/-- Every command has its next state, or stops for want of a unit that it names; a well-formed one names none that is missing. -/
theorem exec_settles (i : Instr) (s : State) : Settles i.wf (exec i s) := by
  have index {a : Bool} {j n : Nat} (h : (a && decide (j < n)) = true) : j < n := of_decide_eq_true (and_parts h).2
  match i with
  | .tickBoundary | .grantFromWaiting _ | .publicationSample _ | .rcuNowLowRead | .rcuNowLowWrite _
    | .rcuTickWrite _ _ | .rcuConfigWrite _ | .syncSend | .followSend | .holdoverEnter | .holdoverExpire | .pswGo _ _
    | .pswCancel _ _ | .followerTimeout _ | .telemetryWindowEnd | .deckLoadComplete _ _ | .pfFlr | .hotReset | .perst
    | .deviceReset _ | .powerOn _ | .generate _ _ | .score _ _ | .cancel _ | .park _ | .resume _ _ _ | .bind _
    | .gather _ | .gatherDeadline _ | .parkComplete _ _ | .restoreComplete _ | .probeGo _ | .probeComplete _
    | .probePeriodic | .logRead _ | .fwWrite _ | .fwCommit _ _ | .fwActivate _ | .keyEnrol _ | .keyRevoke _
    | .regWrite _ | .regRead _ | .thermRestart _ | .powerStop _ | .coolantHigh _ | .powerWindowEnd _ | .logPageWrite
    | .logSuppressed | .coolantSensorFault | .powerDown | .srIovEnable _ | .mgcRestartComplete _
    | .deviceResetComplete =>
    exact settles_next _
  | .tickEndCutoff p | .deadlineExpire p _ | .bundleDecode p | .bundleIssue p | .cldResult p | .setupWrite p
    | .ringResultWrite p | .digestPost p | .loadComplete p _ | .tallyMismatch p | .tallyVerdict p | .captureCopy p
    | .completionFlagWrite p _ | .pipNop p | .halt p | .fma p | .falu p | .bfma p | .balu p | .fcmp p | .ialu p
    | .icmp p | .sel p | .addi p | .lui p | .ori p | .cvt p | .sfu p | .movs p | .rnd p | .ld p | .lds p | .ldp p
    | .st p | .sts p | .stp p | .pipMemoryComplete p | .pcinv p | .red p | .xch p | .mxq p | .br p | .loop p
    | .loopr p | .slotLanding p | .hostWaitLimit p | .trimDecay p =>
    exact settles_within (fun h => of_decide_eq_true h) (settles_next _)
  | .followReceive port _ | .circuitSlotRelease port | .frameSend port | .ackTimeout port | .packetWaitLimit port
    | .rwrReceive port | .rflagReceive port | .rrdReceive port | .rrspReceive port | .rpushReceive port
    | .rackReceive port | .regrdReceive port | .regwrReceive port | .regrspReceive port | .hostBar2Write port
    | .hostBar2Read port | .hostReadData port | .hostCommand port | .hostRecord port | .hostReadRequest port _
    | .hostData port | .hostWrite port | .teleReceive port | .identSend port | .portEnable port | .portDisable port
    | .portRetrain port | .lightLoss port | .trainSettled port | .trainTimeout port =>
    exact settles_within (fun h => of_decide_eq_true h) (settles_next _)
  | .budgetPeriodEnd tbl | .inputRecordDeadline tbl | .laneMapSample tbl | .substitutionSwitch tbl
    | .substitutionCopyTimeout tbl | .recoveryComplete tbl _ =>
    exact settles_within (fun h => of_decide_eq_true h) (settles_next _)
  | .syncReceive port _ _ | .frameReceive port _ | .identReceive port _ =>
    exact settles_within (fun h => of_decide_eq_true (and_parts h).1) (settles_next _)
  | .ringPublish p r =>
    exact settles_within (fun h => of_decide_eq_true (and_parts h).1) (settles_within index (settles_next _))
  | .ringTailWrite _ rq p r _ | .ringHeadWrite _ rq p r _ =>
    exact settles_fn (fun h => (and_parts3 h).1) (settles_within (fun h => of_decide_eq_true (and_parts3 h).2.1)
      (settles_within index (settles_next _)))
  | .footWrite p _ _ _ _ => exact settles_within (fun h => of_decide_eq_true (and_parts (and_parts3 h).1).1) (settles_next _)
  | .brk p => exact execBrk_settles p s
  | .bar2Write rq _ _ | .bar2Read rq _ _ | .registerWrite _ rq _ _ =>
    exact settles_fn (fun h => (and_parts h).1) (settles_next _)
  | .registerReadClear _ rq _ => exact settles_fn (fun h => (and_parts3 h).1) (settles_next _)
  | .followerAccess fn win _ =>
    exact settles_ite (fun h => (fnOk_eq_wf fn).trans (and_parts3 h).1)
      (settles_within (fun h => of_decide_eq_true (and_parts3 h).2.1) (settles_next _))
  | .crTailWrite rq _ _ => exact settles_ite (fun h => (fnOk_eq_wf rq.fn).trans (and_parts h).1) (settles_within index (settles_next _))
  | .rrHeadWrite rq ring _ =>
    exact settles_ite (fun h => (fnOk_eq_wf rq.fn).trans (and_parts h).1)
      (settles_within (fun h => recRings_eq_recordRings rq.fn ▸ index h) (settles_next _))
  | .hostRingEnable fn true ring _ =>
    exact settles_fn (fun h => (and_parts h).1) (settles_within (fun h => recRings_eq_recordRings fn ▸ index h) (settles_next _))
  | .hostRingEnable fn false ring _ =>
    exact settles_fn (fun h => (and_parts h).1) (settles_within (fun h => of_decide_eq_true (and_parts h).2) (settles_next _))
  | .commandFetch fn ring _ _ =>
    exact settles_fn (fun h => (and_parts3 h).1) (settles_within (fun h => of_decide_eq_true (and_parts3 h).2.1) (settles_next _))
  | .recordPublish fn _ | .holdoffExpire fn _ =>
    exact settles_fn (fun h => (and_parts h).1) (settles_within (fun h => recRings_eq_recordRings fn ▸ index h) (settles_next _))
  | .hdmaComplete fn _ => exact settles_fn (fun h => (and_parts h).1) (settles_within index (settles_next _))
  | .laserLightGain i _ | .vfFlr i | .railEnableTimeout i | .tempSample i _ | .thermalStop i _ | .railFault i _ _ =>
    exact settles_within (fun h => of_decide_eq_true h) (settles_next _)
  | .resultRead r => exact settles_within (fun h => of_decide_eq_true h) (settles_next _)
  | .scrub _ hits => exact settles_ite (fun h => scrubUnitOk_of_wf hits (and_parts h).2) (settles_next _)

/-- Settles O5. -/
theorem wellFormedCommandsComplete : Obligations.WellFormedCommandsComplete :=
  fun i s h => (exec_settles i s).2 h

theorem within_of_le {i n : Nat} {r : Res} (h : n ≤ i) : within i n r = .fault .noSuchUnit := if_neg (Nat.not_lt.mpr h)

/-- Settles O6, by the answers that any command may have; what an absent unit answers is the bound before its meaning. -/
theorem noCommandIsRefused : Obligations.NoCommandIsRefused := by
  refine ⟨fun i s => (exec_settles i s).1, fun s p => ⟨fun h => ?_, fun h => ?_, fun h => ?_⟩⟩
  · exact ⟨within_of_le h, within_of_le h, within_of_le h, within_of_le h, within_of_le h, within_of_le h, within_of_le h,
      within_of_le h⟩
  · exact ⟨within_of_le h, within_of_le h, within_of_le h, within_of_le h⟩
  · exact ⟨within_of_le h, within_of_le h, fun _ => within_of_le h, within_of_le h⟩

end Sys2Proof.Machine
end

section
/-! SUPPORT. The round counter's commands (R30 to R62): accesses to RCU.NOW and RCU.CONFIG, SYNC and FOLLOW, holdover, GO. -/

namespace Sys2Proof.Machine

/-! ### Folds over units -/

/-- Outputs of a fold whose every update appends its own, where an invariant holds. -/
theorem foldl_out {α : Type} (inv : State → Prop) {f : State → α → State} {g : α → List Out}
    (keeps : ∀ s x, inv s → inv (f s x)) (adds : ∀ s x, inv s → (f s x).out = s.out ++ g x) :
    ∀ (l : List α) (s : State), inv s → (l.foldl f s).out = s.out ++ l.flatMap g
  | [], s, _ => (List.append_nil s.out).symm
  | x :: l, s, h => by
    rw [List.foldl_cons, foldl_out inv keeps adds l _ (keeps s x h), adds s x h, List.flatMap_cons, List.append_assoc]

/-- An invariant of every update is one of the fold. -/
theorem foldl_inv {α β : Type} (inv : β → Prop) {f : β → α → β} (keeps : ∀ s x, inv s → inv (f s x)) :
    ∀ (l : List α) (s : β), inv s → inv (l.foldl f s)
  | [], _, h => h
  | x :: l, s, h => foldl_inv inv keeps l _ (keeps s x h)

/-- Two folds whose updates agree where an invariant of the first holds. -/
theorem foldl_congr_inv {α β : Type} (inv : β → Prop) {f g : β → α → β} (keeps : ∀ s x, inv s → inv (f s x))
    (same : ∀ s x, inv s → f s x = g s x) : ∀ (l : List α) (s : β), inv s → l.foldl f s = l.foldl g s
  | [], _, _ => rfl
  | x :: l, s, h => by
    rw [List.foldl_cons, List.foldl_cons, ← same s x h]
    exact foldl_congr_inv inv keeps same l _ (keeps s x h)

/-! ### Taking a read that the HIF may hold (R252, R412) -/

/-- An access that comes to an idle HIF is the one that the pump serves. -/
theorem State.takeAcc_of_idle (s : State) (rq : Requester) (what : HostWhat) (addr : Nat) (reply : Option (Nat × Nat))
    (hrel : s.hif.released = true) (hidle : s.hif.accs = []) :
    s.takeAcc rq what addr reply =
      (s.joinAcc { id := s.hif.fetched, rq, what, addr, reply }).serveAcc s.hif.fetched := by
  rw [State.takeAcc_of_released s rq _ addr reply hrel]
  simp only [State.pumpHost, State.joinAcc, hidle, List.nil_append, List.map_cons, List.map_nil, List.foldl_cons, List.foldl_nil]

/-- What an access finds of itself and of others in a HIF that was idle. -/
theorem State.find_joinAcc_of_idle (s : State) (b : HostAcc) (hidle : s.hif.accs = []) :
    (s.joinAcc b).hif.accs.find? (·.id == b.id) = some b ∧ (s.joinAcc b).accsBefore b = [] := by
  simp [State.joinAcc, State.accsBefore, hidle]

theorem State.takeAcc_regRead_of_idle (s : State) (rq : Requester) (off addr : Nat) (wide : Bool) (reply : Option (Nat × Nat))
    (hrel : s.hif.released = true) (hidle : s.hif.accs = []) :
    s.takeAcc rq (.regRead off wide) addr reply =
      s.countAcc.readBar0 { id := s.hif.fetched, rq, what := .regRead off wide, addr, reply } off wide := by
  rw [State.takeAcc_of_idle s rq _ addr reply hrel hidle]
  generalize hb : ({ id := s.hif.fetched, rq, what := .regRead off wide, addr, reply } : HostAcc) = b
  obtain ⟨hfind, hbefore⟩ := s.find_joinAcc_of_idle b hidle
  have hid : s.hif.fetched = b.id := by rw [← hb]
  have hwhat : b.what = .regRead off wide := by rw [← hb]
  have hnew : b.started = false := by rw [← hb]
  rw [hid, State.serveAcc]
  simp only [hfind, hbefore, hwhat, hnew, List.any_nil, Bool.false_eq_true, if_false]
  rw [State.dropAcc_joinAcc_of_idle s b hidle]

/-- A read waits for an earlier write of its requester that has rows to come. -/
theorem State.takeAcc_regRead_of_rows_left (s : State) (rq : Requester) (off addr : Nat) (wide : Bool)
    (reply : Option (Nat × Nat)) (a : HostAcc) (p o : Nat) (data : List Byte) (hrel : s.hif.released = true)
    (haccs : s.hif.accs = [a]) (hid : a.id < s.hif.fetched) (hwhat : a.what = .write p o data) (hrq : a.rq.id = rq.id)
    (hstarted : a.started = true) (hleft : a.left ≠ 0) :
    s.takeAcc rq (.regRead off wide) addr reply = { s with hif := { s.hif with
      accs := [a, { id := s.hif.fetched, rq, what := .regRead off wide, addr, reply }], fetched := s.hif.fetched + 1 } } := by
  rw [State.takeAcc_of_released s rq _ addr reply hrel]
  generalize hb : ({ id := s.hif.fetched, rq, what := .regRead off wide, addr, reply } : HostAcc) = b
  have hbid : a.id < b.id := by rw [← hb]; exact hid
  have hboth : (s.joinAcc b).hif.accs = [a, b] := by simp [State.joinAcc, haccs]
  have hfirst : (s.joinAcc b).serveAcc a.id = s.joinAcc b :=
    State.serveAcc_of_rows_left _ a p o data (by simp [hboth]) hwhat hstarted hleft
  have hbefore : (s.joinAcc b).accsBefore b = [a] := by
    have : b.rq.id = a.rq.id := by rw [← hb]; exact hrq.symm
    simp [State.accsBefore, hboth, hbid, this]
  have hsecond : (s.joinAcc b).serveAcc b.id = s.joinAcc b := by
    have hfind : (s.joinAcc b).hif.accs.find? (·.id == b.id) = some b := by simp [hboth, hbid.ne]
    have hread : b.what = .regRead off wide := by rw [← hb]
    have hnew : b.started = false := by rw [← hb]
    rw [State.serveAcc]
    simp only [hfind, hbefore, hread, hnew, hwhat, HostWhat.isWrite, List.any_cons, List.any_nil, Bool.or_false,
      Bool.false_eq_true, if_false, if_true]
  simp only [State.pumpHost, hboth, List.map_cons, List.map_nil, List.foldl_cons, List.foldl_nil, hfirst, hsecond]
  rw [State.joinAcc, haccs]
  rfl

/-! ### RCU.NOW (R31) -/

theorem State.voteMask_lt (s : State) (f : Fn) (off : Nat) : s.voteMask f off < 2 ^ 32 := by
  unfold State.voteMask
  have main : ∀ (l : List Nat) (m : Nat), m < 2 ^ 32 → (∀ b ∈ l, b < 32) →
      l.foldl (fun m b => if 2 ≤ upsetsOf s.tly.upsets f (off / 4 * 4) b then m ^^^ 2 ^ b else m) m < 2 ^ 32 := by
    intro l
    induction l with
    | nil => exact fun m h _ => h
    | cons b l ih =>
      intro m hm hl
      refine ih _ ?_ fun x hx => hl x (List.mem_cons_of_mem _ hx)
      dsimp only
      split
      · exact Nat.xor_lt_two_pow hm (Nat.pow_lt_pow_right (by omega) (hl b List.mem_cons_self))
      · exact hm
  exact main _ _ (by omega) fun b hb => List.mem_range.mp hb

/-- The physical function sees every bit of RCU.NOW. -/
theorem State.voteMask_and_seesBits_now (s : State) :
    s.voteMask .pf 0x200000 &&& s.seesBits .pf 0x200000 = s.voteMask .pf 0x200000 := by
  have : s.seesBits .pf 0x200000 = 2 ^ 32 - 1 := rfl
  rw [this, Nat.and_two_pow_sub_one_eq_mod, Nat.mod_eq_of_lt (s.voteMask_lt _ _)]

theorem State.regRead_now (s : State) :
    s.regRead .pf 0x200000 = (s.latchNow, s.roundCounter % 2 ^ 32 ^^^ s.voteMask .pf 0x200000) := by
  have : s.blockRead .pf 0x200000 = (s.latchNow, half s.roundCounter false) := rfl
  rw [State.regRead, this]
  simp only [State.voteMask_and_seesBits_now]
  rfl

/-- What the two reads of RCU.NOW leave, for a requester without a reply to send. -/
theorem State.readBar0_now (s : State) (a : HostAcc) (hfn : a.rq.fn = .pf) (hreply : a.reply = none) :
    s.readBar0 a 0x200000 false =
      s.latchNow.emit (.readData .pf 0x200000 (leBytes 4 (s.roundCounter % 2 ^ 32 ^^^ s.voteMask .pf 0x200000))) ∧
    s.readBar0 a 0x200000 true = s.emit (.readData .pf 0x200000
      (leBytes 8 (s.roundCounter ^^^ (s.voteMask .pf 0x200000 + s.voteMask .pf 0x200004 * 2 ^ 32)))) := by
  constructor
  · simp only [State.readBar0, Bool.false_eq_true, if_false, hfn, State.regRead_now, hreply]
  · simp only [State.readBar0, if_true, hfn]
    rfl

theorem State.takeRead_of_not_released (s : State) (rq : Requester) (off : Nat) (wide : Bool)
    (hrel : s.hif.released = false) : s.takeRead rq off wide = s := by
  unfold State.takeRead
  simp only [State.takeAcc_of_not_released s rq _ _ _ hrel]
  split
  · rfl
  · split
    · split <;> rfl
    · rfl

theorem State.takeRead_of_below_aperture (s : State) (rq : Requester) (off : Nat) (wide : Bool) (h : off < apertureBase) :
    s.takeRead rq off wide = s.takeAcc rq (.regRead off wide) off none := if_pos h

theorem exec_rcuNowLowRead (s : State) : exec .rcuNowLowRead s = .next (s.takeRead (hostOf .pf) 0x200000 false) := rfl

theorem exec_registerReadClear_pf (s : State) (id : Nat) (a : BarRead) :
    exec (.registerReadClear false { fn := .pf, id } a) s = .next (s.takeRead { fn := .pf, id } a.off a.wide) := rfl

theorem execRcuTickWrite_eq (hi : Word) (lo : Option Word) (s : State) :
    exec (.rcuTickWrite hi lo) s = .next (s.writeTick (hi.toNat * 2 ^ 16 +
      (match lo with | some x => x.toNat / 2 ^ 16 | none => s.rcu.hold.toNat))) := by
  cases lo <;> rfl

theorem State.noDeck_iff (s : State) :
    s.noDeck = true ↔ s.dck.state ≠ .running ∧ s.dck.state ≠ .stopping ∧ s.dck.state ≠ .starting := by
  unfold State.noDeck
  cases s.dck.state <;> simp

/-- Settles O7, by what the HIF does with a read: dropped before the release, served when it is idle, held behind a write. -/
theorem roundCounterAccesses : Obligations.RoundCounterAccesses := by
  intro s id v hi lo rq fetched low
  have below : (0x200000 : Nat) < apertureBase := by decide
  have served : ∀ i wide, s.hif.released = true → s.hif.accs = [] → s.takeRead { fn := .pf, id := i } 0x200000 wide =
      s.countAcc.readBar0 { id := s.hif.fetched, rq := { fn := .pf, id := i }, what := .regRead 0x200000 wide, addr := 0x200000, reply := none }
        0x200000 wide := fun i wide hrel hidle => by
    rw [State.takeRead_of_below_aperture s _ _ _ below, State.takeAcc_regRead_of_idle s _ _ _ _ _ hrel hidle]
  refine ⟨fun hrel => ⟨?_, fun a => ?_⟩, fun hrel hidle => ⟨?_, ?_, ?_⟩, ?_, rfl, ?_⟩
  · rw [exec_rcuNowLowRead, State.takeRead_of_not_released s _ _ _ hrel]
  · rw [exec_registerReadClear_pf, State.takeRead_of_not_released s _ _ _ hrel]
  · rw [exec_rcuNowLowRead, hostOf, served 0 false hrel hidle, (State.readBar0_now _ _ rfl rfl).1]
    rfl
  · rw [exec_registerReadClear_pf, served id false hrel hidle, (State.readBar0_now _ _ rfl rfl).1]
    rfl
  · rw [exec_registerReadClear_pf, served id true hrel hidle, (State.readBar0_now _ _ rfl rfl).2]
    rfl
  · intro a p off data hrel haccs hid hwhat hrq hstarted hleft
    have held : ∀ i, a.rq.id = i → ∃ b, s.takeRead { fn := .pf, id := i } 0x200000 false =
        { s with hif := { fetched with accs := [a, b] } } := fun i hi => by
      rw [State.takeRead_of_below_aperture s _ _ _ below,
        State.takeAcc_regRead_of_rows_left s _ _ _ _ _ a p off data hrel haccs hid hwhat hi hstarted hleft]
      exact ⟨_, rfl⟩
    constructor
    · obtain ⟨b, hb⟩ := held id hrq
      exact ⟨b, congrArg _ hb⟩
    · intro hzero
      obtain ⟨b, hb⟩ := held 0 (hrq.trans hzero)
      exact ⟨b, congrArg _ hb⟩
  · intro tick
    rw [execRcuTickWrite_eq, State.writeTick]
    congr 1
    simp only [Bool.and_eq_true, decide_eq_true_eq, State.noDeck_iff]
    rfl

/-! ### RCU.CONFIG (R35) -/

/-- Settles O8. -/
theorem roleWriteSetsState : Obligations.RoleWriteSetsState := by
  intro s v
  constructor
  · intro h
    show execRcuConfigWrite v s = _
    simp only [execRcuConfigWrite, h, Bool.not_false, if_true]
  · intro h
    refine ⟨_, rfl, ?_⟩
    simp only [h, Bool.not_true, Bool.false_eq_true, if_false]
    refine ⟨trivial, trivial, trivial, trivial, ?_, trivial, trivial⟩
    exact rfl

/-! ### SYNC and FOLLOW leave (R37) -/

/-- What sending on the side channel leaves alone: everything but the outputs and the ports, and of a port its last SYNC
and its state. -/
def SentOnly (s t : State) : Prop :=
  t = { s with out := t.out, ports := t.ports } ∧ ∀ n, (t.port n).gotSync = (s.port n).gotSync

theorem SentOnly.refl (s : State) : SentOnly s s := ⟨rfl, fun _ => rfl⟩

theorem SentOnly.trans {s t u : State} (h : SentOnly s t) (g : SentOnly t u) : SentOnly s u :=
  ⟨by rw [g.1, h.1], fun n => (g.2 n).trans (h.2 n)⟩

theorem SentOnly.modPort {s t : State} (h : SentOnly s t) (n : Nat) (f : Port → Port) (hf : ∀ x, (f x).gotSync = x.gotSync) :
    SentOnly s (t.modPort n f) := by
  refine h.trans ⟨rfl, fun m => ?_⟩
  rw [State.modPort, State.port_setPort]
  split
  · next e => rw [e]; exact hf _
  · rfl

theorem SentOnly.sendLink {s t : State} (h : SentOnly s t) (n ptype : Nat) (l : List Byte) (w : Wire) :
    SentOnly s (t.sendLink n ptype l w) := by
  unfold State.sendLink State.carry
  split
  · exact (h.modPort n _ fun _ => by rfl).modPort _ _ fun _ => by rfl
  · exact h.modPort n _ fun _ => by rfl

theorem State.sendLink_out (s : State) (n ptype : Nat) (l : List Byte) (w : Wire) : (s.sendLink n ptype l w).out = s.out := by
  unfold State.sendLink State.carry
  split <;> rfl

theorem SentOnly.emit {s t : State} (h : SentOnly s t) (o : Out) : SentOnly s (t.emit o) := h.trans ⟨rfl, fun _ => rfl⟩

/-- The SYNC that a state sends (R37). -/
def State.ownSync (s : State) : SyncFlit :=
  { dev := s.lnk.dev, rootDev := s.rcu.rootDev, depth := s.rcu.depth, state := s.rcu.state.code, depart := s.stamp16 }

theorem SentOnly.sendSync {s t : State} (h : SentOnly s t) (n : Nat) : SentOnly s (t.sendSync n) :=
  ((h.modPort n _ fun _ => by rfl).sendLink n _ _ _).emit _

theorem SentOnly.ownSync {s t : State} (h : SentOnly s t) : t.ownSync = s.ownSync := by
  rw [h.1]
  rfl

theorem State.sendSync_out (s : State) (n : Nat) : (s.sendSync n).out = s.out ++ [.sync n s.ownSync] := by
  unfold State.sendSync
  rw [State.emit_out, State.sendLink_out]
  rfl

theorem SentOnly.sendFollow {s t : State} (h : SentOnly s t) (n : Nat) : SentOnly s (t.sendFollow n) := by
  unfold State.sendFollow
  split
  · exact (h.sendLink n _ _ _).emit _
  · exact h

theorem State.sendFollow_out (s : State) (n : Nat) : (s.sendFollow n).out = s.out ++
    ((s.port n).gotSync.map fun x => Out.follow n { peerDepart := x.1.depart, peerArrive := x.2 }).toList := by
  unfold State.sendFollow
  split
  · next y at_ e =>
    rw [State.emit_out, State.sendLink_out, e]
    rfl
  · next e =>
    rw [e]
    exact (List.append_nil _).symm

/-- A SYNC leaves every port of a list. -/
theorem State.foldl_sendSync (s : State) (l : List Nat) :
    SentOnly s (l.foldl State.sendSync s) ∧ (l.foldl State.sendSync s).out = s.out ++ l.map fun n => Out.sync n s.ownSync := by
  refine ⟨foldl_inv (SentOnly s) (fun _ n h => h.sendSync n) l s (SentOnly.refl s), ?_⟩
  rw [foldl_out (SentOnly s) (g := fun n => [Out.sync n s.ownSync]) (fun _ n h => h.sendSync n)
    (fun t n h => by rw [State.sendSync_out, h.ownSync]) l s (SentOnly.refl s), List.map_eq_flatMap]

theorem State.foldl_sendFollow (s : State) (l : List Nat) :
    SentOnly s (l.foldl State.sendFollow s) ∧ (l.foldl State.sendFollow s).out = s.out ++ l.filterMap fun n =>
      (s.port n).gotSync.map fun x => Out.follow n { peerDepart := x.1.depart, peerArrive := x.2 } := by
  refine ⟨foldl_inv (SentOnly s) (fun _ n h => h.sendFollow n) l s (SentOnly.refl s), ?_⟩
  rw [foldl_out (SentOnly s) (fun _ n h => h.sendFollow n)
    (fun t n h => by rw [State.sendFollow_out, h.2 n]) l s (SentOnly.refl s), List.filterMap_eq_flatMap_toList]

theorem SentOnly.sameMemory {s t : State} (h : SentOnly s t) : SameMemory s t := by
  rw [h.1]
  exact fun _ _ => rfl

theorem execSyncSend_of_not_syncBeat (s : State) (h : s.syncBeat 64 = false) : exec .syncSend s = .next s := by
  show execSyncSend s = _
  simp only [execSyncSend, h, Bool.false_eq_true, if_false]

theorem execFollowSend_of_not_syncBeat (s : State) (h : s.syncBeat 1024 = false) : exec .followSend s = .next s := by
  show execFollowSend s = _
  simp only [execFollowSend, h, Bool.false_eq_true, if_false]

theorem State.syncBeat_iff (s : State) (b : Nat) :
    s.syncBeat b = true ↔ (s.rcu.role = 1 ∨ s.rcu.role = 2) ∧ s.beat = b ∧ s.tick % 2 ^ s.rcu.syncLog = 0 := by
  rw [show 2 ^ s.rcu.syncLog = s.syncPeriod from rfl]
  simp only [State.syncBeat, Bool.and_eq_true, Bool.or_eq_true, decide_eq_true_eq, and_assoc]

theorem syncFlitsLeaveTheUpPorts : Claims.SyncFlitsLeaveTheUpPorts := by
  intro s htick
  refine ⟨fun hrole hbeat => ?_, fun hrole hbeat => ?_, fun hrole => ?_, fun hbeat => ?_, fun hbeat => ?_⟩
  · have h : s.syncBeat 64 = true := (s.syncBeat_iff 64).mpr ⟨hrole, hbeat, htick⟩
    refine ⟨_, rfl, ?_⟩
    simp only [h, if_true]
    split
    · obtain ⟨hsent, hout⟩ := (s.raiseMgc 0x5002).foldl_sendSync (s.raiseMgc 0x5002).upPorts
      exact ⟨hsent.sameMemory, hout⟩
    · obtain ⟨hsent, hout⟩ := s.foldl_sendSync s.upPorts
      exact ⟨hsent.sameMemory, hout⟩
  · have h : s.syncBeat 1024 = true := (s.syncBeat_iff 1024).mpr ⟨hrole, hbeat, htick⟩
    refine ⟨_, rfl, ?_⟩
    simp only [h, if_true]
    obtain ⟨hsent, hout⟩ := s.foldl_sendFollow s.upPorts
    exact ⟨hsent.1, hout⟩
  · have h : ∀ b, s.syncBeat b = false := fun b => by
      rw [Bool.eq_false_iff]
      intro hb
      have := ((s.syncBeat_iff b).mp hb).1
      omega
    exact ⟨execSyncSend_of_not_syncBeat s (h 64), execFollowSend_of_not_syncBeat s (h 1024)⟩
  · exact execSyncSend_of_not_syncBeat s (Bool.eq_false_iff.mpr fun h => hbeat ((s.syncBeat_iff 64).mp h).2.1)
  · exact execFollowSend_of_not_syncBeat s (Bool.eq_false_iff.mpr fun h => hbeat ((s.syncBeat_iff 1024).mp h).2.1)

theorem syncOfAnotherRootIsDiscarded : Claims.SyncOfAnotherRootIsDiscarded := by
  intro s u n f arrive hn
  have answer : exec (.syncReceive n f arrive) s = .next (match s.arrives n Wire.sync? f with
      | (s, none) => s
      | (s, some f) =>
        if (s.port n).state ≠ .up then s
        else if f.rootDev ≠ s.rcu.rootDev then (s.modPort n fun x => { x with gotSync := none }).raiseMgc 0x5001
        else s.modPort n fun x => { x with gotSync := some (f, arrive) }) := if_pos hn
  refine ⟨fun h => ?_, fun g h => ⟨fun hdown => ?_, fun hup hroot => ?_, fun hup hroot => ?_⟩⟩
  · rw [answer, h]
  · rw [answer, h]
    simp only [ne_eq, hdown, not_false_eq_true, if_true]
  · rw [answer, h]
    simp only [ne_eq, hup, hroot, not_true_eq_false, if_false]
  · refine ⟨_, answer, ?_⟩
    rw [h]
    simp only [ne_eq, hup, hroot, not_true_eq_false, not_false_eq_true, if_false, if_true]
    exact ⟨State.raise_posted _ _ _ _ _ _, State.raise_onlyRecords _ _ _ _ _ _⟩

/-- Settles O9. -/
theorem syncFlitsAreSentAndChecked : Obligations.SyncFlitsAreSentAndChecked :=
  ⟨syncFlitsLeaveTheUpPorts, syncOfAnotherRootIsDiscarded⟩

/-! ### HOLDOVER and LOST (R42, R43) -/

theorem SameMemory.of_mem {s t : State} (h : t.mem = s.mem) : SameMemory s t := fun p o => by
  rw [State.readByte, h, State.readByte]

/-- What `Posted` reads: the queues of both states, and of the first its commands in progress and its round counter. -/
theorem Posted.congr {a b a' b' : State} {src kind status tag detail : Nat} (h : Posted a b src kind status tag detail)
    (hb : b'.hif.queues = b.hif.queues) (hq : a'.hif.queues = a.hif.queues) (hf : a'.hif.fns = a.hif.fns)
    (hr : a'.roundCounter = a.roundCounter) : Posted a' b' src kind status tag detail := by
  have queue : ∀ k, a'.queue k = a.queue k := fun k => by rw [State.queue, hq, State.queue]
  have runs : ∀ f win, a'.runs f win = a.runs f win := fun f win => by simp only [State.runs, State.cr, State.fn, hf]
  have owed : ∀ k, a'.owed k = a.owed k := fun k => by simp only [State.owed, runs]
  unfold Posted at h ⊢
  rw [State.queue, hb, queue, owed, hr]
  exact h

/-- Entering LOST: the state and its code, every dealer told to stop, and no memory changed. -/
theorem State.enterLost_spec (s : State) (h : s.rcu.state ≠ .lost) :
    s.enterLost.rcu = { s.rcu with state := .lost } ∧ Posted s s.enterLost srcMgc 2 0x5004 0 0 ∧
      (∀ i < 16, (s.enterLost.table i).stopping = true) ∧ SameMemory s s.enterLost := by
  obtain ⟨w, hw⟩ : ∃ w : State, w = { s with rcu := { s.rcu with state := .lost } } := ⟨_, rfl⟩
  have he : s.enterLost = (List.range 16).foldl (fun s t => s.modTable t fun x => { x with stopping := true })
      (w.raiseMgc 0x5004) := by rw [hw]; exact if_neg h
  have hframe := State.foldl_modTable_frame (List.range 16) (fun _ x => { x with stopping := true }) (w.raiseMgc 0x5004)
  have hposted : Posted w (w.raiseMgc 0x5004) srcMgc 2 0x5004 0 0 := State.raise_posted _ _ _ _ _ _
  refine ⟨?_, ?_, fun i hi => ?_, ?_⟩
  · rw [he, hframe]
    show (w.raiseMgc 0x5004).rcu = _
    rw [State.raiseMgc_rcu, hw]
  · rw [he, hframe]
    exact hposted.congr rfl (by rw [hw]) (by rw [hw]) (by rw [hw]; rfl)
  · rw [he, State.table_foldl_modTable _ List.nodup_range fun _ x => { x with stopping := true },
      if_pos (List.mem_range.mpr hi)]
  · rw [he, hframe]
    refine SameMemory.of_mem ?_
    show (w.raiseMgc 0x5004).mem = _
    rw [State.raiseMgc_mem, hw]

theorem exec_holdoverEnter (s : State) (hrole : s.rcu.role = 2) (hstate : s.rcu.state = .locked) :
    exec .holdoverEnter s = .next (
      if s.rcu.holdLimit = 0 then (if s.syncPeriod < s.rcu.holdTicks then s.enterLost else s)
      else if 2 * s.syncPeriod ≤ s.rcu.holdTicks then ({ s with rcu := { s.rcu with state := .holdover } } : State).raiseMgc 0x5003
      else s) := by
  show execHoldoverEnter s = _
  simp [execHoldoverEnter, hrole, hstate]

/-- Settles O11. -/
theorem holdoverEntersAndExpires : Obligations.HoldoverEntersAndExpires := by
  intro s lost
  have islost : s.rcu.state ≠ .lost → lost s.enterLost := s.enterLost_spec
  refine ⟨fun hrole hstate hlimit hmissed => ?_, fun hrole hstate hlimit => ⟨fun hmissed => ?_, fun hkept => ?_⟩,
    fun hstate hticks => ?_⟩
  · refine ⟨_, exec_holdoverEnter s hrole hstate, ?_⟩
    rw [if_neg hlimit, if_pos (show 2 * s.syncPeriod ≤ _ from hmissed)]
    exact ⟨State.raise_onlyRecords _ _ _ _ _ _, State.raise_posted _ _ _ _ _ _⟩
  · refine ⟨_, exec_holdoverEnter s hrole hstate, ?_⟩
    rw [if_pos hlimit, if_pos (show s.syncPeriod < _ from hmissed)]
    exact islost (by rw [hstate]; decide)
  · rw [exec_holdoverEnter s hrole hstate, if_pos hlimit, if_neg (show ¬ s.syncPeriod < _ from Nat.not_lt.mpr hkept)]
  · refine ⟨_, rfl, ?_⟩
    simp only [hstate, hticks, decide_true, Bool.and_self, if_true]
    exact islost (by rw [hstate]; decide)

/-! ### GO (R59) -/

/-- A table with the pending switch that a GO gives it. -/
def Table.withSwitch (tick phase : Nat) (x : Table) : Table := { x with switch := some { tick, phase }, closing := true }

theorem State.pswGo_eq (s : State) (fn : Fn) (v : Nat) :
    s.pswGo fn v =
      let code := s.pswCheck (maskedTables fn v) (bits v 16 2)
      let u : State := { s with rcu := { s.rcu with pswStatus := code } }
      if code ≠ 0 then u
      else (maskedTables fn v).foldl (fun a t => a.modTable t (Table.withSwitch s.rcu.pswTick (bits v 16 2))) u := by
  unfold State.pswGo
  dsimp only
  split
  · rfl
  · refine foldl_congr_inv (fun u : State => u.rcu.pswTick = s.rcu.pswTick) (fun _ _ h => by exact h) (fun u t h => by rw [h]; rfl) _ _ (by rfl)

/-- Settles O12. MASK and PHASE, which the write stores first, are read by none of the checks. -/
theorem goIsCheckedInOrder : Obligations.GoIsCheckedInOrder := by
  intro s fn v hgo hcancel ts phase code
  have answer : exec (.pswGo fn v) s = .next ((s.pswFields fn v.toNat).pswGo fn v.toNat) := by
    show execPswGo fn v s = _
    simp only [execPswGo, hgo, hcancel, Bool.false_eq_true, if_false, if_true]
  have hcode : (s.pswFields fn v.toNat).pswCheck ts phase = code := by
    show s.pswCheck ts phase = code
    simp only [State.pswCheck, code, List.isEmpty_iff]
  refine ⟨_, answer, ?_⟩
  rw [State.pswGo_eq]
  dsimp only
  rw [show (s.pswFields fn v.toNat).pswCheck (maskedTables fn v.toNat) (bits v.toNat 16 2) = code from hcode]
  by_cases hzero : code = 0
  · rw [if_neg (not_not.mpr hzero), State.foldl_modTable_frame]
    refine ⟨rfl, rfl, fun n => ?_⟩
    show State.table (List.foldl _ _ _) n = _
    rw [State.table_foldl_modTable _ (maskedTables_nodup fn v.toNat) fun _ => Table.withSwitch _ _]
    simp only [hzero, true_and]
    rfl
  · rw [if_pos hzero]
    refine ⟨rfl, rfl, fun n => ?_⟩
    rw [if_neg fun h => hzero h.1]
    rfl

end Sys2Proof.Machine
end

section
/-! SUPPORT. The pips (R121 to R148): what issuing an instruction leaves, results on their way, reduction, control. -/

namespace Sys2Proof.Machine

/-! ### The pips of a position -/

@[simp] theorem State.tile_setPips (s : State) (p : Nat) (x : Pips) :
    (s.setPips p x).tile p = { s.tile p with pips := x } := State.tile_modTile_self s p _

theorem State.onlyTile_modTile (s : State) (p : Nat) (f : Tile → Tile) : OnlyTile p s (s.modTile p f) :=
  ⟨rfl, fun q hq => State.tile_setTile_ne s p q _ hq⟩

theorem State.onlyTile_setPips (s : State) (p : Nat) (x : Pips) : OnlyTile p s (s.setPips p x) := s.onlyTile_modTile p _

theorem State.pipRun_of_issues (s : State) (p op : Nat) (f : Pips → Nat → Pips) (hp : p < 208) (h : s.pipIssues p op = true) :
    s.pipRun p op f = .next (s.setPips p (f (s.pipsAt p) (s.stamp (p / 13)))) := by
  unfold State.pipRun
  rw [within, if_pos hp, if_pos h]

/-! ### Results on their way -/

theorem Pips.foldl_give (l : List Nat) (r v : Nat → Nat) (due : Nat) (x : Pips) :
    l.foldl (fun y i => y.give i (r i) due (v i)) x =
      { x with pend := x.pend ++ l.map fun i => { key := pipKey i (r i), due, value := BitVec.ofNat 32 (v i) } } := by
  induction l generalizing x with
  | nil => simp
  | cons i l ih => rw [List.foldl_cons, ih]; simp [Pips.give]

theorem Pips.foldl_giveCond (l : List Nat) (v : Nat → Bool) (due : Nat) (x : Pips) :
    l.foldl (fun y i => y.giveCond i due (v i)) x =
      { x with pend := x.pend ++ l.map fun i => { key := pipPKey i, due, value := BitVec.ofNat 32 (b2n (v i)) } } := by
  induction l generalizing x with
  | nil => simp
  | cons i l ih => rw [List.foldl_cons, ih]; simp [Pips.giveCond]

/-- The instruction at PC has issued and its results are on their way. -/
def Pips.issues (x : Pips) (now : Nat) (results : List PipPend) : Pips :=
  { x with
    pend := x.pend ++ results
    pc := (countDown x.pc x.stack).1
    stack := (countDown x.pc x.stack).2
    run := x.run.map fun d => { d with last := now } }

theorem Pips.each_eq (x : Pips) (now n : Nat) (val : Pips → Nat → PipFields → Nat) :
    x.each now n val = x.issues now (x.active.map fun i =>
      { key := pipKey i (x.instr i).d, due := now + n, value := BitVec.ofNat 32 (val x i (x.instr i)) }) := by
  rw [Pips.each, Pips.foldl_give]
  rfl

theorem Pips.eachCond_eq (x : Pips) (now : Nat) (val : Pips → Nat → PipFields → Bool) :
    x.eachCond now val = x.issues now (x.active.map fun i =>
      { key := pipPKey i, due := now + 1, value := BitVec.ofNat 32 (b2n (val x i (x.instr i))) }) := by
  rw [Pips.eachCond, Pips.foldl_giveCond]
  rfl

/-- A pip command whose instruction gives each active pip one result. -/
theorem State.pipResult_of_issues (s : State) (p op n : Nat) (f : Pips → Nat → Pips) (key : Nat → PipFields → Nat)
    (val : Pips → Nat → PipFields → Word) (hp : p < 208) (h : s.pipIssues p op = true)
    (hf : ∀ x now, f x now = x.issues now (x.active.map fun i =>
      { key := key i (x.instr i), due := now + n, value := val x i (x.instr i) })) :
    ∃ t : State, s.pipRun p op f = .next t ∧ PipResult s t p n key val := by
  refine ⟨_, s.pipRun_of_issues p op f hp h, s.onlyTile_setPips p _, ?_, ?_⟩
  · rw [State.tile_setPips]
  · rw [State.tile_setPips, hf]
    rfl

/-- The same for an instruction whose result in a pip is a number modulo 2^32. -/
theorem State.pipResult_each (s : State) (p op n : Nat) (val : Pips → Nat → PipFields → Nat) (hp : p < 208)
    (h : s.pipIssues p op = true) :
    ∃ t : State, (s.pipRun p op fun x now => x.each now n val) = .next t ∧
      PipResult s t p n (fun i f => pipKey i f.d) fun x i f => BitVec.ofNat 32 (val x i f) :=
  s.pipResult_of_issues p op n _ _ _ hp h fun x now => x.each_eq now n val

/-- Settles O21: each of the seven gives every active pip its own function's value. -/
theorem pipNumericResults : Obligations.PipNumericResults := by
  intro s p hp toD
  exact ⟨s.pipResult_each p _ _ _ hp, s.pipResult_each p _ _ _ hp, s.pipResult_each p _ _ _ hp, s.pipResult_each p _ _ _ hp,
    s.pipResult_each p _ _ _ hp, s.pipResult_each p _ _ _ hp, s.pipResult_each p _ _ _ hp⟩

/-! ### MOVS in a pip whose own instruction is another (R123, R132) -/

/-- Pips 0 and 1 are dispatched in phase 1; at PC, pip 0 has MOVS g1, 0 and pip 1 has LUI g1, 100. -/
def movsBesideLui : State :=
  { State.reset with
    rcu := { count := 10 }
    tables := [(0, { phase := 1 })]
    tiles := [(0, { pips := { istore := [(0, 0x3C200000), (2048, 0x2C200064)], run := some ⟨3, 0, 0, 0⟩ } })] }

/-- The state that MOVS leaves there. -/
def movsBesideLuiNext : State :=
  movsBesideLui.setPips 0 ((movsBesideLui.pipsAt 0).each (movsBesideLui.stamp 0) 1 fun _ i f => movsBesideLui.special 0 i f.imm)

theorem exec_movs_movsBesideLui : exec (.movs 0) movsBesideLui = .next movsBesideLuiNext :=
  movsBesideLui.pipRun_of_issues 0 0x0f
    (fun x now => x.each now 1 fun _ i f => movsBesideLui.special 0 i f.imm) (by decide) (by decide +kernel)

/-- The results on their way there: pip 1 has the phase, for its immediate is none of the listed ones. -/
theorem pend_movsBesideLuiNext : (movsBesideLuiNext.tile 0).pips.pend = [⟨1, 11, 0⟩, ⟨33, 11, 1⟩] := by decide +kernel

/-- Refutes O22: which instruction issues is the lead pip's opcode, and the images of the pips may differ at PC. With MOVS in
pip 0 and LUI g1, 100 in pip 1, MOVS gives pip 1 the table's phase, where the statement has 0 for an immediate of 100. -/
theorem not_pipIntegerAndCompareResults : ¬ Obligations.PipIntegerAndCompareResults := by
  intro h
  obtain ⟨-, -, -, -, -, hmovs⟩ := h.1 movsBesideLui 0 (by decide)
  obtain ⟨t, ht, -, -, hpips⟩ := hmovs (by decide +kernel)
  rw [exec_movs_movsBesideLui] at ht
  cases ht
  have hpend := congrArg Pips.pend hpips
  rw [pend_movsBesideLuiNext] at hpend
  exact absurd hpend (by decide +kernel)

/-! ### Reduction (R142) -/

/-- A level of the tree keeps the sum of what its nodes add. -/
theorem sum_redLevel (l : List Nat) :
    ((redLevel (fun a b => (a + b) % 2 ^ 32) l).map (BitVec.ofNat 32)).sum = (l.map (BitVec.ofNat 32)).sum := by
  induction l using redLevel.induct with
  | case1 a b l ih =>
    have node : BitVec.ofNat 32 ((a + b) % 2 ^ 32) = BitVec.ofNat 32 a + BitVec.ofNat 32 b := by
      rw [BitVec.ofNat_add_ofNat]
      exact BitVec.eq_of_toNat_eq (by simp)
    rw [redLevel, List.map_cons, List.sum_cons, ih, node, List.map_cons, List.map_cons, List.sum_cons, List.sum_cons, add_assoc]
  | case2 l h => rw [redLevel.eq_def]; split <;> simp_all

theorem length_redLevel {α : Type} (f : α → α → α) (l : List α) : (redLevel f l).length = (l.length + 1) / 2 := by
  induction l using redLevel.induct with
  | case1 a b l ih => simp only [redLevel, List.length_cons, ih]; omega
  | case2 l h =>
    match l, h with
    | [], _ => simp [redLevel]
    | [_], _ => simp [redLevel]
    | a :: b :: l, h => exact absurd rfl (h a b l)

/-- The tree's root over 64 leaves is their sum modulo 2^32. -/
theorem redTree_sum (l : List Nat) (hl : l.length = 64) :
    BitVec.ofNat 32 (redTree (redNode 3) 0 l) = (l.map (BitVec.ofNat 32)).sum := by
  have levels : ∀ n, ((((List.range n).foldl (fun l _ => redLevel (redNode 3) l) l).map (BitVec.ofNat 32)).sum =
      (l.map (BitVec.ofNat 32)).sum) := by
    intro n
    induction n with
    | zero => rfl
    | succ n ih =>
      rw [List.range_succ, List.foldl_append]
      exact (sum_redLevel _).trans ih
  have root : ((List.range 6).foldl (fun l _ => redLevel (redNode 3) l) l).length = 1 := by
    simp only [show List.range 6 = [0, 1, 2, 3, 4, 5] from rfl, List.foldl_cons, List.foldl_nil, length_redLevel, hl]
  rw [← levels 6, redTree]
  obtain ⟨a, ha⟩ := List.length_eq_one_iff.mp root
  rw [ha]
  simp

theorem Pips.active_eq_filter (x : Pips) : ∃ on : Nat → Bool, x.active = (List.range 64).filter on := by
  unfold Pips.active
  cases x.run with
  | none => exact ⟨fun _ => false, by simp⟩
  | some d => exact ⟨bit d.mask, rfl⟩

theorem sum_range_ite_eq_sum_filter (on : Nat → Bool) (g : Nat → Word) (l : List Nat) :
    (l.map fun i => if on i then g i else 0).sum = ((l.filter on).map g).sum := by
  induction l with
  | nil => rfl
  | cons i l ih =>
    rw [List.map_cons, List.sum_cons, ih, List.filter_cons]
    by_cases h : on i = true
    · rw [if_pos h, if_pos h, List.map_cons, List.sum_cons]
    · rw [if_neg h, if_neg h, zero_add]

theorem Pips.mem_active_iff (x : Pips) (on : Nat → Bool) (hon : x.active = (List.range 64).filter on) (i : Nat) (hi : i < 64) :
    i ∈ x.active ↔ on i = true := by simp [hon, hi]

/-- RED IADD: the value of the tree is the sum of the active pips' words. -/
theorem Pips.red_iadd (x : Pips) :
    BitVec.ofNat 32 (x.red 3).1 = (x.active.map fun i => pipWord x i (x.instr i).a).sum := by
  obtain ⟨on, hon⟩ := x.active_eq_filter
  have leaves : ∀ i ∈ List.range 64, BitVec.ofNat 32 (if x.active.contains i then x.reg i (x.instr i).a else redIdentity 3) =
      if on i then pipWord x i (x.instr i).a else 0 := fun i hi => by
    have := x.mem_active_iff on hon i (List.mem_range.mp hi)
    by_cases h : on i = true <;> simp [this, h, redIdentity, pipWord]
  have root : (x.red 3).1 = redTree (redNode 3) 0 ((List.range 64).map fun i =>
      if x.active.contains i then x.reg i (x.instr i).a else redIdentity 3) := by
    simp only [Pips.red, Nat.reduceEqDiff, if_false]
  rw [root, redTree_sum _ (by simp), List.map_map]
  refine (congrArg List.sum (List.map_congr_left leaves)).trans ?_
  rw [sum_range_ite_eq_sum_filter on fun i => pipWord x i (x.instr i).a, ← hon]

theorem Pips.red_pcnt (x : Pips) : (x.red 9).1 = (x.active.filter x.cond).length := by
  obtain ⟨on, hon⟩ := x.active_eq_filter
  show ((List.range 64).filter fun i => x.active.contains i && x.cond i).length = _
  rw [hon, List.filter_filter]
  congr 1
  refine List.filter_congr fun i hi => ?_
  have := x.mem_active_iff on hon i (List.mem_range.mp hi)
  rw [hon] at this
  rw [Bool.and_comm]
  congr 1
  rw [Bool.eq_iff_iff, List.contains_iff_mem]
  exact this

theorem Pips.red_tree (x : Pips) (fn : Nat) (h : fn ≤ 7) :
    (x.red fn).1 = redTree (redNode fn) 0 ((List.range 64).map fun i =>
      if i ∈ x.active then x.reg i (x.instr i).a else redIdentity fn) := by
  rw [Pips.red]
  simp only [show fn ≠ 9 by omega, show fn ≠ 8 by omega, if_false, List.contains_iff_mem]

theorem Pips.red_argmax (x : Pips) (u j : Nat)
    (h : redTree argmaxNode none ((List.range 64).map fun i =>
      if i ∈ x.active then some (x.reg i (x.instr i).a, i) else none) = some (u, j)) :
    x.red 8 = (if ofFp32 u = .nan then 0x7fc00000 else u, j) := by
  have nan : fp32 .nan = 0x7fc00000 := by decide
  simp only [Pips.red, Nat.reduceEqDiff, if_false, if_true, List.contains_iff_mem, h, nan]

/-- The results that RED gives, pip by pip: the value, and for ARGMAX the index behind it. -/
theorem Pips.foldl_giveRed (l : List Nat) (d c : Nat → Nat) (both : Prop) [Decidable both] (due v w : Nat) (x : Pips) :
    l.foldl (fun y i => let y := y.give i (d i) due v; if both then y.give i (c i) due w else y) x =
      { x with pend := x.pend ++ l.flatMap fun i => { key := pipKey i (d i), due, value := BitVec.ofNat 32 v } ::
        if both then [{ key := pipKey i (c i), due, value := BitVec.ofNat 32 w }] else [] } := by
  induction l generalizing x with
  | nil => simp
  | cons i l ih => rw [List.foldl_cons, ih]; by_cases h : both <;> simp [Pips.give, h]

/-! ### PCINV (R140) -/

theorem Map.get_filter {α : Type} (d : α) (m : List (Nat × α)) (on : Nat → Bool) (k : Nat) :
    Map.get d (m.filter fun e => on e.1) k = if on k then Map.get d m k else d := by
  induction m with
  | nil => simp [Map.get]
  | cons e m ih =>
    obtain ⟨j, v⟩ := e
    by_cases hj : on j = true
    · simp only [List.filter_cons, hj, if_true, Map.get, ih]
      by_cases hk : j = k
      · subst hk; simp [hj]
      · simp [hk]
    · simp only [List.filter_cons, hj, if_false, ih, Map.get, Bool.false_eq_true]
      by_cases hk : j = k
      · subst hk; simp [hj]
      · simp [hk]

theorem PipAcc.unfill_not_fill (a : PipAcc) (l : List (Nat × Nat × Nat × Nat)) : a.unfill.use ≠ .fill l := by
  unfold PipAcc.unfill
  cases a.use <;> simp

/-- The index of an XCH partner: the immediate is signed, and 64 divides 2^16. -/
theorem xch_partner (i imm : Nat) : ((i + toSigned 16 imm : Int) % 64).toNat = (i + imm) % 64 := by
  unfold toSigned
  dsimp only
  split <;> omega

/-- Settles O23. -/
theorem pipCrossResults : Obligations.PipCrossResults := by
  intro s p hp x now fn toD
  refine ⟨fun h => ?_, fun h => ?_, s.pipResult_each p _ _ _ hp, fun h => ?_⟩
  · rw [show exec (.red p) s = execRed p s from rfl, execRed]
    refine ⟨_, BitVec.ofNat 32 (x.red fn).1, BitVec.ofNat 32 (x.red fn).2, s.pipRun_of_issues p _ _ hp h,
      s.onlyTile_setPips p _, ?_, fun h3 => ?_, fun h7 => ?_, fun h8 u j hroot => ?_, fun h9 => ?_⟩
    · rw [State.tile_setPips]
      dsimp only
      rw [Pips.foldl_giveRed]
      rfl
    · rw [h3, x.red_iadd]
    · rw [x.red_tree fn h7]
    · rw [h8, x.red_argmax u j hroot]
      exact ⟨rfl, rfl⟩
    · rw [h9, x.red_pcnt]
  · rw [show exec (.xch p) s = execXch p s from rfl, execXch]
    refine s.pipResult_of_issues p _ _ _ _ _ hp h fun y n => ?_
    rw [Pips.each_eq]
    simp only [pipWord, xch_partner]
    rfl
  · rw [show exec (.pcinv p) s = execPcinv p s from rfl, execPcinv]
    refine ⟨_, s.pipRun_of_issues p _ _ hp h, s.onlyTile_setPips p _, fun i idx hidx => ?_, fun a ha l => ?_, ?_⟩
    · rw [State.tile_setPips]
      show Map.get {} (List.filter (fun l => !(x.active.contains (l.1 / 32))) x.cache) (i * 32 + idx) = _
      rw [Map.get_filter {} x.cache (fun k => !(x.active.contains (k / 32)))]
      have hi : (i * 32 + idx) / 32 = i := by omega
      by_cases hact : i ∈ x.active <;> simp [hi, hact, Pips.line]
    · rw [State.tile_setPips] at ha
      obtain ⟨b, -, rfl⟩ := List.mem_map.mp ha
      exact b.unfill_not_fill l
    · rw [State.tile_setPips]
      exact ⟨rfl, rfl, rfl⟩

/-! ### Control (R145, R146) -/

/-- The pips behind an instruction that steers the sequencer. -/
def Pips.goesTo (x : Pips) (now : Nat) (dest : Nat × List LoopFrame) : Pips :=
  { x with pc := dest.1, stack := dest.2, run := x.run.map fun d => { d with last := now } }

/-- A pip command whose instruction steers the sequencer and does nothing else. -/
theorem State.pipControl_of_issues (s : State) (p op : Nat) (f : Pips → Nat → Pips) (dest : Nat × List LoopFrame)
    (hp : p < 208) (h : s.pipIssues p op = true)
    (hf : f (s.pipsAt p) (s.stamp (p / 13)) = (s.pipsAt p).goesTo (s.stamp (p / 13)) dest) :
    ∃ t : State, s.pipRun p op f = .next t ∧ OnlyTile p s t ∧
      t.tile p = { s.tile p with pips := (s.pipsAt p).goesTo (s.stamp (p / 13)) dest } := by
  refine ⟨_, s.pipRun_of_issues p op f hp h, s.onlyTile_setPips p _, ?_⟩
  rw [State.tile_setPips, hf]

/-- A branch goes to one place or the other. -/
theorem Pips.ite_steers (x : Pips) (now : Nat) (c : Prop) [Decidable c] (a b : Nat × List LoopFrame) :
    x.goesTo now (if c then a else b) = if c then x.goesTo now a else x.goesTo now b := by split <;> rfl

/-- Where LOOP and LOOPR go on (R146). -/
def Pips.loopDest (x : Pips) (stop count : Nat) : Nat × List LoopFrame :=
  if count = 0 then countDown stop x.stack
  else ((x.pc + 1) % 2048, { start := (x.pc + 1) % 2048, stop, left := count } :: x.stack)

theorem Pips.openLoop_issued (x : Pips) (stop count now : Nat) :
    (x.openLoop stop count).issued now = x.goesTo now (x.loopDest stop count) := by
  unfold Pips.openLoop Pips.loopDest
  split <;> rfl

/-- What LOOP and LOOPR leave, in the two cases of the statement. -/
theorem State.tile_setPips_openLoop (s : State) (p stop count now : Nat) (x : Pips) :
    (s.setPips p ((x.openLoop stop count).issued now)).tile p =
      { s.tile p with pips := x.goesTo now (x.loopDest stop count) } := by
  rw [State.tile_setPips, Pips.openLoop_issued]

theorem State.pipIssues_drawFree (s : State) (p op : Nat) : s.drawFree.1.pipIssues p op = s.pipIssues p op := rfl

/-- Settles O24. -/
theorem pipControl : Obligations.PipControl := by
  intro s p hp x now w taken stop goes opens
  refine ⟨fun h => ?_, fun h => ?_, fun h => ?_, fun h top rest hstack => ?_, fun h hstack => ⟨fun ht => ?_, fun ht => ?_⟩,
    fun h => ?_, fun h => ?_⟩
  · rw [show exec (.pipNop p) s = execPipNop p s from rfl, execPipNop]
    exact s.pipControl_of_issues p _ _ (countDown x.pc x.stack) hp h (by rfl)
  · have answer : exec (.halt p) s = .next (if s.pipIssues p 0x01 then
        s.modTile p fun t => { t with
          pips := { x with run := none, ended := now + 1 }
          busy := { t.busy with pips := t.busy.pips + match x.run with | some d => now - d.issue | none => 0 } }
        else s) := (if_pos hp).trans (by rfl)
    rw [if_pos h] at answer
    refine ⟨_, answer, s.onlyTile_modTile p _, ?_⟩
    rw [State.tile_modTile_self]
  · rw [show exec (.br p) s = execBr p s from rfl, execBr]
    refine s.pipControl_of_issues p _ _ (if taken then (bits w 0 11, x.stack) else countDown x.pc x.stack) hp h ?_
    exact (x.ite_steers now (taken = true) (bits w 0 11, x.stack) (countDown x.pc x.stack)).symm
  · have answer : exec (.brk p) s = s.pipRun p 0x1c fun y n =>
        if pipCond (bits (y.instr y.lead).word 11 2) (y.active.map y.cond) then
          { y with pc := (countDown top.stop rest).1, stack := (countDown top.stop rest).2 }.issued n
        else y.advance.issued n := by
      show execBrk p s = _
      rw [execBrk]
      simp only [show (s.pipsAt p).stack = top :: rest from hstack]
    rw [answer]
    refine s.pipControl_of_issues p _ _ (if taken then countDown top.stop rest else countDown x.pc x.stack) hp h ?_
    exact (x.ite_steers now (taken = true) (countDown top.stop rest) (countDown x.pc x.stack)).symm
  · have answer : exec (.brk p) s = s.pipRun p 0x1c fun y n => y.advance.issued n := by
      show execBrk p s = _
      rw [execBrk]
      simp only [show (s.pipsAt p).stack = [] from hstack]
      rw [if_neg]
      rw [Bool.and_eq_true, not_and]
      intro _
      exact Bool.eq_false_iff.mp ht
    rw [answer]
    exact s.pipControl_of_issues p _ _ (countDown x.pc []) hp h (by rw [← hstack]; rfl)
  · have answer : exec (.brk p) s =
        s.drawFree.1.pipRun p 0x1c fun y n => { y with pc := s.drawFree.2.toNat % 2048 }.issued n := by
      show execBrk p s = _
      rw [execBrk]
      simp only [show (s.pipsAt p).stack = [] from hstack]
      exact if_pos (Bool.and_eq_true_iff.mpr ⟨h, ht⟩)
    rw [answer, State.pipRun_of_issues _ p _ _ hp ((s.pipIssues_drawFree p _).trans h)]
    refine ⟨_, s.drawFree.2.toNat % 2048, rfl, s.drawFree.1.onlyTile_setPips p _, ?_⟩
    rw [State.tile_setPips]
    rfl
  · rw [show exec (.loop p) s = execLoop p s from rfl, execLoop]
    refine ⟨_, s.pipRun_of_issues p _ _ hp h, fun hz => ⟨s.onlyTile_setPips p _, ?_⟩, fun hn => ⟨s.onlyTile_setPips p _, ?_⟩⟩
    · rw [State.tile_setPips_openLoop, Pips.loopDest, if_pos hz]; rfl
    · rw [State.tile_setPips_openLoop, Pips.loopDest, if_neg hn]; rfl
  · rw [show exec (.loopr p) s = execLoopr p s from rfl, execLoopr]
    refine ⟨_, s.pipRun_of_issues p _ _ hp h, fun hz => ⟨s.onlyTile_setPips p _, ?_⟩, fun hn => ⟨s.onlyTile_setPips p _, ?_⟩⟩
    · rw [State.tile_setPips_openLoop, Pips.loopDest, if_pos hz]; rfl
    · rw [State.tile_setPips_openLoop, Pips.loopDest, if_neg hn]; rfl

end Sys2Proof.Machine
end

section
/-! SUPPORT. The pips' memory instructions (R134 to R139): what goes on the pip path, and an access that completes. -/

namespace Sys2Proof.Machine

/-! ### Words as bytes (R14) -/

theorem leBytes_succ (n x : Nat) : leBytes (n + 1) x = BitVec.ofNat 8 x :: leBytes n (x / 256) := by
  simp only [leBytes, List.range_succ_eq_map, List.map_cons, List.map_map, Nat.mul_zero, pow_zero, Nat.div_one]
  congr 1
  refine List.map_congr_left fun i _ => ?_
  simp only [Function.comp, Nat.div_div_eq_div_mul]
  rw [show 256 = 2 ^ 8 from rfl, ← pow_add, show 8 * (i + 1) = 8 + 8 * i by omega]

/-- The bytes of a number spell it, modulo their width. -/
theorem leNat_leBytes (n x : Nat) : leNat (leBytes n x) = x % 2 ^ (8 * n) := by
  induction n generalizing x with
  | zero => simp [leBytes, leNat, Nat.mod_one]
  | succ n ih =>
    rw [leBytes_succ, leNat, ih, BitVec.toNat_ofNat, show 8 * (n + 1) = 8 + 8 * n by omega, pow_add, Nat.mod_mul]
    norm_num

theorem length_leBytes (n x : Nat) : (leBytes n x).length = n := by simp [leBytes]

theorem Map.get_putCells (m : List Host.Cell) (a : Nat) (l : List Byte) (k : Nat) :
    Map.get 0#8 (putCells m a l) k = if a ≤ k ∧ k < a + l.length then l.getD (k - a) 0#8 else Map.get 0#8 m k := by
  induction l generalizing m a with
  | nil => simp [putCells, show ¬ (a ≤ k ∧ k < a) by omega]
  | cons b l ih =>
    rw [putCells, ih, Map.get_put]
    by_cases hk : k = a
    · subst hk
      simp
    · by_cases hin : a + 1 ≤ k ∧ k < a + 1 + l.length
      · have hpos : k - a = (k - (a + 1)) + 1 := by omega
        rw [if_pos hin, if_pos (by simp only [List.length_cons]; omega), hpos, List.getD_cons_succ]
      · rw [if_neg hin, if_neg hk, if_neg (by simp only [List.length_cons]; omega)]

theorem readCells_congr (m m' : List Host.Cell) (a n : Nat) (h : ∀ k < n, Map.get 0#8 m (a + k) = Map.get 0#8 m' (a + k)) :
    readCells m a n = readCells m' a n := List.map_congr_left fun k hk => h k (List.mem_range.mp hk)

/-- Cells read back as they were put. -/
theorem readCells_putCells (m : List Host.Cell) (a n : Nat) (l : List Byte) (hl : l.length = n) :
    readCells (putCells m a l) a n = l := by
  refine List.ext_getElem (by simp [readCells, hl]) fun i hi _ => ?_
  have hin : i < l.length := by simpa [readCells, hl] using hi
  simp [readCells, Map.get_putCells, hin]

/-! ### What a memory instruction leaves -/

/-- A pip memory instruction that issues: its pips behind the instruction, one record for addresses that map to nothing. -/
theorem State.pipMem_of_issues (s : State) (p op : Nat) (who : Pips → List Nat) (f : Pips → Nat → List Nat → Pips)
    (hp : p < 208) (h : s.pipIssues p op = true) :
    ∃ t : State, s.pipMem p op who f = .next t ∧ SameMemory s t ∧
      (t.tile p).pips = ((f (s.pipsAt p) (s.stamp (p / 13)) (who (s.pipsAt p))).advance.issued (s.stamp (p / 13))) ∧
      ((∀ i ∈ who (s.pipsAt p), pipMapped ((s.pipsAt p).address i) = true) → OnlyTile p s t) ∧
      ∀ d, (s.pipsAt p).run = some d → (∃ i ∈ who (s.pipsAt p), pipMapped ((s.pipsAt p).address i) = false) →
        Posted s t (srcTable (p / 13)) 2 0x3001 (faultTag (s.ltileOf p) d.bundle false) 0 := by
  have hpips := s.tile_setPips p ((f (s.pipsAt p) (s.stamp (p / 13)) (who (s.pipsAt p))).advance.issued (s.stamp (p / 13)))
  have honly := s.onlyTile_setPips p ((f (s.pipsAt p) (s.stamp (p / 13)) (who (s.pipsAt p))).advance.issued (s.stamp (p / 13)))
  unfold State.pipMem
  rw [within, if_pos hp, if_pos h]
  dsimp only
  generalize hs1 : s.setPips p _ = s1 at hpips honly
  refine ⟨_, rfl, ?_⟩
  split
  · next d hany hrun =>
    refine ⟨SameMemory.of_mem ?_, ?_, fun hall => ?_, fun d' hd' _ => ?_⟩
    · rw [State.raiseTile_mem, ← hs1]
      rfl
    · rw [State.tile_raiseTile, hpips]
    · obtain ⟨i, hi, hbad⟩ := List.any_eq_true.mp hany
      rw [hall i hi] at hbad
      cases hbad
    · rw [hrun] at hd'
      cases hd'
      have hpost : Posted s1 (s1.raiseTile p d.bundle 0x3001) (srcTable (p / 13)) 2 0x3001 (faultTag (s1.ltileOf p) d.bundle false) 0 :=
        State.raise_posted _ _ _ _ _ _
      have hl : s1.ltileOf p = s.ltileOf p := by rw [← hs1]; rfl
      rw [hl] at hpost
      exact hpost.congr rfl (by rw [← hs1]; rfl) (by rw [← hs1]; rfl) (by rw [← hs1]; rfl)
  · next hnone =>
    refine ⟨SameMemory.of_mem ?_, by rw [hpips], fun _ => honly, fun d hd hbad => ?_⟩
    · rw [← hs1]; rfl
    · obtain ⟨i, hi, hbad⟩ := hbad
      exact absurd hd (hnone d (List.any_eq_true.mpr ⟨i, hi, by rw [hbad]; rfl⟩))

/-! ### Loads (R136, R139) -/

/-- The rows that wait, level by level. -/
theorem mem_rowsByLevel (l : List Nat) (v row : Nat) (hv : v < 3) :
    row ∈ nth [] (rowsByLevel l) v ↔ row < mappedRows ∧ rowLevel row = v ∧ row ∈ l := by
  have : nth [] (rowsByLevel l) v = ((l.filter (· < mappedRows)).eraseDups).filter (rowLevel · = v) := by
    simp [nth, rowsByLevel, hv]
  rw [this]
  simp only [List.mem_filter, List.mem_eraseDups, decide_eq_true_eq]
  tauto

/-- What a load puts on the path. -/
def Pips.loadAcc (x : Pips) (now : Nat) (pips : List Nat) (use : List (Nat × Nat × Nat × Nat) → PipUse) : PipAcc :=
  let l := pips.map fun i => (i, (x.instr i).d, pipRow (x.address i), bits (x.address i) 2 4)
  { wait := rowsByLevel (l.map (·.2.2.1)), bank := [], got := [], stores := [], use := use l, issue := now }

theorem Pips.load_acc (x : Pips) (now : Nat) (pips : List Nat) :
    (x.load now pips false).acc = x.acc ++ [x.loadAcc now pips .load] ∧
      (x.load now pips true).acc = x.acc ++ [x.loadAcc now pips .fill] := ⟨rfl, rfl⟩

theorem Pips.mem_wait_loadAcc (x : Pips) (now : Nat) (pips : List Nat) (use : List (Nat × Nat × Nat × Nat) → PipUse)
    (v row : Nat) (hv : v < 3) : row ∈ nth [] (x.loadAcc now pips use).wait v ↔
      row < mappedRows ∧ rowLevel row = v ∧ ∃ i ∈ pips, pipRow (x.address i) = row := by
  show row ∈ nth [] (rowsByLevel _) v ↔ _
  rw [mem_rowsByLevel _ _ _ hv]
  simp

/-- The hits of an LDP (R139). -/
theorem Pips.foldl_hits (x : Pips) (now : Nat) (l : List Nat) (y : Pips) :
    ∃ m, l.foldl (fun y i =>
      let a := x.address i
      { y.give i (x.instr i).d (now + 2) (nth 0#32 (x.line i (bits a 6 5)).data (bits a 2 4)).toNat with
        memDone := max y.memDone (now + 2) }) y =
      { y with memDone := m, pend := y.pend ++ l.map fun i =>
        { key := pipKey i (x.instr i).d, due := now + 2
          value := nth 0#32 (x.line i (bits (x.address i) 6 5)).data (bits (x.address i) 2 4) } } := by
  induction l generalizing y with
  | nil => exact ⟨y.memDone, by simp⟩
  | cons i l ih =>
    obtain ⟨m, hm⟩ := ih { y.give i (x.instr i).d (now + 2)
      (nth 0#32 (x.line i (bits (x.address i) 6 5)).data (bits (x.address i) 2 4)).toNat with memDone := max y.memDone (now + 2) }
    refine ⟨m, ?_⟩
    rw [List.foldl_cons]
    refine hm.trans ?_
    simp [Pips.give]

theorem pipLoadsTakeTheirRows : Claims.PipLoadsTakeTheirRows := by
  intro s p hp x now loads fault
  have plain : ∀ op, s.pipIssues p op = true → ∃ t : State,
      (s.pipMem p op Pips.active fun x now l => x.load now l false) = .next t ∧ loads t x.active .load ∧ fault t := by
    intro op h
    obtain ⟨t, ht, hmem, hpips, honly, hfault⟩ := s.pipMem_of_issues p op Pips.active (fun x now l => x.load now l false) hp h
    refine ⟨t, ht, ⟨hmem, by rw [hpips]; rfl, by rw [hpips]; rfl, by rw [hpips]; rfl, honly, fun _ => ?_⟩, hfault⟩
    exact ⟨x.loadAcc now x.active .load, by rw [hpips]; rfl, rfl, rfl, rfl, fun v row hv => x.mem_wait_loadAcc now _ _ v row hv⟩
  refine ⟨plain 0x11, plain 0x12, fun h => ?_⟩
  rw [show exec (.ldp p) s = execLdp p s from rfl, execLdp]
  obtain ⟨t, ht, hmem, hpips, honly, hfault⟩ := s.pipMem_of_issues p _ Pips.active _ hp h
  refine ⟨t, ht, hfault, ?_⟩
  obtain ⟨m, hm⟩ := x.foldl_hits now (x.active.filter x.hits) x
  dsimp only at hm hpips
  rw [hm] at hpips
  by_cases hmiss : (x.active.filter fun i => !x.hits i) = []
  · rw [if_pos (List.isEmpty_iff.mpr hmiss)] at hpips
    refine ⟨⟨hmem, by rw [hpips]; rfl, by rw [hpips]; rfl, by rw [hpips]; rfl, honly, fun hne => absurd hmiss hne⟩,
      by rw [hpips]; rfl, fun _ => by rw [hpips]; rfl⟩
  · rw [if_neg (mt List.isEmpty_iff.mp hmiss)] at hpips
    refine ⟨⟨hmem, by rw [hpips]; rfl, by rw [hpips]; rfl, by rw [hpips]; rfl, honly, fun _ => ?_⟩,
      by rw [hpips]; rfl, fun hall => absurd ?_ hmiss⟩
    · exact ⟨x.loadAcc now _ .fill, by rw [hpips]; rfl, rfl, rfl, rfl, fun v row hv => x.mem_wait_loadAcc now _ _ v row hv⟩
    · exact List.filter_eq_nil_iff.mpr fun i hi => by simp [hall i hi]

/-! ### Stores (R138) -/

/-- A byte of the rows that stores collect. -/
def storedByte (m : List (Nat × List Host.Cell)) (row k : Nat) : Byte := Map.get 0#8 (Map.get [] m row) k

/-- One store more: row, byte, value. -/
def putStore (m : List (Nat × List Host.Cell)) (w : Nat × Nat × Nat) : List (Nat × List Host.Cell) :=
  Map.put m w.1 (putCells (Map.get [] m w.1) w.2.1 (leBytes 4 w.2.2))

theorem storedByte_putStore_other (m : List (Nat × List Host.Cell)) (w : Nat × Nat × Nat) (row k : Nat)
    (h : row = w.1 → k < w.2.1 ∨ w.2.1 + 4 ≤ k) : storedByte (putStore m w) row k = storedByte m row k := by
  unfold storedByte putStore
  rw [Map.get_put]
  split
  · next e =>
    rw [Map.get_putCells, length_leBytes, if_neg (by have := h e; omega), e]
  · rfl

theorem storedByte_foldl_other (l : List (Nat × Nat × Nat)) (m : List (Nat × List Host.Cell)) (row k : Nat)
    (h : ∀ w ∈ l, row = w.1 → k < w.2.1 ∨ w.2.1 + 4 ≤ k) :
    storedByte (l.foldl putStore m) row k = storedByte m row k := by
  induction l generalizing m with
  | nil => rfl
  | cons w l ih =>
    rw [List.foldl_cons, ih _ fun v hv => h v (List.mem_cons_of_mem _ hv),
      storedByte_putStore_other _ _ _ _ (h w List.mem_cons_self)]

/-- A word that no later store of the list reaches is read back. -/
theorem read_storeRows (a b : List (Nat × Nat × Nat)) (row o v : Nat)
    (hlater : ∀ w ∈ b, row = w.1 → w.2.1 + 4 ≤ o ∨ o + 4 ≤ w.2.1) :
    leNat (readCells (Map.get [] (storeRows (a ++ (row, o, v) :: b)) row) o 4) = v % 2 ^ 32 := by
  have hlast : storeRows (a ++ (row, o, v) :: b) = b.foldl putStore (putStore (a.foldl putStore []) (row, o, v)) := by
    show (a ++ (row, o, v) :: b).foldl putStore [] = _
    rw [List.foldl_append, List.foldl_cons]
  rw [hlast, readCells_congr _ (Map.get [] (putStore (a.foldl putStore []) (row, o, v)) row) o 4 fun k hk =>
    storedByte_foldl_other b _ row (o + k) fun w hw e => by have := hlater w hw e; omega]
  simp only [putStore, Map.get_put, if_true]
  rw [readCells_putCells _ _ _ _ (length_leBytes 4 v), leNat_leBytes]

theorem Pips.reg_lt (x : Pips) (i r : Nat) : x.reg i r < 2 ^ 32 := by
  unfold Pips.reg
  split
  · omega
  · exact BitVec.isLt _

/-- Two mapped addresses in one row at one word are one word address. -/
theorem word_eq_of_row_word (a b : Nat) (ha : pipMapped a = true) (hb : pipMapped b = true) (hrow : pipRow a = pipRow b)
    (hword : bits a 2 4 = bits b 2 4) : bits a 2 21 = bits b 2 21 := by
  simp only [pipRow, ha, hb, if_true] at hrow
  simp only [bits, pow_zero, Nat.div_one, Nat.reducePow] at hrow hword ⊢
  omega

theorem Pips.active_sorted (x : Pips) : x.active.Pairwise (· < ·) := by
  obtain ⟨on, hon⟩ := x.active_eq_filter
  rw [hon]
  exact List.pairwise_lt_range.filter _

/-- The store of a pip (R138). -/
def Pips.storeOf (x : Pips) (i : Nat) : Nat × Nat × Nat :=
  (pipRow (x.address i), 4 * bits (x.address i) 2 4, x.reg i (x.instr i).d)

/-- What a store puts on the path. -/
def Pips.storeAcc (x : Pips) (now : Nat) (pips : List Nat) : PipAcc :=
  let l := (pips.filter fun i => pipMapped (x.address i)).map x.storeOf
  { wait := rowsByLevel (l.map (·.1)), bank := [], got := [], stores := storeRows l, use := .store, issue := now }

theorem Pips.store_acc (x : Pips) (now : Nat) (pips : List Nat) : (x.store now pips).acc = x.acc ++ [x.storeAcc now pips] := rfl

/-- Of the pips of a row's word the highest-numbered one's is stored. -/
theorem Pips.read_storeAcc (x : Pips) (now : Nat) (pips : List Nat) (hsort : pips.Pairwise (· < ·)) (i : Nat) (hi : i ∈ pips)
    (hmap : pipMapped (x.address i) = true)
    (hlast : ∀ j ∈ pips, pipMapped (x.address j) = true → i < j → bits (x.address i) 2 21 ≠ bits (x.address j) 2 21) :
    leNat (readCells (Map.get [] (x.storeAcc now pips).stores (pipRow (x.address i))) (4 * bits (x.address i) 2 4) 4) =
      x.reg i (x.instr i).d := by
  have hmem : i ∈ pips.filter fun i => pipMapped (x.address i) := List.mem_filter.mpr ⟨hi, hmap⟩
  obtain ⟨a, b, hab⟩ := List.append_of_mem hmem
  have hlater : ∀ j ∈ b, j ∈ pips ∧ pipMapped (x.address j) = true ∧ i < j := fun j hj => by
    have hjm : j ∈ pips.filter fun i => pipMapped (x.address i) := by rw [hab]; simp [hj]
    have hord := hsort.filter fun i => pipMapped (x.address i)
    rw [hab, List.pairwise_append, List.pairwise_cons] at hord
    exact ⟨(List.mem_filter.mp hjm).1, (List.mem_filter.mp hjm).2, hord.2.1.1 j hj⟩
  show leNat (readCells (Map.get [] (storeRows ((pips.filter fun i => pipMapped (x.address i)).map x.storeOf)) _) _ _) = _
  rw [hab, List.map_append, List.map_cons]
  refine (read_storeRows _ _ _ _ _ fun w hw hrow => ?_).trans (Nat.mod_eq_of_lt (x.reg_lt _ _))
  obtain ⟨j, hj, rfl⟩ := List.mem_map.mp hw
  obtain ⟨hjp, hjm, hij⟩ := hlater j hj
  have : bits (x.address i) 2 4 ≠ bits (x.address j) 2 4 := fun e =>
    hlast j hjp hjm hij (word_eq_of_row_word _ _ hmap hjm hrow e)
  show 4 * bits (x.address j) 2 4 + 4 ≤ 4 * bits (x.address i) 2 4 ∨ 4 * bits (x.address i) 2 4 + 4 ≤ 4 * bits (x.address j) 2 4
  omega

theorem pipStoresTakeTheirRows : Claims.PipStoresTakeTheirRows := by
  intro s p hp x stores
  have put : ∀ op (who : Pips → List Nat), (who x).Pairwise (· < ·) → s.pipIssues p op = true → ∃ t : State,
      (s.pipMem p op who fun x now l => x.store now l) = .next t ∧ stores t (who x) := by
    intro op who hsort h
    obtain ⟨t, ht, hmem, hpips, honly, hfault⟩ := s.pipMem_of_issues p op who (fun x now l => x.store now l) hp h
    refine ⟨t, ht, hmem, by rw [hpips]; rfl, by rw [hpips]; rfl, honly, hfault, x.storeAcc (s.stamp (p / 13)) (who x),
      by rw [hpips]; rfl, rfl, rfl, fun i hi hmap hlast => x.read_storeAcc _ _ hsort i hi hmap hlast⟩
  exact ⟨put 0x14 Pips.active x.active_sorted, put 0x15 Pips.active x.active_sorted,
    put 0x16 (fun x => x.active.filter x.cond) (x.active_sorted.filter _)⟩

/-- Settles O25. -/
theorem pipAccessesTakeTheirRows : Obligations.PipAccessesTakeTheirRows := ⟨pipLoadsTakeTheirRows, pipStoresTakeTheirRows⟩

/-! ### An access that completes (R136) -/

theorem exec_pipMemoryComplete_of_served (s : State) (p : Nat) (a : PipAcc) (rest : List PipAcc) (hp : p < 208)
    (h : takeFirst (fun a => a.served (s.stamp (p / 13))) (s.pipsAt p).acc = some (a, rest)) :
    exec (.pipMemoryComplete p) s = .next (s.setPips p ({ s.pipsAt p with
      acc := rest, memDone := max (s.pipsAt p).memDone (s.stamp (p / 13)) }.finish a)) := by
  show execPipMemoryComplete p s = _
  simp only [execPipMemoryComplete, within, hp, if_true, h]

/-- A load of pip 1's g5 from row 0, and of a register 37 of pip 0 from row 1: no instruction names it, but the state can hold
it, and its place among the registers is that of pip 1's g5. -/
def aliasedLoad : PipAcc :=
  { wait := [], bank := [], got := [(0, [1]), (1, [2])], stores := [], use := .load [(1, 5, 0, 0), (0, 37, 1, 0)], issue := 0 }

/-- Position 0 with that load, in beat 10. -/
def withAliasedLoad : State :=
  { State.reset with rcu := { count := 10 }, tiles := [(0, { pips := { acc := [aliasedLoad] } })] }

theorem takeFirst_withAliasedLoad : takeFirst (fun a => a.served (withAliasedLoad.stamp (0 / 13))) (withAliasedLoad.pipsAt 0).acc =
    some (aliasedLoad, []) := by decide +kernel

/-- Refutes O26: two words of one load go to one place of the register file when an access holds a register number above 31.
Pip 1's g5 reads row 1's word, where the statement has row 0's. -/
theorem not_pipAccessCompletes : ¬ Obligations.PipAccessCompletes := by
  intro h
  obtain ⟨t, ht, -, -, -, -, -, hload, -⟩ := h withAliasedLoad 0 aliasedLoad [] (by decide) takeFirst_withAliasedLoad
  rw [exec_pipMemoryComplete_of_served _ _ _ _ (by decide) takeFirst_withAliasedLoad] at ht
  cases ht
  have hreg := hload _ rfl (by decide) (1, 5, 0, 0) (by decide) (by decide) (by decide)
  exact absurd hreg (by decide +kernel)

end Sys2Proof.Machine
end

section
/-! SUPPORT. The matrix unit and the tally (R95 to R119, R380 to R389). -/

namespace Sys2Proof.Machine

/-! ### Loads (R102) -/

@[simp] theorem Tile.engine_setEngine_self (t : Tile) (side : Bool) (e : Engine) : (t.setEngine side e).engine side = e := by
  cases side <;> rfl
@[simp] theorem Tile.engine_setEngine_other (t : Tile) (side : Bool) (e : Engine) :
    (t.setEngine side e).engine (!side) = t.engine (!side) := by
  cases side <;> rfl
@[simp] theorem State.tile_setEngine_self (s : State) (p : Nat) (side : Bool) (e : Engine) :
    (s.setEngine p side e).tile p = (s.tile p).setEngine side e := State.tile_modTile_self ..
theorem State.onlyTile_setEngine (s : State) (p : Nat) (side : Bool) (e : Engine) : OnlyTile p s (s.setEngine p side e) :=
  s.onlyTile_modTile p _

theorem exec_loadComplete (s : State) (p : Nat) (side : Bool) (hp : p < 208) :
    exec (.loadComplete p side) s = .next (s.setEngine p side (((s.tile p).engine side).takeLoad side)) :=
  if_pos hp

theorem Engine.takeLoad_of_short (e : Engine) (side : Bool) (l : LoadOp) (hl : e.load = some l) (h : l.got.length < l.total) :
    e.takeLoad side = e := by
  simp [Engine.takeLoad, hl, LoadOp.full, h]
theorem Engine.takeLoad_of_whole (e : Engine) (side : Bool) (l : LoadOp) (hl : e.load = some l) (h : l.total ≤ l.got.length) :
    e.takeLoad side = { e with shadow := planeOf l.fmt (depth side) l.got, load := none } := by
  simp [Engine.takeLoad, hl, LoadOp.full, h]

/-- A list of keyed values without its defaults reads as the values. -/
theorem Map.get_filterMap_range (n i : Nat) (g : Nat → Nat) (hi : i < n) :
    Map.get 0 ((List.range n).filterMap fun i => let c := g i; if c = 0 then none else some (i, c)) i = g i := by
  have aux : ∀ l : List Nat, Map.get 0 (l.filterMap fun i => let c := g i; if c = 0 then none else some (i, c)) i =
      if i ∈ l then g i else 0 := by
    intro l
    induction l with
    | nil => rfl
    | cons k l ih =>
      by_cases hk : g k = 0
      · by_cases e : i = k
        · subst e; simp [ih, hk]
        · simp [ih, hk, e]
      · by_cases e : i = k
        · subst e; simp [hk, Map.get]
        · simp [ih, hk, Map.get, e, Ne.symm e]
  rw [aux, if_pos (List.mem_range.2 hi)]

theorem Map.get_map_range (n i d : Nat) (g : Nat → Nat) (hi : i < n) :
    Map.get d ((List.range n).map fun i => (i, g i)) i = g i := by
  have aux : ∀ l : List Nat, Map.get d (l.map fun i => (i, g i)) i = if i ∈ l then g i else d := by
    intro l
    induction l with
    | nil => rfl
    | cons k l ih =>
      by_cases e : i = k
      · subst e; simp [Map.get]
      · simp [ih, Map.get, e, Ne.symm e]
  rw [aux, if_pos (List.mem_range.2 hi)]

theorem planeOf_elem (f : Fmt) (side : Bool) (l : List Byte) (k n : Nat) (hk : k < depth side) (hn : n < 64) :
    Map.get 0 (planeOf f (depth side) l).elems (k * 64 + n) =
      bits (leNat (l.take (depth side * 64 * f.width / 8))) ((k * 64 + n) * f.width) f.width :=
  Map.get_filterMap_range _ _ _ (by omega)

/-- Entries that hold the default may be left out of a map whose keys are in order. -/
theorem Map.get_filter_ne {d : Nat} (m : List (Nat × Nat)) (hm : (m.map (·.1)).Nodup) (k : Nat) :
    Map.get d (m.filter fun x => x.2 ≠ d) k = Map.get d m k := by
  induction m with
  | nil => rfl
  | cons x m ih =>
    obtain ⟨j, v⟩ := x
    simp only [List.map_cons, List.nodup_cons, List.mem_map, not_exists, not_and] at hm
    have absent : ∀ m' : List (Nat × Nat), (∀ y ∈ m', y.1 ≠ j) → Map.get d m' j = d := by
      intro m' h
      induction m' with
      | nil => rfl
      | cons y m' ih => 
        simp only [List.forall_mem_cons] at h
        rw [Map.get, if_neg h.1, ih h.2]
    by_cases hv : v = d
    · simp only [List.filter_cons, hv, ne_eq, not_true_eq_false, decide_false, Bool.false_eq_true, if_false]
      rw [show (Map.get d ((j, d) :: m) k) = if j = k then d else Map.get d m k from rfl]
      by_cases e : j = k
      · subst e
        rw [if_pos rfl]
        exact absent _ fun y hy => hm.1 y (List.mem_of_mem_filter hy)
      · rw [if_neg e]; exact ih hm.2
    · simp [hv, Map.get]
      split <;> [rfl; simpa using ih hm.2]

theorem planeOf_scale (f : Fmt) (side : Bool) (l : List Byte) (n : Nat) (hn : n < 64) :
    (planeOf f (depth side) l).scale n =
      if f.isMx then (l.getD (depth side * 64 * f.width / 8 + n) 127).toNat else 127 := by
  by_cases hf : f.isMx
  · simp only [Plane.scale, planeOf, hf, if_true]
    rw [Map.get_filter_ne, Map.get_map_range _ _ _ _ hn]
    · simp [List.getD_eq_getElem?_getD, List.getElem?_drop]
    · rw [List.map_map]
      simpa [Function.comp_def] using List.nodup_range
  · simp [Plane.scale, planeOf, hf, Map.get]

/-- Settles O27. -/
theorem shadowPlaneTakesAWholeTile : Obligations.ShadowPlaneTakesAWholeTile := by
  intro s p side l hp hl
  refine ⟨fun h => ⟨_, exec_loadComplete s p side hp, s.onlyTile_setEngine .., fun d => ?_⟩,
    fun h => ⟨_, exec_loadComplete s p side hp, s.onlyTile_setEngine .., ?_⟩⟩
  · rw [Engine.takeLoad_of_short _ _ l hl h, State.tile_setEngine_self]
    cases side <;> cases d <;> rfl
  · rw [Engine.takeLoad_of_whole _ _ l hl h]
    simp only [State.tile_setEngine_self, Tile.engine_setEngine_self, Tile.engine_setEngine_other, true_and]
    exact ⟨rfl, fun k n hk hn => planeOf_elem l.fmt side l.got k n hk hn, fun n hn => planeOf_scale l.fmt side l.got n hn⟩

/-! ### Foot writes (R98) -/

theorem readCells_writeCells (m : List Host.Cell) (a n : Nat) (l : List Byte) (hl : l.length = n) :
    readCells (writeCells m a l) a n = l := by
  subst hl
  refine List.ext_getElem (by simp [readCells]) fun i h1 h2 => ?_
  simp only [readCells, List.getElem_map, List.getElem_range]
  rw [writeCells_read _ _ _ _ h2, List.getD_eq_getElem _ _ h2]

/-- The joker that mirrors a position is not below it. -/
theorem State.le_of_mirrorOf (s : State) (p j : Nat) (h : s.mirrorOf p = some j) : p ≤ j := by
  unfold State.mirrorOf at h
  split at h
  · split at h
    · cases h; omega
    · cases h
  · cases h

theorem State.writeAcc_frame (s : State) (p a : Nat) (l : List Byte) :
    s.writeAcc p a l = { s with acc := (s.writeAcc p a l).acc } := by
  unfold State.writeAcc
  dsimp only
  split <;> rfl
theorem State.setHalf_frame (s : State) (p h : Nat) (valid : Bool) :
    s.setHalf p h valid = { s with accBad := (s.setHalf p h valid).accBad } := rfl

/-- Key `k` is neither among the `n` bytes at `a` of a position's accumulators nor among their mirror copy. -/
def State.AccOutside (s : State) (p a n k : Nat) : Prop :=
  (k < accKey p a ∨ accKey p a + n ≤ k) ∧ ∀ j, s.mirrorOf p = some j → k < accKey j a ∨ accKey j a + n ≤ k

theorem State.writeAcc_other (s : State) (p a k : Nat) (l : List Byte) (h : s.AccOutside p a l.length k) :
    Map.get 0#8 (s.writeAcc p a l).acc k = Map.get 0#8 s.acc k := by
  obtain ⟨own, copy⟩ := h
  unfold State.writeAcc
  dsimp only
  split
  case h_1 q hq => exact (writeCells_other _ _ _ _ (copy q hq)).trans (writeCells_other _ _ _ _ own)
  case h_2 => exact writeCells_other _ _ _ _ own

theorem State.writeAcc_read (s : State) (p a : Nat) (l : List Byte) (h : l.length ≤ 2 ^ 18) :
    (s.writeAcc p a l).readAcc p a l.length = l := by
  unfold State.writeAcc State.readAcc
  dsimp only
  split
  case h_1 q hq =>
    rcases Nat.eq_or_lt_of_le (s.le_of_mirrorOf p q hq) with rfl | hlt
    · exact readCells_writeCells _ _ _ _ rfl
    · refine (readCells_congr _ _ _ _ fun i hi => writeCells_other _ _ _ _ ?_).trans (readCells_writeCells _ _ _ _ rfl)
      simp only [accKey]
      omega
  case h_2 => exact readCells_writeCells _ _ _ _ rfl

theorem State.accEntry_setAccEntry (s : State) (p : Nat) (lacc : Bool) (row n v : Nat) :
    (s.setAccEntry p lacc row n v).accEntry p lacc row n = v % 2 ^ (8 * if lacc then 16 else 4) := by
  have h := s.writeAcc_read p (accAddr lacc row n) (leBytes (if lacc then 16 else 4) v)
    (by rw [length_leBytes]; split <;> norm_num)
  rw [length_leBytes] at h
  rw [State.accEntry, State.setAccEntry, h, leNat_leBytes]

theorem State.halfValid_setHalf (s : State) (p h : Nat) : (s.setHalf p h true).halfValid p h = true := by
  have own : Map.get false (Map.set false s.accBad (p * 2048 + h) (!true)) (p * 2048 + h) = false := Map.get_set_self ..
  unfold State.setHalf State.halfValid
  dsimp only
  split
  · rw [Map.get_set, own]; simp
  · rw [own]; rfl

/-- The sum of a foot write with the entry (R85, R86, R88). -/
def Pass.footSum (x : Pass) (old c : Nat) : Nat :=
  if x.strict then laccAdd old c
  else if x.isInt then ofSigned 32 (sat32 (toSigned 32 old + toSigned 32 c))
  else addFp32 old c
/-- Bytes of an accumulator entry of a pass. -/
def Pass.entryBytes (x : Pass) : Nat := if x.strict then 16 else 4

/-- A foot write of an entry has changed the accumulators alone, and of them only the entry and its mirror copy. -/
def FootFrame (x : Pass) (p row e : Nat) (s t : State) : Prop :=
  t = { s with acc := t.acc, accBad := t.accBad } ∧
  ∀ k, s.AccOutside p (accAddr x.strict row e) x.entryBytes k → Map.get 0#8 t.acc k = Map.get 0#8 s.acc k

theorem FootFrame.trans {x : Pass} {p row e : Nat} {s t u : State} (h : FootFrame x p row e s t) (k : FootFrame x p row e t u) :
    FootFrame x p row e s u := by
  obtain ⟨ht, hk⟩ := h
  obtain ⟨hu, hj⟩ := k
  refine ⟨hu.trans (by rw [ht]), fun i hi => (hj i ?_).trans (hk i hi)⟩
  rw [ht]
  exact hi

theorem State.footTerm_first (s : State) (p : Nat) (x : Pass) (row e c : Nat) :
    FootFrame x p row e s (s.footTerm p x row e true c) ∧
    (s.footTerm p x row e true c).accEntry p x.strict row e = c % 2 ^ (8 * x.entryBytes) ∧
    (s.footTerm p x row e true c).halfValid p (halfOf x.strict row e) = true := by
  rw [show s.footTerm p x row e true c = (s.setAccEntry p x.strict row e c).setHalf p (halfOf x.strict row e) true from rfl]
  refine ⟨⟨?_, fun k hk => ?_⟩, s.accEntry_setAccEntry .., State.halfValid_setHalf ..⟩
  · rw [State.setHalf_frame, State.setAccEntry, State.writeAcc_frame]
  · exact s.writeAcc_other _ _ _ _ (by rw [length_leBytes]; exact hk)

theorem State.footTerm_later (s : State) (p : Nat) (x : Pass) (row e c : Nat) :
    FootFrame x p row e s (s.footTerm p x row e false c) ∧
    (s.footTerm p x row e false c).accEntry p x.strict row e =
      x.footSum (s.accEntry p x.strict row e) c % 2 ^ (8 * x.entryBytes) ∧
    (s.footTerm p x row e false c).accBad = s.accBad := by
  rw [show s.footTerm p x row e false c =
    s.setAccEntry p x.strict row e (x.footSum (s.accEntry p x.strict row e) c) from rfl]
  refine ⟨⟨?_, fun k hk => ?_⟩, s.accEntry_setAccEntry .., ?_⟩
  · rw [State.setAccEntry, State.writeAcc_frame]
  · exact s.writeAcc_other _ _ _ _ (by rw [length_leBytes]; exact hk)
  · rw [State.setAccEntry, State.writeAcc_frame]

/-- Terms behind the first, or of a pass that is not a first one, are added one after the other. -/
theorem State.footTerms_later (p : Nat) (x : Pass) (row e : Nat) (cs : List Nat) (i : Nat) (h : x.first = false ∨ 0 < i) (s : State) :
    let t := (cs.zipIdx i).foldl (fun s t => s.footTerm p x row e (x.first && t.2 == 0) t.1) s
    FootFrame x p row e s t ∧
    t.accEntry p x.strict row e =
      cs.foldl (fun old c => x.footSum old c % 2 ^ (8 * x.entryBytes)) (s.accEntry p x.strict row e) ∧
    t.accBad = s.accBad := by
  induction cs generalizing i s with
  | nil => exact ⟨⟨rfl, fun _ _ => rfl⟩, rfl, rfl⟩
  | cons c cs ih =>
    have hf : (x.first && i == 0) = false := by
      rcases h with h | h
      · rw [h, Bool.false_and]
      · simp; omega
    obtain ⟨frame, entry, bad⟩ := s.footTerm_later p x row e c
    obtain ⟨frame', entry', bad'⟩ := ih (i + 1) (.inr (by omega)) (s.footTerm p x row e false c)
    simp only [List.zipIdx_cons, List.foldl_cons, hf]
    exact ⟨frame.trans frame', entry'.trans (by rw [entry]), bad'.trans bad⟩

/-- All terms of an output are written: the first one of a first pass stands for itself. -/
theorem State.footTerms (p : Nat) (x : Pass) (row e : Nat) (cs : List Nat) (s : State) :
    let t := cs.zipIdx.foldl (fun s t => s.footTerm p x row e (x.first && t.2 == 0) t.1) s
    FootFrame x p row e s t ∧
    (∀ c l, cs = c :: l →
      t.accEntry p x.strict row e =
        l.foldl (fun old c => x.footSum old c % 2 ^ (8 * x.entryBytes))
          (if x.first then c % 2 ^ (8 * x.entryBytes)
           else x.footSum (s.accEntry p x.strict row e) c % 2 ^ (8 * x.entryBytes)) ∧
      (x.first = true → t.halfValid p (halfOf x.strict row e) = true)) ∧
    (x.first = false → t.accBad = s.accBad) := by
  cases hf : x.first with
  | false =>
    obtain ⟨frame, entry, bad⟩ := State.footTerms_later p x row e cs 0 (.inl hf) s
    rw [hf] at frame entry bad
    exact ⟨frame, fun c l hc => ⟨by subst hc; exact entry, fun h => nomatch h⟩, fun _ => bad⟩
  | true =>
    cases cs with
    | nil => exact ⟨⟨rfl, fun _ _ => rfl⟩, by simp, by simp⟩
    | cons c cs =>
      obtain ⟨frame, entry, valid⟩ := s.footTerm_first p x row e c
      obtain ⟨frame', entry', bad⟩ := State.footTerms_later p x row e cs 1 (.inr Nat.one_pos) (s.footTerm p x row e true c)
      rw [hf] at frame' entry' bad
      refine ⟨frame.trans frame', fun c' l hc => ?_, fun h => nomatch h⟩
      cases hc
      refine ⟨entry'.trans (by rw [entry]; rfl), fun _ => ?_⟩
      rw [State.halfValid] at valid ⊢
      exact bad ▸ valid

/-- The tally changes its tile's and its table's records alone. -/
theorem State.tallyRow_frame (s : State) (p : Nat) (side : Bool) (x : Pass) (q r : Nat) :
    s.tallyRow p side x q r = { s with tiles := (s.tallyRow p side x q r).tiles, tables := (s.tallyRow p side x q r).tables } := by
  unfold State.tallyRow
  dsimp only
  split <;> rfl

/-- A foot write is its terms at the entry; the rest of it is the pass's own progress and the tally's. -/
theorem State.footWrite_frame (s : State) (p : Nat) (side : Bool) (x : Pass) (q r : Nat) (upset : Option Nat) :
    let n := Map.get 0 x.done (q * 128 + r)
    let terms := match upset with
      | some u => u :: (x.colTerms q r n).drop 1
      | none => x.colTerms q r n
    let w := terms.zipIdx.foldl (fun s t => s.footTerm p x (x.target q r) (x.entry n) (x.first && t.2 == 0) t.1) s
    let t := s.footWrite p side x q r upset
    t = { w with tiles := t.tiles, tables := t.tables } := by
  intro n terms w t
  have ht : t = s.footWrite p side x q r upset := rfl
  unfold State.footWrite at ht
  dsimp only at ht
  split at ht
  · rw [ht, State.setEngine, State.tallyRow_frame]
    rfl
  · rw [ht]
    rfl

/-- Settles O28. -/
theorem footWritesItsTerms : Obligations.FootWritesItsTerms := by
  intro s p pass q r upset x hp hx n row e width terms add hq hw hn hb
  have run : exec (.footWrite p pass q r upset) s =
      if (s.tile p).footTurn x q r then .next (s.footWrite p (pass % 2 = 1) x q r upset) else .next s := by
    rw [show exec (.footWrite p pass q r upset) s = execFootWrite p pass q r upset s from rfl, execFootWrite, within, if_pos hp]
    dsimp only
    rw [hx]
    have hb' : x.writeBeat (decide (pass % 2 = 1)) r (Map.get 0 x.done (q * 128 + r)) < s.stamp (p / 13) := hb
    simp only [hw, hq, hb', show Map.get 0 x.done (q * 128 + r) < x.outputs from hn, decide_true, Bool.true_and]
    exact apply_ite Host.Outcome.next _ _ _
  refine ⟨fun h => by rw [run, if_neg (by simp [h])], fun h => ⟨_, by rw [run, if_pos h], ?_⟩⟩
  have frame := s.footWrite_frame p (decide (pass % 2 = 1)) x q r upset
  generalize s.footWrite p (decide (pass % 2 = 1)) x q r upset = t at frame ⊢
  obtain ⟨⟨hfr, hout⟩, hentry, hbad⟩ := State.footTerms p x row e terms s
  dsimp only at frame hfr hout hentry hbad
  change t = { (terms.zipIdx.foldl (fun s t => s.footTerm p x row e (x.first && t.2 == 0) t.1) s) with
    tiles := t.tiles, tables := t.tables } at frame
  generalize terms.zipIdx.foldl (fun s t => s.footTerm p x row e (x.first && t.2 == 0) t.1) s = w at *
  have hacc : t.acc = w.acc := by rw [frame]
  have haccBad : t.accBad = w.accBad := by rw [frame]
  refine ⟨fun p' o => ?_, fun c cs hc => ?_, fun hf => haccBad.trans (hbad hf), fun k own copy => ?_, ?_⟩
  · rw [frame, hfr]
    rfl
  · obtain ⟨entry, valid⟩ := hentry c cs hc
    refine ⟨?_, fun hf => ?_⟩
    · rw [State.accEntry, State.readAcc, hacc]
      exact entry
    · rw [State.halfValid, haccBad]
      exact valid hf
  · rw [hacc]
    exact hout k ⟨own, copy⟩
  · rw [frame, hfr]

/-! ### Counterexamples -/

/-- The state that a command leaves, where it answers one. -/
def State.ran (s : State) (c : Instr) : State := match exec c s with | .next t => t | _ => s

theorem State.ran_eq {s t : State} {c : Instr} (h : exec c s = .next t) : s.ran c = t := by
  simp [State.ran, h]

/-! ### Mismatches (R385) -/

/-- A failed check of an empty pass, whose beat is 0; it spoils half-slot 0. -/
def emptyMismatch : Mismatch :=
  { due := 0, halves := [0], accRow := 0,
    capture :=
      { pass := { id := 0, bundle := 0, mode := .fwd, rows := 0, afmt := .int8, strict := false, first := true, width := 0,
                  half := 0, b0 := 0, s := 1, rho := 1, swap := false, plane := none, acc := [], streams := [], xo := 0,
                  masked := [], cfmt := .int8, samples := [], done := [], terms := [] },
        side := false, stream := 0, row := 0, terms := [], blk := 0, p1 := 0, p2 := 0, s1 := 0, s2 := 0, expo := 0, loc := none,
        busy := false, verdict := none, since := 0 } }

/-- Position 0 with that check; the joker, position 12, mirrors the position. -/
def mirroredMismatch : State :=
  { State.reset with
    tiles := [(0, { mismatches := [emptyMismatch] })],
    tables := [(0, { subst := some { seat := 0, pos := 0, abrupt := false, probed := false, since := 0, mirror := true } })] }

/-- Refutes O29: the mirror copy spoils half-slot 0 of the joker (R391), which is 'half-slot 24,576' of position 0 to the statement's
`h`, although a position has 2,048 of them. -/
theorem not_mismatchesAreJudged : ¬ Obligations.MismatchesAreJudged := by
  rintro ⟨h, -⟩
  obtain ⟨t, ht, -, -, -, hvalid, -⟩ := h mirroredMismatch 0 emptyMismatch [] (by decide) (by decide +kernel)
  rw [← State.ran_eq ht] at hvalid
  exact absurd (hvalid 24576) (by decide +kernel)

/-! ### The flash's records (R405) -/

theorem takeFirst_holds {α : Type} {f : α → Bool} {l rest : List α} {x : α} (h : takeFirst f l = some (x, rest)) : f x = true := by
  induction l generalizing rest with
  | nil => cases h
  | cons y l ih =>
    rw [takeFirst] at h
    split at h
    · cases h; assumption
    · split at h
      · cases h
      · next e => cases h; exact ih e

@[simp] theorem State.raise_flash (s : State) (src kind status tag detail : Nat) :
    (s.raise src kind status tag detail).mgc.flash = s.mgc.flash := by
  rw [State.raise_onlyRecords s src kind status tag detail]
@[simp] theorem State.raise_flashWrites (s : State) (src kind status tag detail : Nat) :
    (s.raise src kind status tag detail).mgc.flashWrites = s.mgc.flashWrites := by
  rw [State.raise_onlyRecords s src kind status tag detail]

/-- What a record is after the next write of it. -/
def State.flashNext (s : State) (w : FlashPart) (seq : Nat) (payload : List Byte) : FlashRec :=
  if s.mgc.flashBad.contains s.mgc.flashWrites then spoilBank w.size (s.mgc.flash.record w)
  else writeBank w.size (s.mgc.flash.record w) seq payload

theorem State.flashWrite_flash (s : State) (w : FlashPart) (seq : Nat) (payload : List Byte) :
    (s.flashWrite w seq payload).1.mgc.flash = s.mgc.flash.setRecord w (s.flashNext w seq payload) ∧
    (s.flashWrite w seq payload).1.mgc.flashWrites = s.mgc.flashWrites + 1 := by
  unfold State.flashWrite State.flashNext
  dsimp only
  split
  · exact ⟨State.raise_flash .., State.raise_flashWrites ..⟩
  · exact ⟨rfl, rfl⟩

theorem State.flashWrite_mem (s : State) (w : FlashPart) (seq : Nat) (payload : List Byte) :
    (s.flashWrite w seq payload).1.mem = s.mem := by
  unfold State.flashWrite
  dsimp only
  split
  · exact State.raiseMgc_mem ..
  · rfl
theorem State.flashWrite_tiles (s : State) (w : FlashPart) (seq : Nat) (payload : List Byte) :
    (s.flashWrite w seq payload).1.tiles = s.tiles := by
  unfold State.flashWrite
  dsimp only
  split
  · exact State.raiseMgc_tiles ..
  · rfl

theorem State.flashWrite_hif (s : State) (w : FlashPart) (seq : Nat) (payload : List Byte) (h : s.mgc.flashWrites ∉ s.mgc.flashBad) :
    (s.flashWrite w seq payload).1.hif = s.hif := by
  unfold State.flashWrite
  dsimp only
  rw [if_neg (by simpa using h)]

theorem State.flashWrite_posted (s : State) (w : FlashPart) (seq : Nat) (payload : List Byte) (h : s.mgc.flashWrites ∈ s.mgc.flashBad) :
    Posted s (s.flashWrite w seq payload).1 srcMgc 2 0x9009 0 0 := by
  unfold State.flashWrite
  dsimp only
  rw [if_pos (by simpa using h)]
  exact Posted.congr (State.raise_posted _ srcMgc 2 0x9009 0 0) rfl rfl rfl rfl

theorem Flash.record_setPattern (f : Flash) (i j : Nat) (r : FlashRec) :
    (f.setRecord (.pattern i) r).record (.pattern j) = if j = i then r else f.record (.pattern j) := Map.get_set ..

/-! ### Captures (R388, R389) -/

/-- The record and the payload that a capture's pattern takes. -/
def State.patternPlace (s : State) (p : Nat) (c : Capture) : Nat × List Byte :=
  match s.mgc.flash.stored.find? (fun (e : Nat × List Byte) => samePattern p c.key e.2) with
  | some (i, pay) => (i, leBytes 4 (leAt pay 0 4 + 1) ++ pay.drop 4)
  | none => (Flash.freePattern s.mgc.flash.stored,
      patternPayload 0 (s.mgc.flash.stored.foldl (fun (a : Nat) (e : Nat × List Byte) => max a (leAt e.2 4 4)) 0 + 1) p
        (c.loc.getD 64) (c.verdict.getD 0) c.key c.results)

theorem State.storePattern_eq (s : State) (p : Nat) (c : Capture) :
    s.storePattern p c = (s.flashWrite (.pattern (s.patternPlace p c).1)
      (s.mgc.flash.seq (.pattern (s.patternPlace p c).1)) (s.patternPlace p c).2).1 := by
  unfold State.storePattern State.patternPlace
  dsimp only
  split <;> simp only [*]

theorem exec_captureCopy (s : State) (p : Nat) (c : Capture) (hp : p < 208) (hc : (s.tile p).capture = some c) :
    exec (.captureCopy p) s =
      if c.verdict = none then .next s else .next ((s.modTile p fun t => { t with capture := none }).storePattern p c) := by
  rw [show exec (.captureCopy p) s = execCaptureCopy p s from rfl, execCaptureCopy, within, if_pos hp, hc]
  dsimp only
  cases c.verdict <;> rfl

/-- With fewer than 256 patterns stored, a new one takes a free record. -/
theorem Flash.freePattern_free (l : List (Nat × List Byte)) (hl : l.length < 256) :
    Flash.freePattern l < 256 ∧ ∀ e ∈ l, e.1 ≠ Flash.freePattern l := by
  have found : ∃ i ∈ List.range 256, (!l.any fun e => e.1 == i) = true := by
    by_contra hno
    push Not at hno
    have hsub : List.range 256 ⊆ l.map (·.1) := fun i hi => by
      have := hno i hi
      simp only [ne_eq, Bool.not_eq_true, Bool.not_eq_false', List.any_eq_true, beq_iff_eq] at this
      obtain ⟨e, he, rfl⟩ := this
      exact List.mem_map_of_mem he
    have := (List.nodup_range (n := 256)).subperm hsub |>.length_le
    simp at this
    omega
  unfold Flash.freePattern
  split
  case h_1 i hi =>
    have hfree := List.find?_some hi
    simp only [Bool.not_eq_true', List.any_eq_false, beq_iff_eq] at hfree
    exact ⟨List.mem_range.1 (List.mem_of_find?_eq_some hi), hfree⟩
  case h_2 hi =>
    obtain ⟨i, hmem, hfree⟩ := found
    rw [List.find?_eq_none] at hi
    exact absurd hfree (hi i hmem)

/-- What storing a capture's pattern changes. -/
theorem State.storePattern_spec (s : State) (p : Nat) (c : Capture) :
    let t := (s.modTile p fun t => { t with capture := none }).storePattern p c
    let i := (s.patternPlace p c).1
    SameMemory s t ∧ (t.tile p).capture = none ∧
    (∀ j, t.mgc.flash.record (.pattern j) = if j = i then
      s.flashNext (.pattern i) (s.mgc.flash.seq (.pattern i)) (s.patternPlace p c).2 else s.mgc.flash.record (.pattern j)) ∧
    t.mgc.flash = { s.mgc.flash with patterns := t.mgc.flash.patterns } ∧ t.mgc.flashWrites = s.mgc.flashWrites + 1 ∧
    (s.mgc.flashWrites ∉ s.mgc.flashBad → t.hif = s.hif) ∧
    (s.mgc.flashWrites ∈ s.mgc.flashBad → Posted s t srcMgc 2 0x9009 0 0) := by
  intro t i
  have ht : t = ((s.modTile p fun t => { t with capture := none }).flashWrite (.pattern i)
      (s.mgc.flash.seq (.pattern i)) (s.patternPlace p c).2).1 := State.storePattern_eq ..
  rw [ht]
  obtain ⟨hflash, hcount⟩ := (s.modTile p fun t => { t with capture := none }).flashWrite_flash (.pattern i)
      (s.mgc.flash.seq (.pattern i)) (s.patternPlace p c).2
  refine ⟨SameMemory.of_mem (State.flashWrite_mem ..), ?_, fun j => ?_, ?_, hcount, fun h => State.flashWrite_hif _ _ _ _ h, fun h => ?_⟩
  · rw [State.tile, State.flashWrite_tiles]
    exact congrArg Tile.capture (State.tile_modTile_self ..)
  · rw [hflash]
    exact Flash.record_setPattern ..
  · rw [hflash]
    rfl
  · exact Posted.congr (State.flashWrite_posted (s.modTile p fun t => { t with capture := none }) _ _ _ h) rfl rfl rfl rfl

theorem captureIsStoredOnce : Claims.CaptureIsStoredOnce := by
  intro s p c hp hc f found place i old written
  have run := exec_captureCopy s p c hp hc
  obtain ⟨hmem, htile, hrec, hpat, hcount, hgood, hbad⟩ := s.storePattern_spec p c
  have hplace : place = s.patternPlace p c := rfl
  have hi : (s.patternPlace p c).1 = i := rfl
  rw [hi] at hrec
  refine ⟨fun h => by rw [run, if_pos h], fun h hw => ⟨_, by rw [run, if_neg h], ⟨hmem, htile, ?_, ?_, hpat, hcount⟩, hgood hw⟩,
    fun h hw => ⟨_, by rw [run, if_neg h], ⟨hmem, htile, ?_, ?_, hpat, hcount⟩, hbad hw⟩, fun hf hl _ _ => ?_⟩
  · rw [hrec, if_pos rfl, State.flashNext, if_neg (by simpa using hw)]
    rfl
  · exact fun j hj => by rw [hrec, if_neg hj]
  · rw [hrec, if_pos rfl, State.flashNext, if_pos (by simpa using hw)]
    rfl
  · exact fun j hj => by rw [hrec, if_neg hj]
  · have : i = Flash.freePattern f.stored := by
      show place.1 = _
      simp only [place, hf]
    rw [this]
    exact Flash.freePattern_free _ hl

/-! ### Digests (R381, R382) -/

theorem length_digestBytes (d : List Nat) (moved : Bool) (occ : Nat) : (digestBytes d moved occ).length = 32 := by
  simp [digestBytes, leBytes]

/-- The tile of a position once its digest `d` has gone, with `rest` left. -/
def State.digestTile (s : State) (p : Nat) (d : List Nat) (rest : List (List Nat)) : Tile :=
  let choice := (s.table (p / 13)).choice
  let occ := Map.get (0, choice) (s.tile p).occ (nth 0 d 2)
  { s.tile p with digests := rest, occ := Map.put (s.tile p).occ (nth 0 d 2) (occ.1 + 1, choice) }
/-- A digest that found no place is counted. -/
def Tly.lose (x : Tly) : Tly := { x with lost := min (2 ^ 32 - 1) (x.lost + 1), lostTold := true }
/-- A digest's bytes enter the buffer. -/
def Tly.post (x : Tly) (l : List Byte) : Tly :=
  { x with tail := x.tail + 1, lostTold := false, buf := writeCells x.buf (32 * (x.tail.toNat % 4096)) l }

theorem exec_digestPost_of_none (s : State) (p : Nat) (hp : p < 208) (h : takeFirst (s.postsNext p) (s.tile p).digests = none) :
    exec (.digestPost p) s = .next s := by
  rw [show exec (.digestPost p) s = execDigestPost p s from rfl, execDigestPost, within, if_pos hp]
  dsimp only
  rw [h]

theorem exec_digestPost_of_some (s : State) (p : Nat) (d : List Nat) (rest : List (List Nat)) (hp : p < 208)
    (h : takeFirst (s.postsNext p) (s.tile p).digests = some (d, rest)) :
    exec (.digestPost p) s = .next (
      let choice := (s.table (p / 13)).choice
      let occ := Map.get (0, choice) (s.tile p).occ (nth 0 d 2)
      let s1 := s.setTile p (s.digestTile p d rest)
      if 4096 ≤ (s.tly.tail - s.tly.head).toNat then
        if s.tly.lostTold then { s1 with tly := s.tly.lose } else ({ s1 with tly := s.tly.lose } : State).raiseMgc 0x8010
      else { s1 with tly := s.tly.post (digestBytes d (decide (occ.2 < choice)) (occ.1 % 2 ^ 32)) }) := by
  rw [show exec (.digestPost p) s = execDigestPost p s from rfl, execDigestPost, within, if_pos hp]
  dsimp only
  rw [h]
  rfl

theorem digestsFillTheirBuffer : Claims.DigestsFillTheirBuffer := by
  intro s p hp
  refine ⟨exec_digestPost_of_none s p hp, fun d rest h => ⟨fun q t x hq hx hdue => ?_, ?_⟩⟩
  · have first := takeFirst_holds h
    simp only [State.postsNext, Bool.and_eq_true, List.all_eq_true, Bool.or_eq_true, Bool.not_eq_true'] at first
    refine ((first.2 _ hq x hx).resolve_left ?_)
    simp [State.postDue, hdue]
  · intro choice occ
    have run := exec_digestPost_of_some s p d rest hp h
    dsimp only at run
    by_cases full : 4096 ≤ (s.tly.tail - s.tly.head).toNat
    · rw [if_pos full] at run
      obtain ⟨w, hw⟩ : ∃ w : State, w = { s.setTile p (s.digestTile p d rest) with tly := s.tly.lose } := ⟨_, rfl⟩
      rw [← hw] at run
      have hmem : w.mem = s.mem := by rw [hw]; rfl
      have htile : w.tile p = s.digestTile p d rest := by rw [hw]; exact State.tile_setTile_self ..
      have htly : w.tly = s.tly.lose := by rw [hw]
      have hhif : w.hif = s.hif := by rw [hw]; rfl
      have hrcu : w.roundCounter = s.roundCounter := by rw [hw]; rfl
      cases told : s.tly.lostTold with
      | true =>
        refine ⟨w, by rw [run, if_pos told], SameMemory.of_mem hmem, by rw [htile]; rfl, fun hlt => absurd full (by omega), fun _ =>
          ⟨by rw [htly]; rfl, by rw [htly]; rfl, by rw [htly]; rfl, by simp, fun _ => hhif⟩⟩
      | false =>
        refine ⟨w.raiseMgc 0x8010, by rw [run, if_neg (by simp [told])], SameMemory.of_mem (by rw [State.raiseMgc_mem, hmem]), ?_,
          fun hlt => absurd full (by omega), fun _ => ⟨?_, ?_, ?_, fun _ => ?_, by simp⟩⟩
        · rw [State.tile_raiseMgc, htile]; rfl
        · rw [State.raiseMgc_tly, htly]; rfl
        · rw [State.raiseMgc_tly, htly]; rfl
        · rw [State.raiseMgc_tly, htly]; rfl
        · exact Posted.congr (State.raise_posted w srcMgc 2 0x8010 0 0) rfl (by rw [hhif]) (by rw [hhif]) hrcu.symm
    · rw [if_neg full] at run
      refine ⟨_, run, SameMemory.of_mem rfl, ?_, fun _ => ⟨rfl, rfl, rfl, ?_, fun k hk => ?_⟩, fun hle => absurd hle full⟩
      · exact congrArg Tile.digests (State.tile_setTile_self ..)
      · exact readCells_writeCells _ _ _ _ (length_digestBytes ..)
      · exact writeCells_other _ _ _ _ (by rw [length_digestBytes]; exact hk)

/-- Settles O30. -/
theorem capturesAndDigestsAreKept : Obligations.CapturesAndDigestsAreKept := ⟨captureIsStoredOnce, digestsFillTheirBuffer⟩

end Sys2Proof.Machine
end

section
/-! SUPPORT. What the dealer's results, its tracked operations and the landing queue leave (R51, R160 to R168, R197 to R211). -/

namespace Sys2Proof.Machine

/-! ### Deadline faults (R51) -/

@[simp] theorem State.raiseDeadline_tiles (s : State) (p bundle code : Nat) : (s.raiseDeadline p bundle code).tiles = s.tiles := by
  rw [State.raiseDeadline_frame]
@[simp] theorem State.raiseDeadline_mem (s : State) (p bundle code : Nat) : (s.raiseDeadline p bundle code).mem = s.mem := by
  rw [State.raiseDeadline_frame]
@[simp] theorem State.tile_raiseDeadline (s : State) (p bundle code q : Nat) :
    (s.raiseDeadline p bundle code).tile q = s.tile q := by
  rw [State.tile, State.raiseDeadline_tiles, State.tile]

/-- A tile changes and a deadline fault is raised: the record is that of the state before. -/
theorem State.modTile_raiseDeadline_posted (s : State) (p : Nat) (f : Tile → Tile) (bundle code : Nat) :
    Posted s ((s.modTile p f).raiseDeadline p bundle code) (srcTable (p / 13)) 2 code (faultTag (s.ltileOf p) bundle false) 0 :=
  Posted.congr (State.raiseDeadline_posted (s.modTile p f) p bundle code) rfl rfl rfl rfl

theorem State.raiseTile_posted (s : State) (p bundle code detail : Nat) :
    Posted s (s.raiseTile p bundle code detail) (srcTable (p / 13)) 2 code (faultTag (s.ltileOf p) bundle false) detail :=
  State.raise_posted ..
theorem State.raiseExt_posted (s : State) (p code detail : Nat) :
    Posted s (s.raiseExt p code detail) (srcTable (p / 13)) 2 code (faultTag (s.ltileOf p) 0 true) detail :=
  State.raise_posted ..
theorem State.modTile_raiseTile_posted (s : State) (p : Nat) (f : Tile → Tile) (bundle code detail : Nat) :
    Posted s ((s.modTile p f).raiseTile p bundle code detail) (srcTable (p / 13)) 2 code (faultTag (s.ltileOf p) bundle false) detail :=
  Posted.congr (State.raiseTile_posted (s.modTile p f) p bundle code detail) rfl rfl rfl rfl
theorem State.modTile_raiseExt_posted (s : State) (p : Nat) (f : Tile → Tile) (code detail : Nat) :
    Posted s ((s.modTile p f).raiseExt p code detail) (srcTable (p / 13)) 2 code (faultTag (s.ltileOf p) 0 true) detail :=
  Posted.congr (State.raiseExt_posted (s.modTile p f) p code detail) rfl rfl rfl rfl

/-- Two changes of one tile are one. -/
theorem State.onlyTile_modTile_modTile (s : State) (p : Nat) (f g : Tile → Tile) : OnlyTile p s ((s.modTile p f).modTile p g) :=
  ⟨rfl, fun q hq => by rw [State.modTile, State.tile_setTile_ne _ _ _ _ hq, State.modTile, State.tile_setTile_ne _ _ _ _ hq]⟩

/-! ### Results of slot C and slot X (R197, R210) -/

theorem Tile.counter_landCounter (t : Tile) (c d : Nat) (v : Word) :
    (t.landCounter c v.toNat).counter d = if d = c then v.toNat else t.counter d := by
  simp only [Tile.landCounter, Tile.counter, Tile.setCounter, Map.get_set]
  split <;> simp

theorem exec_cldResult (s : State) (p : Nat) (c : Cld) (rest : List Cld) (hp : p < 208)
    (h : takeFirst (fun (c : Cld) => decide (c.due < s.stamp (p / 13))) (s.tile p).clds = some (c, rest)) :
    exec (.cldResult p) s = .next (match c.value with
      | some v => (s.modTile p fun t => { t with clds := rest }).modTile p (·.landCounter c.d v.toNat)
      | none => ((s.modTile p fun t => { t with clds := rest }).modTile p fun t =>
          { t with reqs := t.reqs.filter fun r => r.use ≠ .toCld c.id }).raiseDeadline p c.bundle 0x5010) := by
  show execCldResult p s = _
  simp only [execCldResult, within, if_pos hp, h] <;> rfl

theorem exec_ringResultWrite (s : State) (p : Nat) (c : RingRes) (rest : List RingRes) (hp : p < 208)
    (h : takeFirst (fun (c : RingRes) => decide (c.due < s.stamp (p / 13))) (s.tile p).results = some (c, rest)) :
    exec (.ringResultWrite p) s = .next (match c.value with
      | some v => (s.modTile p fun t => { t with results := rest }).modTile p (·.landCounter c.d v.toNat)
      | none => (s.modTile p fun t => { t with results := rest }).raiseDeadline p c.bundle 0x5010) := by
  show execRingResultWrite p s = _
  simp only [execRingResultWrite, within, if_pos hp, h] <;> rfl

/-- Settles O15. -/
theorem dueResultsEnterTheirCounters : Obligations.DueResultsEnterTheirCounters := by
  intro s p hp
  refine ⟨fun c rest h => ?_, fun c rest h => ?_⟩
  · have run := exec_cldResult s p c rest hp h
    refine ⟨fun v hv => ?_, fun hv => ?_⟩
    · rw [hv] at run
      refine ⟨_, run, State.onlyTile_modTile_modTile .., fun d => ?_, ?_⟩
      · rw [State.tile_modTile_self, State.tile_modTile_self]
        exact Tile.counter_landCounter ..
      · rw [State.tile_modTile_self, State.tile_modTile_self]
        rfl
    · rw [hv] at run
      refine ⟨_, run, SameMemory.of_mem ?_, ?_, ?_, fun d => ?_⟩
      · rw [State.raiseDeadline_mem]; rfl
      · exact Posted.congr (State.modTile_raiseDeadline_posted (s.modTile p fun t => { t with clds := rest }) _ _ _ _) rfl rfl rfl rfl
      · rw [State.tile_raiseDeadline, State.tile_modTile_self, State.tile_modTile_self]
      · rw [State.tile_raiseDeadline, State.tile_modTile_self, State.tile_modTile_self]; rfl
  · have run := exec_ringResultWrite s p c rest hp h
    refine ⟨fun v hv => ?_, fun hv => ?_⟩
    · rw [hv] at run
      refine ⟨_, run, State.onlyTile_modTile_modTile .., fun d => ?_, ?_⟩
      · rw [State.tile_modTile_self, State.tile_modTile_self]
        exact Tile.counter_landCounter ..
      · rw [State.tile_modTile_self, State.tile_modTile_self]
        rfl
    · rw [hv] at run
      refine ⟨_, run, SameMemory.of_mem ?_, State.modTile_raiseDeadline_posted .., ?_, fun d => ?_⟩
      · rw [State.raiseDeadline_mem]; rfl
      · rw [State.tile_raiseDeadline, State.tile_modTile_self]
      · rw [State.tile_raiseDeadline, State.tile_modTile_self]; rfl

/-! ### SETUP (R201) -/

theorem exec_setupWrite (s : State) (p : Nat) (c : Setup) (rest : List Setup) (hp : p < 208)
    (h : takeFirst (fun (c : Setup) => decide (c.due < s.stamp (p / 13))) (s.tile p).setups = some (c, rest)) :
    exec (.setupWrite p) s = .next (
      if c.nrows ≤ c.got then ((s.modTile p fun t => { t with setups := rest }).modSeat p (·.writeSetup c)).setupFresh p c
      else ((s.modTile p fun t => { t with setups := rest }).modTile p fun t => { t with reqs := t.reqs.filter fun r =>
          match r.use with | .toSetup i _ => i != c.id | _ => true }).raiseDeadline p c.bundle 0x5010) := by
  show execSetupWrite p s = _
  simp only [execSetupWrite, within, if_pos hp, h] <;> rfl

/-- Keys in a row are written one after the other, those below a bound. -/
theorem Map.get_foldl_set {α : Type} [DecidableEq α] (d : α) (first bound : Nat) (v : Nat → α) (n : Nat) (m : List (Nat × α)) (e : Nat) :
    Map.get d ((List.range n).foldl (fun m i => if first + i < bound then Map.set d m (first + i) (v i) else m) m) e =
      if first ≤ e ∧ e < first + n ∧ e < bound then v (e - first) else Map.get d m e := by
  induction n with
  | zero => simp [show ¬ (first ≤ e ∧ e < first ∧ e < bound) by omega]
  | succ n ih =>
    rw [List.range_succ, List.foldl_append, List.foldl_cons, List.foldl_nil]
    by_cases hb : first + n < bound
    · rw [if_pos hb, Map.get_set, ih]
      by_cases he : e = first + n
      · subst he
        rw [if_pos rfl, if_pos (by omega)]
        congr 1
        omega
      · rw [if_neg he]
        congr 1
        exact propext (by omega)
    · rw [if_neg hb, ih]
      congr 1
      exact propext (by omega)

/-- A fold of changes of one part of a tile changes that part alone. -/
theorem Tile.foldl_part {α : Type} (put : Tile → α → Tile) (part : Tile → α) (hput : ∀ t, put t (part t) = t)
    (hpp : ∀ t a b, put (put t a) b = put t b) (hpart : ∀ t a, part (put t a) = a) (step : α → Nat → α) (l : List Nat) (t : Tile) :
    l.foldl (fun t i => put t (step (part t) i)) t = put t (l.foldl step (part t)) := by
  induction l generalizing t with
  | nil => exact (hput t).symm
  | cons i l ih => rw [List.foldl_cons, ih, hpp, hpart, List.foldl_cons]

/-- What a SETUP of ring registers writes at its `i`-th target. -/
def Setup.ringAt (c : Setup) (i : Nat) : Ring :=
  let w (k : Nat) : Word := BitVec.ofNat 32 (leNat (readCells c.data (16 * i + 4 * k) 4))
  { base := w 0 &&& BitVec.ofNat 32 ringBaseMask, cfg := w 1 &&& BitVec.ofNat 32 ringCfgMask, head := w 2, tail := w 3,
    reserve := w 3, pushes := [] }

/-- What a SETUP of handles writes at its `i`-th target. -/
def Setup.handleAt (c : Setup) (i : Nat) : BitVec 64 := BitVec.ofNat 64 (leNat (readCells c.data (8 * i) 8) &&& handleMask)

theorem Tile.writeSetup_odt (t : Tile) (c : Setup) (h : c.what = 0) :
    t.writeSetup c = { t with odt := (List.range (4 * c.nrows)).foldl (fun m i =>
      if c.first + i < 1024 then Map.set 0#128 m (c.first + i) (BitVec.ofNat 128 (leNat (readCells c.data (16 * i) 16))) else m) t.odt } := by
  rw [Tile.writeSetup, h]
  show List.foldl _ t _ = _
  rw [← Tile.foldl_part (fun t a => { t with odt := a }) Tile.odt (fun _ => rfl) (fun _ _ _ => rfl) (fun _ _ => rfl)]
  congr 1
  funext t i
  split <;> rfl

theorem Tile.writeSetup_rings (t : Tile) (c : Setup) (h : c.what = 1) :
    t.writeSetup c = { t with rings := (List.range (4 * c.nrows)).foldl (fun m i =>
      if c.first + i < 16 then Map.set {} m (c.first + i) (c.ringAt i) else m) t.rings } := by
  rw [Tile.writeSetup, h]
  show List.foldl _ t _ = _
  rw [← Tile.foldl_part (fun t a => { t with rings := a }) Tile.rings (fun _ => rfl) (fun _ _ _ => rfl) (fun _ _ => rfl)]
  congr 1
  funext t i
  split <;> rfl

theorem Tile.writeSetup_handles (t : Tile) (c : Setup) (h : c.what = 2) :
    t.writeSetup c = { t with handles := (List.range (8 * c.nrows)).foldl (fun m i =>
      if c.first + i < 32 then Map.set 0#64 m (c.first + i) (c.handleAt i) else m) t.handles } := by
  rw [Tile.writeSetup, h]
  show List.foldl _ t _ = _
  rw [← Tile.foldl_part (fun t a => { t with handles := a }) Tile.handles (fun _ => rfl) (fun _ _ _ => rfl) (fun _ _ => rfl)]
  congr 1
  funext t i
  split <;> rfl

/-- A change of a seat and of its mirror: it is made at both, and twice where the two are one. -/
theorem State.tile_modSeat (s : State) (p q : Nat) (f : Tile → Tile) (hq : q = p ∨ s.mirrorOf p = some q) :
    ∃ t, (s.modSeat p f).tile q = f t ∧ (t = s.tile q ∨ t = f (s.tile q)) := by
  unfold State.modSeat
  split
  case h_1 j hj =>
    by_cases hqj : q = j
    · subst hqj
      rw [State.tile_modTile_self]
      refine ⟨_, rfl, ?_⟩
      by_cases hp : q = p
      · subst hp
        exact .inr (State.tile_modTile_self ..)
      · exact .inl (State.tile_setTile_ne _ _ _ _ hp)
    · have hp : q = p := hq.resolve_right fun h => hqj (by rw [hj] at h; exact (Option.some.inj h).symm)
      subst hp
      rw [State.modTile, State.tile_setTile_ne _ _ _ _ hqj, State.tile_modTile_self]
      exact ⟨_, rfl, .inl rfl⟩
  case h_2 hj =>
    have hp : q = p := hq.resolve_right fun h => by rw [hj] at h; cases h
    subst hp
    rw [State.tile_modTile_self]
    exact ⟨_, rfl, .inl rfl⟩

theorem State.tile_modSeat_other (s : State) (p q : Nat) (f : Tile → Tile) (hq : ¬ (q = p ∨ s.mirrorOf p = some q)) :
    (s.modSeat p f).tile q = s.tile q := by
  simp only [not_or] at hq
  unfold State.modSeat
  split
  case h_1 j hj =>
    have hj' : q ≠ j := fun e => hq.2 (by rw [hj, e])
    rw [State.modTile, State.tile_setTile_ne _ _ _ _ hj', State.modTile, State.tile_setTile_ne _ _ _ _ hq.1]
  case h_2 => exact State.tile_setTile_ne _ _ _ _ hq.1

theorem State.modSeat_frame (s : State) (p : Nat) (f : Tile → Tile) : s.modSeat p f = { s with tiles := (s.modSeat p f).tiles } := by
  unfold State.modSeat
  split <;> rfl

/-- The state that a whole SETUP leaves. -/
def State.setupDone (s : State) (p : Nat) (c : Setup) (rest : List Setup) : State :=
  ((s.modTile p fun t => { t with setups := rest }).modSeat p (·.writeSetup c)).setupFresh p c

theorem State.setupDone_frame (s : State) (p : Nat) (c : Setup) (rest : List Setup) :
    s.setupDone p c rest =
      { s with tiles := (s.setupDone p c rest).tiles, tly := { s.tly with flips := (s.setupDone p c rest).tly.flips } } := by
  unfold State.setupDone
  rw [State.modSeat_frame]
  rfl

theorem State.tile_setupDone_other (s : State) (p q : Nat) (c : Setup) (rest : List Setup)
    (hq : ¬ (q = p ∨ s.mirrorOf p = some q)) : (s.setupDone p c rest).tile q = s.tile q := by
  have hp : q ≠ p := fun e => hq (.inl e)
  exact ((s.modTile p fun t => { t with setups := rest }).tile_modSeat_other p q _ hq).trans (State.tile_setTile_ne _ _ _ _ hp)

/-- What a whole SETUP leaves at a seat, when a write of its targets fixes what `look` sees on a condition. -/
theorem State.look_setupDone {α : Type} (s : State) (p q : Nat) (c : Setup) (rest : List Setup) (look : Tile → α) (A : Prop) [Decidable A]
    (v : α) (hw : ∀ t : Tile, look (t.writeSetup c) = if A then v else look t)
    (hs : ∀ t : Tile, look { t with setups := rest } = look t) (hq : q = p ∨ s.mirrorOf p = some q) :
    look ((s.setupDone p c rest).tile q) = if A then v else look (s.tile q) := by
  obtain ⟨t, ht, htq⟩ := (s.modTile p fun t => { t with setups := rest }).tile_modSeat p q (·.writeSetup c) hq
  have old : look ((s.modTile p fun t => { t with setups := rest }).tile q) = look (s.tile q) := by
    by_cases hp : q = p
    · subst hp; rw [State.tile_modTile_self, hs]
    · rw [State.modTile, State.tile_setTile_ne _ _ _ _ hp]
  rw [show (s.setupDone p c rest).tile q = t.writeSetup c from ht, hw]
  rcases htq with rfl | rfl
  · rw [old]
  · rw [hw, old]; split <;> rfl

/-- A whole SETUP changes only its own targets of its tile. -/
theorem State.own_setupDone {α : Type} (s : State) (p : Nat) (c : Setup) (rest : List Setup) (put : Tile → α → Tile) (part : Tile → α)
    (hpp : ∀ t a b, put (put t a) b = put t b) (hw : ∀ t : Tile, t.writeSetup c = put t (part (t.writeSetup c))) :
    (s.setupDone p c rest).tile p = put { s.tile p with setups := rest } (part ((s.setupDone p c rest).tile p)) := by
  obtain ⟨t, ht, htq⟩ := (s.modTile p fun t => { t with setups := rest }).tile_modSeat p p (·.writeSetup c) (.inl rfl)
  rw [State.tile_modTile_self] at htq
  rw [show (s.setupDone p c rest).tile p = t.writeSetup c from ht]
  rcases htq with rfl | rfl
  · exact hw _
  · conv_lhs => rw [hw, hw { s.tile p with setups := rest }, hpp]
    rw [← hw]

theorem Tile.odt_writeSetup (t : Tile) (c : Setup) (h : c.what = 0) (e : Nat) :
    Map.get 0#128 (t.writeSetup c).odt e =
      if c.first ≤ e ∧ e < c.first + 4 * c.nrows ∧ e < 1024 then BitVec.ofNat 128 (leNat (readCells c.data (16 * (e - c.first)) 16))
      else Map.get 0#128 t.odt e := by
  rw [Tile.writeSetup_odt t c h]
  exact Map.get_foldl_set 0#128 c.first 1024 (fun i => BitVec.ofNat 128 (leNat (readCells c.data (16 * i) 16))) _ _ e
theorem Tile.ring_writeSetup (t : Tile) (c : Setup) (h : c.what = 1) (r : Nat) :
    (t.writeSetup c).ring r =
      if c.first ≤ r ∧ r < c.first + 4 * c.nrows ∧ r < 16 then c.ringAt (r - c.first) else t.ring r := by
  rw [Tile.writeSetup_rings t c h]
  exact Map.get_foldl_set {} c.first 16 c.ringAt _ _ r
theorem Tile.handle_writeSetup (t : Tile) (c : Setup) (h : c.what = 2) (e : Nat) :
    Map.get 0#64 (t.writeSetup c).handles e =
      if c.first ≤ e ∧ e < c.first + 8 * c.nrows ∧ e < 32 then c.handleAt (e - c.first) else Map.get 0#64 t.handles e := by
  rw [Tile.writeSetup_handles t c h]
  exact Map.get_foldl_set 0#64 c.first 32 c.handleAt _ _ e

theorem Setup.handleAt_eq (c : Setup) (i : Nat) :
    c.handleAt i = BitVec.ofNat 64 (leNat (readCells c.data (8 * i) 8)) &&& 0xf1ffff1ffff := by
  rw [Setup.handleAt, show handleMask = 0xf1ffff1ffff from rfl, BitVec.ofNat_and]
  rfl
theorem Setup.ringAt_eq (c : Setup) (i : Nat) :
    c.ringAt i =
      let w := fun k => BitVec.ofNat 32 (leNat (readCells c.data (4 * (4 * i + k)) 4))
      { base := w 0 &&& 0x1ffff, cfg := w 1 &&& 0x80fdffff, head := w 2, tail := w 3, reserve := w 3, pushes := [] } := by
  have hk : ∀ k, 4 * (4 * i + k) = 16 * i + 4 * k := fun k => by omega
  simp only [hk]
  rfl

/-- Settles O16. -/
theorem setupWritesAllItsTargets : Obligations.SetupWritesAllItsTargets := by
  intro s p c rest hp h word seats lands
  have run := exec_setupWrite s p c rest hp h
  have whole : c.nrows ≤ c.got → exec (.setupWrite p) s = .next (s.setupDone p c rest) := fun hg => by rw [run, if_pos hg]; rfl
  have landed : lands (s.setupDone p c rest) := ⟨fun q hq => s.tile_setupDone_other p q c rest hq, s.setupDone_frame p c rest⟩
  refine ⟨fun hg hw => ⟨_, whole hg, landed, fun q hq e => ?_, ?_⟩, fun hg hw => ⟨_, whole hg, landed, fun q hq r => ?_, ?_⟩,
    fun hg hw => ⟨_, whole hg, landed, fun q hq e => ?_, ?_⟩, fun hg => ⟨_, by rw [run, if_neg (by omega)], ?_⟩⟩
  · exact s.look_setupDone p q c rest (fun t => Map.get 0#128 t.odt e) _ _ (fun t => t.odt_writeSetup c hw e) (fun _ => rfl) hq
  · exact s.own_setupDone p c rest (fun t a => { t with odt := a }) Tile.odt (fun _ _ _ => rfl)
      fun t => by rw [Tile.writeSetup_odt t c hw]
  · have := s.look_setupDone p q c rest (fun t => t.ring r) _ _ (fun t => t.ring_writeSetup c hw r) (fun _ => rfl) hq
    rw [Setup.ringAt_eq] at this
    exact this
  · exact s.own_setupDone p c rest (fun t a => { t with rings := a }) Tile.rings (fun _ _ _ => rfl)
      fun t => by rw [Tile.writeSetup_rings t c hw]
  · have := s.look_setupDone p q c rest (fun t => Map.get 0#64 t.handles e) _ _ (fun t => t.handle_writeSetup c hw e) (fun _ => rfl) hq
    rw [Setup.handleAt_eq] at this
    exact this
  · exact s.own_setupDone p c rest (fun t a => { t with handles := a }) Tile.handles (fun _ _ _ => rfl)
      fun t => by rw [Tile.writeSetup_handles t c hw]
  · refine ⟨SameMemory.of_mem (by rw [State.raiseDeadline_mem]; rfl), ?_, ?_⟩
    · exact Posted.congr (State.modTile_raiseDeadline_posted (s.modTile p fun t => { t with setups := rest }) _ _ _ _) rfl rfl rfl rfl
    · rw [State.tile_raiseDeadline, State.tile_modTile_self, State.tile_modTile_self]
      exact ⟨rfl, rfl, rfl, rfl⟩

/-! ### Work past the last beat or its deadline (R51, R208) -/

theorem State.writeRow_tiles (s : State) (p row lo : Nat) (l : List Byte) : (s.writeRow p row lo l).tiles = s.tiles := by
  unfold State.writeRow
  dsimp only
  split <;> rfl

theorem State.foldl_writeRow_tiles (p row : Nat) (l : List Host.Cell) (s : State) :
    (l.foldl (fun s c => s.writeRow p row c.1 [c.2]) s).tiles = s.tiles := by
  induction l generalizing s with
  | nil => rfl
  | cons c l ih => rw [List.foldl_cons, ih, State.writeRow_tiles]

theorem State.pipRows_tiles (s : State) (p : Nat) (l : List (Nat × List Host.Cell)) : (s.pipRows p l).tiles = s.tiles := by
  unfold State.pipRows
  induction l generalizing s with
  | nil => rfl
  | cons w l ih => rw [List.foldl_cons, ih, State.foldl_writeRow_tiles]

theorem State.cutPips_run (s : State) (p last : Nat) : ((s.cutPips p last).tile p).pips.run = none := by
  unfold State.cutPips
  dsimp only
  split
  case h_1 h => exact h
  case h_2 =>
    rw [State.tile_raiseDeadline, State.tile_modTile_self, State.tile, State.pipRows_tiles]
    exact congrArg (fun t : Tile => t.pips.run) (State.tile_setPips ..)

theorem State.cutSetups_tile (s : State) (p last : Nat) :
    (s.cutSetups p last).tile p =
      { s.tile p with setups := (s.tile p).setups.filter fun c => !decide (last < c.due) } := by
  unfold State.cutSetups
  dsimp only
  have keeps : ∀ (l : List Setup) (w : State),
      (l.foldl (fun s c => s.raiseDeadline p c.bundle 0x5012) w).tiles = w.tiles := fun l => by
    induction l with
    | nil => exact fun _ => rfl
    | cons c l ih => exact fun w => by rw [List.foldl_cons, ih, State.raiseDeadline_tiles]
  rw [State.tile, keeps]
  exact State.tile_modTile_self ..

theorem State.cutSetups_pips (s : State) (p last : Nat) : ((s.cutSetups p last).tile p).pips = (s.tile p).pips := by
  rw [State.cutSetups_tile]
theorem State.cutSetups_due (s : State) (p last : Nat) (c : Setup) (hc : c ∈ ((s.cutSetups p last).tile p).setups) : c.due ≤ last := by
  rw [State.cutSetups_tile] at hc
  simpa using (List.mem_filter.1 hc).2

/-- What the cutoff of a position leaves of its dispatch and its SETUPs (R51). -/
theorem State.cutTile_spec (s : State) (p : Nat) :
    ((s.cutTile p).tile p).pips.run = none ∧ ∀ c ∈ ((s.cutTile p).tile p).setups, c.due ≤ s.stamp (p / 13) := by
  rw [State.cutTile]
  generalize ((s.settleTile p).cutMatrix p).settleTile p = w
  generalize s.stamp (p / 13) = last
  exact ⟨by rw [State.cutSetups_pips, State.cutPips_run], fun c hc => State.cutSetups_due _ _ _ c hc⟩

theorem exec_tickEndCutoff (s : State) (p : Nat) (hp : p < 208) :
    exec (.tickEndCutoff p) s =
      .next (if s.tableBeat (p / 13) < s.lastBeat (p / 13) then s else (s.endBeat p).cutTile p) := if_pos hp

/-- An operation's rows, slots or acknowledgements are still to come (R208). -/
def State.opOpen (s : State) (p op : Nat) (o : Op) : Bool :=
  (s.tile p).reqs.any (fun r => match r.use with
      | .toOp i _ _ _ => i == op
      | .write _ _ i => i == op
      | .writePush _ _ _ _ i => i == op
      | .flag _ _ _ i => i == op
      | _ => false) || o.cut || o.awaiting != 0 || !o.later.isEmpty || !o.held.isEmpty || decide (o.slots < o.nslots) || !o.started

/-- An operation that a deadline can end (R208): not one of slot M, nor a read served to another tile. -/
def Op.mayExpire (o : Op) : Bool := !(match o.kind with | .drain | .accm | .shuf => true | _ => false) && o.kind != .serve

/-- A tile without an operation that its deadline ended. -/
def Tile.expire (t : Tile) (op me : Nat) : Tile :=
  let t := t.dropOp op
  { t with reqs := t.reqs.filter fun r => match r.use with
             | .toOp i _ _ _ => i != op
             | .write _ _ i => i != op
             | .writePush _ _ _ _ i => i != op
             | .flag _ _ _ i => i != op || i == 0
             | _ => true,
           outq := t.outq.filter fun e => !(e.2.2.2.op == op && e.2.2.2.src == me && e.1 == 3 && op != 0) }

theorem Op.mayExpire_of_kind (o : Op) (h1 : o.kind ≠ .drain) (h2 : o.kind ≠ .accm) (h3 : o.kind ≠ .shuf) (h4 : o.kind ≠ .serve) :
    o.mayExpire = true := by
  unfold Op.mayExpire
  split <;> simp_all

theorem exec_deadlineExpire (s : State) (p op : Nat) (o : Op) (hp : p < 208) (ho : (s.tile p).op? op = some o) :
    exec (.deadlineExpire p op) s = .next (
      if o.tracked && o.mayExpire && decide (o.deadline < s.now) && s.opOpen p op o then
        (s.modTile p (·.expire op (s.ltileOf p))).raiseDeadline p o.bundle 0x5010
      else s) := by
  show execDeadlineExpire p op s = _
  rw [execDeadlineExpire, within, if_pos hp]
  congr 1
  unfold State.expireOp
  dsimp only
  rw [ho]
  dsimp only
  rw [Bool.and_assoc o.tracked]
  rfl

theorem Tile.op?_dropOp (t : Tile) (op : Nat) : (t.dropOp op).op? op = none := by
  simp only [Tile.op?, Tile.dropOp, List.find?_eq_none, List.mem_filter]
  rintro o ⟨-, ho⟩
  simpa using ho

/-- Settles O18. -/
theorem lateWorkIsCutOff : Obligations.LateWorkIsCutOff := by
  intro s p op hp
  obtain ⟨hrun, hdues⟩ := (s.endBeat p).cutTile_spec p
  refine ⟨fun h => by rw [exec_tickEndCutoff s p hp, if_pos h],
    fun h => ⟨_, by rw [exec_tickEndCutoff s p hp, if_neg (by omega)], hrun, hdues⟩,
    fun o ho htr hdue h1 h2 h3 h4 hopen => ?_, fun o ho hl hh hc ha hs hst hr => ?_⟩
  · have hop : s.opOpen p op o = true := by
      rcases hopen with h | h | h | h | h | h | ⟨r, hr, h⟩
      · simp [State.opOpen, h]
      · simp [State.opOpen, h]
      · simp [State.opOpen, h]
      · simp [State.opOpen, h]
      · simp [State.opOpen, h]
      · simp [State.opOpen, h]
      · have hw : (s.tile p).reqs.any (fun r => match r.use with
            | .toOp i _ _ _ => i == op
            | .write _ _ i => i == op
            | .writePush _ _ _ _ i => i == op
            | .flag _ _ _ i => i == op
            | _ => false) = true := by
          refine List.any_eq_true.2 ⟨r, hr, ?_⟩
          rcases h with ⟨lo, n, off, h⟩ | ⟨lo, data, h⟩ <;> simp [h]
        simp only [State.opOpen, hw, Bool.true_or]
    have run := exec_deadlineExpire s p op o hp ho
    rw [if_pos (by simp [htr, hop, hdue, o.mayExpire_of_kind h1 h2 h3 h4])] at run
    refine ⟨_, run, SameMemory.of_mem (by rw [State.raiseDeadline_mem]; rfl), ?_, State.modTile_raiseDeadline_posted ..⟩
    rw [State.tile_raiseDeadline, State.tile_modTile_self]
    exact Tile.op?_dropOp ..
  · rw [exec_deadlineExpire s p op o hp ho, if_neg]
    simp [State.opOpen, hl, hh, hc, ha, hst, hr, hs]

/-! ### Completion flags (R207) -/

theorem mem_insReq (r x : RowReq) (l : List RowReq) : x ∈ insReq r l ↔ x = r ∨ x ∈ l := by
  induction l with
  | nil => simp [insReq]
  | cons y l ih =>
    rw [insReq]
    split
    · simp only [List.mem_cons, ih]; tauto
    · simp only [List.mem_cons]

@[simp] theorem Tile.reqs_request (t : Tile) (r x : RowReq) : x ∈ (t.request r).reqs ↔ x = r ∨ x ∈ t.reqs := mem_insReq ..

/-- A flag that is a word of the position's own tile is requested there. -/
theorem State.sendFlag_own (s : State) (p : Nat) (f : FlagReq) (bundle : Option Nat) (op rank earliest deadline : Nat)
    (hd : f.dev = s.selfDev) (hl : f.ltile = s.ltileOf p) (hm : f.off / 64 < mappedRows) :
    s.sendFlag p f bundle op rank earliest deadline = s.modTile p fun t => t.request
      { cls := 4, seq := rank, row := f.off / 64, deadline, since := earliest, use := .flag (f.off % 64 / 4) f.value f.mode op } := by
  unfold State.sendFlag
  dsimp only
  rw [if_pos (by simp [hd, hl]), if_pos hm]

theorem exec_completionFlagWrite_own (s : State) (p op : Nat) (o : Op) (f : FlagReq) (hp : p < 208)
    (ho : (s.tile p).ops.find?
      (fun o => o.id = op && !o.tracked && !o.cut && o.kind != .serve && decide (o.issue < s.stamp (p / 13))) = some o)
    (hf : o.flag = some f) :
    exec (.completionFlagWrite p op) s = .next
      ((s.modTile p (·.dropOp op)).sendFlag p (f.poison o.poisoned) (some o.bundle) 0 o.rank s.age noDeadline) := by
  show execCompletionFlagWrite p op s = _
  rw [execCompletionFlagWrite, within, if_pos hp]
  dsimp only
  rw [ho]
  dsimp only
  rw [hf]

theorem exec_completionFlagWrite_rx (s : State) (p op : Nat) (x : RxOp) (rest : List RxOp) (f : FlagReq) (hp : p < 208)
    (ho : (s.tile p).ops.find?
      (fun o => o.id = op && !o.tracked && !o.cut && o.kind != .serve && decide (o.issue < s.stamp (p / 13))) = none)
    (hx : takeFirst (fun (x : RxOp) => x.op == op && x.acked && x.status == 0 && decide (x.src < svcSrc)) (s.tile p).rx = some (x, rest))
    (hf : x.flag = some f) :
    exec (.completionFlagWrite p op) s = .next
      ((s.modTile p fun t => { t with rx := rest }).sendFlag p f none 0 (issueOrder (s.stamp (p / 13)) 3) s.age noDeadline) := by
  show execCompletionFlagWrite p op s = _
  rw [execCompletionFlagWrite, within, if_pos hp]
  dsimp only
  rw [ho]
  dsimp only
  rw [hx]
  dsimp only
  rw [hf]

theorem FlagReq.poison_fields (f : FlagReq) (b : Bool) :
    (f.poison b).dev = f.dev ∧ (f.poison b).ltile = f.ltile ∧ (f.poison b).off = f.off ∧ (f.poison b).mode = f.mode ∧
      (f.poison b).value = if b then f.value ||| 0x80000000 else f.value := by
  cases b <;> exact ⟨rfl, rfl, rfl, rfl, rfl⟩

/-- Settles O19. -/
theorem completionFlagIsWritten : Obligations.CompletionFlagIsWritten := by
  intro s p op f hp hd hl hm own
  refine ⟨fun o ho hf => ?_, fun x rest ho hx hf => ?_⟩
  · obtain ⟨dev, lt, off, mode, value⟩ := f.poison_fields o.poisoned
    have run := exec_completionFlagWrite_own s p op o f hp ho hf
    rw [State.sendFlag_own (s.modTile p (·.dropOp op)) _ _ _ _ _ _ _ (dev.trans hd) (lt.trans hl) (by rw [off]; exact hm)] at run
    refine ⟨_, run, State.onlyTile_modTile_modTile .., ?_, ?_⟩
    · rw [State.tile_modTile_self, State.tile_modTile_self]
      exact Tile.op?_dropOp ..
    · rw [State.tile_modTile_self]
      exact ⟨_, (Tile.reqs_request ..).2 (.inl rfl), by rw [off], by rw [off, mode, value]⟩
  · have run := exec_completionFlagWrite_rx s p op x rest f hp ho hx hf
    rw [State.sendFlag_own (s.modTile p fun t => { t with rx := rest }) _ _ _ _ _ _ _ hd hl hm] at run
    refine ⟨_, run, State.onlyTile_modTile_modTile .., ?_, ?_⟩
    · rw [State.tile_modTile_self, State.tile_modTile_self]
      rfl
    · rw [State.tile_modTile_self]
      exact ⟨_, (Tile.reqs_request ..).2 (.inl rfl), rfl, rfl⟩

/-! ### The landing queue (R160, R162) -/

/-- What the landing of a slot at a position keeps: the crossbar, memory, the tables, and of the tile its handles, the beat
from which the next slot may land, and the requests that wait. -/
structure Landing (p : Nat) (s t : State) : Prop where
  xbar : t.xbar = s.xbar
  mem : t.mem = s.mem
  tables : t.tables = s.tables
  dck : t.dck = s.dck
  handles : (t.tile p).handles = (s.tile p).handles
  landAt : (t.tile p).landAt = (s.tile p).landAt
  reqs : ∀ r ∈ (s.tile p).reqs, r ∈ (t.tile p).reqs

theorem Landing.refl (p : Nat) (s : State) : Landing p s s := ⟨rfl, rfl, rfl, rfl, rfl, rfl, fun _ h => h⟩

theorem Landing.trans {p : Nat} {s t u : State} (h : Landing p s t) (k : Landing p t u) : Landing p s u :=
  ⟨k.xbar.trans h.xbar, k.mem.trans h.mem, k.tables.trans h.tables, k.dck.trans h.dck, k.handles.trans h.handles,
    k.landAt.trans h.landAt, fun r hr => k.reqs r (h.reqs r hr)⟩

theorem Landing.modTile (s : State) (p : Nat) (f : Tile → Tile) (hh : (f (s.tile p)).handles = (s.tile p).handles)
    (hl : (f (s.tile p)).landAt = (s.tile p).landAt) (hr : ∀ r ∈ (s.tile p).reqs, r ∈ (f (s.tile p)).reqs) :
    Landing p s (s.modTile p f) := by
  refine ⟨rfl, rfl, rfl, rfl, ?_, ?_, ?_⟩
  · rw [State.tile_modTile_self, hh]
  · rw [State.tile_modTile_self, hl]
  · rw [State.tile_modTile_self]; exact hr

theorem Landing.raiseExt (s : State) (p c d : Nat) : Landing p s (s.raiseExt p c d) :=
  ⟨State.raiseExt_xbar .., State.raiseExt_mem .., State.raiseExt_tables .., State.raiseExt_dck .., by rw [State.tile_raiseExt],
    by rw [State.tile_raiseExt], by rw [State.tile_raiseExt]; exact fun _ h => h⟩

theorem Landing.request (s : State) (p : Nat) (r : RowReq) : Landing p s (s.modTile p (·.request r)) :=
  Landing.modTile s p _ rfl rfl fun _ hx => (Tile.reqs_request ..).2 (.inr hx)

theorem Landing.rxDenied (s : State) (p src op : Nat) : Landing p s (s.rxDenied p src op) := by
  unfold State.rxDenied
  dsimp only
  split
  · exact Landing.modTile s p _ rfl rfl fun _ h => h
  · exact (Landing.modTile s p _ rfl rfl fun _ h => h).trans (Landing.raiseExt ..)

theorem Landing.rxFault (s : State) (p src op : Nat) : Landing p s (s.rxFault p src op) := by
  unfold State.rxFault
  dsimp only
  split
  · exact Landing.modTile s p _ rfl rfl fun _ h => h
  · exact (Landing.modTile s p _ rfl rfl fun _ h => h).trans (Landing.raiseExt ..)

/-- The handles that a slot's rows pass are those of before it lands. -/
theorem Landing.slotDenied {p : Nat} {s t : State} (h : Landing p s t) (x : XSlot) (write : Bool) (row : Nat) :
    t.slotDenied p x write row = s.slotDenied p x write row := by
  have running : t.deckRuns = s.deckRuns := by rw [State.deckRuns, h.dck, State.deckRuns]
  have table : t.table (p / 13) = s.table (p / 13) := by rw [State.table, h.tables, State.table]
  rw [State.slotDenied, State.mayAccess, running, table, h.handles, State.slotDenied, State.mayAccess]

theorem Tile.openRx_keeps (t : Tile) (src op total deadline : Nat) (flag : Option FlagReq) :
    (t.openRx src op total deadline flag).handles = t.handles ∧ (t.openRx src op total deadline flag).landAt = t.landAt ∧
      (t.openRx src op total deadline flag).reqs = t.reqs := by
  unfold Tile.openRx
  split <;> exact ⟨rfl, rfl, rfl⟩

theorem Landing.openRx (s : State) (p src op total deadline : Nat) (flag : Option FlagReq) :
    Landing p s (s.modTile p (·.openRx src op total deadline flag)) := by
  obtain ⟨handles, landAt, reqs⟩ := (s.tile p).openRx_keeps src op total deadline flag
  exact Landing.modTile s p _ handles landAt fun r hr => by rw [reqs]; exact hr

/-- The step that one row of a remote write takes as it lands. -/
def State.landRow (p no : Nat) (x : XSlot) (row : Nat) (data : List Byte) (s : State) (i : Nat) : State :=
  if s.slotDenied p x true (row + i) then s.rxDenied p x.src x.op
  else if row + i < mappedRows then
    s.modTile p (·.request { cls := 3, seq := no, row := row + i, deadline := x.deadline, since := s.age,
                             use := .writeRx 0 (slice data (64 * i) 64) x.src x.op, side := decide (256 ≤ x.src) })
  else s.rxFault p x.src x.op

theorem Landing.landRow (p no : Nat) (x : XSlot) (row : Nat) (data : List Byte) (s : State) (i : Nat) :
    Landing p s (s.landRow p no x row data i) := by
  unfold State.landRow
  split
  · exact Landing.rxDenied ..
  · split
    · exact Landing.request ..
    · exact Landing.rxFault ..

theorem State.foldl_landRow (p no : Nat) (x : XSlot) (row : Nat) (data : List Byte) (n : Nat) (s : State) :
    let t := (List.range n).foldl (State.landRow p no x row data) s
    Landing p s t ∧ ∀ i < n, row + i < mappedRows → s.slotDenied p x true (row + i) = false →
      ∃ r ∈ (t.tile p).reqs, r.cls = 3 ∧ r.row = row + i ∧ r.use = .writeRx 0 (slice data (64 * i) 64) x.src x.op := by
  induction n with
  | zero => exact ⟨Landing.refl p s, fun i hi => absurd hi (Nat.not_lt_zero i)⟩
  | succ n ih =>
    rw [List.range_succ, List.foldl_append]
    simp only [List.foldl_cons, List.foldl_nil]
    obtain ⟨landing, asked⟩ := ih
    generalize (List.range n).foldl (State.landRow p no x row data) s = w at *
    have last := Landing.landRow p no x row data w n
    refine ⟨landing.trans last, fun i hi hm hd => ?_⟩
    rcases Nat.lt_succ_iff_lt_or_eq.1 hi with h | rfl
    · obtain ⟨r, hr, hrest⟩ := asked i h hm hd
      exact ⟨r, last.reqs r hr, hrest⟩
    · rw [State.landRow, landing.slotDenied, hd, if_neg (by simp), if_pos hm, State.tile_modTile_self]
      exact ⟨_, (Tile.reqs_request ..).2 (.inl rfl), rfl, rfl, rfl⟩

/-- The state in which a slot has left the crossbar for its position, which takes no other in this beat. -/
def State.delivered (s : State) (p : Nat) (x : XSlot) : State :=
  { s with xbar := s.xbar.erase x }.modTile p fun t => { t with landAt := s.age + 1 }

theorem exec_slotLanding (s : State) (p : Nat) (x : XSlot) (hp : p < 208) (hx : s.arrived p = some x) :
    exec (.slotLanding p) s = .next (
      if s.age < (s.tile p).landAt then s
      else if (s.tile p).landingCount < 32 then (s.delivered p x).land p x else (s.delivered p x).loseSlot p x) := by
  show execSlotLanding p s = _
  rw [execSlotLanding, within, if_pos hp, hx]
  dsimp only
  congr 2
  rw [State.tile_modTile_self]
  rfl

theorem State.delivered_tile (s : State) (p : Nat) (x : XSlot) :
    (s.delivered p x).tile p = { s.tile p with landAt := s.age + 1 } := State.tile_modTile_self ..

/-- What a slot that has left the crossbar does at its position. -/
theorem Landing.of_delivered {s t : State} {p : Nat} {x : XSlot} (h : Landing p (s.delivered p x) t) :
    t.xbar = s.xbar.erase x ∧ SameMemory s t ∧ (t.tile p).landAt = s.age + 1 :=
  ⟨h.xbar, SameMemory.of_mem h.mem, by rw [h.landAt, State.delivered_tile]⟩

theorem State.delivered_slotDenied (s : State) (p : Nat) (x y : XSlot) (write : Bool) (row : Nat) :
    (s.delivered p x).slotDenied p y write row = s.slotDenied p y write row := by
  have table : (s.delivered p x).table (p / 13) = s.table (p / 13) := rfl
  have running : (s.delivered p x).deckRuns = s.deckRuns := rfl
  rw [State.slotDenied, State.mayAccess, running, table, State.delivered_tile, State.slotDenied, State.mayAccess]

theorem Landing.nextOp (s : State) (p no : Nat) : Landing p s (s.modTile p fun t => { t with nextOp := no }) :=
  Landing.modTile s p _ rfl rfl fun _ h => h

/-- A remote write lands: its rows that no handle denies are requested. -/
theorem State.land_rows (s : State) (p : Nat) (x : XSlot) (row n : Nat) (data : List Byte) (hx : x.body = .rows row n data) :
    Landing p s (s.land p x) ∧ ∀ i < n, row + i < mappedRows → s.slotDenied p x true (row + i) = false →
      ∃ r ∈ ((s.land p x).tile p).reqs, r.cls = 3 ∧ r.row = row + i ∧ r.use = .writeRx 0 (slice data (64 * i) 64) x.src x.op := by
  unfold State.land
  dsimp only
  rw [hx]
  have start := (Landing.nextOp s p ((s.tile p).nextOp + 1)).trans (Landing.openRx _ p x.src x.op x.total x.deadline x.flag)
  obtain ⟨landing, asked⟩ := State.foldl_landRow p (s.tile p).nextOp x row data n
    ((s.modTile p fun t => { t with nextOp := (s.tile p).nextOp + 1 }).modTile p (·.openRx x.src x.op x.total x.deadline x.flag))
  exact ⟨start.trans landing, fun i hi hm hd => asked i hi hm (by rw [start.slotDenied]; exact hd)⟩

/-- A completion flag lands: its word is requested. -/
theorem State.land_flag (s : State) (p : Nat) (x : XSlot) (f : FlagReq) (hx : x.body = .flag f) (hop : x.op = 0)
    (hm : f.off / 64 < mappedRows) :
    Landing p s (s.land p x) ∧
      ∃ r ∈ ((s.land p x).tile p).reqs, r.cls = 3 ∧ r.row = f.off / 64 ∧ r.use = .flag (f.off % 64 / 4) f.value f.mode 0 := by
  unfold State.land
  dsimp only
  rw [hx]
  dsimp only
  unfold State.landFlag
  dsimp only
  rw [if_pos hop, if_pos hm, if_pos hop]
  refine ⟨(Landing.nextOp ..).trans (Landing.request ..), ?_⟩
  rw [State.tile_modTile_self]
  exact ⟨_, (Tile.reqs_request ..).2 (.inl rfl), rfl, rfl, rfl⟩

/-- A remote read lands: an operation serves it. -/
theorem State.land_read (s : State) (p : Nat) (x : XSlot) (row n : Nat) (hx : x.body = .rdReq row n) :
    Landing p s (s.land p x) ∧
      ∃ o ∈ ((s.land p x).tile p).ops, o.kind = .serve ∧ o.n = n ∧ o.dst = (0, x.src, row) ∧ o.aux = x.op ∧
        (x.ofSvc = false → o.reads = n ∧ o.arg2 = if mappedRows < row + n then 0x3001 else 0) := by
  unfold State.land
  dsimp only
  rw [hx]
  dsimp only
  unfold State.landRead
  dsimp only
  have quiet : ∀ (w : State) (i : Nat), x.ofSvc = false → w.slotDenied p x false (row + i) = false := fun w i h => by
    simp [State.slotDenied, h]
  split
  · refine ⟨(Landing.nextOp ..).trans (Landing.modTile _ p _ rfl rfl fun _ h => h), ?_⟩
    rw [State.tile_modTile_self]
    refine ⟨_, List.mem_append_right _ (List.mem_singleton_self _), rfl, rfl, rfl, rfl, fun h => ⟨?_, ?_⟩⟩
    · simp [quiet _ _ h]
    · simp
  next denied =>
    refine ⟨((Landing.nextOp ..).trans (Landing.modTile _ p _ rfl rfl fun _ h => h)).trans (Landing.raiseExt ..), ?_⟩
    rw [State.tile_raiseExt, State.tile_modTile_self]
    refine ⟨_, List.mem_append_right _ (List.mem_singleton_self _), rfl, rfl, rfl, rfl, fun h => absurd ?_ denied⟩
    simp [quiet _ _ h]

/-- A slot is lost: its record is raised, and its position keeps its requests. -/
theorem State.loseSlot_spec (s : State) (p : Nat) (x : XSlot) :
    Landing p s (s.loseSlot p x) ∧ ((s.loseSlot p x).tile p).reqs = (s.tile p).reqs ∧
      (s.loseSlot p x).hif = (s.raiseExt p 0x3007).hif := by
  have told := Landing.raiseExt s p 0x3007 0
  have change : ∀ f : Tile → Tile, (∀ t, (f t).handles = t.handles ∧ (f t).landAt = t.landAt ∧ (f t).reqs = t.reqs) →
      Landing p s ((s.raiseExt p 0x3007).modTile p f) ∧ (((s.raiseExt p 0x3007).modTile p f).tile p).reqs = (s.tile p).reqs ∧
        ((s.raiseExt p 0x3007).modTile p f).hif = (s.raiseExt p 0x3007).hif := fun f hf => by
    obtain ⟨handles, landAt, reqs⟩ := hf ((s.raiseExt p 0x3007).tile p)
    refine ⟨told.trans (Landing.modTile _ p f handles landAt fun r hr => by rw [reqs]; exact hr), ?_, rfl⟩
    rw [State.tile_modTile_self, reqs, State.tile_raiseExt]
  have still : Landing p s (s.raiseExt p 0x3007) ∧ ((s.raiseExt p 0x3007).tile p).reqs = (s.tile p).reqs ∧
      (s.raiseExt p 0x3007).hif = (s.raiseExt p 0x3007).hif := ⟨told, by rw [State.tile_raiseExt], rfl⟩
  unfold State.loseSlot
  dsimp only
  split
  case h_1 => exact change _ fun t => t.openRx_keeps x.src x.op x.total x.deadline x.flag
  case h_2 =>
    refine change _ fun t => ?_
    obtain ⟨handles, landAt, reqs⟩ := t.openRx_keeps x.src x.op (2 ^ 32) x.deadline x.flag
    split <;> exact ⟨handles, landAt, reqs⟩
  case h_3 => exact change _ fun t => ⟨rfl, rfl, rfl⟩
  case h_4 => exact still
  case h_5 => exact still

theorem landingQueueHoldsThirtyTwoSlots : Claims.LandingQueueHoldsThirtyTwoSlots := by
  intro s p x hp hx lands
  have run := exec_slotLanding s p x hp hx
  have goes : ∀ t, Landing p (s.delivered p x) t → exec (.slotLanding p) s = .next t → lands t := fun t h e => by
    obtain ⟨xbar, mem, landAt⟩ := h.of_delivered
    exact ⟨e, xbar, mem, landAt⟩
  refine ⟨fun h => by rw [run, if_pos h], fun h hfull => ?_, fun h hroom => ?_⟩
  · rw [if_neg (by omega), if_neg (by omega)] at run
    obtain ⟨landing, reqs, hhif⟩ := (s.delivered p x).loseSlot_spec p x
    refine ⟨_, goes _ landing run, ?_, ?_⟩
    · exact Posted.congr (State.raise_posted (s.delivered p x) (srcTable (p / 13)) 2 0x3007 (faultTag ((s.delivered p x).ltileOf p) 0 true) 0)
        (congrArg Hif.queues hhif) rfl rfl rfl
    · rw [reqs, State.delivered_tile]
  · rw [if_neg (by omega), if_pos hroom] at run
    refine ⟨fun row n data hb => ?_, fun f hb hop hm => ?_, fun row n hb => ?_⟩
    · obtain ⟨landing, asked⟩ := (s.delivered p x).land_rows p x row n data hb
      exact ⟨_, goes _ landing run, fun i hi hm hd => asked i hi hm (by rw [State.delivered_slotDenied]; exact hd)⟩
    · obtain ⟨landing, asked⟩ := (s.delivered p x).land_flag p x f hb hop hm
      exact ⟨_, goes _ landing run, asked⟩
    · obtain ⟨landing, served⟩ := (s.delivered p x).land_read p x row n hb
      exact ⟨_, goes _ landing run, served⟩

/-! ### Ring tails (R168, R211) -/

/-- A ring whose oldest push has been published. -/
def State.published (s : State) (p r : Nat) (first n : Nat) (rest : List (Nat × Nat × Nat × Bool × Nat)) : State :=
  s.modTile p (·.setRing r { (s.tile p).ring r with tail := BitVec.ofNat 32 (first + n), pushes := rest })

theorem exec_ringPublish (s : State) (p r first n left due : Nat) (bad : Bool) (rest : List (Nat × Nat × Nat × Bool × Nat))
    (hp : p < 208) (hr : r < 16) (h : ((s.tile p).ring r).pushes = (first, n, left, bad, due) :: rest) :
    exec (.ringPublish p r) s = .next (
      if left = 0 ∨ due < s.now then
        if bad = true ∨ (s.tile p).piecesOnWay r first < left then
          (s.published p r first n rest).raiseExt p 0x300c (first % 2 ^ 32 + n * 2 ^ 32)
        else s.published p r first n rest
      else s) := by
  show execRingPublish p r s = _
  rw [execRingPublish, within, if_pos hp, within, if_pos hr]
  dsimp only
  rw [h]
  simp only [Bool.or_eq_true, decide_eq_true_eq]
  rfl

theorem ringTailPublishesTheOldestPush : Claims.RingTailPublishesTheOldestPush := by
  intro s p r first n left due bad rest hp hr h moved
  have run := exec_ringPublish s p r first n left due bad rest hp hr h
  have ring : ((s.published p r first n rest).tile p).ring r =
      { (s.tile p).ring r with tail := BitVec.ofNat 32 (first + n), pushes := rest } := by
    rw [State.published, State.tile_modTile_self, Tile.ring_setRing_self]
  have quiet : moved (s.published p r first n rest) := ⟨SameMemory.of_mem rfl, ring⟩
  have told : ∀ d, moved ((s.published p r first n rest).raiseExt p 0x300c d) := fun d =>
    ⟨SameMemory.of_mem (State.raiseExt_mem ..), by rw [State.tile_raiseExt, ring]⟩
  have post : ∀ d, Posted s ((s.published p r first n rest).raiseExt p 0x300c d) (srcTable (p / 13)) 2 0x300c
      (faultTag (s.ltileOf p) 0 true) d := fun d =>
    Posted.congr (State.raise_posted (s.published p r first n rest) (srcTable (p / 13)) 2 0x300c
      (faultTag ((s.published p r first n rest).ltileOf p) 0 true) d) rfl rfl rfl rfl
  have only : OnlyTile p s (s.published p r first n rest) := s.onlyTile_modTile p _
  refine ⟨fun h0 hd => by rw [run, if_neg (by omega)], fun h0 hb => ⟨_, ?_, quiet, only⟩, fun h0 hb => ⟨_, ?_, told _, post _⟩,
    fun h0 hd hb hl => ⟨_, ?_, quiet, only⟩, fun h0 hd hb => ⟨_, ?_, told _, post _⟩⟩
  · rw [run, if_pos (.inl h0), if_neg (by simp [h0, hb])]
  · rw [run, if_pos (.inl h0), if_pos (.inl hb)]
  · rw [run, if_pos (.inr hd), if_neg (by simp [hb, hl])]
  · rw [run, if_pos (.inr hd), if_pos hb]

/-- Settles O20. -/
theorem landingAndRingTails : Obligations.LandingAndRingTails := ⟨landingQueueHoldsThirtyTwoSlots, ringTailPublishesTheOldestPush⟩

end Sys2Proof.Machine
end

section
/-! SUPPORT. The scratchpad's rings from the host's side and the circuits' slots (R45, R169, R213). -/

namespace Sys2Proof.Machine

/-! ### Ring counters (R169) -/

/-- The ring that a TAIL or HEAD write meets, and the value's distance from HEAD. -/
theorem State.writeTail_of_other (s : State) (user p r : Nat) (v : Word)
    (h : ((s.tile p).ring r).enabled = false ∨ ((s.tile p).ring r).prod ≠ user) : s.writeTail user p r v = s := by
  unfold State.writeTail
  dsimp only
  rw [if_pos (by rcases h with h | h <;> simp [h])]
theorem State.writeTail_of_within (s : State) (user p r : Nat) (v : Word) (he : ((s.tile p).ring r).enabled = true)
    (hu : ((s.tile p).ring r).prod = user) (hlow : ((s.tile p).ring r).count ≤ (v - ((s.tile p).ring r).head).toNat)
    (hhigh : (v - ((s.tile p).ring r).head).toNat ≤ ((s.tile p).ring r).size) :
    s.writeTail user p r v = s.modTile p (·.setRing r { (s.tile p).ring r with tail := v, reserve := v }) := by
  unfold State.writeTail
  dsimp only
  rw [if_neg (by simp [he, hu]), if_pos (by simp only [hlow, hhigh, decide_true, Bool.and_self])]
theorem State.writeTail_of_outside (s : State) (user p r : Nat) (v : Word) (he : ((s.tile p).ring r).enabled = true)
    (hu : ((s.tile p).ring r).prod = user) (h : (v - ((s.tile p).ring r).head).toNat < ((s.tile p).ring r).count ∨
      ((s.tile p).ring r).size < (v - ((s.tile p).ring r).head).toNat) :
    s.writeTail user p r v = s.raiseExt p 0x3004 := by
  unfold State.writeTail
  dsimp only
  rw [if_neg (by simp [he, hu]), if_neg (by simp only [Bool.and_eq_true, decide_eq_true_eq]; omega)]
theorem State.writeHead_of_other (s : State) (user p r : Nat) (v : Word)
    (h : ((s.tile p).ring r).enabled = false ∨ ((s.tile p).ring r).cons ≠ user) : s.writeHead user p r v = s := by
  unfold State.writeHead
  dsimp only
  rw [if_pos (by rcases h with h | h <;> simp [h])]
theorem State.writeHead_of_within (s : State) (user p r : Nat) (v : Word) (he : ((s.tile p).ring r).enabled = true)
    (hu : ((s.tile p).ring r).cons = user) (h : (v - ((s.tile p).ring r).head).toNat ≤ ((s.tile p).ring r).count) :
    s.writeHead user p r v = s.modTile p (·.setRing r { (s.tile p).ring r with head := v }) := by
  unfold State.writeHead
  dsimp only
  rw [if_neg (by simp [he, hu]), if_pos h]
theorem State.writeHead_of_beyond (s : State) (user p r : Nat) (v : Word) (he : ((s.tile p).ring r).enabled = true)
    (hu : ((s.tile p).ring r).cons = user) (h : ((s.tile p).ring r).count < (v - ((s.tile p).ring r).head).toNat) :
    s.writeHead user p r v = s.raiseExt p 0x3004 := by
  unfold State.writeHead
  dsimp only
  rw [if_neg (by simp [he, hu]), if_neg (by omega)]

/-- A register of a tile's control window (R8, R301). -/
theorem State.regWrite_window (s : State) (f : Fn) (p o v : Nat) (hp : p < 208) (ho : o < 0x10000) (hword : o % 4 = 0)
    (hreach : s.reachesWindow f p = true) : s.regWrite f (windowBase + 0x10000 * p + o) v = s.writeWindow p o v := by
  have hblock : ∃ b, (windowBase + 0x10000 * p + o) / 0x100000 = 16 + b :=
    ⟨(windowBase + 0x10000 * p + o) / 0x100000 - 16, by simp only [windowBase]; omega⟩
  have hpos : (windowBase + 0x10000 * p + o - windowBase) / 0x10000 = p := by simp only [windowBase]; omega
  have hplace : (windowBase + 0x10000 * p + o) % 0x10000 / 4 * 4 = o := by simp only [windowBase]; omega
  obtain ⟨b, hb⟩ := hblock
  unfold State.regWrite State.blockWrite
  dsimp only
  rw [hpos, hplace, hb]
  split
  case h_9 => simp [hp, hreach]
  all_goals omega

theorem State.writeWindow_tail (s : State) (p r : Nat) (v : Word) (hr : r < 16) :
    s.writeWindow p (0x40C + 16 * r) v.toNat = s.writeTail 2 p r v := by
  have hreg : (0x40C + 16 * r) % 16 = 12 := by omega
  have hring : (0x40C + 16 * r - 0x400) / 16 = r := by omega
  unfold State.writeWindow
  rw [if_pos (by simp; omega), hreg, hring]
  simp only [BitVec.ofNat_toNat, BitVec.setWidth_eq]
  rfl
theorem State.writeWindow_head (s : State) (p r : Nat) (v : Word) (hr : r < 16) :
    s.writeWindow p (0x408 + 16 * r) v.toNat = s.writeHead 2 p r v := by
  have hreg : (0x408 + 16 * r) % 16 = 8 := by omega
  have hring : (0x408 + 16 * r - 0x400) / 16 = r := by omega
  unfold State.writeWindow
  rw [if_pos (by simp; omega), hreg, hring]
  simp only [BitVec.ofNat_toNat, BitVec.setWidth_eq]
  rfl

theorem exec_ringTailWrite (s : State) (mgc : Bool) (rq : Requester) (p r : Nat) (v : Word) (hfn : fnOk rq.fn = true) (hp : p < 208)
    (hr : r < 16) :
    exec (.ringTailWrite mgc rq p r v) s = .next (if mgc then s.writeTail 3 p r v
      else s.takeAcc rq (.regWrite (windowBase + 0x10000 * p + 0x40C + 16 * r) v.toNat) 0 none) := by
  show execRingTailWrite mgc rq p r v s = _
  rw [execRingTailWrite, if_neg (by simp [hfn]), within, if_pos hp, within, if_pos hr]
  rfl
theorem exec_ringHeadWrite (s : State) (mgc : Bool) (rq : Requester) (p r : Nat) (v : Word) (hfn : fnOk rq.fn = true) (hp : p < 208)
    (hr : r < 16) :
    exec (.ringHeadWrite mgc rq p r v) s = .next (if mgc then s.writeHead 3 p r v
      else s.takeAcc rq (.regWrite (windowBase + 0x10000 * p + 0x408 + 16 * r) v.toNat) 0 none) := by
  show execRingHeadWrite mgc rq p r v s = _
  rw [execRingHeadWrite, if_neg (by simp [hfn]), within, if_pos hp, within, if_pos hr]
  rfl

/-- The state that a ring-counter write meets: a requester's access has been numbered, the MGC's is none. -/
def State.counterMet (s : State) (mgc : Bool) : State := if mgc then s else s.countAcc

theorem State.counterMet_keeps (s : State) (mgc : Bool) :
    (s.counterMet mgc).mem = s.mem ∧ (s.counterMet mgc).tiles = s.tiles ∧ (s.counterMet mgc).hif.queues = s.hif.queues ∧
      (s.counterMet mgc).hif.fns = s.hif.fns ∧ (s.counterMet mgc).tables = s.tables ∧ (s.counterMet mgc).grade = s.grade ∧
      (s.counterMet mgc).rcu = s.rcu := by
  cases mgc <;> exact ⟨rfl, rfl, rfl, rfl, rfl, rfl, rfl⟩

/-- A write of a ring counter that finds the HIF idle, or that the MGC makes (R169). -/
theorem exec_ringWrites_of_idle (s : State) (mgc : Bool) (rq : Requester) (p r : Nat) (v : Word) (hfn : fnOk rq.fn = true)
    (hp : p < 208) (hr : r < 16)
    (hrel : mgc = false → s.hif.released = true ∧ s.hif.accs = [] ∧ s.reachesWindow rq.fn p = true) :
    exec (.ringTailWrite mgc rq p r v) s = .next ((s.counterMet mgc).writeTail (if mgc then 3 else 2) p r v) ∧
    exec (.ringHeadWrite mgc rq p r v) s = .next ((s.counterMet mgc).writeHead (if mgc then 3 else 2) p r v) := by
  rw [exec_ringTailWrite s mgc rq p r v hfn hp hr, exec_ringHeadWrite s mgc rq p r v hfn hp hr]
  cases mgc with
  | true => exact ⟨rfl, rfl⟩
  | false =>
    obtain ⟨hreleased, hidle, hreach⟩ := hrel rfl
    have hreach' : s.countAcc.reachesWindow rq.fn p = true := hreach
    simp only [Bool.false_eq_true, if_false, State.takeAcc_regWrite_of_idle s rq _ _ _ _ hreleased hidle, Nat.add_assoc]
    rw [← Nat.add_assoc windowBase, ← Nat.add_assoc windowBase, State.regWrite_window _ _ _ _ _ hp (by omega) (by omega) hreach',
      State.regWrite_window _ _ _ _ _ hp (by omega) (by omega) hreach', State.writeWindow_tail _ _ _ _ hr,
      State.writeWindow_head _ _ _ _ hr]
    exact ⟨rfl, rfl⟩

/-- Settles O33. -/
theorem ringCounterWrites : Obligations.RingCounterWrites := by
  intro s mgc rq p r v hp hr hfn g new user quiet only fault
  obtain ⟨mem, tiles, queues, fns, tables, grade, rcu⟩ := s.counterMet_keeps mgc
  have tile : ∀ q, (s.counterMet mgc).tile q = s.tile q := fun q => by rw [State.tile, tiles, State.tile]
  have hg : ((s.counterMet mgc).tile p).ring r = g := by rw [tile]
  have still : quiet (s.counterMet mgc) ∧ (s.counterMet mgc).tile p = s.tile p :=
    ⟨⟨SameMemory.of_mem mem, queues, fun q _ => tile q⟩, tile p⟩
  have taken : ∀ h, only ((s.counterMet mgc).modTile p (·.setRing r h)) h := fun h =>
    ⟨⟨SameMemory.of_mem mem, queues, fun q hq => (State.tile_setTile_ne _ _ _ _ hq).trans (tile q)⟩,
      by rw [State.tile_modTile_self, tile]⟩
  have told : fault ((s.counterMet mgc).raiseExt p 0x3004) := by
    refine ⟨SameMemory.of_mem ((State.raiseExt_mem ..).trans mem), (State.raiseExt_tiles ..).trans tiles, ?_⟩
    have hl : (s.counterMet mgc).ltileOf p = s.ltileOf p := by cases mgc <;> rfl
    rw [← hl]
    have hround : s.roundCounter = (s.counterMet mgc).roundCounter := by cases mgc <;> rfl
    exact Posted.congr (State.raise_posted (s.counterMet mgc) (srcTable (p / 13)) 2 0x3004 _ 0) rfl queues.symm fns.symm hround
  refine ⟨fun hm hrel => ?_, fun hrel => ?_, fun a x off data hm hrel haccs hid hwhat hrq hst hleft => ?_⟩
  · rw [exec_ringTailWrite s mgc rq p r v hfn hp hr, exec_ringHeadWrite s mgc rq p r v hfn hp hr, hm]
    simp only [Bool.false_eq_true, if_false, State.takeAcc_of_not_released s rq _ _ _ hrel, and_self]
  · obtain ⟨tail, head⟩ := exec_ringWrites_of_idle s mgc rq p r v hfn hp hr hrel
    refine ⟨fun he hu hlow hhigh => ⟨_, tail, ?_⟩, fun he hu hout => ⟨_, tail, ?_⟩, fun ho => ⟨_, tail, ?_⟩,
      fun he hu hin => ⟨_, head, ?_⟩, fun he hu hout => ⟨_, head, ?_⟩, fun ho => ⟨_, head, ?_⟩⟩
    · rw [State.writeTail_of_within _ _ _ _ _ (by rw [hg]; exact he) (by rw [hg]; exact hu) (by rw [hg]; exact hlow)
        (by rw [hg]; exact hhigh), hg]
      exact taken _
    · rw [State.writeTail_of_outside _ _ _ _ _ (by rw [hg]; exact he) (by rw [hg]; exact hu) (by rw [hg]; exact hout)]
      exact told
    · rw [State.writeTail_of_other _ _ _ _ _ (by rw [hg]; exact ho)]
      exact still
    · rw [State.writeHead_of_within _ _ _ _ _ (by rw [hg]; exact he) (by rw [hg]; exact hu) (by rw [hg]; exact hin), hg]
      exact taken _
    · rw [State.writeHead_of_beyond _ _ _ _ _ (by rw [hg]; exact he) (by rw [hg]; exact hu) (by rw [hg]; exact hout)]
      exact told
    · rw [State.writeHead_of_other _ _ _ _ _ (by rw [hg]; exact ho)]
      exact still
  · have held := fun o w => State.takeAcc_regWrite_of_rows_left s rq o w 0 none a x off data hrel haccs hid hwhat hrq hst hleft
    subst hm
    intro waits
    exact ⟨⟨_, exec_ringTailWrite s false rq p r v hfn hp hr, _, held _ _⟩,
      ⟨_, exec_ringHeadWrite s false rq p r v hfn hp hr, _, held _ _⟩⟩

/-! ### Circuit slots (R45, R213) -/

/-- The landing queue's length depends on the requests and the operations alone. -/
theorem Tile.landingCount_congr {t u : Tile} (hr : u.reqs = t.reqs) (ho : u.ops = t.ops) : u.landingCount = t.landingCount := by
  have own : ∀ r, u.ownRead r = t.ownRead r := fun r => by unfold Tile.ownRead; rw [ho]
  simp only [Tile.landingCount, own, hr, ho]

theorem State.roundCounter_congr {s t : State} (h : s.rcu = t.rcu) : s.roundCounter = t.roundCounter := by
  simp only [State.roundCounter, State.tick, State.beat, State.now, State.tickLen, h]

/-- The logical tile of a position depends on the tables and the grade alone. -/
theorem State.ltileOf_congr {s t : State} (ht : t.tables = s.tables) (hg : t.grade = s.grade) (p : Nat) :
    t.ltileOf p = s.ltileOf p := by
  have table : ∀ n, t.table n = s.table n := fun n => by rw [State.table, ht, State.table]
  have kind : t.posKind p = s.posKind p := by
    have seats : t.seats = s.seats := by unfold State.seats; rw [hg]
    simp only [State.posKind, table, seats]
  rw [State.ltileOf, kind, State.ltileOf]

theorem State.meetWord_of_even (s : State) (n w : Nat) (h : s.parityBad 3 n w = false) : s.meetWord n w = s := by
  simp [State.meetWord, h]
theorem State.meetCircuit_of_even (s : State) (n e : Nat) (h : ∀ w, s.parityBad 3 n w = false) : s.meetCircuit n e = s := by
  rw [State.meetCircuit, State.meetWord_of_even s n _ (h _), State.meetWord_of_even s n _ (h _)]

/-- The state in which a port's slot of this beat has been released: what was due has left its hold. -/
def State.slotGone (s : State) (n : Nat) : State :=
  (s.modPort n fun x => { x with relAt := s.age + 1 }).modPort n
    fun x => { x with hold := x.hold.filter fun y => decide (s.now < y.release) }

theorem State.port_slotGone (s : State) (n : Nat) :
    (s.slotGone n).port n =
      { s.port n with relAt := s.age + 1, hold := (s.port n).hold.filter fun y => decide (s.now < y.release) } := by
  rw [State.slotGone, State.port_modPort_self, State.port_modPort_self]
@[simp] theorem State.tile_slotGone (s : State) (n p : Nat) : (s.slotGone n).tile p = s.tile p := (rfl)
@[simp] theorem State.slotGone_mem (s : State) (n : Nat) : (s.slotGone n).mem = s.mem := (rfl)
@[simp] theorem State.slotGone_hif (s : State) (n : Nat) : (s.slotGone n).hif = s.hif := (rfl)
@[simp] theorem State.slotGone_rcu (s : State) (n : Nat) : (s.slotGone n).rcu = s.rcu := (rfl)
@[simp] theorem State.slotGone_tables (s : State) (n : Nat) : (s.slotGone n).tables = s.tables := (rfl)
@[simp] theorem State.slotGone_grade (s : State) (n : Nat) : (s.slotGone n).grade = s.grade := (rfl)
theorem State.onlyPort_slotGone (s : State) (n : Nat) : OnlyPort n s (s.slotGone n) :=
  ⟨rfl, fun m hm => by
    rw [State.slotGone, State.modPort, State.port_setPort_ne _ _ _ _ hm, State.modPort, State.port_setPort_ne _ _ _ _ hm]⟩

/-- What a slot that its tile's CRECV claims does there, or one that nothing claims (R51, R213). -/
def State.slotLands (s : State) (p n entry : Nat) (h : Option Held) : State :=
  match (s.tile p).crecvs.find? fun x => x.1 = n && x.2.1 = entry with
  | some (_, _, op, i) => s.takeSlot p n entry op i h
  | none =>
    match h with
    | none => s.raiseDeadline p 0 0x5011
    | some h => if h.void then s else s.raiseExt p 0x4003

theorem exec_circuitSlotRelease (s : State) (n : Nat) (e : Nat × DWord) (hn : n < 64) (hrel : (s.port n).relAt ≤ s.age)
    (heven : ∀ w, s.parityBad 3 n w = false)
    (he : (s.port n).recvTbl.find? (fun e => ((circuitE e.2.toNat).slotAt s.beat).isSome && s.liveAt (circuitE e.2.toNat) s.tick) =
      some e) :
    exec (.circuitSlotRelease n) s = .next ((s.slotGone n).slotLands (s.physOf (circuitE e.2.toNat).ltile) n e.1
      ((s.port n).hold.find? fun x => x.release = s.now && x.entry = e.1)) := by
  show execCircuitSlotRelease n s = _
  rw [execCircuitSlotRelease, within, if_pos hn, if_neg (by omega), he]
  dsimp only
  rw [State.meetCircuit_of_even (s.modPort n fun x => { x with relAt := s.age + 1 }) _ _ heven, State.releaseSlot,
    State.port_modPort_self]
  rfl

theorem State.slotLands_of_claim (s : State) (p n entry op i : Nat) (h : Option Held)
    (hclaim : (s.tile p).crecvs.find? (fun x => x.1 = n && x.2.1 = entry) = some (n, entry, op, i)) :
    s.slotLands p n entry h = s.takeSlot p n entry op i h := by
  rw [State.slotLands.eq_def, hclaim]
theorem State.slotLands_of_no_claim (s : State) (p n entry : Nat) (h : Option Held)
    (hclaim : (s.tile p).crecvs.find? (fun x => x.1 = n && x.2.1 = entry) = none) :
    s.slotLands p n entry h = match h with
      | none => s.raiseDeadline p 0 0x5011
      | some h => if h.void then s else s.raiseExt p 0x4003 := by
  cases h <;> simp only [State.slotLands, hclaim]

/-- The claim of a CRECV has moved on to its next slot. -/
def State.claimNext (s : State) (p n entry i : Nat) : State :=
  s.modTile p fun t => { t with crecvs := t.crecvs.map fun c =>
    if c.1 = n && c.2.1 = entry then (c.1, c.2.1, c.2.2.1, i + 1) else c }

theorem State.tile_claimNext (s : State) (p n entry i : Nat) :
    (s.claimNext p n entry i).tile p = { s.tile p with crecvs := (s.tile p).crecvs.map fun c =>
      if c.1 = n && c.2.1 = entry then (c.1, c.2.1, c.2.2.1, i + 1) else c } := State.tile_modTile_self ..

theorem Tile.op?_modOp (t : Tile) (op : Nat) (o : Op) (f : Op → Op) (hf : ∀ o, (f o).id = o.id) (ho : t.op? op = some o) :
    (t.modOp op f).op? op = some (f o) := by
  unfold Tile.op? Tile.modOp at *
  induction hl : t.ops generalizing t with
  | nil => rw [hl] at ho; cases ho
  | cons x l ih =>
    rw [hl] at ho
    by_cases hx : x.id = op
    · rw [List.find?_cons_of_pos (by simpa using hx)] at ho
      cases ho
      simp [hx, hf]
    · rw [List.find?_cons_of_neg (by simpa using hx)] at ho
      have := ih { t with ops := l } ho rfl
      simpa [hx] using this

/-- Where a CRECV's slot goes (R213). -/
def State.claimed (s : State) (p op i : Nat) (o : Op) : Option Held → State
  | none => (s.poisonSlot p op).raiseDeadline p o.bundle 0x5011
  | some h =>
    if h.poison then (s.poisonSlot p op).raiseTile p o.bundle 0x4001
    else if h.void then s.modTile p (·.modOp op fun o => { o with slots := o.slots + 1 })
    else if 32 ≤ (s.tile p).landingCount then (s.poisonSlot p op).raiseExt p 0x3007
    else
      (List.range (min 2 (o.n - 2 * i))).foldl (fun w k =>
        if o.arg2 + 2 * i + k < mappedRows then
          w.modTile p fun t => (t.modOp op fun o => { o with writes := o.writes + 1 }).request
            { cls := 3, seq := (s.tile p).nextOp, row := o.arg2 + 2 * i + k, deadline := o.deadline, since := w.age,
              use := .write 0 ((h.data.drop (64 * k)).take 64) op }
        else w.opFault p op)
        (s.modTile p fun t => { (t.modOp op fun o => { o with slots := o.slots + 1 }) with
          nextOp := (s.tile p).nextOp + 1, landAt := s.age + 1 })

theorem State.takeSlot_of_claim (s : State) (p n entry op i : Nat) (o : Op) (h : Option Held) (ho : (s.tile p).op? op = some o)
    (hi : i < o.nslots) : s.takeSlot p n entry op i h = (s.claimNext p n entry i).claimed p op i o h := by
  have ho' : ((s.claimNext p n entry i).tile p).op? op = some o := by rw [State.tile_claimNext]; exact ho
  unfold State.takeSlot
  dsimp only
  change (match ((s.claimNext p n entry i).tile p).op? op with | none => _ | some o => _) = _
  rw [ho']
  dsimp only
  rw [if_neg (by omega)]
  cases h <;> rfl

theorem Tile.keepBefore_keeps (t : Tile) (now : Nat) : (t.keepBefore now).reqs = t.reqs := by
  unfold Tile.keepBefore
  split
  · split <;> rfl
  · rfl

theorem State.tile_poisonSlot (s : State) (p op : Nat) :
    ((s.poisonSlot p op).tile p).poison = (s.tile p).poison + 1 ∧ ((s.poisonSlot p op).tile p).reqs = (s.tile p).reqs := by
  rw [State.poisonSlot, State.tile_modTile_self]
  exact ⟨rfl, Tile.keepBefore_keeps ..⟩

theorem State.opFault_keeps (s : State) (p op : Nat) :
    (s.opFault p op).mem = s.mem ∧ (s.opFault p op).ports = s.ports ∧ ((s.opFault p op).tile p).reqs = (s.tile p).reqs := by
  have fault : ∀ f : Op → Op, ((s.modTile p (·.modOp op f)).tile p).reqs = (s.tile p).reqs := fun f => by
    rw [State.tile_modTile_self]; rfl
  unfold State.opFault
  split
  · dsimp only
    split
    · exact ⟨rfl, rfl, rfl⟩
    · split
      · exact ⟨rfl, rfl, fault _⟩
      · split
        · exact ⟨State.raiseExt_mem .., State.raiseExt_ports .., by rw [State.tile_raiseExt]; exact fault _⟩
        · exact ⟨State.raiseTile_mem .., State.raiseTile_ports .., by rw [State.tile_raiseTile]; exact fault _⟩
  · exact ⟨rfl, rfl, rfl⟩

/-- The rows of a good slot are requested (R213). -/
theorem State.foldl_claimRows (p op i no : Nat) (o : Op) (h : Held) (m : Nat) (s : State) :
    let t := (List.range m).foldl (fun w k =>
      if o.arg2 + 2 * i + k < mappedRows then
        w.modTile p fun t => (t.modOp op fun o => { o with writes := o.writes + 1 }).request
          { cls := 3, seq := no, row := o.arg2 + 2 * i + k, deadline := o.deadline, since := w.age,
            use := .write 0 ((h.data.drop (64 * k)).take 64) op }
      else w.opFault p op) s
    t.mem = s.mem ∧ t.ports = s.ports ∧ ∀ k < m, o.arg2 + 2 * i + k < mappedRows →
      ∃ r ∈ (t.tile p).reqs, r.cls = 3 ∧ r.row = o.arg2 + 2 * i + k ∧ r.use = .write 0 ((h.data.drop (64 * k)).take 64) op := by
  induction m with
  | zero => exact ⟨rfl, rfl, fun k hk => absurd hk (Nat.not_lt_zero k)⟩
  | succ m ih =>
    rw [List.range_succ, List.foldl_append]
    simp only [List.foldl_cons, List.foldl_nil]
    generalize (List.range m).foldl _ s = w at ih ⊢
    obtain ⟨mem, ports, asked⟩ := ih
    split
    case isTrue hm =>
      refine ⟨mem, ports, fun k hk hmk => ?_⟩
      rw [State.tile_modTile_self]
      rcases Nat.lt_succ_iff_lt_or_eq.1 hk with h' | rfl
      · obtain ⟨r, hr, hrest⟩ := asked k h' hmk
        exact ⟨r, (Tile.reqs_request ..).2 (.inr hr), hrest⟩
      · exact ⟨_, (Tile.reqs_request ..).2 (.inl rfl), rfl, rfl, rfl⟩
    case isFalse hm =>
      obtain ⟨mem', ports', reqs'⟩ := w.opFault_keeps p op
      refine ⟨mem'.trans mem, ports'.trans ports, fun k hk hmk => ?_⟩
      rcases Nat.lt_succ_iff_lt_or_eq.1 hk with h' | rfl
      · rw [reqs']; exact asked k h' hmk
      · exact absurd hmk hm

/-- Settles O35. -/
theorem circuitSlotsAreClaimed : Obligations.CircuitSlotsAreClaimed := by
  intro s n e hn hrel heven he c p slot src goes
  have run := exec_circuitSlotRelease s n e hn hrel heven he
  have gone : ∀ t : State, exec (.circuitSlotRelease n) s = .next t → t.mem = s.mem → t.ports = (s.slotGone n).ports → goes t :=
    fun t ht hmem hports => by
      have hport : t.port n = (s.slotGone n).port n := by rw [State.port, hports, State.port]
      refine ⟨ht, SameMemory.of_mem hmem, ?_, fun h hh => ?_⟩
      · rw [hport, State.port_slotGone]
      · rw [hport, State.port_slotGone] at hh
        simpa using (List.mem_filter.1 hh).2
  change exec (.circuitSlotRelease n) s = .next ((s.slotGone n).slotLands p n e.1 slot) at run
  have ltile0 : (s.slotGone n).ltileOf p = s.ltileOf p := State.ltileOf_congr (s.slotGone_tables n) (s.slotGone_grade n) p
  have posted0 : ∀ {t : State} {code tag : Nat}, Posted (s.slotGone n) t src 2 code tag 0 → Posted s t src 2 code tag 0 := fun h =>
    Posted.congr h rfl (by rw [State.slotGone_hif]) (by rw [State.slotGone_hif]) (State.roundCounter_congr (s.slotGone_rcu n).symm)
  refine ⟨fun hnone => ?_, fun op i o hclaim ho hi => ?_⟩
  · rw [State.slotLands_of_no_claim (s.slotGone n) _ _ _ _ hnone] at run
    refine ⟨fun hs => ?_, fun h hs hv => ?_, fun h hs hv => ?_⟩
    · rw [hs] at run
      refine ⟨_, gone _ run (State.raiseDeadline_mem ..) ?_, ?_⟩
      · rw [State.raiseDeadline_frame]
      · rw [← ltile0]; exact posted0 (State.raiseDeadline_posted ..)
    · rw [hs] at run
      simp only [hv, if_true] at run
      exact ⟨_, gone _ run rfl rfl, s.onlyPort_slotGone n⟩
    · rw [hs] at run
      simp only [hv, Bool.false_eq_true, if_false] at run
      refine ⟨_, gone _ run (State.raiseExt_mem ..) (State.raiseExt_ports ..), ?_⟩
      rw [← ltile0]
      exact posted0 (State.raiseExt_posted ..)
  · intro spoils
    rw [State.slotLands_of_claim (s.slotGone n) _ _ _ op i _ hclaim, State.takeSlot_of_claim (s.slotGone n) _ _ _ _ _ o _ ho hi] at run
    obtain ⟨w, hw⟩ : ∃ w, w = (s.slotGone n).claimNext p n e.1 i := ⟨_, rfl⟩
    rw [← hw] at run
    have mem : w.mem = s.mem := by rw [hw, State.claimNext, State.modTile_mem, State.slotGone_mem]
    have ports : w.ports = (s.slotGone n).ports := by rw [hw, State.claimNext, State.modTile_ports]
    have hif : w.hif = s.hif := by rw [hw, State.claimNext, State.modTile_hif, State.slotGone_hif]
    have rcu : s.rcu = w.rcu := by rw [hw, State.claimNext, State.modTile_rcu, State.slotGone_rcu]
    have round : s.roundCounter = w.roundCounter := State.roundCounter_congr rcu
    have ltile : w.ltileOf p = s.ltileOf p := State.ltileOf_congr (by rw [hw, State.claimNext, State.modTile_tables, State.slotGone_tables])
      (by rw [hw, State.claimNext, State.modTile_grade, State.slotGone_grade]) p
    have tile : ∃ l, w.tile p = { s.tile p with crecvs := l } := by
      rw [hw, State.tile_claimNext, State.tile_slotGone]; exact ⟨_, rfl⟩
    obtain ⟨claims, tile⟩ := tile
    have reqs : (w.tile p).reqs = (s.tile p).reqs := by rw [tile]
    have ops : (w.tile p).ops = (s.tile p).ops := by rw [tile]
    have count : (w.tile p).landingCount = (s.tile p).landingCount := Tile.landingCount_congr reqs ops
    have poison : (w.tile p).poison = (s.tile p).poison := by rw [tile]
    clear hw
    have posted : ∀ {t : State} {code tag : Nat}, Posted w t src 2 code tag 0 → Posted s t src 2 code tag 0 := fun h =>
      Posted.congr h rfl (by rw [hif]) (by rw [hif]) round
    obtain ⟨poisoned, unasked⟩ := w.tile_poisonSlot p op
    refine ⟨fun hs => ?_, fun h hs hp => ?_, fun h hs hp hv => ?_, fun h hs hp hv hfull => ?_, fun h hs hp hv hroom => ?_⟩
    · rw [hs] at run
      change exec _ s = .next ((w.poisonSlot p op).raiseDeadline p o.bundle 0x5011) at run
      refine ⟨_, ⟨gone _ run ((State.raiseDeadline_mem ..).trans mem) ?_, ?_, ?_⟩, ?_⟩
      · rw [State.raiseDeadline_frame]; exact ports
      · rw [State.tile_raiseDeadline, poisoned, poison]
      · rw [State.tile_raiseDeadline, unasked, reqs]
      · rw [← ltile]; exact posted (State.modTile_raiseDeadline_posted ..)
    · rw [hs] at run
      simp only [State.claimed, hp, if_true] at run
      refine ⟨_, ⟨gone _ run ((State.raiseTile_mem ..).trans mem) ((State.raiseTile_ports ..).trans ports), ?_, ?_⟩, ?_⟩
      · rw [State.tile_raiseTile, poisoned, poison]
      · rw [State.tile_raiseTile, unasked, reqs]
      · rw [← ltile]
        exact posted (State.modTile_raiseTile_posted ..)
    · rw [hs] at run
      simp only [State.claimed, hp, hv, Bool.false_eq_true, if_true, if_false] at run
      refine ⟨_, gone _ run mem ports, hif, ?_, ?_⟩
      · rw [State.tile_modTile_self]; exact reqs
      · rw [State.tile_modTile_self]
        exact Tile.op?_modOp _ _ _ _ (fun _ => rfl) (by rw [Tile.op?, ops]; exact ho)
    · rw [hs] at run
      simp only [State.claimed, hp, hv, Bool.false_eq_true, if_false, count, hfull, if_true] at run
      refine ⟨_, ⟨gone _ run ((State.raiseExt_mem ..).trans mem) ((State.raiseExt_ports ..).trans ports), ?_, ?_⟩, ?_⟩
      · rw [State.tile_raiseExt, poisoned, poison]
      · rw [State.tile_raiseExt, unasked, reqs]
      · rw [← ltile]
        exact posted (State.modTile_raiseExt_posted ..)
    · rw [hs] at run
      simp only [State.claimed, hp, hv, Bool.false_eq_true, if_false, count, show ¬ 32 ≤ (s.tile p).landingCount by omega] at run
      obtain ⟨mem', ports', asked⟩ := State.foldl_claimRows p op i (w.tile p).nextOp o h (min 2 (o.n - 2 * i))
        (w.modTile p fun t => { (t.modOp op fun o => { o with slots := o.slots + 1 }) with
          nextOp := (w.tile p).nextOp + 1, landAt := w.age + 1 })
      exact ⟨_, gone _ run (mem'.trans mem) (ports'.trans ports), asked⟩

end Sys2Proof.Machine
end

section
/-! SUPPORT. Joker substitution, probes and the scrub (R390 to R396). -/

namespace Sys2Proof.Machine

/-! ### Records of other queues -/

/-- A record reaches no queue but its source's. -/
theorem State.queue_raise_ne (s : State) (src kind status tag detail k : Nat) (h : k ≠ qKey 0 src) :
    (s.raise src kind status tag detail).queue k = s.queue k := Map.get_set_of_ne _ _ _ _ _ h
theorem State.fns_raise (s : State) (src kind status tag detail : Nat) :
    (s.raise src kind status tag detail).hif.fns = s.hif.fns := rfl

/-- A record that is posted stays posted while its queue is left alone. -/
theorem Posted.of_queue {s t u : State} {src kind status tag detail : Nat} (h : Posted s t src kind status tag detail)
    (hq : u.queue (qKey 0 src) = t.queue (qKey 0 src)) : Posted s u src kind status tag detail := by
  unfold Posted at *
  rw [hq, h]

theorem qKey_table_ne_mgc (n : Nat) (h : n < 16) : qKey 0 (srcTable n) ≠ qKey 0 srcMgc := by
  simp only [qKey, srcTable, srcMgc]
  omega

/-! ### A seat moves to its joker (R391, R392) -/

theorem bit_putBits_one (x i : Nat) : bit (putBits x i 1 1) i = true := by
  have hr : x % 2 ^ i < 2 ^ i := Nat.mod_lt _ (Nat.two_pow_pos i)
  have hx : x = 2 * (2 ^ i * (x / 2 ^ i / 2)) + x / 2 ^ i % 2 * 2 ^ i + x % 2 ^ i := by
    conv_lhs => rw [← Nat.div_add_mod x (2 ^ i), ← Nat.div_add_mod (x / 2 ^ i) 2]
    ring
  have hput : putBits x i 1 1 = 2 ^ i * (2 * (x / 2 ^ i / 2) + 1) + x % 2 ^ i := by
    rw [putBits, bits, pow_one, Nat.mul_add, Nat.mul_one, Nat.mul_left_comm]
    generalize 2 ^ i * (x / 2 ^ i / 2) = m at hx ⊢
    generalize x / 2 ^ i % 2 * 2 ^ i = n at hx ⊢
    omega
  rw [bit, hput, Nat.mul_add_div (Nat.two_pow_pos i), Nat.div_eq_of_lt hr]
  simp only [beq_iff_eq]
  omega

/-- The joker's tile once it stands in for a seat: the seat's state, with the stores that the copy and its mirror have given it. -/
def State.movedTile (s : State) (p q : Nat) : Tile :=
  { s.tile p with
    store := (s.tile q).store, odt := (s.tile q).odt
    pips := { (s.tile p).pips with cache := [], istore := (s.tile q).pips.istore }, capture := none }

theorem memKey_pos (p o : Nat) (ho : o < 2 ^ 23) : memKey p o / 2 ^ 23 = p := by
  rw [memKey]; omega

@[simp] theorem State.tile_dropFlips (s : State) (p q : Nat) : (s.dropFlips p).tile q = s.tile q := rfl
@[simp] theorem State.dropFlips_mem (s : State) (p : Nat) : (s.dropFlips p).mem = s.mem := rfl
@[simp] theorem State.dropFlips_acc (s : State) (p : Nat) : (s.dropFlips p).acc = s.acc := rfl
@[simp] theorem State.dropFlips_rcu (s : State) (p : Nat) : (s.dropFlips p).rcu = s.rcu := rfl
@[simp] theorem State.dropFlips_hif (s : State) (p : Nat) : (s.dropFlips p).hif = s.hif := rfl
@[simp] theorem State.table_dropFlips (s : State) (p n : Nat) : (s.dropFlips p).table n = s.table n := rfl
@[simp] theorem State.tile_clearPos (s : State) (p q : Nat) : (s.clearPos p).tile q = s.tile q := rfl
@[simp] theorem State.table_clearPos (s : State) (p n : Nat) : (s.clearPos p).table n = s.table n := rfl
@[simp] theorem State.clearPos_rcu (s : State) (p : Nat) : (s.clearPos p).rcu = s.rcu := rfl
@[simp] theorem State.clearPos_hif (s : State) (p : Nat) : (s.clearPos p).hif = s.hif := rfl

theorem State.readByte_clearPos (s : State) (p q o : Nat) (ho : o < 2 ^ 23) :
    (s.clearPos p).readByte q o = if q = p then 0 else s.readByte q o := by
  show Map.get 0#8 (s.mem.filter fun e => e.1 / 2 ^ 23 != p) (memKey q o) = _
  rw [Map.get_filter 0#8 s.mem (fun i => i / 2 ^ 23 != p), memKey_pos q o ho]
  by_cases h : q = p <;> simp [h, State.readByte]

theorem State.acc_clearPos (s : State) (p q k : Nat) (hk : k < 2 ^ 18) (hq : q ≠ p) :
    Map.get 0#8 (s.clearPos p).acc (accKey q k) = Map.get 0#8 s.acc (accKey q k) := by
  show Map.get 0#8 (s.acc.filter fun e => e.1 / 2 ^ 18 != p) (accKey q k) = _
  have hkey : accKey q k / 2 ^ 18 = q := by rw [accKey]; omega
  rw [Map.get_filter 0#8 s.acc (fun i => i / 2 ^ 18 != p), hkey, if_pos (by simpa using hq)]

theorem State.moveSeat_eq (s : State) (tbl seat : Nat) :
    s.moveSeat tbl seat =
      ((((s.setTile (tbl * 13 + 12) (s.movedTile (tbl * 13 + seat) (tbl * 13 + 12))).setTile (tbl * 13 + seat)
        { capture := (s.tile (tbl * 13 + seat)).capture }).dropFlips (tbl * 13 + seat)).clearPos (tbl * 13 + seat)).modTable tbl
        fun x => { x.retire seat with jokerFor := seat, jokerState := 1, subst := none, recovering := false } := rfl

/-- What the move of a seat to its joker leaves (R392). -/
theorem State.moveSeat_spec (s : State) (tbl seat : Nat) (h : seat < 12) :
    let t := s.moveSeat tbl seat
    let p := tbl * 13 + seat
    let q := tbl * 13 + 12
    t.tile p = { capture := (s.tile p).capture } ∧ t.tile q = s.movedTile p q ∧
    (∀ o, o < 2 ^ 23 → t.readByte p o = 0) ∧ (∀ o, o < 2 ^ 23 → t.readByte q o = s.readByte q o) ∧
    (∀ k, k < 2 ^ 18 → Map.get 0#8 t.acc (accKey q k) = Map.get 0#8 s.acc (accKey q k)) ∧
    t.table tbl = { (s.table tbl).retire seat with jokerFor := seat, jokerState := 1, subst := none, recovering := false } ∧
    t.hif = s.hif ∧ t.rcu = s.rcu := by
  have hpq : tbl * 13 + 12 ≠ tbl * 13 + seat := by omega
  dsimp only
  rw [State.moveSeat_eq]
  refine ⟨?_, ?_, fun o ho => ?_, fun o ho => ?_, fun k hk => ?_, ?_, ?_, ?_⟩
  · rw [State.tile_modTable, State.tile_clearPos, State.tile_dropFlips, State.tile_setTile_self]
  · rw [State.tile_modTable, State.tile_clearPos, State.tile_dropFlips, State.tile_setTile_ne _ _ _ _ hpq, State.tile_setTile_self]
  · rw [State.readByte_modTable, State.readByte_clearPos _ _ _ _ ho, if_pos rfl]
  · rw [State.readByte_modTable, State.readByte_clearPos _ _ _ _ ho, if_neg hpq, State.readByte, State.dropFlips_mem,
      State.setTile_mem, State.setTile_mem, State.readByte]
  · rw [State.modTable_acc, State.acc_clearPos _ _ _ _ hk hpq, State.dropFlips_acc, State.setTile_acc, State.setTile_acc]
  · rw [State.table_modTable_self, State.table_clearPos, State.table_dropFlips, State.table_setTile, State.table_setTile]
  · rw [State.modTable_hif, State.clearPos_hif, State.dropFlips_hif, State.setTile_hif, State.setTile_hif]
  · rw [State.modTable_rcu, State.clearPos_rcu, State.dropFlips_rcu, State.setTile_rcu, State.setTile_rcu]

/-- A joker stands in for a seat: its notice is posted, the seat is retired and reads zero (R309, R392). -/
structure Stands (s t : State) (tbl seat : Nat) : Prop where
  jokerState : (t.table tbl).jokerState = 1
  jokerFor : (t.table tbl).jokerFor = seat
  subst : (t.table tbl).subst = none
  recovering : (t.table tbl).recovering = false
  retired : bit (t.table tbl).retired seat = true
  posted : Posted s t (srcTable tbl) 3 0x0010 0 (substDetail tbl seat s.tick)
  now : t.now = s.now
  zero : ∀ o, o < 2 ^ 23 → t.readByte (tbl * 13 + seat) o = 0
  bare : t.tile (tbl * 13 + seat) = { ({} : Tile) with capture := (s.tile (tbl * 13 + seat)).capture }

theorem State.substitute_stands (s : State) (tbl seat : Nat) (ht : tbl < 16) (h : seat < 12) :
    Stands s (s.substitute tbl seat) tbl seat ∧
    (s.substitute tbl seat).tile (tbl * 13 + 12) = s.movedTile (tbl * 13 + seat) (tbl * 13 + 12) ∧
    (∀ o, o < 2 ^ 23 → (s.substitute tbl seat).readByte (tbl * 13 + 12) o = s.readByte (tbl * 13 + 12) o) ∧
    (∀ k, k < 2 ^ 18 → Map.get 0#8 (s.substitute tbl seat).acc (accKey (tbl * 13 + 12) k) =
      Map.get 0#8 s.acc (accKey (tbl * 13 + 12) k)) := by
  obtain ⟨bare, moved, zero, bytes, acc, table, hif, rcu⟩ := s.moveSeat_spec tbl seat h
  rw [State.substitute]
  generalize s.moveSeat tbl seat = w at *
  have htable : ∀ d e, ((w.raise (srcTable tbl) 3 0x0010 0 d).noticeMgc 0x8014 e).table tbl = w.table tbl := fun d e => by
    rw [State.table_noticeMgc, State.table_raise]
  have htile : ∀ d e n, ((w.raise (srcTable tbl) 3 0x0010 0 d).noticeMgc 0x8014 e).tile n = w.tile n := fun d e n => by
    rw [State.tile_noticeMgc, State.tile_raise]
  have hbyte : ∀ d e n o, ((w.raise (srcTable tbl) 3 0x0010 0 d).noticeMgc 0x8014 e).readByte n o = w.readByte n o := fun d e n o => by
    rw [State.readByte_noticeMgc, State.readByte_raise]
  refine ⟨⟨?_, ?_, ?_, ?_, ?_, ?_, ?_, ?_, ?_⟩, ?_, ?_, ?_⟩
  · rw [htable, table]
  · rw [htable, table]
  · rw [htable, table]
  · rw [htable, table]
  · rw [htable, table]; exact bit_putBits_one ..
  · have post := State.raise_posted w (srcTable tbl) 3 0x0010 0 (substDetail tbl seat s.tick)
    have other := State.queue_raise_ne (w.raise (srcTable tbl) 3 0x0010 0 (substDetail tbl seat s.tick)) srcMgc 3 0x8014 0
      (ladderDetail (tbl * 13 + seat) 6 s.tick) _ (qKey_table_ne_mgc tbl ht)
    exact Posted.congr (post.of_queue other) rfl (by rw [hif]) (by rw [hif]) (State.roundCounter_congr rcu.symm)
  · rw [State.now_noticeMgc, State.now_raise, State.now, rcu, State.now]
  · exact fun o ho => by rw [hbyte]; exact zero o ho
  · rw [htile, bare]
  · rw [htile, moved]
  · exact fun o ho => by rw [hbyte]; exact bytes o ho
  · exact fun k hk => by rw [State.noticeMgc_acc, State.raise_acc]; exact acc k hk

/-! ### What could not be read is zero (R393) -/

/-- Zeros are written at offsets of a position's memory. -/
theorem State.foldl_pokeZero (q base : Nat) (l : List Nat) (s : State) :
    let t := l.foldl (fun s i => s.pokeBytes q (base + i) [0#8]) s
    t = { s with mem := t.mem } ∧
    ∀ k, Map.get 0#8 t.mem k = if ∃ i ∈ l, k = memKey q (base + i) then 0 else Map.get 0#8 s.mem k := by
  induction l generalizing s with
  | nil => exact ⟨rfl, fun k => by simp⟩
  | cons i l ih =>
    obtain ⟨frame, bytes⟩ := ih (s.pokeBytes q (base + i) [0#8])
    rw [List.foldl_cons]
    refine ⟨frame, fun k => ?_⟩
    rw [bytes k, State.pokeBytes_mem, writeCells, writeCells, Map.get_set]
    by_cases hk : k = memKey q (base + i)
    · simp [hk]
    · simp [hk]

/-- Zeroing items of a joker leaves everything but the joker, and of it what the items do not name. -/
structure Zeroed (q : Nat) (x : Subst) (l : List SeatItem) (s t : State) : Prop where
  tables : t.tables = s.tables
  rcu : t.rcu = s.rcu
  tile : ∀ p, p ≠ q → t.tile p = s.tile p
  other : ∀ k, k / 2 ^ 23 ≠ q → Map.get 0#8 t.mem k = Map.get 0#8 s.mem k
  queue : ∀ k, k ≠ qKey 0 srcMgc → t.queue k = s.queue k
  acc : (∀ i, SeatItem.accHalf i ∉ l) → t.acc = s.acc
  bytes : ∀ o, o < 64 * mappedRows → t.readByte q o =
    if SeatItem.row (o / 64) ∈ l ∧ x.has (o / 64) (o % 64) = false then 0 else s.readByte q o
  counter : ∀ c, (t.tile q).counter c = if SeatItem.counter c ∈ l then 0 else (s.tile q).counter c

theorem Zeroed.nil (q : Nat) (x : Subst) (s : State) : Zeroed q x [] s s :=
  ⟨rfl, rfl, fun _ _ => rfl, fun _ _ => rfl, fun _ _ => rfl, fun _ => rfl, fun o _ => by simp, fun c => by simp⟩

theorem Zeroed.cons {q : Nat} {x : Subst} {i : SeatItem} {l : List SeatItem} {s t u : State} (h : Zeroed q x [i] s t)
    (k : Zeroed q x l t u) : Zeroed q x (i :: l) s u where
  tables := k.tables.trans h.tables
  rcu := k.rcu.trans h.rcu
  tile p hp := (k.tile p hp).trans (h.tile p hp)
  other a ha := (k.other a ha).trans (h.other a ha)
  queue a ha := (k.queue a ha).trans (h.queue a ha)
  acc ha := by
    simp only [List.mem_cons, not_or] at ha
    exact (k.acc fun j => (ha j).2).trans (h.acc fun j => by simpa using (ha j).1)
  bytes o ho := by
    rw [k.bytes o ho, h.bytes o ho]
    by_cases h1 : SeatItem.row (o / 64) ∈ l <;> by_cases h2 : SeatItem.row (o / 64) = i <;>
      by_cases h3 : x.has (o / 64) (o % 64) = false <;> simp [h1, h2, h3]
  counter c := by
    rw [k.counter c, h.counter c]
    by_cases h1 : SeatItem.counter c ∈ l <;> by_cases h2 : SeatItem.counter c = i <;> simp [h1, h2]

/-- The MGC's record of an item that it could not read. -/
theorem Zeroed.raiseMgc {q : Nat} {x : Subst} {l : List SeatItem} {s t : State} (h : Zeroed q x l s t) (c d : Nat) :
    Zeroed q x l s (t.raiseMgc c d) where
  tables := (State.raiseMgc_tables ..).trans h.tables
  rcu := (State.raiseMgc_rcu ..).trans h.rcu
  tile p hp := (State.tile_raiseMgc ..).trans (h.tile p hp)
  other a ha := by rw [State.raiseMgc_mem]; exact h.other a ha
  queue a ha := (State.queue_raise_ne _ _ _ _ _ _ _ ha).trans (h.queue a ha)
  acc ha := (State.raiseMgc_acc ..).trans (h.acc ha)
  bytes o ho := by rw [State.readByte_raiseMgc]; exact h.bytes o ho
  counter c := by rw [State.tile_raiseMgc]; exact h.counter c

/-- An item of the joker's tile that is not a row. -/
theorem Zeroed.modTile (q : Nat) (x : Subst) (i : SeatItem) (s : State) (f : Tile → Tile) (hrow : ∀ r, i ≠ .row r)
    (hctr : ∀ c, (f (s.tile q)).counter c = if i = .counter c then 0 else (s.tile q).counter c) :
    Zeroed q x [i] s (s.modTile q f) where
  tables := rfl
  rcu := rfl
  tile p hp := State.tile_setTile_ne _ _ _ _ hp
  other _ _ := rfl
  queue _ _ := rfl
  acc _ := rfl
  bytes o _ := by rw [if_neg (by simp [(hrow (o / 64)).symm])]; rfl
  counter c := by
    rw [State.tile_modTile_self, hctr c]
    simp [eq_comm]

/-- An item of the joker's tile that is neither a row nor a counter. -/
theorem Zeroed.modTile_quiet (q : Nat) (x : Subst) (i : SeatItem) (s : State) (f : Tile → Tile) (hrow : ∀ r, i ≠ .row r)
    (hctr : ∀ c, i ≠ .counter c) (hf : (f (s.tile q)).ctr = (s.tile q).ctr) : Zeroed q x [i] s (s.modTile q f) :=
  Zeroed.modTile q x i s f hrow fun c => by rw [if_neg (hctr c), Tile.counter, hf, Tile.counter]

theorem Zeroed.zeroItem (q : Nat) (x : Subst) (i : SeatItem) (s : State) (hok : seatItemOk i = true) :
    Zeroed q x [i] s (s.zeroItem q x i) := by
  cases i with
  | row r =>
    have hr : r < 99328 := of_decide_eq_true hok
    obtain ⟨frame, bytes⟩ := State.foldl_pokeZero q (64 * r) ((List.range 64).filter fun i => !x.has r i) s
    rw [show s.zeroItem q x (.row r) =
      ((List.range 64).filter fun i => !x.has r i).foldl (fun s i => s.pokeBytes q (64 * r + i) [0#8]) s from rfl]
    generalize ((List.range 64).filter fun i => !x.has r i).foldl (fun s i => s.pokeBytes q (64 * r + i) [0#8]) s = t at *
    refine ⟨by rw [frame], by rw [frame], fun p _ => by rw [frame]; rfl, fun k hk => ?_, fun k _ => by rw [frame]; rfl,
      fun _ => by rw [frame], fun o ho => ?_, fun c => by rw [frame]; simp [State.tile]⟩
    · rw [bytes k, if_neg]
      rintro ⟨i, hi, rfl⟩
      have hi : i < 64 := by simpa using (List.mem_filter.1 hi).1
      exact hk (memKey_pos _ _ (by omega))
    · rw [State.readByte, bytes]
      have hm : (∃ i ∈ (List.range 64).filter (fun i => !x.has r i), memKey q o = memKey q (64 * r + i)) ↔
          SeatItem.row (o / 64) ∈ [SeatItem.row r] ∧ x.has (o / 64) (o % 64) = false := by
        simp only [List.mem_filter, List.mem_range, Bool.not_eq_true', List.mem_singleton, SeatItem.row.injEq, memKey]
        constructor
        · rintro ⟨i, ⟨hi, hx⟩, ho⟩
          have h1 : o / 64 = r := by omega
          have h2 : o % 64 = i := by omega
          rw [h1, h2]
          exact ⟨rfl, hx⟩
        · rintro ⟨h1, hx⟩
          rw [h1] at hx
          exact ⟨o % 64, ⟨by omega, hx⟩, by omega⟩
      rw [if_congr hm rfl rfl]
      rfl
  | accHalf i =>
    have frame : s.zeroItem q x (.accHalf i) = { s with acc := (s.zeroItem q x (.accHalf i)).acc } := State.writeAcc_frame ..
    rw [frame]
    exact ⟨rfl, rfl, fun _ _ => rfl, fun _ _ => rfl, fun _ _ => rfl, fun h => absurd (List.mem_singleton_self _) (h i),
      fun o _ => by simp [State.readByte], fun c => by simp [State.tile]⟩
  | valid i =>
    exact ⟨rfl, rfl, fun _ _ => rfl, fun _ _ => rfl, fun _ _ => rfl, fun _ => rfl,
      fun o _ => by simp [State.readByte, State.zeroItem, State.setHalf], fun c => by simp [State.tile, State.zeroItem, State.setHalf]⟩
  | programStore => exact Zeroed.modTile_quiet q x .programStore s (fun t => { t with store := [] }) nofun nofun rfl
  | odt i => exact Zeroed.modTile_quiet q x (.odt i) s (fun t => { t with odt := Map.set 0#128 t.odt i 0#128 }) nofun nofun rfl
  | pipStore => exact Zeroed.modTile_quiet q x .pipStore s (fun t => { t with pips := { t.pips with istore := [] } }) nofun nofun rfl
  | counter c =>
    refine Zeroed.modTile q x (.counter c) s (·.setCounter c 0) nofun fun d => ?_
    simp only [Tile.counter, Tile.setCounter, Map.get_set, SeatItem.counter.injEq]
    by_cases h : d = c
    · simp [h]
    · simp [h, Ne.symm h]
  | pipReg pip r =>
    cases r with
    | zero =>
      exact Zeroed.modTile_quiet q x (.pipReg pip 0) s
        (fun t => { t with pips := { t.pips with p := Map.set false t.pips.p pip false } }) nofun nofun rfl
    | succ r =>
      exact Zeroed.modTile_quiet q x (.pipReg pip (r + 1)) s
        (fun t => { t with pips := t.pips.setReg pip (r + 1) 0 }) nofun nofun rfl
  | ring r => exact Zeroed.modTile_quiet q x (.ring r) s (·.setRing r {}) nofun nofun rfl
  | handle h =>
      exact Zeroed.modTile_quiet q x (.handle h) s
        (fun t => { t with handles := Map.set 0#64 t.handles h 0#64 }) nofun nofun rfl
  | loops =>
      exact Zeroed.modTile_quiet q x .loops s
        (fun t => { t with run := none, next := 0, reps := [], decoded := [] }) nofun nofun rfl
  | trackers => exact Zeroed.modTile_quiet q x .trackers s (fun t => { t with ops := [] }) nofun nofun rfl

theorem Zeroed.foldl (q : Nat) (x : Subst) (l : List SeatItem) (s : State) (hok : ∀ i ∈ l, seatItemOk i = true) :
    Zeroed q x l s (l.foldl (fun t i => (t.zeroItem q x i).raiseMgc 0x8006 (seatItemRow i + 2 ^ 32)) s) := by
  induction l generalizing s with
  | nil => exact Zeroed.nil q x s
  | cons i l ih =>
    rw [List.forall_mem_cons] at hok
    exact ((Zeroed.zeroItem q x i s hok.1).raiseMgc _ _).cons (ih _ hok.2)

/-! ### The switch, the recovery and the copy (R391 to R393) -/

/-- What stands at a joker goes on standing while items of it are zeroed. -/
theorem Stands.zeroed {s w t : State} {tbl seat : Nat} {x : Subst} {l : List SeatItem} (h : Stands s w tbl seat) (ht : tbl < 16)
    (hs : seat < 12) (z : Zeroed (tbl * 13 + 12) x l w t) : Stands s t tbl seat := by
  have table : t.table tbl = w.table tbl := by rw [State.table, z.tables, State.table]
  have hpq : tbl * 13 + seat ≠ tbl * 13 + 12 := by omega
  refine ⟨by rw [table, h.jokerState], by rw [table, h.jokerFor], by rw [table, h.subst], by rw [table, h.recovering],
    by rw [table, h.retired], h.posted.of_queue (z.queue _ (qKey_table_ne_mgc tbl ht)), ?_, fun o ho => ?_, ?_⟩
  · rw [State.now, z.rcu]; exact h.now
  · rw [State.readByte, z.other _ (by rw [memKey_pos _ _ ho]; exact hpq)]
    exact h.zero o ho
  · rw [z.tile _ hpq]; exact h.bare

theorem State.switchSeat_of_ready (s : State) (tbl : Nat) (x : Subst) (hx : (s.table tbl).subst = some x) (ha : x.abrupt = false)
    (hr : x.ready s.tick = true) : s.switchSeat tbl = s.substitute tbl x.seat := by
  simp [State.switchSeat, hx, ha, hr]

theorem exec_substitutionSwitch (s : State) (tbl : Nat) (x : Subst) (ht : tbl < 16) (hx : (s.table tbl).subst = some x)
    (ha : x.abrupt = false) (hb : s.beat = 0) (hr : x.ready s.tick = true) :
    exec (.substitutionSwitch tbl) s = .next (s.substitute tbl x.seat) := by
  show execSubstitutionSwitch tbl s = _
  rw [execSubstitutionSwitch, within, if_pos ht, if_pos (by simp [hb]), State.switchSeat_of_ready s tbl x hx ha hr]

theorem exec_recoveryComplete (s : State) (tbl : Nat) (x : Subst) (unread : List SeatItem) (ht : tbl < 16)
    (hx : (s.table tbl).subst = some x) (ha : x.abrupt = true) (hb : s.beat = 0) (hr : x.ready s.tick = true)
    (hrec : (s.table tbl).recovering = true) (hf : s.flipped (tbl * 13 + x.seat) = []) :
    exec (.recoveryComplete tbl unread) s = .next ((unread.filter seatItemOk).foldl
      (fun t i => (t.zeroItem (tbl * 13 + 12) x i).raiseMgc 0x8006 (seatItemRow i + 2 ^ 32)) (s.substitute tbl x.seat)) := by
  show execRecoveryComplete tbl unread s = _
  rw [execRecoveryComplete, within, if_pos ht, hx]
  dsimp only
  rw [if_pos (by simp [hb, ha, hrec, hr]), hf]
  rfl

theorem exec_substitutionCopyTimeout (s : State) (tbl : Nat) (x : Subst) (ht : tbl < 16) (hx : (s.table tbl).subst = some x)
    (hm : x.mirror = true) (ha : x.abrupt = false) (hold : x.since + 65536 ≤ s.tick) :
    exec (.substitutionCopyTimeout tbl) s = .next
      { (s.modTable tbl fun t => { t with subst := none }) with
        tly := { s.tly with abrupt := s.tly.abrupt ++ [tbl * 13 + x.pos] } } := by
  show execSubstitutionCopyTimeout tbl s = _
  rw [execSubstitutionCopyTimeout, within, if_pos ht, hx]
  dsimp only
  rw [if_pos (by simp [hm, ha, hold])]
  rfl

/-- The MGC asks for the next row of its copy (R391). -/
theorem State.copyRow_asks (s : State) (tbl : Nat) (x : Subst) (hx : (s.table tbl).subst = some x) (hm : x.mirror = true)
    (ha : x.asked = false) (hc : x.copied < mappedRows) (hw : x.mirrored x.copied = false) :
    ∃ r ∈ ((s.copyRow tbl).tile (tbl * 13 + x.pos)).reqs, r.cls = 5 ∧ r.row = x.copied ∧ r.use = .toCopy tbl := by
  have hitems : ¬ copyItems ≤ x.copied := by
    have : mappedRows ≤ copyItems := by decide
    omega
  unfold State.copyRow
  rw [hx]
  dsimp only
  rw [if_neg (by simp [hm, ha, hitems]), if_neg (by omega), if_neg (by simp [hw]), State.tile_modTile_self]
  exact ⟨_, List.mem_append_right _ (List.mem_cons_self ..), rfl, rfl, rfl⟩

theorem State.zeroItem_row_keeps (s : State) (q : Nat) (x : Subst) (r : Nat) :
    (s.zeroItem q x (.row r)).hif = s.hif ∧ (s.zeroItem q x (.row r)).rcu = s.rcu := by
  have frame := (State.foldl_pokeZero q (64 * r) ((List.range 64).filter fun i => !x.has r i) s).1
  change s.zeroItem q x (.row r) = _ at frame
  rw [frame]
  exact ⟨rfl, rfl⟩

/-- Settles O31. -/
theorem jokerTakesTheSeat : Obligations.JokerTakesTheSeat := by
  intro s tbl x ht hx hseat hm p q stands taken sameAcc
  obtain ⟨st, moved, bytes, acc⟩ := s.substitute_stands tbl x.seat ht hseat
  have stood : ∀ {t : State}, Stands s t tbl x.seat → stands t := fun h =>
    ⟨h.jokerState, h.jokerFor, h.subst, h.recovering, h.retired, h.posted, h.now, h.zero, h.bare⟩
  have ready : x.since < s.tick → copyItems ≤ x.copied → x.ready s.tick = true := fun h1 h2 => by
    simp [Subst.ready, hm, h1, h2]
  refine ⟨fun ha hc hw => s.copyRow_asks tbl x hx hm ha hc hw, fun ha hb h1 h2 => ?_, fun ha hb h1 h2 hrec hf unread => ?_,
    fun ha hold => ?_⟩
  · exact ⟨_, exec_substitutionSwitch s tbl x ht hx ha hb (ready h1 h2), stood st, moved, acc, bytes⟩
  · have run := exec_recoveryComplete s tbl x unread ht hx ha hb (ready h1 h2) hrec hf
    have z := Zeroed.foldl q x (unread.filter seatItemOk) (s.substitute tbl x.seat) fun i hi => (List.mem_filter.1 hi).2
    have named : ∀ i, seatItemOk i = true → (i ∈ unread.filter seatItemOk ↔ i ∈ unread) := fun i hi => by
      simp [List.mem_filter, hi]
    refine ⟨_, run, stood (st.zeroed ht hseat z), fun hu => ?_, fun hu => ?_, fun o ho => ?_, fun c hc => ?_, fun r hr hu => ?_⟩
    · subst hu; exact moved
    · intro k hk
      rw [z.acc fun i hi => hu i (List.mem_filter.1 hi).1]
      exact acc k hk
    · have hrow : o / 64 < mappedRows := by omega
      have hsmall : o < 2 ^ 23 := by simp only [mappedRows] at ho; omega
      rw [z.bytes o ho, bytes o hsmall]
      simp only [named (.row (o / 64)) (decide_eq_true hrow)]
      rfl
    · rw [z.counter c, moved]
      simp only [named (.counter c) (decide_eq_true hc)]
      rfl
    · subst hu
      have hok : [SeatItem.row r].filter seatItemOk = [.row r] := List.filter_cons_of_pos (decide_eq_true hr)
      rw [hok]
      obtain ⟨hif, rcu⟩ := (s.substitute tbl x.seat).zeroItem_row_keeps q x r
      exact Posted.congr (State.raise_posted ((s.substitute tbl x.seat).zeroItem q x (.row r)) srcMgc 2 0x8006 0 (r + 2 ^ 32)) rfl
        (by rw [hif]) (by rw [hif]) (State.roundCounter_congr rcu.symm)
  · refine ⟨_, exec_substitutionCopyTimeout s tbl x ht hx hm ha hold, SameMemory.of_mem rfl, ?_, rfl⟩
    exact congrArg Table.subst (s.table_modTable_self tbl fun t => { t with subst := none })

/-! ### Scan probes (R394) -/

theorem State.writeProbe_go (s : State) (v : Nat) (hgo : bit v 16 = true) (hp : bits v 0 8 < 208) (hq : s.tly.probeQueue = []) :
    s.writeProbe v =
      if s.mayProbe (bits v 0 8) then { s with tly := { s.tly with probePos := bits v 0 8, probeQueue := [bits v 0 8] } }
      else { s with tly := { s.tly with probePos := bits v 0 8, probeStatus := 0x8016, probeFail := 0xFFFF } } := by
  unfold State.writeProbe State.queueProbe
  simp only [hp, hq, hgo, if_true, Bool.not_true, List.isEmpty_nil, Bool.false_or, Bool.false_eq_true, if_false, List.nil_append]

/-- The state in which a probe has ended with a status and a failing pattern. -/
def State.probeTold (s : State) (rest : List Nat) (status fail : Nat) : State :=
  { s with tly := { s.tly with probeQueue := rest, probeStatus := status, probeFail := fail } }

theorem exec_probeComplete (s : State) (e : ProbeEnd) (p : Nat) (rest : List Nat) (h : s.tly.probeQueue = p :: rest) :
    exec (.probeComplete e) s = .next (
      let w := (s.scanFails e).foldl (fun s _ => s.raiseMgc 0x9004) s
      match s.probeVerdict e with
      | some i => (w.probeTold rest 0x8011 (i % 65536)).probeFailed p i
      | none => (w.probeTold rest 0 0xFFFF).probePassed p) := by
  show execProbeComplete e s = _
  rw [execProbeComplete, h]
  rfl

theorem State.scanFails_of_good (s : State) (e : ProbeEnd) (h : ∀ b, s.mgc.flash.scanBad b = false) :
    s.scanFails e = e.badBlocks.eraseDups := by
  rw [State.scanFails, List.filter_eq_nil_iff.2 (fun b _ => by simp [h]), List.append_nil]

theorem State.probePassed_tly (s : State) (p : Nat) : (s.probePassed p).tly = s.tly := by
  unfold State.probePassed
  split <;> rfl
theorem State.probePassed_mem (s : State) (p : Nat) : (s.probePassed p).mem = s.mem := by
  unfold State.probePassed
  split <;> rfl
theorem State.probePassed_hif (s : State) (p : Nat) : (s.probePassed p).hif = s.hif := by
  unfold State.probePassed
  split <;> rfl
theorem State.probePassed_tables (s : State) (p : Nat) (h : p % 13 ≠ 12) : (s.probePassed p).tables = s.tables := by
  rw [State.probePassed, if_neg (by simpa using h)]

/-- What a failed probe leaves beside its records and its tables: memory, and what TLY.PROBE reads. -/
structure ProbeKept (s t : State) : Prop where
  mem : t.mem = s.mem
  status : t.tly.probeStatus = s.tly.probeStatus
  fail : t.tly.probeFail = s.tly.probeFail

theorem ProbeKept.trans {s t u : State} (h : ProbeKept s t) (k : ProbeKept t u) : ProbeKept s u :=
  ⟨k.mem.trans h.mem, k.status.trans h.status, k.fail.trans h.fail⟩
theorem ProbeKept.modTable (s : State) (n : Nat) (f : Table → Table) : ProbeKept s (s.modTable n f) := ⟨rfl, rfl, rfl⟩
theorem ProbeKept.raise (s : State) (src kind status tag detail : Nat) : ProbeKept s (s.raise src kind status tag detail) :=
  ⟨State.raise_mem .., by rw [State.raise_tly], by rw [State.raise_tly]⟩
theorem ProbeKept.retireFail (s : State) (p : Nat) : ProbeKept s (s.retireFail p) :=
  (ProbeKept.modTable s _ _).trans (ProbeKept.raise ..)
theorem ProbeKept.retireJoker (s : State) (n : Nat) : ProbeKept s (s.retireJoker n) := by
  unfold State.retireJoker
  dsimp only
  split
  · exact (ProbeKept.modTable s _ _).trans (ProbeKept.modTable _ _ _)
  · exact ProbeKept.modTable s _ _

theorem ProbeKept.planSubst (s : State) (p : Nat) : ProbeKept s (s.planSubst p) := by
  unfold State.planSubst
  dsimp only
  split
  · exact ⟨rfl, rfl, rfl⟩
  · split
    · split
      · exact ⟨rfl, rfl, rfl⟩
      · split
        · exact ⟨rfl, rfl, rfl⟩
        · exact ProbeKept.retireFail s p
    · exact ProbeKept.retireFail s p
    · exact ProbeKept.retireJoker s _
    · exact ⟨rfl, rfl, rfl⟩

theorem ProbeKept.probeFailed (s : State) (p i : Nat) : ProbeKept s (s.probeFailed p i) := by
  have told := ProbeKept.raise s srcMgc 2 0x8011 0 (p + i % 65536 * 2 ^ 16)
  unfold State.probeFailed
  dsimp only
  split
  · exact told.trans (ProbeKept.retireJoker ..)
  · exact told.trans (ProbeKept.planSubst ..)
  · split
    · exact told
    · exact told.trans (ProbeKept.retireFail ..)
  · exact told

/-- The idle joker retires: its table, and no record, queue or probe, is changed (R391). -/
theorem State.retireJoker_spec (s : State) (n : Nat) :
    bit ((s.retireJoker n).table n).retired 12 = true ∧ ((s.retireJoker n).table n).jokerState = 2 ∧
      (s.retireJoker n).tly = s.tly ∧ (s.retireJoker n).hif = s.hif := by
  unfold State.retireJoker State.failTable
  dsimp only
  split
  · rw [State.table_modTable_self, State.table_modTable_self]
    exact ⟨bit_putBits_one .., rfl, rfl, rfl⟩
  · rw [State.table_modTable_self]
    exact ⟨bit_putBits_one .., rfl, rfl, rfl⟩

theorem State.posKind_congr {s t : State} (ht : t.tables = s.tables) (hg : t.grade = s.grade) (p : Nat) : t.posKind p = s.posKind p := by
  have table : ∀ n, t.table n = s.table n := fun n => by rw [State.table, ht, State.table]
  have seats : t.seats = s.seats := by unfold State.seats; rw [hg]
  simp only [State.posKind, table, seats]

/-- An idle joker that fails its probe retires (R394). -/
theorem State.probeFailed_idleJoker (s : State) (p i : Nat) (h : s.posKind p = .idleJoker) :
    (s.probeFailed p i).tly = s.tly ∧ bit ((s.probeFailed p i).table (p / 13)).retired 12 = true ∧
      ((s.probeFailed p i).table (p / 13)).jokerState = 2 ∧
      Posted s (s.probeFailed p i) srcMgc 2 0x8011 0 (p + i % 65536 * 2 ^ 16) := by
  have eq : s.probeFailed p i = (s.raiseMgc 0x8011 (p + i % 65536 * 2 ^ 16)).retireJoker (p / 13) := by
    unfold State.probeFailed
    rw [h]
  have post := State.raise_posted s srcMgc 2 0x8011 0 (p + i % 65536 * 2 ^ 16)
  obtain ⟨retired, joker, tly, hif⟩ := (s.raiseMgc 0x8011 (p + i % 65536 * 2 ^ 16)).retireJoker_spec (p / 13)
  rw [eq]
  refine ⟨tly.trans (State.raiseMgc_tly ..), retired, joker, Posted.congr post ?_ rfl rfl rfl⟩
  rw [hif]
  rfl

@[simp] theorem State.probeTold_tables (s : State) (l : List Nat) (a b : Nat) : (s.probeTold l a b).tables = s.tables := rfl
@[simp] theorem State.probeTold_grade (s : State) (l : List Nat) (a b : Nat) : (s.probeTold l a b).grade = s.grade := rfl
@[simp] theorem State.probeTold_hif (s : State) (l : List Nat) (a b : Nat) : (s.probeTold l a b).hif = s.hif := rfl
@[simp] theorem State.probeTold_mem (s : State) (l : List Nat) (a b : Nat) : (s.probeTold l a b).mem = s.mem := rfl
@[simp] theorem State.probeTold_rcu (s : State) (l : List Nat) (a b : Nat) : (s.probeTold l a b).rcu = s.rcu := rfl
@[simp] theorem State.probeTold_tly (s : State) (l : List Nat) (a b : Nat) :
    (s.probeTold l a b).tly = { s.tly with probeQueue := l, probeStatus := a, probeFail := b } := rfl

theorem State.foldl_queueProbe (l : List Nat) (s : State) :
    l.foldl (fun s p => s.queueProbe p) s = { s with tly := { s.tly with probeQueue := s.tly.probeQueue ++ l } } := by
  induction l generalizing s with
  | nil => simp
  | cons p l ih => rw [List.foldl_cons, ih]; simp [State.queueProbe]

theorem probesReportAndRetire : Claims.ProbesReportAndRetire := by
  intro s
  refine ⟨fun v hgo hp hq => ?_, fun p rest hq hscan => ?_, ?_⟩
  · have run : exec (.probeGo v) s = .next (s.writeProbe v.toNat) := rfl
    rw [State.writeProbe_go s v.toNat hgo hp hq] at run
    exact ⟨fun h => by rw [run, if_pos h], fun h => by rw [run, if_neg (by simp [h])]⟩
  · have run := fun e => exec_probeComplete s e p rest hq
    have quiet : ∀ f, s.scanFails ⟨f, []⟩ = [] := fun f => by rw [State.scanFails_of_good s _ hscan]; rfl
    have passed : ∀ f, s.probeVerdict ⟨f, []⟩ = none →
        exec (.probeComplete ⟨f, []⟩) s = .next ((s.probeTold rest 0 0xFFFF).probePassed p) := fun f h => by
      rw [run, quiet, h]; rfl
    have stored : ∀ i < 0x100, s.mgc.flash.read (.pattern i) = none → s.probeVerdict ⟨some i, []⟩ = none := fun i hi hr => by
      simp [State.probeVerdict, hi, hr]
    refine ⟨?_, fun b => ?_, fun i hi hr => ?_, fun i hi => ?_⟩
    · refine ⟨_, passed none rfl, SameMemory.of_mem ((State.probePassed_mem ..).trans rfl), (State.probePassed_tly ..).trans rfl,
        fun h => (State.probePassed_tables _ _ h).trans rfl⟩
    · have bad : s.scanFails ⟨some (b + 0x100), [b]⟩ = [b] := by rw [State.scanFails_of_good s _ hscan]; rfl
      have verdict : s.probeVerdict ⟨some (b + 0x100), [b]⟩ = none := by
        simp [State.probeVerdict, bad]
      have run := run ⟨some (b + 0x100), [b]⟩
      rw [bad, verdict] at run
      change exec _ s = .next (((s.raiseMgc 0x9004).probeTold rest 0 0xFFFF).probePassed p) at run
      refine ⟨_, run, SameMemory.of_mem ?_, ?_, ?_, ?_, ?_⟩
      · rw [State.probePassed_mem, State.probeTold_mem]; exact State.raiseMgc_mem ..
      · rw [State.probePassed_tly, State.probeTold_tly]
      · rw [State.probePassed_tly, State.probeTold_tly]
      · rw [State.probePassed_tly, State.probeTold_tly]
      · have hif : (((s.raiseMgc 0x9004).probeTold rest 0 0xFFFF).probePassed p).hif = (s.raise srcMgc 2 0x9004 0 0).hif := by
          rw [State.probePassed_hif, State.probeTold_hif]
          rfl
        exact Posted.congr (State.raise_posted s srcMgc 2 0x9004 0 0) (congrArg Hif.queues hif) rfl rfl rfl
    · exact ⟨_, passed _ (stored i hi hr), (State.probePassed_tly ..).trans rfl⟩
    · have verdict : s.probeVerdict ⟨some i, []⟩ = some i := by
        by_cases h : i < 0x100
        · simp [State.probeVerdict, h, Option.isSome_iff_ne_none, hi h]
        · simp [State.probeVerdict, h, quiet]
      have run := run ⟨some i, []⟩
      rw [quiet, verdict] at run
      change exec _ s = .next ((s.probeTold rest 0x8011 (i % 65536)).probeFailed p i) at run
      have kept := ProbeKept.probeFailed (s.probeTold rest 0x8011 (i % 65536)) p i
      have kind : (s.probeTold rest 0x8011 (i % 65536)).posKind p = s.posKind p :=
        State.posKind_congr (s.probeTold_tables ..) (s.probeTold_grade ..) p
      refine ⟨_, run, SameMemory.of_mem (kept.mem.trans (s.probeTold_mem ..)), ?_, ?_, fun hj => ?_⟩
      · rw [kept.status, State.probeTold_tly]
      · rw [kept.fail, State.probeTold_tly]
      · obtain ⟨tly, retired, joker, post⟩ := State.probeFailed_idleJoker _ p i (kind.trans hj)
        refine ⟨by rw [tly, State.probeTold_tly], retired, joker, Posted.congr post rfl ?_ ?_ ?_⟩
        · rw [State.probeTold_hif]
        · rw [State.probeTold_hif]
        · exact State.roundCounter_congr (s.probeTold_rcu ..).symm
  · show execProbePeriodic s = _
    rw [execProbePeriodic, State.foldl_queueProbe]

/-! ### Trims and scrubs (R390, R395, R396) -/

@[simp] theorem State.flashWrite_tly (s : State) (w : FlashPart) (seq : Nat) (payload : List Byte) :
    (s.flashWrite w seq payload).1.tly = s.tly := by
  unfold State.flashWrite
  dsimp only
  split
  · exact State.raiseMgc_tly ..
  · rfl

/-- Writing the calibration record reaches neither memory nor the tally (R390). -/
theorem State.saveCalib_keeps (s : State) : s.saveCalib.mem = s.mem ∧ s.saveCalib.tly = s.tly := by
  rw [State.saveCalib.eq_def]
  exact iteInduction (motive := fun t : State => t.mem = s.mem ∧ t.tly = s.tly) (fun _ => ⟨rfl, rfl⟩)
    fun _ => ⟨State.flashWrite_mem .., State.flashWrite_tly ..⟩

theorem State.parityBad_of_one (s : State) (arr unit w b : Nat) (h : s.tly.flips = [(arr, unit, w, b)]) (hb : b < 32) :
    s.parityBad arr unit w = true := by
  have odd : ∀ b < 32, (List.range 32).foldl (fun a i => a ^^ bit (0 ^^^ 2 ^ b) i) false = true := by decide +kernel
  have mask : s.flipMask arr unit w = 0 ^^^ 2 ^ b := by simp [State.flipMask, h]
  rw [State.parityBad, mask]
  exact odd b hb

theorem State.failingWord_of_one (s : State) (arr unit w b : Nat) (h : s.tly.flips = [(arr, unit, w, b)]) (hb : b < 32) :
    s.failingWord arr unit = some w := by
  have bad := s.parityBad_of_one arr unit w b h hb
  have once : [w].eraseDups = [w] := by simp [List.eraseDups_cons]
  simp [State.failingWord, h, once, sortBy, insertBy, bad]

/-- A word of an array stands in a tile, a port or the deck's routes (R395). -/
theorem State.putArrayWord_frame (s : State) (arr unit w v : Nat) :
    s.putArrayWord arr unit w v = { s with
      tiles := (s.putArrayWord arr unit w v).tiles, ports := (s.putArrayWord arr unit w v).ports,
      lnk := (s.putArrayWord arr unit w v).lnk } := by
  unfold State.putArrayWord
  split
  · rfl
  · rfl
  · rfl
  · split
    · rfl
    · split <;> rfl

/-- A scrub pass has found one bit of an array changed (R395): no other array, table, queue or counter is another one. -/
structure BitFlipped (s v : State) (arr unit w b : Nat) : Prop where
  mem : v.mem = s.mem
  tables : v.tables = s.tables
  grade : v.grade = s.grade
  rcu : v.rcu = s.rcu
  hif : v.hif = s.hif
  tly : v.tly = { s.tly with fixed := min 0xFFFF (s.tly.fixed + 0), flips := [(arr, unit, w, b)] }

theorem State.scrubLatches_nil (s : State) (h : s.tly.upsets = []) :
    s.scrubLatches [] = { s with tly := { s.tly with fixed := min 0xFFFF (s.tly.fixed + 0) } } := by
  simp [State.scrubLatches, h, List.eraseDups]

theorem State.scrubLatches_flipBits (s : State) (hit : ScrubHit) (arr unit w b : Nat)
    (hu : scrubUnit hit = (arr, unit, [(w, b)])) (hb : b < 32) (hl : s.tly.upsets = []) (hf : s.tly.flips = []) :
    BitFlipped s ((s.scrubLatches []).flipBits hit) arr unit w b := by
  have mod : b % 32 = b := Nat.mod_eq_of_lt hb
  simp only [State.flipBits, hu, List.foldl_cons, List.foldl_nil, mod]
  rw [State.putArrayWord_frame, s.scrubLatches_nil hl]
  refine ⟨rfl, rfl, rfl, rfl, rfl, ?_⟩
  dsimp only
  rw [hf]
  rfl

/-- The one latch that is reported is rewritten where its bit has latches (R395). -/
theorem State.scrubLatches_one (s : State) (u : LatchUpset) (h : s.tly.upsets = []) :
    s.scrubLatches [u] = { s with tly := { s.tly with
      fixed := min 0xFFFF (s.tly.fixed + if bit (unlatched (u.off / 4 * 4)) u.bit then 0 else 1) } } := by
  cases hb : bit (unlatched (u.off / 4 * 4)) u.bit with
  | true =>
    simp [State.scrubLatches, h, hb, List.eraseDups]
  | false =>
    simp [State.scrubLatches, h, hb, List.eraseDups_cons, toggle]

/-- The word that failed is a tile's (R396): its record, and the order of abrupt substitution. -/
theorem State.scrubArray_tile (s : State) (arr p w : Nat) (ha : arr < 3) (h : s.failingWord arr p = some w) :
    s.scrubArray (arr, p) = { s.raiseTile p 0 0x8008 (scrubDetail p arr w) with
      tly := { s.tly with abrupt := s.tly.abrupt ++ [p] } } := by
  have ne : ¬ arr = 3 := by omega
  simp only [State.scrubArray, h, if_neg ne, State.raiseTile_tly]

/-- The word that failed is a port's (R396): its record, and FAULT. -/
theorem State.scrubArray_port (s : State) (n w : Nat) (h : s.failingWord 3 n = some w) :
    s.scrubArray (3, n) = s.portFault n 0x8008 (scrubDetail n 3 w) := by
  simp only [State.scrubArray, h, if_true]

@[simp] theorem State.portFault_tly (s : State) (n code d : Nat) : (s.portFault n code d).tly = s.tly := State.raise_tly ..
@[simp] theorem State.portFault_mem (s : State) (n code d : Nat) : (s.portFault n code d).mem = s.mem := State.raise_mem ..

/-- A port in FAULT says why (R283, R396). -/
theorem State.portFault_port (s : State) (n code d : Nat) :
    (s.portFault n code d).port n = { (s.port n).flush.enter s.age .fault with last := code } := by
  unfold State.portFault
  rw [State.port_raise, State.port_modPort_self]

theorem State.portFault_posted (s : State) (n code d : Nat) : Posted s (s.portFault n code d) (srcPort n) 2 code 0 d :=
  State.raise_posted (s.modPort n fun x => { x.flush.enter s.age .fault with last := code }) (srcPort n) 2 code 0 d

/-- A scrub pass that finds no bit of an array changed. -/
theorem exec_scrub_of_no_flips (s : State) (l : List LatchUpset) (h : (s.scrubLatches l).tly.flips = []) :
    exec (.scrub l []) s = .next { s.scrubLatches l with
      tly := { (s.scrubLatches l).tly with passes := ((s.scrubLatches l).tly.passes + 1) % 65536 } } := by
  show execScrub l [] s = _
  simp [execScrub, h, List.eraseDups]

/-- A scrub pass that finds one bit of one array changed. -/
theorem exec_scrub_of_one (s v t : State) (hit : ScrubHit) (arr unit w b : Nat) (hok : scrubUnitOk hit = true)
    (hv : (s.scrubLatches []).flipBits hit = v) (hf : v.tly.flips = [(arr, unit, w, b)]) (ht : v.scrubArray (arr, unit) = t) :
    exec (.scrub [] [hit]) s = .next { t with tly := { t.tly with passes := (t.tly.passes + 1) % 65536 } } := by
  show execScrub [] [hit] s = _
  have once : [(arr, unit)].eraseDups = [(arr, unit)] := by simp [List.eraseDups_cons]
  simp only [execScrub, List.all_cons, List.all_nil, hok, Bool.and_self, if_true, List.foldl_cons, List.foldl_nil, hv, hf,
    List.map_cons, List.map_nil, once, ht]

theorem trimsDecayAndScrubsCount : Claims.TrimsDecayAndScrubsCount := by
  intro s p hp
  have run : exec (.trimDecay p) s = _ := if_pos hp
  refine ⟨fun hd hk hl => ?_, fun hl => ?_, fun hu hf => ?_⟩
  · rw [if_pos (by simpa [hd, hk] using hl)] at run
    obtain ⟨mem, tly⟩ := State.saveCalib_keeps { s with tly := { s.tly with
      trim := Map.set 0 s.tly.trim p (Map.get 0 s.tly.trim p - 1),
      ladder := if Map.get 0 s.tly.ladder p ≤ 3 then Map.set 0 s.tly.ladder p (Map.get 0 s.tly.trim p - 1) else s.tly.ladder,
      lastEvent := Map.set 0 s.tly.lastEvent p s.tick } }
    refine ⟨_, run, SameMemory.of_mem mem, fun q => ?_, ?_⟩
    · rw [tly]
      exact Map.get_set ..
    · rw [tly]
      exact Map.get_set_self ..
  · rw [if_neg (by simp; omega)] at run
    exact run
  · have latches := s.scrubLatches_nil hu
    have one := fun u => s.scrubLatches_one u hu
    refine ⟨?_, fun u hb => ?_, fun u hb => ?_, fun arr w b ha hb => ?_, fun n w b hn hb => ?_⟩
    · rw [exec_scrub_of_no_flips s [] (by rw [latches]; exact hf), latches]
    · rw [exec_scrub_of_no_flips s [u] (by rw [one]; exact hf), one, hb]
      rfl
    · rw [exec_scrub_of_no_flips s [u] (by rw [one]; exact hf), one, hb]
      rfl
    · have flip := s.scrubLatches_flipBits (.tile p arr [(w, b)]) arr p w b (by simp [scrubUnit, Nat.mod_eq_of_lt ha]) hb hu hf
      have scrub := fun t => exec_scrub_of_one s _ t (.tile p arr [(w, b)]) arr p w b (by simp [scrubUnitOk, hp]) rfl
      generalize (s.scrubLatches []).flipBits (.tile p arr [(w, b)]) = v at flip scrub
      obtain ⟨mem, tables, grade, rcu, hif, tly⟩ := flip
      have flips : v.tly.flips = [(arr, p, w, b)] := by rw [tly]
      have word := v.failingWord_of_one arr p w b flips hb
      have post := v.raiseTile_posted p 0 0x8008 (scrubDetail p arr w)
      rw [State.ltileOf_congr tables grade] at post
      have memory : (v.raiseTile p 0 0x8008 (scrubDetail p arr w)).mem = v.mem := State.raiseTile_mem ..
      have step := scrub _ flips (v.scrubArray_tile arr p w ha word)
      generalize v.raiseTile p 0 0x8008 (scrubDetail p arr w) = u at post memory step
      refine ⟨_, step, SameMemory.of_mem (memory.trans mem), ?_, ?_⟩
      · dsimp only
        rw [tly]
      · exact Posted.congr post rfl (by rw [hif]) (by rw [hif]) (State.roundCounter_congr rcu.symm)
    · have flip := s.scrubLatches_flipBits (.port n [(w, b)]) 3 n w b rfl hb hu hf
      have scrub := fun t => exec_scrub_of_one s _ t (.port n [(w, b)]) 3 n w b (by simp [scrubUnitOk, hn]) rfl
      generalize (s.scrubLatches []).flipBits (.port n [(w, b)]) = v at flip scrub
      obtain ⟨mem, tables, grade, rcu, hif, tly⟩ := flip
      have flips : v.tly.flips = [(3, n, w, b)] := by rw [tly]
      have word := v.failingWord_of_one 3 n w b flips hb
      have post := v.portFault_posted n 0x8008 (scrubDetail n 3 w)
      have port := v.portFault_port n 0x8008 (scrubDetail n 3 w)
      have kept : (v.portFault n 0x8008 (scrubDetail n 3 w)).tly = v.tly := State.portFault_tly ..
      have memory : (v.portFault n 0x8008 (scrubDetail n 3 w)).mem = v.mem := State.portFault_mem ..
      refine ⟨_, scrub _ flips (v.scrubArray_port n w word), ?_⟩
      generalize v.portFault n 0x8008 (scrubDetail n 3 w) = u at post port kept memory
      refine ⟨SameMemory.of_mem (memory.trans mem), ?_, ?_, ?_, ?_⟩
      · rw [kept, tly]
      · exact (congrArg Port.state port).trans rfl
      · exact (congrArg Port.last port).trans rfl
      · exact Posted.congr post rfl (by rw [hif]) (by rw [hif]) (State.roundCounter_congr rcu.symm)

/-- Settles O32: a probe's verdict decides what it leaves, and a scrub pass with one changed bit finds the word by its odd
parity. -/
theorem probesTrimsAndScrubs : Obligations.ProbesTrimsAndScrubs := ⟨probesReportAndRetire, trimsDecayAndScrubsCount⟩

end Sys2Proof.Machine
end

section
/-! PROOFS. The ports (R260 to R286): the way up and down, light, frames, LINK packets, memory packets and telemetry. -/

namespace Sys2Proof.Machine

/-! ### One port at a time -/

theorem State.port_modPort (s : State) (n m : Nat) (f : Port → Port) :
    (s.modPort n f).port m = if m = n then f (s.port n) else s.port m := State.port_setPort ..
theorem State.port_modPort_ne (s : State) (n m : Nat) (f : Port → Port) (h : m ≠ n) : (s.modPort n f).port m = s.port m :=
  State.port_setPort_ne _ _ _ _ h

theorem OnlyPort.refl (n : Nat) (s : State) : OnlyPort n s s := ⟨rfl, fun _ _ => rfl⟩
theorem OnlyPort.modPort (n : Nat) (s : State) (f : Port → Port) : OnlyPort n s (s.modPort n f) :=
  ⟨rfl, fun m hm => s.port_modPort_ne n m f hm⟩
theorem OnlyPort.trans {n : Nat} {s t u : State} (h : OnlyPort n s t) (g : OnlyPort n t u) : OnlyPort n s u := by
  refine ⟨?_, fun m hm => (g.2 m hm).trans (h.2 m hm)⟩
  obtain ⟨hu, -⟩ := g
  obtain ⟨ht, -⟩ := h
  rw [hu, ht]
theorem OnlyPort.mem {n : Nat} {s t : State} (h : OnlyPort n s t) : t.mem = s.mem := by rw [h.1]

/-- What a posted record needs of the state before it, beside the counter: its source's queue, and the commands in progress. -/
theorem Posted.of_before {s s' u : State} {src kind status tag detail : Nat} (h : Posted s' u src kind status tag detail)
    (hq : s'.queue (qKey 0 src) = s.queue (qKey 0 src)) (hf : s'.hif.fns = s.hif.fns) (hr : s'.rcu = s.rcu) :
    Posted s u src kind status tag detail := by
  have runs : ∀ f win, s'.runs f win = s.runs f win := fun f win => by simp only [State.runs, State.cr, State.fn, hf]
  have owed : s'.owed (qKey 0 src) = s.owed (qKey 0 src) := by simp only [State.owed, runs]
  unfold Posted at *
  rw [hq, owed, State.roundCounter_congr hr] at h
  exact h

/-- A fault of a port (R268, R285): its code as the port's last one, and the record. -/
theorem State.raisePort_port (s : State) (n code : Nat) : (s.raisePort n code).port n = { s.port n with last := code } := by
  unfold State.raisePort
  rw [State.port_raise, State.port_modPort_self]
theorem State.raisePort_port_ne (s : State) (n code m : Nat) (h : m ≠ n) : (s.raisePort n code).port m = s.port m := by
  unfold State.raisePort
  rw [State.port_raise, State.port_modPort_ne _ _ _ _ h]
theorem State.raisePort_posted (s : State) (n code : Nat) : Posted s (s.raisePort n code) (srcPort n) 2 code 0 0 :=
  State.raise_posted (s.modPort n fun x => { x with last := code }) (srcPort n) 2 code 0 0

/-- A fault that a port's new state brings. -/
theorem State.modPort_raisePort_posted (s : State) (n code : Nat) (f : Port → Port) :
    Posted s ((s.modPort n f).raisePort n code) (srcPort n) 2 code 0 0 :=
  State.raise_posted ((s.modPort n f).modPort n fun x => { x with last := code }) (srcPort n) 2 code 0 0

@[simp] theorem Port.enter_state (x : Port) (now : Nat) (st : PortState) : (x.enter now st).state = st := rfl

/-! ### Control and timers (R268, R283) -/

theorem portsComeUpInOrder : Claims.PortsComeUpInOrder := by
  intro s n hn
  refine ⟨fun h => ?_, fun h => ?_, ?_, fun h => ?_, fun h => ?_, fun h hp => ?_, fun h => ?_, fun h hl => ?_, fun h => ?_⟩
  · refine ⟨_, if_pos hn, OnlyPort.modPort .., ?_⟩
    rw [State.port_modPort_self, if_pos h]
    exact ⟨rfl, rfl, rfl⟩
  · refine ⟨_, if_pos hn, OnlyPort.modPort .., ?_⟩
    rw [State.port_modPort_self, if_neg h]
  · refine ⟨_, if_pos hn, OnlyPort.modPort .., ?_⟩
    rw [State.port_modPort_self]
    exact ⟨rfl, rfl, rfl, rfl, rfl, rfl⟩
  · refine ⟨_, if_pos hn, OnlyPort.modPort .., ?_⟩
    rw [State.port_modPort_self, if_pos h]
    rfl
  · refine ⟨_, if_pos hn, OnlyPort.modPort .., ?_⟩
    rw [State.port_modPort_self, if_neg (by simp [h])]
  · have run : exec (.trainSettled n) s = _ := if_pos hn
    rw [if_pos (by simp [h, hp])] at run
    refine ⟨_, run, OnlyPort.modPort .., ?_⟩
    rw [State.port_modPort_self]
    exact ⟨rfl, rfl⟩
  · have run : exec (.trainSettled n) s = _ := if_pos hn
    rw [if_neg (by simpa [imp_iff_not_or] using h)] at run
    exact run
  · have run : exec (.trainTimeout n) s = _ := if_pos hn
    rw [if_pos (by simpa [hl] using h)] at run
    refine ⟨_, run, SameMemory.of_mem (State.portFault_mem ..), ?_, ?_, s.portFault_posted n 0x400c 0⟩
    · rw [State.portFault_port]
      rfl
    · rw [State.portFault_port]
  · have run : exec (.trainTimeout n) s = _ := if_pos hn
    refine run.trans (congrArg _ (if_neg ?_))
    simp only [Bool.and_eq_true, Bool.or_eq_true, decide_eq_true_eq, not_and_or, not_or]
    rcases h with h | h
    · exact .inl h
    · exact .inr (Nat.not_le.mpr h)

/-! ### Light (R269, R285) -/

/-- A port under its laser input, as `State.laserStep` leaves it: the input in order, or not. -/
def Port.underLaser (ok : Bool) (age : Nat) (x : Port) : Port :=
  if ok then (if x.state = .dark then x.enter age .train else x)
  else if x.state = .up then { x.flush.enter age (if x.auto then .dark else .fault) with last := 0x4007 }
  else if x.state = .off || x.state = .fault || x.state = .dark then x
  else x.enter age .dark

/-- What a reading of a laser input does to one of its ports (R269). -/
def State.laserStep (ok : Bool) (s : State) (n : Nat) : State :=
  let st := (s.port n).state
  if ok then (if st = .dark then s.modPort n (·.enter s.age .train) else s)
  else if st = .up then
    (s.modPort n fun x => x.flush.enter s.age (if x.auto then .dark else .fault)).raisePort n 0x4007
  else if st = .off || st = .fault || st = .dark then s
  else s.modPort n (·.enter s.age .dark)

/-- What a laser input's ports leave alone: memory, the laser inputs, and what a posted record reads. -/
structure LaserKept (s t : State) : Prop where
  mem : t.mem = s.mem
  age : t.age = s.age
  lnk : t.lnk = s.lnk
  rcu : t.rcu = s.rcu
  fns : t.hif.fns = s.hif.fns

theorem LaserKept.trans {s t u : State} (h : LaserKept s t) (g : LaserKept t u) : LaserKept s u :=
  ⟨g.mem.trans h.mem, g.age.trans h.age, g.lnk.trans h.lnk, g.rcu.trans h.rcu, g.fns.trans h.fns⟩

theorem LaserKept.raisePort (s : State) (n code : Nat) : LaserKept s (s.raisePort n code) :=
  ⟨State.raisePort_mem .., State.raisePort_age .., State.raisePort_lnk .., State.raisePort_rcu .., rfl⟩

theorem State.laserStep_kept (ok : Bool) (s : State) (n : Nat) : LaserKept s (s.laserStep ok n) := by
  have same : LaserKept s s := ⟨rfl, rfl, rfl, rfl, rfl⟩
  have entered : ∀ f, LaserKept s (s.modPort n f) := fun _ => ⟨rfl, rfl, rfl, rfl, rfl⟩
  unfold State.laserStep
  refine iteInduction (fun _ => ?_) fun _ => ?_
  · exact iteInduction (fun _ => entered _) fun _ => same
  · refine iteInduction (fun _ => (entered _).trans (LaserKept.raisePort ..)) fun _ => ?_
    exact iteInduction (fun _ => same) fun _ => entered _

theorem State.laserStep_port (ok : Bool) (s : State) (n : Nat) :
    (s.laserStep ok n).port n = (s.port n).underLaser ok s.age := by
  unfold State.laserStep Port.underLaser
  dsimp only
  split
  · split
    · rw [State.port_modPort_self]
    · rfl
  · split
    · rw [State.raisePort_port, State.port_modPort_self]
    · split
      · rfl
      · rw [State.port_modPort_self]

theorem State.laserStep_other (ok : Bool) (s : State) (n m : Nat) (h : m ≠ n) :
    (s.laserStep ok n).port m = s.port m ∧ (s.laserStep ok n).queue (qKey 0 (srcPort m)) = s.queue (qKey 0 (srcPort m)) := by
  have entered : ∀ f, (s.modPort n f).port m = s.port m := fun f => State.port_modPort_ne _ _ _ _ h
  have key : qKey 0 (srcPort m) ≠ qKey 0 (srcPort n) := by simp only [qKey, srcPort]; omega
  unfold State.laserStep
  dsimp only
  repeat' split
  · exact ⟨entered _, rfl⟩
  · exact ⟨rfl, rfl⟩
  · exact ⟨(State.raisePort_port_ne _ _ _ _ h).trans (entered _), State.queue_raise_ne _ _ _ _ _ _ _ key⟩
  · exact ⟨rfl, rfl⟩
  · exact ⟨entered _, rfl⟩

theorem State.laserStep_posted (s : State) (n : Nat) (h : (s.port n).state = .up) :
    Posted s (s.laserStep false n) (srcPort n) 2 0x4007 0 0 := by
  have eq : s.laserStep false n =
      (s.modPort n fun x => x.flush.enter s.age (if x.auto then .dark else .fault)).raisePort n 0x4007 := by
    simp [State.laserStep, h]
  rw [eq]
  exact State.modPort_raisePort_posted ..

/-- Every port of a reading's ports acts once. -/
theorem State.foldl_laserStep (ok : Bool) (l : List Nat) (hl : l.Nodup) (s : State) :
    LaserKept s (l.foldl (State.laserStep ok) s) ∧
      (∀ m, (l.foldl (State.laserStep ok) s).port m = if m ∈ l then (s.port m).underLaser ok s.age else s.port m) ∧
      (∀ m ∉ l, (l.foldl (State.laserStep ok) s).queue (qKey 0 (srcPort m)) = s.queue (qKey 0 (srcPort m))) ∧
      ∀ m ∈ l, ok = false → (s.port m).state = .up → Posted s (l.foldl (State.laserStep ok) s) (srcPort m) 2 0x4007 0 0 := by
  induction l generalizing s with
  | nil => exact ⟨⟨rfl, rfl, rfl, rfl, rfl⟩, fun m => by simp, fun _ _ => rfl, fun m hm => by simp at hm⟩
  | cons n l ih =>
    obtain ⟨hn, hl⟩ := List.nodup_cons.mp hl
    obtain ⟨kept, port, queue, post⟩ := ih hl (s.laserStep ok n)
    have step := s.laserStep_kept ok n
    rw [List.foldl_cons]
    refine ⟨step.trans kept, fun m => ?_, fun m hm => ?_, fun m hm ho hu => ?_⟩
    · rw [port, step.age]
      by_cases h : m = n
      · subst h
        rw [if_neg hn, if_pos List.mem_cons_self, State.laserStep_port]
      · rw [(s.laserStep_other ok n m h).1]
        simp [h]
    · rw [List.mem_cons, not_or] at hm
      rw [queue m hm.2, (s.laserStep_other ok n m hm.1).2]
    · by_cases h : m = n
      · subst h
        subst ho
        exact (s.laserStep_posted m hu).of_queue (queue m hn)
      · obtain ⟨same, queued⟩ := s.laserStep_other ok n m h
        exact (post m ((List.mem_cons.mp hm).resolve_left h) ho (by rw [same]; exact hu)).of_before queued step.fns step.rcu

theorem portsOfLaser_nodup (i : Nat) (h : i < 16) : (portsOfLaser i).Nodup := by
  have all : ∀ i < 16, (portsOfLaser i).Nodup := by decide
  exact all i h
theorem mem_portsOfLaser (i n : Nat) (hi : i < 16) (hn : n < 64) : n ∈ portsOfLaser i ↔ laserOf n = i := by
  have all : ∀ i < 16, ∀ n < 64, n ∈ portsOfLaser i ↔ laserOf n = i := by decide
  exact all i hi n hn

/-- A reading of a laser input. -/
def State.readLaser (s : State) (i : Nat) (power : BitVec 12) : State :=
  let x : Laser := Map.get {} s.lnk.lasers i
  { s with lnk := { s.lnk with lasers := Map.set {} s.lnk.lasers i { x with power, ok := decide (800 ≤ power.toInt) } } }

theorem State.port_readLaser (s : State) (i : Nat) (power : BitVec 12) (n : Nat) : (s.readLaser i power).port n = s.port n := rfl

theorem exec_laserLightGain (s : State) (i : Nat) (power : BitVec 12) (h : i < 16) :
    exec (.laserLightGain i power) s =
      .next ((portsOfLaser i).foldl (State.laserStep (decide (800 ≤ power.toInt))) (s.readLaser i power)) := if_pos h

theorem State.linkDown_port (s : State) (n : Nat) :
    (s.linkDown n).port n = { (s.port n).flush.enter s.age (if (s.port n).auto then .train else .fault) with last := 0x4007 } := by
  unfold State.linkDown
  rw [State.raisePort_port, State.port_modPort_self]
theorem State.linkDown_posted (s : State) (n : Nat) : Posted s (s.linkDown n) (srcPort n) 2 0x4007 0 0 :=
  State.modPort_raisePort_posted ..
theorem State.linkDown_mem (s : State) (n : Nat) : (s.linkDown n).mem = s.mem := State.raisePort_mem ..

theorem lightBringsPortsUpAndDown : Claims.LightBringsPortsUpAndDown := by
  intro s i power hi
  obtain ⟨kept, port, -, post⟩ := State.foldl_laserStep (decide (800 ≤ power.toInt)) _ (portsOfLaser_nodup i hi) (s.readLaser i power)
  have run := exec_laserLightGain s i power hi
  generalize (portsOfLaser i).foldl _ (s.readLaser i power) = t at kept port post run
  have laser : (Map.get ({} : Laser) t.lnk.lasers i).power = power ∧
      (Map.get ({} : Laser) t.lnk.lasers i).ok = decide (800 ≤ power.toInt) := by
    rw [kept.lnk, State.readLaser]
    dsimp only
    rw [Map.get_set_self]
    exact ⟨rfl, rfl⟩
  have inOrder := fun n hn => mem_portsOfLaser i n hi hn
  have mem : SameMemory s t := SameMemory.of_mem kept.mem
  refine ⟨fun h => ?_, fun h => ?_, fun n hn h => ?_, fun n hn h => ?_⟩
  · refine ⟨t, run, mem, laser.1, laser.2.trans (decide_eq_true h), fun n hn => ?_⟩
    rw [port, decide_eq_true h]
    simp only [inOrder n hn, Port.underLaser, if_true]
    by_cases hl : laserOf n = i
    · by_cases hd : (s.port n).state = .dark
      · simp only [hl, State.port_readLaser, hd, and_self, if_true, Port.enter_state]
      · simp only [hl, State.port_readLaser, hd, and_false, if_true, if_false]
    · simp only [hl, State.port_readLaser, false_and, if_false]
  · have dim := decide_eq_false (Int.not_le.mpr h)
    refine ⟨t, run, mem, laser.1, laser.2.trans dim, fun n hn => ⟨fun h => ?_, fun hl h => ?_, fun hl h => ?_⟩⟩
    · rw [port, dim, State.port_readLaser]
      by_cases hl : laserOf n = i
      · rw [if_pos ((inOrder n hn).mpr hl), Port.underLaser]
        rcases h with h | h | h | h
        · exact absurd hl h
        all_goals simp [h]
      · rw [if_neg fun h => hl ((inOrder n hn).mp h)]
    · rw [port, dim, State.port_readLaser, if_pos ((inOrder n hn).mpr hl), Port.underLaser]
      rcases h with h | h | h
      all_goals simp [h]
    · have gone := post n ((inOrder n hn).mpr hl) dim h
      refine ⟨?_, ?_, gone.of_before rfl rfl rfl⟩
      · rw [port, dim, State.port_readLaser, if_pos ((inOrder n hn).mpr hl), Port.underLaser, if_neg (by simp), if_pos h]
        rfl
      · rw [port, dim, State.port_readLaser, if_pos ((inOrder n hn).mpr hl), Port.underLaser, if_neg (by simp), if_pos h]
  · have run : exec (.lightLoss n) s = _ := if_pos hn
    rw [if_neg h] at run
    exact ⟨_, run, OnlyPort.modPort .., State.port_modPort_self ..⟩
  · have run : exec (.lightLoss n) s = _ := if_pos hn
    rw [if_pos h] at run
    refine ⟨_, run, SameMemory.of_mem (State.linkDown_mem ..), ?_⟩
    have port := (s.modPort n fun x => { x with light := false }).linkDown_port n
    rw [State.port_modPort_self] at port
    have post := (s.modPort n fun x => { x with light := false }).linkDown_posted n
    rw [port]
    exact ⟨rfl, rfl, rfl, rfl, post.of_before rfl rfl rfl⟩

/-- Settles O36. -/
theorem portsFollowControlAndLight : Obligations.PortsFollowControlAndLight := ⟨portsComeUpInOrder, lightBringsPortsUpAndDown⟩

/-! ### Frames that leave (R261 to R265) -/

theorem length_padTo (n : Nat) (l : List Byte) : (padTo n l).length = n := by
  simp only [padTo, rep, List.length_append, List.length_take, List.length_replicate]
  omega
theorem length_blockHeader (a b c d : Nat) : (blockHeader a b c d).length = 4 := by
  simp only [blockHeader, List.length_append, length_leBytes, List.length_cons, List.length_nil]
theorem length_fillBlock : fillBlock.length = 132 := by
  simp only [fillBlock, List.length_append, length_blockHeader, rep, List.length_replicate]
theorem PktBlock.length_wire (b : PktBlock) : b.wire.length = 132 := by
  simp only [PktBlock.wire, List.length_append, length_blockHeader, length_leBytes, length_padTo]
theorem length_circBlock (x : Nat) (poison : Bool) (data : Option (List Byte)) : (circBlock x poison data).length = 132 := by
  cases data with
  | none => simp [circBlock, length_blockHeader, rep]
  | some d => cases poison <;> simp [circBlock, length_blockHeader, length_padTo, rep]

theorem crc32cBit_lt (c : Nat) (h : c < 2 ^ 32) : crc32cBit c < 2 ^ 32 := by
  unfold crc32cBit
  split
  · exact Nat.xor_lt_two_pow (by omega) (by norm_num)
  · omega
theorem crc32c_lt (l : List Byte) : crc32c l < 2 ^ 32 := by
  have bytes : l.foldl (fun c b => (List.range 8).foldl (fun c _ => crc32cBit c) (c ^^^ b.toNat)) 0xffffffff < 2 ^ 32 :=
    foldl_inv (· < 2 ^ 32) (fun c b hc => foldl_inv (· < 2 ^ 32) (fun c _ h => crc32cBit_lt c h) _ _
      (Nat.xor_lt_two_pow hc (b.isLt.trans (by norm_num)))) _ _ (by norm_num)
  exact Nat.xor_lt_two_pow bytes (by norm_num)

theorem leAt_leBytes (a b : List Byte) (n x i : Nat) (h : a.length = i) : leAt (a ++ (leBytes n x ++ b)) i n = x % 2 ^ (8 * n) := by
  have fits : (leBytes n x ++ b).take n = leBytes n x := by
    rw [List.take_append_of_le_length (by rw [length_leBytes]), List.take_of_length_le (by rw [length_leBytes])]
  rw [leAt, ← h, List.drop_left, fits, leNat_leBytes]

/-- MARK (R263). -/
def frameMark : List Byte := ((List.range 8).map fun _ => [0xc3#8, 0x5a#8]).flatten
/-- The frame header before its FCRC (R263). -/
def State.headerBody (s : State) (n : Nat) : List Byte :=
  let x := s.port n
  frameMark ++ leBytes 6 x.frame ++
    leBytes 2 (s.lnk.dev % 1024 + n * 1024) ++ leBytes 2 x.expect ++
    leBytes 2 (match x.nak with | some q => q % 4096 + 4096 | none => 0) ++
    leBytes 2 x.vc0.freed ++ leBytes 2 x.vc1.freed ++ leBytes 2 x.vc2.freed ++
    leBytes 2 (b2n (!x.light) + 2 * b2n (x.state = .train)) ++ rep 76 0#8

theorem State.frameHeader_eq (s : State) (n : Nat) : s.frameHeader n = s.headerBody n ++ leBytes 4 (crc32c (s.headerBody n)) := rfl
theorem length_frameMark : frameMark.length = 16 := rfl
theorem State.length_headerBody (s : State) (n : Nat) : (s.headerBody n).length = 112 := by
  simp only [State.headerBody, List.length_append, length_leBytes, length_frameMark, rep, List.length_replicate]
theorem State.length_frameHeader (s : State) (n : Nat) : (s.frameHeader n).length = 116 := by
  rw [State.frameHeader_eq, List.length_append, State.length_headerBody, length_leBytes]

theorem State.goodHeader_frameHeader (s : State) (n : Nat) : goodHeader (s.frameHeader n) = true := by
  have mark : (s.frameHeader n).take 16 = frameMark := by
    rw [State.frameHeader_eq]
    simp only [State.headerBody, List.append_assoc]
    rw [← length_frameMark, List.take_left]
  have crc : leAt (s.frameHeader n) 112 4 = crc32c (s.headerBody n) := by
    have h := leAt_leBytes (s.headerBody n) [] 4 (crc32c (s.headerBody n)) 112 (s.length_headerBody n)
    rw [List.append_nil] at h
    rw [State.frameHeader_eq, h]
    exact Nat.mod_eq_of_lt (crc32c_lt _)
  have body : (s.frameHeader n).take 112 = s.headerBody n := by
    rw [State.frameHeader_eq, ← s.length_headerBody n, List.take_left]
  rw [goodHeader, mark, crc, body, Bool.and_eq_true]
  exact ⟨beq_self_eq_true _, beq_self_eq_true _⟩

theorem State.leAt_frameHeader (s : State) (n : Nat) (l : List Byte) :
    leAt (s.frameHeader n ++ l) 16 6 = (s.port n).frame % 2 ^ 48 ∧ leAt (s.frameHeader n ++ l) 24 2 = (s.port n).expect % 2 ^ 16 := by
  have split : ∃ rest, s.frameHeader n ++ l = frameMark ++ (leBytes 6 (s.port n).frame ++
      (leBytes 2 (s.lnk.dev % 1024 + n * 1024) ++ (leBytes 2 (s.port n).expect ++ rest))) := by
    rw [State.frameHeader_eq]
    simp only [State.headerBody, List.append_assoc]
    exact ⟨_, rfl⟩
  obtain ⟨rest, h⟩ := split
  refine ⟨by rw [h]; exact leAt_leBytes _ _ 6 _ 16 rfl, ?_⟩
  rw [h, ← List.append_assoc, ← List.append_assoc]
  exact leAt_leBytes _ _ 2 _ 24 (by simp only [List.length_append, length_leBytes, length_frameMark])

/-- What a port's transmitter leaves alone (R272): memory, what has left the device, and the number of the frame. -/
structure Sending (n : Nat) (s t : State) : Prop where
  mem : t.mem = s.mem
  out : t.out = s.out
  frame : (t.port n).frame = (s.port n).frame

theorem Sending.refl (n : Nat) (s : State) : Sending n s s := ⟨rfl, rfl, rfl⟩
theorem Sending.trans {n : Nat} {s t u : State} (h : Sending n s t) (g : Sending n t u) : Sending n s u :=
  ⟨g.mem.trans h.mem, g.out.trans h.out, g.frame.trans h.frame⟩
theorem Sending.modPort (n : Nat) (s : State) (f : Port → Port) (hf : ∀ x, (f x).frame = x.frame) : Sending n s (s.modPort n f) :=
  ⟨rfl, rfl, by rw [State.port_modPort_self, hf]⟩
theorem Port.modVc_frame (x : Port) (v : Nat) (f : Vc → Vc) : (x.modVc v f).frame = x.frame := by
  unfold Port.modVc
  split <;> rfl

theorem Sending.nextPacket (n : Nat) (s : State) (vc : Nat) : Sending n s (s.nextPacket n vc) := by
  have counted : ∀ t input, Sending n t (State.countTurn t input) := fun t input => by
    unfold State.countTurn
    split <;> exact ⟨rfl, rfl, rfl⟩
  unfold State.nextPacket
  dsimp only
  split
  · exact .refl n s
  · split
    · exact .refl n s
    · split
      · exact (Sending.modPort n s _ (by intro x; exact Port.modVc_frame ..)).trans (counted ..)
      · exact Sending.modPort n s _ (by intro x; exact Port.modVc_frame ..)

theorem Sending.sendBlock (n : Nat) (s : State) (vc : Nat) : Sending n s (s.sendBlock n vc).1 := by
  unfold State.sendBlock
  dsimp only
  split
  · exact .refl n s
  · split
    · exact .nextPacket n s vc
    · dsimp only
      exact (Sending.nextPacket n s vc).trans (Sending.modPort n _ _ (by intro x; exact Port.modVc_frame ..))

theorem Sending.nextPkt (n : Nat) (s : State) : Sending n s (s.nextPkt n).1 := by
  have told : Sending n s (if (s.port n).starved then s.modPort n fun x => { x with stalled := true } else s) := by
    split
    · exact Sending.modPort n s _ (by intro x; rfl)
    · exact .refl n s
  unfold State.nextPkt
  dsimp only
  generalize (if (s.port n).starved then s.modPort n fun x => { x with stalled := true } else s) = t at told
  split
  · dsimp only
    exact told.trans (Sending.modPort n t _ (by intro x; rfl))
  · have one := Sending.sendBlock n t 1
    split
    · next h => rw [h] at one; exact told.trans one
    · next u h =>
      rw [h] at one
      have zero := Sending.sendBlock n u 0
      split
      · next h => rw [h] at zero; exact told.trans (one.trans zero)
      · next v h => rw [h] at zero; exact told.trans (one.trans (zero.trans (.sendBlock n v 2)))

theorem Sending.freePosition (n : Nat) (s : State) : Sending n s (s.freePosition n).1 ∧ (s.freePosition n).2.length = 132 := by
  unfold State.freePosition
  dsimp only
  split
  · split
    · dsimp only
      exact ⟨Sending.modPort n s _ (by intro x; rfl), length_padTo ..⟩
    · exact ⟨.refl n s, length_fillBlock⟩
  · split
    · have pkt := Sending.nextPkt n s
      split
      · next h => rw [h] at pkt; exact ⟨pkt.trans (Sending.modPort n _ _ (by intro x; rfl)), PktBlock.length_wire _⟩
      · next h => rw [h] at pkt; exact ⟨pkt, length_fillBlock⟩
    · exact ⟨.refl n s, length_fillBlock⟩

theorem Sending.sendPosition (n : Nat) (s : State) (x : Nat) :
    Sending n s (s.sendPosition n x).1 ∧ (s.sendPosition n x).2.length = 132 := by
  unfold State.sendPosition
  dsimp only
  split
  · dsimp only
    exact ⟨Sending.modPort n s _ (by intro x; rfl), length_circBlock ..⟩
  · exact Sending.freePosition n s

/-- The block positions of a list of send beats, the last one first (R272). -/
def State.sendPositions (s : State) (n from_ : Nat) (l : List Nat) (bs : List (List Byte)) : State × List (List Byte) :=
  l.foldl (fun (a : State × List (List Byte)) i =>
    let (s, b) := a.1.sendPosition n (from_ + i)
    (s, b :: a.2)) (s, bs)

theorem Sending.sendPositions (n from_ : Nat) (l : List Nat) (s : State) (bs : List (List Byte)) (hbs : ∀ b ∈ bs, b.length = 132) :
    Sending n s (s.sendPositions n from_ l bs).1 ∧ (s.sendPositions n from_ l bs).2.length = l.length + bs.length ∧
      ∀ b ∈ (s.sendPositions n from_ l bs).2, b.length = 132 := by
  induction l generalizing s bs with
  | nil => exact ⟨.refl n s, (Nat.zero_add _).symm, hbs⟩
  | cons i l ih =>
    obtain ⟨step, len⟩ := Sending.sendPosition n s (from_ + i)
    obtain ⟨kept, count, whole⟩ := ih (s.sendPosition n (from_ + i)).1 ((s.sendPosition n (from_ + i)).2 :: bs)
      (fun b hb => (List.mem_cons.mp hb).elim (fun h => by rw [h]; exact len) (hbs b))
    refine ⟨step.trans kept, count.trans ?_, whole⟩
    simp only [List.length_cons]
    omega

theorem State.carry_frame (s : State) (n : Nat) (w : Wire) :
    (s.carry n w).mem = s.mem ∧ (s.carry n w).out = s.out ∧ ((s.carry n w).port n).frame = (s.port n).frame := by
  unfold State.carry
  split
  · next m _ =>
    refine ⟨rfl, rfl, ?_⟩
    rw [State.port_modPort]
    split
    · next h => rw [h]
    · rfl
  · exact ⟨rfl, rfl, rfl⟩

theorem length_flatten_blocks (bs : List (List Byte)) (h : ∀ b ∈ bs, b.length = 132) : bs.flatten.length = 132 * bs.length := by
  induction bs with
  | nil => rfl
  | cons b bs ih =>
    rw [List.flatten_cons, List.length_append, ih fun b hb => h b (List.mem_cons_of_mem _ hb), h b List.mem_cons_self,
      List.length_cons]
    omega

/-- The bytes of the frame that a port sends next, and the state behind its blocks (R261). -/
def State.frameOut (s : State) (n : Nat) : State × List Byte :=
  let r := s.sendPositions n (s.port n).txBeat (List.range 77) []
  (r.1, s.frameHeader n ++ r.2.reverse.flatten)

theorem exec_frameSend (s : State) (n : Nat) (hn : n < 64) (h : (s.port n).state.sends = true) (ht : (s.port n).state ≠ .train) :
    exec (.frameSend n) s = .next ((((s.frameOut n).1.modPort n fun y =>
      { y with frame := (y.frame + 1) % 2 ^ 48, nak := none, txBeat := min s.now ((s.port n).txBeat + 77) }).carry n
        (.frame (s.frameOut n).2)).emit (.frame n (s.frameOut n).2 (frameLine (s.frameOut n).2))) := by
  have run : exec (.frameSend n) s = _ := if_pos hn
  rw [if_neg (by simp [h]), if_neg ht] at run
  simp only [State.frameOut, State.sendPositions]
  generalize List.range 77 = l at run ⊢
  exact run

theorem frameSend_whole (s : State) (n : Nat) (hn : n < 64)
    (h : (s.port n).state = .lock ∨ (s.port n).state = .ident ∨ (s.port n).state = .up) :
    ∃ (t : State) (msg : List Byte), exec (.frameSend n) s = .next t ∧ SameMemory s t ∧
      t.out = s.out ++ [.frame n msg (frameLine msg)] ∧ msg.length = 10280 ∧
      goodHeader (msg.take 116) = true ∧ leAt msg 16 6 = (s.port n).frame % 2 ^ 48 ∧
      leAt msg 24 2 = (s.port n).expect % 2 ^ 16 ∧ (t.port n).frame = ((s.port n).frame + 1) % 2 ^ 48 := by
  have run := exec_frameSend s n hn (by rcases h with h | h | h <;> rw [h] <;> rfl) (by rcases h with h | h | h <;> rw [h] <;> simp)
  obtain ⟨sent, count, whole⟩ := Sending.sendPositions n (s.port n).txBeat (List.range 77) s [] (by simp)
  have sent : Sending n s (s.frameOut n).1 := by rw [State.frameOut]; dsimp only; exact sent
  have msg : (s.frameOut n).2 = s.frameHeader n ++ (s.sendPositions n (s.port n).txBeat (List.range 77) []).2.reverse.flatten := by
    rw [State.frameOut]
  generalize (s.sendPositions n (s.port n).txBeat (List.range 77) []).2 = bs at msg count whole
  have len : bs.reverse.flatten.length = 10164 := by
    rw [length_flatten_blocks _ fun b hb => whole b (List.mem_reverse.mp hb), List.length_reverse, count]
    rfl
  obtain ⟨frame, expect⟩ := s.leAt_frameHeader n bs.reverse.flatten
  obtain ⟨mem, out, number⟩ := ((s.frameOut n).1.modPort n fun y =>
    { y with frame := (y.frame + 1) % 2 ^ 48, nak := none, txBeat := min s.now ((s.port n).txBeat + 77) }).carry_frame n
      (.frame (s.frameOut n).2)
  rw [State.port_modPort_self] at number
  rw [State.modPort_mem] at mem
  rw [State.modPort_out] at out
  rw [msg] at run mem out number
  generalize State.carry _ n _ = c at run mem out number
  refine ⟨_, _, run, SameMemory.of_mem (mem.trans sent.mem), ?_, ?_, ?_, frame, expect, ?_⟩
  · rw [State.emit_out, out, sent.out]
  · rw [List.length_append, State.length_frameHeader, len]
  · rw [← s.length_frameHeader n, List.take_left]
    exact s.goodHeader_frameHeader n
  · exact number.trans (by rw [sent.frame])

/-! ### Frames that arrive (R264, R266, R280, R283, R285) -/

/-- A port is as it was, as far as its link's state is concerned. -/
structure SameLink (x y : Port) : Prop where
  uncorr : y.cUncorr = x.cUncorr
  light : y.light = x.light
  state : y.state = x.state
  bad : y.badFrames = x.badFrames

/-- What the blocks of a frame do to the port that takes them (R266): it stays as it is, or goes to FAULT; and memory stays. -/
structure Taking (n : Nat) (s t : State) : Prop where
  mem : t.mem = s.mem
  uncorr : (t.port n).cUncorr = (s.port n).cUncorr
  light : (t.port n).light = (s.port n).light
  runs : ((t.port n).state = (s.port n).state ∧ (t.port n).badFrames = (s.port n).badFrames) ∨ (t.port n).state = .fault

theorem Taking.refl (n : Nat) (s : State) : Taking n s s := ⟨rfl, rfl, rfl, .inl ⟨rfl, rfl⟩⟩
theorem Taking.trans {n : Nat} {s t u : State} (h : Taking n s t) (g : Taking n t u) : Taking n s u := by
  refine ⟨g.mem.trans h.mem, g.uncorr.trans h.uncorr, g.light.trans h.light, ?_⟩
  rcases g.runs with ⟨state, bad⟩ | fault
  · rcases h.runs with ⟨state', bad'⟩ | fault
    · exact .inl ⟨state.trans state', bad.trans bad'⟩
    · exact .inr (state.trans fault)
  · exact .inr fault

theorem Taking.modPort (n : Nat) (s : State) (m : Nat) (f : Port → Port) (hf : ∀ x, SameLink x (f x)) : Taking n s (s.modPort m f) := by
  have port := s.port_modPort m n f
  by_cases h : n = m
  · subst h
    obtain ⟨uncorr, light, state, bad⟩ := hf (s.port n)
    rw [if_pos rfl] at port
    exact ⟨rfl, by rw [port, uncorr], by rw [port, light], .inl ⟨by rw [port, state], by rw [port, bad]⟩⟩
  · rw [if_neg h] at port
    exact ⟨rfl, by rw [port], by rw [port], .inl ⟨by rw [port], by rw [port]⟩⟩

theorem Taking.raisePort (n : Nat) (s : State) (m code : Nat) : Taking n s (s.raisePort m code) := by
  have step := Taking.modPort n s m (fun x => { x with last := code }) fun x => ⟨rfl, rfl, rfl, rfl⟩
  refine ⟨State.raisePort_mem .., ?_, ?_, ?_⟩
  · exact step.uncorr
  · exact step.light
  · exact step.runs

theorem Taking.portFault (n : Nat) (s : State) (m code d : Nat) : Taking n s (s.portFault m code d) := by
  by_cases h : n = m
  · subst h
    have port := s.portFault_port n code d
    exact ⟨State.portFault_mem .., by rw [port]; rfl, by rw [port]; rfl, .inr (by rw [port]; rfl)⟩
  · have port : (s.portFault m code d).port n = s.port n := by
      unfold State.portFault
      rw [State.port_raise, State.port_modPort_ne _ _ _ _ h]
    exact ⟨State.portFault_mem .., by rw [port], by rw [port], .inl ⟨by rw [port], by rw [port]⟩⟩

theorem Taking.foldl {α : Type} (n : Nat) (f : State → α → State) (hf : ∀ s a, Taking n s (f s a)) (l : List α) (s : State) :
    Taking n s (l.foldl f s) := by
  induction l generalizing s with
  | nil => exact .refl n s
  | cons a l ih => exact (hf s a).trans (ih (f s a))

theorem Taking.meetWord (n : Nat) (s : State) (m w : Nat) : Taking n s (s.meetWord m w) := by
  unfold State.meetWord
  split
  · exact .portFault ..
  · exact .refl ..
theorem Taking.meetCircuit (n : Nat) (s : State) (m e : Nat) : Taking n s (s.meetCircuit m e) :=
  (Taking.meetWord n s m (2 * e)).trans (.meetWord ..)
theorem Taking.meetRoute (n : Nat) (s : State) (d : Nat) : Taking n s (s.meetRoute d) := by
  unfold State.meetRoute
  split
  · exact Taking.foldl n _ (fun t m => .meetWord n t m _) _ s
  · exact .refl ..

theorem SameLink.modVc (x : Port) (v : Nat) (f : Vc → Vc) : SameLink x (x.modVc v f) := by
  unfold Port.modVc
  split <;> exact ⟨rfl, rfl, rfl, rfl⟩
theorem SameLink.trans {x y z : Port} (h : SameLink x y) (g : SameLink y z) : SameLink x z :=
  ⟨g.uncorr.trans h.uncorr, g.light.trans h.light, g.state.trans h.state, g.bad.trans h.bad⟩

theorem Taking.modVc (n : Nat) (s : State) (m v : Nat) (f : Vc → Vc) : Taking n s (s.modPort m fun x => x.modVc v f) :=
  .modPort n s m _ fun _ => .modVc ..
theorem Taking.askAgain (n : Nat) (s : State) (m : Nat) : Taking n s (s.modPort m (·.askAgain)) :=
  .modPort n s m _ fun _ => ⟨rfl, rfl, rfl, rfl⟩

theorem Taking.recvCirc (n : Nat) (s : State) (m stamp : Nat) (poison void : Bool) (data : List Byte) :
    Taking n s (s.recvCirc m stamp poison void data) := by
  unfold State.recvCirc
  dsimp only
  split
  · exact .raisePort ..
  · refine iteInduction (fun _ => .meetCircuit ..) fun _ => (Taking.meetCircuit ..).trans (Taking.modPort _ _ _ _ ?_)
    intro x
    exact ⟨rfl, rfl, rfl, rfl⟩

theorem Taking.recvPacket (n : Nat) (s : State) (m vc blocks : Nat) (k : Packet) : Taking n s (s.recvPacket m vc blocks k) := by
  have freed : Taking n s (s.modPort m (·.free vc blocks)) := .modVc ..
  unfold State.recvPacket
  dsimp only
  split
  · exact freed.trans (.raisePort ..)
  · split
    · exact .modVc ..
    · have met := freed.trans (.meetRoute n _ k.dst)
      split
      · exact met.trans (.raisePort ..)
      · exact met.trans (.modVc ..)

theorem Taking.recvPkt (n : Nat) (s : State) (m word : Nat) (bytes : List Byte) : Taking n s (s.recvPkt m word bytes) := by
  unfold State.recvPkt
  dsimp only
  split
  · split
    · exact .raisePort ..
    · exact .refl ..
  · split
    · split
      · exact .refl ..
      · exact .askAgain ..
    · refine iteInduction (fun _ => Taking.trans (t := State.modPort ..) ?_ (.recvPacket ..)) fun _ => ?_
      all_goals
        refine Taking.modPort _ _ _ _ ?_
        intro x
        have freed : ∀ c : Prop, [Decidable c] → SameLink x (if c then x.free (bits word 12 2) ((s.port m).vc (bits word 12 2)).partBlocks else x) :=
          fun c _ => iteInduction (fun _ => SameLink.modVc ..) fun _ => ⟨rfl, rfl, rfl, rfl⟩
        have kept := fun f => (freed (bit word 14 = true)).trans (.modVc _ (bits word 12 2) f)
        exact ⟨(kept _).uncorr, (kept _).light, (kept _).state, (kept _).bad⟩

theorem Taking.recvBlock (n : Nat) (s : State) (m : Nat) (failed : List Nat) (i : Nat) (b : List Byte) :
    Taking n s (s.recvBlock m failed i b) := by
  unfold State.recvBlock
  dsimp only
  split
  · exact (Taking.askAgain ..).trans (.raisePort ..)
  · split
    · exact .refl ..
    · split
      · split
        · exact .recvCirc ..
        · exact (Taking.recvCirc ..).trans (.raisePort ..)
      · split
        · exact .recvPkt ..
        · exact (Taking.askAgain ..).trans (.raisePort ..)

theorem Taking.recvNak (n : Nat) (s : State) (m q : Nat) : Taking n s (s.recvNak m q) := by
  have asked : ∀ k (l : Port → List PktBlock), Taking n s (s.modPort m fun x =>
      { x with nakSeq := q, nakCount := k, cNaks := min (x.cNaks + 1) 255, resend := l x }) := fun k l =>
    .modPort n s m _ fun _ => ⟨rfl, rfl, rfl, rfl⟩
  unfold State.recvNak
  dsimp only
  exact iteInduction (fun _ => (asked _ fun x => x.replay.dropWhile (·.seq != q)).trans (.portFault ..))
    fun _ => asked _ fun x => x.replay.dropWhile (·.seq != q)

theorem SameLink.ack (x : Port) (now a : Nat) : SameLink x (x.ack now a) := by
  unfold Port.ack
  split
  · exact ⟨rfl, rfl, rfl, rfl⟩
  · dsimp only
    split <;> exact ⟨rfl, rfl, rfl, rfl⟩

theorem Taking.recvHeader (n : Nat) (s : State) (m : Nat) (h : List Byte) : Taking n s (s.recvHeader m h) := by
  unfold State.recvHeader
  dsimp only
  refine iteInduction (fun _ => Taking.trans (t := State.modPort ..) ?_ (.recvNak ..)) fun _ => ?_
  all_goals
    refine Taking.modPort _ _ _ _ ?_
    intro x
    have kept := SameLink.ack x s.age (bits (leAt h 24 2) 0 12)
    exact ⟨kept.uncorr, kept.light, kept.state, kept.bad⟩

theorem Taking.recvBlocks (n : Nat) (s : State) (m : Nat) (failed : List Nat) (i : Nat) (l : List Byte) :
    Taking n s (s.recvBlocks m failed i l) := by
  unfold State.recvBlocks
  dsimp only
  generalize List.range i = ks
  induction ks generalizing s l with
  | nil => exact .refl n s
  | cons k ks ih =>
    rw [List.foldl_cons]
    dsimp only
    split
    · exact (Taking.recvBlock ..).trans (ih ..)
    · exact ih ..

/-- A port whose frame has come in (R264): its light, its counters and its bad frames in a row. -/
def Port.frameIn (f : Decoded) (x : Port) : Port :=
  let h := f.msg.take 116
  let ok := goodHeader h
  { x with
    light := true,
    cUncorr := min (x.cUncorr + f.failed.length) 255, cCorr := x.cCorr + f.corrected,
    peerFault := if ok then bit (leAt h 34 2) 0 else x.peerFault,
    peerTraining := if ok then bit (leAt h 34 2) 1 else x.peerTraining,
    badFrames := if ok then 0 else x.badFrames + 1,
    good := if ok && f.failed.isEmpty then x.good + 1 else 0 }

theorem State.takeFrame_of_silent (s : State) (n : Nat) (f : Decoded) (h : (s.port n).state.sends = false) : s.takeFrame n f = s := by
  unfold State.takeFrame
  dsimp only
  rw [h]
  rfl
theorem State.takeFrame_of_waiting (s : State) (n : Nat) (f : Decoded) (h : (s.port n).state = .train ∨ (s.port n).state = .ident) :
    s.takeFrame n f = s.modPort n (Port.frameIn f) := by
  unfold State.takeFrame
  dsimp only
  rcases h with h | h <;> rw [h] <;> rfl
theorem State.takeFrame_of_lock (s : State) (n : Nat) (f : Decoded) (h : (s.port n).state = .lock) :
    s.takeFrame n f = if 64 ≤ ((s.modPort n (Port.frameIn f)).port n).good then
      (s.modPort n (Port.frameIn f)).modPort n (·.enter s.age .ident) else s.modPort n (Port.frameIn f) := by
  unfold State.takeFrame
  dsimp only
  rw [h]
  rfl
theorem State.takeFrame_of_up (s : State) (n : Nat) (f : Decoded) (h : (s.port n).state = .up) :
    s.takeFrame n f = if 4 ≤ ((s.modPort n (Port.frameIn f)).port n).badFrames then (s.modPort n (Port.frameIn f)).linkDown n
      else
        let s1 := s.modPort n (Port.frameIn f)
        let s2 := if goodHeader (f.msg.take 116) then s1.recvHeader n (f.msg.take 116) else s1
        let told := (s2.port n).state == .up &&
          (List.range 77).any fun i => blockFails f.failed i (slice f.msg (116 + 132 * i) 132)
        (if f.failed.isEmpty || told then s2 else s2.raisePort n 0x4008).recvBlocks n f.failed 77 (f.msg.drop 116) := by
  unfold State.takeFrame
  dsimp only
  rw [h]
  rfl

theorem exec_frameReceive (s u : State) (n : Nat) (f : RxFrame) (m : List Byte) (hn : n < 64)
    (h : s.arrives n Wire.frame? f.msg = (u, some m)) :
    exec (.frameReceive n f) s = .next (u.takeFrame n (decodeFrame { f with msg := m })) := by
  have run : exec (.frameReceive n f) s = _ := if_pos hn
  rw [h] at run
  exact run

theorem State.arrives_mem {α : Type} {s u : State} {n : Nat} {pick : Wire → Option α} {a : α} {r : Option α}
    (h : s.arrives n pick a = (u, r)) : u.mem = s.mem := by
  have only := (s.arrives_frame n pick a).1.mem
  rw [h] at only
  exact only

/-- Settles O37: every block has 132 bytes, and what a block does to its own port is `Taking`. -/
theorem framesAreWholeAndCounted : Obligations.FramesAreWholeAndCounted := by
  intro s n hn
  refine ⟨frameSend_whole s n hn, fun h => ?_, fun h => ?_, fun f u => ⟨fun ha => ?_, fun m ha => ?_⟩⟩
  · have run : exec (.frameSend n) s = _ := if_pos hn
    rw [if_neg (by rw [h]; simp [PortState.sends]), if_pos h] at run
    exact run
  · have run : exec (.frameSend n) s = _ := if_pos hn
    rw [if_pos (by rcases h with h | h | h <;> rw [h] <;> rfl)] at run
    exact run
  · have run : exec (.frameReceive n f) s = _ := if_pos hn
    rw [ha] at run
    exact run
  · have run := exec_frameReceive s u n f m hn ha
    generalize decodeFrame { f with msg := m } = d at run
    have mem := State.arrives_mem ha
    have port : ∀ g, ((u.modPort n g).port n) = g (u.port n) := fun g => State.port_modPort_self ..
    refine ⟨fun h => ?_, fun h => ?_, fun h ok whole many => ?_, fun h ok whole few => ?_, fun h bad => ?_, fun h bad many => ?_,
      fun h good => ?_⟩
    · rw [run, State.takeFrame_of_silent]
      rcases h with h | h | h <;> rw [h] <;> rfl
    · rw [State.takeFrame_of_waiting u n d h] at run
      refine ⟨_, run, ⟨SameMemory.of_mem mem, ?_, ?_⟩, ?_⟩ <;> rw [port] <;> rfl
    · rw [State.takeFrame_of_lock u n d h, if_pos (by rw [port]; simpa [Port.frameIn, ok, whole] using many)] at run
      refine ⟨_, run, ⟨SameMemory.of_mem mem, ?_, ?_⟩, ?_⟩ <;> rw [State.port_modPort_self, port] <;> rfl
    · rw [State.takeFrame_of_lock u n d h, if_neg (by rw [port]; simp [Port.frameIn, ok, whole]; omega)] at run
      refine ⟨_, run, ⟨SameMemory.of_mem mem, ?_, ?_⟩, ?_, ?_⟩ <;> rw [port]
      · rfl
      · rfl
      · exact h
      · simp [Port.frameIn, ok, whole]
    · have none : (Port.frameIn d (u.port n)).good = 0 := by
        rcases bad with bad | bad <;> simp [Port.frameIn, bad]
      rw [State.takeFrame_of_lock u n d h, if_neg (by rw [port, none]; omega)] at run
      refine ⟨_, run, ⟨SameMemory.of_mem mem, ?_, ?_⟩, ?_, ?_⟩ <;> rw [port]
      · rfl
      · rfl
      · exact h
      · exact none
    · rw [State.takeFrame_of_up u n d h, if_pos (by rw [port]; simp [Port.frameIn, bad]; omega)] at run
      have down := (u.modPort n (Port.frameIn d)).linkDown_port n
      have post := (u.modPort n (Port.frameIn d)).linkDown_posted n
      rw [port] at down
      refine ⟨_, run, SameMemory.of_mem ((State.linkDown_mem ..).trans mem), ?_, ?_, post.of_before rfl rfl rfl⟩
      · rw [down]
        rfl
      · rw [down]
    · have few : (Port.frameIn d (u.port n)).badFrames < 4 := by
        show (if goodHeader (d.msg.take 116) then 0 else (u.port n).badFrames + 1) < 4
        rcases good with good | good
        · rw [if_pos good]
          omega
        · split <;> omega
      rw [State.takeFrame_of_up u n d h, if_neg (by rw [port]; omega)] at run
      dsimp only at run
      have head : Taking n (u.modPort n (Port.frameIn d)) (if goodHeader (d.msg.take 116) then
          (u.modPort n (Port.frameIn d)).recvHeader n (d.msg.take 116) else u.modPort n (Port.frameIn d)) :=
        iteInduction (fun _ => .recvHeader ..) fun _ => .refl ..
      generalize (if goodHeader (d.msg.take 116) then
          (u.modPort n (Port.frameIn d)).recvHeader n (d.msg.take 116) else u.modPort n (Port.frameIn d)) = v at run head
      generalize ((v.port n).state == .up && _) = told at run
      have coded : Taking n v (if d.failed.isEmpty || told then v else v.raisePort n 0x4008) :=
        iteInduction (fun _ => .refl ..) fun _ => .raisePort ..
      have taken := head.trans (coded.trans (.recvBlocks n _ n d.failed 77 (d.msg.drop 116)))
      refine ⟨_, run, ⟨SameMemory.of_mem (taken.mem.trans mem), ?_, ?_⟩, ?_⟩
      · rw [taken.uncorr, port]
        rfl
      · rw [taken.light, port]
        rfl
      · have runs := taken.runs
        rw [port] at runs
        exact runs.imp_left fun r => ⟨r.1.trans h, r.2⟩

end Sys2Proof.Machine
end

section
/-! PROOFS. The side channel (R275 to R282): LINK packets, waits, memory packets and telemetry. -/

namespace Sys2Proof.Machine

/-! ### LINK packets and waits (R275, R280, R281, R283) -/

/-- A LINK packet that leaves a port: its block waits there, and the fibre of a loopback port carries it (R267). -/
theorem State.sendLink_spec (s : State) (n ptype : Nat) (l : List Byte) (w : Wire) :
    (s.sendLink n ptype l w).mem = s.mem ∧
      ((s.sendLink n ptype l w).port n).linkq = (s.port n).linkq ++ [linkBlock ptype s.lnk.dev (s.port n).peerDev l] ∧
      ((s.sendLink n ptype l w).port n).identAt = (s.port n).identAt := by
  unfold State.sendLink State.carry
  split
  · next m _ =>
    refine ⟨rfl, ?_, ?_⟩
    all_goals
      rw [State.port_modPort]
      split
      · next h => rw [← h, State.port_modPort_self]
      · rw [State.port_modPort_self]
  · rw [State.port_modPort_self]
    exact ⟨rfl, rfl, rfl⟩

/-- A port comes UP with its side channel fresh (R283, R286). -/
theorem State.portUp_port (s : State) (n : Nat) : (s.portUp n).port n = { (s.port n).restart.enter s.age .up with
    delayValid := false, gotSync := none, txBeat := s.now, ackAt := s.age, suspended := s.deckRuns } := State.port_modPort_self ..

theorem State.portUp_only (s : State) (n : Nat) : OnlyPort n s (s.portUp n) := by
  unfold State.portUp
  exact OnlyPort.modPort ..

/-- What the arrival of an IDENT does (R283, R285). -/
def State.meetIdent (s : State) (n : Nat) (g : IdentFlit) : State :=
  if (s.port n).state ≠ .ident || !(s.port n).peerValid then s
  else if g.dev = (s.port n).peerDev && g.port = (s.port n).peerPort && g.grade = s.grade.code then s.portUp n
  else s.portFault n 0x400b

theorem exec_identReceive (s u : State) (n : Nat) (f g : IdentFlit) (hn : n < 64) (h : s.arrives n Wire.ident? f = (u, some g)) :
    exec (.identReceive n f) s = .next (u.meetIdent n g) := by
  have run : exec (.identReceive n f) s = _ := if_pos hn
  rw [h] at run
  exact run

theorem State.arrives_onlyPort {α : Type} {s u : State} {n : Nat} {pick : Wire → Option α} {a : α} {r : Option α}
    (h : s.arrives n pick a = (u, r)) : OnlyPort n s u := by
  have only := (s.arrives_frame n pick a).1
  rw [h] at only
  exact only

/-- A packet of a virtual channel that waited too long is gone (R281). -/
theorem exec_packetWaitLimit_vc0 (s : State) (n : Nat) (v : Vc) (hn : n < 64) (h : (s.port n).vc0.discardOld s.age = some v) :
    ∃ t : State, exec (.packetWaitLimit n) s = .next t ∧ SameMemory s t ∧ (t.port n).vc0 = v ∧
      (t.port n).vc1 = (s.port n).vc1 ∧ (t.port n).vc2 = (s.port n).vc2 ∧ Posted s t (srcPort n) 2 0x400a 0 0 := by
  have found : (List.range 3).find? (fun c => (((s.port n).vc c).discardOld s.age).isSome) = some 0 := by
    rw [show List.range 3 = [0, 1, 2] from rfl, List.find?_cons_of_pos]
    show ((s.port n).vc0.discardOld s.age).isSome = true
    rw [h]
    rfl
  have run : exec (.packetWaitLimit n) s = _ := if_pos hn
  rw [found] at run
  refine ⟨_, run, SameMemory.of_mem (State.raisePort_mem ..), ?_, ?_, ?_, State.modPort_raisePort_posted ..⟩
  all_goals rw [State.raisePort_port, State.port_modPort_self]
  · show ((s.port n).vc0.discardOld s.age).getD (s.port n).vc0 = v
    rw [h]
    rfl
  · rfl
  · rfl

/-- Settles O38. -/
theorem peersAreIdentifiedAndWatched : Obligations.PeersAreIdentifiedAndWatched := by
  intro s n hn me
  refine ⟨fun hst hat hfree => ?_, fun h => ?_, fun f g u ha => ⟨fun h => ?_, fun hst hv hd hp hg => ?_, fun hst hv h => ?_⟩,
    fun f u ha => ?_, fun hst hr hl => ?_, fun h => ?_, fun hb hl => ?_, fun e rest hq h => ?_⟩
  · have run : exec (.identSend n) s = _ := if_pos hn
    rw [if_pos (by simpa [hat, hfree] using hst)] at run
    obtain ⟨mem, linkq, at_⟩ := (s.modPort n fun x => { x with identAt := s.now / 4096 + 1 }).sendLink_spec n pIdent
      (identBytes me) (.ident me)
    rw [State.port_modPort_self] at linkq at_
    refine ⟨_, run, SameMemory.of_mem mem, at_, linkq, ?_⟩
    rw [State.emit_out, State.sendLink_out]
    rfl
  · have run : exec (.identSend n) s = _ := if_pos hn
    rw [if_neg (by
      simp only [Bool.and_eq_true, Bool.or_eq_true, decide_eq_true_eq, bne_iff_ne, not_and_or, not_or, not_not, Bool.not_eq_true]
      tauto)] at run
    exact run
  · rw [exec_identReceive s u n f g hn ha, State.meetIdent, if_pos (by simpa using h)]
  · have run := exec_identReceive s u n f g hn ha
    rw [State.meetIdent, if_neg (by simp [hst, hv]), if_pos (by simp [hd, hp, hg])] at run
    refine ⟨_, run, (State.arrives_onlyPort ha).trans (u.portUp_only n), ?_⟩
    rw [State.portUp_port]
    exact ⟨rfl, rfl, rfl, rfl, rfl, rfl, rfl⟩
  · have run := exec_identReceive s u n f g hn ha
    rw [State.meetIdent, if_neg (by simp [hst, hv]), if_neg (by simpa [imp_iff_not_or, or_assoc] using h)] at run
    refine ⟨_, run, SameMemory.of_mem ((State.portFault_mem ..).trans (State.arrives_mem ha)), ?_, ?_, u.portFault_posted n 0x400b 0⟩
    · rw [State.portFault_port]
      rfl
    · rw [State.portFault_port]
  · have run : exec (.identReceive n f) s = _ := if_pos hn
    rw [ha] at run
    exact run
  · have run : exec (.ackTimeout n) s = _ := if_pos hn
    rw [if_pos (by simp [hst, hr, hl])] at run
    refine ⟨_, run, SameMemory.of_mem (State.portFault_mem ..), ?_, ?_, s.portFault_posted n 0x4005 0⟩
    · rw [State.portFault_port]
      rfl
    · rw [State.portFault_port]
  · have run : exec (.ackTimeout n) s = _ := if_pos hn
    rw [if_neg (by
      simp only [Bool.and_eq_true, decide_eq_true_eq, Bool.not_eq_true', List.isEmpty_eq_false_iff, not_and_or, not_not, not_le]
      tauto)] at run
    exact run
  · exact exec_packetWaitLimit_vc0 s n _ hn (by simp [Vc.discardOld, hb, hl])
  · refine exec_packetWaitLimit_vc0 s n _ hn ?_
    rw [Vc.discardOld, if_neg (by
      simp only [Bool.and_eq_true, decide_eq_true_eq, Bool.not_eq_true', List.isEmpty_eq_false_iff, not_and_or, not_not, not_le]
      tauto), hq]
    rfl

/-! ### Memory packets (R205 to R211, R278) -/

/-- The oldest packet of a virtual channel has been taken from its buffer (R278). -/
def State.packetTaken (s : State) (n vc b : Nat) (rest : List (Nat × Packet)) : State :=
  s.modPort n fun x => (x.modVc vc fun v => { v with rxq := rest }).free vc b

theorem State.takePacket_of_head (s : State) (n vc b : Nat) (k : Packet) (rest : List (Nat × Packet)) (want : Packet → Bool)
    (h : ((s.port n).vc vc).rxq = (b, k) :: rest) (hk : want k = true) :
    s.takePacket n vc want = some (s.packetTaken n vc b rest, k) := by
  rw [State.takePacket, h]
  simp only [hk, if_true]
  rfl

theorem Port.vc_modVc (x : Port) (v : Nat) (f : Vc → Vc) : (x.modVc v f).vc v = f (x.vc v) := by
  unfold Port.modVc Port.vc
  split <;> split <;> simp_all

/-- The packet's blocks are credited, and the rest of the channel waits (R278). -/
structure PacketTaken (n vc b : Nat) (rest : List (Nat × Packet)) (s t : State) : Prop where
  mem : t.mem = s.mem
  rxq : ((t.port n).vc vc).rxq = rest
  freed : ((t.port n).vc vc).freed = (((s.port n).vc vc).freed + b) % 2 ^ 16

theorem State.packetTaken_spec (s : State) (n vc b : Nat) (rest : List (Nat × Packet)) :
    PacketTaken n vc b rest s (s.packetTaken n vc b rest) := by
  have port : (s.packetTaken n vc b rest).port n = ((s.port n).modVc vc fun v => { v with rxq := rest }).free vc b :=
    State.port_modPort_self ..
  refine ⟨rfl, ?_, ?_⟩
  all_goals
    rw [port, Port.free, Port.vc_modVc, Port.vc_modVc]

theorem PacketTaken.of_port {n vc b : Nat} {rest : List (Nat × Packet)} {s t u : State} (h : PacketTaken n vc b rest s t)
    (hm : u.mem = t.mem) (hp : u.ports = t.ports) : PacketTaken n vc b rest s u := by
  have port : u.port n = t.port n := by rw [State.port, hp, State.port]
  exact ⟨hm.trans h.mem, by rw [port]; exact h.rxq, by rw [port]; exact h.freed⟩

@[simp] theorem State.packetTaken_tiles (s : State) (n vc b : Nat) (rest : List (Nat × Packet)) :
    (s.packetTaken n vc b rest).tiles = s.tiles := rfl
@[simp] theorem State.tile_packetTaken (s : State) (n vc b : Nat) (rest : List (Nat × Packet)) (p : Nat) :
    (s.packetTaken n vc b rest).tile p = s.tile p := rfl
@[simp] theorem State.packetTaken_xbar (s : State) (n vc b : Nat) (rest : List (Nat × Packet)) :
    (s.packetTaken n vc b rest).xbar = s.xbar := rfl
@[simp] theorem State.packetTile_packetTaken (s : State) (n vc b : Nat) (rest : List (Nat × Packet)) (a : Nat) :
    (s.packetTaken n vc b rest).packetTile a = s.packetTile a := rfl
@[simp] theorem State.physOf_packetTaken (s : State) (n vc b : Nat) (rest : List (Nat × Packet)) (a : Nat) :
    (s.packetTaken n vc b rest).physOf a = s.physOf a := rfl

/-- The beat at which the first slot of a packet lands (R205). -/
def State.crossFirst (s : State) (n : Nat) : Nat :=
  ((s.xbar.filter fun x => x.port == n + 1).map fun x => x.arrive + 1).foldl max (s.age + 6)

theorem State.cross_xbar (s : State) (n c : Nat) (g : Nat → XSlot) :
    (s.cross n ((List.range c).map g)).xbar =
      s.xbar ++ (List.range c).map fun i => { g i with arrive := s.crossFirst n + i, port := n + 1 } := by
  have each : ∀ i < c, ((List.range c).map g)[i]? = some (g i) := fun i hi => by
    rw [List.getElem?_map, List.getElem?_range hi]
    rfl
  unfold State.cross State.crossFirst
  dsimp only
  rw [List.length_map, List.length_range]
  generalize List.foldl max (s.age + 6) _ = first
  generalize (List.range c).map g = l at each
  congr 1
  rw [← List.filterMap_eq_map]
  refine List.filterMap_congr fun i hi => ?_
  rw [each i (List.mem_range.mp hi)]
  rfl

theorem pieces_spec (n : Nat) (hn : 0 < n) (fuel : Nat) (l : List Byte) (h0 : 0 < l.length) (hf : l.length ≤ n * fuel) :
    (pieces n fuel l).length = ceilDiv l.length n ∧ ∀ i < ceilDiv l.length n, nth [] (pieces n fuel l) i = (l.drop (n * i)).take n := by
  induction fuel generalizing l with
  | zero => omega
  | succ fuel ih =>
    rw [pieces]
    split
    · next h =>
      have one : ceilDiv l.length n = 1 := by
        rw [ceilDiv]
        exact Nat.div_eq_of_lt_le (by omega) (by omega)
      rw [one]
      refine ⟨rfl, fun i hi => ?_⟩
      obtain rfl : i = 0 := by omega
      simp [nth, List.take_of_length_le h]
    · next h =>
      have rest : (l.drop n).length = l.length - n := List.length_drop
      obtain ⟨count, each⟩ := ih (l.drop n) (by omega) (by rw [rest, Nat.mul_succ] at *; omega)
      have more : ceilDiv l.length n = ceilDiv (l.drop n).length n + 1 := by
        rw [rest, ceilDiv, ceilDiv, ← Nat.add_div_right _ hn]
        congr 1
        omega
      rw [more]
      refine ⟨by rw [List.length_cons, count], fun i hi => ?_⟩
      cases i with
      | zero => simp [nth]
      | succ i =>
        have step := each i (by omega)
        simp only [nth, List.getD_cons_succ] at step ⊢
        rw [step, List.drop_drop]
        congr 2
        ring

/-- The pieces of a packet's rows: two rows each, but for the last (R205). -/
theorem pieces_rows (l : List Byte) (h : 0 < l.length) :
    (pieces 128 l.length l).length = ceilDiv l.length 128 ∧
      ∀ i < ceilDiv l.length 128, nth [] (pieces 128 l.length l) i = (l.drop (128 * i)).take 128 :=
  pieces_spec 128 (by norm_num) l.length l h (by omega)

theorem length_piece (l : List Byte) (i : Nat) : ((l.drop (128 * i)).take 128).length = min 128 (l.length - 128 * i) := by
  rw [List.length_take, List.length_drop]

theorem State.cross_ports (s : State) (n : Nat) (l : List XSlot) : (s.cross n l).ports = s.ports := rfl

/-- An acknowledgement comes in for an operation (R208). -/
def State.ackDue (s : State) (p id st : Nat) : State := s.modTile p fun t => { t with acks := t.acks ++ [(s.age, id, st)] }

/-- One acknowledgement is due (R208, R211): it ends one wait of its operation, or its status ends the operation. -/
theorem State.takeAcks_one (s : State) (p id st : Nat) (o : Op) (ha : (s.tile p).acks = [(s.age, id, st)])
    (ho : (s.tile p).op? id = some o) (hd : s.now ≤ o.deadline) :
    s.takeAcks p = if st = 0 then
        (s.modTile p fun t => { t with acks := [] }).modTile p (·.modOp o.id fun o => { o with awaiting := o.awaiting - 1 })
      else ((s.modTile p fun t => { t with acks := [] }).modTile p (·.dropOp o.id)).raiseTile p o.bundle st := by
  have due : (s.tile p).acks.filter (fun a => decide (a.1 ≤ s.age)) = [(s.age, id, st)] := by simp [ha]
  have left : s.modTile p (fun t => { t with acks := t.acks.filter fun a => !decide (a.1 ≤ s.age) }) =
      s.modTile p fun t => { t with acks := [] } := by
    rw [State.modTile, State.modTile, ha]
    simp
  have op : ((s.modTile p fun t => { t with acks := [] }).tile p).op? id = some o := by
    rw [State.tile_modTile_self]
    exact ho
  unfold State.takeAcks
  dsimp only
  rw [due, left, List.foldl_cons, List.foldl_nil]
  dsimp only
  rw [op]
  dsimp only
  rw [if_neg (by simp only [State.modTile_age, State.now_modTile]; omega)]

/-- Settles O39: a packet's pieces are its rows, two a slot, and the crossbar takes them in their order. -/
theorem memoryPacketsGoToTheirTile : Obligations.MemoryPacketsGoToTheirTile := by
  intro s n b k rest lt off hn vc x hq hp taken first slot len piece p
  have zero : k.ptype ≠ 4 → k.ptype ≠ 6 → vc = 0 := fun h4 h6 => if_neg (by simp [h4, h6])
  have one : k.ptype = 4 ∨ k.ptype = 6 → vc = 1 := fun h => if_pos h
  have got := s.packetTaken_spec n vc b rest
  have typed : ∀ c, k.ptype = c → ofType c k = true := fun c h => by rw [ofType, h]; exact beq_self_eq_true c
  have take := fun want (hw : want k = true) => s.takePacket_of_head n vc b k rest want hq hw
  have take0 : ∀ c, k.ptype = c → c ≠ 4 → c ≠ 6 → s.takePacket n 0 (ofType c) = some (s.packetTaken n vc b rest, k) :=
    fun c h h4 h6 => by
      have t := take (ofType c) (typed c h)
      rwa [zero (by rw [h]; exact h4) (by rw [h]; exact h6)] at t ⊢
  have take1 : ∀ c, k.ptype = c → c = 4 ∨ c = 6 → s.takePacket n 1 (ofType c) = some (s.packetTaken n vc b rest, k) :=
    fun c h h46 => by
      have t := take (ofType c) (typed c h)
      rwa [one (by rw [h]; exact h46)] at t ⊢
  have done : ∀ t, PacketTaken n vc b rest s t → taken t := fun t h => ⟨SameMemory.of_mem h.mem, h.rxq, h.freed⟩
  refine ⟨fun h => ?_, fun h => ?_, fun h hl => ?_, fun h hl o ho hlen => ?_, fun h hl ho => ?_, fun h hlen => ?_, fun h hk => ?_,
    fun h hk => ?_, fun h ha o hb ho hd => ?_⟩
  · have run : exec (.rwrReceive n) s = _ := if_pos hn
    rw [take0 pRwr h (by decide) (by decide)] at run
    dsimp only at run
    rw [State.packetTile_packetTaken, hp] at run
    dsimp only at run
    cases hpay : k.payload.isEmpty with
    | true =>
      have none : k.payload.length = 0 := by simpa using hpay
      rw [hpay, if_pos rfl] at run
      refine ⟨_, run, done _ got, ?_⟩
      simp [len, none, ceilDiv]
    | false =>
      have some_ : 0 < k.payload.length := List.length_pos_iff.mpr (by simpa using hpay)
      rw [hpay, if_neg (by simp)] at run
      refine ⟨_, run, done _ (got.of_port rfl rfl), ?_⟩
      obtain ⟨count, each⟩ := pieces_rows k.payload some_
      rw [State.cross_xbar, count]
      refine congrArg _ (List.map_congr_left fun i hi => ?_)
      rw [each i (List.mem_range.mp hi), length_piece]
      rfl
  · have run : exec (.rrdReceive n) s = _ := if_pos hn
    rw [take0 pRrd h (by decide) (by decide)] at run
    dsimp only at run
    rw [State.packetTile_packetTaken, hp] at run
    exact ⟨_, run, done _ (got.of_port rfl rfl), rfl⟩
  · have run : exec (.rrspReceive n) s = _ := if_pos hn
    rw [take1 pRrsp h (by decide)] at run
    dsimp only at run
    rw [if_pos hl] at run
    refine ⟨_, run, done _ (got.of_port rfl rfl), rfl, rfl, fun y hy hid => ?_⟩
    exact List.mem_map.mpr ⟨y, hy, if_pos hid⟩
  · have run : exec (.rrspReceive n) s = _ := if_pos hn
    rw [take1 pRrsp h (by decide)] at run
    dsimp only at run
    rw [if_neg hl, State.physOf_packetTaken, State.tile_packetTaken, ho] at run
    dsimp only at run
    rw [if_neg (by simpa using List.length_pos_iff.mp hlen)] at run
    refine ⟨_, run, done _ (got.of_port rfl rfl), ?_⟩
    obtain ⟨count, each⟩ := pieces_rows k.payload hlen
    rw [State.cross_xbar, count]
    refine congrArg _ (List.map_congr_left fun i hi => ?_)
    rw [each i (List.mem_range.mp hi), length_piece]
    rfl
  · have run : exec (.rrspReceive n) s = _ := if_pos hn
    rw [take1 pRrsp h (by decide)] at run
    dsimp only at run
    rw [if_neg hl, State.physOf_packetTaken, State.tile_packetTaken, ho] at run
    exact ⟨_, run, done _ got, rfl⟩
  · have run : exec (.rpushReceive n) s = _ := if_pos hn
    rw [take0 pRpush h (by decide) (by decide)] at run
    dsimp only at run
    rw [State.packetTile_packetTaken, hp] at run
    refine ⟨_, run, done _ (got.of_port rfl rfl), ?_⟩
    have data : (k.payload.drop 4).length = len - 4 := List.length_drop
    obtain ⟨count, each⟩ := pieces_rows (k.payload.drop 4) (by omega)
    rw [data] at count each
    rw [State.cross_xbar, data, count]
    refine congrArg _ (List.map_congr_left fun i hi => ?_)
    rw [each i (List.mem_range.mp hi)]
    rfl
  · have run : exec (.rflagReceive n) s = _ := if_pos hn
    rw [take0 pRflag h (by decide) (by decide)] at run
    dsimp only at run
    rw [hk, if_neg (by decide), State.packetTile_packetTaken, hp] at run
    exact ⟨_, run, done _ (got.of_port rfl rfl), rfl⟩
  · have run : exec (.rflagReceive n) s = _ := if_pos hn
    rw [take0 pRflag h (by decide) (by decide)] at run
    dsimp only at run
    rw [if_pos hk] at run
    refine ⟨_, run, done _ (got.of_port rfl rfl), rfl, ?_⟩
    intro q
    have tile : ∀ f, ((s.packetTaken n vc b rest).modTile ((s.packetTaken n vc b rest).physOf (leAt k.payload 12 4)) f).tile q =
        f (s.tile q) := fun f => State.tile_modTile_self ..
    rw [tile]
    refine ⟨?_, fun y hy hsrc hop hdl => ?_⟩
    · dsimp only
      rw [List.map_map]
      refine List.map_congr_left fun y _ => ?_
      simp only [Function.comp]
      split <;> rfl
    · obtain ⟨z, -, rfl⟩ := List.mem_map.mp hy
      by_cases h : z.src = k.sender.1 ∧ z.op = k.sender.2 ∧ z.deadline = k.deadline
      · rw [if_pos (by simpa [and_assoc] using h)]
        exact ⟨Nat.le_max_right .., rfl⟩
      · rw [if_neg (by simpa [and_assoc] using h)] at hsrc hop hdl
        exact absurd ⟨hsrc, hop, hdl⟩ h
  · have run : exec (.rackReceive n) s = _ := if_pos hn
    rw [take1 pRack h (by decide)] at run
    dsimp only at run
    rw [State.physOf_packetTaken, State.tile_packetTaken, hb] at run
    dsimp only at run
    obtain ⟨w, hw⟩ : ∃ w, w = (s.packetTaken n vc b rest).ackDue p o.id (bits k.status 0 16) := ⟨_, rfl⟩
    have tile : w.tile p = { s.tile p with acks := [(w.age, o.id, bits k.status 0 16)] } := by
      rw [hw, State.ackDue, State.tile_modTile_self, State.tile_packetTaken, ha]
      rfl
    have taken : PacketTaken n vc b rest s w := by
      rw [hw]
      exact got.of_port rfl rfl
    have kept : w.xbar = s.xbar ∧ w.tables = s.tables ∧ w.grade = s.grade ∧ w.hif = s.hif ∧ w.rcu = s.rcu ∧ w.now = s.now := by
      rw [hw]
      exact ⟨rfl, rfl, rfl, rfl, rfl, rfl⟩
    change exec _ s = .next (((s.packetTaken n vc b rest).ackDue p o.id (bits k.status 0 16)).takeAcks p) at run
    rw [← hw] at run
    clear hw
    obtain ⟨xbar, tables, grade, hif, rcu, now⟩ := kept
    have op : (w.tile p).op? o.id = some o := by
      rw [tile]
      exact ho
    rw [w.takeAcks_one p o.id (bits k.status 0 16) o (by rw [tile]) op (by rw [now]; exact hd)] at run
    refine ⟨fun hst => ?_, fun hst => ?_⟩
    · rw [if_pos hst] at run
      refine ⟨_, run, done _ (taken.of_port rfl rfl), xbar, ?_⟩
      rw [State.tile_modTile_self, State.tile_modTile_self]
      exact Tile.op?_modOp _ _ o _ (fun _ => rfl) op
    · rw [if_neg hst] at run
      have post := ((w.modTile p fun t => { t with acks := [] }).modTile p (·.dropOp o.id)).raiseTile_posted p o.bundle
        (bits k.status 0 16) 0
      obtain ⟨v, hv⟩ : ∃ v, v = (w.modTile p fun t => { t with acks := [] }).modTile p (·.dropOp o.id) := ⟨_, rfl⟩
      have same : PacketTaken n vc b rest s v ∧ v.xbar = w.xbar ∧ v.tables = w.tables ∧ v.grade = w.grade ∧ v.hif = w.hif ∧
          v.rcu = w.rcu ∧ (v.tile p).op? o.id = none := by
        rw [hv]
        refine ⟨taken.of_port rfl rfl, rfl, rfl, rfl, rfl, rfl, ?_⟩
        rw [State.tile_modTile_self]
        exact Tile.op?_dropOp ..
      rw [← hv] at run post
      clear hv
      obtain ⟨gone, vxbar, vtables, vgrade, vhif, vrcu, none⟩ := same
      rw [State.ltileOf_congr (vtables.trans tables) (vgrade.trans grade)] at post
      have raised : (v.raiseTile p o.bundle (bits k.status 0 16)).mem = v.mem ∧
          (v.raiseTile p o.bundle (bits k.status 0 16)).ports = v.ports ∧
          (v.raiseTile p o.bundle (bits k.status 0 16)).xbar = v.xbar ∧
          (v.raiseTile p o.bundle (bits k.status 0 16)).tile p = v.tile p :=
        ⟨State.raiseTile_mem .., State.raiseTile_ports .., State.raiseTile_xbar .., State.tile_raiseTile ..⟩
      generalize v.raiseTile p o.bundle (bits k.status 0 16) = u at run post raised
      obtain ⟨rmem, rports, rxbar, rtile⟩ := raised
      refine ⟨u, run, done _ (gone.of_port rmem rports), rxbar.trans (vxbar.trans xbar), by rw [rtile, none], ?_⟩
      refine post.of_before ?_ ?_ (vrcu.trans rcu)
      · rw [State.queue, vhif, hif, State.queue]
      · rw [vhif, hif]

/-! ### Telemetry (R282, R308, R418) -/

theorem State.foldl_modPort_frame (l : List Nat) (f : Port → Port) (s : State) :
    l.foldl (fun s n => s.modPort n f) s = { s with ports := (l.foldl (fun s n => s.modPort n f) s).ports } := by
  induction l generalizing s with
  | nil => rfl
  | cons a l ih =>
    rw [List.foldl_cons, ih]
    rfl
theorem State.port_foldl_modPort (l : List Nat) (hl : l.Nodup) (f : Port → Port) (s : State) (n : Nat) :
    (l.foldl (fun s n => s.modPort n f) s).port n = if n ∈ l then f (s.port n) else s.port n := by
  induction l generalizing s with
  | nil => simp
  | cons a l ih =>
    obtain ⟨ha, hl⟩ := List.nodup_cons.mp hl
    rw [List.foldl_cons, ih hl, State.port_modPort]
    by_cases h : n = a
    · subst h
      simp [ha]
    · simp [h]

/-- A port's telemetry counters, and their copy (R282), are as they were. -/
structure SameCounters (x y : Port) : Prop where
  circ : y.cCirc = x.cCirc
  pkt : y.cPkt = x.cPkt
  naks : y.cNaks = x.cNaks
  uncorr : y.cUncorr = x.cUncorr
  corr : y.cCorr = x.cCorr
  cmap : y.cmap = x.cmap

/-- What the sending of a packet leaves alone: memory, the counters of the ports, and the telemetry queue. -/
structure CountersKept (s t : State) : Prop where
  mem : t.mem = s.mem
  tele : t.lnk.tele = s.lnk.tele
  port : ∀ n, SameCounters (s.port n) (t.port n)

theorem CountersKept.refl (s : State) : CountersKept s s := ⟨rfl, rfl, fun _ => ⟨rfl, rfl, rfl, rfl, rfl, rfl⟩⟩
theorem CountersKept.trans {s t u : State} (h : CountersKept s t) (g : CountersKept t u) : CountersKept s u :=
  ⟨g.mem.trans h.mem, g.tele.trans h.tele, fun n =>
    have hn := h.port n
    have gn := g.port n
    ⟨gn.circ.trans hn.circ, gn.pkt.trans hn.pkt, gn.naks.trans hn.naks, gn.uncorr.trans hn.uncorr, gn.corr.trans hn.corr,
      gn.cmap.trans hn.cmap⟩⟩
theorem CountersKept.modPort (s : State) (m : Nat) (f : Port → Port) (hf : ∀ x, SameCounters x (f x)) :
    CountersKept s (s.modPort m f) := by
  refine ⟨rfl, rfl, fun n => ?_⟩
  rw [State.port_modPort]
  split
  · next h => rw [h]; exact hf _
  · exact ⟨rfl, rfl, rfl, rfl, rfl, rfl⟩

theorem CountersKept.portFault (s : State) (m code d : Nat) : CountersKept s (s.portFault m code d) := by
  have step := CountersKept.modPort s m (fun x => { x.flush.enter s.age .fault with last := code }) fun x =>
    ⟨rfl, rfl, rfl, rfl, rfl, rfl⟩
  refine ⟨State.portFault_mem .., ?_, fun n => ?_⟩
  · exact (State.raise_lnk ..).symm ▸ step.tele
  · exact step.port n

theorem CountersKept.meetRoute (s : State) (d : Nat) : CountersKept s (s.meetRoute d) := by
  have word : ∀ t m w, CountersKept t (State.meetWord t m w) := fun t m w => by
    unfold State.meetWord
    exact iteInduction (fun _ => .portFault ..) fun _ => .refl _
  unfold State.meetRoute
  refine iteInduction (fun _ => ?_) fun _ => .refl s
  clear * - word
  generalize (List.map _ _ : List Nat).eraseDups = l
  induction l generalizing s with
  | nil => exact .refl s
  | cons m l ih => exact (word s m _).trans (ih _)

theorem CountersKept.sendPacket (s : State) (vc input : Nat) (k : Packet) : CountersKept s (s.sendPacket vc input k) := by
  have met := CountersKept.meetRoute s k.dst
  unfold State.sendPacket
  dsimp only
  split
  · refine met.trans (.modPort _ _ _ fun x => ?_)
    unfold Port.modVc
    split <;> exact ⟨rfl, rfl, rfl, rfl, rfl, rfl⟩
  · exact met

/-- The ports' counters go to their copies (R282). -/
def State.windowsEnd (s : State) : State := (List.range 64).foldl (fun s n => s.modPort n Port.windowEnd) s
/-- The 64 records of a telemetry window (R282). -/
def State.windowBytes (s : State) : List Byte :=
  ((List.range 64).map fun n => ((s.port n).cmap.map fun w => leBytes 4 w.toNat).flatten).flatten

theorem State.windowsEnd_port (s : State) (n : Nat) (h : n < 64) : s.windowsEnd.port n = (s.port n).windowEnd := by
  rw [State.windowsEnd, State.port_foldl_modPort _ List.nodup_range, if_pos (List.mem_range.mpr h)]

theorem State.windowsEnd_frame (s : State) : s.windowsEnd = { s with ports := s.windowsEnd.ports } := State.foldl_modPort_frame ..

theorem State.length_windowBytes (s : State) : s.windowsEnd.windowBytes.length = 1024 := by
  have record : ∀ n ∈ List.range 64,
      (List.length ∘ fun n => ((s.windowsEnd.port n).cmap.map fun w => leBytes 4 w.toNat).flatten) n = 16 := fun n hn => by
    dsimp only [Function.comp]
    rw [s.windowsEnd_port n (List.mem_range.mp hn)]
    simp [Port.windowEnd, length_leBytes]
  rw [State.windowBytes, List.length_flatten, List.map_map, List.map_congr_left record]
  rfl

/-- The TELE packet of a window's records (R282). -/
def State.telePacket (s : State) : Packet :=
  { dst := s.lnk.dest, hops := 15, src := s.lnk.dev, ptype := pTele, addr := s.now, deadline := noDeadline, tag := 0, status := 0,
    payload := s.windowsEnd.windowBytes }

theorem exec_telemetryWindowEnd (s : State) (hb : s.beat = 0) (ht : s.tick % 2 ^ s.lnk.wlog = 0) :
    exec .telemetryWindowEnd s = .next (
      if !s.lnk.ten then s.windowsEnd
      else if s.lnk.dest = s.lnk.dev then s.windowsEnd.addTele s.now s.lnk.dev s.windowsEnd.windowBytes
      else s.windowsEnd.sendPacket 2 inHif s.telePacket) := by
  show execTelemetryWindowEnd s = _
  rw [execTelemetryWindowEnd, if_neg (by simp [hb, ht])]
  rfl

theorem State.addTele_tele (s : State) (count dev : Nat) (data : List Byte) : (s.addTele count dev data).lnk.tele =
    s.lnk.tele ++ [(s.roundCounter, (s.queue (qKey 0 srcMgc)).sseq, count, dev, data)] := rfl

theorem State.addTele_mem (s : State) (count dev : Nat) (data : List Byte) : (s.addTele count dev data).mem = s.mem := rfl
theorem State.port_addTele (s : State) (count dev : Nat) (data : List Byte) (n : Nat) :
    (s.addTele count dev data).port n = s.port n := rfl

/-- Settles O40. -/
theorem telemetryIsCopiedAndQueued : Obligations.TelemetryIsCopiedAndQueued := by
  intro s sseq copied
  have frame := s.windowsEnd_frame
  have fresh : copied s.windowsEnd := by
    refine ⟨SameMemory.of_mem (by rw [frame]), fun n hn => ?_⟩
    rw [s.windowsEnd_port n hn]
    exact ⟨rfl, rfl, rfl, rfl, rfl, rfl, rfl, rfl⟩
  have tele : s.windowsEnd.lnk.tele = s.lnk.tele := by rw [frame]
  have rcu : s.windowsEnd.rcu = s.rcu := by rw [frame]
  have hif : s.windowsEnd.hif = s.hif := by rw [frame]
  have joins : ∀ count dev data, (s.windowsEnd.addTele count dev data).lnk.tele =
      s.lnk.tele ++ [(s.roundCounter, sseq, count, dev, data)] := fun count dev data => by
    rw [State.addTele_tele, tele, State.roundCounter_congr rcu, State.queue, hif]
    rfl
  refine ⟨fun h => ?_, fun hb ht hten => ?_, fun hb ht hten hd => ?_, fun hb ht hten hd => ?_, fun n b k rest hn hq hk => ?_⟩
  · show execTelemetryWindowEnd s = _
    rw [execTelemetryWindowEnd, if_pos (by simpa using h)]
  · refine ⟨_, exec_telemetryWindowEnd s hb ht, ?_⟩
    rw [if_pos (by simp [hten])]
    exact ⟨fresh, tele⟩
  · refine ⟨_, s.windowsEnd.windowBytes, exec_telemetryWindowEnd s hb ht, ?_⟩
    rw [if_neg (by simp [hten]), if_pos hd]
    have told : copied (s.windowsEnd.addTele s.now s.lnk.dev s.windowsEnd.windowBytes) := by
      refine ⟨fun p o => (SameMemory.of_mem (State.addTele_mem ..) p o).trans (fresh.1 p o), fun n hn => ?_⟩
      rw [State.port_addTele]
      exact fresh.2 n hn
    exact ⟨told, s.length_windowBytes, joins ..⟩
  · refine ⟨_, exec_telemetryWindowEnd s hb ht, ?_⟩
    rw [if_neg (by simp [hten]), if_neg hd]
    have sent := CountersKept.sendPacket s.windowsEnd 2 inHif s.telePacket
    refine ⟨⟨fun p o => (SameMemory.of_mem sent.mem p o).trans (fresh.1 p o), fun n hn => ?_⟩, sent.tele.trans tele⟩
    obtain ⟨circ, pkt, naks, uncorr, corr, cmap⟩ := sent.port n
    rw [circ, pkt, naks, uncorr, corr, cmap]
    exact fresh.2 n hn
  · have run : exec (.teleReceive n) s = _ := if_pos hn
    rw [s.takePacket_of_head n 2 b k rest (ofType pTele) hq (by rw [ofType, hk]; rfl)] at run
    have got := s.packetTaken_spec n 2 b rest
    exact ⟨_, run, SameMemory.of_mem got.mem, got.rxq, rfl⟩

end Sys2Proof.Machine
end

section
/-! PROOFS. The SVC's rows (R255) and what it does with them: grants and publications, gathers, results, parks. -/

namespace Sys2Proof.Machine

/-! ### Rows that the SVC asks for (R160, R255) -/

/-- What asking for rows of a position keeps: memory, what left the device, the units that say who may reach which row, and the
requests that wait there. -/
structure RowsAsked (p : Nat) (s t : State) : Prop where
  mem : t.mem = s.mem
  out : t.out = s.out
  tables : t.tables = s.tables
  dck : t.dck = s.dck
  rcu : t.rcu = s.rcu
  power : t.sramOff = s.sramOff
  handles : (t.tile p).handles = (s.tile p).handles
  reqs : ∀ r ∈ (s.tile p).reqs, r ∈ (t.tile p).reqs

theorem RowsAsked.refl (p : Nat) (s : State) : RowsAsked p s s := ⟨rfl, rfl, rfl, rfl, rfl, rfl, rfl, fun _ h => h⟩

theorem RowsAsked.trans {p : Nat} {s t u : State} (h : RowsAsked p s t) (k : RowsAsked p t u) : RowsAsked p s u :=
  ⟨k.mem.trans h.mem, k.out.trans h.out, k.tables.trans h.tables, k.dck.trans h.dck, k.rcu.trans h.rcu, k.power.trans h.power,
    k.handles.trans h.handles, fun r hr => k.reqs r (h.reqs r hr)⟩

theorem RowsAsked.modTile (s : State) (p : Nat) (f : Tile → Tile) (hh : (f (s.tile p)).handles = (s.tile p).handles)
    (hr : ∀ r ∈ (s.tile p).reqs, r ∈ (f (s.tile p)).reqs) : RowsAsked p s (s.modTile p f) := by
  refine ⟨rfl, rfl, rfl, rfl, rfl, rfl, ?_, ?_⟩
  · rw [State.tile_modTile_self, hh]
  · rw [State.tile_modTile_self]; exact hr

theorem State.raise_sramOff (s : State) (src kind status tag detail : Nat) :
    (s.raise src kind status tag detail).sramOff = s.sramOff := by
  have h := State.raise_onlyRecords s src kind status tag detail
  unfold OnlyRecords at h
  rw [h]
  rfl

theorem RowsAsked.raiseExt (s : State) (p q c d : Nat) : RowsAsked p s (s.raiseExt q c d) :=
  ⟨State.raiseExt_mem .., State.raiseExt_out .., State.raiseExt_tables .., State.raiseExt_dck .., State.raiseExt_rcu ..,
    State.raise_sramOff .., by rw [State.tile_raiseExt], by rw [State.tile_raiseExt]; exact fun _ h => h⟩

theorem RowsAsked.mayAccess {p : Nat} {s t : State} (h : RowsAsked p s t) (user : Nat) (write : Bool) (row : Nat) :
    t.mayAccess p user write row = s.mayAccess p user write row := by
  have running : t.deckRuns = s.deckRuns := by rw [State.deckRuns, h.dck, State.deckRuns]
  have table : t.table (p / 13) = s.table (p / 13) := by rw [State.table, h.tables, State.table]
  rw [State.mayAccess, running, table, h.handles, State.mayAccess]

theorem RowsAsked.physOf {p : Nat} {s t : State} (h : RowsAsked p s t) (lt : Nat) : t.physOf lt = s.physOf lt := by
  rw [State.physOf, State.posOf, State.table, h.tables, State.physOf, State.posOf, State.table]

theorem State.reportRows_asked (s : State) (p : Nat) (un no : Bool) :
    RowsAsked p s (s.reportRows p un no) ∧ (s.reportRows p un no).svc = s.svc ∧
      (s.reportRows p un no).tiles = s.tiles := by
  have first : ∀ (c : Bool) (u : State) (code : Nat), RowsAsked p u (if c then u.raiseExt p code else u) ∧
      (if c then u.raiseExt p code else u).svc = u.svc ∧ (if c then u.raiseExt p code else u).tiles = u.tiles := by
    intro c u code
    cases c
    · exact ⟨RowsAsked.refl p u, rfl, rfl⟩
    · exact ⟨RowsAsked.raiseExt .., State.raiseExt_svc .., State.raiseExt_tiles ..⟩
  unfold State.reportRows
  dsimp only
  obtain ⟨a, b, c⟩ := first (un && s.deckRuns) s 0x3001
  obtain ⟨d, e, f⟩ := first no (if un && s.deckRuns then s.raiseExt p 0x3001 else s) 0x3002
  exact ⟨a.trans d, e.trans b, f.trans c⟩

/-- A fold whose steps each ask for one row of a position, or for none: nothing else changes, no request is lost, and those that
are due are there. -/
theorem State.foldl_requests {α : Type} (p : Nat) (due : α → Prop) (is : α → RowReq → Prop) {f : State → α → State}
    (hf : ∀ s w, (f s w = s ∧ ¬ due w) ∨ ∃ r, is w r ∧ f s w = s.modTile p (·.request r)) (l : List α) (s : State) :
    let t := l.foldl f s
    t = { s with tiles := t.tiles } ∧ (t.tile p).rx = (s.tile p).rx ∧ (t.tile p).nextOp = (s.tile p).nextOp ∧ RowsAsked p s t ∧
      ∀ w ∈ l, due w → ∃ r ∈ (t.tile p).reqs, is w r := by
  induction l generalizing s with
  | nil => exact ⟨rfl, rfl, rfl, RowsAsked.refl p s, fun w hw => by cases hw⟩
  | cons a l ih =>
    rw [List.foldl_cons]
    rcases hf s a with ⟨same, no⟩ | ⟨r, hr, step⟩
    · rw [same]
      obtain ⟨frame, rx, next, asked, all⟩ := ih s
      refine ⟨frame, rx, next, asked, fun w hw hd => ?_⟩
      rcases List.mem_cons.1 hw with rfl | h
      · exact absurd hd no
      · exact all w h hd
    · obtain ⟨frame, rx, next, asked, all⟩ := ih (s.modTile p (·.request r))
      rw [step]
      have first : RowsAsked p s (s.modTile p (·.request r)) := RowsAsked.modTile s p _ rfl fun _ hx => (Tile.reqs_request ..).2 (.inr hx)
      refine ⟨frame, ?_, ?_, first.trans asked, fun w hw hd => ?_⟩
      · rw [rx, State.tile_modTile_self]; rfl
      · rw [next, State.tile_modTile_self]; rfl
      · rcases List.mem_cons.1 hw with rfl | h
        · refine ⟨r, asked.reqs r ?_, hr⟩
          rw [State.tile_modTile_self]
          exact (Tile.reqs_request ..).2 (.inl rfl)
        · exact all w h hd

/-- Whole rows from the start of one (R156). -/
theorem spanRows_rows (row n : Nat) :
    spanRows (64 * row) (64 * n) = (List.range n).map fun i => { row := row + i, lo := 0, len := 64, srcOff := 64 * i } := by
  unfold spanRows
  by_cases hn : n = 0
  · subst hn; rfl
  · rw [if_neg (by omega), show (64 * row + 64 * n - 1) / 64 + 1 - 64 * row / 64 = n by omega]
    refine List.map_congr_left fun i hi => ?_
    have h := List.mem_range.1 hi
    simp only [PWrite.mk.injEq]
    omega

/-- Rows that the SVC writes (R255): those that may be written are requested, and nothing is reported when all may. -/
theorem State.svcRows_pieces (s : State) (p src op e off : Nat) (data : List Byte) :
    let t := s.svcRows p src op e off data
    let may := fun w : PWrite => w.row < mappedRows ∧ s.mayAccess p 2 true w.row = true
    RowsAsked p s t ∧ t.svc = s.svc ∧ (t.tile p).rx = (s.tile p).rx ∧
      (∀ w ∈ spanRows off data.length, may w →
        ∃ q ∈ (t.tile p).reqs, q.cls = 3 ∧ q.row = w.row ∧ q.use = .writeRx w.lo ((data.drop w.srcOff).take w.len) src op) ∧
      ((∀ w ∈ spanRows off data.length, may w) → t = { s with tiles := t.tiles }) := by
  unfold State.svcRows
  dsimp only
  generalize spanRows off data.length = l
  generalize hs1 : (s.modTile p fun t => { t with nextOp := (s.tile p).nextOp + 1 }) = s1
  have first : RowsAsked p s s1 := hs1 ▸ RowsAsked.modTile s p _ rfl fun _ h => h
  have rx1 : (s1.tile p).rx = (s.tile p).rx := by rw [← hs1, State.tile_modTile_self]
  have frame1 : s1 = { s with tiles := s1.tiles } := by rw [← hs1]; rfl
  have fold := State.foldl_requests p
    (fun w : PWrite => (w.row < mappedRows && !(decide (w.row < mappedRows) && !s.mayAccess p 2 true w.row)) = true)
    (fun w r => r.cls = 3 ∧ r.row = w.row ∧ r.use = .writeRx w.lo ((data.drop w.srcOff).take w.len) src op)
    (f := fun s' w =>
      if w.row < mappedRows && !(decide (w.row < mappedRows) && !s.mayAccess p 2 true w.row) then
        s'.modTile p (·.request { cls := 3, seq := (s.tile p).nextOp, row := w.row, deadline := e, since := s.age,
                                  use := .writeRx w.lo ((data.drop w.srcOff).take w.len) src op })
      else s')
    (fun s' w => by
      split
      · exact .inr ⟨_, ⟨rfl, rfl, rfl⟩, rfl⟩
      · next h => exact .inl ⟨rfl, h⟩)
    l s1
  dsimp only at fold
  obtain ⟨frame2, rx2, -, second, all⟩ := fold
  generalize List.foldl _ s1 _ = s2 at *
  obtain ⟨third, svc3, tiles3⟩ := State.reportRows_asked s2 p (l.any fun w => decide (mappedRows ≤ w.row))
    (l.any fun w => decide (w.row < mappedRows) && !s.mayAccess p 2 true w.row)
  refine ⟨(first.trans second).trans third, ?_, ?_, fun w hw ⟨hm, ha⟩ => ?_, fun ok => ?_⟩
  · rw [svc3, frame2, frame1]
  · rw [State.tile, tiles3]
    exact rx2.trans rx1
  · obtain ⟨r, hr, hcls, hrow, huse⟩ := all w hw (by simp [hm, ha])
    exact ⟨r, third.reqs r hr, hcls, hrow, huse⟩
  · have mapped : (l.any fun w => decide (mappedRows ≤ w.row)) = false :=
      List.any_eq_false.2 fun w hw => by simp [Nat.not_le.2 (ok w hw).1]
    have granted : (l.any fun w => decide (w.row < mappedRows) && !s.mayAccess p 2 true w.row) = false :=
      List.any_eq_false.2 fun w hw => by simp [(ok w hw).2]
    rw [State.reportRows, mapped, granted, Bool.false_and, if_neg Bool.false_ne_true, if_neg Bool.false_ne_true, frame2, frame1]

/-- The same for whole rows. -/
theorem State.svcRows_spec (s : State) (p src op e row n : Nat) (data : List Byte) (hdata : data.length = 64 * n) :
    let t := s.svcRows p src op e (64 * row) data
    RowsAsked p s t ∧ t.svc = s.svc ∧ (t.tile p).rx = (s.tile p).rx ∧
      (∀ i < n, row + i < mappedRows → s.mayAccess p 2 true (row + i) = true →
        ∃ q ∈ (t.tile p).reqs, q.cls = 3 ∧ q.row = row + i ∧ q.use = .writeRx 0 ((data.drop (64 * i)).take 64) src op) ∧
      ((∀ i < n, row + i < mappedRows ∧ s.mayAccess p 2 true (row + i) = true) → t = { s with tiles := t.tiles }) := by
  obtain ⟨asked, svc, rx, reqs, frame⟩ := s.svcRows_pieces p src op e (64 * row) data
  rw [hdata, spanRows_rows] at reqs frame
  refine ⟨asked, svc, rx, fun i hi hm ha => ?_, fun ok => frame fun w hw => ?_⟩
  · exact reqs _ (List.mem_map.2 ⟨i, List.mem_range.2 hi, rfl⟩) ⟨hm, ha⟩
  · obtain ⟨i, hi, rfl⟩ := List.mem_map.1 hw
    exact ok i (List.mem_range.1 hi)

/-- A row of a read of the SVC that has memory and that user 2 may read. -/
def State.svcReads (s : State) (p row : Nat) : Bool := decide (row < mappedRows) && s.mayAccess p 2 false row

/-- What asking for `n` rows from `row` on makes of a read: their places in its data, and whether one of them cannot be read. -/
def SvcRead.asked (x : SvcRead) (s : State) (p row n off : Nat) : SvcRead :=
  { x with rows := x.rows ++ ((List.range n).filter fun i => s.svcReads p (row + i)).map fun i => (p, row + i, off + 64 * i),
           bad := x.bad || (List.range n).any fun i => !s.svcReads p (row + i) }

theorem State.svcReads_eq (s : State) (p row : Nat) :
    (!decide (mappedRows ≤ row) && !(!decide (mappedRows ≤ row) && !s.mayAccess p 2 false row)) = s.svcReads p row := by
  unfold State.svcReads
  by_cases h : mappedRows ≤ row
  · simp [h, Nat.not_lt.2 h]
  · simp [h, Nat.not_le.1 h]

/-- Rows that the SVC reads (R160): those that may be read are requested, and the read waits for them. -/
theorem State.askSvcRows_spec (s : State) (id p row n off : Nat) (quiet : Bool) (hon : s.sramOff = false) :
    let t := s.askSvcRows id p row n off quiet
    RowsAsked p s t ∧
      t.svc = { s.svc with reads := s.svc.reads.map fun x => if x.id = id then x.asked s p row n off else x } ∧
      (∀ i < n, s.svcReads p (row + i) = true →
        ∃ q ∈ (t.tile p).reqs, q.cls = 3 ∧ q.row = row + i ∧ q.use = .toSvc id (off + 64 * i)) ∧
      (quiet = true → t = { s with tiles := t.tiles, svc := t.svc }) := by
  unfold State.askSvcRows
  rw [if_neg (by simp [hon])]
  dsimp only
  generalize hs1 : (s.modTile p fun t => { t with nextOp := (s.tile p).nextOp + 1 }) = s1
  have first : RowsAsked p s s1 := hs1 ▸ RowsAsked.modTile s p _ rfl fun _ h => h
  have frame1 : s1 = { s with tiles := s1.tiles } := by rw [← hs1]; rfl
  have good : ((List.range n).filter fun i => !decide (mappedRows ≤ row + i) &&
      !(!decide (mappedRows ≤ row + i) && !s.mayAccess p 2 false (row + i))) = (List.range n).filter fun i => s.svcReads p (row + i) :=
    List.filter_congr fun i _ => s.svcReads_eq p (row + i)
  have bad : ((List.range n).any fun i => decide (mappedRows ≤ row + i) || !decide (mappedRows ≤ row + i) && !s.mayAccess p 2 false (row + i)) =
      (List.range n).any fun i => !s.svcReads p (row + i) := by
    congr 1
    funext i
    rw [← s.svcReads_eq p (row + i)]
    cases decide (mappedRows ≤ row + i) <;> simp
  rw [good, bad]
  have fold := State.foldl_requests p (fun _ : Nat => True)
    (fun i r => r.cls = 3 ∧ r.row = row + i ∧ r.use = .toSvc id (off + 64 * i))
    (f := fun s' i => s'.modTile p (·.request
      { cls := 3, seq := (s.tile p).nextOp, row := row + i, deadline := noDeadline, since := s'.age, use := .toSvc id (off + 64 * i) }))
    (fun s' w => .inr ⟨_, ⟨rfl, rfl, rfl⟩, rfl⟩)
    ((List.range n).filter fun i => s.svcReads p (row + i)) s1
  dsimp only at fold
  obtain ⟨frame2, -, -, second, all⟩ := fold
  generalize List.foldl _ s1 _ = s2 at *
  have svc2 : s2.svc = s.svc := by rw [frame2, frame1]
  have frame2' : s2 = { s with tiles := s2.tiles } := by rw [frame2, frame1]
  generalize hs3 : s2.modRead id _ = s3
  have third : RowsAsked p s2 s3 := by
    rw [← hs3]
    exact ⟨rfl, rfl, rfl, rfl, rfl, rfl, rfl, fun _ h => h⟩
  have svc3 : s3.svc = { s.svc with reads := s.svc.reads.map fun x => if x.id = id then x.asked s p row n off else x } := by
    rw [← hs3, State.modRead, svc2]
    rfl
  have frame3 : s3 = { s with tiles := s3.tiles, svc := s3.svc } := by
    rw [← hs3, frame2']
    rfl
  have asked3 : ∀ i < n, s.svcReads p (row + i) = true →
      ∃ q ∈ (s3.tile p).reqs, q.cls = 3 ∧ q.row = row + i ∧ q.use = .toSvc id (off + 64 * i) := fun i hi h => by
    obtain ⟨r, hr, hrest⟩ := all i (List.mem_filter.2 ⟨List.mem_range.2 hi, h⟩) trivial
    exact ⟨r, third.reqs r hr, hrest⟩
  cases quiet
  · rw [if_neg (by decide)]
    obtain ⟨fourth, svc4, -⟩ := State.reportRows_asked s3 p
      ((List.range n).any fun i => decide (mappedRows ≤ row + i))
      ((List.range n).any fun i => !decide (mappedRows ≤ row + i) && !s.mayAccess p 2 false (row + i))
    refine ⟨((first.trans second).trans third).trans fourth, svc4.trans svc3, fun i hi h => ?_, fun h => by cases h⟩
    obtain ⟨r, hr, hrest⟩ := asked3 i hi h
    exact ⟨r, fourth.reqs r hr, hrest⟩
  · rw [if_pos rfl]
    exact ⟨(first.trans second).trans third, svc3, asked3, fun _ => frame3⟩

/-! ### Budgets and learning (R333, R364 to R367) -/

/-- The refill of one customer of a table (R333). -/
def State.refillOne (tbl bound : Nat) (s : State) (c : Nat) : State :=
  let k := s.svc.cust c
  let tb := s.svc.table tbl
  let k' := { k with balance := (k.budget : Int) + min k.balance 0 }
  { s with svc := (s.svc.setTable tbl { tb with kitty := min (tb.kitty + (max k.balance 0).toNat) bound }).setCust c k' }

theorem State.refill_eq (s : State) (tbl : Nat) :
    s.refill tbl = ((s.svc.custs.filter fun e => e.2.table == tbl).map (·.1)).foldl
      (State.refillOne tbl (s.serveTable tbl).kittyMax) s := rfl

/-- A customer after the refill of another, and after its own. -/
theorem State.cust_refillOne (tbl bound : Nat) (s : State) (c d : Nat) : (s.refillOne tbl bound c).svc.cust d =
    if d = c then { s.svc.cust c with balance := ((s.svc.cust c).budget : Int) + min (s.svc.cust c).balance 0 } else s.svc.cust d := by
  unfold State.refillOne Svc.setCust
  exact Map.get_set ..

theorem State.kitty_refillOne (tbl bound : Nat) (s : State) (c : Nat) : ((s.refillOne tbl bound c).svc.table tbl).kitty =
    min ((s.svc.table tbl).kitty + (max (s.svc.cust c).balance 0).toNat) bound := by
  unfold State.refillOne Svc.setCust Svc.setTable
  rw [Svc.table, Map.get_set_self]

/-- The refills of distinct customers: each has its budget once, and the kitty takes what was left of all of them up to its bound. -/
theorem State.foldl_refillOne (tbl bound : Nat) (cs : List Nat) (hcs : cs.Nodup) (s : State) :
    let t := cs.foldl (State.refillOne tbl bound) s
    t = { s with svc := t.svc } ∧
      (∀ c ∈ cs, (t.svc.cust c).balance = ((s.svc.cust c).budget : Int) + min (s.svc.cust c).balance 0) ∧
      (∀ c, c ∉ cs → t.svc.cust c = s.svc.cust c) ∧
      (cs ≠ [] → (t.svc.table tbl).kitty =
        min ((s.svc.table tbl).kitty + (cs.map fun c => (max (s.svc.cust c).balance 0).toNat).sum) bound) := by
  induction cs generalizing s with
  | nil => exact ⟨rfl, fun c hc => absurd hc List.not_mem_nil, fun _ _ => rfl, fun h => absurd rfl h⟩
  | cons a cs ih =>
    obtain ⟨ha, hnd⟩ := List.nodup_cons.1 hcs
    rw [List.foldl_cons]
    obtain ⟨frame, own, others, kitty⟩ := ih hnd (s.refillOne tbl bound a)
    have still : ∀ c, c ≠ a → (s.refillOne tbl bound a).svc.cust c = s.svc.cust c := fun c hc => by
      rw [State.cust_refillOne, if_neg hc]
    have sums : (cs.map fun c => (max ((s.refillOne tbl bound a).svc.cust c).balance 0).toNat) =
        cs.map fun c => (max (s.svc.cust c).balance 0).toNat :=
      List.map_congr_left fun c hc => by rw [still c fun e => ha (e ▸ hc)]
    refine ⟨frame, fun c hc => ?_, fun c hc => ?_, fun _ => ?_⟩
    · rcases List.mem_cons.1 hc with rfl | h
      · rw [others c ha, State.cust_refillOne, if_pos rfl]
      · rw [own c h, still c fun e => ha (e ▸ h)]
    · rw [List.mem_cons, not_or] at hc
      rw [others c hc.2, still c hc.1]
    · rw [List.map_cons, List.sum_cons]
      by_cases hnil : cs = []
      · subst hnil
        exact State.kitty_refillOne ..
      · rw [kitty hnil, sums, State.kitty_refillOne]
        omega

theorem exec_budgetPeriodEnd (s : State) (tbl : Nat) (hrun : s.deckRuns = true) (ht : tbl < 16) (hb : s.beat = 0)
    (he : s.periodEnds tbl s.tick = true) : exec (.budgetPeriodEnd tbl) s = .next { s.refill tbl with
      svc := (s.refill tbl).svc.setTable tbl { (s.refill tbl).svc.table tbl with refilled := some s.tick } } := by
  show within tbl 16 _ = _
  rw [within, if_pos ht, if_pos (by simp [hrun, hb]), State.applyPeriod, if_pos he]

theorem exec_budgetPeriodEnd_none (s : State) (tbl : Nat) (ht : tbl < 16) (h : s.beat ≠ 0 ∨ s.periodEnds tbl s.tick = false) :
    exec (.budgetPeriodEnd tbl) s = .next s := by
  show within tbl 16 _ = _
  rw [within, if_pos ht]
  rcases h with hb | he
  · rw [if_neg (by simp [hb])]
  · unfold State.applyPeriod
    rw [he]
    split <;> rfl

theorem State.svcReads_congr {s t : State} (p row : Nat) (ht : t.tables = s.tables) (hd : t.dck = s.dck) (hl : t.tiles = s.tiles) :
    t.svcReads p row = s.svcReads p row := by
  unfold State.svcReads State.mayAccess State.deckRuns State.table State.tile
  rw [ht, hd, hl]

theorem exec_grantFromWaiting (s : State) (i : Nat) (r : LearnRec) (hr : s.learnRec i = some r) :
    exec (.grantFromWaiting i) s = .next (if s.deckRuns && s.beat == 0 then s.retryGrant i r else s) := by
  show execGrantFromWaiting i s = _
  unfold execGrantFromWaiting
  rw [hr]

theorem exec_publicationSample (s : State) (i : Nat) (r : LearnRec) (hr : s.learnRec i = some r) :
    exec (.publicationSample i) s = .next (if s.beat = s.pubBeat then s.askPub i r else s) := by
  show execPublicationSample i s = _
  unfold execPublicationSample
  rw [hr]

@[simp] theorem Svc.rec_setRec (v : Svc) (i : Nat) (x : Lrn) : (v.setRec i x).rec_ i = x := Map.get_set_self ..

theorem Svc.rec_setRec_ne (v : Svc) (i : Nat) (x : Lrn) (j : Nat) (h : j ≠ i) : (v.setRec i x).rec_ j = v.rec_ j :=
  Map.get_set_of_ne _ _ _ _ _ h

theorem length_grantRowBytes (slot version : Nat) : (grantRowBytes slot version).length = 64 := by
  rw [grantRowBytes, List.length_append, length_leBytes]
  rfl

/-- A grant whose row no handle of the SVC grants (R365): it is not made. -/
theorem State.makeGrant_denied (s : State) (i : Nat) (r : LearnRec) (p row : Nat) (h : s.rowHere r.grantRow = some (p, row))
    (hno : s.mayAccess p 2 true row = false) :
    SameMemory s (s.makeGrant i r) ∧ ((s.makeGrant i r).svc.rec_ i).gstate = 0 ∧
      ∀ slot, (s.makeGrant i r).svc.slot slot = s.svc.slot slot := by
  unfold State.makeGrant
  rw [h]
  dsimp only
  rw [hno, if_pos (by decide)]
  obtain ⟨asked, svc, -⟩ := s.svcRows_spec p (svcKeep + 2 ^ 18 + i) 0 noDeadline row 1
    (grantRowBytes (s.grantTarget r) (s.grantVersion r)) (length_grantRowBytes ..)
  refine ⟨SameMemory.of_mem asked.mem, ?_, fun slot => ?_⟩
  · rw [Svc.rec_setRec]
  · rw [← svc]
    rfl

/-- A grant that is made (R364, R365): the record and its slot have the version, and the row of the grant word is requested. -/
theorem State.makeGrant_made (s : State) (i : Nat) (r : LearnRec) (p row : Nat) (h : s.rowHere r.grantRow = some (p, row))
    (hok : s.mayAccess p 2 true row = true) (hm : row < mappedRows) :
    let t := s.makeGrant i r
    let slot := s.grantTarget r
    SameMemory s t ∧ t.tables = s.tables ∧ (t.svc.rec_ i).gstate = 2 ∧ (t.svc.rec_ i).grantVer = s.grantVersion r ∧
      (t.svc.slot slot).state = 3 ∧ (t.svc.slot slot).ad = r.adnum ∧ (t.svc.slot slot).version = s.grantVersion r ∧
      ∃ q ∈ (t.tile p).reqs, q.cls = 3 ∧ q.row = row ∧
        q.use = .writeRx 0 (grantRowBytes slot (s.grantVersion r)) (svcKeep + 2 ^ 18 + i) 0 := by
  unfold State.makeGrant
  rw [h]
  dsimp only
  rw [hok, if_neg (by decide)]
  obtain ⟨asked, -, -, reqs, -⟩ := s.svcRows_spec p (svcKeep + 2 ^ 18 + i) 0 noDeadline row 1
    (grantRowBytes (s.grantTarget r) (s.grantVersion r)) (length_grantRowBytes ..)
  obtain ⟨q, hq, hcls, hrow, huse⟩ := reqs 0 (by decide) hm hok
  have slot : ∀ (v : Svc) (n : Nat) (x : AdSlot) (y : Lrn), ((v.setSlot n x).setRec i y).slot n = x := fun v n x y => Map.get_set_self ..
  rw [Svc.rec_setRec, slot]
  refine ⟨SameMemory.of_mem asked.mem, asked.tables, rfl, rfl, rfl, rfl, rfl, q, hq, hcls, hrow, ?_⟩
  rw [huse, Nat.mul_zero, List.drop_zero, List.take_of_length_le (by rw [length_grantRowBytes])]

theorem State.retryGrant_due (s : State) (i : Nat) (r : LearnRec) (hg : (s.svc.rec_ i).gstate = 1)
    (hp : (s.table r.ltable).phase = 3) (hs : (s.svc.slot (s.grantTarget r)).state = 0) :
    s.retryGrant i r =
      if ((s.makeGrant i r).svc.rec_ i).gstate == 2 then (s.makeGrant i r).addChoice r.ltable 1 else s.makeGrant i r := by
  unfold State.retryGrant
  rw [if_pos (by simp [hg, hp, hs, phaseLearn])]

theorem State.retryGrant_not_due (s : State) (i : Nat) (r : LearnRec)
    (h : (s.svc.rec_ i).gstate ≠ 1 ∨ (s.table r.ltable).phase ≠ 3 ∨ (s.svc.slot (s.grantTarget r)).state ≠ 0) :
    s.retryGrant i r = s := by
  unfold State.retryGrant
  rw [if_neg (by simp only [Bool.and_eq_true, beq_iff_eq, phaseLearn]; tauto)]

theorem State.addChoice_choice (s : State) (n k : Nat) :
    ((s.addChoice n k).table n).choice = min ((s.table n).choice + k) (2 ^ 64 - 1) := by
  unfold State.addChoice
  rw [State.table_modTable_self]
  dsimp only [satTo]
  split <;> omega

theorem State.askPub_of_not_due (s : State) (i : Nat) (r : LearnRec)
    (h : (s.svc.rec_ i).gstate ≠ 2 ∨ (s.svc.rec_ i).asked = true ∨ s.rowHere r.pubRow = none) : s.askPub i r = s := by
  unfold State.askPub
  dsimp only
  split
  · rfl
  · next hrow =>
    rw [if_neg]
    simp only [Bool.and_eq_true, beq_iff_eq, Bool.not_eq_true']
    rcases h with h | h | h
    · tauto
    · simp [h]
    · rw [h] at hrow; cases hrow

/-- The state in which a record's publication is about to be asked for: the read is open, and it has no rows yet. -/
def State.pubOpen (s : State) (i : Nat) : State :=
  ({ s with svc := s.svc.setRec i { s.svc.rec_ i with asked := true } }.openRead (.pub i) []).1

theorem State.askPub_due (s : State) (i : Nat) (r : LearnRec) (p row : Nat) (hrun : s.deckRuns = true)
    (hrow : s.rowHere r.pubRow = some (p, row)) (hg : (s.svc.rec_ i).gstate = 2) (ha : (s.svc.rec_ i).asked = false) :
    s.askPub i r = (s.pubOpen i).askSvcRows s.svc.nextRead p row 1 0 true := by
  unfold State.askPub
  rw [hrow]
  dsimp only
  rw [if_pos (by simp [hrun, hg, ha])]
  rfl

theorem State.forceRead_svc (s : State) (id : Nat) : (s.forceRead id).svc = { s.svc with reads := s.svc.reads.map fun x =>
    if x.id = id then { x with rows := [], buf := x.rows.foldl (fun b r => writeCells b r.2.2 (s.readRow r.1 r.2.1)) x.buf } else x } := rfl

/-- A read that waits for no row is as it was once the rows that are left have been sampled. -/
theorem State.forceRead_svc_of_whole (s : State) (y : SvcRead) (h : s.svc.reads = [y]) (hrows : y.rows = []) :
    (s.forceRead y.id).svc = s.svc := by
  rw [State.forceRead_svc, h, List.map_cons, List.map_nil, if_pos rfl, hrows]
  dsimp only [List.foldl_nil]
  rw [← hrows]
  exact congrArg (fun l => { s.svc with reads := l }) h.symm

theorem State.takeReads_one (s : State) (y : SvcRead) (h : s.svc.reads = [y]) (hrows : y.rows = []) (hfar : y.far = []) :
    s.takeReads = match y.key with
      | .results tbl => s.takeResults tbl s.tick
      | .lanes tbl => s.takeLanes tbl
      | .pub i => s.takePub i
      | .park _ => s := by
  unfold State.takeReads
  rw [h, List.filter_cons_of_pos (by simp [hrows, hfar])]
  rfl

theorem State.read?_one (s : State) (y : SvcRead) (h : s.svc.reads = [y]) (key : SvcKey) (hk : y.key = key) : s.read? key = some y := by
  rw [State.read?, h, List.find?_cons_of_pos (by simp [hk])]

theorem State.takePub_whole (s : State) (i : Nat) (y : SvcRead) (h : s.svc.reads = [y]) (hk : y.key = .pub i) (hrows : y.rows = []) :
    (s.takePub i).svc.reads = [] ∧ (s.takePub i).svc.lrn =
      (s.svc.setRec i { s.svc.rec_ i with sample := if y.bad then none else some (readCells y.buf 0 64) }).lrn := by
  have same := s.forceRead_svc_of_whole y h hrows
  have found : (s.forceRead y.id).read? (.pub i) = some y := State.read?_one _ y (by rw [same]; exact h) _ hk
  unfold State.takePub
  rw [s.read?_one y h _ hk]
  dsimp only
  rw [found]
  unfold State.closeRead
  dsimp only [Option.getD_some]
  rw [same]
  refine ⟨?_, rfl⟩
  show s.svc.reads.filter _ = []
  rw [h]
  simp

/-- Settles O60, along the three commands. The kitty is a minimum taken once for each customer, which is the minimum of the sum. -/
theorem budgetsGrantsAndPublications : Obligations.BudgetsGrantsAndPublications := by
  unfold Obligations.BudgetsGrantsAndPublications
  intro s hrun
  refine ⟨fun tbl ht => ⟨exec_budgetPeriodEnd_none s tbl ht, fun hb he hnd hne => ?_, fun hb he hnil => ?_⟩,
    fun i r hr => ⟨fun h => ?_, fun p row hb hg hp hrow hs => ⟨fun hno => ?_, fun hok hm => ?_⟩⟩,
    fun i r hr => ⟨fun h => ?_, fun p row hrow hg ha hb hon => ?_, fun y hy hk hrows hfar => ?_⟩⟩
  · refine ⟨_, exec_budgetPeriodEnd s tbl hrun ht hb he, ?_⟩
    obtain ⟨frame, own, others, kitty⟩ := State.foldl_refillOne tbl (s.serveTable tbl).kittyMax _ hnd s
    rw [← s.refill_eq] at frame own others kitty
    refine ⟨?_, own, others, ?_⟩
    · rw [frame]
    · rw [Svc.table, Svc.setTable, Map.get_set_self]
      exact kitty hne
  · refine ⟨_, exec_budgetPeriodEnd s tbl hrun ht hb he, ?_⟩
    have none_ : s.refill tbl = s := by rw [s.refill_eq, hnil]; rfl
    rw [none_]
    refine ⟨rfl, rfl, ?_⟩
    rw [Svc.table, Svc.setTable, Map.get_set_self]
  · rw [exec_grantFromWaiting s i r hr]
    by_cases hb : s.beat = 0
    · rw [if_pos (by simp [hrun, hb]), s.retryGrant_not_due i r (by tauto)]
    · rw [if_neg (by simp [hb])]
  · refine ⟨_, exec_grantFromWaiting s i r hr, ?_⟩
    rw [if_pos (by simp [hrun, hb]), s.retryGrant_due i r hg hp hs]
    obtain ⟨memory, gstate, slots⟩ := s.makeGrant_denied i r p row hrow hno
    rw [gstate, if_neg (by decide)]
    exact ⟨memory, gstate, slots _⟩
  · refine ⟨_, exec_grantFromWaiting s i r hr, ?_⟩
    rw [if_pos (by simp [hrun, hb]), s.retryGrant_due i r hg hp hs]
    obtain ⟨memory, tables, gstate, version, slot, ad, slotVersion, q, hq, hcls, hqrow, huse⟩ := s.makeGrant_made i r p row hrow hok hm
    rw [gstate, if_pos (by decide)]
    refine ⟨memory, gstate, version, slot, ?_, ad, slotVersion, q, hq, hcls, hqrow, _, _, huse⟩
    rw [State.addChoice_choice, State.table, tables, State.table]
  · rw [exec_publicationSample s i r hr]
    by_cases hb : s.beat = s.tickLen - 64
    · rw [if_pos (show s.beat = s.pubBeat from hb), s.askPub_of_not_due i r (by tauto)]
    · rw [if_neg (show s.beat ≠ s.pubBeat from hb)]
  · have opened : (s.pubOpen i).svc.reads = s.svc.reads ++ [{ id := s.svc.nextRead, key := .pub i }] := rfl
    have reads : ∀ n, (s.pubOpen i).svcReads p n = s.svcReads p n := fun n => State.svcReads_congr p n rfl rfl rfl
    obtain ⟨asked, svc, reqs, frame⟩ := (s.pubOpen i).askSvcRows_spec s.svc.nextRead p row 1 0 true hon
    refine ⟨_, ({ id := s.svc.nextRead, key := .pub i } : SvcRead).asked (s.pubOpen i) p row 1 0, exec_publicationSample s i r hr, ?_⟩
    rw [if_pos (show s.beat = s.pubBeat from hb), s.askPub_due i r p row hrun hrow hg ha]
    have recs : ∀ j, ((s.pubOpen i).askSvcRows s.svc.nextRead p row 1 0 true).svc.rec_ j =
        (s.svc.setRec i { s.svc.rec_ i with asked := true }).rec_ j := fun j => by rw [svc]; rfl
    refine ⟨SameMemory.of_mem asked.mem, by rw [frame rfl]; rfl, ?_, fun j hj => ?_, ?_, rfl, rfl, fun hm hok => ?_, fun hno => ?_⟩
    · rw [recs, Svc.rec_setRec]
    · rw [recs, Svc.rec_setRec_ne _ _ _ _ hj]
    · rw [svc]
      exact List.mem_map.2 ⟨{ id := s.svc.nextRead, key := .pub i }, by rw [opened]; simp, if_pos rfl⟩
    · have may : s.svcReads p row = true := by simp [State.svcReads, hm, hok]
      refine ⟨?_, ?_, reqs 0 (by decide) (by rw [reads]; exact may)⟩
      · simp [SvcRead.asked, reads, may]
      · simp [SvcRead.asked, reads, may]
    · have may : s.svcReads p row = false := by
        unfold State.svcReads
        rcases hno with h | h
        · simp [Nat.not_lt.2 h]
        · simp [h]
      refine ⟨?_, ?_⟩
      · simp [SvcRead.asked, reads, may]
      · simp [SvcRead.asked, reads, may]
  · dsimp only
    rw [s.takeReads_one y hy hrows hfar, hk]
    obtain ⟨reads, recs⟩ := s.takePub_whole i y hy hk hrows
    have at_ : ∀ j, (s.takePub i).svc.rec_ j =
        (s.svc.setRec i { s.svc.rec_ i with sample := if y.bad then none else some (readCells y.buf 0 64) }).rec_ j := fun j =>
      congrArg (fun m => Map.get ({} : Lrn) m j) recs
    refine ⟨reads, ?_, fun j hj => ?_⟩
    · rw [at_, Svc.rec_setRec]
    · rw [at_, Svc.rec_setRec_ne _ _ _ _ hj]

/-! ### Gathers (R336, R337) -/

theorem State.svcWrites_asked (s : State) (p src op off : Nat) (data : List Byte) :
    RowsAsked p s (s.svcWrites p src op off data) ∧ (s.svcWrites p src op off data).svc = s.svc := by
  unfold State.svcWrites
  dsimp only
  generalize hs1 : s.modTile p _ = s1
  have first : RowsAsked p s s1 := by
    rw [← hs1]
    refine RowsAsked.modTile s p _ ?_ fun r hr => ?_
    · split <;> rfl
    · split <;> exact hr
  obtain ⟨asked, svc, -⟩ := s1.svcRows_pieces p src op (s.tickBase + s.tickLen - 1) off data
  exact ⟨first.trans asked, svc.trans (by rw [← hs1]; rfl)⟩

/-- A row that has memory and that user 2 may write. -/
def State.svcWritable (s : State) (p row : Nat) : Bool := decide (row < mappedRows) && s.mayAccess p 2 true row

theorem State.svcWritable_eq (s : State) (p row : Nat) :
    (!decide (mappedRows ≤ row) && !(!decide (mappedRows ≤ row) && !s.mayAccess p 2 true row)) = s.svcWritable p row := by
  unfold State.svcWritable
  by_cases h : mappedRows ≤ row
  · simp [h, Nat.not_lt.2 h]
  · simp [h, Nat.not_le.1 h]

/-- The request of one row of a chunk (R337): its copy from where it can be read, else zeros. -/
def State.GatherRow (s : State) (p src dst gs lane : Nat) (q : RowReq) : Prop :=
  q.cls = 3 ∧ (if s.svcReads p src then q.row = src ∧ q.use = .toGather gs lane dst
    else q.row = dst ∧ q.use = .writeRx 0 (rep 64 0#8) (svcSrc + gs) lane)

/-- One lane of a gather (R337): the rows of a full lane with an adapter are requested. -/
theorem State.gatherLane_spec (s : State) (g : Nat) (c : GatherCfg) (p i adbase srows cfmt : Nat)
    (hlay : Map.get (0, 0, 0) s.dck.cfg.layout c.ltile = (adbase, srows, cfmt)) :
    let t := s.gatherLane g c p i
    let l := Map.get {} s.svc.lanes (c.lanef + i)
    let n := chunkRows cfmt
    RowsAsked p s t ∧ t.svc = s.svc ∧ (l.full = true → l.adapter = true → ∀ r < n, s.svcWritable p (c.dest + n * i + r) = true →
      ∃ q ∈ (t.tile p).reqs, s.GatherRow p (adbase + l.aslot * srows + n * c.j + r) (c.dest + n * i + r) (32 + g) (c.lanef + i) q) := by
  unfold State.gatherLane
  rw [hlay]
  dsimp only
  generalize Map.get {} s.svc.lanes (c.lanef + i) = l
  generalize hsrc : adbase + l.aslot * srows + chunkRows cfmt * c.j = src
  generalize hdst : c.dest + chunkRows cfmt * i = dst
  obtain ⟨first, svc1⟩ := s.svcWrites_asked p (svcSrc + gatherSrc g) (c.lanef + i) (16 * c.list + 16 * i)
    (leBytes 16 (64 * dst % 65536 + (16 * c.ubase + 32 * i) % 65536 * 2 ^ 16 + b2n (!(l.full && l.adapter)) * 2 ^ 32))
  generalize s.svcWrites p _ _ _ _ = s1 at *
  by_cases hon : (!(l.full && l.adapter)) = true
  · rw [if_pos hon]
    refine ⟨first, svc1, fun hf ha => ?_⟩
    rw [hf, ha] at hon
    exact absurd hon (by decide)
  · rw [if_neg hon]
    have into : ((List.range (chunkRows cfmt)).filter fun r => !decide (mappedRows ≤ dst + r) &&
        !(!decide (mappedRows ≤ dst + r) && !s.mayAccess p 2 true (dst + r))) =
        (List.range (chunkRows cfmt)).filter fun r => s.svcWritable p (dst + r) :=
      List.filter_congr fun r _ => s.svcWritable_eq p (dst + r)
    rw [into]
    generalize hrows : (List.range (chunkRows cfmt)).filter (fun r => s.svcWritable p (dst + r)) = rows
    generalize hs2 : s1.modTile p _ = s2
    have second : RowsAsked p s1 s2 := hs2 ▸ RowsAsked.modTile s1 p _ rfl fun _ h => h
    have svc2 : s2.svc = s1.svc := by rw [← hs2]; rfl
    have fold := State.foldl_requests p (fun _ : Nat => True) (fun r q => s.GatherRow p (src + r) (dst + r) (32 + g) (c.lanef + i) q)
      (f := fun s' r =>
        if decide (mappedRows ≤ src + r) || !decide (mappedRows ≤ src + r) && !s.mayAccess p 2 false (src + r) then
          s'.modTile p (·.request { cls := 3, seq := (s1.tile p).nextOp, row := dst + r, deadline := s.tickBase + s.tickLen - 1,
                                    since := s.age + 1, use := .writeRx 0 (rep 64 0#8) (svcSrc + gatherSrc g) (c.lanef + i) })
        else s'.modTile p (·.request { cls := 3, seq := (s1.tile p).nextOp, row := src + r, deadline := s.tickBase + s.tickLen - 1,
                                       since := s.age + 1, use := .toGather (gatherSrc g) (c.lanef + i) (dst + r) }))
      (fun s' r => .inr (by
        have reads := s.svcReads_eq p (src + r)
        split
        · next h =>
          refine ⟨_, ⟨rfl, ?_⟩, rfl⟩
          rw [if_neg]
          · exact ⟨rfl, rfl⟩
          · rw [← reads]
            revert h
            cases decide (mappedRows ≤ src + r) <;> simp
        · next h =>
          refine ⟨_, ⟨rfl, ?_⟩, rfl⟩
          rw [if_pos]
          · exact ⟨rfl, rfl⟩
          · rw [← reads]
            revert h
            cases decide (mappedRows ≤ src + r) <;> simp))
      rows s2
    dsimp only at fold
    obtain ⟨frame3, -, -, third, all⟩ := fold
    generalize List.foldl _ s2 rows = s3 at *
    obtain ⟨fourth, svc4, -⟩ := State.reportRows_asked s3 p
      ((List.range (chunkRows cfmt)).any fun r => decide (mappedRows ≤ src + r) || decide (mappedRows ≤ dst + r))
      ((List.range (chunkRows cfmt)).any fun r => !decide (mappedRows ≤ src + r) && !s.mayAccess p 2 false (src + r) ||
        !decide (mappedRows ≤ dst + r) && !s.mayAccess p 2 true (dst + r))
    refine ⟨((first.trans second).trans third).trans fourth, ?_, fun _ _ r hr hw => ?_⟩
    · rw [svc4, frame3]
      exact svc2.trans svc1
    · obtain ⟨q, hq, hrow⟩ := all r (by rw [← hrows]; exact List.mem_filter.2 ⟨List.mem_range.2 hr, hw⟩) trivial
      exact ⟨q, fourth.reqs q hq, hrow⟩

theorem RowsAsked.svcReads {p : Nat} {s t : State} (h : RowsAsked p s t) (row : Nat) : t.svcReads p row = s.svcReads p row := by
  rw [State.svcReads, h.mayAccess, State.svcReads]

theorem RowsAsked.svcWritable {p : Nat} {s t : State} (h : RowsAsked p s t) (row : Nat) : t.svcWritable p row = s.svcWritable p row := by
  rw [State.svcWritable, h.mayAccess, State.svcWritable]

/-- All lanes of a gather. -/
theorem State.foldl_gatherLane (g : Nat) (c : GatherCfg) (p adbase srows cfmt : Nat) (nl : Nat) (s : State)
    (hlay : Map.get (0, 0, 0) s.dck.cfg.layout c.ltile = (adbase, srows, cfmt)) :
    let t := (List.range nl).foldl (fun s i => s.gatherLane g c p i) s
    let n := chunkRows cfmt
    RowsAsked p s t ∧ t.svc = s.svc ∧ ∀ i < nl, let l := Map.get {} s.svc.lanes (c.lanef + i)
      l.full = true → l.adapter = true → ∀ r < n, s.svcWritable p (c.dest + n * i + r) = true →
        ∃ q ∈ (t.tile p).reqs, s.GatherRow p (adbase + l.aslot * srows + n * c.j + r) (c.dest + n * i + r) (32 + g) (c.lanef + i) q := by
  induction nl with
  | zero => exact ⟨RowsAsked.refl p s, rfl, fun i hi => absurd hi (Nat.not_lt_zero i)⟩
  | succ nl ih =>
    rw [List.range_succ, List.foldl_append, List.foldl_cons, List.foldl_nil]
    dsimp only at ih ⊢
    obtain ⟨asked, svc, lanes⟩ := ih
    generalize (List.range nl).foldl (fun s i => s.gatherLane g c p i) s = w at *
    obtain ⟨asked', svc', lane⟩ := w.gatherLane_spec g c p nl adbase srows cfmt (by rw [asked.dck]; exact hlay)
    refine ⟨asked.trans asked', svc'.trans svc, fun i hi hf ha r hr hw => ?_⟩
    rcases Nat.lt_succ_iff_lt_or_eq.1 hi with h | rfl
    · obtain ⟨q, hq, hrow⟩ := lanes i h hf ha r hr hw
      exact ⟨q, asked'.reqs q hq, hrow⟩
    · rw [svc] at lane
      obtain ⟨q, hq, hrow⟩ := lane hf ha r hr (by rw [asked.svcWritable]; exact hw)
      unfold State.GatherRow at hrow
      rw [asked.svcReads] at hrow
      exact ⟨q, hq, hrow⟩

theorem drop_flatten_replicate {α : Type} (e : List α) (n r : Nat) :
    (List.replicate n e).flatten.drop (e.length * r) = (List.replicate (n - r) e).flatten := by
  induction r generalizing n with
  | zero => simp
  | succ r ih =>
    cases n with
    | zero => simp
    | succ n =>
      rw [List.replicate_succ, List.flatten_cons, Nat.mul_succ, Nat.add_comm, ← List.drop_drop, List.drop_left, ih]
      congr 2
      omega

/-- The rows of a chunk that is filled with one row over and over. -/
theorem slice_flatMap_row (n : Nat) (e : List Byte) (he : e.length = 64) :
    ((List.range n).flatMap fun _ => e).length = 64 * n ∧
      ∀ r < n, (((List.range n).flatMap fun _ => e).drop (64 * r)).take 64 = e := by
  have copies : ((List.range n).flatMap fun _ => e) = (List.replicate n e).flatten := by
    rw [List.flatMap_def, List.map_const', List.length_range]
  refine ⟨by rw [copies]; simp [he, Nat.mul_comm], fun r hr => ?_⟩
  obtain ⟨k, hk⟩ : ∃ k, n - r = k + 1 := ⟨n - r - 1, by omega⟩
  rw [copies, ← he, drop_flatten_replicate, hk, List.replicate_succ, List.flatten_cons, List.take_left]

/-- The source number of a gather entry's rows. -/
theorem svcSrc_gatherSrc (g : Nat) : svcSrc + gatherSrc g = svcSrc + 32 + g := (Nat.add_assoc ..).symm

/-- The chunks of the lanes that are late are filled (R337). -/
def State.fillLane (p g : Nat) (c : GatherCfg) (cfmt : Nat) (s : State) (lane : Nat) : State :=
  s.svcRows p (svcKeep + gatherSrc g) lane noDeadline (64 * (c.dest + chunkRows cfmt * (lane - c.lanef)))
    ((List.range (chunkRows cfmt)).flatMap fun _ => nanRow cfmt)

theorem State.foldl_fillLane (p g : Nat) (c : GatherCfg) (cfmt : Nat) (late : List Nat) (s : State) :
    RowsAsked p s (late.foldl (State.fillLane p g c cfmt) s) ∧
      ((late.foldl (State.fillLane p g c cfmt) s).tile p).rx = (s.tile p).rx := by
  induction late generalizing s with
  | nil => exact ⟨RowsAsked.refl p s, rfl⟩
  | cons a late ih =>
    obtain ⟨asked, -, rx, -⟩ := s.svcRows_pieces p (svcKeep + gatherSrc g) a noDeadline (64 * (c.dest + chunkRows cfmt * (a - c.lanef)))
      ((List.range (chunkRows cfmt)).flatMap fun _ => nanRow cfmt)
    obtain ⟨asked', rx'⟩ := ih (s.fillLane p g c cfmt a)
    exact ⟨asked.trans asked', rx'.trans rx⟩

/-- Nothing is reported when every row of every chunk may be written, and the rows of each lane are requested. -/
theorem State.foldl_fillLane_of_writable (p g : Nat) (c : GatherCfg) (cfmt : Nat) (hnan : (nanRow cfmt).length = 64) (late : List Nat) (s : State)
    (ok : ∀ lane ∈ late, ∀ r < chunkRows cfmt, c.dest + chunkRows cfmt * (lane - c.lanef) + r < mappedRows ∧
      s.mayAccess p 2 true (c.dest + chunkRows cfmt * (lane - c.lanef) + r) = true) :
    let t := late.foldl (State.fillLane p g c cfmt) s
    t = { s with tiles := t.tiles } ∧ ∀ lane ∈ late, ∀ r < chunkRows cfmt,
      ∃ q ∈ (t.tile p).reqs, q.cls = 3 ∧ q.row = c.dest + chunkRows cfmt * (lane - c.lanef) + r ∧
        q.use = .writeRx 0 (nanRow cfmt) (svcKeep + gatherSrc g) lane := by
  induction late generalizing s with
  | nil => exact ⟨rfl, fun lane h => absurd h List.not_mem_nil⟩
  | cons a late ih =>
    obtain ⟨length, row⟩ := slice_flatMap_row (chunkRows cfmt) (nanRow cfmt) hnan
    obtain ⟨asked, -, -, reqs, frame⟩ := s.svcRows_spec p (svcKeep + gatherSrc g) a noDeadline
      (c.dest + chunkRows cfmt * (a - c.lanef)) (chunkRows cfmt) _ length
    have first : s.fillLane p g c cfmt a = { s with tiles := (s.fillLane p g c cfmt a).tiles } :=
      frame fun i hi => ok a List.mem_cons_self i hi
    have second := ih (s.fillLane p g c cfmt a) fun lane hl r hr => by
      obtain ⟨mapped, may⟩ := ok lane (List.mem_cons_of_mem _ hl) r hr
      exact ⟨mapped, (asked.mayAccess 2 true _).trans may⟩
    obtain ⟨frame', all⟩ := second
    obtain ⟨rest, -⟩ := State.foldl_fillLane p g c cfmt late (s.fillLane p g c cfmt a)
    rw [List.foldl_cons]
    refine ⟨by rw [frame', first], fun lane hl r hr => ?_⟩
    rcases List.mem_cons.1 hl with rfl | h
    · obtain ⟨mapped, may⟩ := ok lane List.mem_cons_self r hr
      obtain ⟨q, hq, hcls, hrow, huse⟩ := reqs r hr mapped may
      exact ⟨q, rest.reqs q hq, hcls, hrow, by rw [huse, row r hr]⟩
    · exact all lane h r hr

/-- The gather entry of a tile is over: its counters are gone, and none of its rows moves any more. -/
def Tile.closeGather (t : Tile) (g : Nat) : Tile :=
  { t with rx := t.rx.filter (·.src != svcSrc + 32 + g)
           reqs := t.reqs.filter fun r => match r.use with
             | .toGather k _ _ => k != gatherSrc g
             | .writeRx _ _ k _ => k != svcSrc + 32 + g
             | _ => true
           bank := t.bank.filter fun b => match b.use with
             | .toGather k _ _ => k != gatherSrc g
             | .writeRx _ _ k _ => k != svcSrc + 32 + g
             | _ => true }

/-- The lanes of a gather entry whose rows are not in place. -/
def Tile.lateLanes (t : Tile) (g : Nat) : List Nat :=
  ((t.rx.filter fun x => x.src == svcSrc + 32 + g).filter fun x => decide (x.done < x.total)).map (·.op)

theorem exec_gatherDeadline (s : State) (g : Nat) (c : GatherCfg) (cfmt : Nat) (hc : s.gatherCfg g = some c)
    (hlay : (Map.get (0, 0, 0) s.dck.cfg.layout c.ltile).2.2 = cfmt)
    (hmine : ((s.tile (s.physOf c.ltile)).rx.filter fun x => x.src == svcSrc + 32 + g) ≠ [])
    (hdone : c.done ≤ s.tableBeat (c.ltile / 12)) :
    exec (.gatherDeadline g) s = .next (
      let p := s.physOf c.ltile
      let t := ((s.tile p).lateLanes g).foldl (State.fillLane p g c cfmt) (s.modTile p (·.closeGather g))
      if ((s.tile p).lateLanes g).isEmpty then t else t.raise (srcTable (c.ltile / 12)) 2 0x6030 (faultTag c.ltile 0 true) 0) := by
  show execGatherDeadline g s = _
  unfold execGatherDeadline
  rw [hc]
  dsimp only
  rw [if_neg (Nat.not_lt.2 hdone)]
  unfold State.judgeGather
  rw [hc]
  dsimp only
  rw [svcSrc_gatherSrc, if_neg (by simpa using hmine), ← hlay]
  rfl

theorem exec_gatherDeadline_none (s : State) (g : Nat) (c : GatherCfg) (hc : s.gatherCfg g = some c)
    (h : ((s.tile (s.physOf c.ltile)).rx.filter fun x => x.src == svcSrc + 32 + g) = [] ∨ s.tableBeat (c.ltile / 12) < c.done) :
    exec (.gatherDeadline g) s = .next s := by
  show execGatherDeadline g s = _
  unfold execGatherDeadline
  rw [hc]
  dsimp only
  by_cases hd : s.tableBeat (c.ltile / 12) < c.done
  · rw [if_pos hd]
  · rw [if_neg hd]
    unfold State.judgeGather
    rw [hc]
    dsimp only
    rw [svcSrc_gatherSrc, h.resolve_right hd]
    rfl

/-- The state of a gather as its copies begin. -/
def State.gatherBegun (s : State) (g : Nat) : State := { s with svc := { s.svc with gathering := s.svc.gathering ++ [g] } }

theorem exec_gather (s : State) (g : Nat) (c : GatherCfg) (hc : s.gatherCfg g = some c) (hrun : s.deckRuns = true)
    (hstart : c.start ≤ s.tableBeat (c.ltile / 12)) (hnew : g ∉ s.svc.gathering) :
    exec (.gather g) s = .next ((List.range c.nl).foldl (fun s' i => s'.gatherLane g c (s.physOf c.ltile) i) (s.gatherBegun g)) := by
  show execGather g s = _
  unfold execGather
  rw [hc]
  dsimp only
  rw [if_neg (by simp [hrun, hnew, Nat.not_lt.2 hstart])]
  rfl

theorem exec_gather_none (s : State) (g : Nat) (c : GatherCfg) (hc : s.gatherCfg g = some c)
    (h : g ∈ s.svc.gathering ∨ s.tableBeat (c.ltile / 12) < c.start ∨ s.deckRuns = false) : exec (.gather g) s = .next s := by
  show execGather g s = _
  unfold execGather
  rw [hc]
  dsimp only
  rw [if_pos]
  simp only [Bool.or_eq_true, Bool.not_eq_true', decide_eq_true_eq, List.contains_iff_mem]
  tauto

/-- What every end of a gather's tick keeps and clears (R337). -/
theorem State.gatherFilled_ended (s : State) (p g : Nat) (c : GatherCfg) (cfmt : Nat) (late : List Nat) :
    let t := late.foldl (State.fillLane p g c cfmt) (s.modTile p (·.closeGather g))
    t.mem = s.mem ∧ ∀ x ∈ (t.tile p).rx, x.src ≠ svcSrc + 32 + g := by
  obtain ⟨asked, rx⟩ := State.foldl_fillLane p g c cfmt late (s.modTile p (·.closeGather g))
  refine ⟨asked.mem, fun x hx => ?_⟩
  rw [rx, State.tile_modTile_self] at hx
  simpa using (List.mem_filter.1 hx).2

/-- Settles O58, from what asking for the rows of one lane does. -/
theorem gathersFillTheirChunks : Obligations.GathersFillTheirChunks := by
  unfold Obligations.GathersFillTheirChunks
  intro s g c hc
  obtain ⟨adbase, srows, cfmt, hlay⟩ : ∃ a b d, Map.get (0, 0, 0) s.dck.cfg.layout c.ltile = (a, b, d) := ⟨_, _, _, rfl⟩
  have chunk : chunkRows cfmt = if cfmt = 1 then 32 else 16 := by simp [chunkRows]
  rw [hlay]
  dsimp only
  rw [← chunk]
  generalize hp : s.physOf c.ltile = p
  have late : ∀ x : RxOp, x ∈ (s.tile p).rx.filter (fun x => x.src == svcSrc + 32 + g) → x.done < x.total → x.op ∈ (s.tile p).lateLanes g :=
    fun x hx hl => List.mem_map.2 ⟨x, List.mem_filter.2 ⟨hx, by simpa using hl⟩, rfl⟩
  have nonempty : ∀ x : RxOp, x ∈ (s.tile p).rx.filter (fun x => x.src == svcSrc + 32 + g) →
      ((s.tile p).rx.filter fun x => x.src == svcSrc + 32 + g) ≠ [] := fun x hx h => by
    rw [h] at hx
    cases hx
  have ended := s.gatherFilled_ended p g c cfmt ((s.tile p).lateLanes g)
  have run := fun hmine hdone => exec_gatherDeadline s g c cfmt hc (by rw [hlay]) hmine hdone
  rw [hp] at run
  dsimp only at ended run
  refine ⟨fun hrun hstart hnew => ?_, exec_gather_none s g c hc, fun h => exec_gatherDeadline_none s g c hc (by rw [hp]; exact h),
    fun hne hdone hall => ?_, fun hdone hnan hok x hx hl => ?_, fun hdone x hx hl => ?_⟩
  · refine ⟨_, exec_gather s g c hc hrun hstart hnew, ?_⟩
    rw [hp]
    obtain ⟨asked, svc, lanes⟩ := State.foldl_gatherLane g c p adbase srows cfmt c.nl (s.gatherBegun g) hlay
    have reads : ∀ n, (s.gatherBegun g).svcReads p n = s.svcReads p n := fun n => State.svcReads_congr p n rfl rfl rfl
    refine ⟨SameMemory.of_mem asked.mem, by rw [svc]; rfl, fun i hi r hr hf ha hm hmay => ?_⟩
    obtain ⟨q, hq, hcls, hrow⟩ := lanes i hi hf ha r hr (by
      rw [State.svcWritable, Bool.and_eq_true, decide_eq_true_eq]
      exact ⟨hm, hmay⟩)
    rw [reads] at hrow
    refine ⟨fun hsrc hread => ⟨q, hq, hcls, ?_⟩, fun hno => ⟨q, hq, hcls, ?_⟩⟩
    · have may : s.svcReads p (adbase + (Map.get {} s.svc.lanes (c.lanef + i)).aslot * srows + chunkRows cfmt * c.j + r) = true := by
        simp [State.svcReads, hsrc, hread]
      exact (if_pos (α := Prop) may).mp hrow
    · have may : s.svcReads p (adbase + (Map.get {} s.svc.lanes (c.lanef + i)).aslot * srows + chunkRows cfmt * c.j + r) = false := by
        unfold State.svcReads
        rcases hno with h | h
        · simp [Nat.not_lt.2 h]
        · simp [h]
      rw [← svcSrc_gatherSrc]
      exact (if_neg (α := Prop) fun h => Bool.false_ne_true (may.symm.trans h)).mp hrow
  · have none_ : (s.tile p).lateLanes g = [] := by
      unfold Tile.lateLanes
      rw [List.filter_eq_nil_iff.2 fun x hx => by simpa using hall x hx]
      rfl
    rw [none_] at run ended
    exact ⟨_, run hne hdone, ⟨SameMemory.of_mem ended.1, ended.2⟩, rfl⟩
  · have some_ := late x hx hl
    have writable : ∀ lane ∈ (s.tile p).lateLanes g, ∀ r < chunkRows cfmt, c.dest + chunkRows cfmt * (lane - c.lanef) + r < mappedRows ∧
        (s.modTile p (·.closeGather g)).mayAccess p 2 true (c.dest + chunkRows cfmt * (lane - c.lanef) + r) = true := fun lane hlane r hr => by
      obtain ⟨y, hy, rfl⟩ := List.mem_map.1 hlane
      obtain ⟨hy, hlate⟩ := List.mem_filter.1 hy
      obtain ⟨mapped, may⟩ := hok y hy (by simpa using hlate) r hr
      refine ⟨mapped, ?_⟩
      unfold State.mayAccess at may ⊢
      rw [State.tile_modTile_self]
      exact may
    obtain ⟨frame, all⟩ := State.foldl_fillLane_of_writable p g c cfmt hnan ((s.tile p).lateLanes g) (s.modTile p (·.closeGather g)) writable
    rw [if_neg (by rw [List.isEmpty_iff]; exact fun h => by rw [h] at some_; cases some_)] at run
    refine ⟨_, run (nonempty x hx) hdone, ?_⟩
    generalize ((s.tile p).lateLanes g).foldl (State.fillLane p g c cfmt) (s.modTile p (·.closeGather g)) = u at *
    obtain ⟨memory, rx⟩ := ended
    have hif : u.hif = s.hif := by rw [frame]; rfl
    have rcu : u.rcu = s.rcu := by rw [frame]; rfl
    refine ⟨⟨SameMemory.of_mem ((State.raise_mem ..).trans memory), ?_⟩, ?_, fun r hr => ?_⟩
    · rw [State.tile_raise]
      exact rx
    · exact (State.raise_posted u ..).of_before (by rw [State.queue, hif, State.queue]) (by rw [hif]) rcu
    · obtain ⟨q, hq, hcls, hrow, huse⟩ := all x.op some_ r hr
      refine ⟨q, ?_, hcls, hrow, by rw [huse, gatherSrc, Nat.add_assoc]⟩
      rw [State.tile_raise]
      exact hq
  · have some_ := late x hx hl
    rw [if_neg (by rw [List.isEmpty_iff]; exact fun h => by rw [h] at some_; cases some_)] at run
    refine ⟨_, ((s.tile p).lateLanes g).foldl (State.fillLane p g c cfmt) (s.modTile p (·.closeGather g)), run (nonempty x hx) hdone, ?_⟩
    generalize ((s.tile p).lateLanes g).foldl (State.fillLane p g c cfmt) (s.modTile p (·.closeGather g)) = u at *
    obtain ⟨memory, rx⟩ := ended
    refine ⟨⟨SameMemory.of_mem ((State.raise_mem ..).trans memory), ?_⟩, State.raise_posted u ..⟩
    rw [State.tile_raise]
    exact rx

end Sys2Proof.Machine
end

section
/-! PROOFS. Requests of the SVC (R317 to R350): how they end, and what their results, input records, lane maps and parks do. -/

namespace Sys2Proof.Machine

/-! ### Requests end (R317, R322, R347) -/

theorem State.stopRestore_frame (s : State) (q : Request) : s.stopRestore q = { s with tiles := (s.stopRestore q).tiles } := by
  unfold State.stopRestore
  split <;> rfl

theorem Map.look_map_values {α β : Type} (d : α) (f : Nat × α → α) (look : α → β) (h : ∀ e, look (f e) = look e.2) (m : List (Nat × α)) (i : Nat) :
    look (Map.get d (m.map fun e => (e.1, f e)) i) = look (Map.get d m i) := by
  induction m with
  | nil => rfl
  | cons a m ih =>
    simp only [List.map_cons, Map.get]
    split
    · exact h a
    · exact ih

theorem State.stopRestore_rx (s : State) (q : Request) (p : Nat) : ((s.stopRestore q).tile p).rx = (s.tile p).rx := by
  unfold State.stopRestore
  split
  · refine Map.look_map_values ({} : Tile) _ Tile.rx ?_ s.tiles p
    exact fun _ => rfl
  · rfl

/-- The terminal records of the duplicates of a request (R347). -/
theorem State.foldl_terminal (l : List Nat) (tbl status id detail : Nat) (s : State) :
    let t := l.foldl (fun s _ => s.terminal tbl status id detail) s
    t.mem = s.mem ∧ t.out = s.out ∧ t.svc = s.svc ∧ t.tiles = s.tiles := by
  induction l generalizing s with
  | nil => exact ⟨rfl, rfl, rfl, rfl⟩
  | cons a l ih =>
    obtain ⟨mem, out, svc, tiles⟩ := ih (s.terminal tbl status id detail)
    exact ⟨mem.trans (State.raise_mem ..), out.trans (State.raise_out ..), svc.trans (State.raise_svc ..), tiles.trans (State.raise_tiles ..)⟩

@[simp] theorem Svc.reqs_unpin (v : Svc) (slot : Nat) : (v.unpin slot).reqs = v.reqs := rfl

/-- A request ends: it leaves the table of requests, and nothing reaches memory or the device's outputs. -/
theorem State.endRequest_spec (s : State) (q : Request) (status e : Nat) :
    let t := s.endRequest q status e
    t.mem = s.mem ∧ t.out = s.out ∧ (∀ p, (t.tile p).rx = (s.tile p).rx) ∧ t.svc.reqs = s.svc.reqs.filter (·.id != q.id) := by
  unfold State.endRequest
  dsimp only
  generalize hd : termDetail (if e = 3 then q.score else q.delivered) e false q.lossy q.version = detail
  obtain ⟨mem2, out2, svc2, tiles2⟩ := State.foldl_terminal (List.range q.dups) q.table status q.id (withDup detail)
    ((s.stopRestore q).terminal q.table status q.id detail)
  have mem0 : (s.stopRestore q).mem = s.mem := by rw [State.stopRestore_frame]
  have out0 : (s.stopRestore q).out = s.out := by rw [State.stopRestore_frame]
  have svc0 : (s.stopRestore q).svc = s.svc := by rw [State.stopRestore_frame]
  have rx0 := s.stopRestore_rx q
  generalize List.foldl _ _ (List.range q.dups) = s2 at *
  generalize s.stopRestore q = s0 at *
  refine ⟨?_, ?_, fun p => ?_, ?_⟩
  · exact mem2.trans ((State.raise_mem ..).trans mem0)
  · exact out2.trans ((State.raise_out ..).trans out0)
  · rw [← rx0 p]
    refine congrArg Tile.rx ?_
    show Map.get {} s2.tiles p = _
    rw [tiles2]
    exact State.tile_raise ..
  · have reqs : s2.svc.reqs = s.svc.reqs := by
      rw [svc2, ← svc0]
      exact congrArg Svc.reqs (State.raise_svc ..)
    cases q.pin with
    | none =>
      show s2.svc.reqs.filter _ = _
      rw [reqs]
    | some x =>
      show s2.svc.reqs.filter _ = _
      rw [reqs]

/-- A request without duplicates raises the one record. -/
theorem State.endRequest_posted (s : State) (q : Request) (status e : Nat) (h : q.dups = 0) :
    Posted s (s.endRequest q status e) (srcTable q.table) 1 status q.id
      (termDetail (if e = 3 then q.score else q.delivered) e false q.lossy q.version) := by
  unfold State.endRequest
  rw [h]
  dsimp only [List.range_zero, List.foldl_nil]
  have posted := State.raise_posted (s.stopRestore q) (srcTable q.table) 1 status q.id
    (termDetail (if e = 3 then q.score else q.delivered) e false q.lossy q.version)
  have hif : (s.stopRestore q).hif = s.hif := by rw [State.stopRestore_frame]
  have rcu : (s.stopRestore q).rcu = s.rcu := by rw [State.stopRestore_frame]
  unfold State.terminal
  generalize s.stopRestore q = s0 at *
  generalize s0.raise _ _ _ _ _ = s1 at *
  exact (posted.of_before (by rw [State.queue, hif, State.queue]) (by rw [hif]) rcu).of_queue rfl

/-- Several requests end: those of their IDs leave the table. -/
theorem State.foldl_endRequest (status : Nat) (l : List Request) (s : State) :
    let t := l.foldl (fun s q => s.endRequest q status endNone) s
    t.mem = s.mem ∧ t.out = s.out ∧ (∀ p, (t.tile p).rx = (s.tile p).rx) ∧
      ∀ q, q ∈ t.svc.reqs ↔ q ∈ s.svc.reqs ∧ ∀ x ∈ l, q.id ≠ x.id := by
  induction l generalizing s with
  | nil => exact ⟨rfl, rfl, fun _ => rfl, fun q => by simp⟩
  | cons a l ih =>
    obtain ⟨mem, out, rx, reqs⟩ := s.endRequest_spec a status endNone
    obtain ⟨mem', out', rx', reqs'⟩ := ih (s.endRequest a status endNone)
    refine ⟨mem'.trans mem, out'.trans out, fun p => (rx' p).trans (rx p), fun q => ?_⟩
    rw [List.foldl_cons, reqs', reqs, List.mem_filter, List.forall_mem_cons, bne_iff_ne]
    tauto

/-! ### Results, input records and lane maps (R327 to R330) -/

/-- The rows of several steps are asked for in one read (R330): it waits for those of each. -/
theorem State.foldl_askSvcRows (id lt row0 p : Nat) (ds : List StepRun) (s : State) (hon : s.sramOff = false) (hp : s.physOf lt = p)
    (y : SvcRead) (hy : y ∈ s.svc.reads) (hid : y.id = id) :
    let t := ds.foldl (fun s r => s.askSvcRows id (s.physOf lt) (row0 + r.lane) r.n (64 * r.lane) false) s
    RowsAsked p s t ∧ t.svc.reqs = s.svc.reqs ∧ ∃ y' ∈ t.svc.reads, y'.id = id ∧ y'.key = y.key ∧ y'.fails = y.fails ∧
      (∀ e ∈ y.rows, e ∈ y'.rows) ∧
      ∀ r ∈ ds, ∀ i < r.n, s.svcReads p (row0 + r.lane + i) = true →
        (p, row0 + r.lane + i, 64 * r.lane + 64 * i) ∈ y'.rows ∧
          ∃ q ∈ (t.tile p).reqs, q.cls = 3 ∧ q.row = row0 + r.lane + i ∧ q.use = .toSvc id (64 * r.lane + 64 * i) := by
  induction ds generalizing s y with
  | nil => exact ⟨RowsAsked.refl p s, rfl, y, hy, hid, rfl, rfl, fun _ h => h, fun r hr => absurd hr List.not_mem_nil⟩
  | cons a ds ih =>
    rw [List.foldl_cons, hp]
    obtain ⟨asked, svc, reqs, -⟩ := s.askSvcRows_spec id p (row0 + a.lane) a.n (64 * a.lane) false hon
    generalize s.askSvcRows id p (row0 + a.lane) a.n (64 * a.lane) false = u at *
    have here : y.asked s p (row0 + a.lane) a.n (64 * a.lane) ∈ u.svc.reads := by
      rw [svc]
      exact List.mem_map.2 ⟨y, hy, if_pos hid⟩
    obtain ⟨asked', reqs', y', hy', hid', hkey, hfails, hrows, all⟩ :=
      ih u (asked.power.trans hon) ((asked.physOf lt).trans hp) _ here hid
    refine ⟨asked.trans asked', reqs'.trans (by rw [svc]), y', hy', hid', hkey, hfails, fun e he => hrows e (List.mem_append_left _ he),
      fun r hr i hi hread => ?_⟩
    rcases List.mem_cons.1 hr with rfl | h
    · obtain ⟨q, hq, hrest⟩ := reqs i hi hread
      refine ⟨hrows _ (List.mem_append_right _ ?_), q, asked'.reqs q hq, hrest⟩
      exact List.mem_map.2 ⟨i, List.mem_filter.2 ⟨List.mem_range.2 hi, hread⟩, rfl⟩
    · exact all r h i hi ((asked.svcReads _).trans hread)

theorem exec_resultRead (s : State) (tbl : Nat) (l : List Nat) (ht : tbl < 16) (hrun : s.deckRuns = true) (hrole : (s.serveTable tbl).role = 1)
    (hb : (s.serveTable tbl).rbeat ≤ s.tableBeat tbl) (hdue : s.dueSteps tbl s.tick ≠ []) (hread : s.read? (.results tbl) = none) :
    exec (.resultRead ⟨tbl, l⟩) s = .next ((s.dueSteps tbl s.tick).foldl (fun t r =>
      t.askSvcRows s.svc.nextRead (t.physOf (s.serveTable tbl).resTile) ((s.serveTable tbl).resRow + r.lane) r.n (64 * r.lane) false)
      (s.openRead (.results tbl) l).1) := by
  show within tbl 16 _ = _
  rw [within, if_pos ht, if_pos (by simp [hrun, hrole, hb]), State.askResults, if_neg (by simp [hdue, hread])]
  rfl

theorem exec_resultRead_none (s : State) (tbl : Nat) (l : List Nat) (ht : tbl < 16)
    (h : s.tableBeat tbl < (s.serveTable tbl).rbeat ∨ s.dueSteps tbl s.tick = [] ∨ s.read? (.results tbl) ≠ none) :
    exec (.resultRead ⟨tbl, l⟩) s = .next s := by
  show within tbl 16 _ = _
  rw [within, if_pos ht]
  by_cases hb : s.tableBeat tbl < (s.serveTable tbl).rbeat
  · rw [if_neg (by simp [hb])]
  · have none_ : s.askResults tbl s.tick l = s := by
      unfold State.askResults
      refine if_pos ?_
      rcases h.resolve_left hb with h | h
      · simp [h]
      · simp [Option.isSome_iff_ne_none.2 h]
    dsimp only
    rw [none_, ite_self]

/-- The state in which a whole read has been used. -/
theorem State.readUsed_svc (s : State) (y : SvcRead) (h : s.svc.reads = [y]) (hrows : y.rows = []) :
    ((s.forceRead y.id).closeRead y.id).svc = { s.svc with reads := [] } := by
  unfold State.closeRead
  dsimp only
  rw [s.forceRead_svc_of_whole y h hrows, h, List.filter_cons_of_neg (by simp), List.filter_nil]

/-- A SCORE's last lane gives its score (R330), or 0x2004 when the write of it fails (R349). -/
theorem State.stepResult_score (s : State) (fails : Bool) (q : Request) (r : StepRun) (l : List ResultRec)
    (hfault : (s.table q.table).dfault = none) (hstep : stepFault r l = none) (hgen : r.gen = false) (hsampled : r.sampled = true)
    (hscore : q.isScore = true) :
    s.stepResult fails q r l =
      let q1 := { q with steps := q.steps.map fun (x : StepRun) => if x.tick == r.tick && x.lane == r.lane then { x with read := true } else x }
      let x := nth (resultOf []) l (r.n - 1)
      if fails then (s, q1.outFailed)
      else (s.hostStore (s.tableFn q.table) q.out (leBytes 4 x.token), { q1 with score := x.token, result := some (0, 3) }) := by
  unfold State.stepResult
  dsimp only
  rw [hfault, hstep, hgen, hsampled, hscore]
  rfl

/-- The results of a table with one request, of which one step is due. -/
theorem State.takeResults_one (s : State) (tbl t : Nat) (y : SvcRead) (q : Request) (r : StepRun) (hreads : s.svc.reads = [y])
    (hkey : y.key = .results tbl) (hrows : y.rows = []) (hreqs : s.svc.reqs = [q]) (htable : q.table = tbl) (hresult : q.result = none)
    (hdue : q.due (s.serveTable tbl).step t = [r]) :
    s.takeResults tbl t =
      let a := ((s.forceRead y.id).closeRead y.id).stepResult (y.fails.contains q.id) q r (y.records r.lane r.n)
      a.1.modReq q.id fun _ => a.2 := by
  have svc := s.forceRead_svc_of_whole y hreads hrows
  have found : (s.forceRead y.id).read? (.results tbl) = some y := State.read?_one _ y (by rw [svc]; exact hreads) _ hkey
  have used := s.readUsed_svc y hreads hrows
  have dck : ((s.forceRead y.id).closeRead y.id).serveTable tbl = s.serveTable tbl := rfl
  unfold State.takeResults
  rw [s.read?_one y hreads _ hkey]
  dsimp only
  rw [found]
  unfold State.readResults State.reqsOf
  rw [used, hreqs, List.filter_cons_of_pos (by simp [htable]), List.filter_nil, List.foldl_cons, List.foldl_nil]
  unfold State.readRequest
  rw [htable, dck, hdue, List.foldl_cons, List.foldl_nil]
  dsimp only
  rw [hresult]
  rfl

theorem exec_inputRecordDeadline (s : State) (tbl : Nat) (ht : tbl < 16) : exec (.inputRecordDeadline tbl) s =
    .next (if s.tableBeat tbl < (s.serveTable tbl).idone then s else s.judgeInputs tbl) := if_pos ht

theorem State.judgeInputs_of_some (s : State) (tbl : Nat) (r : RxOp) (rest : List RxOp)
    (h : takeFirst (fun (r : RxOp) => r.src == inputSrc tbl) (s.tile (s.physOf (s.serveTable tbl).inTile)).rx = some (r, rest)) :
    s.judgeInputs tbl =
      let u := s.modTile (s.physOf (s.serveTable tbl).inTile) fun t => { t with rx := rest }
      if r.total ≤ r.done then u else u.endAll (fun q => q.table == tbl && q.steps.any (·.tick == s.tick)) 0x6030 := by
  unfold State.judgeInputs
  dsimp only
  rw [h]

theorem State.judgeInputs_of_none (s : State) (tbl : Nat)
    (h : takeFirst (fun (r : RxOp) => r.src == inputSrc tbl) (s.tile (s.physOf (s.serveTable tbl).inTile)).rx = none) :
    s.judgeInputs tbl = s := by
  unfold State.judgeInputs
  dsimp only
  rw [h]

theorem exec_laneMapSample (s : State) (tbl : Nat) (ht : tbl < 16) (hrun : s.deckRuns = true) (hrole : (s.serveTable tbl).role = 2) :
    exec (.laneMapSample tbl) s = .next (if (s.serveTable tbl).rbeat ≤ s.tableBeat tbl then s.askLanes tbl else s) := by
  show within tbl 16 _ = _
  rw [within, if_pos ht]
  dsimp only
  rw [hrun, hrole]
  by_cases h : (s.serveTable tbl).rbeat ≤ s.tableBeat tbl
  · rw [if_pos (by simp [h]), if_pos h]
  · rw [if_neg (by simp [h]), if_neg h]

/-- The state in which a lane map is about to be asked for: its read is open, and has no rows yet. -/
def State.lanesOpen (s : State) (tbl : Nat) : State :=
  ({ s with svc := { s.svc with mapsRead := s.svc.mapsRead ++ [tbl] } }.openRead (.lanes tbl) []).1

theorem State.askLanes_new (s : State) (tbl : Nat) (h : tbl ∉ s.svc.mapsRead) :
    s.askLanes tbl = (s.lanesOpen tbl).askSvcRows s.svc.nextRead (s.physOf (s.serveTable tbl).mapTile) (s.serveTable tbl).mapRow
      (ceilDiv (2 * (s.serveTable tbl).nlane) 64) 0 false := by
  unfold State.askLanes
  rw [if_neg (by simpa using h)]
  rfl

theorem State.takeLanes_whole (s : State) (tbl : Nat) (y : SvcRead) (h : s.svc.reads = [y]) (hk : y.key = .lanes tbl) (hrows : y.rows = []) :
    s.takeLanes tbl = { s.forceRead y.id with svc := { s.svc with
      reads := [],
      nextLanes := (List.range (s.serveTable tbl).nlane).foldl (fun m i =>
        Map.set {} m ((s.serveTable tbl).lane0 + i) (laneOf (leNat (readCells y.buf (2 * i) 2)))) s.svc.nextLanes } } := by
  have same := s.forceRead_svc_of_whole y h hrows
  have found : (s.forceRead y.id).read? (.lanes tbl) = some y := State.read?_one _ y (by rw [same]; exact h) _ hk
  unfold State.takeLanes
  rw [s.read?_one y h _ hk]
  dsimp only
  rw [found]
  unfold State.closeRead
  dsimp only [Option.getD_some]
  rw [same, h, List.filter_cons_of_neg (by simp), List.filter_nil]

/-- Entries written one after the other from `lane0` on. -/
theorem Map.get_foldl_set_range {α : Type} [DecidableEq α] (d : α) (lane0 n : Nat) (v : Nat → α) (m : List (Nat × α)) (e : Nat) :
    Map.get d ((List.range n).foldl (fun m i => Map.set d m (lane0 + i) (v i)) m) e =
      if lane0 ≤ e ∧ e < lane0 + n then v (e - lane0) else Map.get d m e := by
  induction n with
  | zero => rw [if_neg (by omega)]; rfl
  | succ n ih =>
    rw [List.range_succ, List.foldl_append, List.foldl_cons, List.foldl_nil, Map.get_set, ih]
    by_cases h : e = lane0 + n
    · subst h
      rw [if_pos rfl, if_pos (by omega), Nat.add_sub_cancel_left]
    · rw [if_neg h]
      by_cases h' : lane0 ≤ e ∧ e < lane0 + n
      · rw [if_pos h', if_pos (by omega)]
      · rw [if_neg h', if_neg (by omega)]

/-- Settles O57, along the three commands and the two uses of a whole read. -/
theorem tablesReadTheirRecords : Obligations.TablesReadTheirRecords := by
  unfold Obligations.TablesReadTheirRecords
  intro s tbl ht
  dsimp only
  refine ⟨fun l hrun hrole => ⟨exec_resultRead_none s tbl l ht, fun hb hdue hread hon => ?_⟩, ?_, ⟨fun hnone => ?_, fun r rest hsome => ⟨fun hb => ?_, fun hb hd => ?_, fun hb hd => ?_⟩⟩,
    fun hrun hrole => ⟨fun h => ?_, fun hb hnew hon => ?_⟩, fun y hreads hkey hrows hfar => ?_⟩
  · obtain ⟨asked, reqs, y, hy, hid, hkey, hfails, -, all⟩ := State.foldl_askSvcRows s.svc.nextRead (s.serveTable tbl).resTile
      (s.serveTable tbl).resRow (s.physOf (s.serveTable tbl).resTile) (s.dueSteps tbl s.tick) (s.openRead (.results tbl) l).1 hon rfl
      { id := s.svc.nextRead, key := .results tbl, fails := l } (List.mem_append_right _ List.mem_cons_self) rfl
    refine ⟨_, exec_resultRead s tbl l ht hrun hrole hb hdue hread, SameMemory.of_mem asked.mem, asked.out, reqs, y, hy, hid, hkey, hfails,
      fun r hr i hi hm hmay => all r hr i hi ?_⟩
    have may : s.svcReads (s.physOf (s.serveTable tbl).resTile) ((s.serveTable tbl).resRow + r.lane + i) = true := by
      simp [State.svcReads, hm, hmay]
    exact (State.svcReads_congr _ _ rfl rfl rfl).trans may
  · intro y q r hreads hkey hrows hfar hreqs htable hscore hresult hdue hgen hsampled hfault hstep hlead
    rw [s.takeReads_one y hreads hrows hfar, hkey]
    dsimp only
    rw [s.takeResults_one tbl s.tick y q r hreads hkey hrows hreqs htable hresult hdue]
    obtain ⟨u, hu⟩ : ∃ u, u = (s.forceRead y.id).closeRead y.id := ⟨_, rfl⟩
    have svc : u.svc = { s.svc with reads := [] } := hu ▸ s.readUsed_svc y hreads hrows
    have mem : u.mem = s.mem := by rw [hu]; rfl
    have out : u.out = s.out := by rw [hu]; rfl
    have lead : u.hif.leadValid = false := by rw [hu]; exact hlead
    have table : (u.table q.table).dfault = none := by rw [hu, htable]; exact hfault
    rw [← hu, u.stepResult_score _ q r _ table hstep hgen hsampled hscore]
    by_cases hf : q.id ∈ y.fails
    · rw [if_pos (by simpa using hf)]
      unfold State.modReq
      dsimp only
      rw [svc, hreqs, List.map_cons, List.map_nil, if_pos (by simp)]
      exact ⟨SameMemory.of_mem mem, rfl, _, rfl, rfl, rfl, fun h => absurd hf h, fun _ => ⟨out, rfl⟩⟩
    · rw [if_neg (by simpa using hf), State.hostStore, if_neg (by rw [lead]; decide)]
      unfold State.modReq State.emit
      dsimp only
      rw [svc, hreqs, List.map_cons, List.map_nil, if_pos (by simp), out]
      exact ⟨SameMemory.of_mem mem, rfl, _, rfl, rfl, rfl, fun _ => ⟨rfl, rfl, rfl⟩, fun h => absurd h hf⟩
  · rw [exec_inputRecordDeadline s tbl ht, s.judgeInputs_of_none tbl hnone, ite_self]
  · rw [exec_inputRecordDeadline s tbl ht, if_pos hb]
  · refine ⟨_, (exec_inputRecordDeadline s tbl ht).trans (by rw [if_neg (Nat.not_lt.2 hb), s.judgeInputs_of_some tbl r rest hsome]), ?_⟩
    dsimp only
    rw [if_pos hd]
    refine ⟨⟨rfl, fun q hq => State.tile_setTile_ne _ _ _ _ hq⟩, ?_⟩
    rw [State.tile_modTile_self]
  · refine ⟨_, (exec_inputRecordDeadline s tbl ht).trans (by rw [if_neg (Nat.not_lt.2 hb), s.judgeInputs_of_some tbl r rest hsome]), ?_⟩
    dsimp only
    rw [if_neg (Nat.not_le.2 hd)]
    unfold State.endAll
    generalize hv : (s.modTile (s.physOf (s.serveTable tbl).inTile) fun t => { t with rx := rest }) = v
    have reqsv : v.svc.reqs = s.svc.reqs := by rw [← hv]; rfl
    have picked : ∀ x : Request, (x ∈ v.svc.reqs.filter fun q => q.table == tbl && q.steps.any (·.tick == s.tick)) ↔
        x ∈ s.svc.reqs ∧ x.table = tbl ∧ ∃ z ∈ x.steps, z.tick = s.tick := fun x => by
      rw [reqsv, List.mem_filter]
      simp
    generalize (v.svc.reqs.filter fun q => q.table == tbl && q.steps.any (·.tick == s.tick)) = l at *
    obtain ⟨mem, -, rx, reqs⟩ := State.foldl_endRequest 0x6030 l v
    simp only [picked, reqsv] at reqs
    refine ⟨SameMemory.of_mem (mem.trans (by rw [← hv]; rfl)), ?_, fun q hq => ?_, fun q hq hall => (reqs q).2 ⟨hq, fun x hx e => ?_⟩⟩
    · rw [rx, ← hv, State.tile_modTile_self]
    · obtain ⟨hmem, hno⟩ := (reqs q).1 hq
      exact ⟨hmem, fun htab y hy htick => hno q ⟨hmem, htab, y, hy, htick⟩ rfl⟩
    · obtain ⟨hx, htab, z, hz, htick⟩ := hx
      rcases hall x hx e.symm with h | h
      · exact h htab
      · exact h z hz htick
  · rw [exec_laneMapSample s tbl ht hrun hrole]
    by_cases hb : (s.serveTable tbl).rbeat ≤ s.tableBeat tbl
    · have old := h.resolve_left (Nat.not_lt.2 hb)
      have none_ : s.askLanes tbl = s := if_pos (by simpa using old)
      rw [none_, ite_self]
    · rw [if_neg hb]
  · refine ⟨_, (exec_laneMapSample s tbl ht hrun hrole).trans (by rw [if_pos hb, s.askLanes_new tbl hnew]), ?_⟩
    obtain ⟨asked, svc, reqs, -⟩ := (s.lanesOpen tbl).askSvcRows_spec s.svc.nextRead (s.physOf (s.serveTable tbl).mapTile)
      (s.serveTable tbl).mapRow (ceilDiv (2 * (s.serveTable tbl).nlane) 64) 0 false hon
    generalize (s.lanesOpen tbl).askSvcRows _ _ _ _ _ _ = t at *
    refine ⟨SameMemory.of_mem asked.mem, by rw [svc]; rfl, by rw [svc]; rfl, by rw [svc]; rfl,
      ({ id := s.svc.nextRead, key := .lanes tbl } : SvcRead).asked (s.lanesOpen tbl) (s.physOf (s.serveTable tbl).mapTile)
        (s.serveTable tbl).mapRow (ceilDiv (2 * (s.serveTable tbl).nlane) 64) 0, ?_, rfl, rfl, fun i hi hm hmay => ?_⟩
    · rw [svc]
      exact List.mem_map.2 ⟨{ id := s.svc.nextRead, key := .lanes tbl }, List.mem_append_right _ List.mem_cons_self, if_pos rfl⟩
    · have may : (s.lanesOpen tbl).svcReads (s.physOf (s.serveTable tbl).mapTile) ((s.serveTable tbl).mapRow + i) = true := by
        have here : s.svcReads (s.physOf (s.serveTable tbl).mapTile) ((s.serveTable tbl).mapRow + i) = true := by
          simp [State.svcReads, hm, hmay]
        exact (State.svcReads_congr _ _ rfl rfl rfl).trans here
      obtain ⟨q, hq, hcls, hrow, huse⟩ := reqs i hi may
      rw [Nat.zero_add] at huse
      refine ⟨List.mem_append_right _ (List.mem_map.2 ⟨i, List.mem_filter.2 ⟨List.mem_range.2 hi, may⟩, ?_⟩), q, hq, hcls, hrow, huse⟩
      rw [Nat.zero_add]
  · rw [s.takeReads_one y hreads hrows hfar, hkey]
    dsimp only
    rw [s.takeLanes_whole tbl y hreads hkey hrows]
    have lane := Map.get_foldl_set_range ({} : Lane) (s.serveTable tbl).lane0 (s.serveTable tbl).nlane
      (fun i => laneOf (leNat (readCells y.buf (2 * i) 2))) s.svc.nextLanes
    refine ⟨SameMemory.of_mem rfl, rfl, rfl, fun i hi => (lane _).trans ?_, fun n hn => (lane n).trans ?_⟩
    · rw [if_pos (by omega), Nat.add_sub_cancel_left]
    · rw [if_neg (by omega)]

/-! ### What leaves through the ports for another device (R281, R312) -/

/-- Nothing changes but the ports, the record queues and the log. -/
def PortsAndRecords (s t : State) : Prop :=
  t = { s with ports := t.ports, hif := { s.hif with queues := t.hif.queues },
               mgc := { s.mgc with logNew := t.mgc.logNew, logRate := t.mgc.logRate } }

theorem PortsAndRecords.refl (s : State) : PortsAndRecords s s := rfl

theorem PortsAndRecords.trans {s t u : State} (h : PortsAndRecords s t) (k : PortsAndRecords t u) : PortsAndRecords s u := by
  unfold PortsAndRecords at h k ⊢
  refine k.trans ?_
  rw [h]

theorem PortsAndRecords.modPort (s : State) (n : Nat) (f : Port → Port) : PortsAndRecords s (s.modPort n f) := rfl

theorem PortsAndRecords.raise (s : State) (src kind status tag detail : Nat) :
    PortsAndRecords s (s.raise src kind status tag detail) := by
  have h := State.raise_onlyRecords s src kind status tag detail
  unfold OnlyRecords at h
  unfold PortsAndRecords
  generalize s.raise src kind status tag detail = u at *
  rw [h]

theorem PortsAndRecords.meetWord (s : State) (n w : Nat) : PortsAndRecords s (s.meetWord n w) := by
  unfold State.meetWord State.portFault
  split
  · exact (PortsAndRecords.modPort ..).trans (.raise ..)
  · exact .refl s

theorem PortsAndRecords.foldl {α : Type} {f : State → α → State} (hf : ∀ s x, PortsAndRecords s (f s x)) (l : List α) (s : State) :
    PortsAndRecords s (l.foldl f s) := by
  induction l generalizing s with
  | nil => exact .refl s
  | cons a l ih => exact (hf s a).trans (ih _)

theorem PortsAndRecords.sendPacket (s : State) (vc input : Nat) (k : Packet) : PortsAndRecords s (s.sendPacket vc input k) := by
  have met : PortsAndRecords s (s.meetRoute k.dst) := by
    unfold State.meetRoute
    split
    · exact PortsAndRecords.foldl (fun s n => .meetWord s n _) _ s
    · exact .refl s
  unfold State.sendPacket
  dsimp only
  split
  · exact met.trans (.modPort ..)
  · exact met

theorem PortsAndRecords.sendHost (s : State) (vc ptype dst addr sub func reqid nbytes status : Nat) (data : List Byte) :
    PortsAndRecords s (s.sendHost vc ptype dst addr sub func reqid nbytes status data) := .sendPacket ..

theorem PortsAndRecords.mem {s t : State} (h : PortsAndRecords s t) : t.mem = s.mem := by rw [h]
theorem PortsAndRecords.svc {s t : State} (h : PortsAndRecords s t) : t.svc = s.svc := by rw [h]
theorem PortsAndRecords.out {s t : State} (h : PortsAndRecords s t) : t.out = s.out := by rw [h]
theorem PortsAndRecords.dck {s t : State} (h : PortsAndRecords s t) : t.dck = s.dck := by rw [h]
theorem PortsAndRecords.fns {s t : State} (h : PortsAndRecords s t) : t.hif.fns = s.hif.fns := by rw [h]

/-- A write to host memory, by the device or through its lead, reaches no memory of the device and nothing of the SVC. -/
theorem State.hostStore_keeps (s : State) (f : Fn) (addr : Nat) (data : List Byte) :
    (s.hostStore f addr data).mem = s.mem ∧ (s.hostStore f addr data).svc = s.svc := by
  unfold State.hostStore
  split
  · have sent := PortsAndRecords.foldl (fun (s : State) i =>
        PortsAndRecords.sendHost s 0 pHost s.hif.leadDev (addr + 4088 * i) 8 (fnKey f) 0 0 0 (nth [] (pieces 4088 data.length data) i))
      (List.range (pieces 4088 data.length data).length) s
    exact ⟨sent.mem, sent.svc⟩
  · exact ⟨rfl, rfl⟩

theorem State.hostStore_own (s : State) (f : Fn) (addr : Nat) (data : List Byte) (h : s.hif.leadValid = false) :
    s.hostStore f addr data = s.emit (.hostWrite addr data) := if_neg (by rw [h]; decide)

/-! ### Parks and restores (R342 to R345) -/

theorem parkHeader_shape (q : Request) (jobId nseg : Nat) (lossy : Bool) (pos last : Nat) (segs : List Byte) :
    (parkHeader q jobId nseg lossy pos last segs).length = 64 ∧ (parkHeader q jobId nseg lossy pos last segs).take 8 = parkMagic := by
  have magic : parkMagic.length = 8 := length_leBytes ..
  unfold parkHeader
  refine ⟨by simp only [List.length_append, length_leBytes, magic], ?_⟩
  simp only [List.append_assoc]
  rw [← magic, List.take_left]

/-- The read of a park's rows, or an empty one for a request without a state slot. -/
def State.parkRead (s : State) (id : Nat) : SvcRead := (s.read? (.park id)).getD { id := s.svc.nextRead, key := .park id }

/-- The segments of a park, none for a request without a state slot. -/
def State.parkSegs (s : State) (q : Request) (lossy : Bool) (x : SvcRead) : List Byte × Bool :=
  if q.slot = none then ([], false) else s.parkSegments q lossy x

/-- The header of a park's record. -/
def State.parkHead (s : State) (q : Request) (r : List Byte × Bool) : List Byte :=
  parkHeader q s.dck.jobId (if q.slot.isSome then (s.mapOf q.table).length else 0) r.2
    (if q.slot.isSome then q.pos else 0) (if q.slot.isSome then q.ready.getD 0xFFFFFFFF else 0xFFFFFFFF) r.1

/-- A park's record is written, its header last, and the request ends (R342). -/
def State.parkWhole (s : State) (q : Request) (dst : Nat) (r : List Byte × Bool) (head : List Byte) : State :=
  ((if r.1.isEmpty then s else s.hostStore (s.tableFn q.table) (dst + 64) r.1).hostStore (s.tableFn q.table) dst head).endRequest
    { q with lossy := q.lossy || r.2 } (if q.cancelled then 0x0011 else 0) 2

/-- What PARK_COMPLETE does to a request that is parking (R342). -/
theorem exec_parkComplete (s : State) (q : Request) (giveUp : Bool) (dst cap : Nat) (lossy : Bool) (hq : s.req? q.id = some q)
    (hstate : q.state = .parking) (hpark : q.parkTo = some (dst, cap, lossy)) :
    exec (.parkComplete q.id giveUp) s = .next (
      let x := s.parkRead q.id
      let r := s.parkSegs q lossy x
      if !x.rows.isEmpty || (!x.far.isEmpty && !giveUp) then s
      else if !x.far.isEmpty then ((s.closeRead x.id).raiseSvc q.table 0x4002).stopPark q
      else if x.bad || decide (cap < 64 + r.1.length) then (s.closeRead x.id).stopPark q
      else (s.closeRead x.id).parkWhole q dst r (s.parkHead q r)) := by
  show execParkComplete q.id giveUp s = _
  have segs : (if q.slot.isSome = true then s.parkSegments q lossy (s.parkRead q.id) else ([], false)) = s.parkSegs q lossy (s.parkRead q.id) := by
    unfold State.parkSegs
    cases q.slot <;> rfl
  unfold execParkComplete
  rw [hq]
  dsimp only
  rw [hstate, hpark]
  dsimp only
  rw [show (s.read? (.park q.id)).getD { id := s.svc.nextRead, key := .park q.id } = s.parkRead q.id from rfl, segs, ← hstate, ← hpark]
  rfl

/-- A park stops (R342): the request waits again, and 0x6042 is raised. -/
theorem State.stopPark_spec (s : State) (q : Request) :
    (s.stopPark q).mem = s.mem ∧ (s.stopPark q).out = s.out ∧
      (s.stopPark q).svc.reqs = (s.svc.reqs.map fun y => if y.id = q.id then { y with parkTo := none } else y) ∧
      ∃ lt, Posted s (s.stopPark q) (srcTable q.table) 2 0x6042 (faultTag lt 0 true) 0 := by
  unfold State.stopPark State.raiseSvc State.drawFree
  dsimp only
  have posted := State.raise_posted { s with freeIdx := s.freeIdx + 1 } (srcTable q.table) 2 0x6042
    (faultTag ((Config.freeWord s.freeIdx).toNat % 256) 0 true) 0
  have mem := State.raise_mem { s with freeIdx := s.freeIdx + 1 } (srcTable q.table) 2 0x6042
    (faultTag ((Config.freeWord s.freeIdx).toNat % 256) 0 true) 0
  have out := State.raise_out { s with freeIdx := s.freeIdx + 1 } (srcTable q.table) 2 0x6042
    (faultTag ((Config.freeWord s.freeIdx).toNat % 256) 0 true) 0
  have svc := State.raise_svc { s with freeIdx := s.freeIdx + 1 } (srcTable q.table) 2 0x6042
    (faultTag ((Config.freeWord s.freeIdx).toNat % 256) 0 true) 0
  generalize State.raise _ _ _ _ _ _ = u at *
  refine ⟨mem, out, ?_, _, (posted.of_before (s := s) rfl rfl rfl).of_queue rfl⟩
  show u.svc.reqs.map _ = _
  rw [svc]
  exact List.map_congr_left fun y _ => by simp only [beq_iff_eq]

theorem State.raiseSvc_spec (s : State) (tbl code : Nat) :
    (s.raiseSvc tbl code).mem = s.mem ∧ (s.raiseSvc tbl code).out = s.out ∧ (s.raiseSvc tbl code).svc = s.svc ∧
      ∃ lt, Posted s (s.raiseSvc tbl code) (srcTable tbl) 2 code (faultTag lt 0 true) 0 := by
  unfold State.raiseSvc State.drawFree
  dsimp only
  exact ⟨State.raise_mem .., State.raise_out .., State.raise_svc .., _, (State.raise_posted ..).of_before rfl rfl rfl⟩

/-- A park that is written whole: the request is gone. -/
theorem State.parkWhole_gone (s : State) (q : Request) (dst : Nat) (r : List Byte × Bool) (head : List Byte) :
    (s.parkWhole q dst r head).mem = s.mem ∧ (s.parkWhole q dst r head).svc.reqs = s.svc.reqs.filter (·.id != q.id) := by
  unfold State.parkWhole
  have first : (if r.1.isEmpty then s else s.hostStore (s.tableFn q.table) (dst + 64) r.1).mem = s.mem ∧
      (if r.1.isEmpty then s else s.hostStore (s.tableFn q.table) (dst + 64) r.1).svc = s.svc := by
    split
    · exact ⟨rfl, rfl⟩
    · exact s.hostStore_keeps ..
  generalize (if r.1.isEmpty then s else s.hostStore (s.tableFn q.table) (dst + 64) r.1) = u at *
  obtain ⟨mem2, svc2⟩ := u.hostStore_keeps (s.tableFn q.table) dst head
  obtain ⟨mem3, -, -, reqs3⟩ := (u.hostStore (s.tableFn q.table) dst head).endRequest_spec
    { q with lossy := q.lossy || r.2 } (if q.cancelled then 0x0011 else 0) 2
  exact ⟨mem3.trans (mem2.trans first.1), reqs3.trans (by rw [svc2, first.2])⟩

/-- On a lead, the record leaves the device with its header last, and one terminal record is raised. -/
theorem State.parkWhole_own (s : State) (q : Request) (dst : Nat) (r : List Byte × Bool) (head : List Byte) (hlead : s.hif.leadValid = false)
    (hdups : q.dups = 0) :
    (s.parkWhole q dst r head).out = s.out ++ (if r.1 = [] then [] else [.hostWrite (dst + 64) r.1]) ++ [.hostWrite dst head] ∧
      Posted s (s.parkWhole q dst r head) (srcTable q.table) 1 (if q.cancelled then 0x0011 else 0) q.id
        (termDetail q.delivered 2 false (q.lossy || r.2) q.version) := by
  have stores : ((if r.1.isEmpty then s else s.hostStore (s.tableFn q.table) (dst + 64) r.1).hostStore (s.tableFn q.table) dst head) =
      { s with out := s.out ++ (if r.1 = [] then [] else [.hostWrite (dst + 64) r.1]) ++ [.hostWrite dst head] } := by
    by_cases h : r.1 = []
    · rw [if_pos (by rw [h]; rfl), if_pos h, s.hostStore_own _ _ _ hlead, List.append_nil]
      rfl
    · rw [if_neg (by rwa [List.isEmpty_iff]), if_neg h, s.hostStore_own _ _ _ hlead, State.hostStore_own (s.emit _) _ _ _ hlead]
      rfl
  unfold State.parkWhole
  rw [stores]
  obtain ⟨-, out, -⟩ := State.endRequest_spec { s with out := s.out ++ (if r.1 = [] then [] else [.hostWrite (dst + 64) r.1]) ++ [.hostWrite dst head] }
    { q with lossy := q.lossy || r.2 } (if q.cancelled then 0x0011 else 0) 2
  have posted := State.endRequest_posted { s with out := s.out ++ (if r.1 = [] then [] else [.hostWrite (dst + 64) r.1]) ++ [.hostWrite dst head] }
    { q with lossy := q.lossy || r.2 } (if q.cancelled then 0x0011 else 0) 2 hdups
  exact ⟨out, posted.of_before rfl rfl rfl⟩

theorem exec_parkComplete_none (s : State) (q : Request) (giveUp : Bool) (hq : s.req? q.id = some q)
    (h : q.state ≠ .parking ∨ q.parkTo = none) : exec (.parkComplete q.id giveUp) s = .next s := by
  show execParkComplete q.id giveUp s = _
  unfold execParkComplete
  rw [hq]
  dsimp only
  split
  · next hs hp =>
    rcases h with h | h
    · exact absurd hs h
    · rw [h] at hp; cases hp
  · rfl

theorem exec_restoreComplete (s : State) (q : Request) (hq : s.req? q.id = some q) : exec (.restoreComplete q.id) s =
    .next (if q.state == .restoring && !s.svcBusy restoreSrc q.id then s.modReq q.id fun q => { q with state := .active } else s) := by
  show execRestoreComplete q.id s = _
  unfold execRestoreComplete
  rw [hq]

/-- Settles O59: a park's end by what its read has brought, and a restore's by the rows that still wait. -/
theorem parkedRequestsLeaveAndReturn : Obligations.ParkedRequestsLeaveAndReturn := by
  unfold Obligations.ParkedRequestsLeaveAndReturn
  intro s q hq
  refine ⟨fun dst cap lossy giveUp hstate hpark => ?_, fun giveUp h => exec_parkComplete_none s q giveUp hq h, fun hstate hbusy => ?_,
    fun h => ?_⟩
  · have run := exec_parkComplete s q giveUp dst cap lossy hq hstate hpark
    dsimp only at run ⊢
    rw [show (s.read? (.park q.id)).getD { id := s.svc.nextRead, key := .park q.id } = s.parkRead q.id from rfl,
      show (if q.slot = none then ([], false) else s.parkSegments q lossy (s.parkRead q.id)) = s.parkSegs q lossy (s.parkRead q.id) from rfl]
    generalize s.parkSegs q lossy (s.parkRead q.id) = r at *
    generalize s.parkRead q.id = x at *
    refine ⟨fun h => ?_, fun hrows hfar hgive => ?_, fun hrows hfar hbad => ?_, fun hrows hfar hbad hcap hlead hdups => ?_,
      fun hrows hfar hbad hcap => ?_⟩
    · rw [run, if_pos]
      rcases h with h | ⟨h, g⟩
      · simp [h]
      · simp [h, g]
    · subst hgive
      rw [hrows, if_neg (by simp), if_pos (by simpa using hfar)] at run
      obtain ⟨mem1, out1, svc1, told1⟩ := (s.closeRead x.id).raiseSvc_spec q.table 0x4002
      obtain ⟨mem2, out2, reqs2, told2⟩ := ((s.closeRead x.id).raiseSvc q.table 0x4002).stopPark_spec q
      generalize (s.closeRead x.id).raiseSvc q.table 0x4002 = u at *
      obtain ⟨lt, posted⟩ := told1
      refine ⟨_, u, ⟨run, SameMemory.of_mem (mem2.trans mem1), out2.trans out1, ?_⟩, ⟨lt, posted.of_before rfl rfl rfl⟩, told2⟩
      rw [reqs2, svc1]
      rfl
    · rw [hrows, hfar, if_neg (by simp), if_neg (by simp), if_pos (by simpa using hbad)] at run
      obtain ⟨mem, out, reqs, lt, posted⟩ := (s.closeRead x.id).stopPark_spec q
      exact ⟨_, ⟨run, SameMemory.of_mem mem, out, reqs⟩, lt, posted.of_before rfl rfl rfl⟩
    · rw [hrows, hfar, hbad, if_neg (by simp), if_neg (by simp), if_neg (by simpa using hcap)] at run
      obtain ⟨mem, reqs⟩ := (s.closeRead x.id).parkWhole_gone q dst r (s.parkHead q r)
      obtain ⟨out, posted⟩ := (s.closeRead x.id).parkWhole_own q dst r (s.parkHead q r) hlead hdups
      obtain ⟨length, magic⟩ := parkHeader_shape q s.dck.jobId (if q.slot.isSome then (s.mapOf q.table).length else 0) r.2
        (if q.slot.isSome then q.pos else 0) (if q.slot.isSome then q.ready.getD 0xFFFFFFFF else 0xFFFFFFFF) r.1
      exact ⟨_, s.parkHead q r, run, ⟨SameMemory.of_mem mem, reqs⟩, length, magic, out, posted.of_before rfl rfl rfl⟩
    · rw [hrows, hfar, hbad, if_neg (by simp), if_neg (by simp), if_neg (by simpa using hcap)] at run
      obtain ⟨mem, reqs⟩ := (s.closeRead x.id).parkWhole_gone q dst r (s.parkHead q r)
      exact ⟨_, run, SameMemory.of_mem mem, reqs⟩
  · rw [exec_restoreComplete s q hq, if_pos (by simp [hstate, hbusy])]
  · rw [exec_restoreComplete s q hq, if_neg]
    rcases h with h | h
    · simp [h]
    · simp [h]

end Sys2Proof.Machine
end

section
/-! PROOFS. How commands of the host end (R304, R306): the completion, the ring's place, the records that waited for room. -/

namespace Sys2Proof.Machine

/-- What the end of commands of a function changes: its rings' places become free, its records enter their queues, and entries of
the request table whose record has left the waiting line are freed. -/
structure CommandsEnd (f : Fn) (s t : State) : Prop where
  frame : t = { s with hif := { s.hif with fns := t.hif.fns, queues := t.hif.queues }, svc := { s.svc with ended := t.svc.ended } }
  others : ∀ g, fnKey g ≠ fnKey f → t.fn g = s.fn g
  own : t.fn f = { s.fn f with crs := (t.fn f).crs }
  cr : ∀ i, t.cr f i = { s.cr f i with run := (t.cr f i).run }
  run : ∀ i, (t.cr f i).run = (s.cr f i).run ∨ (t.cr f i).run = none
  ended : s.svc.ended = [] → t.svc.ended = []

theorem CommandsEnd.refl (f : Fn) (s : State) : CommandsEnd f s s := ⟨rfl, fun _ _ => rfl, rfl, fun _ => rfl, fun _ => .inl rfl, id⟩

theorem CommandsEnd.trans {f : Fn} {s t u : State} (h : CommandsEnd f s t) (k : CommandsEnd f t u) : CommandsEnd f s u := by
  refine ⟨?_, fun g hg => (k.others g hg).trans (h.others g hg), ?_, fun i => ?_, fun i => ?_, k.ended ∘ h.ended⟩
  · refine k.frame.trans ?_
    rw [h.frame]
  · refine k.own.trans ?_
    rw [h.own]
  · refine (k.cr i).trans ?_
    rw [h.cr i]
  · rcases k.run i with e | e
    · rw [e]; exact h.run i
    · exact .inr e

theorem CommandsEnd.mem {f : Fn} {s t : State} (h : CommandsEnd f s t) : t.mem = s.mem := by rw [h.frame]
theorem CommandsEnd.dck {f : Fn} {s t : State} (h : CommandsEnd f s t) : t.dck = s.dck := by rw [h.frame]
theorem CommandsEnd.rcu {f : Fn} {s t : State} (h : CommandsEnd f s t) : t.rcu = s.rcu := by rw [h.frame]
theorem CommandsEnd.tables {f : Fn} {s t : State} (h : CommandsEnd f s t) : t.tables = s.tables := by rw [h.frame]
theorem CommandsEnd.out {f : Fn} {s t : State} (h : CommandsEnd f s t) : t.out = s.out := by rw [h.frame]
theorem CommandsEnd.run_none {f : Fn} {s t : State} (h : CommandsEnd f s t) {i : Nat} (hi : (s.cr f i).run = none) : (t.cr f i).run = none :=
  (h.run i).elim (fun e => e.trans hi) id

/-- A completion is a record of its own queue, and the log does not keep it (R406). -/
theorem State.raise_completion (s : State) (src status tag : Nat) :
    s.raise src 0 status tag 0 = s.setQueue (qKey 0 src) ((s.queue (qKey 0 src)).raise (s.owed (qKey 0 src))
      { status, kind := 0, src, win := 0, sseq := (s.queue (qKey 0 src)).sseq, stamp := s.roundCounter, tag, detail := 0 }) := rfl

theorem CommandsEnd.setQueue (f : Fn) (s : State) (key : Nat) (q : SrcQ) : CommandsEnd f s (s.setQueue key q) :=
  ⟨rfl, fun _ _ => rfl, rfl, fun _ => rfl, fun _ => .inl rfl, id⟩

theorem CommandsEnd.complete (s : State) (g f : Fn) (status tag : Nat) (quiet : Bool) : CommandsEnd g s (s.complete f status tag quiet) := by
  unfold State.complete
  split
  · exact .refl g s
  · rw [State.raise_completion]
    exact .setQueue ..

theorem CommandsEnd.settleQueue (f : Fn) (s : State) (key : Nat) : CommandsEnd f s (s.settleQueue key) := by
  unfold State.settleQueue State.freeEntries
  dsimp only
  split
  · exact .refl f s
  · exact ⟨rfl, fun _ _ => rfl, rfl, fun _ => rfl, fun _ => .inl rfl, fun h => by
      show s.svc.ended.filter _ = []
      rw [h, List.filter_nil]⟩

theorem State.cr_setCr (s : State) (f : Fn) (i : Nat) (r : CmdRing) (j : Nat) : (s.setCr f i r).cr f j = if j = i then r else s.cr f j := by
  unfold State.setCr State.cr
  rw [State.fn_modFn_self]
  exact Map.get_set ..

theorem State.fn_setCr_ne (s : State) (f : Fn) (i : Nat) (r : CmdRing) (g : Fn) (h : fnKey g ≠ fnKey f) : (s.setCr f i r).fn g = s.fn g :=
  Map.get_set_of_ne _ _ _ _ _ h

/-- The place of a ring is free. -/
def State.vacate (s : State) (f : Fn) (i : Nat) : State := s.setCr f i { s.cr f i with run := none }

theorem State.cr_vacate (s : State) (f : Fn) (i j : Nat) :
    (s.vacate f i).cr f j = if j = i then { s.cr f i with run := none } else s.cr f j := State.cr_setCr ..

theorem CommandsEnd.vacate (f : Fn) (s : State) (i : Nat) : CommandsEnd f s (s.vacate f i) := by
  refine ⟨rfl, fun g hg => State.fn_setCr_ne _ _ _ _ _ hg, ?_, fun j => ?_, fun j => ?_, id⟩
  · unfold State.vacate State.setCr
    rw [State.fn_modFn_self]
  · rw [State.cr_vacate]
    split
    · next h => rw [h]
    · rfl
  · rw [State.cr_vacate]
    split
    · exact .inr rfl
    · exact .inl rfl

theorem State.clearRun_of_some (s : State) (f : Fn) (i : Nat) (c : CmdRun) (h : (s.cr f i).run = some c) :
    s.clearRun f i = (s.vacate f i).settleQueue (qKey c.win (fnSrc f)) := by
  unfold State.clearRun
  rw [h]
  rfl

theorem State.clearRun_of_none (s : State) (f : Fn) (i : Nat) (h : (s.cr f i).run = none) : s.clearRun f i = s := by
  unfold State.clearRun
  rw [h]

theorem CommandsEnd.clearRun (f : Fn) (s : State) (i : Nat) : CommandsEnd f s (s.clearRun f i) ∧ ((s.clearRun f i).cr f i).run = none := by
  cases h : (s.cr f i).run with
  | none =>
    rw [s.clearRun_of_none f i h]
    exact ⟨.refl f s, h⟩
  | some c =>
    rw [s.clearRun_of_some f i c h]
    have settled := CommandsEnd.settleQueue f (s.vacate f i) (qKey c.win (fnSrc f))
    exact ⟨(CommandsEnd.vacate f s i).trans settled, settled.run_none (by rw [State.cr_vacate, if_pos rfl])⟩

theorem CommandsEnd.dropRun (f : Fn) (s : State) (i status : Nat) : CommandsEnd f s (s.dropRun f i status) := by
  unfold State.dropRun
  split
  · exact (CommandsEnd.complete ..).trans (CommandsEnd.clearRun ..).1
  · exact .refl f s

theorem CommandsEnd.foldl {α : Type} {f : Fn} {step : State → α → State} (h : ∀ s x, CommandsEnd f s (step s x)) (l : List α) (s : State) :
    CommandsEnd f s (l.foldl step s) := by
  induction l generalizing s with
  | nil => exact .refl f s
  | cons a l ih => exact (h s a).trans (ih _)

/-- One look of the fences at a ring. -/
def State.settleFence (f : Fn) (s : State) (i : Nat) : State :=
  match (s.cr f i).run with
  | some c => if s.fenceReady f c then s.dropRun f i 0 else s
  | none => s

theorem State.settleFences_eq (s : State) (f : Fn) :
    s.settleFences f = runRings.foldl (fun s _ => runRings.foldl (State.settleFence f) s) s := rfl

theorem CommandsEnd.settleFence (f : Fn) (s : State) (i : Nat) : CommandsEnd f s (s.settleFence f i) := by
  unfold State.settleFence
  split
  · split
    · exact .dropRun ..
    · exact .refl f s
  · exact .refl f s

theorem CommandsEnd.settleFences (f : Fn) (s : State) : CommandsEnd f s (s.settleFences f) := by
  rw [State.settleFences_eq]
  exact .foldl (fun s _ => .foldl (CommandsEnd.settleFence f) runRings s) runRings s

theorem CommandsEnd.freeRing (f : Fn) (s : State) (i : Nat) : CommandsEnd f s (s.freeRing f i) ∧ ((s.freeRing f i).cr f i).run = none := by
  obtain ⟨first, none_⟩ := CommandsEnd.clearRun f s i
  have second := CommandsEnd.settleFences f (s.clearRun f i)
  exact ⟨first.trans second, second.run_none none_⟩

/-- A command ends: its ring's place is free. -/
theorem CommandsEnd.endRun (f : Fn) (s : State) (i status : Nat) : CommandsEnd f s (s.endRun f i status) ∧ ((s.endRun f i status).cr f i).run = none := by
  unfold State.endRun
  split
  · obtain ⟨ended, none_⟩ := CommandsEnd.freeRing f (s.complete f status _ _) i
    exact ⟨(CommandsEnd.complete ..).trans ended, none_⟩
  · next h => exact ⟨.refl f s, h⟩

/-! ### Without a fence in progress -/

/-- No fence of a function is in progress. -/
def State.noFence (s : State) (f : Fn) : Prop := ∀ j ∈ runRings, ∀ x, (s.cr f j).run = some x → x.op ≠ 1

theorem State.settleFence_of_not_ready (s : State) (f : Fn) (i : Nat)
    (h : ∀ x, (s.cr f i).run = some x → s.fenceReady f x = false) : s.settleFence f i = s := by
  unfold State.settleFence
  split
  · next hx => rw [if_neg (by rw [h _ hx]; decide)]
  · rfl

theorem State.settleFences_of_not_ready (s : State) (f : Fn)
    (h : ∀ j ∈ runRings, ∀ x, (s.cr f j).run = some x → s.fenceReady f x = false) : s.settleFences f = s := by
  have inner : ∀ l : List Nat, (∀ j ∈ l, j ∈ runRings) → l.foldl (State.settleFence f) s = s := by
    intro l
    induction l with
    | nil => exact fun _ => rfl
    | cons a l ih =>
      intro hl
      rw [List.foldl_cons, s.settleFence_of_not_ready f a (h a (hl a List.mem_cons_self))]
      exact ih fun j hj => hl j (List.mem_cons_of_mem _ hj)
  have outer : ∀ l : List Nat, l.foldl (fun s _ => runRings.foldl (State.settleFence f) s) s = s := by
    intro l
    induction l with
    | nil => rfl
    | cons a l ih => rw [List.foldl_cons, inner runRings fun _ hj => hj, ih]
  rw [State.settleFences_eq, outer]

theorem State.settleFences_of_noFence (s : State) (f : Fn) (h : s.noFence f) : s.settleFences f = s :=
  s.settleFences_of_not_ready f fun j hj x hx => by
    unfold State.fenceReady
    simp [h j hj x hx]

theorem CommandsEnd.noFence {f : Fn} {s t : State} (h : CommandsEnd f s t) (hs : s.noFence f) : t.noFence f := fun j hj x hx => by
  rcases h.run j with e | e
  · exact hs j hj x (e ▸ hx)
  · rw [e] at hx; cases hx

/-- The queue that takes a completion, once the command's place is free and what waited has entered it (R306). -/
theorem State.settleQueue_queue (s : State) (key : Nat) :
    (s.settleQueue key).queue key = SrcQ.settle (s.owed key) (s.queue key).waiting.length (s.queue key) := by
  unfold State.settleQueue
  dsimp only
  split
  · next h =>
    rw [List.isEmpty_iff.1 h]
    rfl
  · exact Map.get_set_self ..

/-- The end of a command with no fence in progress: its completion, its place, and what waited for room. -/
theorem State.endRun_of_noFence (s : State) (f : Fn) (i status : Nat) (c : CmdRun) (hc : (s.cr f i).run = some c) (hf : s.noFence f) :
    s.endRun f i status = ((s.complete f status c.tag (bit c.flags 0)).vacate f i).settleQueue (qKey c.win (fnSrc f)) := by
  have completed := CommandsEnd.complete s f f status c.tag (bit c.flags 0)
  have here : ((s.complete f status c.tag (bit c.flags 0)).cr f i).run = some c := by
    unfold State.complete
    split
    · exact hc
    · exact hc
  have fence := ((completed.noFence hf) : (s.complete f status c.tag (bit c.flags 0)).noFence f)
  unfold State.endRun
  rw [hc]
  dsimp only
  generalize s.complete f status c.tag (bit c.flags 0) = u at *
  rw [State.freeRing, State.settleFences_of_noFence, u.clearRun_of_some f i c here]
  exact (CommandsEnd.clearRun f u i).1.noFence fence

/-- The queue of a completion behind it (R304, R306). -/
def State.completed (s : State) (f : Fn) (status tag : Nat) (quiet : Bool) : SrcQ :=
  let q := s.queue (qKey 0 (fnSrc f))
  if quiet && status == 0 then q
  else { q with
    recs := q.recs ++ [{ status, kind := 0, src := fnSrc f, win := 0, sseq := q.sseq, stamp := s.roundCounter, tag, detail := 0 }]
    sseq := (q.sseq + 1) % 65536 }

theorem State.complete_queue (s : State) (f : Fn) (status tag : Nat) (quiet : Bool) :
    (s.complete f status tag quiet).queue (qKey 0 (fnSrc f)) = s.completed f status tag quiet := by
  unfold State.complete State.completed
  split
  · rfl
  · rw [State.raise_completion, State.queue_setQueue_self]
    rfl

theorem State.owed_congr {s t : State} (h : t.hif.fns = s.hif.fns) (key : Nat) : t.owed key = s.owed key := by
  have runs : ∀ f win, t.runs f win = s.runs f win := fun f win => by simp only [State.runs, State.cr, State.fn, h]
  simp only [State.owed, runs]

/-- The queue that takes the completion of a command of this device that ends with no fence in progress. -/
theorem State.endRun_queue (s : State) (f : Fn) (i status : Nat) (c : CmdRun) (hc : (s.cr f i).run = some c) (hwin : c.win = 0)
    (hf : s.noFence f) :
    let q := s.completed f status c.tag (bit c.flags 0)
    (s.endRun f i status).queue (qKey 0 (fnSrc f)) = SrcQ.settle ((s.vacate f i).owed (qKey 0 (fnSrc f))) q.waiting.length q := by
  have queue := s.complete_queue f status c.tag (bit c.flags 0)
  have fns : (s.complete f status c.tag (bit c.flags 0)).hif.fns = s.hif.fns := by
    unfold State.complete
    split <;> rfl
  rw [s.endRun_of_noFence f i status c hc hf, hwin, State.settleQueue_queue]
  generalize s.complete f status c.tag (bit c.flags 0) = u at *
  have at_ : (u.vacate f i).queue (qKey 0 (fnSrc f)) = u.queue (qKey 0 (fnSrc f)) := rfl
  have owed : (u.vacate f i).owed (qKey 0 (fnSrc f)) = (s.vacate f i).owed (qKey 0 (fnSrc f)) := by
    refine State.owed_congr ?_ _
    have cr : u.cr f i = s.cr f i := by rw [State.cr, State.fn, fns, State.cr, State.fn]
    have fn : u.fn f = s.fn f := by rw [State.fn, fns, State.fn]
    unfold State.vacate State.setCr State.modFn
    dsimp only
    rw [fns, fn, cr]
  rw [at_, queue, owed]

/-! ### HDMA (R304) -/

theorem exec_hdmaComplete (s : State) (fn : Fn) (i : Nat) (c : CmdRun) (hfn : fnOk fn = true) (hi : i < 5) (hc : (s.cr fn i).run = some c) :
    exec (.hdmaComplete fn i) s = .next (
      if c.left == 0 && c.win == 0 && (c.op == 6 || c.op == 7) && !(s.hif.hostReads.any fun x => x.2.1 == fnKey fn) then
        (if c.op == 7 then s.hostStore fn c.addr (readCells c.buf (c.dev % 64) c.len) else s).endRun fn i c.status
      else s) := by
  show execHdmaComplete fn i s = _
  unfold execHdmaComplete
  rw [hfn, within, if_neg (by decide), if_pos hi, hc]

/-- Settles O43: the store is that of the HDMA_OUT alone, and the end is that of any command. -/
theorem hdmaCompletesWithItsRows : Obligations.HdmaCompletesWithItsRows := by
  unfold Obligations.HdmaCompletesWithItsRows
  intro s fn i c hfn hi hc hwin hop
  have run := exec_hdmaComplete s fn i c hfn hi hc
  have reads : (∃ x ∈ s.hif.hostReads, x.2.1 = fnKey fn) ↔ (s.hif.hostReads.any fun x => x.2.1 == fnKey fn) = true := by
    rw [List.any_eq_true]
    simp
  have ends : c.left = 0 → ¬ (∃ x ∈ s.hif.hostReads, x.2.1 = fnKey fn) →
      (c.left == 0 && c.win == 0 && (c.op == 6 || c.op == 7) && !(s.hif.hostReads.any fun x => x.2.1 == fnKey fn)) = true := by
    intro hl hr
    rw [reads, Bool.not_eq_true] at hr
    simp [hl, hwin, hop, hr]
  -- the store of an HDMA_OUT, on a lead
  have own : s.hif.leadValid = false → (if c.op == 7 then s.hostStore fn c.addr (readCells c.buf (c.dev % 64) c.len) else s) =
      { s with out := s.out ++ if c.op = 7 then [.hostWrite c.addr (readCells c.buf (c.dev % 64) c.len)] else [] } := by
    intro hl
    by_cases h : c.op = 7
    · rw [if_pos (by simp [h]), if_pos h, s.hostStore_own _ _ _ hl]
      rfl
    · rw [if_neg (by simp [h]), if_neg h, List.append_nil]
  have ended : ∀ u : State, u = { s with out := s.out ++ if c.op = 7 then [.hostWrite c.addr (readCells c.buf (c.dev % 64) c.len)] else [] } →
      s.noFence fn → (SameMemory s (u.endRun fn i c.status) ∧ ((u.endRun fn i c.status).cr fn i).run = none ∧
        (u.endRun fn i c.status).out = s.out ++ if c.op = 7 then [.hostWrite c.addr (readCells c.buf (c.dev % 64) c.len)] else []) ∧
      (u.endRun fn i c.status).queue (qKey 0 (fnSrc fn)) = SrcQ.settle ((s.vacate fn i).owed (qKey 0 (fnSrc fn)))
        (s.completed fn c.status c.tag (bit c.flags 0)).waiting.length (s.completed fn c.status c.tag (bit c.flags 0)) := by
    intro u hu hf
    subst hu
    obtain ⟨all, none_⟩ := CommandsEnd.endRun fn
      { s with out := s.out ++ if c.op = 7 then [.hostWrite c.addr (readCells c.buf (c.dev % 64) c.len)] else [] } i c.status
    refine ⟨⟨SameMemory.of_mem all.mem, none_, all.out⟩, ?_⟩
    exact State.endRun_queue
      { s with out := s.out ++ if c.op = 7 then [.hostWrite c.addr (readCells c.buf (c.dev % 64) c.len)] else [] } fn i c.status c hc hwin hf
  refine ⟨fun h => ?_, fun hl hr hf hlead hloud => ?_, fun hl hr hf hlead hstatus hquiet => ?_, fun hl hr hf hlead => ?_⟩
  · rw [run, if_neg]
    rcases h with h | h
    · simp [h]
    · simp [reads.1 h]
  · rw [if_pos (ends hl hr), own hlead] at run
    obtain ⟨all, queue⟩ := ended _ rfl hf
    refine ⟨_, run, all, queue.trans ?_⟩
    have loud : (bit c.flags 0 && c.status == 0) = false := by
      rcases hloud with h | h
      · simp [h]
      · simp [h]
    rw [State.completed, loud]
    rfl
  · rw [if_pos (ends hl hr), own hlead] at run
    obtain ⟨all, queue⟩ := ended _ rfl hf
    refine ⟨_, run, all, queue.trans ?_⟩
    rw [State.completed, hstatus, hquiet]
    rfl
  · rw [if_pos (ends hl hr)] at run
    refine ⟨_, run, ?_⟩
    have store : (if c.op == 7 then s.hostStore fn c.addr (readCells c.buf (c.dev % 64) c.len) else s).mem = s.mem ∧
        (if c.op == 7 then s.hostStore fn c.addr (readCells c.buf (c.dev % 64) c.len) else s).out = s.out := by
      split
      · refine ⟨(s.hostStore_keeps ..).1, ?_⟩
        unfold State.hostStore
        rw [if_pos hlead]
        exact (PortsAndRecords.foldl (fun s i => PortsAndRecords.sendHost s ..) _ s).out
      · exact ⟨rfl, rfl⟩
    obtain ⟨all, none_⟩ := CommandsEnd.endRun fn (if c.op == 7 then s.hostStore fn c.addr (readCells c.buf (c.dev % 64) c.len) else s) i c.status
    exact ⟨SameMemory.of_mem (all.mem.trans store.1), none_, all.out.trans store.2⟩

end Sys2Proof.Machine
end

section
/-! PROOFS. Descriptors of a SERVE command (R318 to R321, R341 to R347): requests, and what waits for the boundary. -/

namespace Sys2Proof.Machine

/-! ### A descriptor is taken in (R318) -/

/-- The descriptor of an event comes from the event's own ring. -/
theorem State.descHere_same (s : State) (d e : DescIn) (h : s.descHere d = some e) : e.fn = d.fn ∧ e.ring = d.ring := by
  unfold State.descHere at h
  split at h
  · split at h
    · split at h
      · rw [← Option.some.inj h]; exact ⟨rfl, rfl⟩
      · cases h
    · cases h
  · rw [← Option.some.inj h]; exact ⟨rfl, rfl⟩

/-- The state in which the intake source of a descriptor is noted. -/
def State.withSources (s : State) (l : List (Nat × List Nat)) : State := { s with svc := { s.svc with sources := l } }

theorem State.noteSource_eq (s : State) (d : DescIn) : ∃ l, s.noteSource d = s.withSources l := by
  unfold State.noteSource State.withSources
  dsimp only
  split
  · exact ⟨s.svc.sources, rfl⟩
  · exact ⟨_, rfl⟩

/-- A descriptor of a SERVE command in progress is taken by its event. -/
theorem State.takeDesc_taken {α : Type} (s : State) (d e : DescIn) (op : Nat) (named : Option α) (a : α) (k : State → DescIn → α → State)
    (c : CmdRun) (he : s.descHere d = some e) (ha : named = some a) (hfn : fnOk d.fn = true) (hc : (s.cr d.fn d.ring).run = some c)
    (hop : c.op = 8) (hl : 0 < c.left) (hx : (descOf e.bytes).op = op) (hlow : op ≠ 0) (hhigh : op ≤ 6) :
    s.takeDesc d op named k = (k (s.noteSource e) e a).descTaken e := by
  obtain ⟨fn, ring⟩ := s.descHere_same d e he
  have serving : s.serving e = true := by
    unfold State.serving
    rw [fn, ring, hc, hfn]
    simp [hop, hl]
  unfold State.takeDesc
  rw [he]
  dsimp only
  rw [serving, ha, if_neg (by decide), if_neg (by simp [hx, hlow, hhigh]), if_pos (by simp [hx])]

/-- One of a reserved OP raises its fault record (R321). -/
theorem State.takeDesc_reserved {α : Type} (s : State) (d e : DescIn) (op : Nat) (named : Option α) (k : State → DescIn → α → State)
    (c : CmdRun) (he : s.descHere d = some e) (hfn : fnOk d.fn = true) (hc : (s.cr d.fn d.ring).run = some c)
    (hop : c.op = 8) (hl : 0 < c.left) (hx : (descOf e.bytes).op = 0 ∨ 6 < (descOf e.bytes).op) :
    s.takeDesc d op named k =
      ((s.noteSource e).raise (srcTable (descOf e.bytes).table) 2 0x6002 (descOf e.bytes).id 0).descTaken e := by
  obtain ⟨fn, ring⟩ := s.descHere_same d e he
  have serving : s.serving e = true := by
    unfold State.serving
    rw [fn, ring, hc, hfn]
    simp [hop, hl]
  unfold State.takeDesc
  rw [he]
  dsimp only
  rw [serving, if_neg (by decide), if_pos (by simpa using hx)]

theorem State.takeDesc_none {α : Type} (s : State) (d : DescIn) (op : Nat) (named : Option α) (k : State → DescIn → α → State)
    (he : s.descHere d = none) : s.takeDesc d op named k = s := by
  unfold State.takeDesc
  rw [he]

/-- More descriptors of the command are to come: one less. -/
theorem State.descTaken_more (s u : State) (d e : DescIn) (c : CmdRun) (he : s.descHere d = some e) (hfns : u.hif.fns = s.hif.fns)
    (hc : (s.cr d.fn d.ring).run = some c) (hl : 1 < c.left) :
    let t := u.descTaken e
    t.mem = u.mem ∧ t.svc = u.svc ∧ t.hif.queues = u.hif.queues ∧ (t.cr d.fn d.ring).run = some { c with left := c.left - 1 } := by
  obtain ⟨fn, ring⟩ := s.descHere_same d e he
  have cr : u.cr d.fn d.ring = s.cr d.fn d.ring := by rw [State.cr, State.fn, hfns, State.cr, State.fn]
  have run : u.descTaken e = u.setCr d.fn d.ring { s.cr d.fn d.ring with run := some { c with left := c.left - 1 } } := by
    unfold State.descTaken
    rw [fn, ring, cr]
    dsimp only
    rw [hc, State.cr_setCr_self]
    dsimp only [Option.map_some]
    rw [if_neg (by simp only [beq_iff_eq]; omega)]
  dsimp only
  rw [run]
  refine ⟨rfl, rfl, rfl, ?_⟩
  rw [State.cr_setCr_self]

/-- The last descriptor completes its command. -/
theorem State.descTaken_last (s u : State) (d e : DescIn) (c : CmdRun) (he : s.descHere d = some e) (hfns : u.hif.fns = s.hif.fns)
    (hc : (s.cr d.fn d.ring).run = some c) (hl : c.left = 1) : ((u.descTaken e).cr d.fn d.ring).run = none := by
  obtain ⟨fn, ring⟩ := s.descHere_same d e he
  have cr : u.cr d.fn d.ring = s.cr d.fn d.ring := by rw [State.cr, State.fn, hfns, State.cr, State.fn]
  unfold State.descTaken
  rw [fn, ring, cr]
  dsimp only
  rw [hc, State.cr_setCr_self]
  dsimp only [Option.map_some]
  rw [if_pos (by simp [hl])]
  exact (CommandsEnd.endRun ..).2

/-! ### Checks and duplicates (R321, R347) -/

/-- The record of a request that ends at intake. -/
def intakeDetail : Nat := termDetail 0 endNone false false 0

theorem Svc.remember_keeps (v : Svc) (id : Nat) (e : Option (Nat × Nat)) : (v.remember id e).reqs = v.reqs ∧ (v.remember id e).acts = v.acts := by
  unfold Svc.remember
  dsimp only
  exact ⟨rfl, rfl⟩

theorem State.failIntake_spec (s : State) (x : Desc) (code : Nat) :
    let t := s.failIntake x code
    t.mem = s.mem ∧ t.hif.fns = s.hif.fns ∧ t.svc.reqs = s.svc.reqs ∧ t.svc.acts = s.svc.acts ∧
      Posted s t (srcTable x.table) 1 code x.id (termDetail 0 0xFF false false 0) := by
  have posted := State.raise_posted s (srcTable x.table) 1 code x.id (termDetail 0 0xFF false false 0)
  have svc := State.raise_svc s (srcTable x.table) 1 code x.id (termDetail 0 0xFF false false 0)
  have mem := State.raise_mem s (srcTable x.table) 1 code x.id (termDetail 0 0xFF false false 0)
  have fns := State.fns_raise s (srcTable x.table) 1 code x.id (termDetail 0 0xFF false false 0)
  have shape : ∃ v : Svc, v.reqs = s.svc.reqs ∧ v.acts = s.svc.acts ∧ s.failIntake x code =
      { s.raise (srcTable x.table) 1 code x.id (termDetail 0 0xFF false false 0) with svc := v } := by
    unfold State.failIntake State.terminal endNone
    dsimp only
    split
    · exact ⟨_, rfl, rfl, by rw [← svc]⟩
    · refine ⟨_, ?_, ?_, rfl⟩
      · rw [(Svc.remember_keeps ..).1, svc]
      · rw [(Svc.remember_keeps ..).2, svc]
  obtain ⟨v, reqs, acts, shape⟩ := shape
  rw [shape]
  generalize s.raise _ _ _ _ _ = u at *
  exact ⟨mem, fns, reqs, acts, posted.of_queue rfl⟩

/-- Whether a descriptor repeats an ID does not turn on the intake sources. -/
theorem State.duplicate_withSources (s : State) (l : List (Nat × List Nat)) (x : Desc) (h : s.duplicate x = none) :
    (s.withSources l).duplicate x = none := by
  have req : (s.withSources l).req? x.id = s.req? x.id := rfl
  have window : (s.withSources l).svc.window = s.svc.window := rfl
  have ended : (s.withSources l).svc.ended = s.svc.ended := rfl
  have notEnded (h : (match s.svc.ended.find? (·.2 == x.id) with
      | some e => ((s.queue (qKey 0 (srcTable e.1))).waiting.find? fun r => r.kind == 1 && r.tag == x.id).map fun r =>
          s.terminal e.1 r.status x.id (withDup r.detail)
      | none => none) = none) :
      (match s.svc.ended.find? (·.2 == x.id) with
        | some e => ((s.queue (qKey 0 (srcTable e.1))).waiting.find? fun r => r.kind == 1 && r.tag == x.id).map fun r =>
            (s.withSources l).terminal e.1 r.status x.id (withDup r.detail)
        | none => none) = none := by
    cases he : s.svc.ended.find? (·.2 == x.id) with
    | none => rfl
    | some e =>
      rw [he] at h
      dsimp only at h ⊢
      rw [Option.map_eq_none_iff] at h ⊢
      exact h
  unfold State.duplicate at h ⊢
  rw [req, window, ended]
  cases hq : s.req? x.id with
  | some q =>
    rw [hq] at h
    dsimp only at h
    split at h <;> cases h
  | none =>
    rw [hq] at h
    dsimp only at h ⊢
    generalize s.svc.window.find? (·.1 == x.id) = w at h ⊢
    match w, h with
    | none, h => exact notEnded h
    | some (_, none), h => exact notEnded h
    | some (_, some (_, _)), h => cases h

theorem State.req?_of_not_duplicate (s : State) (x : Desc) (h : s.duplicate x = none) : ∀ q ∈ s.svc.reqs, q.id ≠ x.id := by
  have none_ : s.req? x.id = none := by
    unfold State.duplicate at h
    cases hq : s.req? x.id with
    | none => rfl
    | some q =>
      rw [hq] at h
      dsimp only at h
      split at h <;> cases h
  intro q hq e
  simpa [e] using List.find?_eq_none.1 none_ q hq

theorem State.duplicate_joins (s : State) (x : Desc) (q : Request) (hq : s.req? x.id = some q) (h : q.dups < 255) :
    s.duplicate x = some (s.modReq x.id fun q => { q with dups := q.dups + 1 }) := by
  unfold State.duplicate
  rw [hq]
  dsimp only
  rw [if_pos h]

theorem State.foldl_terminal_fns (l : List Nat) (tbl status id detail : Nat) (s : State) :
    (l.foldl (fun s _ => s.terminal tbl status id detail) s).hif.fns = s.hif.fns := by
  induction l generalizing s with
  | nil => rfl
  | cons a l ih => exact (ih _).trans (State.fns_raise ..)

theorem State.endRequest_fns (s : State) (q : Request) (status e : Nat) : (s.endRequest q status e).hif.fns = s.hif.fns := by
  unfold State.endRequest
  dsimp only
  refine (State.foldl_terminal_fns ..).trans ((State.fns_raise ..).trans ?_)
  rw [State.stopRestore_frame]

theorem State.enter_queued (s : State) (x : Desc) (q : Request) (h : x.op = 2 ∨ x.maxNew ≠ 0) :
    s.enter x q = { s with svc := s.svc.enter x.id q } := by
  unfold State.enter
  dsimp only
  rw [if_neg]
  rcases h with h | h
  · simp [h]
  · simp [h]

theorem State.enter_fns (s : State) (x : Desc) (q : Request) : (s.enter x q).hif.fns = s.hif.fns := by
  unfold State.enter
  dsimp only
  split
  · exact State.endRequest_fns ..
  · rfl

theorem State.duplicate_fns (s : State) (x : Desc) (t : State) (h : s.duplicate x = some t) : t.hif.fns = s.hif.fns := by
  unfold State.duplicate at h
  split at h
  · split at h
    · rw [← Option.some.inj h]; rfl
    · rw [← Option.some.inj h]; exact State.fns_raise ..
  · split at h
    · rw [← Option.some.inj h]; exact State.fns_raise ..
    · split at h
      · obtain ⟨r, -, hr⟩ := Option.map_eq_some_iff.1 h
        rw [← hr]
        exact State.fns_raise ..
      · cases h

theorem State.takePrompted_fns (s : State) (d : DescIn) (l : List Word) : (s.takePrompted d l).hif.fns = s.hif.fns := by
  unfold State.takePrompted
  dsimp only
  split
  · next h => exact s.duplicate_fns _ _ h
  · split
    · exact (s.failIntake_spec ..).2.1
    · split
      · exact (s.failIntake_spec ..).2.1
      · exact State.enter_fns ..

/-! ### GENERATE and SCORE (R317, R320, R321, R347) -/

theorem State.takePrompted_new (s : State) (d : DescIn) (l : List Word) (hd : s.duplicate (descOf d.bytes) = none) :
    s.takePrompted d l = match s.descCode d.fn d.bytes with
      | some c => s.failIntake (descOf d.bytes) c
      | none =>
        if l.length < (descOf d.bytes).plen then s.failIntake (descOf d.bytes) 0x2004
        else s.enter (descOf d.bytes) (s.newRequest (descOf d.bytes) l) := by
  unfold State.takePrompted
  dsimp only
  rw [hd] <;> rfl

/-- A new request ends at once (R320): its record is posted, and the table of requests is as it was. -/
theorem State.enter_ended (s : State) (x : Desc) (l : List Word) (hop : x.op ≠ 2) (hmax : x.maxNew = 0)
    (hnew : ∀ q ∈ s.svc.reqs, q.id ≠ x.id) :
    let t := s.enter x (s.newRequest x l)
    t.mem = s.mem ∧ t.svc.reqs = s.svc.reqs ∧ Posted s t (srcTable x.table) 1 0 x.id (termDetail 0 0 false false 0) := by
  unfold State.enter
  dsimp only
  rw [if_pos (by simp [hop, hmax])]
  obtain ⟨mem, -, -, reqs⟩ := State.endRequest_spec { s with svc := s.svc.enter x.id (s.newRequest x l) } (s.newRequest x l) 0 0
  have posted := State.endRequest_posted { s with svc := s.svc.enter x.id (s.newRequest x l) } (s.newRequest x l) 0 0 rfl
  refine ⟨mem, reqs.trans ?_, posted.of_before rfl rfl rfl⟩
  show (((s.svc.remember x.id none).reqs ++ [s.newRequest x l]).filter fun q => q.id != x.id) = _
  rw [(Svc.remember_keeps ..).1, List.filter_append, List.filter_cons_of_neg (by simp [State.newRequest]), List.filter_nil, List.append_nil]
  exact List.filter_eq_self.2 fun q hq => by simpa using hnew q hq

/-- Settles O55, along the outcomes of an intake. -/
theorem descriptorsEnterTheTable : Obligations.DescriptorsEnterTheTable := by
  unfold Obligations.DescriptorsEnterTheTable
  intro s d e prompt l c
  refine ⟨fun he => ⟨?_, ?_⟩, fun he hl hfn hc hop => ?_⟩
  · exact congrArg Host.Outcome.next (s.takeDesc_none d 1 _ _ he)
  · exact congrArg Host.Outcome.next (s.takeDesc_none d 2 _ _ he)
  obtain ⟨fn, ring⟩ := s.descHere_same d e he
  obtain ⟨sources, noted⟩ := s.noteSource_eq e
  generalize hx : descOf e.bytes = x
  have generate : 0 < c.left → x.op = 1 → exec (.generate d prompt) s = .next (((s.withSources sources).takePrompted e l).descTaken e) :=
    fun h hxop => congrArg Host.Outcome.next ((s.takeDesc_taken d e 1 _ l _ c he hl hfn hc hop h (hx ▸ hxop) (by decide) (by decide)).trans
      (by rw [noted]))
  have score : 0 < c.left → x.op = 2 → exec (.score d prompt) s = .next (((s.withSources sources).takePrompted e l).descTaken e) :=
    fun h hxop => congrArg Host.Outcome.next ((s.takeDesc_taken d e 2 _ l _ c he hl hfn hc hop h (hx ▸ hxop) (by decide) (by decide)).trans
      (by rw [noted]))
  -- what an intake that leaves the rings alone has done once its descriptor is counted
  have counted : ∀ u : State, u.hif.fns = s.hif.fns → u.mem = s.mem → 1 < c.left →
      (SameMemory s (u.descTaken e) ∧ ((u.descTaken e).cr d.fn d.ring).run = some { c with left := c.left - 1 }) ∧
        (u.descTaken e).svc = u.svc ∧ (u.descTaken e).hif.queues = u.hif.queues := fun u hfns hmem hleft => by
    obtain ⟨mem, svc, queues, run⟩ := s.descTaken_more u d e c he hfns hc hleft
    exact ⟨⟨SameMemory.of_mem (mem.trans hmem), run⟩, svc, queues⟩
  have queuedBy : ∀ u : State, u = { s.withSources sources with svc := (s.withSources sources).svc.enter x.id ((s.withSources sources).newRequest x l) } →
      1 < c.left → let t := u.descTaken e
      (SameMemory s t ∧ (t.cr d.fn d.ring).run = some { c with left := c.left - 1 }) ∧
      ∃ q, t.svc.reqs = s.svc.reqs ++ [q] ∧ q.id = x.id ∧ q.table = x.table ∧ q.cust = x.cust ∧
        q.state = .queued ∧ q.isScore = decide (x.op = 2) ∧ q.prompt = (l.take x.plen).map (·.toNat) ∧ q.intake = s.tick ∧
        q.order = s.svc.nextOrder ∧ q.maxNew = x.maxNew ∧ q.temp = x.temp ∧ q.topk = x.topk ∧ q.seed = x.seed ∧ q.steps = [] ∧
        q.delivered = 0 ∧ q.dups = 0 ∧ t.hif.queues = s.hif.queues := fun u hu hleft => by
    obtain ⟨taken, svc, queues⟩ := counted u (by rw [hu]; rfl) (by rw [hu]; rfl) hleft
    refine ⟨taken, (s.withSources sources).newRequest x l, ?_, rfl, rfl, rfl, rfl, rfl, rfl, rfl, rfl, rfl, rfl, rfl, rfl, rfl, rfl, rfl,
      queues.trans (by rw [hu]; rfl)⟩
    rw [svc, hu]
    show ((s.withSources sources).svc.remember x.id none).reqs ++ _ = _
    rw [(Svc.remember_keeps ..).1]
    rfl
  have failedBy : ∀ code, 1 < c.left → let t := ((s.withSources sources).failIntake x code).descTaken e
      (SameMemory s t ∧ (t.cr d.fn d.ring).run = some { c with left := c.left - 1 }) ∧
      t.svc.reqs = s.svc.reqs ∧ Posted s t (srcTable x.table) 1 code x.id (termDetail 0 0xFF false false 0) := fun code hleft => by
    obtain ⟨mem, fns, reqs, -, posted⟩ := (s.withSources sources).failIntake_spec x code
    generalize (s.withSources sources).failIntake x code = u at *
    obtain ⟨taken, svc, queues⟩ := counted u fns mem hleft
    have before : Posted s u (srcTable x.table) 1 code x.id (termDetail 0 0xFF false false 0) := posted.of_before rfl rfl rfl
    refine ⟨taken, by rw [svc, reqs]; rfl, before.of_queue ?_⟩
    rw [State.queue, queues, State.queue]
  have joinsBy : ∀ q, s.req? x.id = some q → q.dups < 255 → 1 < c.left → let t := ((s.withSources sources).takePrompted e l).descTaken e
      (SameMemory s t ∧ (t.cr d.fn d.ring).run = some { c with left := c.left - 1 }) ∧
      t.hif.queues = s.hif.queues ∧ t.svc.reqs = s.svc.reqs.map fun y => if y.id = x.id then { y with dups := y.dups + 1 } else y :=
      fun q hq hdups hleft => by
    have joined : (s.withSources sources).takePrompted e l =
        (s.withSources sources).modReq x.id fun q => { q with dups := q.dups + 1 } := by
      unfold State.takePrompted
      rw [hx]
      dsimp only
      rw [(s.withSources sources).duplicate_joins x q hq hdups]
    rw [joined]
    obtain ⟨taken, svc, queues⟩ := counted ((s.withSources sources).modReq x.id fun q => { q with dups := q.dups + 1 }) rfl rfl hleft
    refine ⟨taken, queues, ?_⟩
    rw [svc]
    exact List.map_congr_left fun y _ => by simp only [beq_iff_eq]
  have unknown : s.duplicate x = none → (s.withSources sources).takePrompted e l = match s.descCode d.fn e.bytes with
      | some c => (s.withSources sources).failIntake x c
      | none =>
        if l.length < x.plen then (s.withSources sources).failIntake x 0x2004
        else (s.withSources sources).enter x ((s.withSources sources).newRequest x l) := fun hd => by
    have new := (s.withSources sources).takePrompted_new e l (by rw [hx]; exact s.duplicate_withSources sources x hd)
    rw [hx, fn] at new
    exact new
  have last : c.left = 1 → ((((s.withSources sources).takePrompted e l).descTaken e).cr d.fn d.ring).run = none := fun hleft =>
    s.descTaken_last _ d e c he ((s.withSources sources).takePrompted_fns e l) hc hleft
  refine ⟨fun hxop hleft => ⟨?_, ?_, ?_, ?_, ?_⟩, fun hxop hleft => ⟨?_, ?_, ?_, ?_⟩, fun hres hleft => ?_, fun hxop hleft => ?_,
    fun hxop hleft => ?_⟩
  · rintro ⟨hd, hcode, hlen⟩ hmax
    refine ⟨_, generate (by omega) hxop, queuedBy _ ?_ hleft⟩
    rw [unknown hd, hcode]
    dsimp only
    rw [if_neg (by omega), State.enter_queued _ _ _ (.inr hmax)]
  · rintro ⟨hd, hcode, hlen⟩ hmax
    refine ⟨_, generate (by omega) hxop, ?_⟩
    rw [unknown hd, hcode]
    dsimp only
    rw [if_neg (by omega)]
    obtain ⟨mem, reqs, posted⟩ := (s.withSources sources).enter_ended x l (by omega) hmax (s.req?_of_not_duplicate x hd)
    have fns := (s.withSources sources).enter_fns x ((s.withSources sources).newRequest x l)
    generalize (s.withSources sources).enter x _ = u at *
    obtain ⟨taken, svc, queues⟩ := counted u fns mem hleft
    have before : Posted s u (srcTable x.table) 1 0 x.id (termDetail 0 0 false false 0) := posted.of_before rfl rfl rfl
    refine ⟨taken, by rw [svc, reqs]; rfl, before.of_queue ?_⟩
    rw [State.queue, queues, State.queue]
  · intro code hd hcode
    refine ⟨_, generate (by omega) hxop, ?_⟩
    rw [unknown hd, hcode]
    exact failedBy code hleft
  · intro hd hcode hlen
    refine ⟨_, generate (by omega) hxop, ?_⟩
    rw [unknown hd, hcode]
    dsimp only
    rw [if_pos hlen]
    exact failedBy 0x2004 hleft
  · intro q hq hdups
    exact ⟨_, generate (by omega) hxop, joinsBy q hq hdups hleft⟩
  · rintro ⟨hd, hcode, hlen⟩
    refine ⟨_, score (by omega) hxop, queuedBy _ ?_ hleft⟩
    rw [unknown hd, hcode]
    dsimp only
    rw [if_neg (by omega), State.enter_queued _ _ _ (.inl hxop)]
  · intro code hd hcode
    refine ⟨_, score (by omega) hxop, ?_⟩
    rw [unknown hd, hcode]
    exact failedBy code hleft
  · intro hd hcode hlen
    refine ⟨_, score (by omega) hxop, ?_⟩
    rw [unknown hd, hcode]
    dsimp only
    rw [if_pos hlen]
    exact failedBy 0x2004 hleft
  · intro q hq hdups
    exact ⟨_, score (by omega) hxop, joinsBy q hq hdups hleft⟩
  · refine ⟨_, congrArg Host.Outcome.next (s.takeDesc_reserved d e 1 _ _ c he hfn hc hop (by omega) (hx ▸ hres)), ?_⟩
    rw [hx, noted]
    have posted := State.raise_posted (s.withSources sources) (srcTable x.table) 2 0x6002 x.id 0
    have mem := State.raise_mem (s.withSources sources) (srcTable x.table) 2 0x6002 x.id 0
    have svcr := State.raise_svc (s.withSources sources) (srcTable x.table) 2 0x6002 x.id 0
    have fns := State.fns_raise (s.withSources sources) (srcTable x.table) 2 0x6002 x.id 0
    generalize State.raise _ _ _ _ _ _ = u at *
    obtain ⟨taken, svc, queues⟩ := counted u fns mem hleft
    have before : Posted s u (srcTable x.table) 2 0x6002 x.id 0 := posted.of_before rfl rfl rfl
    refine ⟨taken, by rw [svc, svcr]; rfl, before.of_queue ?_⟩
    rw [State.queue, queues, State.queue]
  · exact ⟨_, generate (by omega) hxop, last hleft⟩
  · exact ⟨_, score (by omega) hxop, last hleft⟩

/-! ### CANCEL, PARK, BIND and RESUME (R331, R341, R345) -/

/-- What an action does as it is taken in (R331): it waits, or its fault record is raised. -/
theorem State.takeAct_spec (s : State) (d : DescIn) :
    (s.takeAct d).mem = s.mem ∧ (s.takeAct d).hif.fns = s.hif.fns ∧ (s.takeAct d).svc.reqs = s.svc.reqs ∧
      (s.descCode d.fn d.bytes = none → (s.takeAct d).svc.acts = s.svc.acts ++ [(s.tick, (descOf d.bytes).table, d.bytes)] ∧
        (s.takeAct d).hif.queues = s.hif.queues) ∧
      (∀ code, s.descCode d.fn d.bytes = some code → (s.takeAct d).svc.acts = s.svc.acts ∧
        Posted s (s.takeAct d) (srcTable (descOf d.bytes).table) 2 code (descOf d.bytes).id 0) := by
  unfold State.takeAct
  cases h : s.descCode d.fn d.bytes with
  | none => exact ⟨rfl, rfl, rfl, fun _ => ⟨rfl, rfl⟩, fun code e => absurd e.symm (Option.some_ne_none _)⟩
  | some x =>
    refine ⟨State.raise_mem .., State.fns_raise .., by rw [State.raise_svc], fun e => absurd e (Option.some_ne_none _), fun code e => ?_⟩
    rw [← Option.some.inj e]
    exact ⟨by rw [State.raise_svc], State.raise_posted ..⟩

/-- The request of a RESUME without an adapter (R345). -/
def State.resumed (s : State) (x : Desc) (record : List Byte) (prompt : List Word) : Request :=
  { s.newRequest x prompt with
    pos := leAt record 32 4, seed := leAt record 40 8, ready := if x.plen == 0 then some (leAt record 36 4) else none, pin := none
    lossy := bit (leAt record 10 1) 0
    restore := (segments (leAt record 12 4) ((record.take (leAt record 56 4)).drop 64)).getD [], resume := true }

theorem State.takeResume_failed (s : State) (d : DescIn) (record : List Byte) (prompt : List Word) (code : Nat)
    (hd : s.duplicate (descOf d.bytes) = none)
    (h : s.descCode d.fn d.bytes = some code ∨
      (s.descCode d.fn d.bytes = none ∧ parkedOk record s.dck.jobId = false ∧ code = 0x6040)) :
    s.takeResume d record prompt = s.failIntake (descOf d.bytes) code := by
  unfold State.takeResume
  dsimp only
  rw [hd]
  dsimp only
  rcases h with h | ⟨h, bad, rfl⟩
  · rw [h]
  · rw [h, bad]
    rfl

theorem State.takeResume_queued (s : State) (d : DescIn) (record : List Byte) (prompt : List Word)
    (hd : s.duplicate (descOf d.bytes) = none) (hcode : s.descCode d.fn d.bytes = none) (hok : parkedOk record s.dck.jobId = true)
    (had : (descOf d.bytes).adnum = 0xFFFF) (hlen : (descOf d.bytes).plen ≤ prompt.length)
    (hlast : leAt record 36 4 ≠ 0xFFFFFFFF ∨ (descOf d.bytes).plen ≠ 0) :
    s.takeResume d record prompt = s.enter (descOf d.bytes) (s.resumed (descOf d.bytes) record prompt) := by
  unfold State.takeResume
  dsimp only
  rw [hd]
  dsimp only
  rw [hcode, hok]
  dsimp only
  rw [if_neg (by decide), if_neg (by simp [had]), if_neg (by rcases hlast with h | h <;> simp [h]), if_neg (by omega), if_pos (by simp [had])]
  rfl

/-- Settles O56: the three actions wait or are refused alike, and a RESUME is queued or fails. -/
theorem actionsWaitForTheBoundary : Obligations.ActionsWaitForTheBoundary := by
  unfold Obligations.ActionsWaitForTheBoundary
  intro s d e c he hfn hc hop hleft
  obtain ⟨fn, ring⟩ := s.descHere_same d e he
  obtain ⟨sources, noted⟩ := s.noteSource_eq e
  generalize hx : descOf e.bytes = x
  have counted : ∀ u : State, u.hif.fns = s.hif.fns → u.mem = s.mem →
      (SameMemory s (u.descTaken e) ∧ ((u.descTaken e).cr d.fn d.ring).run = some { c with left := c.left - 1 }) ∧
        (u.descTaken e).svc = u.svc ∧ (u.descTaken e).hif.queues = u.hif.queues := fun u hfns hmem => by
    obtain ⟨mem, svc, queues, run⟩ := s.descTaken_more u d e c he hfns hc hleft
    exact ⟨⟨SameMemory.of_mem (mem.trans hmem), run⟩, svc, queues⟩
  -- the three actions
  have act : ∀ op, (op = 3 ∨ op = 4 ∨ op = 6) → x.op = op → s.takeDesc d op (some ()) (fun s d _ => s.takeAct d) =
      ((s.withSources sources).takeAct e).descTaken e := fun op hops hxop =>
    (s.takeDesc_taken d e op _ () _ c he rfl hfn hc hop (by omega) (hx ▸ hxop) (by omega) (by omega)).trans (by rw [noted])
  obtain ⟨actMem, actFns, actReqs, actWaits, actRefused⟩ := (s.withSources sources).takeAct_spec e
  rw [fn, hx] at actWaits actRefused
  have waits : s.descCode d.fn e.bytes = none → let t := ((s.withSources sources).takeAct e).descTaken e
      (SameMemory s t ∧ (t.cr d.fn d.ring).run = some { c with left := c.left - 1 } ∧ t.svc.reqs = s.svc.reqs) ∧
        t.svc.acts = s.svc.acts ++ [(s.tick, x.table, e.bytes)] ∧ t.hif.queues = s.hif.queues := fun hcode => by
    obtain ⟨acts, queues⟩ := actWaits hcode
    obtain ⟨⟨memory, run⟩, svc, queues'⟩ := counted _ actFns actMem
    exact ⟨⟨memory, run, by rw [svc, actReqs]; rfl⟩, by rw [svc, acts]; rfl, queues'.trans queues⟩
  have refused : ∀ code, s.descCode d.fn e.bytes = some code → let t := ((s.withSources sources).takeAct e).descTaken e
      (SameMemory s t ∧ (t.cr d.fn d.ring).run = some { c with left := c.left - 1 } ∧ t.svc.reqs = s.svc.reqs) ∧
        t.svc.acts = s.svc.acts ∧ Posted s t (srcTable x.table) 2 code x.id 0 := fun code hcode => by
    obtain ⟨acts, posted⟩ := actRefused code hcode
    obtain ⟨⟨memory, run⟩, svc, queues⟩ := counted _ actFns actMem
    have before : Posted s ((s.withSources sources).takeAct e) (srcTable x.table) 2 code x.id 0 := posted.of_before rfl rfl rfl
    refine ⟨⟨memory, run, by rw [svc, actReqs]; rfl⟩, by rw [svc, acts]; rfl, before.of_queue ?_⟩
    rw [State.queue, queues, State.queue]
  refine ⟨fun hxop => ⟨fun h => ?_, fun code h => ?_⟩, fun hxop => ⟨fun h => ?_, fun code h => ?_⟩, fun hxop => ⟨fun h => ?_, fun code h => ?_⟩,
    fun own words record prompt hxop hparts hd => ?_⟩
  · exact ⟨_, congrArg Host.Outcome.next (act 3 (by decide) hxop), waits h⟩
  · exact ⟨_, congrArg Host.Outcome.next (act 3 (by decide) hxop), refused code h⟩
  · exact ⟨_, congrArg Host.Outcome.next (act 4 (by decide) hxop), waits h⟩
  · exact ⟨_, congrArg Host.Outcome.next (act 4 (by decide) hxop), refused code h⟩
  · exact ⟨_, congrArg Host.Outcome.next (act 6 (by decide) hxop), waits h⟩
  · exact ⟨_, congrArg Host.Outcome.next (act 6 (by decide) hxop), refused code h⟩
  · have resume : exec (.resume d own words) s = .next (((s.withSources sources).takeResume e record prompt).descTaken e) :=
      congrArg Host.Outcome.next ((s.takeDesc_taken d e 5 _ (record, prompt) _ c he hparts hfn hc hop (by omega) (hx ▸ hxop)
        (by decide) (by decide)).trans (by rw [noted]))
    have new : (s.withSources sources).duplicate (descOf e.bytes) = none := by rw [hx]; exact s.duplicate_withSources sources x hd
    have failed : ∀ code, let t := ((s.withSources sources).failIntake x code).descTaken e
        (SameMemory s t ∧ (t.cr d.fn d.ring).run = some { c with left := c.left - 1 } ∧ t.svc.reqs = s.svc.reqs) ∧
          Posted s t (srcTable x.table) 1 code x.id (termDetail 0 0xFF false false 0) := fun code => by
      obtain ⟨mem, fns, reqs, -, posted⟩ := (s.withSources sources).failIntake_spec x code
      generalize (s.withSources sources).failIntake x code = u at *
      obtain ⟨⟨memory, run⟩, svc, queues⟩ := counted u fns mem
      have before : Posted s u (srcTable x.table) 1 code x.id (termDetail 0 0xFF false false 0) := posted.of_before rfl rfl rfl
      refine ⟨⟨memory, run, by rw [svc, reqs]; rfl⟩, before.of_queue ?_⟩
      rw [State.queue, queues, State.queue]
    refine ⟨fun code hcode => ?_, fun hcode hbad => ?_, fun hcode hok had hlen hmax hlast => ?_⟩
    · refine ⟨_, resume, ?_⟩
      rw [(s.withSources sources).takeResume_failed e record prompt code new (.inl (by rw [fn]; exact hcode)), hx]
      exact failed code
    · refine ⟨_, resume, ?_⟩
      rw [(s.withSources sources).takeResume_failed e record prompt 0x6040 new (.inr ⟨by rw [fn]; exact hcode, hbad, rfl⟩), hx]
      exact failed 0x6040
    · refine ⟨_, (s.withSources sources).resumed x record prompt, resume, ?_⟩
      rw [(s.withSources sources).takeResume_queued e record prompt new (by rw [fn]; exact hcode) hok (by rw [hx]; exact had)
        (by rw [hx]; exact hlen) (by rw [hx]; exact hlast), hx, State.enter_queued _ _ _ (.inr hmax)]
      obtain ⟨⟨memory, -⟩, svc, -⟩ := counted { s.withSources sources with
        svc := (s.withSources sources).svc.enter x.id ((s.withSources sources).resumed x record prompt) } rfl rfl
      refine ⟨memory, ?_, rfl, rfl, rfl, rfl, rfl, ?_⟩
      · rw [svc]
        show ((s.withSources sources).svc.remember x.id none).reqs ++ _ = _
        rw [(Svc.remember_keeps ..).1]
        rfl
      · simp [State.resumed]

end Sys2Proof.Machine
end

section
/-! PROOFS. Commands of the host as they are fetched (R292, R304). -/

namespace Sys2Proof.Machine

/-- A loaded device whose ticks have 2^11 beats stands at the start of tick 1; ring 0 of the physical function holds one command. -/
def shortTicksLoaded : State :=
  { State.reset with
    rcu := { k := 11, count := 2048 },
    dck := { state := .loaded },
    hif := { fns := [(0, { crs := [(0, { enable := true, tail := 1 })] })] } }

/-- A DECK_LOAD whose length is 0. -/
def emptyLoad : List Byte := 2#8 :: List.replicate 63 0#8

/-- Refutes O42: a DECK_LOAD that fails clears the deck's stores before its completion is raised, and with them the tick exponent, which is
12 again (R294). So on a device with 2^11 beats to the tick the completion has the stamp of the new exponent, and not the round counter of
the state in which the command was fetched. -/
theorem not_commandsAreCheckedInOrder : ¬ Obligations.CommandsAreCheckedInOrder := by
  unfold Obligations.CommandsAreCheckedInOrder
  intro h
  obtain ⟨-, fetched⟩ := h shortTicksLoaded .pf 0 { data := [], ok := true } rfl (by decide)
  obtain ⟨-, whole⟩ := fetched (by decide +kernel) (by decide +kernel) (by decide +kernel)
  obtain ⟨-, -, -, -, here⟩ := whole emptyLoad rfl
  obtain ⟨-, -, -, -, -, load, -⟩ := here (by decide +kernel) (by decide +kernel) (by decide +kernel)
  obtain ⟨short, -⟩ := load (by decide +kernel) (.inr (by decide +kernel))
  have idle : ∀ j ∈ runRings, (shortTicksLoaded.cr .pf j).run = none := by decide +kernel
  have noFence : ∀ j ∈ runRings, ∀ x, (shortTicksLoaded.cr .pf j).run = some x → x.op ≠ 1 := fun j hj x hx => by
    rw [idle j hj] at hx
    cases hx
  obtain ⟨t, ⟨⟨run, -⟩, -, queue⟩, -⟩ := short noFence (by decide +kernel)
  rw [← State.ran_eq run] at queue
  exact absurd queue (by decide +kernel)

end Sys2Proof.Machine
end

section
/-! PROOFS. The load of a deck (R292 to R295, R298, R425). -/

namespace Sys2Proof.Machine

/-- A command of the deck ends: RESULT has its status, and nothing of the deck, memory, the tables or the clock changes. -/
theorem State.endDeckCmd_spec (s : State) (c : Pend) (status : Nat) :
    let t := s.endDeckCmd c status
    t.mem = s.mem ∧ t.dck = { s.dck with result := status } ∧ t.rcu = s.rcu ∧ t.tables = s.tables ∧ t.acc = s.acc ∧ t.accBad = s.accBad := by
  have ends : CommandsEnd c.fn { s with dck := { s.dck with result := status } } (s.endDeckCmd c status) :=
    (CommandsEnd.complete ..).trans (CommandsEnd.freeRing ..).1
  refine ⟨ends.mem, ends.dck, ends.rcu, ends.tables, ?_, ?_⟩
  · rw [ends.frame]
  · rw [ends.frame]

/-- A load fails: the device is in NONE, and FAIL shows where. -/
theorem State.loadFails_spec (s : State) (c : Pend) (entry : Nat) (f : Fail) :
    let t := s.loadFails c entry f
    t.mem = s.mem ∧ t.dck.load = none ∧ t.dck.state = .none_ ∧ t.dck.result = f.1 ∧ t.dck.failEntry = entry ∧ t.dck.failOff = f.2 := by
  unfold State.loadFails
  dsimp only
  generalize hu : { s.clearStores with dck := { s.clearStores.dck with failEntry := entry, failOff := f.2 } } = u
  obtain ⟨mem, dck, -⟩ := u.endDeckCmd_spec c f.1
  rw [dck]
  refine ⟨mem.trans ?_, ?_⟩
  · rw [← hu]; rfl
  · rw [← hu]
    exact ⟨rfl, rfl, rfl, rfl, rfl⟩

/-- A load in pass 2 has the tick exponent that pass 1 read. -/
def State.pass2Load (s : State) (l : Load) : Load := { l with tick11 := Fin.ofNat 6 ((s.deckIn l.bytes).k - 11) }

/-- A load whose pass 1 has brought its bytes and passes steps 2 and 3. -/
def State.pass1Done (s : State) (l : Load) : State := { s with dck := { s.dck with pass := 2, load := some (s.pass2Load l) } }

theorem State.endPass1_own (s : State) (l : Load) (hs : s.dck.state = .loading) (hl : s.dck.load = some l) (hp : s.dck.pass = 1)
    (hfar : l.far = false) : s.endPass1 = s.checkPass1 l := by
  unfold State.endPass1
  rw [hl]
  dsimp only
  rw [if_pos ⟨hs, hp⟩, hfar]
  rfl

theorem State.endPass2_of_no_load (s : State) (own : List Byte) (ok : Bool) (h : s.dck.load = none) : s.endPass2 own ok = s := by
  unfold State.endPass2
  rw [h]

theorem State.endPass1_of_pass2 (s : State) (l : Load) (hl : s.dck.load = some l) (hp : s.dck.pass = 2) : s.endPass1 = s := by
  unfold State.endPass1
  rw [hl]
  dsimp only
  rw [if_neg (by omega)]

theorem State.endPass2_of_bytes (s : State) (l : Load) (own b : List Byte) (ok : Bool) (hs : s.dck.state = .loading)
    (hl : s.dck.load = some l) (hp : s.dck.pass = 2)
    (hb : (l.far = false ∧ b = upTo own ok l.len) ∨ (l.far = true ∧ s.farPass l 2 = some b)) :
    s.endPass2 own ok = s.runPass2 l b := by
  unfold State.endPass2
  rw [hl]
  dsimp only
  rw [if_pos ⟨hs, hp⟩]
  rcases hb with ⟨hfar, rfl⟩ | ⟨hfar, hb⟩
  · rw [hfar]; rfl
  · rw [hfar, hb]; rfl

/-- The two passes of a load end together, on a device whose host answers for itself (log entry 29). -/
theorem exec_deckLoadComplete_pass1 (s : State) (l : Load) (own b : List Byte) (ok : Bool) (hs : s.dck.state = .loading)
    (hl : s.dck.load = some l) (hp : s.dck.pass = 1) (hfar : l.far = false) (hb : b = upTo own ok l.len) (hlen : l.len ≤ l.bytes.length)
    (hfirst : firstSome [s.signatureBad l.bytes, s.identityBad (s.deckIn l.bytes)] id = none) :
    exec (.deckLoadComplete own ok) s = .next ((s.pass1Done l).runPass2 (s.pass2Load l) b) := by
  have checked : s.checkPass1 l = s.pass1Done l := by
    unfold State.checkPass1
    rw [if_neg (Nat.not_lt.2 hlen), hfirst]
    dsimp only
    rw [if_neg (by rw [hfar]; decide)]
    rfl
  show Host.Outcome.next (s.endPass1.endPass2 own ok) = _
  rw [s.endPass1_own l hs hl hp hfar, checked]
  exact congrArg Host.Outcome.next (State.endPass2_of_bytes (s.pass1Done l) (s.pass2Load l) own b ok hs rfl rfl
    (.inl ⟨hfar, hb⟩))

theorem exec_deckLoadComplete_pass2 (s : State) (l : Load) (own b : List Byte) (ok : Bool) (hs : s.dck.state = .loading)
    (hl : s.dck.load = some l) (hp : s.dck.pass = 2)
    (hb : (l.far = false ∧ b = upTo own ok l.len) ∨ (l.far = true ∧ s.farPass l 2 = some b)) :
    exec (.deckLoadComplete own ok) s = .next (s.runPass2 l b) := by
  show Host.Outcome.next (s.endPass1.endPass2 own ok) = _
  rw [s.endPass1_of_pass2 l hl hp, s.endPass2_of_bytes l own b ok hs hl hp hb]

theorem State.runPass2_bad (s : State) (l : Load) (b : List Byte) (n entry : Nat) (f : Fail)
    (h : (s.deckIn (b ++ rep (l.len - b.length) 0#8)).pass2Bad b.length = some (n, entry, f)) :
    s.runPass2 l b = (s.writeInit (s.deckIn (b ++ rep (l.len - b.length) 0#8)) n).loadFails l.cmd entry f := by
  unfold State.runPass2
  dsimp only
  rw [h]

theorem State.runPass2_differs (s : State) (l : Load) (b : List Byte)
    (h : (s.deckIn (b ++ rep (l.len - b.length) 0#8)).pass2Bad b.length = none) (hne : sha384 l.bytes ≠ sha384 b) :
    s.runPass2 l b = (s.writeInit (s.deckIn (b ++ rep (l.len - b.length) 0#8)) (s.deckIn (b ++ rep (l.len - b.length) 0#8)).nsect).loadFails
      l.cmd 0xFFFF (0x1003, l.len - 128) := by
  unfold State.runPass2
  dsimp only
  rw [h]
  dsimp only
  rw [if_pos (by simpa using hne)]

theorem State.runPass2_good (s : State) (l : Load) (b : List Byte)
    (h : (s.deckIn (b ++ rep (l.len - b.length) 0#8)).pass2Bad b.length = none) (heq : sha384 l.bytes = sha384 b) :
    s.runPass2 l b = ((s.writeInit (s.deckIn (b ++ rep (l.len - b.length) 0#8)) (s.deckIn (b ++ rep (l.len - b.length) 0#8)).nsect).loaded l
      (s.deckIn (b ++ rep (l.len - b.length) 0#8))).endDeckCmd l.cmd 0 := by
  unfold State.runPass2
  dsimp only
  rw [h]
  dsimp only
  rw [if_neg (by simp [heq])]

/-- Every table that a load leaves is IDLE (R295). -/
theorem State.loaded_table (s : State) (l : Load) (d : DeckIn) (n : Nat) :
    ((s.loaded l d).table n).phase = 0 ∧ ((s.loaded l d).table n).switch = none ∧ ((s.loaded l d).table n).prog = none := by
  have tables : (s.loaded l d).table n = Map.get {} (s.tables.map fun (e : Nat × Table) => (e.1, e.2.idle)) n := rfl
  rw [tables]
  generalize s.tables = m
  induction m with
  | nil => exact ⟨rfl, rfl, rfl⟩
  | cons a m ih =>
    simp only [List.map_cons, Map.get]
    split
    · exact ⟨rfl, rfl, rfl⟩
    · exact ih

/-- What a load leaves that passes every check. -/
theorem State.loaded_spec (s : State) (l : Load) (d : DeckIn) (c : Pend) :
    let t := (s.loaded l d).endDeckCmd c 0
    t.dck.load = none ∧ t.dck.state = .loaded ∧ t.dck.result = 0 ∧ t.dck.jobId = d.at_ 40 8 ∧ t.rcu.k = 11 + l.tick11.val ∧
      (∀ n, (t.table n).phase = 0 ∧ (t.table n).switch = none ∧ (t.table n).prog = none) ∧ t.acc = [] ∧ t.accBad = [] := by
  obtain ⟨-, dck, rcu, tables, acc, accBad⟩ := (s.loaded l d).endDeckCmd_spec c 0
  dsimp only
  rw [dck, rcu, acc, accBad]
  refine ⟨rfl, rfl, rfl, rfl, rfl, fun n => ?_, rfl, rfl⟩
  rw [State.table, tables]
  exact s.loaded_table l d n

theorem firstSome_none {α β : Type} (f : α → Option β) (l : List α) (h : firstSome l f = none) : ∀ x ∈ l, f x = none := by
  intro x hx
  exact List.findSome?_eq_none_iff.1 h x hx

/-- The tick exponent of a header that step 3 accepts (R292). -/
theorem State.identityBad_none (s : State) (d : DeckIn) (h : s.identityBad d = none) : 11 ≤ d.k ∧ d.k ≤ 16 := by
  have hk := firstSome_none _ _ h (failIf (decide (d.k < 11) || decide (16 < d.k)) 0x1009 16) (by simp)
  unfold failIf at hk
  simp only [id] at hk
  split at hk
  · cases hk
  · next h' =>
    simp only [Bool.or_eq_true, decide_eq_true_eq, not_or, Nat.not_lt] at h'
    exact h'

/-- Settles O44, along the two passes. -/
theorem deckLoadsOrFails : Obligations.DeckLoadsOrFails := by
  unfold Obligations.DeckLoadsOrFails
  intro s l own b ok
  refine ⟨fun h => ?_, fun hs hl hfar h => ?_, fun ⟨hs, hl, hp, hfar, hb⟩ hlen => ?_, fun ⟨hs, hl, hp, hfar, hb⟩ hlen f hf => ?_,
    fun h n entry f hbad => ?_, fun h hok hne => ?_, fun ⟨hs, hl, hp, hfar, hb⟩ hlen hfirst hok heq => ?_,
    fun ⟨hs, hl, hp, hb⟩ hok heq => ?_⟩
  · show Host.Outcome.next (s.endPass1.endPass2 own ok) = _
    have first : s.endPass1 = s := by
      unfold State.endPass1
      split
      · next hl => rw [if_neg (by rintro ⟨hs, -⟩; rcases h with h | h; exacts [h hs, by rw [h] at hl; cases hl])]
      · rfl
    rw [first]
    unfold State.endPass2
    split
    · next hl => rw [if_neg (by rintro ⟨hs, -⟩; rcases h with h | h; exacts [h hs, by rw [h] at hl; cases hl])]
    · rfl
  · show Host.Outcome.next (s.endPass1.endPass2 own ok) = _
    rcases h with ⟨hp, hnone⟩ | ⟨hp, hnone⟩
    · have first : s.endPass1 = s := by
        unfold State.endPass1
        rw [hl]
        dsimp only
        rw [if_pos ⟨hs, hp⟩, hfar, hnone]
        rfl
      rw [first]
      unfold State.endPass2
      rw [hl]
      dsimp only
      rw [if_neg (by omega)]
    · rw [s.endPass1_of_pass2 l hl hp]
      unfold State.endPass2
      rw [hl]
      dsimp only
      rw [if_pos ⟨hs, hp⟩, hfar, hnone]
      rfl
  · obtain ⟨mem, load, rest⟩ := s.loadFails_spec l.cmd 0xFFFF (0x100D, l.bytes.length)
    have checked : s.checkPass1 l = s.loadFails l.cmd 0xFFFF (0x100D, l.bytes.length) := if_pos hlen
    refine ⟨_, ?_, SameMemory.of_mem mem, load, rest⟩
    show Host.Outcome.next (s.endPass1.endPass2 own ok) = _
    rw [s.endPass1_own l hs hl hp hfar, checked, State.endPass2_of_no_load _ _ _ load]
  · obtain ⟨mem, load, rest⟩ := s.loadFails_spec l.cmd 0xFFFF f
    have checked : s.checkPass1 l = s.loadFails l.cmd 0xFFFF f := by
      unfold State.checkPass1
      rw [if_neg (Nat.not_lt.2 hlen), hf]
    refine ⟨_, ?_, SameMemory.of_mem mem, load, rest⟩
    show Host.Outcome.next (s.endPass1.endPass2 own ok) = _
    rw [s.endPass1_own l hs hl hp hfar, checked, State.endPass2_of_no_load _ _ _ load]
  · rcases h with ⟨hs, hl, hp, hb⟩ | ⟨⟨hs, hl, hp, hfar, hb⟩, hlen, hfirst⟩
    · have run := exec_deckLoadComplete_pass2 s l own b ok hs hl hp hb
      rw [s.runPass2_bad l b n entry f hbad] at run
      exact ⟨_, run, (State.loadFails_spec ..).2⟩
    · have run := exec_deckLoadComplete_pass1 s l own b ok hs hl hp hfar hb hlen hfirst
      rw [State.runPass2_bad (s.pass1Done l) (s.pass2Load l) b n entry f hbad] at run
      exact ⟨_, run, (State.loadFails_spec ..).2⟩
  · rcases h with ⟨hs, hl, hp, hb⟩ | ⟨⟨hs, hl, hp, hfar, hb⟩, hlen, hfirst⟩
    · have run := exec_deckLoadComplete_pass2 s l own b ok hs hl hp hb
      rw [s.runPass2_differs l b hok hne] at run
      exact ⟨_, run, (State.loadFails_spec ..).2⟩
    · have run := exec_deckLoadComplete_pass1 s l own b ok hs hl hp hfar hb hlen hfirst
      rw [State.runPass2_differs (s.pass1Done l) (s.pass2Load l) b hok hne] at run
      exact ⟨_, run, (State.loadFails_spec ..).2⟩
  · have run := exec_deckLoadComplete_pass1 s l own b ok hs hl hp hfar hb hlen hfirst
    have same : (s.pass1Done l).deckIn = s.deckIn := rfl
    have len : (s.pass2Load l).len = l.len := rfl
    have cmd : (s.pass2Load l).cmd = l.cmd := rfl
    rw [State.runPass2_good (s.pass1Done l) (s.pass2Load l) b hok heq, same, len, cmd] at run
    refine ⟨_, run, ?_⟩
    obtain ⟨load, state, result, job, k, rest⟩ := State.loaded_spec
      ((s.pass1Done l).writeInit (s.deckIn (b ++ rep (l.len - b.length) 0#8)) (s.deckIn (b ++ rep (l.len - b.length) 0#8)).nsect)
      (s.pass2Load l) (s.deckIn (b ++ rep (l.len - b.length) 0#8)) l.cmd
    obtain ⟨low, high⟩ := s.identityBad_none (s.deckIn l.bytes) (firstSome_none _ _ hfirst (s.identityBad (s.deckIn l.bytes)) (by simp))
    refine ⟨load, state, result, job, k.trans ?_, rest⟩
    show 11 + ((s.deckIn l.bytes).k - 11) % 6 = _
    omega
  · have run := exec_deckLoadComplete_pass2 s l own b ok hs hl hp hb
    rw [s.runPass2_good l b hok heq] at run
    exact ⟨_, run, State.loaded_spec ..⟩

end Sys2Proof.Machine
end

section
/-! PROOFS. Record rings in host memory (R302, R305, R307, R308, R310). -/

namespace Sys2Proof.Machine

/-! ### Rings are turned on (R302) -/

theorem OnlyFn.modFn (s : State) (f : Fn) (g : FnState → FnState) : OnlyFn f s (s.modFn f g) :=
  ⟨rfl, fun _ h => Map.get_set_of_ne _ _ _ _ _ h⟩

theorem exec_hostRingEnable_cr (s : State) (fn : Fn) (i : Nat) (cfg : Word) (hfn : fnOk fn = true) (hi : i < 4) :
    exec (.hostRingEnable fn false i cfg) s = .next (s.setCr fn i ((s.cr fn i).writeCfg cfg.toNat)) := by
  show execHostRingEnable fn false i cfg s = _
  unfold execHostRingEnable
  rw [hfn, if_neg (by decide), if_neg (by decide)]
  exact if_pos hi

theorem exec_hostRingEnable_rr (s : State) (fn : Fn) (i : Nat) (cfg : Word) (hfn : fnOk fn = true) (hi : i < recRings fn) :
    exec (.hostRingEnable fn true i cfg) s = .next (s.setRr fn i ((s.rr fn i).writeCfg fn cfg.toNat)) := by
  show execHostRingEnable fn true i cfg s = _
  unfold execHostRingEnable
  rw [hfn, if_neg (by decide), if_pos rfl]
  exact if_pos hi

theorem ringsRestartWhenEnabled : Claims.RingsRestartWhenEnabled := by
  intro s fn i cfg hfn
  refine ⟨fun hi hon => ?_, fun hi hoff => ?_, fun hi hon => ?_, fun hi hoff => ?_⟩
  · refine ⟨_, exec_hostRingEnable_cr s fn i cfg hfn hi, OnlyFn.modFn .., ?_⟩
    rw [State.cr_setCr_self, CmdRing.writeCfg, hon]
    rfl
  · refine ⟨_, exec_hostRingEnable_cr s fn i cfg hfn hi, OnlyFn.modFn .., ?_⟩
    rw [State.cr_setCr_self, CmdRing.writeCfg, hoff]
    dsimp only
    rw [if_neg (by decide)]
    simp only [Bool.and_eq_true, decide_eq_true_eq]
    cases bit cfg.toNat 31 <;> rfl
  · refine ⟨_, exec_hostRingEnable_rr s fn i cfg hfn hi, OnlyFn.modFn .., ?_⟩
    rw [State.rr_setRr_self, RecRing.writeCfg, hon]
    rfl
  · refine ⟨_, exec_hostRingEnable_rr s fn i cfg hfn hi, OnlyFn.modFn .., ?_⟩
    rw [State.rr_setRr_self, RecRing.writeCfg, hoff]
    dsimp only
    rw [if_neg (by decide)]
    simp only [Bool.and_eq_true, Bool.or_eq_true, decide_eq_true_eq]
    cases bit cfg.toNat 31 <;> rfl

/-! ### A batch is taken (R306) -/

/-- What the taking of records changes: their queues, and entries of the request table that their going frees. -/
def QueuesMove (s t : State) : Prop :=
  t = { s with hif := { s.hif with queues := t.hif.queues }, svc := { s.svc with ended := t.svc.ended } }

theorem QueuesMove.trans {s t u : State} (h : QueuesMove s t) (k : QueuesMove t u) : QueuesMove s u := by
  unfold QueuesMove at h k ⊢
  refine k.trans ?_
  rw [h]

theorem QueuesMove.takeRecs (s : State) (key n : Nat) : QueuesMove s (s.takeRecs key n).1 := by
  unfold State.takeRecs State.settleQueue State.freeEntries
  dsimp only
  split <;> rfl

theorem State.takeBatch_spec (keys : List Nat) (s : State) (room : Nat) :
    QueuesMove s (s.takeBatch keys room).1 ∧ (s.takeBatch keys room).2.length ≤ room := by
  unfold State.takeBatch
  have step : ∀ (keys : List Nat) (a : State × List Rec), QueuesMove s a.1 → a.2.length ≤ room →
      QueuesMove s (keys.foldl (fun a k => ((a.1.takeRecs k (room - a.2.length)).1, a.2 ++ (a.1.takeRecs k (room - a.2.length)).2)) a).1 ∧
        (keys.foldl (fun a k => ((a.1.takeRecs k (room - a.2.length)).1, a.2 ++ (a.1.takeRecs k (room - a.2.length)).2)) a).2.length ≤ room := by
    intro keys
    induction keys with
    | nil => exact fun a h k => ⟨h, k⟩
    | cons key keys ih =>
      intro a h k
      refine ih _ (h.trans (.takeRecs ..)) ?_
      have taken : (a.1.takeRecs key (room - a.2.length)).2.length ≤ room - a.2.length := by
        unfold State.takeRecs
        exact List.length_take_le ..
      rw [List.length_append]
      omega
  exact step keys (s, []) rfl (Nat.zero_le _)

/-! ### Entries are written (R305, R307) -/

/-- What the writing of entries of a ring changes: its PROD, and what left the device. -/
structure EntriesPut (f : Fn) (j n : Nat) (s t : State) : Prop where
  frame : t = { s with out := t.out, hif := { s.hif with fns := t.hif.fns } }
  ring : t.rr f j = { s.rr f j with prod := (s.rr f j).prod + BitVec.ofNat 32 n }

theorem EntriesPut.putEntry (s : State) (f : Fn) (j : Nat) (data : Bool → List Byte) : EntriesPut f j 1 s (s.putEntry f j data) := by
  refine ⟨rfl, ?_⟩
  show (s.setRr f j { s.rr f j with prod := (s.rr f j).prod + 1 }).rr f j = _
  rw [State.rr_setRr_self]
  rfl

theorem EntriesPut.trans {f : Fn} {j n m : Nat} {s t u : State} (h : EntriesPut f j n s t) (k : EntriesPut f j m t u) :
    EntriesPut f j (n + m) s u := by
  refine ⟨?_, ?_⟩
  · refine k.frame.trans ?_
    rw [h.frame]
  · rw [k.ring, h.ring]
    dsimp only
    rw [BitVec.add_assoc, BitVec.ofNat_add]

/-- The records of a batch go to the next places of their ring, with the PHASE of their count. -/
theorem State.foldl_putEntry (f : Fn) (j : Nat) (l : List Rec) (s : State) :
    let t := l.foldl (fun s r => s.putEntry f j (r.bytes ·)) s
    let r := s.rr f j
    EntriesPut f j l.length s t ∧ t.out = s.out ++ l.zipIdx.map fun x =>
      .hostWrite (r.base.toNat + 32 * ((r.prod + BitVec.ofNat 32 x.2).toNat % 2 ^ r.sizeLog))
        (x.1.bytes (!bit (r.prod + BitVec.ofNat 32 x.2).toNat r.sizeLog)) := by
  induction l using List.reverseRecOn with
  | nil => exact ⟨⟨rfl, by simp⟩, by simp⟩
  | append_singleton l a ih =>
    dsimp only at ih ⊢
    rw [List.foldl_append, List.foldl_cons, List.foldl_nil, List.length_append, List.length_singleton, List.zipIdx_append, List.map_append]
    obtain ⟨put, out⟩ := ih
    generalize l.foldl (fun s r => s.putEntry f j (r.bytes ·)) s = t at *
    refine ⟨put.trans (.putEntry ..), ?_⟩
    show t.out ++ [_] = _
    rw [out, List.append_assoc, Nat.zero_add]
    congr 1
    unfold RecRing.phase
    rw [put.ring]
    rfl

theorem EntriesPut.sameMemory {f : Fn} {j n : Nat} {s t : State} (h : EntriesPut f j n s t) : t.mem = s.mem := by rw [h.frame]

/-! ### The announcement (R307, R310) -/

/-- A ring's message: to the host, or kept as pending while its vector is masked, or none for a vector that is not in the table. -/
theorem State.sendMsg_spec (s : State) (f : Fn) (j : Nat) :
    let r := s.rr f j
    let t := s.sendMsg f j
    let v := vectorBase f + r.vector
    let masked := bit (Map.get 0#32 s.hif.msix (4 * v + 3)).toNat 0
    t.mem = s.mem ∧ t.lnk = s.lnk ∧ t.rr f j = { r with heldMsg := false, lastMsg := some s.age } ∧
      (s.vectors f ≤ r.vector → t.out = s.out) ∧
      (¬ s.vectors f ≤ r.vector → masked = false → t.out = s.out ++ [.msix f r.vector]) ∧
      (¬ s.vectors f ≤ r.vector → masked = true → t.out = s.out ∧ v ∈ t.hif.pba) := by
  have ring : (s.setRr f j { s.rr f j with lastMsg := some s.age, heldMsg := false }).rr f j =
      { s.rr f j with heldMsg := false, lastMsg := some s.age } := State.rr_setRr_self ..
  unfold State.sendMsg
  dsimp only
  generalize hu : s.setRr f j { s.rr f j with lastMsg := some s.age, heldMsg := false } = u at *
  have vectors : u.vectors f = s.vectors f := by rw [← hu]; rfl
  have msix : u.hif.msix = s.hif.msix := by rw [← hu]; rfl
  have out : u.out = s.out := by rw [← hu]; rfl
  have mem : u.mem = s.mem := by rw [← hu]; rfl
  have lnk : u.lnk = s.lnk := by rw [← hu]; rfl
  unfold State.sendMsix
  rw [vectors, msix]
  by_cases ha : s.vectors f ≤ (s.rr f j).vector
  · rw [if_pos ha]
    exact ⟨mem, lnk, ring, fun _ => out, fun h => absurd ha h, fun h => absurd ha h⟩
  · rw [if_neg ha]
    dsimp only
    by_cases hm : bit (Map.get 0#32 s.hif.msix (4 * (vectorBase f + (s.rr f j).vector) + 3)).toNat 0 = true
    · rw [if_pos hm]
      refine ⟨mem, lnk, ring, fun h => absurd h ha, fun _ h => ?_, fun _ _ => ⟨out, ?_⟩⟩
      · rw [hm] at h; cases h
      · dsimp only
        split
        · next h => exact List.contains_iff_mem.1 h
        · exact List.mem_append_right _ List.mem_cons_self
    · rw [if_neg hm]
      refine ⟨mem, lnk, ring, fun h => absurd h ha, fun _ _ => ?_, fun _ h => absurd h hm⟩
      show u.out ++ _ = _
      rw [out]

/-! ### Publication (R307, R308, R312) -/

/-- A batch of a ring, and the announcement behind it (R307). -/
def State.publishBatch (s : State) (fn : Fn) (i : Nat) : State :=
  let a := s.takeBatch (s.ringQueues fn i) (s.rr fn i).room
  (a.2.foldl (fun s r => s.putEntry fn i (r.bytes ·)) a.1).publishEnd fn i (a.2.any (·.kind == 3))

theorem exec_recordPublish (s : State) (fn : Fn) (i : Nat) (hfn : fnOk fn = true) (hi : i < recRings fn) (hlead : s.hif.leadValid = false)
    (hring : ¬ (fn = .pf ∧ i = 17)) : exec (.recordPublish fn i) s = .next (
      if !(s.rr fn i).enable then s
      else if (s.takeBatch (s.ringQueues fn i) (s.rr fn i).room).2.isEmpty then s
      else s.publishBatch fn i) := by
  show execRecordPublish fn i s = _
  unfold execRecordPublish
  rw [hfn, hlead, if_neg (by decide), within, if_pos hi, if_neg (by decide), if_neg (c := (decide (fn = Fn.pf) && decide (i = 17)) = true) (by simpa using hring)]
  rfl

theorem exec_recordPublish_off (s : State) (fn : Fn) (i : Nat) (hfn : fnOk fn = true) (hi : i < recRings fn) (hlead : s.hif.leadValid = false)
    (hoff : (s.rr fn i).enable = false) : exec (.recordPublish fn i) s = .next s := by
  show execRecordPublish fn i s = _
  unfold execRecordPublish
  rw [hfn, hlead, hoff, if_neg (by decide), within, if_pos hi, if_neg (by decide)]
  rfl

theorem exec_recordPublish_lead (s : State) (fn : Fn) (i : Nat) (hfn : fnOk fn = true) (hi : i < recRings fn) (hlead : s.hif.leadValid = true) :
    exec (.recordPublish fn i) s = .next (s.publishToLead fn i) := by
  show execRecordPublish fn i s = _
  unfold execRecordPublish
  rw [hfn, hlead, if_neg (by decide), within, if_pos hi]
  rfl

theorem exec_holdoffExpire (s : State) (fn : Fn) (i : Nat) (hfn : fnOk fn = true) (hi : i < recRings fn) :
    exec (.holdoffExpire fn i) s = .next (
      if (s.rr fn i).heldMsg && (s.rr fn i).inten && s.holdoffOver (s.rr fn i) then s.sendMsg fn i else s) := by
  show execHoldoffExpire fn i s = _
  unfold execHoldoffExpire
  rw [hfn, if_neg (by decide), within, if_pos hi]

theorem State.holdoffOver_congr {s t : State} (ha : t.age = s.age) (hg : t.grade = s.grade) (r r' : RecRing) (hl : r'.lastMsg = r.lastMsg)
    (hh : r'.holdoff = r.holdoff) : t.holdoffOver r' = s.holdoffOver r := by
  unfold State.holdoffOver State.usBeats
  rw [hl, hh, ha, hg]

/-- The part of a batch's publication before its message: entries, then PROD at the PIDX address. -/
theorem State.publishBatch_eq (s : State) (fn : Fn) (i : Nat) :
    ∃ u : State, s.publishBatch fn i = u.announce fn i ((s.takeBatch (s.ringQueues fn i) (s.rr fn i).room).2.any (·.kind == 3)) ∧
      let r := s.rr fn i
      let l := (s.takeBatch (s.ringQueues fn i) r.room).2
      u.mem = s.mem ∧ u.age = s.age ∧ u.grade = s.grade ∧ u.hif.msix = s.hif.msix ∧ u.vectors fn = s.vectors fn ∧
        u.rr fn i = { r with prod := r.prod + BitVec.ofNat 32 l.length } ∧
        u.out = s.out ++ (l.zipIdx.map fun x =>
          .hostWrite (r.base.toNat + 32 * ((r.prod + BitVec.ofNat 32 x.2).toNat % 2 ^ r.sizeLog))
            (x.1.bytes (!bit (r.prod + BitVec.ofNat 32 x.2).toNat r.sizeLog))) ++
          [.hostWrite r.pidx.toNat (leBytes 4 (r.prod + BitVec.ofNat 32 l.length).toNat)] := by
  obtain ⟨moved, -⟩ := State.takeBatch_spec (s.ringQueues fn i) s (s.rr fn i).room
  unfold State.publishBatch
  dsimp only
  generalize s.takeBatch (s.ringQueues fn i) (s.rr fn i).room = a at *
  have rr : a.1.rr fn i = s.rr fn i := by rw [moved]; rfl
  obtain ⟨put, out⟩ := State.foldl_putEntry fn i a.2 a.1
  rw [rr] at out
  have ring := put.ring
  rw [rr] at ring
  generalize a.2.foldl (fun s r => s.putEntry fn i (r.bytes ·)) a.1 = w at *
  have frame := put.frame
  rw [moved] at frame
  refine ⟨w.emit (.hostWrite (w.rr fn i).pidx.toNat (leBytes 4 (w.rr fn i).prod.toNat)), rfl, ?_, ?_, ?_, ?_, ?_, ring, ?_⟩
  · rw [frame]; rfl
  · rw [frame]; rfl
  · rw [frame]; rfl
  · rw [frame]; rfl
  · rw [frame]; rfl
  · have first : a.1.out = s.out := by rw [moved]
    show w.out ++ _ = _
    rw [out, first, ring]

/-- Records go to the lead of a follower (R312). -/
theorem State.publishToLead_spec (s : State) (fn : Fn) (i : Nat) :
    (s.publishToLead fn i).mem = s.mem ∧ (s.publishToLead fn i).out = s.out ∧ (s.publishToLead fn i).hif.fns = s.hif.fns := by
  unfold State.publishToLead
  split
  · exact ⟨rfl, rfl, rfl⟩
  · obtain ⟨moved, -⟩ := State.takeBatch_spec (s.ringQueues fn i) s (queueMax * 64)
    dsimp only
    generalize s.takeBatch (s.ringQueues fn i) (queueMax * 64) = a at *
    have sent := PortsAndRecords.foldl (fun (u : State) (r : Rec) =>
      PortsAndRecords.sendHost u 1 pHost u.hif.leadDev 0 5 (fnKey fn) 0 0 0 (r.bytes false)) a.2 a.1
    refine ⟨sent.mem.trans ?_, sent.out.trans ?_, sent.fns.trans ?_⟩
    · rw [moved]
    · rw [moved]
    · rw [moved]

/-- The 33 entries of a telemetry packet (R308). -/
theorem State.putTele_spec (s : State) (t : Nat × Nat × Nat × Nat × List Byte) : EntriesPut .pf 17 33 s (s.putTele t) := by
  have rows : ∀ (l : List Nat) (w : State), EntriesPut .pf 17 l.length w
      (l.foldl (fun s e => s.putEntry .pf 17 fun _ => padTo 32 ((t.2.2.2.2.drop (32 * e)).take 32)) w) := by
    intro l
    induction l with
    | nil => exact fun w => ⟨rfl, by simp⟩
    | cons a l ih =>
      intro w
      rw [List.length_cons, Nat.add_comm]
      exact (EntriesPut.putEntry w .pf 17 _).trans (ih _)
  have rest := rows (List.range 32)
  rw [List.length_range] at rest
  unfold State.putTele
  dsimp only
  generalize List.range 32 = l at *
  exact (EntriesPut.putEntry s .pf 17 _).trans (rest _)

/-- A telemetry packet that ring 17 takes whole leaves the telemetry queue. -/
theorem State.putTeles_one (s : State) (x : Nat × Nat × Nat × Nat × List Byte) (hroom : 33 ≤ (s.rr .pf 17).room) (hx : s.lnk.tele = [x]) :
    s.putTeles s.lnk.tele.length = ({ s with lnk := { s.lnk with tele := [] } } : State).putTele x := by
  have one : s.lnk.tele.length = 0 + 1 := by rw [hx]; rfl
  rw [one, State.putTeles]
  rw [hx]
  dsimp only
  rw [if_pos hroom, State.putTeles]

theorem exec_recordPublish_teles (s : State) (hlead : s.hif.leadValid = false) (hon : (s.rr .pf 17).enable = true)
    (moved : ((s.putTeles s.lnk.tele.length).rr .pf 17).prod ≠ (s.rr .pf 17).prod) :
    exec (.recordPublish .pf 17) s = .next ((s.putTeles s.lnk.tele.length).publishEnd .pf 17 false) := by
  show execRecordPublish .pf 17 s = _
  unfold execRecordPublish
  rw [if_neg (by decide), within, if_pos (by decide), hlead, hon, if_neg (by decide), if_neg (by decide), if_pos (by decide)]
  dsimp only
  rw [if_neg moved]

/-- With messages off, a publication ends with PROD. -/
theorem State.publishEnd_quiet (s : State) (fn : Fn) (i : Nat) (now : Bool) (hinten : (s.rr fn i).inten = false) :
    s.publishEnd fn i now = s.emit (.hostWrite (s.rr fn i).pidx.toNat (leBytes 4 (s.rr fn i).prod.toNat)) := by
  unfold State.publishEnd State.announce
  dsimp only
  rw [if_pos]
  show (!(s.rr fn i).inten) = true
  rw [hinten]
  rfl

theorem State.rr_congr {s t : State} (h : t.hif.fns = s.hif.fns) (f : Fn) (i : Nat) : t.rr f i = s.rr f i := by
  unfold State.rr State.fn
  rw [h]

theorem State.rr_emit (s : State) (o : Out) (f : Fn) (i : Nat) : (s.emit o).rr f i = s.rr f i := State.rr_congr rfl ..

/-- A telemetry packet that ring 17 takes whole, with no message. -/
theorem exec_recordPublish_tele (s : State) (x : Nat × Nat × Nat × Nat × List Byte) (hlead : s.hif.leadValid = false)
    (hon : (s.rr .pf 17).enable = true) (hinten : (s.rr .pf 17).inten = false) (hroom : 33 ≤ (s.rr .pf 17).room) (hx : s.lnk.tele = [x]) :
    ∃ t : State, exec (.recordPublish .pf 17) s = .next t ∧ SameMemory s t ∧ (t.rr .pf 17).prod = (s.rr .pf 17).prod + 33 ∧ t.lnk.tele = [] := by
  have teles := s.putTeles_one x hroom hx
  have run := exec_recordPublish_teles s hlead hon
  rw [teles] at run
  have same : ({ s with lnk := { s.lnk with tele := [] } } : State).rr .pf 17 = s.rr .pf 17 := State.rr_congr rfl ..
  have mem : ({ s with lnk := { s.lnk with tele := [] } } : State).mem = s.mem := rfl
  have tele : ({ s with lnk := { s.lnk with tele := [] } } : State).lnk.tele = [] := rfl
  generalize ({ s with lnk := { s.lnk with tele := [] } } : State) = v at *
  obtain ⟨frame, ring⟩ := v.putTele_spec x
  rw [same] at ring
  generalize v.putTele x = w at *
  have prod : (w.rr .pf 17).prod = (s.rr .pf 17).prod + 33 := by rw [ring]; rfl
  have inten : (w.rr .pf 17).inten = (s.rr .pf 17).inten := by rw [ring]
  have run := run (by rw [prod]; bv_omega)
  rw [w.publishEnd_quiet .pf 17 false (inten.trans hinten)] at run
  refine ⟨_, run, ?_, ?_, ?_⟩
  · exact SameMemory.of_mem ((w.emit_mem _).trans (by rw [frame]; exact mem))
  · rw [State.rr_emit, prod]
  · rw [State.emit_lnk, frame]
    exact tele

/-! The announcement by INTEN, HOLDOFF and a KIND 3 record. -/

theorem State.announce_off (s : State) (fn : Fn) (i : Nat) (now : Bool) (h : (s.rr fn i).inten = false) : s.announce fn i now = s := by
  unfold State.announce
  dsimp only
  rw [h]
  exact if_pos rfl

theorem State.announce_now (s : State) (fn : Fn) (i : Nat) (now : Bool) (h : (s.rr fn i).inten = true)
    (hn : now = true ∨ s.holdoffOver (s.rr fn i) = true) : s.announce fn i now = s.sendMsg fn i := by
  unfold State.announce
  dsimp only
  rw [h, if_neg (by decide), if_pos (by rwa [Bool.or_eq_true])]

theorem State.announce_later (s : State) (fn : Fn) (i : Nat) (now : Bool) (h : (s.rr fn i).inten = true)
    (hn : now = false) (hh : s.holdoffOver (s.rr fn i) = false) :
    s.announce fn i now = s.setRr fn i { s.rr fn i with heldMsg := true } := by
  unfold State.announce
  dsimp only
  rw [h, if_neg (by decide), hn, hh, if_neg (by decide)]

/-- What a batch's publication does to the ring, and what it puts out before its message. -/
structure BatchOut (s : State) (fn : Fn) (i : Nat) (u : State) : Prop where
  sameMemory : SameMemory s u
  fits : (s.takeBatch (s.ringQueues fn i) (s.rr fn i).room).2.length ≤ (s.rr fn i).room
  prod : (u.rr fn i).prod =
    (s.rr fn i).prod + BitVec.ofNat 32 (s.takeBatch (s.ringQueues fn i) (s.rr fn i).room).2.length
  head : (u.rr fn i).head = (s.rr fn i).head

theorem BatchOut.of_same {s u t : State} {fn : Fn} {i : Nat} (h : BatchOut s fn i u) (hm : t.mem = u.mem)
    (hp : (t.rr fn i).prod = (u.rr fn i).prod) (hh : (t.rr fn i).head = (u.rr fn i).head) : BatchOut s fn i t :=
  ⟨fun p o => (SameMemory.of_mem hm p o).trans (h.sameMemory p o), h.fits, hp.trans h.prod, hh.trans h.head⟩

/-- `Claims.RecordsArePublishedInOrder` for a batch (R307, R308). -/
theorem State.publishBatch_published (s : State) (fn : Fn) (i : Nat) :
    let r := s.rr fn i
    let vector := vectorBase fn + r.vector
    let masked := bit (Map.get 0#32 s.hif.msix (4 * vector + 3)).toNat 0
    let absent := s.vectors fn ≤ r.vector
    let l := (s.takeBatch (s.ringQueues fn i) r.room).2
    let t := s.publishBatch fn i
    let out := s.out ++ (l.zipIdx.map fun x =>
          .hostWrite (r.base.toNat + 32 * ((r.prod + BitVec.ofNat 32 x.2).toNat % 2 ^ r.sizeLog))
            (x.1.bytes (!bit (r.prod + BitVec.ofNat 32 x.2).toNat r.sizeLog))) ++
        [.hostWrite r.pidx.toNat (leBytes 4 (r.prod + BitVec.ofNat 32 l.length).toNat)]
    BatchOut s fn i t ∧
      (r.inten = false → t.out = out) ∧
      (r.inten = true → ((∃ x ∈ l, x.kind = 3) ∨ s.holdoffOver r = true) →
        (absent ∨ masked = true → t.out = out) ∧ (¬absent → masked = false → t.out = out ++ [.msix fn r.vector])) ∧
      (r.inten = true → ¬(∃ x ∈ l, x.kind = 3) → s.holdoffOver r = false → t.out = out ∧ (t.rr fn i).heldMsg = true) := by
  dsimp only
  obtain ⟨u, shape, mem, age, grade, msix, vectors, ring, out⟩ := s.publishBatch_eq fn i
  have fits := (State.takeBatch_spec (s.ringQueues fn i) s (s.rr fn i).room).2
  rw [shape]
  generalize hl : (s.takeBatch (s.ringQueues fn i) (s.rr fn i).room).2 = l at *
  have elapsed : u.holdoffOver (u.rr fn i) = s.holdoffOver (s.rr fn i) := by
    rw [ring]
    exact State.holdoffOver_congr age grade _ _ rfl rfl
  have inten : (u.rr fn i).inten = (s.rr fn i).inten := by rw [ring]
  have first : BatchOut s fn i u := ⟨SameMemory.of_mem mem, by rw [hl]; exact fits, by rw [ring, hl], by rw [ring]⟩
  have notice : l.any (·.kind == 3) = true ↔ ∃ x ∈ l, x.kind = 3 := by simp
  obtain ⟨sentMem, -, sentRing, absent, live, masked⟩ := u.sendMsg_spec fn i
  have vec : (u.rr fn i).vector = (s.rr fn i).vector := by rw [ring]
  rw [vec, vectors] at absent live masked
  rw [msix] at live masked
  have sent : BatchOut s fn i (u.sendMsg fn i) := first.of_same sentMem (by rw [sentRing]) (by rw [sentRing])
  have byInten : (s.rr fn i).inten = false ∨ (s.rr fn i).inten = true := by cases (s.rr fn i).inten <;> simp
  rcases byInten with off | on
  · rw [u.announce_off fn i _ (inten.trans off)]
    exact ⟨first, fun _ => out, fun h => absurd (off.symm.trans h) (by decide), fun h => absurd (off.symm.trans h) (by decide)⟩
  · by_cases hn : (∃ x ∈ l, x.kind = 3) ∨ s.holdoffOver (s.rr fn i) = true
    · rw [u.announce_now fn i _ (inten.trans on) (by rwa [notice, elapsed])]
      refine ⟨sent, fun h => absurd (on.symm.trans h) (by decide), fun _ _ => ⟨fun h => ?_, fun ha hm => ?_⟩, fun _ h1 h2 => ?_⟩
      · rw [← out]
        by_cases ha : s.vectors fn ≤ (s.rr fn i).vector
        · exact absent ha
        · exact (masked ha (h.resolve_left ha)).1
      · rw [← out]
        exact live ha hm
      · rcases hn with hn | hn
        · exact absurd hn h1
        · rw [h2] at hn; cases hn
    · obtain ⟨hk, ho⟩ := not_or.1 hn
      have none_ : l.any (·.kind == 3) = false := by rw [← Bool.not_eq_true, notice]; exact hk
      rw [u.announce_later fn i _ (inten.trans on) none_ (by rw [elapsed]; simpa using ho)]
      have held : (u.setRr fn i { u.rr fn i with heldMsg := true }).rr fn i = { u.rr fn i with heldMsg := true } := State.rr_setRr_self ..
      refine ⟨first.of_same rfl (by rw [held]) (by rw [held]), fun h => absurd (on.symm.trans h) (by decide), fun _ h => absurd h hn, fun _ _ _ => ⟨?_, by rw [held]⟩⟩
      exact (State.setRr_out ..).trans out

/-- A batch of records reaches its ring in order (R307, R308, R310, R312). -/
theorem recordsArePublishedInOrder : Claims.RecordsArePublishedInOrder := by
  intro s fn i hfn hi
  dsimp only
  refine ⟨fun hlead quiet => ?_, fun hlead hon hring hl => ?_, fun hlead hf h17 hon hinten hroom x hx => ?_, fun hlead => ?_, fun quiet => ?_,
    fun held inten elapsed => ?_⟩
  · by_cases hon : (s.rr fn i).enable = true
    · obtain ⟨hring, hl⟩ := quiet.resolve_left (by rw [hon]; decide)
      rw [exec_recordPublish s fn i hfn hi hlead hring, hon, hl]
      rfl
    · rw [Bool.not_eq_true] at hon
      exact exec_recordPublish_off s fn i hfn hi hlead hon
  · have run := exec_recordPublish s fn i hfn hi hlead hring
    rw [hon, if_neg (by decide), if_neg (by rwa [List.isEmpty_iff])] at run
    obtain ⟨batch, off, now, later⟩ := s.publishBatch_published fn i
    obtain ⟨mem, fits, prod, head⟩ := batch
    refine ⟨fun hi => ?_, fun hi hn hm => ?_, fun hi hn ha hm => ?_, fun hi hn ho => ?_⟩
    · exact ⟨_, run, mem, fits, prod, head, by rw [off hi, List.append_nil]⟩
    · exact ⟨_, run, mem, fits, prod, head, by rw [(now hi hn).1 hm, List.append_nil]⟩
    · exact ⟨_, run, mem, fits, prod, head, (now hi hn).2 ha hm⟩
    · exact ⟨_, run, ⟨mem, fits, prod, head, by rw [(later hi hn ho).1, List.append_nil]⟩, (later hi hn ho).2⟩
  · subst hf h17
    exact exec_recordPublish_tele s x hlead hon hinten hroom hx
  · obtain ⟨mem, out, fns⟩ := s.publishToLead_spec fn i
    exact ⟨_, exec_recordPublish_lead s fn i hfn hi hlead, SameMemory.of_mem mem, out, State.rr_congr fns fn i⟩
  · rw [exec_holdoffExpire s fn i hfn hi, if_neg]
    rw [Bool.and_eq_true, Bool.and_eq_true]
    rintro ⟨⟨h1, h2⟩, h3⟩
    rcases quiet with h | h | h
    · rw [h] at h1; cases h1
    · rw [h] at h2; cases h2
    · rw [h] at h3; cases h3
  · have run := exec_holdoffExpire s fn i hfn hi
    rw [held, inten, elapsed, if_pos (by decide)] at run
    obtain ⟨mem, -, ring, absent, live, masked⟩ := s.sendMsg_spec fn i
    have ended : SameMemory s (s.sendMsg fn i) := SameMemory.of_mem mem
    exact ⟨fun ha => ⟨_, run, ⟨ended, ring⟩, absent ha⟩, fun ha hm => ⟨_, run, ⟨ended, ring⟩, live ha hm⟩,
      fun ha hm => ⟨_, run, ⟨ended, ring⟩, masked ha hm⟩⟩

/-- Settles O45, by `ringsRestartWhenEnabled` and `recordsArePublishedInOrder`. -/
theorem recordRingsRestartAndPublish : Obligations.RecordRingsRestartAndPublish :=
  ⟨ringsRestartWhenEnabled, recordsArePublishedInOrder⟩

end Sys2Proof.Machine
end

section
/-! PROOFS. Registers by the access types of their fields (R10 to R12, R27, R31, R395). -/

namespace Sys2Proof.Machine

/-! ### Reads through the vote -/

/-- A 32-bit read puts out the block's value through the vote of the latches that the function sees. -/
theorem State.readBar0_narrow (s : State) (a : HostAcc) (off : Nat) (hreply : a.reply = none) :
    s.readBar0 a off false = (s.blockRead a.rq.fn off).1.emit (.readData a.rq.fn off
      (leBytes 4 ((s.blockRead a.rq.fn off).2 ^^^ (s.voteMask a.rq.fn off &&& s.seesBits a.rq.fn off)))) := by
  simp only [State.readBar0, Bool.false_eq_true, if_false, hreply, State.regRead]

theorem State.voteMask_countAcc (s : State) (f : Fn) (off : Nat) : s.countAcc.voteMask f off = s.voteMask f off := by
  unfold State.voteMask
  rfl

theorem exec_registerReadClear_of_idle (s : State) (fn : Fn) (id off : Nat) (hfn : fnOk fn = true) (hoff : off < apertureBase)
    (hrel : s.hif.released = true) (hidle : s.hif.accs = []) :
    exec (.registerReadClear false ⟨fn, id⟩ ⟨off, false⟩) s = .next ((s.countAcc.blockRead fn off).1.emit (.readData fn off
      (leBytes 4 ((s.countAcc.blockRead fn off).2 ^^^ (s.voteMask fn off &&& s.countAcc.seesBits fn off))))) := by
  show execRegisterReadClear false ⟨fn, id⟩ ⟨off, false⟩ s = _
  unfold execRegisterReadClear
  rw [hfn, if_neg (by decide), if_neg (by decide), State.takeRead_of_below_aperture s _ _ _ hoff,
    State.takeAcc_regRead_of_idle s _ _ _ _ _ hrel hidle, State.readBar0_narrow _ _ _ rfl,
    State.voteMask_countAcc]

/-- A mask of 32 bits that the function sees whole. -/
theorem State.voteMask_seen (s : State) (f : Fn) (off : Nat) : s.voteMask f off &&& (2 ^ 32 - 1) = s.voteMask f off := by
  rw [Nat.and_two_pow_sub_one_eq_mod, Nat.mod_eq_of_lt (s.voteMask_lt f off)]

theorem State.seesBits_pf (s : State) (off : Nat) (h : off < windowBase) : s.seesBits .pf off = 2 ^ 32 - 1 := by
  unfold State.seesBits
  dsimp only
  rw [if_neg (by simp; omega)]

/-! ### The fields that a read clears -/

theorem State.blockRead_lost (s : State) : s.blockRead .pf 0x500418 = ({ s with tly := { s.tly with lost := 0 } }, s.tly.lost) := rfl

/-- A table's VSTAT: its own function reads and clears it, another's reads 0. -/
theorem State.blockRead_vstat (s : State) (a b : Nat) (hb : b < 16) :
    s.blockRead (.vf a) (0x500300 + 4 * b) =
      if a = b then (s.modTable b fun x => { x with tallyV := 0, arrayV := 0, tileV := 0, unchecked := 0 }, (s.table b).vstat)
      else (s, 0) := by
  have block : (0x500300 + 4 * b) / 0x100000 = 5 := by omega
  have word : (0x500300 + 4 * b) % 0x100000 / 4 * 4 = 0x300 + 4 * b := by omega
  have index : (0x300 + 4 * b - 0x300) / 4 = b := by omega
  have tly : s.blockRead (.vf a) (0x500300 + 4 * b) = s.readTly (.vf a) (0x300 + 4 * b) := by
    unfold State.blockRead
    rw [block, word] <;> rfl
  rw [tly]
  unfold State.readTly
  rw [if_neg (by simp; omega), if_neg (by simp; omega), if_pos (by simp; omega)]
  dsimp only
  rw [index]
  by_cases h : a = b
  · rw [if_pos h, if_pos (by simp [seesTable, h])]
  · rw [if_neg h, if_neg (by simp [seesTable, h])]

theorem State.seesBits_vstat (s : State) (a b : Nat) (hb : b < 16) :
    s.seesBits (.vf a) (0x500300 + 4 * b) = if a = b then 2 ^ 32 - 1 else 0 := by
  have block : (0x500300 + 4 * b) / 0x100000 = 5 := by omega
  have word : (0x500300 + 4 * b) % 0x100000 / 4 * 4 = 0x300 + 4 * b := by omega
  have index : (0x300 + 4 * b - 0x300) / 4 = b := by omega
  have tly : s.seesBits (.vf a) (0x500300 + 4 * b) =
      let o := 0x300 + 4 * b
      let mine (t : Nat) : Nat := if a = t then 2 ^ 32 - 1 else 0
      if 0x100 ≤ o && o < 0x140 then mine ((o - 0x100) / 4)
      else if 0x200 ≤ o && o < 0x280 then mine ((o - 0x200) / 8)
      else if 0x300 ≤ o && o < 0x340 then mine ((o - 0x300) / 4)
      else if 0x1000 ≤ o && o < 0x1000 + 4 * 208 then mine ((o - 0x1000) / 4 / 13)
      else 0 := by
    unfold State.seesBits
    dsimp only
    rw [block, word] <;> rfl
  rw [tly]
  dsimp only
  rw [if_neg (by simp; omega), if_neg (by simp; omega), if_pos (by simp; omega), index]

/-! ### Writes -/

theorem exec_registerWrite_of_released (s : State) (id off : Nat) (v : Word) (hrel : s.hif.released = true) (hoff : off < apertureBase)
    (hpub : publishes .pf off = false) : exec (.registerWrite false ⟨.pf, id⟩ off v) s = .next (s.regWrite .pf off v.toNat) := by
  show execRegisterWrite false ⟨.pf, id⟩ off v s = _
  unfold execRegisterWrite
  rw [if_neg (by exact Bool.false_ne_true), if_neg (by decide), hrel, if_neg (by decide), if_neg (by omega), hpub, if_neg (by decide)]

theorem exec_registerWrite_of_not_released (s : State) (fn : Fn) (id off : Nat) (v : Word) (hfn : fnOk fn = true)
    (hrel : s.hif.released = false) : exec (.registerWrite false ⟨fn, id⟩ off v) s = .next s := by
  show execRegisterWrite false ⟨fn, id⟩ off v s = _
  unfold execRegisterWrite
  rw [hfn, if_neg (by decide), if_neg (by decide), hrel]
  rfl

theorem exec_registerReadClear_of_not_released (s : State) (fn : Fn) (id : Nat) (r : BarRead) (hfn : fnOk fn = true)
    (hrel : s.hif.released = false) : exec (.registerReadClear false ⟨fn, id⟩ r) s = .next s := by
  show execRegisterReadClear false ⟨fn, id⟩ r s = _
  unfold execRegisterReadClear
  rw [hfn, if_neg (by decide), if_neg (by decide), State.takeRead_of_not_released s _ _ _ hrel]

/-- Settles O48, by what each block does with a read or a write of its registers. -/
theorem registerFieldsActByType : Obligations.RegisterFieldsActByType := by
  unfold Obligations.RegisterFieldsActByType
  intro s id v hidle
  refine ⟨fun hrel fn r off hfn => ⟨exec_registerReadClear_of_not_released s fn id r hfn hrel,
    exec_registerWrite_of_not_released s fn id off v hfn hrel⟩, fun hrel => ?_⟩
  dsimp only
  have write (off : Nat) (hoff : off < apertureBase) (hpub : publishes .pf off = false) :=
    exec_registerWrite_of_released s id off v hrel hoff hpub
  have narrow (fn : Fn) (off : Nat) (hfn : fnOk fn = true) (hoff : off < apertureBase) :=
    exec_registerReadClear_of_idle s fn id off hfn hoff hrel hidle
  refine ⟨?_, fun tbl ht => ?_, fun a b ha hb hne => ?_, fun lo hi => ?_, ?_, ?_, fun hd => ?_, fun hd => ?_, fun h => ?_, fun h hd => ?_⟩
  · have run := narrow .pf 0x500418 rfl (by decide)
    rw [State.seesBits_pf _ _ (by decide), State.voteMask_seen, State.blockRead_lost] at run
    exact ⟨_, ⟨run, fun _ _ => rfl, rfl⟩, rfl⟩
  · have run := narrow (.vf tbl) (0x500300 + 4 * tbl) (by simpa [fnOk] using ht) (by unfold apertureBase; omega)
    rw [State.seesBits_vstat _ _ _ ht, State.blockRead_vstat _ _ _ ht, if_pos rfl, if_pos rfl, State.voteMask_seen] at run
    refine ⟨_, ⟨run, fun _ _ => rfl, rfl⟩, ?_⟩
    exact s.countAcc.table_modTable_self tbl fun x => { x with tallyV := 0, arrayV := 0, tileV := 0, unchecked := 0 }
  · have run := narrow (.vf a) (0x500300 + 4 * b) (by simpa [fnOk] using ha) (by unfold apertureBase; omega)
    rw [State.seesBits_vstat _ _ _ hb, State.blockRead_vstat _ _ _ hb, if_neg hne, if_neg hne, Nat.and_zero, Nat.xor_zero] at run
    dsimp only at run
    exact ⟨_, ⟨run, fun _ _ => rfl, rfl⟩, rfl⟩
  · have run : exec (.registerReadClear false ⟨.pf, id⟩ ⟨0x200000, true⟩) s = _ := exec_registerReadClear_pf ..
    rw [State.takeRead_of_below_aperture s _ _ _ (by decide), State.takeAcc_regRead_of_idle s _ _ _ _ _ hrel hidle,
      (State.readBar0_now _ _ rfl rfl).2] at run
    have lo' : s.countAcc.voteMask .pf 0x200000 = 0 := lo
    have hi' : s.countAcc.voteMask .pf 0x200004 = 0 := hi
    rw [lo', hi', Nat.zero_mul, Nat.add_zero, Nat.xor_zero] at run
    exact ⟨_, ⟨run, fun _ _ => rfl, rfl⟩, rfl⟩
  · exact (write 0x500418 (by decide) (by decide)).trans rfl
  · exact (write 0x500414 (by decide) (by decide)).trans rfl
  · rw [write 0x300000 (by decide) (by decide)]
    exact congrArg _ (if_neg (by rw [hd]; decide))
  · rw [write 0x300000 (by decide) (by decide)]
    exact congrArg _ (if_pos hd)
  · rw [write 0x100004 (by decide) (by decide)]
    exact congrArg _ (if_neg (by simp; omega))
  · rw [write 0x100004 (by decide) (by decide)]
    exact congrArg _ (if_pos (by simpa [h] using hd))

end Sys2Proof.Machine
end

section
/-! PROOFS. The management controller: alarms and their notices, the sensors, the fault log (R405 to R408). -/

namespace Sys2Proof.Machine

/-! ### Alarms (R407, R408) -/

theorem degrees16_eq (v : BitVec 12) : degrees16 v = v.toInt := by
  have small := v.isLt
  rw [BitVec.toInt_eq_toNat_cond, degrees16, toSigned, Nat.mod_eq_of_lt small]

/-- What a notice of the management controller with its alarm changes (R408): its record, the log, and the alarms that stand. -/
structure AlarmRaised (code : Nat) (s t : State) : Prop where
  frame : t = { s with
    hif := { s.hif with queues := t.hif.queues },
    mgc := { s.mgc with logNew := t.mgc.logNew, logRate := t.mgc.logRate, alerts := t.mgc.alerts } }
  posted : Posted s t srcMgc 3 code 0 0
  stands : code ∈ t.mgc.alerts
  others : ∀ c ∈ t.mgc.alerts, c = code ∨ c ∈ s.mgc.alerts

theorem State.mem_alerts_alert (s : State) (code c : Nat) : c ∈ (s.alert code).mgc.alerts ↔ c = code ∨ c ∈ s.mgc.alerts := by
  unfold State.alert
  dsimp only
  split
  · next h =>
    rw [List.contains_iff_mem] at h
    exact ⟨.inr, fun e => e.elim (fun e => e ▸ h) id⟩
  · rw [List.mem_append, List.mem_singleton, or_comm]

theorem AlarmRaised.alarm (s : State) (code : Nat) : AlarmRaised code s ((s.noticeMgc code).alert code) := by
  have records := State.raise_onlyRecords s srcMgc 3 code 0 0
  have posted : Posted s (s.noticeMgc code) srcMgc 3 code 0 0 := State.raise_posted ..
  have noticed : OnlyRecords s (s.noticeMgc code) := records
  generalize s.noticeMgc code = u at *
  refine ⟨?_, posted.of_queue rfl, (u.mem_alerts_alert code code).2 (.inl rfl), fun c hc => ?_⟩
  · unfold OnlyRecords at noticed
    show { u with mgc := { u.mgc with alerts := (u.alert code).mgc.alerts } } = _
    rw [noticed]
    rfl
  · have old : u.mgc.alerts = s.mgc.alerts := by rw [noticed]
    rw [← old]
    exact (u.mem_alerts_alert code c).1 hc

theorem AlarmRaised.judge (s : State) (code : Nat) : AlarmRaised code s (s.judge code true) := .alarm s code

theorem AlarmRaised.mem {code : Nat} {s t : State} (h : AlarmRaised code s t) : t.mem = s.mem := by rw [h.frame]
theorem AlarmRaised.tables {code : Nat} {s t : State} (h : AlarmRaised code s t) : t.tables = s.tables := by rw [h.frame]

/-- The condition of an alarm that does not hold. -/
theorem State.judge_off (s : State) (code : Nat) : s.judge code false = s.clearAlert code := rfl

theorem State.not_mem_clearAlert (s : State) (code : Nat) : code ∉ (s.clearAlert code).mgc.alerts := by
  unfold State.clearAlert
  simp

/-! ### Temperatures (R407, R408) -/

/-- A state with a sensor's reading (R407). -/
def State.withTemp (s : State) (i : Nat) (x : Temp) : State := { s with mgc := { s.mgc with temps := Map.set {} s.mgc.temps i x } }

theorem exec_tempSample (s : State) (i : Nat) (v : BitVec 12) (alarm : Bool) (hi : i < 64)
    (ha : (decide (1680 ≤ v.toInt) || ((Map.get {} s.mgc.temps i : Temp).alarm && decide (1600 ≤ v.toInt))) = alarm) :
    exec (.tempSample i v) s = .next (
      if alarm && !(Map.get {} s.mgc.temps i : Temp).alarm then (s.withTemp i { t := v, alarm }).judge 0xA010 true
      else if (s.withTemp i { t := v, alarm }).mgc.temps.any (·.2.alarm) then s.withTemp i { t := v, alarm }
      else (s.withTemp i { t := v, alarm }).clearAlert 0xA010) := by
  have run : exec (.tempSample i v) s = _ := if_pos hi
  rw [run, degrees16_eq, ← ha]
  rfl

theorem State.temp_withTemp (s : State) (i : Nat) (x : Temp) : Map.get {} (s.withTemp i x).mgc.temps i = x := Map.get_set_self ..

/-- A reading that raises no notice. -/
theorem exec_tempSample_quiet (s : State) (i : Nat) (v : BitVec 12) (alarm : Bool) (hi : i < 64)
    (ha : (decide (1680 ≤ v.toInt) || ((Map.get {} s.mgc.temps i : Temp).alarm && decide (1600 ≤ v.toInt))) = alarm)
    (hq : alarm = false ∨ (Map.get {} s.mgc.temps i : Temp).alarm = true) :
    ∃ t : State, exec (.tempSample i v) s = .next t ∧
      (SameMemory s t ∧ t.tables = s.tables ∧ Map.get {} t.mgc.temps i = ({ t := v, alarm } : Temp)) ∧ t.hif = s.hif := by
  have run := exec_tempSample s i v alarm hi ha
  have kept := s.temp_withTemp i { t := v, alarm }
  have quiet : (alarm && !(Map.get {} s.mgc.temps i : Temp).alarm) = false := by
    rcases hq with h | h
    · rw [h, Bool.false_and]
    · rw [h, Bool.not_true, Bool.and_false]
  rw [quiet, if_neg Bool.false_ne_true] at run
  split at run
  · exact ⟨_, run, ⟨fun _ _ => rfl, rfl, kept⟩, rfl⟩
  · exact ⟨_, run, ⟨fun _ _ => rfl, rfl, kept⟩, rfl⟩

theorem temperaturesAreSampled (s : State) (i : Nat) (v : BitVec 12) (hi : i < 64) :
    let old : Temp := Map.get {} s.mgc.temps i
    let sampled := fun (t : State) (alarm : Bool) => SameMemory s t ∧ t.tables = s.tables ∧
      Map.get {} t.mgc.temps i = ({ t := v, alarm } : Temp)
    (1680 ≤ v.toInt → old.alarm = false → ∃ t : State, exec (.tempSample i v) s = .next t ∧ sampled t true ∧
      Posted s t srcMgc 3 0xA010 0 0 ∧ 0xA010 ∈ t.mgc.alerts) ∧
    (1600 ≤ v.toInt → old.alarm = true → ∃ t : State, exec (.tempSample i v) s = .next t ∧ sampled t true ∧ t.hif = s.hif) ∧
    (v.toInt < 1680 → old.alarm = false → ∃ t : State, exec (.tempSample i v) s = .next t ∧ sampled t false ∧ t.hif = s.hif) ∧
    (v.toInt < 1600 → ∃ t : State, exec (.tempSample i v) s = .next t ∧ sampled t false ∧ t.hif = s.hif) := by
  dsimp only
  refine ⟨fun hot cold => ?_, fun warm on => ?_, fun cool off => ?_, fun cool => ?_⟩
  · have run := exec_tempSample s i v true hi (by rw [decide_eq_true hot]; rfl)
    have kept := s.temp_withTemp i { t := v, alarm := true }
    rw [cold, if_pos (by decide)] at run
    have raised := AlarmRaised.judge (s.withTemp i { t := v, alarm := true }) 0xA010
    refine ⟨_, run, ⟨SameMemory.of_mem raised.mem, raised.tables, ?_⟩, raised.posted.of_before rfl rfl rfl, raised.stands⟩
    rw [raised.frame]
    exact kept
  · exact exec_tempSample_quiet s i v true hi (by rw [on, decide_eq_true warm, Bool.true_and, Bool.or_true]) (.inr on)
  · exact exec_tempSample_quiet s i v false hi (by rw [off, decide_eq_false (by omega)]; rfl) (.inl rfl)
  · exact exec_tempSample_quiet s i v false hi
      (by rw [decide_eq_false (by omega), decide_eq_false (by omega), Bool.and_false]; rfl) (.inl rfl)

/-! ### Coolant and power (R407, R408) -/

theorem exec_coolantHigh (s : State) (c : CoolantIn) : exec (.coolantHigh c) s =
    .next (({ s with mgc := { s.mgc with inlet := c.inlet, outlet := c.outlet, coolFault := false } }.clearAlert 0xA013).judge 0xA012
      (decide (640 < c.inlet.toInt))) := by
  rw [← degrees16_eq]
  rfl

theorem coolantIsJudged (s : State) (c : CoolantIn) :
    (640 < c.inlet.toInt → ∃ t : State, exec (.coolantHigh c) s = .next t ∧ SameMemory s t ∧ t.tables = s.tables ∧
      t.mgc.inlet = c.inlet ∧ t.mgc.outlet = c.outlet ∧ Posted s t srcMgc 3 0xA012 0 0 ∧ 0xA012 ∈ t.mgc.alerts ∧
      t.mgc.coolFault = false ∧ 0xA013 ∉ t.mgc.alerts) ∧
    (c.inlet.toInt ≤ 640 → ∃ t : State, exec (.coolantHigh c) s = .next t ∧ t = { s with mgc := t.mgc } ∧
      t.mgc.inlet = c.inlet ∧ t.mgc.outlet = c.outlet ∧ 0xA012 ∉ t.mgc.alerts ∧ t.mgc.coolFault = false ∧ 0xA013 ∉ t.mgc.alerts) := by
  have run := exec_coolantHigh s c
  have ended := ({ s with mgc := { s.mgc with inlet := c.inlet, outlet := c.outlet, coolFault := false } } : State).not_mem_clearAlert 0xA013
  constructor
  · intro hot
    rw [decide_eq_true hot] at run
    obtain ⟨frame, posted, stands, others⟩ := AlarmRaised.judge
      ({ s with mgc := { s.mgc with inlet := c.inlet, outlet := c.outlet, coolFault := false } }.clearAlert 0xA013) 0xA012
    generalize ht : State.judge _ 0xA012 true = t at *
    refine ⟨t, run, SameMemory.of_mem (by rw [frame]; rfl), by rw [frame]; rfl, by rw [frame]; rfl, by rw [frame]; rfl,
      posted.of_before rfl rfl rfl, stands, by rw [frame]; rfl, fun h => ?_⟩
    exact (others _ h).elim (by decide) ended
  · intro cool
    rw [decide_eq_false (by omega), State.judge_off] at run
    refine ⟨_, run, rfl, rfl, rfl, State.not_mem_clearAlert _ _, rfl, fun h => ended ?_⟩
    exact List.mem_of_mem_filter h

theorem coolantFaultIsRaisedOnce (s : State) :
    (s.mgc.coolFault = false → ∃ t : State, exec .coolantSensorFault s = .next t ∧ SameMemory s t ∧ t.mgc.coolFault = true ∧
      0xA013 ∈ t.mgc.alerts ∧ Posted s t srcMgc 3 0xA013 0 0) ∧
    (s.mgc.coolFault = true → exec .coolantSensorFault s = .next s) := by
  have run : exec .coolantSensorFault s = .next
      (if s.mgc.coolFault then s else { s with mgc := { s.mgc with coolFault := true } }.judge 0xA013 true) := rfl
  constructor
  · intro off
    rw [off, if_neg (by decide)] at run
    have raised := AlarmRaised.judge { s with mgc := { s.mgc with coolFault := true } } 0xA013
    refine ⟨_, run, SameMemory.of_mem raised.mem, ?_, raised.stands, raised.posted.of_before rfl rfl rfl⟩
    rw [raised.frame]
  · intro on
    rw [on, if_pos rfl] at run
    exact run

/-- What a power window's readings leave (R407): the readings, and the counts of the window start anew. -/
def State.withPower (s : State) (r : PowerIn) : State :=
  (r.light.filter fun e => decide (e.1 < 64)).foldl
    (fun t e => { t with mgc := { t.mgc with optp := Map.set (0, 0) t.mgc.optp e.1 e.2 } })
    { s with
      mgc := { s.mgc with
        w1s := r.w1s, irail := (r.amps.filter fun e => decide (e.1 < 9)).foldl (fun m e => Map.set 0#16 m e.1 e.2) s.mgc.irail }
      pwr := { s.pwr with ticks := 0, overruns := 0 } }

theorem exec_powerWindowEnd (s : State) (r : PowerIn) : exec (.powerWindowEnd r) s =
    .next (((s.withPower r).judge 0xA004 (decide (1500 < r.w1s.toNat))).judge 0xA003 (decide (s.pwr.ticks < s.pwr.overruns * 100))) := rfl

theorem State.withPower_frame (s : State) (r : PowerIn) : s.withPower r = { s with
    mgc := { s.mgc with
      w1s := r.w1s, irail := (r.amps.filter fun e => decide (e.1 < 9)).foldl (fun m e => Map.set 0#16 m e.1 e.2) s.mgc.irail
      optp := (s.withPower r).mgc.optp }
    pwr := { s.pwr with ticks := 0, overruns := 0 } } := by
  unfold State.withPower
  generalize r.light.filter _ = l
  induction l using List.reverseRecOn with
  | nil => rfl
  | append_singleton l a ih =>
    rw [List.foldl_append, List.foldl_cons, List.foldl_nil]
    rw [ih]

theorem State.withPower_light (s : State) (r : PowerIn) :
    (r.light = [] → (s.withPower r).mgc.optp = s.mgc.optp) ∧
    ∀ n x y, r.light = [(n, x, y)] → n < 64 → Map.get (0, 0) (s.withPower r).mgc.optp n = (x, y) := by
  unfold State.withPower
  refine ⟨fun h => ?_, fun n x y h hn => ?_⟩
  · rw [h]
    rfl
  · rw [h, List.filter_cons_of_pos (by exact decide_eq_true hn)]
    exact Map.get_set_self ..

/-- What `Claims.SensorsRaiseTheirNotices` says of the counted readings. -/
theorem State.powerCounted (s t : State) (r : PowerIn)
    (h : t = { s.withPower r with hif := t.hif, mgc := { (s.withPower r).mgc with
      logNew := t.mgc.logNew, logRate := t.mgc.logRate, alerts := t.mgc.alerts } }) :
    SameMemory s t ∧ t.mgc.w1s = r.w1s ∧ t.pwr.ticks = 0 ∧ t.pwr.overruns = 0 ∧
      (∀ j a, r.amps = [(j, a)] → j < 9 → ∀ i, Map.get 0 t.mgc.irail i = if i = j then a else Map.get 0 s.mgc.irail i) ∧
      (r.amps = [] → t.mgc.irail = s.mgc.irail) ∧ t.ports = s.ports ∧ (r.light = [] → t.mgc.optp = s.mgc.optp) ∧
      ∀ n x y, r.light = [(n, x, y)] → n < 64 → Map.get (0, 0) t.mgc.optp n = (x, y) := by
  obtain ⟨dark, lit⟩ := s.withPower_light r
  have frame := s.withPower_frame r
  have irail : t.mgc.irail = (s.withPower r).mgc.irail := by rw [h]
  have optp : t.mgc.optp = (s.withPower r).mgc.optp := by rw [h]
  have mem : t.mem = (s.withPower r).mem := by rw [h]
  have ports : t.ports = (s.withPower r).ports := by rw [h]
  have pwr : t.pwr = (s.withPower r).pwr := by rw [h]
  have w1s : t.mgc.w1s = (s.withPower r).mgc.w1s := by rw [h]
  rw [irail, optp, ports, pwr, w1s]
  refine ⟨SameMemory.of_mem (mem.trans (by rw [frame])), by rw [frame], by rw [frame], by rw [frame], fun j a ha hj i => ?_, fun ha => ?_,
    by rw [frame], dark, lit⟩
  · rw [frame, ha, List.filter_cons_of_pos (by exact decide_eq_true hj)]
    exact Map.get_set ..
  · rw [frame, ha]
    rfl

theorem powerIsJudged (s : State) (r : PowerIn) :
    let counted := fun (t : State) => SameMemory s t ∧ t.mgc.w1s = r.w1s ∧ t.pwr.ticks = 0 ∧ t.pwr.overruns = 0 ∧
      (∀ j a, r.amps = [(j, a)] → j < 9 → ∀ i, Map.get 0 t.mgc.irail i = if i = j then a else Map.get 0 s.mgc.irail i) ∧
      (r.amps = [] → t.mgc.irail = s.mgc.irail) ∧ t.ports = s.ports ∧ (r.light = [] → t.mgc.optp = s.mgc.optp) ∧
      ∀ n x y, r.light = [(n, x, y)] → n < 64 → Map.get (0, 0) t.mgc.optp n = (x, y)
    let heavy := s.pwr.ticks < s.pwr.overruns * 100
    (1500 < r.w1s.toNat → ¬heavy → ∃ t : State, exec (.powerWindowEnd r) s = .next t ∧ counted t ∧ Posted s t srcMgc 3 0xA004 0 0) ∧
    (r.w1s.toNat ≤ 1500 → heavy → ∃ t : State, exec (.powerWindowEnd r) s = .next t ∧ counted t ∧ Posted s t srcMgc 3 0xA003 0 0) ∧
    (1500 < r.w1s.toNat → heavy → ∃ t u : State, exec (.powerWindowEnd r) s = .next t ∧ counted t ∧
      Posted s u srcMgc 3 0xA004 0 0 ∧ Posted u t srcMgc 3 0xA003 0 0) ∧
    (r.w1s.toNat ≤ 1500 → ¬heavy → ∃ t : State, exec (.powerWindowEnd r) s = .next t ∧ counted t ∧ t.hif = s.hif) := by
  dsimp only
  have run := exec_powerWindowEnd s r
  have counted (t : State) := s.powerCounted t r
  have frame := s.withPower_frame r
  have hif : (s.withPower r).hif = s.hif := by rw [frame]
  have rcu : (s.withPower r).rcu = s.rcu := by rw [frame]
  have before {t : State} {code : Nat} (h : Posted (s.withPower r) t srcMgc 3 code 0 0) : Posted s t srcMgc 3 code 0 0 :=
    h.of_before (by rw [State.queue, State.queue, hif]) (by rw [hif]) rcu
  generalize s.withPower r = w at *
  have strong := AlarmRaised.judge w 0xA004
  refine ⟨fun hot light => ?_, fun cool heavy => ?_, fun hot heavy => ?_, fun cool light => ?_⟩
  · rw [decide_eq_true hot, decide_eq_false light, State.judge_off] at run
    obtain ⟨one, posted, -, -⟩ := strong
    generalize w.judge 0xA004 true = u at *
    exact ⟨_, run, counted _ (by rw [one]; rfl), (before posted).of_queue rfl⟩
  · rw [decide_eq_false (by omega), decide_eq_true heavy, State.judge_off] at run
    obtain ⟨two, posted, -, -⟩ := AlarmRaised.judge (w.clearAlert 0xA004) 0xA003
    generalize (w.clearAlert 0xA004).judge 0xA003 true = t at *
    exact ⟨t, run, counted t (by rw [two]; rfl), before (posted.of_before rfl rfl rfl)⟩
  · rw [decide_eq_true hot, decide_eq_true heavy] at run
    obtain ⟨one, posted, -, -⟩ := strong
    generalize w.judge 0xA004 true = u at *
    obtain ⟨two, second, -, -⟩ := AlarmRaised.judge u 0xA003
    generalize u.judge 0xA003 true = t at *
    refine ⟨t, u, run, counted t ?_, before posted, second⟩
    rw [two, one]
  · rw [decide_eq_false (by omega), decide_eq_false light, State.judge_off, State.judge_off] at run
    exact ⟨_, run, counted _ rfl, hif⟩

theorem sensorsRaiseTheirNotices : Claims.SensorsRaiseTheirNotices := by
  intro s
  obtain ⟨fault, faulty⟩ := coolantFaultIsRaisedOnce s
  exact ⟨fun i v hi => temperaturesAreSampled s i v hi, fun c => (coolantIsJudged s c).1, fun c => (coolantIsJudged s c).2, fault, faulty,
    fun r => powerIsJudged s r⟩

/-! ### The flash and the fault log (R405, R406) -/

/-- A state in which a record of the flash has been written over one of its banks (R405). -/
def State.withRecord (s : State) (w : FlashPart) (r : FlashRec) : State :=
  { s with mgc := { s.mgc with
    flashWrites := s.mgc.flashWrites + 1, flash := s.mgc.flash.setRecord w r
    flashOpen := s.mgc.flashOpen ++ [(w, targetBank w.size (s.mgc.flash.record w))] } }

theorem State.flashWrite_of_verified (s : State) (w : FlashPart) (seq : Nat) (pay : List Byte) (h : s.mgc.flashWrites ∉ s.mgc.flashBad) :
    s.flashWrite w seq pay = (s.withRecord w (writeBank w.size (s.mgc.flash.record w) seq pay), true) := by
  have good : s.mgc.flashBad.contains s.mgc.flashWrites = false := by simpa using h
  unfold State.flashWrite
  dsimp only
  rw [good]
  rfl

theorem State.flashWrite_of_failed (s : State) (w : FlashPart) (seq : Nat) (pay : List Byte) (h : s.mgc.flashWrites ∈ s.mgc.flashBad) :
    s.flashWrite w seq pay = ((s.withRecord w (spoilBank w.size (s.mgc.flash.record w))).raiseMgc 0x9009, false) := by
  have bad : s.mgc.flashBad.contains s.mgc.flashWrites = true := by simpa using h
  unfold State.flashWrite
  dsimp only
  rw [bad]
  rfl

/-- The fault record of a write that is not verified (R405). -/
theorem State.unverified_spec (s : State) (w : FlashPart) (r : FlashRec) :
    OnlyRecords (s.withRecord w r) ((s.withRecord w r).raiseMgc 0x9009) ∧ Posted s ((s.withRecord w r).raiseMgc 0x9009) srcMgc 2 0x9009 0 0 :=
  ⟨State.raise_onlyRecords .., Posted.of_before (State.raise_posted (s.withRecord w r) srcMgc 2 0x9009 0 0) rfl rfl rfl⟩

/-- The log only grows at its end (R406). -/
theorem Mgc.logNew_prefix (m : Mgc) (r : Rec) : m.logNew <+: (m.log r).logNew := by
  unfold Mgc.log
  dsimp only
  split
  · split
    · exact List.prefix_append ..
    · exact List.prefix_refl _
  · exact List.prefix_refl _

theorem State.raise_logNew_prefix (s : State) (src kind status tag detail : Nat) :
    s.mgc.logNew <+: (s.raise src kind status tag detail).mgc.logNew := Mgc.logNew_prefix ..

/-- A page of the log is due (R406). -/
def State.logDue (s : State) : Bool := decide (s.mgc.logAt + 100000 * s.usBeats ≤ s.age) || s.mgc.logNew.any fun r => urgentCode r.status

theorem State.logDue_iff (s : State) :
    s.logDue = true ↔ s.mgc.logAt + 100000 * s.usBeats ≤ s.age ∨ ∃ r ∈ s.mgc.logNew, urgentCode r.status = true := by
  unfold State.logDue
  rw [Bool.or_eq_true, decide_eq_true_eq, List.any_eq_true]

theorem exec_logPageWrite_of_not_due (s : State) (h : s.mgc.logNew = [] ∨ s.logDue = false) : exec .logPageWrite s = .next s := by
  show execLogPageWrite s = _
  refine congrArg _ (if_pos ?_)
  rw [Bool.or_eq_true, List.isEmpty_iff]
  refine h.imp id fun h => ?_
  rw [← State.logDue, h]
  rfl

/-- What a page that is due does: the write of the record, and what follows from its outcome. -/
theorem exec_logPageWrite_of_due (s : State) (hnew : s.mgc.logNew ≠ []) (hdue : s.logDue = true) :
    let m := s.mgc
    let l := (m.logPage ++ m.logNew).take 124
    let w := s.flashWrite (.page m.logIdx) (m.logSeq + 1) (s.logPayload l)
    exec .logPageWrite s = .next (
      if !w.2 then { w.1 with mgc := { w.1.mgc with logAt := s.age } }
      else { w.1 with mgc := { w.1.mgc with
        logNew := (m.logPage ++ m.logNew).drop 124, logPage := if decide (124 ≤ l.length) then [] else l
        logIdx := if decide (124 ≤ l.length) then (m.logIdx + 1) % 2048 else m.logIdx, logSeq := m.logSeq + 1, logAt := s.age } }) := by
  show execLogPageWrite s = _
  refine congrArg _ (if_neg ?_)
  rw [Bool.or_eq_true, List.isEmpty_iff, ← State.logDue, hdue]
  exact fun h => h.elim hnew Bool.false_ne_true

/-- The entries of a page and those that wait are the ones that there were. -/
theorem logEntries_split (x : List Rec) :
    (if decide (124 ≤ (x.take 124).length) then [] else x.take 124) ++ x.drop 124 =
      if (x.take 124).length < 124 then x else x.drop 124 := by
  by_cases h : (x.take 124).length < 124
  · rw [if_pos h, if_neg (by simp only [decide_eq_true_eq]; omega), List.take_append_drop]
  · rw [if_neg h, if_pos (by simp only [decide_eq_true_eq]; omega), List.nil_append]

theorem logPageIsWritten (s : State) (hnew : s.mgc.logNew ≠ []) (hdue : s.logDue = true) (hgood : s.mgc.flashWrites ∉ s.mgc.flashBad) :
    let m := s.mgc
    let l := (m.logPage ++ m.logNew).take 124
    ∃ t : State, exec .logPageWrite s = .next t ∧ t = { s with mgc := t.mgc } ∧ t.mgc.logSeq = m.logSeq + 1 ∧ t.mgc.logAt = s.age ∧
      t.mgc.logPage ++ t.mgc.logNew = (if l.length < 124 then m.logPage ++ m.logNew else (m.logPage ++ m.logNew).drop 124) ∧
      t.mgc.logIdx = (if l.length < 124 then m.logIdx else (m.logIdx + 1) % 2048) ∧
      t.mgc.flash = m.flash.setRecord (.page m.logIdx)
        (writeBank 4096 (m.flash.record (.page m.logIdx)) (m.logSeq + 1) (s.logPayload l)) := by
  have run := exec_logPageWrite_of_due s hnew hdue
  dsimp only at run ⊢
  rw [State.flashWrite_of_verified _ _ _ _ hgood, if_neg (by exact Bool.false_ne_true)] at run
  refine ⟨_, run, rfl, rfl, rfl, logEntries_split _, ?_, rfl⟩
  show (if decide (124 ≤ _) then _ else _) = _
  generalize ((s.mgc.logPage ++ s.mgc.logNew).take 124).length = n
  by_cases h : n < 124
  · rw [if_pos h, if_neg (by simp only [decide_eq_true_eq]; omega)]
  · rw [if_neg h, if_pos (by simp only [decide_eq_true_eq]; omega)]

theorem logPageIsNotVerified (s : State) (hnew : s.mgc.logNew ≠ []) (hdue : s.logDue = true) (hbad : s.mgc.flashWrites ∈ s.mgc.flashBad) :
    let m := s.mgc
    ∃ t : State, exec .logPageWrite s = .next t ∧ SameMemory s t ∧ t.mgc.logSeq = m.logSeq ∧
      t.mgc.logAt = s.age ∧ m.logNew <+: t.mgc.logNew ∧ t.mgc.logPage = m.logPage ∧
      t.mgc.flash = m.flash.setRecord (.page m.logIdx) (spoilBank 4096 (m.flash.record (.page m.logIdx))) ∧
      Posted s t srcMgc 2 0x9009 0 0 := by
  have run := exec_logPageWrite_of_due s hnew hdue
  dsimp only at run ⊢
  rw [State.flashWrite_of_failed _ _ _ _ hbad, if_pos (by exact rfl)] at run
  obtain ⟨records, posted⟩ := s.unverified_spec (.page s.mgc.logIdx) (spoilBank (FlashPart.page s.mgc.logIdx).size (s.mgc.flash.record (.page s.mgc.logIdx)))
  have grows : (s.withRecord (.page s.mgc.logIdx) (spoilBank (FlashPart.page s.mgc.logIdx).size (s.mgc.flash.record (.page s.mgc.logIdx)))).mgc.logNew <+: _ :=
    State.raise_logNew_prefix _ srcMgc 2 0x9009 0 0
  refine ⟨_, run, ?_⟩
  rw [← State.raiseMgc] at grows
  generalize (State.withRecord _ _ _).raiseMgc 0x9009 = u at *
  unfold OnlyRecords at records
  refine ⟨SameMemory.of_mem (show u.mem = _ by rw [records]; rfl), ?_, rfl, grows, ?_, ?_, posted.of_queue rfl⟩
  · show u.mgc.logSeq = _
    rw [records]; rfl
  · show u.mgc.logPage = _
    rw [records]; rfl
  · show u.mgc.flash = _
    rw [records]; rfl

/-- The entry that counts what a second's limit kept out (R406). -/
def State.suppressedEntry (s : State) (lost : Nat) : Rec :=
  { status := 0x900A, kind := 2, src := srcMgc, win := 0, sseq := 0, stamp := s.roundCounter, tag := 0, detail := lost % 2 ^ 32 }

theorem exec_logSuppressed (s : State) :
    let lost := (s.mgc.logRate.map (·.2.2)).sum
    exec .logSuppressed s = .next { s with mgc := { s.mgc with
      logNew := if lost == 0 then s.mgc.logNew else s.mgc.logNew ++ [s.suppressedEntry lost]
      logRate := [] } } := by
  have total : s.mgc.logRate.foldl (fun a e => a + e.2.2) 0 = (s.mgc.logRate.map (·.2.2)).sum := by
    rw [List.sum_eq_foldl, List.foldl_map]
  dsimp only
  rw [← total]
  rfl

theorem logPagesAreWritten : Claims.LogPagesAreWritten := by
  intro s
  refine ⟨fun h => ?_, fun hnew hdue hgood => ?_, fun hnew hdue hbad => ?_, fun h => ?_, fun h => ?_⟩
  · refine exec_logPageWrite_of_not_due s (h.imp id fun ⟨early, calm⟩ => ?_)
    rw [← Bool.not_eq_true, State.logDue_iff]
    rintro (late | ⟨r, hr, hu⟩)
    · omega
    · rw [calm r hr] at hu; cases hu
  · exact logPageIsWritten s hnew (s.logDue_iff.2 hdue) hgood
  · exact logPageIsNotVerified s hnew (s.logDue_iff.2 hdue) hbad
  · have run := exec_logSuppressed s
    dsimp only at run h
    rw [h] at run
    exact run
  · have run := exec_logSuppressed s
    dsimp only at run h
    rw [if_neg (by simpa using h)] at run
    exact ⟨_, _, run, rfl, rfl, rfl, rfl, rfl⟩

/-- Settles O54, by `sensorsRaiseTheirNotices` and `logPagesAreWritten`. -/
theorem sensorsAndTheLog : Obligations.SensorsAndTheLog := ⟨sensorsRaiseTheirNotices, logPagesAreWritten⟩

end Sys2Proof.Machine
end

section
/-! PROOFS. The mailboxes of the management controller and what their commands do (R400, R401). -/

namespace Sys2Proof.Machine

/-! ### A command ends (R400) -/

theorem State.answerUnknown_frame (s : State) :
    s.answerUnknown = { s with mgc := { s.mgc with pcie := s.answerUnknown.mgc.pcie, smb := s.answerUnknown.mgc.smb } } := by
  unfold State.answerUnknown
  dsimp only
  split
  · split <;> rfl
  · split <;> rfl

/-- Only a busy mailbox has a command to answer. -/
theorem State.answerUnknown_mbox (s : State) (b : Bool) (hb : (s.mgc.mbox b).busy = false) : s.answerUnknown.mgc.mbox b = s.mgc.mbox b := by
  cases b with
  | false =>
    have idle : s.mgc.pcie.busy = false := hb
    unfold State.answerUnknown
    dsimp only
    rw [idle, Bool.false_and, if_neg Bool.false_ne_true]
    split <;> rfl
  | true =>
    have idle : s.mgc.smb.busy = false := hb
    unfold State.answerUnknown
    dsimp only
    rw [idle, Bool.false_and, Bool.false_and, if_neg Bool.false_ne_true, if_neg Bool.false_ne_true]
    split <;> rfl

theorem State.setMbox_frame (s : State) (smb : Bool) (x : Mbox) :
    s.setMbox smb x = { s with mgc := { s.mgc with pcie := (s.setMbox smb x).mgc.pcie, smb := (s.setMbox smb x).mgc.smb } } := by
  cases smb <;> rfl

theorem State.mbox_setMbox (s : State) (smb : Bool) (x : Mbox) : (s.setMbox smb x).mgc.mbox smb = x := by
  cases smb <;> rfl

/-- A mailbox whose command has ended. -/
def Mbox.done (x : Mbox) (status : Nat) (l : List Byte) : Mbox :=
  { x with busy := false, status, rlen := l.length, buf := writeCells x.buf 0 l }

/-- What a command's end changes: its mailbox, and the other one, which may be answered too. -/
structure MboxEnds (smb : Bool) (status : Nat) (l : List Byte) (s t : State) : Prop where
  frame : t = { s with mgc := { s.mgc with pcie := t.mgc.pcie, smb := t.mgc.smb } }
  own : t.mgc.mbox smb = (s.mgc.mbox smb).done status l

theorem State.mboxDone_eq (s : State) (smb : Bool) (status : Nat) (l : List Byte) :
    s.mboxDone smb status l = (s.setMbox smb ((s.mgc.mbox smb).done status l)).answerUnknown := rfl

theorem MboxEnds.done (s : State) (smb : Bool) (status : Nat) (l : List Byte) : MboxEnds smb status l s (s.mboxDone smb status l) := by
  rw [State.mboxDone_eq]
  have frame := s.setMbox_frame smb ((s.mgc.mbox smb).done status l)
  have own := s.mbox_setMbox smb ((s.mgc.mbox smb).done status l)
  generalize s.setMbox smb ((s.mgc.mbox smb).done status l) = u at *
  refine ⟨u.answerUnknown_frame.trans ?_, (u.answerUnknown_mbox smb (by rw [own]; rfl)).trans own⟩
  rw [frame]

theorem MboxEnds.busy {smb : Bool} {status : Nat} {l : List Byte} {s t : State} (h : MboxEnds smb status l s t) :
    (t.mgc.mbox smb).busy = false := by rw [h.own]; rfl
theorem MboxEnds.status {smb : Bool} {status : Nat} {l : List Byte} {s t : State} (h : MboxEnds smb status l s t) :
    (t.mgc.mbox smb).status = status := by rw [h.own]; rfl
theorem MboxEnds.flash {smb : Bool} {status : Nat} {l : List Byte} {s t : State} (h : MboxEnds smb status l s t) :
    t.mgc.flash = s.mgc.flash := by rw [h.frame]
theorem MboxEnds.mem {smb : Bool} {status : Nat} {l : List Byte} {s t : State} (h : MboxEnds smb status l s t) : t.mem = s.mem := by
  rw [h.frame]

/-- A command that changes the management controller alone ends with its status. -/
theorem MboxEnds.ends {smb : Bool} {status : Nat} {l : List Byte} {s u t : State} (h : MboxEnds smb status l u t)
    (hu : u = { s with mgc := u.mgc }) :
    t = { s with mgc := t.mgc } ∧ (t.mgc.mbox smb).busy = false ∧ (t.mgc.mbox smb).status = status ∧ (t.mgc.mbox smb).rlen = l.length := by
  refine ⟨?_, h.busy, h.status, by rw [h.own]; rfl⟩
  have mgc : t.mgc = { u.mgc with pcie := t.mgc.pcie, smb := t.mgc.smb } := congrArg State.mgc h.frame
  have base : ({ u with mgc := t.mgc } : State) = { s with mgc := t.mgc } := by rw [hu]
  refine (h.frame.trans ?_).trans base
  rw [← mgc]

/-! ### Which command runs (R400, R401) -/

theorem State.serveMbox_of_waiting (s : State) (smb : Bool) (op : Nat) (allowed : Bool) (f : Mbox → State) (h : s.serves_ smb op = false) :
    s.serveMbox smb op allowed f = s := by
  unfold State.serveMbox
  rw [h]
  rfl

theorem State.serveMbox_of_refused (s : State) (smb : Bool) (op : Nat) (f : Mbox → State) (h : s.serves_ smb op = true) :
    s.serveMbox smb op false f = s.mboxDone smb 0x9002 [] := by
  unfold State.serveMbox
  rw [h]
  rfl

/-- A mailbox with the operands that GO submitted. -/
def Mbox.submitted (x : Mbox) : Mbox := { x with op := x.runOp, len := x.runLen, arg := x.runArg }

theorem State.serveMbox_of_served (s : State) (smb : Bool) (op : Nat) (f : Mbox → State) (h : s.serves_ smb op = true) :
    s.serveMbox smb op true f = f (s.mgc.mbox smb).submitted := by
  unfold State.serveMbox
  rw [h]
  rfl

theorem State.deckNone_eq_true (s : State) (h : s.dck.state = .none_) : s.deckNone = true := by
  unfold State.deckNone
  rw [h]
  rfl

theorem State.deckNone_eq_false (s : State) (h : ¬ s.dck.state = .none_) : s.deckNone = false := by
  unfold State.deckNone
  exact beq_eq_false_iff_ne.2 h

/-! ### LOG_READ and FW_WRITE (R401) -/

theorem length_padTo_page (l : List Byte) : (padTo 4096 l).length = 4096 := length_padTo ..

theorem exec_logRead (s : State) (smb : Bool) (h : s.serves_ smb 1 = true) :
    exec (.logRead smb) s = .next (
      if 2048 ≤ (s.mgc.mbox smb).runArg.toNat then s.mboxDone smb 0x9001 []
      else
        match pickBank 4096 (s.mgc.flash.record (.page (s.mgc.mbox smb).runArg.toNat)) with
        | some b => s.mboxDone smb 0 (padTo 4096 (bankAt (s.mgc.flash.record (.page (s.mgc.mbox smb).runArg.toNat)) b))
        | none => s.mboxDone smb 0x9003 []) := by
  show execLogRead smb s = _
  exact congrArg _ (s.serveMbox_of_served smb 1 _ h)

theorem logPageIsRead (s : State) (smb : Bool) (h : s.serves_ smb 1 = true) :
    let x := s.mgc.mbox smb
    let page := s.mgc.flash.record (.page x.runArg.toNat)
    let ends := fun (t : State) (status n : Nat) => t = { s with mgc := t.mgc } ∧
      (t.mgc.mbox smb).busy = false ∧ (t.mgc.mbox smb).status = status ∧ (t.mgc.mbox smb).rlen = n
    (2048 ≤ x.runArg.toNat → ∃ t : State, exec (.logRead smb) s = .next t ∧ ends t 0x9001 0) ∧
    (∀ b, x.runArg.toNat < 2048 → pickBank 4096 page = some b → ∃ t : State, exec (.logRead smb) s = .next t ∧ ends t 0 4096 ∧
      readCells (t.mgc.mbox smb).buf 0 4096 = padTo 4096 (bankAt page b)) ∧
    (x.runArg.toNat < 2048 → pickBank 4096 page = none → ∃ t : State, exec (.logRead smb) s = .next t ∧ ends t 0x9003 0) := by
  have run := exec_logRead s smb h
  dsimp only
  refine ⟨fun far => ?_, fun b near hb => ?_, fun near hb => ?_⟩
  · rw [if_pos far] at run
    exact ⟨_, run, (MboxEnds.done s smb 0x9001 []).ends rfl⟩
  · rw [if_neg (by omega), hb] at run
    dsimp only at run
    have done := MboxEnds.done s smb 0 (padTo 4096 (bankAt (s.mgc.flash.record (.page (s.mgc.mbox smb).runArg.toNat)) b))
    have page := length_padTo_page (bankAt (s.mgc.flash.record (.page (s.mgc.mbox smb).runArg.toNat)) b)
    generalize padTo 4096 _ = l at *
    have ends := done.ends (s := s) rfl
    rw [page] at ends
    refine ⟨_, run, ends, ?_⟩
    rw [done.own]
    exact readCells_writeCells _ _ _ _ page
  · rw [if_neg (by omega), hb] at run
    dsimp only at run
    exact ⟨_, run, (MboxEnds.done s smb 0x9003 []).ends rfl⟩

end Sys2Proof.Machine
end

section
/-! PROOFS. Thermal, power and rail stops, and the restart that ends them (R408, R409, R411). -/

namespace Sys2Proof.Machine

/-! ### A stop begins (R409) -/

theorem State.stopAll_frame (s : State) : s.stopAll = { s with tables := s.stopAll.tables } := State.foldl_modTable_frame ..

theorem State.stopAll_table (s : State) (n : Nat) (hn : n < 16) : (s.stopAll.table n).stopping = true := by
  unfold State.stopAll
  rw [State.table_foldl_modTable (List.range 16) List.nodup_range (fun _ x => { x with stopping := true }), if_pos (List.mem_range.2 hn)]

/-- What the stop of a device with a code leaves: its record and its alarm, and, when no stop is in progress, the code that stands. -/
structure StopRaised (code : Nat) (s t : State) : Prop where
  mem : t.mem = s.mem
  posted : Posted s t srcMgc 3 code 0 0
  stands : code ∈ t.mgc.alerts
  stopped : t.mgc.tstop = true
  w1ms : t.mgc.w1ms = s.mgc.w1ms
  vmon : t.mgc.vmon = s.mgc.vmon
  begins : s.mgc.tstop = false → t.mgc.stopCode = some code ∧ t.mgc.stopAt = s.age ∧ ∀ n < 16, (t.table n).stopping = true
  goesOn : s.mgc.tstop = true → t.mgc.stopCode = s.mgc.stopCode ∧ t.tables = s.tables

theorem StopRaised.stopDevice (s : State) (code : Nat) : StopRaised code s (s.stopDevice code) := by
  obtain ⟨frame, posted, stands, -⟩ := AlarmRaised.alarm s code
  unfold State.stopDevice
  dsimp only
  generalize (s.noticeMgc code).alert code = u at *
  split
  · next on =>
    exact ⟨by rw [frame], posted, stands, by rw [frame]; exact on, by rw [frame], by rw [frame], fun h => absurd (on.symm.trans h) (by decide),
      fun _ => ⟨by rw [frame], by rw [frame]⟩⟩
  · next off =>
    have all := State.stopAll_frame { u with mgc := { u.mgc with tstop := true, therm := true, stopCode := some code, stopAt := s.age } }
    have stop := State.stopAll_table { u with mgc := { u.mgc with tstop := true, therm := true, stopCode := some code, stopAt := s.age } }
    generalize State.stopAll _ = t at *
    have mgc : t.mgc = { u.mgc with tstop := true, therm := true, stopCode := some code, stopAt := s.age } := by rw [all]
    have hif : t.hif = u.hif := by rw [all]
    refine ⟨?_, posted.of_queue ?_, ?_, by rw [mgc], ?_, ?_, fun _ => ⟨by rw [mgc], by rw [mgc], stop⟩, fun h => absurd h off⟩
    · rw [all, frame]
    · rw [State.queue, State.queue, hif]
    · rw [mgc]; exact stands
    · rw [mgc, frame]
    · rw [mgc, frame]

theorem exec_thermalStop (s : State) (i : Nat) (v : BitVec 12) (hi : i < 64) :
    exec (.thermalStop i v) s = .next (if 1840 ≤ v.toInt then s.stopDevice 0xA011 else s) := by
  rw [← degrees16_eq]
  exact if_pos hi

theorem exec_powerStop (s : State) (w : BitVec 16) : exec (.powerStop w) s = .next (
    if 1800 < w.toNat then ({ s with mgc := { s.mgc with w1ms := w } } : State).stopDevice 0xA005
    else { s with mgc := { s.mgc with w1ms := w } }) := rfl

/-- A state with a monitor's reading (R407). -/
def State.withMonitor (s : State) (i : Nat) (v : BitVec 16 × Bool × Bool) : State :=
  { s with mgc := { s.mgc with vmon := Map.set (0, false, false) s.mgc.vmon i v } }

theorem exec_railFault (s : State) (i : Nat) (mv : BitVec 16) (held : Bool) (hi : i < 24) : exec (.railFault i mv held) s = .next (
    if (vmonOf i mv).2.1 || (vmonOf i mv).2.2 then
      (if held && s.deckRuns then (s.withMonitor i (vmonOf i mv)).stopDevice 0x9005 else s.withMonitor i (vmonOf i mv))
    else if (s.withMonitor i (vmonOf i mv)).mgc.vmon.any fun e => e.2.2.1 || e.2.2.2 then s.withMonitor i (vmonOf i mv)
    else (s.withMonitor i (vmonOf i mv)).clearAlert 0x9005) := if_pos hi

/-- An entry of an updated map is an old one or the new value. -/
theorem Map.mem_set {α : Type} [DecidableEq α] (d : α) (m : List (Nat × α)) (i : Nat) (v : α) (e : Nat × α) (h : e ∈ Map.set d m i v) :
    e ∈ m ∨ e.2 = v := by
  unfold Map.set at h
  split at h
  · left
    induction m with
    | nil => exact h
    | cons x m ih =>
      unfold Map.erase at h
      split at h
      · exact List.mem_cons_of_mem _ (ih h)
      · exact (List.mem_cons.1 h).elim (fun e => e ▸ List.mem_cons_self) fun h => List.mem_cons_of_mem _ (ih h)
  · induction m with
    | nil => exact .inr (by rw [List.mem_singleton.1 h])
    | cons x m ih =>
      unfold Map.put at h
      split at h
      · exact (List.mem_cons.1 h).elim (fun h => .inr (by rw [h])) .inl
      · split at h
        · exact (List.mem_cons.1 h).elim (fun h => .inr (by rw [h])) fun h => .inl (List.mem_cons_of_mem _ h)
        · exact (List.mem_cons.1 h).elim (fun h => .inl (by rw [h]; exact List.mem_cons_self)) fun h =>
            (ih h).imp (List.mem_cons_of_mem _) id

/-! ### Monitors (R407, R411) -/

theorem railsAreWatched (s : State) (i : Nat) (mv : BitVec 16) (hi : i < 24) :
    let v := vmonOf i mv
    let outside := v.2.1 = true ∨ v.2.2 = true
    let read := fun (t : State) => Map.get (0, false, false) t.mgc.vmon i = v
    (outside → s.deckRuns = true → ∃ t : State, exec (.railFault i mv true) s = .next t ∧ read t ∧ StopRaised 0x9005 (s.withMonitor i v) t) ∧
    (∀ held, outside → (held = false ∨ s.deckRuns = false) → ∃ t : State, exec (.railFault i mv held) s = .next t ∧ read t ∧
      t = { s with mgc := t.mgc } ∧ t.mgc.alerts = s.mgc.alerts) ∧
    (∀ held, ¬outside → ∃ t : State, exec (.railFault i mv held) s = .next t ∧ read t ∧ t = { s with mgc := t.mgc } ∧
      ((∀ e ∈ s.mgc.vmon, e.2.2.1 = false ∧ e.2.2.2 = false) → 0x9005 ∉ t.mgc.alerts)) := by
  have run (held : Bool) := exec_railFault s i mv held hi
  generalize vmonOf i mv = v at *
  have reads : Map.get (0, false, false) (s.withMonitor i v).mgc.vmon i = v := Map.get_set_self ..
  dsimp only
  refine ⟨fun out deck => ?_, fun held out quiet => ?_, fun held inside => ?_⟩
  · have run := run true
    have stop := StopRaised.stopDevice (s.withMonitor i v) 0x9005
    rw [if_pos (by rwa [Bool.or_eq_true]), deck, if_pos (by decide)] at run
    exact ⟨_, run, by rw [stop.vmon]; exact reads, stop⟩
  · have run := run held
    have calm : (held && s.deckRuns) = false := by
      rcases quiet with h | h
      · rw [h, Bool.false_and]
      · rw [h, Bool.and_false]
    rw [if_pos (by rwa [Bool.or_eq_true]), calm, if_neg Bool.false_ne_true] at run
    exact ⟨_, run, reads, rfl, rfl⟩
  · have run := run held
    rw [if_neg (by rwa [Bool.or_eq_true])] at run
    split at run
    · next other =>
      refine ⟨_, run, reads, rfl, fun all => ?_⟩
      obtain ⟨e, he, out⟩ := List.any_eq_true.1 other
      rw [Bool.or_eq_true] at out
      rcases Map.mem_set (0, false, false) s.mgc.vmon i v e he with old | new
      · obtain ⟨low, high⟩ := all e old
        rw [low, high] at out
        exact absurd out (by decide)
      · rw [new] at out
        exact absurd out inside
    · exact ⟨_, run, reads, rfl, fun _ => State.not_mem_clearAlert _ _⟩

/-! ### The restart (R409) -/

/-- A device that resets has no memory and no deck (R314). -/
theorem State.deviceReset_cleared (s : State) : s.deviceReset.mem = [] ∧ s.deviceReset.dck = {} := by
  have step (u : State) (f : Fn) : let t := match (u.cr f 4).run with
      | some c => if c.op == 8 && c.left == 0 then u.endRun f 4 c.status else u
      | none => u
      t.mem = u.mem ∧ t.dck = u.dck := by
    dsimp only
    split
    · next c hc =>
      split
      · have ended := (CommandsEnd.endRun f u 4 c.status).1
        exact ⟨ended.mem, ended.dck⟩
      · exact ⟨rfl, rfl⟩
    · exact ⟨rfl, rfl⟩
  unfold State.deviceReset State.endServes
  dsimp only
  exact foldl_inv (fun t : State => t.mem = [] ∧ t.dck = {}) (fun t f h => ⟨(step t f).1.trans h.1, (step t f).2.trans h.2⟩) _ _ ⟨rfl, rfl⟩

/-- The state of a device that restarts after a stop (R409). -/
def State.restarted (s : State) : State :=
  let u := (s.endDevice (s.mgc.stopCode.getD 0xA011)).deviceReset
  { u with mgc := { u.mgc with
    tstop := false, therm := false, stopCode := none, rails := railOrder
    alerts := u.mgc.alerts.filter fun c => c != 0xA011 && c != 0xA005 && c != 0x9005 } }

theorem State.restarted_spec (s : State) : s.restarted.mem = [] ∧ s.restarted.dck = {} ∧ s.restarted.mgc.tstop = false ∧
    s.restarted.mgc.stopCode = none ∧ s.restarted.mgc.rails = railOrder := by
  obtain ⟨mem, dck⟩ := (s.endDevice (s.mgc.stopCode.getD 0xA011)).deviceReset_cleared
  unfold State.restarted
  generalize (s.endDevice (s.mgc.stopCode.getD 0xA011)).deviceReset = u at *
  exact ⟨mem, dck, rfl, rfl, rfl⟩

/-- Every sensor reads below 95 degrees (R409). -/
def State.cool (s : State) : Bool := s.mgc.temps.all fun e => decide (degrees16 e.2.t < 1520)

theorem State.cool_iff (s : State) : s.cool = true ↔ ∀ e ∈ s.mgc.temps, e.2.t.toInt < 1520 := by
  unfold State.cool
  simp only [List.all_eq_true, decide_eq_true_eq, degrees16_eq]

theorem exec_thermRestart (s : State) (smb : Bool) : exec (.thermRestart smb) s =
    .next (s.serveMbox smb 9 (s.mgc.tstop && s.cool) fun _ => s.restarted.mboxDone smb 0 []) := rfl

theorem stopEndsInARestart (s : State) (smb : Bool) (h : s.serves_ smb 9 = true) :
    let cool := ∀ e ∈ s.mgc.temps, e.2.t.toInt < 1520
    (s.mgc.tstop = true → cool → ∃ t : State, exec (.thermRestart smb) s = .next t ∧ (t.mgc.mbox smb).busy = false ∧
      (t.mgc.mbox smb).status = 0 ∧ t.mgc.tstop = false ∧ t.mgc.stopCode = none ∧ t.mgc.rails = railOrder ∧
      (∀ p o, t.readByte p o = 0) ∧ t.dck = {}) ∧
    (s.mgc.tstop = false ∨ ¬cool → ∃ t : State, exec (.thermRestart smb) s = .next t ∧ (t.mgc.mbox smb).busy = false ∧
      (t.mgc.mbox smb).status = 0x9002 ∧ t = { s with mgc := t.mgc }) := by
  have run := exec_thermRestart s smb
  refine ⟨fun stop cool => ?_, fun hot => ?_⟩
  · rw [stop, s.cool_iff.2 cool, Bool.and_true, s.serveMbox_of_served smb 9 _ h] at run
    have ended := MboxEnds.done s.restarted smb 0 []
    obtain ⟨memR, dckR, tstop, code, rails⟩ := s.restarted_spec
    generalize s.restarted = u at *
    refine ⟨_, run, ended.busy, ended.status, ?_, ?_, ?_, fun p o => ?_, ?_⟩
    · rw [ended.frame]; exact tstop
    · rw [ended.frame]; exact code
    · rw [ended.frame]; exact rails
    · rw [State.readByte, ended.mem, memR]; rfl
    · rw [ended.frame]; exact dckR
  · have refused : (s.mgc.tstop && s.cool) = false := by
      rw [← Bool.not_eq_true, Bool.and_eq_true, s.cool_iff]
      rintro ⟨on, cool⟩
      rcases hot with h | h
      · rw [on] at h; cases h
      · exact h cool
    rw [refused, s.serveMbox_of_refused smb 9 _ h] at run
    have ended := MboxEnds.done s smb 0x9002 []
    exact ⟨_, run, ended.busy, ended.status, (ended.ends rfl).1⟩

/-- Settles O53, by what a stop raises and what its restart clears. -/
theorem stopsEndInARestart : Obligations.StopsEndInARestart := by
  unfold Obligations.StopsEndInARestart
  intro s
  dsimp only
  have raised {code : Nat} {u t : State} (h : StopRaised code u t) (mem : u.mem = s.mem) (hif : u.hif = s.hif) (rcu : u.rcu = s.rcu) :
      SameMemory s t ∧ Posted s t srcMgc 3 code 0 0 ∧ code ∈ t.mgc.alerts ∧ t.mgc.tstop = true :=
    ⟨SameMemory.of_mem (h.mem.trans mem), h.posted.of_before (by rw [State.queue, State.queue, hif]) (by rw [hif]) rcu, h.stands, h.stopped⟩
  refine ⟨fun i v hi => ⟨fun hot off => ?_, fun hot on => ?_, fun cool => ?_⟩, fun w => ⟨fun high off => ?_, fun high on => ?_, fun low => ?_⟩,
    fun i mv hi => ?_, fun smb h => stopEndsInARestart s smb h, fun smb h => congrArg _ (s.serveMbox_of_waiting smb 9 _ _ h)⟩
  · have run := exec_thermalStop s i v hi
    rw [if_pos hot] at run
    have stop := StopRaised.stopDevice s 0xA011
    obtain ⟨code, at_, all⟩ := stop.begins off
    exact ⟨_, run, raised stop rfl rfl rfl, code, at_, all⟩
  · have run := exec_thermalStop s i v hi
    rw [if_pos hot] at run
    have stop := StopRaised.stopDevice s 0xA011
    obtain ⟨code, tables⟩ := stop.goesOn on
    exact ⟨_, run, raised stop rfl rfl rfl, code, tables⟩
  · rw [exec_thermalStop s i v hi, if_neg (by omega)]
  · have run := exec_powerStop s w
    rw [if_pos high] at run
    have stop := StopRaised.stopDevice { s with mgc := { s.mgc with w1ms := w } } 0xA005
    obtain ⟨code, at_, all⟩ := stop.begins off
    exact ⟨_, run, stop.w1ms, raised stop rfl rfl rfl, code, at_, all⟩
  · have run := exec_powerStop s w
    rw [if_pos high] at run
    have stop := StopRaised.stopDevice { s with mgc := { s.mgc with w1ms := w } } 0xA005
    obtain ⟨code, tables⟩ := stop.goesOn on
    exact ⟨_, run, stop.w1ms, raised stop rfl rfl rfl, code, tables⟩
  · rw [exec_powerStop s w, if_neg (by omega)]
  · obtain ⟨stops, quiet, inside⟩ := railsAreWatched s i mv hi
    refine ⟨fun out deck off => ?_, fun out deck on => ?_, quiet, inside⟩
    · obtain ⟨t, run, read, stop⟩ := stops out deck
      obtain ⟨code, at_, all⟩ := stop.begins off
      exact ⟨t, run, read, raised stop rfl rfl rfl, code, at_, all⟩
    · obtain ⟨t, run, read, stop⟩ := stops out deck
      obtain ⟨code, tables⟩ := stop.goesOn on
      exact ⟨t, run, read, raised stop rfl rfl rfl, code, tables⟩

end Sys2Proof.Machine
end

section
/-! PROOFS. Records of the flash that are read back (R404, R405). -/

namespace Sys2Proof.Machine

/-- What a bank holds before its payload and its CRC: MAGIC, SEQ and LEN. -/
def bankHead (seq len : Nat) : List Byte := [0x46#8, 0x56#8, 0x32#8, 0x53#8] ++ leBytes 4 seq ++ leBytes 4 len

theorem length_bankHead (seq len : Nat) : (bankHead seq len).length = 12 := by
  simp only [bankHead, List.length_append, length_leBytes, List.length_cons, List.length_nil]

theorem bankBytes_eq (seq : Nat) (pay : List Byte) :
    bankBytes seq pay = bankHead seq pay.length ++ (leBytes 4 (crc32c (bankHead seq pay.length ++ pay)) ++ pay) := by
  rw [← List.append_assoc]
  rfl

/-- A written bank is valid, with its SEQ and its payload (R405). -/
theorem bankOf_bankBytes (size seq : Nat) (pay : List Byte) (hseq : seq < 2 ^ 32) (hlen : pay.length < 2 ^ 32) (hfits : pay.length + 16 ≤ size) :
    bankOf size (bankBytes seq pay) = some (seq, pay) := by
  have head := length_bankHead seq pay.length
  have magic : (bankBytes seq pay).take 4 = [0x46#8, 0x56#8, 0x32#8, 0x53#8] := rfl
  have seqAt : leAt (bankBytes seq pay) 4 4 = seq := by
    rw [bankBytes_eq, bankHead, List.append_assoc, List.append_assoc, leAt_leBytes _ _ 4 seq 4 rfl]
    exact Nat.mod_eq_of_lt hseq
  have lenAt : leAt (bankBytes seq pay) 8 4 = pay.length := by
    rw [bankBytes_eq, bankHead, List.append_assoc _ (leBytes 4 pay.length), leAt_leBytes _ _ 4 pay.length 8 (by simp [length_leBytes])]
    exact Nat.mod_eq_of_lt hlen
  have front : (bankBytes seq pay).take 12 = bankHead seq pay.length := by
    rw [bankBytes_eq, ← head, List.take_left]
  have back : (bankBytes seq pay).drop 16 = pay := by
    rw [bankBytes_eq, ← List.append_assoc, List.drop_left' (by rw [List.length_append, head, length_leBytes])]
  have crcAt : leAt (bankBytes seq pay) 12 4 = crc32c (bankHead seq pay.length ++ pay) := by
    rw [bankBytes_eq, leAt_leBytes _ _ 4 _ 12 head]
    exact Nat.mod_eq_of_lt (crc32c_lt _)
  unfold bankOf
  dsimp only
  rw [lenAt, back, List.take_length, magic, front, crcAt, seqAt, if_pos]
  simp [hfits]

theorem recordOf_of_first (size : Nat) (r : FlashRec) (a : Nat × List Byte) (ha : bankOf size r.1 = some a)
    (hb : ∀ b, bankOf size r.2 = some b → b.1 ≤ a.1) : recordOf size r = some a := by
  unfold recordOf pickBank
  cases h : bankOf size r.2 with
  | none =>
    rw [ha]
    exact ha
  | some b =>
    have older : decide (a.1 < b.1) = false := decide_eq_false (Nat.not_lt.2 (hb b h))
    rw [ha]
    dsimp only
    rw [older]
    exact ha

theorem recordOf_of_second (size : Nat) (r : FlashRec) (b : Nat × List Byte) (hb : bankOf size r.2 = some b)
    (ha : ∀ a, bankOf size r.1 = some a → a.1 < b.1) : recordOf size r = some b := by
  unfold recordOf pickBank
  cases h : bankOf size r.1 with
  | none =>
    rw [hb]
    exact hb
  | some a =>
    have older : decide (a.1 < b.1) = true := decide_eq_true (ha a h)
    rw [hb]
    dsimp only
    rw [older]
    exact hb

/-- The next SEQ of a record is above those of its banks. -/
theorem lt_nextSeq (size : Nat) (r : FlashRec) (second : Bool) (a : Nat × List Byte) (ha : bankOf size (bankAt r second) = some a) :
    a.1 < nextSeq size r := by
  have wins (w : Nat × List Byte) (hw : recordOf size r = some w) (h : a.1 ≤ w.1) : a.1 < nextSeq size r := by
    unfold nextSeq
    rw [hw]
    exact Nat.lt_succ_of_le h
  cases h1 : bankOf size r.1 with
  | none =>
    cases second with
    | false => rw [show bankAt r false = r.1 from rfl, h1] at ha; cases ha
    | true => exact wins a (recordOf_of_second size r a ha fun x hx => by rw [h1] at hx; cases hx) le_rfl
  | some x =>
    cases h2 : bankOf size r.2 with
    | none =>
      cases second with
      | false => exact wins a (recordOf_of_first size r a ha fun x hx => by rw [h2] at hx; cases hx) le_rfl
      | true => rw [show bankAt r true = r.2 from rfl, h2] at ha; cases ha
    | some y =>
      have among : a = x ∨ a = y := by
        cases second with
        | false => exact .inl (Option.some.inj (ha.symm.trans h1))
        | true => exact .inr (Option.some.inj (ha.symm.trans h2))
      by_cases hxy : x.1 < y.1
      · have won := recordOf_of_second size r y h2 fun z hz => by rw [← Option.some.inj (h1.symm.trans hz)]; exact hxy
        exact wins y won (by rcases among with e | e <;> rw [e] <;> omega)
      · have won := recordOf_of_first size r x h1 fun z hz => by rw [← Option.some.inj (h2.symm.trans hz)]; omega
        exact wins x won (by rcases among with e | e <;> rw [e] <;> omega)

/-- A record that was written under its next SEQ reads as what was written (R405). -/
theorem recordOf_writeBank (size : Nat) (r : FlashRec) (pay : List Byte) (hseq : nextSeq size r < 2 ^ 32) (hlen : pay.length < 2 ^ 32)
    (hfits : pay.length + 16 ≤ size) : recordOf size (writeBank size r (nextSeq size r) pay) = some (nextSeq size r, pay) := by
  have new := bankOf_bankBytes size (nextSeq size r) pay hseq hlen hfits
  unfold writeBank
  cases targetBank size r with
  | false => exact recordOf_of_first size _ _ new fun b hb => (lt_nextSeq size r true b hb).le
  | true => exact recordOf_of_second size _ _ new fun a ha => lt_nextSeq size r false a ha

/-- A record reads as it did when another one is written. -/
theorem Flash.read_setRecord_key (f : Flash) (i j : Nat) (r : FlashRec) :
    (f.setRecord (.key i) r).record (.key j) = if j = i then r else f.record (.key j) := Map.get_set ..

end Sys2Proof.Machine
end

section
/-! PROOFS. Firmware, registers and the log through a mailbox (R401, R403, R405). -/

namespace Sys2Proof.Machine

/-! ### FW_WRITE and FW_COMMIT (R401, R403) -/

/-- A state whose flash holds other images or records. -/
def State.withFlash (s : State) (f : Flash) : State := { s with mgc := { s.mgc with flash := f } }

theorem exec_fwWrite (s : State) (smb : Bool) (h : s.serves_ smb 2 = true) :
    exec (.fwWrite smb) s = .next (
      let x := s.mgc.mbox smb
      if x.runArg.toNat % 4096 != 0 || decide (2 ^ 22 ≤ x.runArg.toNat) then s.mboxDone smb 0x9001 []
      else (s.withFlash (s.mgc.flash.writeImage s.mgc.inactive x.runArg.toNat (readCells x.buf 0 x.runLen))).mboxDone smb 0 []) := by
  show execFwWrite smb s = _
  exact congrArg _ (s.serveMbox_of_served smb 2 _ h)

theorem length_readCells (m : List Host.Cell) (a n : Nat) : (readCells m a n).length = n := by
  rw [readCells, List.length_map, List.length_range]

theorem firmwareIsWritten (s : State) (smb : Bool) (h : s.serves_ smb 2 = true) :
    let x := s.mgc.mbox smb
    let ends := fun (t : State) (status n : Nat) => t = { s with mgc := t.mgc } ∧
      (t.mgc.mbox smb).busy = false ∧ (t.mgc.mbox smb).status = status ∧ (t.mgc.mbox smb).rlen = n
    (x.runArg.toNat % 4096 = 0 → x.runArg.toNat < 2 ^ 22 → s.mgc.bank = 1 → ∃ t : State, exec (.fwWrite smb) s = .next t ∧
      ends t 0 0 ∧ readCells t.mgc.flash.imageA x.runArg.toNat x.runLen = readCells x.buf 0 x.runLen ∧
      t.mgc.flash.imageB = s.mgc.flash.imageB) ∧
    (x.runArg.toNat % 4096 = 0 → x.runArg.toNat < 2 ^ 22 → s.mgc.bank = 0 → ∃ t : State, exec (.fwWrite smb) s = .next t ∧
      ends t 0 0 ∧ readCells t.mgc.flash.imageB x.runArg.toNat x.runLen = readCells x.buf 0 x.runLen ∧
      t.mgc.flash.imageA = s.mgc.flash.imageA) ∧
    (x.runArg.toNat % 4096 ≠ 0 ∨ 2 ^ 22 ≤ x.runArg.toNat → ∃ t : State, exec (.fwWrite smb) s = .next t ∧ ends t 0x9001 0 ∧
      t.mgc.flash = s.mgc.flash) := by
  have run := exec_fwWrite s smb h
  dsimp only at run ⊢
  have written (f : Flash) (hf : s.mgc.flash.writeImage s.mgc.inactive (s.mgc.mbox smb).runArg.toNat
        (readCells (s.mgc.mbox smb).buf 0 (s.mgc.mbox smb).runLen) = f)
      (aligned : (s.mgc.mbox smb).runArg.toNat % 4096 = 0) (inside : (s.mgc.mbox smb).runArg.toNat < 2 ^ 22) :
      ∃ t : State, exec (.fwWrite smb) s = .next t ∧ MboxEnds smb 0 [] (s.withFlash f) t := by
    rw [hf, if_neg (by simp only [Bool.or_eq_true, bne_iff_ne, decide_eq_true_eq]; omega)] at run
    exact ⟨_, run, .done ..⟩
  refine ⟨fun aligned inside bank => ?_, fun aligned inside bank => ?_, fun bad => ?_⟩
  · have inactive : s.mgc.inactive = 0 := by unfold Mgc.inactive; omega
    obtain ⟨t, ran, ended⟩ := written _ (by rw [inactive]) aligned inside
    refine ⟨t, ran, ended.ends rfl, ?_, ?_⟩
    · rw [ended.flash]
      exact readCells_writeCells _ _ _ _ (length_readCells ..)
    · rw [ended.flash]
      rfl
  · have inactive : s.mgc.inactive = 1 := by unfold Mgc.inactive; omega
    obtain ⟨t, ran, ended⟩ := written _ (by rw [inactive]) aligned inside
    refine ⟨t, ran, ended.ends rfl, ?_, ?_⟩
    · rw [ended.flash]
      exact readCells_writeCells _ _ _ _ (length_readCells ..)
    · rw [ended.flash]
      rfl
  · rw [if_pos (by simp only [Bool.or_eq_true, bne_iff_ne, decide_eq_true_eq]; omega)] at run
    have ended := MboxEnds.done s smb 0x9001 []
    exact ⟨_, run, ended.ends rfl, ended.flash⟩

theorem exec_fwCommit (s : State) (smb ok : Bool) (h : s.serves_ smb 3 = true) :
    exec (.fwCommit smb ok) s = .next (
      let w := s.flashWrite .boot (s.mgc.flash.seq .boot) [BitVec.ofNat 8 s.mgc.inactive]
      if !s.accepts s.mgc.inactive ok then s.mboxDone smb 0x9006 []
      else if w.2 then w.1.mboxDone smb 0 [] else w.1.mboxUnwritten smb) := by
  show execFwCommit smb ok s = _
  exact congrArg _ (s.serveMbox_of_served smb 3 _ h)

/-- A command whose record is not verified ends with a status of its own (R405), and a free value is drawn. -/
theorem State.mboxUnwritten_ends (s : State) (smb : Bool) : ∃ status, MboxEnds smb status [] s.drawFree.1 (s.mboxUnwritten smb) :=
  ⟨_, MboxEnds.done ..⟩

/-- What a record that is not verified leaves (R405). -/
theorem State.unwritten_spec (s : State) (smb : Bool) (w : FlashPart) (r : FlashRec) :
    let t := ((s.withRecord w r).raiseMgc 0x9009).mboxUnwritten smb
    SameMemory s t ∧ (t.mgc.mbox smb).busy = false ∧ t.mgc.flash = s.mgc.flash.setRecord w r ∧ Posted s t srcMgc 2 0x9009 0 0 := by
  obtain ⟨records, posted⟩ := s.unverified_spec w r
  dsimp only
  generalize (s.withRecord w r).raiseMgc 0x9009 = u at *
  obtain ⟨status, ended⟩ := u.mboxUnwritten_ends smb
  generalize u.mboxUnwritten smb = t at *
  unfold OnlyRecords at records
  have mem : t.mem = u.mem := ended.mem
  have hif : t.hif = u.hif := by rw [ended.frame]; rfl
  refine ⟨SameMemory.of_mem (mem.trans (by rw [records]; rfl)), ended.busy, ended.flash.trans ?_, posted.of_queue (by rw [State.queue, State.queue, hif])⟩
  show u.mgc.flash = _
  rw [records]
  rfl

/-- A boot control record that is read back names its bank (R403, R404). -/
theorem Flash.bootBank_written (f : Flash) (b : Nat) (hb : b < 2) (hseq : f.seq .boot < 2 ^ 32) :
    ({ f with boot := writeBank 4096 f.boot (f.seq .boot) [BitVec.ofNat 8 b] } : Flash).bootBank = b := by
  have back : ({ f with boot := writeBank 4096 f.boot (f.seq .boot) [BitVec.ofNat 8 b] } : Flash).read .boot =
      some (f.seq .boot, [BitVec.ofNat 8 b]) :=
    recordOf_writeBank 4096 f.boot [BitVec.ofNat 8 b] hseq (by simp) (by simp)
  unfold Flash.bootBank
  rw [back]
  rcases (by omega : b = 0 ∨ b = 1) with rfl | rfl <;> rfl

theorem firmwareIsCommitted (s : State) (smb ok : Bool) (h : s.serves_ smb 3 = true) :
    let boot := s.mgc.flash.record .boot
    let seq := s.mgc.flash.seq .boot
    let ends := fun (t : State) (status n : Nat) => t = { s with mgc := t.mgc } ∧
      (t.mgc.mbox smb).busy = false ∧ (t.mgc.mbox smb).status = status ∧ (t.mgc.mbox smb).rlen = n
    (s.accepts s.mgc.inactive ok = true → s.mgc.flashWrites ∉ s.mgc.flashBad →
      ∃ t : State, exec (.fwCommit smb ok) s = .next t ∧ ends t 0 0 ∧
        t.mgc.flash = { s.mgc.flash with boot := writeBank 4096 boot seq [BitVec.ofNat 8 s.mgc.inactive] } ∧
        (s.mgc.bank < 2 → seq < 2 ^ 32 → t.mgc.flash.bootBank = 1 - s.mgc.bank)) ∧
    (s.accepts s.mgc.inactive ok = true → s.mgc.flashWrites ∈ s.mgc.flashBad → ∃ t : State, exec (.fwCommit smb ok) s = .next t ∧
      SameMemory s t ∧ (t.mgc.mbox smb).busy = false ∧ t.mgc.flash = { s.mgc.flash with boot := spoilBank 4096 boot } ∧
      Posted s t srcMgc 2 0x9009 0 0) ∧
    (s.accepts s.mgc.inactive ok = false → ∃ t : State, exec (.fwCommit smb ok) s = .next t ∧ ends t 0x9006 0 ∧
      t.mgc.flash = s.mgc.flash) := by
  have run := exec_fwCommit s smb ok h
  dsimp only at run ⊢
  refine ⟨fun accepted good => ?_, fun accepted bad => ?_, fun refused => ?_⟩
  · rw [accepted, if_neg (by decide), State.flashWrite_of_verified _ _ _ _ good, if_pos rfl] at run
    have ended := MboxEnds.done (s.withRecord .boot (writeBank FlashPart.boot.size (s.mgc.flash.record .boot) (s.mgc.flash.seq .boot)
      [BitVec.ofNat 8 s.mgc.inactive])) smb 0 []
    refine ⟨_, run, ended.ends rfl, ended.flash, fun hbank hseq => ?_⟩
    rw [ended.flash]
    exact Flash.bootBank_written s.mgc.flash s.mgc.inactive (by rw [Mgc.inactive]; omega) hseq
  · rw [accepted, if_neg (by decide), State.flashWrite_of_failed _ _ _ _ bad, if_neg (by exact Bool.false_ne_true)] at run
    obtain ⟨mem, busy, flash, posted⟩ := s.unwritten_spec smb .boot (spoilBank FlashPart.boot.size (s.mgc.flash.record .boot))
    exact ⟨_, run, mem, busy, flash, posted⟩
  · rw [refused, if_pos (by decide)] at run
    have ended := MboxEnds.done s smb 0x9006 []
    exact ⟨_, run, ended.ends rfl, ended.flash⟩

/-! ### FW_ACTIVATE, REG_WRITE and REG_READ (R401) -/

theorem exec_regWrite (s : State) (smb : Bool) (h : s.serves_ smb 7 = true) (hdeck : s.dck.state = .none_) :
    exec (.regWrite smb) s = .next (
      if !mboxReg (bits (s.mgc.mbox smb).runArg.toNat 0 32) then s.mboxDone smb 0x9001 []
      else (s.regWrite .pf (bits (s.mgc.mbox smb).runArg.toNat 0 32) (bits (s.mgc.mbox smb).runArg.toNat 32 32)).mboxDone smb 0 []) := by
  show execRegWrite smb s = _
  unfold execRegWrite
  rw [s.deckNone_eq_true hdeck, s.serveMbox_of_served smb 7 _ h]
  rfl

theorem exec_regRead (s : State) (smb : Bool) (h : s.serves_ smb 8 = true) :
    exec (.regRead smb) s = .next (
      if !mboxReg (bits (s.mgc.mbox smb).runArg.toNat 0 32) then s.mboxDone smb 0x9001 []
      else (s.regRead .pf (bits (s.mgc.mbox smb).runArg.toNat 0 32)).1.mboxDone smb 0
        (leBytes 4 (s.regRead .pf (bits (s.mgc.mbox smb).runArg.toNat 0 32)).2)) := by
  show execRegRead smb s = _
  exact congrArg _ (s.serveMbox_of_served smb 8 _ h)

/-- Settles O51, command by command. -/
theorem mailboxCommandsEndWithStatus : Obligations.MailboxCommandsEndWithStatus := by
  unfold Obligations.MailboxCommandsEndWithStatus
  intro s smb
  refine ⟨fun h => logPageIsRead s smb h, fun h => firmwareIsWritten s smb h, fun h ok => firmwareIsCommitted s smb ok h,
    fun h => ⟨fun hd => ?_, fun hd => ?_⟩, fun h => ⟨fun hd hr => ?_, fun hd hr => ?_, fun hd => ?_⟩, fun h => ⟨fun hr => ?_, fun hr => ?_⟩,
    fun h => ?_, fun h => ?_, fun ok h => ?_, fun h => ?_, fun h => ?_, fun h => ?_⟩
  · show execFwActivate smb s = _
    rw [execFwActivate, s.deckNone_eq_true hd, s.serveMbox_of_served smb 4 _ h]
  · have run : exec (.fwActivate smb) s = execFwActivate smb s := rfl
    rw [execFwActivate, s.deckNone_eq_false hd, s.serveMbox_of_refused smb 4 _ h] at run
    exact ⟨_, run, (MboxEnds.done s smb 0x9002 []).ends rfl⟩
  · have run := exec_regWrite s smb h hd
    rw [hr, if_neg (by decide)] at run
    exact run
  · have run := exec_regWrite s smb h hd
    rw [hr, if_pos (by decide)] at run
    exact ⟨_, run, (MboxEnds.done s smb 0x9001 []).ends rfl⟩
  · have run : exec (.regWrite smb) s = execRegWrite smb s := rfl
    rw [execRegWrite, s.deckNone_eq_false hd, s.serveMbox_of_refused smb 7 _ h] at run
    exact ⟨_, run, (MboxEnds.done s smb 0x9002 []).ends rfl⟩
  · have run := exec_regRead s smb h
    rw [hr, if_neg (by decide)] at run
    exact run
  · have run := exec_regRead s smb h
    rw [hr, if_pos (by decide)] at run
    exact ⟨_, run, (MboxEnds.done s smb 0x9001 []).ends rfl⟩
  · exact congrArg _ (s.serveMbox_of_waiting smb 1 _ _ h)
  · exact congrArg _ (s.serveMbox_of_waiting smb 2 _ _ h)
  · exact congrArg _ (s.serveMbox_of_waiting smb 3 _ _ h)
  · exact congrArg _ (s.serveMbox_of_waiting smb 4 _ _ h)
  · exact congrArg _ (s.serveMbox_of_waiting smb 7 _ _ h)
  · exact congrArg _ (s.serveMbox_of_waiting smb 8 _ _ h)

end Sys2Proof.Machine
end

section
/-! PROOFS. Key slots (R401, R402, R405). -/

namespace Sys2Proof.Machine

/-! ### A slot's record -/

theorem leNat_lt (l : List Byte) : leNat l < 2 ^ (8 * l.length) := by
  induction l with
  | nil => exact Nat.one_pos
  | cons b l ih =>
    have small := b.isLt
    rw [leNat, List.length_cons, show 8 * (l.length + 1) = 8 + 8 * l.length by omega, pow_add]
    omega

theorem leAt_lt (l : List Byte) (i n : Nat) : leAt l i n < 2 ^ (8 * n) :=
  (leNat_lt _).trans_le (Nat.pow_le_pow_right (by norm_num) (by rw [List.length_take]; omega))

theorem beNat_lt (l : List Byte) : beNat l < 2 ^ (8 * l.length) := by
  unfold beNat
  induction l using List.reverseRecOn with
  | nil => exact Nat.one_pos
  | append_singleton l b ih =>
    have small := b.isLt
    rw [List.foldl_append, List.foldl_cons, List.foldl_nil, List.length_append, List.length_singleton,
      show 8 * (l.length + 1) = 8 * l.length + 8 by omega, pow_add]
    omega

theorem length_keyPayload (state x y print : Nat) : (keyPayload state x y print).length = 99 := by
  simp only [keyPayload, List.length_append, length_leBytes]

/-- A slot that a record of values within their widths holds. -/
theorem keyPayload_fields (state x y print : Nat) (hs : state < 2 ^ 8) (hx : x < 2 ^ 384) (hy : y < 2 ^ 384) (hp : print < 2 ^ 16) :
    leAt (keyPayload state x y print) 0 1 = state ∧ leAt (keyPayload state x y print) 1 48 = x ∧
      leAt (keyPayload state x y print) 49 48 = y ∧ leAt (keyPayload state x y print) 97 2 = print := by
  have shape : keyPayload state x y print = leBytes 1 state ++ (leBytes 48 x ++ (leBytes 48 y ++ (leBytes 2 print ++ []))) := by
    simp only [keyPayload, List.append_assoc, List.append_nil]
  rw [shape]
  refine ⟨?_, ?_, ?_, ?_⟩
  · exact (leAt_leBytes [] _ 1 state 0 rfl).trans (Nat.mod_eq_of_lt hs)
  · exact (leAt_leBytes _ _ 48 x 1 (length_leBytes ..)).trans (Nat.mod_eq_of_lt hx)
  · rw [← List.append_assoc]
    exact (leAt_leBytes _ _ 48 y 49 (by simp only [List.length_append, length_leBytes])).trans (Nat.mod_eq_of_lt hy)
  · rw [← List.append_assoc, ← List.append_assoc]
    exact (leAt_leBytes _ _ 2 print 97 (by simp only [List.length_append, length_leBytes])).trans (Nat.mod_eq_of_lt hp)

/-- The flash after a key slot's record has been written. -/
def Flash.withKey (f : Flash) (i : Nat) (k : KeySlot) : Flash :=
  f.setRecord (.key i) (writeBank 4096 (f.record (.key i)) (f.seq (.key i)) (keyPayload k.state k.x k.y k.print))

/-- A slot's values are within their widths. -/
def KeySlot.fits (k : KeySlot) : Prop := k.state < 2 ^ 8 ∧ k.x < 2 ^ 384 ∧ k.y < 2 ^ 384 ∧ k.print < 2 ^ 16

theorem Flash.key_withKey (f : Flash) (i : Nat) (k : KeySlot) (hk : k.fits) (hseq : f.seq (.key i) < 2 ^ 32) : (f.withKey i k).key i = k := by
  obtain ⟨hs, hx, hy, hp⟩ := hk
  have read : (f.withKey i k).read (.key i) = some (f.seq (.key i), keyPayload k.state k.x k.y k.print) := by
    unfold Flash.read Flash.withKey
    rw [Flash.read_setRecord_key, if_pos rfl]
    exact recordOf_writeBank 4096 (f.record (.key i)) _ hseq (by rw [length_keyPayload]; norm_num) (by rw [length_keyPayload]; norm_num)
  obtain ⟨state, x, y, print⟩ := keyPayload_fields k.state k.x k.y k.print hs hx hy hp
  unfold Flash.key
  rw [read]
  dsimp only
  rw [state, x, y, print]

/-- The other slots are read from records of their own. -/
theorem Flash.key_setRecord_ne (f : Flash) (i j : Nat) (r : FlashRec) (h : j ≠ i) : (f.setRecord (.key i) r).key j = f.key j := by
  unfold Flash.key Flash.read
  rw [Flash.read_setRecord_key, if_neg h]

theorem Flash.key_fits (f : Flash) (i : Nat) : (f.key i).fits := by
  unfold Flash.key KeySlot.fits
  cases f.read (.key i) with
  | none => exact ⟨Nat.two_pow_pos _, Nat.two_pow_pos _, Nat.two_pow_pos _, Nat.two_pow_pos _⟩
  | some b => exact ⟨leAt_lt .., leAt_lt .., leAt_lt .., leAt_lt ..⟩

/-! ### A key command's outcome (R402) -/

theorem State.keyDone_refused (s : State) (smb : Bool) (a : KeyArgs) : s.keyDone smb a none = s.mboxDone smb 0x9002 [] := rfl

theorem State.keyDone_unsigned (s : State) (smb : Bool) (a : KeyArgs) (k : KeySlot) (h : s.mgc.flash.signed a = false) :
    s.keyDone smb a (some k) = s.mboxDone smb 0x9008 [] := by
  unfold State.keyDone
  dsimp only
  rw [h, if_neg Bool.false_ne_true]

/-- A signed record that the flash does not verify. -/
theorem State.keyDone_unwritten (s : State) (smb : Bool) (a : KeyArgs) (k : KeySlot) (h : s.mgc.flash.signed a = true)
    (hbad : s.mgc.flashWrites ∈ s.mgc.flashBad) :
    let t := s.keyDone smb a (some k)
    SameMemory s t ∧ (t.mgc.mbox smb).busy = false ∧ (∀ i, i ≠ a.slot → t.mgc.flash.key i = s.mgc.flash.key i) ∧
      t.mgc.flash = s.mgc.flash.setRecord (.key a.slot) (spoilBank 4096 (s.mgc.flash.record (.key a.slot))) ∧
      Posted s t srcMgc 2 0x9009 0 0 := by
  obtain ⟨mem, busy, flash, posted⟩ :=
    s.unwritten_spec smb (.key a.slot) (spoilBank (FlashPart.key a.slot).size (s.mgc.flash.record (.key a.slot)))
  have shape : s.keyDone smb a (some k) = ((s.withRecord (.key a.slot)
      (spoilBank (FlashPart.key a.slot).size (s.mgc.flash.record (.key a.slot)))).raiseMgc 0x9009).mboxUnwritten smb := by
    unfold State.keyDone
    dsimp only
    rw [h, if_pos rfl, State.flashWrite_of_failed _ _ _ _ hbad]
    exact if_neg Bool.false_ne_true
  dsimp only
  rw [shape]
  exact ⟨mem, busy, fun i hi => by rw [flash]; exact Flash.key_setRecord_ne _ _ _ _ hi, flash, posted⟩

/-- A signed record that the flash takes is the slot's new one. -/
theorem State.keyDone_written (s : State) (smb : Bool) (a : KeyArgs) (k : KeySlot) (h : s.mgc.flash.signed a = true) (hk : k.fits)
    (hgood : s.mgc.flashWrites ∉ s.mgc.flashBad) (hseq : s.mgc.flash.seq (.key a.slot) < 2 ^ 32) :
    let t := s.keyDone smb a (some k)
    (t = { s with mgc := t.mgc } ∧ (t.mgc.mbox smb).busy = false ∧ (t.mgc.mbox smb).status = 0) ∧
      (∀ i, i ≠ a.slot → t.mgc.flash.key i = s.mgc.flash.key i) ∧ t.mgc.flash.key a.slot = k := by
  have shape : s.keyDone smb a (some k) = (s.withRecord (.key a.slot) (writeBank (FlashPart.key a.slot).size
      (s.mgc.flash.record (.key a.slot)) (s.mgc.flash.seq (.key a.slot)) (keyPayload k.state k.x k.y k.print))).mboxDone smb 0 [] := by
    unfold State.keyDone
    dsimp only
    rw [h, if_pos rfl, State.flashWrite_of_verified _ _ _ _ hgood]
    exact if_pos rfl
  have ended := MboxEnds.done (s.withRecord (.key a.slot) (writeBank (FlashPart.key a.slot).size
      (s.mgc.flash.record (.key a.slot)) (s.mgc.flash.seq (.key a.slot)) (keyPayload k.state k.x k.y k.print))) smb 0 []
  obtain ⟨frame, busy, status, -⟩ := ended.ends (s := s) rfl
  have flash : _ = s.mgc.flash.withKey a.slot k := ended.flash
  dsimp only
  rw [shape]
  refine ⟨⟨frame, busy, status⟩, fun i hi => ?_, ?_⟩
  · rw [flash]
    exact Flash.key_setRecord_ne _ _ _ _ hi
  · rw [flash]
    exact Flash.key_withKey _ _ _ hk hseq

/-- A command that ends with a code and leaves the flash as it was. -/
theorem State.mboxDone_refusal (s : State) (smb : Bool) (status : Nat) :
    let t := s.mboxDone smb status []
    (t = { s with mgc := t.mgc } ∧ (t.mgc.mbox smb).busy = false ∧ (t.mgc.mbox smb).status = status) ∧ t.mgc.flash = s.mgc.flash := by
  have ended := MboxEnds.done s smb status []
  obtain ⟨frame, busy, code, -⟩ := ended.ends (s := s) rfl
  exact ⟨⟨frame, busy, code⟩, ended.flash⟩

/-! ### KEY_ENROL and KEY_REVOKE (R402) -/

/-- The slot that an enrolment writes. -/
def enrolled (c : Nat × Nat) : KeySlot := { state := 1, x := c.1, y := c.2, print := printOf c.1 c.2 }

theorem exec_keyEnrol (s : State) (smb : Bool) : exec (.keyEnrol smb) s =
    .next (s.serveMbox smb 5 s.deckNone fun x => s.keyDone smb (keyArgs x) (
      if s.mgc.flash.mayAuth (keyArgs x) && (s.mgc.flash.key (keyArgs x).slot).state == 0 then (keyArgs x).coords.map enrolled
      else none)) := rfl

theorem exec_keyRevoke (s : State) (smb : Bool) : exec (.keyRevoke smb) s =
    .next (s.serveMbox smb 6 s.deckNone fun x => s.keyDone smb (keyArgs x) (
      if s.mgc.flash.mayAuth (keyArgs x) && (s.mgc.flash.key (keyArgs x).slot).state == 1 && (keyArgs x).point.all (· == 0#8) then
        some { s.mgc.flash.key (keyArgs x).slot with state := 2 }
      else none)) := rfl

theorem keyArgs_submitted (x : Mbox) : keyArgs x.submitted = keyArgs x := rfl

theorem Flash.mayAuth_iff (f : Flash) (a : KeyArgs) :
    f.mayAuth a = true ↔ a.slot < 8 ∧ a.auth < 8 ∧ a.auth ≠ a.slot ∧ (f.key a.auth).state = 1 := by
  unfold Flash.mayAuth
  simp only [Bool.and_eq_true, decide_eq_true_eq, bne_iff_ne, beq_iff_eq, and_assoc]

/-- A point's coordinates have 48 bytes each (R401). -/
theorem enrolled_fits (a : KeyArgs) (c : Nat × Nat) (h : a.coords = some c) : (enrolled c).fits := by
  unfold KeyArgs.coords at h
  dsimp only at h
  split at h
  · cases h
    have within (l : List Byte) : beNat (l.take 48) < 2 ^ 384 :=
      (beNat_lt _).trans_le (Nat.pow_le_pow_right (by norm_num) (by rw [List.length_take]; omega))
    exact ⟨Nat.one_lt_two_pow (by decide), within _, within _, leAt_lt ..⟩
  · cases h

theorem Flash.revoked_fits (f : Flash) (i : Nat) : ({ f.key i with state := 2 } : KeySlot).fits := by
  obtain ⟨-, hx, hy, hp⟩ := f.key_fits i
  exact ⟨show 2 < 2 ^ 8 by norm_num, hx, hy, hp⟩

/-- The slot that KEY_ENROL asks to write, when its conditions hold. -/
def State.enrolment (s : State) (a : KeyArgs) : Option KeySlot :=
  if s.mgc.flash.mayAuth a && (s.mgc.flash.key a.slot).state == 0 then a.coords.map enrolled else none

/-- The slot that KEY_REVOKE asks to write, when its conditions hold. -/
def State.revocation (s : State) (a : KeyArgs) : Option KeySlot :=
  if s.mgc.flash.mayAuth a && (s.mgc.flash.key a.slot).state == 1 && a.point.all (· == 0#8) then
    some { s.mgc.flash.key a.slot with state := 2 }
  else none

theorem State.enrolment_eq_some (s : State) (a : KeyArgs) (k : KeySlot) : s.enrolment a = some k ↔
    (a.slot < 8 ∧ a.auth < 8 ∧ a.auth ≠ a.slot ∧ (s.mgc.flash.key a.auth).state = 1) ∧ (s.mgc.flash.key a.slot).state = 0 ∧
      ∃ c, a.coords = some c ∧ enrolled c = k := by
  unfold State.enrolment
  rw [← Flash.mayAuth_iff]
  by_cases h : (s.mgc.flash.mayAuth a && (s.mgc.flash.key a.slot).state == 0) = true
  · rw [if_pos h, Option.map_eq_some_iff]
    rw [Bool.and_eq_true, beq_iff_eq] at h
    exact ⟨fun e => ⟨h.1, h.2, e⟩, fun e => e.2.2⟩
  · rw [if_neg h]
    rw [Bool.and_eq_true, beq_iff_eq] at h
    exact ⟨fun e => absurd e.symm (Option.some_ne_none _), fun e => absurd ⟨e.1, e.2.1⟩ h⟩

theorem State.revocation_eq_some (s : State) (a : KeyArgs) (k : KeySlot) : s.revocation a = some k ↔
    (a.slot < 8 ∧ a.auth < 8 ∧ a.auth ≠ a.slot ∧ (s.mgc.flash.key a.auth).state = 1) ∧ (s.mgc.flash.key a.slot).state = 1 ∧
      (∀ b ∈ a.point, b = 0) ∧ { s.mgc.flash.key a.slot with state := 2 } = k := by
  unfold State.revocation
  rw [← Flash.mayAuth_iff]
  have zeros : a.point.all (· == 0#8) = true ↔ ∀ b ∈ a.point, b = 0 := by simp only [List.all_eq_true, beq_iff_eq]; rfl
  by_cases h : (s.mgc.flash.mayAuth a && (s.mgc.flash.key a.slot).state == 1 && a.point.all (· == 0#8)) = true
  · rw [if_pos h, Option.some_inj]
    rw [Bool.and_eq_true, Bool.and_eq_true, beq_iff_eq, zeros] at h
    exact ⟨fun e => ⟨h.1.1, h.1.2, h.2, e⟩, fun e => e.2.2.2⟩
  · rw [if_neg h]
    rw [Bool.and_eq_true, Bool.and_eq_true, beq_iff_eq, zeros] at h
    exact ⟨fun e => absurd e.symm (Option.some_ne_none _), fun e => absurd ⟨⟨e.1, e.2.1⟩, e.2.2.1⟩ h⟩

theorem exec_keyEnrol_of_none (s : State) (smb : Bool) (h : s.serves_ smb 5 = true) (hd : s.dck.state = .none_) :
    exec (.keyEnrol smb) s = .next (s.keyDone smb (keyArgs (s.mgc.mbox smb)) (s.enrolment (keyArgs (s.mgc.mbox smb)))) := by
  rw [exec_keyEnrol, s.deckNone_eq_true hd]
  exact congrArg _ (s.serveMbox_of_served smb 5 _ h)

theorem exec_keyRevoke_of_none (s : State) (smb : Bool) (h : s.serves_ smb 6 = true) (hd : s.dck.state = .none_) :
    exec (.keyRevoke smb) s = .next (s.keyDone smb (keyArgs (s.mgc.mbox smb)) (s.revocation (keyArgs (s.mgc.mbox smb)))) := by
  rw [exec_keyRevoke, s.deckNone_eq_true hd]
  exact congrArg _ (s.serveMbox_of_served smb 6 _ h)

theorem exec_keyCommand_of_deck (s : State) (smb : Bool) (hd : ¬ s.dck.state = .none_) :
    (s.serves_ smb 5 = true → exec (.keyEnrol smb) s = .next (s.mboxDone smb 0x9002 [])) ∧
    (s.serves_ smb 6 = true → exec (.keyRevoke smb) s = .next (s.mboxDone smb 0x9002 [])) := by
  rw [exec_keyEnrol, exec_keyRevoke, s.deckNone_eq_false hd]
  exact ⟨fun h => congrArg _ (s.serveMbox_of_refused smb 5 _ h), fun h => congrArg _ (s.serveMbox_of_refused smb 6 _ h)⟩

/-- A key command whose conditions do not hold ends with 0x9002. -/
theorem keyCommand_refused (s : State) (smb : Bool) (a : KeyArgs) (new : Option KeySlot) (r : Res) (hnew : s.dck.state = .none_ → ∀ k, new ≠ some k)
    (run : s.dck.state = .none_ → r = .next (s.keyDone smb a new)) (deck : ¬ s.dck.state = .none_ → r = .next (s.mboxDone smb 0x9002 [])) :
    ∃ t : State, r = .next t ∧ (t = { s with mgc := t.mgc } ∧ (t.mgc.mbox smb).busy = false ∧ (t.mgc.mbox smb).status = 0x9002) ∧
      t.mgc.flash = s.mgc.flash := by
  have refusal := s.mboxDone_refusal smb 0x9002
  by_cases hd : s.dck.state = .none_
  · have none_ : new = none := Option.eq_none_iff_forall_ne_some.2 (hnew hd)
    rw [none_, State.keyDone_refused] at run
    exact ⟨_, run hd, refusal⟩
  · exact ⟨_, deck hd, refusal⟩

/-- Settles O52, by the outcomes of a key command. -/
theorem keysChangeUnderASignature : Obligations.KeysChangeUnderASignature := by
  unfold Obligations.KeysChangeUnderASignature
  intro s smb
  dsimp only
  have deck := exec_keyCommand_of_deck s smb
  have runE := exec_keyEnrol_of_none s smb
  have runR := exec_keyRevoke_of_none s smb
  have unsigned (k : KeySlot) (h : ¬ s.mgc.flash.signed (keyArgs (s.mgc.mbox smb)) = true) :=
    s.keyDone_unsigned smb (keyArgs (s.mgc.mbox smb)) k (Bool.not_eq_true _ ▸ h)
  have unwritten (k : KeySlot) := s.keyDone_unwritten smb (keyArgs (s.mgc.mbox smb)) k
  have written (k : KeySlot) := s.keyDone_written smb (keyArgs (s.mgc.mbox smb)) k
  have refusal := s.mboxDone_refusal smb 0x9008
  obtain ⟨k, hk⟩ : ∃ k, k = { s.mgc.flash.key (keyArgs (s.mgc.mbox smb)).slot with state := 2 } := ⟨_, rfl⟩
  have revoked (auth valid zeros) := (s.revocation_eq_some (keyArgs (s.mgc.mbox smb)) k).2 ⟨auth, valid, zeros, hk.symm⟩
  refine ⟨fun h => ⟨fun hno => ?_, fun hmay hsig => ?_, fun hmay hsig hbad => ?_, fun xy hmay hxy hsig hgood hseq => ?_⟩,
    fun h => ⟨fun hno => ?_, fun hmay hsig => ?_, fun hmay hsig hbad => ?_, fun hmay hsig hgood hseq => ?_⟩,
    fun h => congrArg _ (s.serveMbox_of_waiting smb 5 _ _ h), fun h => congrArg _ (s.serveMbox_of_waiting smb 6 _ _ h)⟩
  · refine keyCommand_refused s smb _ _ _ (fun hd k hk => hno ?_) (runE h) fun hd => (deck hd).1 h
    obtain ⟨auth, free, c, hc, -⟩ := (s.enrolment_eq_some _ k).1 hk
    exact ⟨⟨hd, auth⟩, free, by rw [hc]; exact Option.some_ne_none _⟩
  · obtain ⟨⟨hd, auth⟩, free, point⟩ := hmay
    obtain ⟨c, hc⟩ := Option.ne_none_iff_exists'.1 point
    have run := runE h hd
    rw [(s.enrolment_eq_some _ (enrolled c)).2 ⟨auth, free, c, hc, rfl⟩, unsigned _ hsig] at run
    exact ⟨_, run, refusal⟩
  · obtain ⟨⟨hd, auth⟩, free, point⟩ := hmay
    obtain ⟨c, hc⟩ := Option.ne_none_iff_exists'.1 point
    have run := runE h hd
    rw [(s.enrolment_eq_some _ (enrolled c)).2 ⟨auth, free, c, hc, rfl⟩] at run
    exact ⟨_, run, unwritten _ hsig hbad⟩
  · obtain ⟨⟨hd, auth⟩, free, -⟩ := hmay
    have run := runE h hd
    rw [(s.enrolment_eq_some _ (enrolled xy)).2 ⟨auth, free, xy, hxy, rfl⟩] at run
    obtain ⟨ends, others, key⟩ := written (enrolled xy) hsig (enrolled_fits _ xy hxy) hgood hseq
    exact ⟨_, run, ends, others, by rw [key]; rfl, by rw [key]; rfl, by rw [key]; rfl⟩
  · refine keyCommand_refused s smb _ _ _ (fun hd k hk => hno ?_) (runR h) fun hd => (deck hd).2 h
    obtain ⟨auth, valid, zeros, -⟩ := (s.revocation_eq_some _ k).1 hk
    exact ⟨⟨hd, auth⟩, valid, zeros⟩
  · obtain ⟨⟨hd, auth⟩, valid, zeros⟩ := hmay
    have run := runR h hd
    rw [revoked auth valid zeros, unsigned _ hsig] at run
    exact ⟨_, run, refusal⟩
  · obtain ⟨⟨hd, auth⟩, valid, zeros⟩ := hmay
    have run := runR h hd
    rw [revoked auth valid zeros] at run
    exact ⟨_, run, unwritten k hsig hbad⟩
  · obtain ⟨⟨hd, auth⟩, valid, zeros⟩ := hmay
    have run := runR h hd
    rw [revoked auth valid zeros] at run
    obtain ⟨ends, others, key⟩ := written k hsig (hk ▸ s.mgc.flash.revoked_fits _) hgood hseq
    exact ⟨_, run, ends, others, key.trans hk⟩

end Sys2Proof.Machine
end

section
/-! PROOFS. Power and restarts of the management controller (R403, R405, R412). -/

namespace Sys2Proof.Machine

/-! ### What a boot leaves alone -/

/-- Nothing of the memory, the tiles, the flash or the firmware's own status changes. -/
structure BootKeeps (s t : State) : Prop where
  mem : t.mem = s.mem
  tiles : t.tiles = s.tiles
  grade : t.grade = s.grade
  flash : t.mgc.flash = s.mgc.flash
  rails : t.mgc.rails = s.mgc.rails
  released : t.hif.released = s.hif.released
  ready : t.mgc.ready = s.mgc.ready
  bank : t.mgc.bank = s.mgc.bank
  fallback : t.mgc.fallback = s.mgc.fallback
  fwrev : t.mgc.fwrev = s.mgc.fwrev
  restarting : t.mgc.restarting = s.mgc.restarting

theorem BootKeeps.refl (s : State) : BootKeeps s s := ⟨rfl, rfl, rfl, rfl, rfl, rfl, rfl, rfl, rfl, rfl, rfl⟩

theorem BootKeeps.trans {s t u : State} (h : BootKeeps s t) (k : BootKeeps t u) : BootKeeps s u :=
  ⟨k.mem.trans h.mem, k.tiles.trans h.tiles, k.grade.trans h.grade, k.flash.trans h.flash, k.rails.trans h.rails,
    k.released.trans h.released, k.ready.trans h.ready, k.bank.trans h.bank, k.fallback.trans h.fallback, k.fwrev.trans h.fwrev,
    k.restarting.trans h.restarting⟩

theorem BootKeeps.of_records {s t : State} (h : OnlyRecords s t) : BootKeeps s t := by
  unfold OnlyRecords at h
  constructor <;> rw [h]

theorem BootKeeps.raise (s : State) (src kind status tag detail : Nat) : BootKeeps s (s.raise src kind status tag detail) :=
  .of_records (State.raise_onlyRecords ..)

theorem BootKeeps.foldl {α : Type} {step : State → α → State} (h : ∀ s x, BootKeeps s (step s x)) (l : List α) (s : State) :
    BootKeeps s (l.foldl step s) := by
  induction l generalizing s with
  | nil => exact .refl s
  | cons a l ih => exact (h s a).trans (ih _)

theorem BootKeeps.setTable (s : State) (n : Nat) (x : Table) : BootKeeps s (s.setTable n x) :=
  ⟨rfl, rfl, rfl, rfl, rfl, rfl, rfl, rfl, rfl, rfl, rfl⟩

theorem BootKeeps.queueProbe (s : State) (p : Nat) : BootKeeps s (s.queueProbe p) :=
  ⟨rfl, rfl, rfl, rfl, rfl, rfl, rfl, rfl, rfl, rfl, rfl⟩

/-! ### Firmware starts (R403) -/

/-- The status of firmware that runs on a bank (R403). -/
def State.booted (s : State) (bank : Nat) (fallback : Bool) (fw : FwCheck) : State :=
  { s with mgc := { s.mgc with
    ready := true, bank, fallback, fwrev := fw.rev % 2 ^ 16, restarting := none, flashWrites := 0, flashBad := fw.badWrites } }

theorem BootKeeps.startFirmware (s : State) (bank : Nat) (fallback : Bool) (fw : FwCheck) :
    BootKeeps (s.booted bank fallback fw) (s.startFirmware bank fallback fw) := by
  have notices (u : State) : BootKeeps u (if fallback then (u.raiseMgc 0x9006).noticeMgc 0x9007 else u) := by
    split
    · exact (BootKeeps.raise u srcMgc 2 0x9006 0 0).trans (.raise (u.raiseMgc 0x9006) srcMgc 3 0x9007 0 0)
    · exact .refl u
  unfold State.startFirmware
  dsimp only
  refine (notices _).trans (.foldl (fun u p => ?_) _ _)
  split
  · exact .refl u
  · exact .queueProbe u p

/-- What a device that comes up changes (R412): the rails are on and the HIF is released. -/
structure BringsUp (s t : State) : Prop where
  mem : t.mem = s.mem
  tiles : t.tiles = s.tiles
  grade : t.grade = s.grade
  flash : t.mgc.flash = s.mgc.flash
  rails : t.mgc.rails = railOrder
  released : t.hif.released = true

theorem BringsUp.trans {s t u : State} (h : BringsUp s t) (k : BootKeeps t u) : BringsUp s u :=
  ⟨k.mem.trans h.mem, k.tiles.trans h.tiles, k.grade.trans h.grade, k.flash.trans h.flash, k.rails.trans h.rails, k.released.trans h.released⟩

theorem BringsUp.of_keeps {s t u : State} (h : BootKeeps s t) (k : BringsUp t u) : BringsUp s u :=
  ⟨k.mem.trans h.mem, k.tiles.trans h.tiles, k.grade.trans h.grade, k.flash.trans h.flash, k.rails, k.released⟩

/-- The state once trims are restored, the rails are up and the HIF is released. -/
def State.railsUp (s : State) (cal : Option (Nat × List Byte)) : State := { s with
  tly := { s.tly with trim := calibMap cal 0, events := calibMap cal 1, ladder := calibMap cal 0 },
  mgc := { s.mgc with rails := railOrder },
  hif := { s.hif with released := true } }

theorem BringsUp.railsUp (s : State) (cal : Option (Nat × List Byte)) : BringsUp s (s.railsUp cal) := ⟨rfl, rfl, rfl, rfl, rfl, rfl⟩

theorem BringsUp.bringUp (s : State) : BringsUp s s.bringUp := by
  unfold State.bringUp
  dsimp only
  have lost := BootKeeps.foldl (fun (u : State) (_ : FlashPart) => BootKeeps.raise u srcMgc 2 0x9003 0 0)
    ((.calib :: .boot :: (List.range 8).map FlashPart.key).filter fun w => (s.mgc.flash.read w).isNone) s
  have up := BringsUp.of_keeps lost (.railsUp _ (s.mgc.flash.read .calib))
  split
  · exact up.trans (.raise _ srcMgc 2 0x9003 0 0)
  · refine (up.trans ?_).trans (.foldl (fun u n => BootKeeps.setTable u n _) _ _)
    exact ⟨rfl, rfl, rfl, rfl, rfl, rfl, rfl, rfl, rfl, rfl, rfl⟩

/-! ### Power (R412) -/

theorem State.bootBank_spec (s : State) (fw : FwCheck) :
    (s.accepts s.mgc.flash.bootBank fw.namedOk = true → s.bootBank fw = some (s.mgc.flash.bootBank, false)) ∧
    (s.accepts s.mgc.flash.bootBank fw.namedOk = false → s.accepts (1 - s.mgc.flash.bootBank) fw.otherOk = true →
      s.bootBank fw = some (1 - s.mgc.flash.bootBank, true)) ∧
    (s.accepts s.mgc.flash.bootBank fw.namedOk = false → s.accepts (1 - s.mgc.flash.bootBank) fw.otherOk = false → s.bootBank fw = none) := by
  unfold State.bootBank
  dsimp only
  refine ⟨fun h => ?_, fun h k => ?_, fun h k => ?_⟩
  · rw [h, if_pos rfl]
  · rw [h, k, if_neg (by decide), if_pos rfl]
  · rw [h, k, if_neg (by decide), if_neg (by decide)]

theorem exec_powerOn (s : State) (fw : FwCheck) : exec (.powerOn fw) s = .next (
    if s.mgc.ready || s.mgc.restarting.isSome then s
    else match s.powerOff.bootBank fw with
      | none => s.powerOff
      | some (bank, fb) => s.powerOff.bringUp.startFirmware bank fb fw) := rfl

/-- A device that powers on runs the firmware of its bank, with nothing in memory (R403, R412). -/
theorem State.poweredOn (s : State) (bank : Nat) (fb : Bool) (fw : FwCheck) :
    let t := s.powerOff.bringUp.startFirmware bank fb fw
    ((∀ p o, t.readByte p o = 0) ∧ t.tiles = [] ∧ t.grade = s.grade) ∧
      (t.mgc.ready = true ∧ t.mgc.bank = bank ∧ t.mgc.fallback = fb ∧ t.mgc.fwrev = fw.rev % 2 ^ 16) ∧ t.hif.released = true ∧
      t.mgc.rails = railOrder ∧ t.mgc.flash = s.powerOff.mgc.flash := by
  have up := BringsUp.bringUp s.powerOff
  have clean : s.powerOff.mem = [] := rfl
  have bare : s.powerOff.tiles = [] := rfl
  have grade : s.powerOff.grade = s.grade := rfl
  generalize s.powerOff = w at *
  generalize w.bringUp = u at *
  have start := BootKeeps.startFirmware u bank fb fw
  dsimp only
  generalize u.startFirmware bank fb fw = t at *
  refine ⟨⟨fun p o => ?_, ?_, ?_⟩, ⟨start.ready, start.bank, start.fallback, start.fwrev⟩, ?_, ?_, ?_⟩
  · have empty : t.mem = [] := (start.mem.trans up.mem).trans clean
    rw [State.readByte, empty]
    rfl
  · exact (start.tiles.trans up.tiles).trans bare
  · exact (start.grade.trans up.grade).trans grade
  · exact start.released.trans up.released
  · exact start.rails.trans up.rails
  · exact start.flash.trans up.flash

theorem exec_railEnableTimeout (s : State) (rail : Nat) (hr : rail < 7) : exec (.railEnableTimeout rail) s = .next (
    if s.mgc.rails.contains rail && decide (s.age ≤ 35000 * s.usBeats) && s.deckNone then
      ({ s with
        mgc := { s.mgc with rails := [], dead := true, ready := true }, hif := { s.hif with released := false } } : State).noticeMgc 0x9005
    else s) := if_pos hr

theorem railMissesItsTime (s : State) (rail : Nat) (hr : rail < 7) :
    (rail ∈ s.mgc.rails → s.age ≤ 35000 * s.usBeats → s.dck.state = .none_ →
      ∃ t : State, exec (.railEnableTimeout rail) s = .next t ∧ SameMemory s t ∧ t.mgc.rails = [] ∧ t.mgc.dead = true ∧
        t.hif.released = false ∧ Posted s t srcMgc 3 0x9005 0 0) ∧
    ((rail ∉ s.mgc.rails ∨ 35000 * s.usBeats < s.age ∨ s.dck.state ≠ .none_) → exec (.railEnableTimeout rail) s = .next s) := by
  have run := exec_railEnableTimeout s rail hr
  refine ⟨fun on early deck => ?_, fun other => ?_⟩
  · rw [List.contains_iff_mem.2 on, decide_eq_true early, s.deckNone_eq_true deck, if_pos (by decide)] at run
    have records := State.raise_onlyRecords ({ s with
        mgc := { s.mgc with rails := [], dead := true, ready := true }, hif := { s.hif with released := false } } : State) srcMgc 3 0x9005 0 0
    have posted := State.raise_posted ({ s with
        mgc := { s.mgc with rails := [], dead := true, ready := true }, hif := { s.hif with released := false } } : State) srcMgc 3 0x9005 0 0
    rw [State.noticeMgc] at run
    generalize State.raise _ srcMgc 3 0x9005 0 0 = t at *
    unfold OnlyRecords at records
    exact ⟨t, run, SameMemory.of_mem (by rw [records]), by rw [records], by rw [records], by rw [records],
      posted.of_before rfl rfl rfl⟩
  · rw [if_neg] at run
    · exact run
    · rw [Bool.and_eq_true, Bool.and_eq_true, List.contains_iff_mem, decide_eq_true_eq]
      rintro ⟨⟨on, early⟩, deck⟩
      rcases other with h | h | h
      · exact h on
      · omega
      · rw [s.deckNone_eq_false h] at deck; cases deck

/-! ### Restarts (R401, R403) -/

/-- The state whose firmware a restart runs: a device that waited in the ROM goes on with its power-up. -/
def State.restartBase (s : State) : State := if s.mgc.rails.isEmpty && !s.mgc.dead && !s.hif.released then s.bringUp else s

theorem exec_mgcRestartComplete (s : State) (fw : FwCheck) (smb : Bool) (h : s.mgc.restarting = some smb) :
    exec (.mgcRestartComplete fw) s = .next (
      match s.bootBank fw with
      | none => ({ s with mgc := { s.mgc with restarting := none } } : State).mboxDone smb 0x9006 []
      | some (bank, fb) => (s.restartBase.startFirmware bank fb fw).mboxDone smb 0 []) := by
  show execMgcRestartComplete fw s = _
  unfold execMgcRestartComplete
  rw [h] <;> rfl

theorem State.restart_runs (s : State) (bank : Nat) (fb : Bool) (fw : FwCheck) (smb : Bool) :
    let t := (s.restartBase.startFirmware bank fb fw).mboxDone smb 0 []
    (t.mgc.ready = true ∧ t.mgc.bank = bank ∧ t.mgc.fallback = fb ∧ t.mgc.fwrev = fw.rev % 2 ^ 16) ∧ t.mgc.restarting = none ∧
      (t.mgc.mbox smb).busy = false ∧ (t.mgc.mbox smb).status = 0 := by
  have start := BootKeeps.startFirmware s.restartBase bank fb fw
  dsimp only
  generalize s.restartBase.startFirmware bank fb fw = u at *
  have ended := MboxEnds.done u smb 0 []
  generalize u.mboxDone smb 0 [] = t at *
  refine ⟨⟨?_, ?_, ?_, ?_⟩, ?_, ended.busy, ended.status⟩
  · rw [ended.frame]; exact start.ready
  · rw [ended.frame]; exact start.bank
  · rw [ended.frame]; exact start.fallback
  · rw [ended.frame]; exact start.fwrev
  · rw [ended.frame]; exact start.restarting

/-- Settles O50, by `State.bootBank_spec` and what firmware that starts leaves. -/
theorem powerRunsTheVerifiedFirmware : Obligations.PowerRunsTheVerifiedFirmware := by
  unfold Obligations.PowerRunsTheVerifiedFirmware
  intro s fw
  dsimp only
  obtain ⟨named, other, neither⟩ := s.powerOff.bootBank_spec fw
  obtain ⟨runsNamed, runsOther, runsNone⟩ := s.bootBank_spec fw
  refine ⟨fun busy => ?_, rfl, fun off idle => ⟨fun h => ?_, fun h k => ?_, fun h k => ?_⟩, rfl,
    fun rail hr => (railMissesItsTime s rail hr).1, fun rail hr => (railMissesItsTime s rail hr).2, fun h => ?_, fun smb h k => ?_,
    fun smb h k l => ?_, fun smb h k l => ?_⟩
  · rw [exec_powerOn, if_pos]
    rw [Bool.or_eq_true, Option.isSome_iff_ne_none]
    exact busy
  · have run := exec_powerOn s fw
    rw [off, idle, if_neg (by decide), named h] at run
    obtain ⟨fresh, runs, released, rails, flash⟩ := s.poweredOn s.powerOff.mgc.flash.bootBank false fw
    exact ⟨_, run, fresh, runs, released, rails, flash⟩
  · have run := exec_powerOn s fw
    rw [off, idle, if_neg (by decide), other (by simpa using h) k] at run
    obtain ⟨fresh, runs, released, rails, flash⟩ := s.poweredOn (1 - s.powerOff.mgc.flash.bootBank) true fw
    exact ⟨_, run, fresh, runs, released, rails, flash⟩
  · rw [exec_powerOn, off, idle, if_neg (by decide), neither (by simpa using h) (by simpa using k)]
  · show execMgcRestartComplete fw s = _
    unfold execMgcRestartComplete
    rw [h]
  · have run := exec_mgcRestartComplete s fw smb h
    rw [runsNamed k] at run
    exact ⟨_, run, s.restart_runs s.mgc.flash.bootBank false fw smb⟩
  · have run := exec_mgcRestartComplete s fw smb h
    rw [runsOther k l] at run
    exact ⟨_, run, s.restart_runs (1 - s.mgc.flash.bootBank) true fw smb⟩
  · have run := exec_mgcRestartComplete s fw smb h
    rw [runsNone k l] at run
    have ended := MboxEnds.done ({ s with mgc := { s.mgc with restarting := none } } : State) smb 0x9006 []
    refine ⟨_, run, (ended.ends rfl).1, ?_, ?_, ended.busy, ended.status⟩
    · rw [ended.frame]
    · rw [ended.frame]

end Sys2Proof.Machine
end

section
/-! PROOFS. The reset levels (R310, R314, R315). -/

namespace Sys2Proof.Machine

/-! ### Commands that a reset ends -/

/-- What the end of commands of any function changes. -/
structure Finishes (s t : State) : Prop where
  frame : t = { s with
    freeIdx := t.freeIdx, hif := { s.hif with fns := t.hif.fns, queues := t.hif.queues }, svc := { s.svc with ended := t.svc.ended } }
  ended : s.svc.ended = [] → t.svc.ended = []
  rrs : ∀ f, (t.fn f).rrs = (s.fn f).rrs
  run : ∀ f i, (t.cr f i).run = (s.cr f i).run ∨ (t.cr f i).run = none

theorem Finishes.refl (s : State) : Finishes s s := ⟨rfl, id, fun _ => rfl, fun _ _ => .inl rfl⟩

theorem Finishes.trans {s t u : State} (h : Finishes s t) (k : Finishes t u) : Finishes s u := by
  refine ⟨?_, k.ended ∘ h.ended, fun f => (k.rrs f).trans (h.rrs f), fun f i => ?_⟩
  · refine k.frame.trans ?_
    rw [h.frame]
  · rcases k.run f i with e | e
    · rw [e]; exact h.run f i
    · exact .inr e

theorem Finishes.foldl {α : Type} {step : State → α → State} (h : ∀ s x, Finishes s (step s x)) (l : List α) (s : State) :
    Finishes s (l.foldl step s) := by
  induction l generalizing s with
  | nil => exact .refl s
  | cons a l ih => exact (h s a).trans (ih _)

theorem State.fn_of_key_eq (s : State) {f g : Fn} (h : fnKey g = fnKey f) : s.fn g = s.fn f := by
  unfold State.fn
  rw [h]

theorem Finishes.of_commandsEnd {f : Fn} {s t : State} (h : CommandsEnd f s t) : Finishes s t := by
  have own (g : Fn) (hg : fnKey g = fnKey f) : (t.fn g).rrs = (s.fn g).rrs ∧ ∀ i, t.cr g i = t.cr f i ∧ s.cr g i = s.cr f i := by
    refine ⟨?_, fun i => ?_⟩
    · rw [t.fn_of_key_eq hg, s.fn_of_key_eq hg, h.own]
    · unfold State.cr
      rw [t.fn_of_key_eq hg, s.fn_of_key_eq hg]
      exact ⟨rfl, rfl⟩
  refine ⟨?_, h.ended, fun g => ?_, fun g i => ?_⟩
  · refine h.frame.trans ?_
    rw [h.frame]
  · by_cases hg : fnKey g = fnKey f
    · exact (own g hg).1
    · rw [h.others g hg]
  · by_cases hg : fnKey g = fnKey f
    · obtain ⟨ht, hs⟩ := (own g hg).2 i
      rw [ht, hs]
      exact h.run i
    · unfold State.cr
      rw [h.others g hg]
      exact .inl rfl

theorem Finishes.drawFree (s : State) : Finishes s s.drawFree.1 := ⟨rfl, id, fun _ => rfl, fun _ _ => .inl rfl⟩

/-- Commands of the own device that are no fences go on. -/
def RunsKeep (s t : State) : Prop :=
  ∀ f i x, (s.cr f i).run = some x → x.win = 0 → x.op ≠ 1 → (t.cr f i).run = some x

theorem RunsKeep.of_fns {s t : State} (h : t.hif.fns = s.hif.fns) : RunsKeep s t := fun f i x hx _ _ => by
  rw [State.cr, State.fn, h]
  exact hx

theorem RunsKeep.trans {s t u : State} (h : RunsKeep s t) (k : RunsKeep t u) : RunsKeep s u :=
  fun f i x hx hw ho => k f i x (h f i x hx hw ho) hw ho

theorem RunsKeep.foldl {α : Type} {step : State → α → State} (h : ∀ s x, RunsKeep s (step s x)) (l : List α) (s : State) :
    RunsKeep s (l.foldl step s) := by
  induction l generalizing s with
  | nil => exact .of_fns rfl
  | cons a l ih => exact (h s a).trans (ih _)

theorem State.settleQueue_fns (s : State) (key : Nat) : (s.settleQueue key).hif.fns = s.hif.fns := by
  unfold State.settleQueue
  dsimp only
  split <;> rfl

/-- A place that held a fence, or a command of a window, is free. -/
theorem RunsKeep.clearRun (s : State) (f : Fn) (i : Nat) (c : CmdRun) (h : (s.cr f i).run = some c) (hc : c.win ≠ 0 ∨ c.op = 1) :
    RunsKeep s (s.clearRun f i) := by
  rw [s.clearRun_of_some f i c h]
  refine RunsKeep.trans (fun g j x hx hw ho => ?_) (.of_fns (State.settleQueue_fns ..))
  by_cases hg : fnKey g = fnKey f
  · have same (u : State) (j : Nat) : u.cr g j = u.cr f j := by rw [State.cr, State.cr, u.fn_of_key_eq hg]
    rw [same] at hx ⊢
    rw [State.cr_vacate]
    split
    · next hj =>
      rw [hj, h, Option.some_inj] at hx
      rw [hx] at hc
      exact absurd hw (hc.resolve_right ho)
    · exact hx
  · have other : (s.vacate f i).fn g = s.fn g := State.fn_setCr_ne _ _ _ _ _ hg
    rw [State.cr, other]
    exact hx

theorem State.complete_fns (s : State) (f : Fn) (status tag : Nat) (quiet : Bool) : (s.complete f status tag quiet).hif.fns = s.hif.fns := by
  unfold State.complete
  split <;> rfl

theorem RunsKeep.settleFences (s : State) (f : Fn) : RunsKeep s (s.settleFences f) := by
  have fence (u : State) (i : Nat) : RunsKeep u (State.settleFence f u i) := by
    unfold State.settleFence
    split
    · next c hc =>
      split
      · next ready =>
        have isFence : c.op = 1 := by
          unfold State.fenceReady at ready
          rw [Bool.and_eq_true, Bool.and_eq_true, beq_iff_eq] at ready
          exact ready.1.1
        unfold State.dropRun
        rw [hc]
        dsimp only
        have fns := u.complete_fns f 0 c.tag (bit c.flags 0)
        refine RunsKeep.trans (.of_fns fns) (.clearRun _ f i c ?_ (.inr isFence))
        rw [State.cr, State.fn, fns]
        exact hc
      · exact .of_fns rfl
    · exact .of_fns rfl
  rw [State.settleFences_eq]
  exact .foldl (fun u _ => .foldl fence runRings u) runRings s

/-! ### Forwarded commands (R311, R314) -/

/-- One ring of `State.endForwarded`. -/
def State.endForwardedRing (f : Fn) (s : State) (i : Nat) : State :=
  match (s.cr f i).run with
  | some c =>
    if c.win = 0 then s
    else
      let (s1, w) := s.drawFree
      (s1.completeAt f c.win (0x2001 + w.toNat % 0xFFF) c.tag (bit c.flags 0)).freeRing f i
  | none => s

theorem State.endForwarded_eq (s : State) (f : Fn) : s.endForwarded f = (List.range 4).foldl (State.endForwardedRing f) s := rfl

theorem State.completeAt_queues (s : State) (f : Fn) (win status tag : Nat) (quiet : Bool) :
    CommandsEnd f s (s.completeAt f win status tag quiet) ∧ (s.completeAt f win status tag quiet).hif.fns = s.hif.fns := by
  unfold State.completeAt
  split
  · exact ⟨.complete .., State.complete_fns ..⟩
  · split
    · exact ⟨.refl f s, rfl⟩
    · exact ⟨.setQueue .., rfl⟩

theorem State.endForwardedRing_spec (f : Fn) (s : State) (i : Nat) :
    Finishes s (s.endForwardedRing f i) ∧ RunsKeep s (s.endForwardedRing f i) ∧
      ∀ x, ((s.endForwardedRing f i).cr f i).run = some x → x.win = 0 := by
  unfold State.endForwardedRing
  split
  · next c hc =>
    split
    · next hw =>
      exact ⟨.refl s, .of_fns rfl, fun x hx => by rw [← Option.some.inj (hc.symm.trans hx)]; exact hw⟩
    · next hw =>
      dsimp only
      have drawn := Finishes.drawFree s
      have first : s.drawFree.1.hif.fns = s.hif.fns := rfl
      generalize s.drawFree.1 = u at *
      generalize (0x2001 + s.drawFree.2.toNat % 0xFFF) = status
      obtain ⟨ends, fns⟩ := u.completeAt_queues f c.win status c.tag (bit c.flags 0)
      generalize u.completeAt f c.win status c.tag (bit c.flags 0) = v at *
      have hv : (v.cr f i).run = some c := by
        rw [State.cr, State.fn, fns, first]
        exact hc
      obtain ⟨freed, none_⟩ := CommandsEnd.freeRing f v i
      refine ⟨(drawn.trans (.of_commandsEnd ends)).trans (.of_commandsEnd freed), ?_, fun x hx => ?_⟩
      · exact (RunsKeep.of_fns (fns.trans first)).trans ((RunsKeep.clearRun v f i c hv (.inl hw)).trans (.settleFences _ f))
      · rw [none_] at hx
        cases hx
  · next hc =>
    exact ⟨.refl s, .of_fns rfl, fun x hx => by rw [hc] at hx; cases hx⟩

theorem State.endForwarded_spec (s : State) (f : Fn) : Finishes s (s.endForwarded f) ∧ RunsKeep s (s.endForwarded f) ∧
    ∀ i < 4, ∀ x, ((s.endForwarded f).cr f i).run = some x → x.win = 0 := by
  rw [State.endForwarded_eq]
  refine ⟨.foldl (fun u i => (u.endForwardedRing_spec f i).1) _ s, .foldl (fun u i => (u.endForwardedRing_spec f i).2.1) _ s, ?_⟩
  have all : ∀ n, ∀ i < n, ∀ x, (((List.range n).foldl (State.endForwardedRing f) s).cr f i).run = some x → x.win = 0 := by
    intro n
    induction n with
    | zero => exact fun i hi => absurd hi (Nat.not_lt_zero i)
    | succ n ih =>
      intro i hi x
      rw [List.range_succ, List.foldl_append, List.foldl_cons, List.foldl_nil]
      obtain ⟨fin, -, own⟩ := ((List.range n).foldl (State.endForwardedRing f) s).endForwardedRing_spec f n
      intro hx
      by_cases hn : i = n
      · subst hn
        exact own x hx
      · rcases fin.run f i with e | e
        · exact ih i (by omega) x (e.symm.trans hx)
        · rw [e] at hx; cases hx
  exact all 4

/-- Every function's forwarded commands end, and every other command goes on. -/
theorem State.endAllForwarded_spec (s : State) (l : List Fn) :
    Finishes s (l.foldl State.endForwarded s) ∧ RunsKeep s (l.foldl State.endForwarded s) ∧
      ∀ f ∈ l, ∀ i < 4, ∀ x, ((l.foldl State.endForwarded s).cr f i).run = some x → x.win = 0 := by
  refine ⟨.foldl (fun u f => (u.endForwarded_spec f).1) l s, .foldl (fun u f => (u.endForwarded_spec f).2.1) l s, ?_⟩
  induction l using List.reverseRecOn with
  | nil => exact fun f hf => absurd hf (List.not_mem_nil)
  | append_singleton l g ih =>
    rw [List.foldl_append, List.foldl_cons, List.foldl_nil]
    obtain ⟨fin, -, own⟩ := (l.foldl State.endForwarded s).endForwarded_spec g
    intro f hf i hi x hx
    rcases List.mem_append.1 hf with hf | hf
    · rcases fin.run f i with e | e
      · exact ih f hf i hi x (e.symm.trans hx)
      · rw [e] at hx; cases hx
    · rw [List.mem_singleton.1 hf] at hx
      exact own i hi x hx

/-! ### Function resets (R314) -/

theorem Map.get_map_values {α β : Type} (d : α) (d' : β) (g : α → β) (hd : g d = d') (m : List (Nat × α)) (i : Nat) :
    Map.get d' (m.map fun e => (e.1, g e.2)) i = g (Map.get d m i) := by
  induction m with
  | nil => exact hd.symm
  | cons a m ih =>
    simp only [List.map_cons, Map.get]
    split
    · rfl
    · exact ih

/-- A ring whose command goes on is kept, but for its configuration. -/
theorem Map.run_of_kept (l : List (Nat × CmdRing)) (i : Nat) (c : CmdRun) (h : (Map.get {} l i).run = some c) :
    (Map.get {} ((l.filter fun e => e.2.run.isSome).map fun e => (e.1, ({ run := e.2.run } : CmdRing))) i).run = some c := by
  induction l with
  | nil => exact absurd h.symm (Option.some_ne_none c)
  | cons e l ih =>
    rw [List.filter_cons]
    rw [Map.get] at h
    by_cases hk : e.1 = i
    · rw [if_pos hk] at h
      rw [if_pos (by rw [h]; rfl), List.map_cons, Map.get, if_pos hk]
      exact h
    · rw [if_neg hk] at h
      split
      · rw [List.map_cons, Map.get, if_neg hk]
        exact ih h
      · exact ih h

theorem FnState.run_clear (x : FnState) (i : Nat) (c : CmdRun) (h : (Map.get {} x.crs i : CmdRing).run = some c) :
    (Map.get {} x.clear.crs i : CmdRing).run = some c := Map.run_of_kept _ _ _ h

/-- The HIF of a function reset, before its commands end. -/
def State.ringsCleared (s : State) : State := { s with hif := { s.hif with
  fns := s.hif.fns.map fun (e : Nat × FnState) => (e.1, e.2.clear),
  msix := [], pba := [], sriov := false, folWin := 0, folTimeout := false, folDev := [], folValid := [] } }

theorem State.fn_ringsCleared (s : State) (f : Fn) : s.ringsCleared.fn f = (s.fn f).clear :=
  Map.get_map_values ({} : FnState) ({} : FnState) FnState.clear rfl s.hif.fns (fnKey f)

theorem State.functionReset_eq (s : State) : s.functionReset = (allFns.foldl State.endForwarded s.ringsCleared).endLoad := rfl

theorem State.endLoad_of_not_loading (s : State) (h : s.dck.state ≠ .loading) : s.endLoad = s := by
  unfold State.endLoad
  exact if_neg h

/-- What a function reset leaves of the device (R314). -/
structure FnReset (s t : State) : Prop where
  mem : t.mem = s.mem
  now : t.now = s.now
  acc : t.acc = s.acc
  tables : t.tables = s.tables
  sriov : t.hif.sriov = false
  folValid : t.hif.folValid = []
  folDev : t.hif.folDev = []
  msix : t.hif.msix = []
  pba : t.hif.pba = []
  mgc : t.mgc = s.mgc
  rrs : ∀ f, (t.fn f).rrs = []

theorem FnReset.ringsCleared (s : State) : FnReset s s.ringsCleared :=
  ⟨rfl, rfl, rfl, rfl, rfl, rfl, rfl, rfl, rfl, rfl, fun f => by rw [s.fn_ringsCleared]; rfl⟩

theorem FnReset.finishes {s t u : State} (h : FnReset s t) (k : Finishes t u) : FnReset s u := by
  have frame := k.frame
  refine ⟨?_, ?_, ?_, ?_, ?_, ?_, ?_, ?_, ?_, ?_, fun f => (k.rrs f).trans (h.rrs f)⟩
  · rw [frame]; exact h.mem
  · rw [frame]; exact h.now
  · rw [frame]; exact h.acc
  · rw [frame]; exact h.tables
  · rw [frame]; exact h.sriov
  · rw [frame]; exact h.folValid
  · rw [frame]; exact h.folDev
  · rw [frame]; exact h.msix
  · rw [frame]; exact h.pba
  · rw [frame]; exact h.mgc

/-- Configuration space is reset (R299). -/
def State.pmReset (s : State) : State := { s with hif := { s.hif with pmState := 0 } }

theorem State.pmReset_dck (s : State) : s.pmReset.dck = s.dck := rfl
theorem State.pmReset_tiles (s : State) : s.pmReset.tiles = s.tiles := rfl

theorem FnReset.pmReset {s t : State} (h : FnReset s t) : FnReset s t.pmReset :=
  ⟨h.mem, h.now, h.acc, h.tables, h.sriov, h.folValid, h.folDev, h.msix, h.pba, h.mgc, h.rrs⟩

/-- A deck load that a reset ends (R314): no store is left, and commands end. -/
theorem State.endLoad_of_loading (s : State) (h : s.dck.state = .loading) :
    ∃ code, Finishes { s.drawFree.1.clearStores with dck := { s.drawFree.1.clearStores.dck with result := code } } s.endLoad := by
  have step (code : Nat) (u : State) (i : Nat) : Finishes u (match (u.cr .pf i).run with
      | some c => if c.op == 2 && c.win == 0 then u.endRun .pf i code else u
      | none => u) := by
    split
    · split
      · exact .of_commandsEnd (CommandsEnd.endRun .pf u i code).1
      · exact .refl u
    · exact .refl u
  unfold State.endLoad
  rw [if_pos h]
  exact ⟨_, .foldl (step _) _ _⟩

theorem State.clearStores_fn (s : State) (f : Fn) : s.clearStores.fn f = s.fn f := rfl

theorem FnReset.endLoad {s t : State} (h : FnReset s t) (hl : t.dck.state = .loading) :
    FnReset s t.endLoad ∧ t.endLoad.dck.state = .none_ ∧ t.endLoad.dck.load = none := by
  obtain ⟨code, fin⟩ := t.endLoad_of_loading hl
  have cleared : FnReset s { t.drawFree.1.clearStores with dck := { t.drawFree.1.clearStores.dck with result := code } } :=
    ⟨h.mem, h.now, h.acc, h.tables, h.sriov, h.folValid, h.folDev, h.msix, h.pba, h.mgc, h.rrs⟩
  refine ⟨cleared.finishes fin, ?_, ?_⟩
  · rw [fin.frame]; rfl
  · rw [fin.frame]; rfl

/-- A function reset of a device that does not load (R314). -/
theorem State.functionReset_spec (s : State) (h : s.dck.state ≠ .loading) :
    let t := s.functionReset
    FnReset s t ∧ Finishes s.ringsCleared t ∧ (∀ f i x, (s.cr f i).run = some x → x.win = 0 → x.op ≠ 1 → (t.cr f i).run = some x) ∧
      ∀ f ∈ allFns, ∀ i < 4, ∀ x, (s.cr f i).run = some x → x.win ≠ 0 → (t.cr f i).run = none := by
  obtain ⟨fin, keep, own⟩ := s.ringsCleared.endAllForwarded_spec allFns
  have goes (f : Fn) (i : Nat) (x : CmdRun) (hx : (s.cr f i).run = some x) : (s.ringsCleared.cr f i).run = some x := by
    rw [State.cr, s.fn_ringsCleared]
    exact (s.fn f).run_clear i x hx
  have reset := (FnReset.ringsCleared s).finishes fin
  have idle : (allFns.foldl State.endForwarded s.ringsCleared).dck.state ≠ .loading := by rw [fin.frame]; exact h
  dsimp only
  rw [State.functionReset_eq, State.endLoad_of_not_loading _ idle]
  generalize allFns.foldl State.endForwarded s.ringsCleared = t at *
  refine ⟨reset, fin, fun f i x hx => keep f i x (goes f i x hx), fun f hf i hi x hx hw => ?_⟩
  rcases fin.run f i with e | e
  · exact absurd (own f hf i hi x (e.trans (goes f i x hx))) hw
  · exact e

theorem State.functionReset_unloads (s : State) (h : s.dck.state = .loading) :
    FnReset s s.functionReset ∧ s.functionReset.dck.state = .none_ ∧ s.functionReset.dck.load = none := by
  obtain ⟨fin, -, -⟩ := s.ringsCleared.endAllForwarded_spec allFns
  have reset := (FnReset.ringsCleared s).finishes fin
  have loads : (allFns.foldl State.endForwarded s.ringsCleared).dck.state = .loading := by rw [fin.frame]; exact h
  rw [State.functionReset_eq]
  exact reset.endLoad loads

/-- The reset of a virtual function (R314). -/
theorem vfFlr_spec (s : State) (n : Nat) (hn : n < 16) : ∃ t : State, exec (.vfFlr n) s = .next t ∧
    t = { s with hif := { s.hif with fns := t.hif.fns, msix := t.hif.msix, pba := t.hif.pba } } ∧
    (∀ g, fnKey g ≠ fnKey (.vf n) → t.fn g = s.fn g) ∧ (t.fn (.vf n)).rrs = [] ∧
    (∀ i x, (s.cr (.vf n) i).run = some x → (t.cr (.vf n) i).run = some x) ∧
    ∀ v, if vectorBase (.vf n) ≤ v ∧ v < vectorBase (.vf n) + s.vectors (.vf n) then
      v ∉ t.hif.pba ∧ ∀ w < 4, Map.get 0#32 t.hif.msix (4 * v + w) = 0
    else (v ∈ t.hif.pba ↔ v ∈ s.hif.pba) ∧ ∀ w < 4, Map.get 0#32 t.hif.msix (4 * v + w) = Map.get 0#32 s.hif.msix (4 * v + w) := by
  have run : exec (.vfFlr n) s = .next ((s.clearVectors (.vf n)).modFn (.vf n) (·.clear)) := if_pos hn
  have own : ((s.clearVectors (.vf n)).modFn (.vf n) (·.clear)).fn (.vf n) = (s.fn (.vf n)).clear := State.fn_modFn_self ..
  refine ⟨_, run, rfl, fun g hg => Map.get_set_of_ne _ _ _ _ _ hg, ?_, fun i x hx => ?_, fun v => ?_⟩
  · rw [own]; rfl
  · rw [State.cr, own]
    exact FnState.run_clear _ i x hx
  · have mine : (decide (vectorBase (.vf n) ≤ v) && decide (v < vectorBase (.vf n) + s.vectors (.vf n))) = true ↔
        vectorBase (.vf n) ≤ v ∧ v < vectorBase (.vf n) + s.vectors (.vf n) := by
      rw [Bool.and_eq_true, decide_eq_true_eq, decide_eq_true_eq]
    have msix (w : Nat) (hw : w < 4) : Map.get 0#32 ((s.clearVectors (.vf n)).modFn (.vf n) (·.clear)).hif.msix (4 * v + w) =
        if !(decide (vectorBase (.vf n) ≤ v) && decide (v < vectorBase (.vf n) + s.vectors (.vf n))) then Map.get 0#32 s.hif.msix (4 * v + w)
        else 0#32 := by
      have vector : (4 * v + w) / 4 = v := by omega
      have got := Map.get_filter 0#32 s.hif.msix (fun k => !(decide (vectorBase (.vf n) ≤ k / 4) &&
        decide (k / 4 < vectorBase (.vf n) + s.vectors (.vf n)))) (4 * v + w)
      rw [vector] at got
      exact got
    have pba : v ∈ ((s.clearVectors (.vf n)).modFn (.vf n) (·.clear)).hif.pba ↔ v ∈ s.hif.pba ∧
        (!(decide (vectorBase (.vf n) ≤ v) && decide (v < vectorBase (.vf n) + s.vectors (.vf n)))) = true := List.mem_filter
    split
    · next h =>
      rw [← mine] at h
      refine ⟨fun hv => ?_, fun w hw => ?_⟩
      · rw [pba, h] at hv
        exact absurd hv.2 (by decide)
      · rw [msix w hw, h]
        rfl
    · next h =>
      rw [← mine, Bool.not_eq_true] at h
      refine ⟨?_, fun w hw => ?_⟩
      · rw [pba, h]
        exact and_iff_left rfl
      · rw [msix w hw, h]
        rfl

theorem functionResetsKeepTheDevice : Claims.FunctionResetsKeepTheDevice := by
  intro s
  dsimp only
  have cleared {t : State} (h : FnReset s t) : SameMemory s t ∧ t.now = s.now ∧ t.acc = s.acc ∧ t.tables = s.tables ∧ t.hif.sriov = false ∧
      t.hif.folValid = [] ∧ t.hif.folDev = [] ∧ t.hif.msix = [] ∧ t.hif.pba = [] ∧ t.mgc.flash = s.mgc.flash ∧ (∀ f, (t.fn f).rrs = []) :=
    ⟨SameMemory.of_mem h.mem, h.now, h.acc, h.tables, h.sriov, h.folValid, h.folDev, h.msix, h.pba, by rw [h.mgc], h.rrs⟩
  have hot : exec .hotReset s = .next s.functionReset.pmReset := rfl
  have perst : exec .perst s = .next s.functionReset.pmReset := rfl
  have flr : exec .pfFlr s = .next s.functionReset := rfl
  have spec := s.functionReset_spec
  have unloads := s.functionReset_unloads
  refine ⟨fun n hn => vfFlr_spec s n hn, fun h => ?_, fun h => ?_, fun h => ?_, fun h => ?_, fun h => ?_, fun h => ?_, fun on h => ?_, fun on h => ?_⟩
  · obtain ⟨reset, fin, goes, ended⟩ := spec h
    exact ⟨_, flr, cleared reset, by rw [fin.frame]; rfl, by rw [fin.frame]; rfl, goes, ended⟩
  · obtain ⟨reset, fin, goes, ended⟩ := spec h
    generalize s.functionReset = t at *
    exact ⟨_, hot, cleared reset.pmReset, by rw [t.pmReset_dck, fin.frame]; rfl, by rw [t.pmReset_tiles, fin.frame]; rfl, goes, ended⟩
  · obtain ⟨reset, fin, goes, ended⟩ := spec h
    generalize s.functionReset = t at *
    exact ⟨_, perst, cleared reset.pmReset, by rw [t.pmReset_dck, fin.frame]; rfl, by rw [t.pmReset_tiles, fin.frame]; rfl, goes, ended⟩
  · obtain ⟨reset, none_⟩ := unloads h
    exact ⟨_, flr, cleared reset, none_⟩
  · obtain ⟨reset, none_⟩ := unloads h
    generalize s.functionReset = t at *
    exact ⟨_, hot, cleared reset.pmReset, none_⟩
  · obtain ⟨reset, none_⟩ := unloads h
    generalize s.functionReset = t at *
    exact ⟨_, perst, cleared reset.pmReset, none_⟩
  · exact congrArg _ (if_pos h)
  · exact congrArg _ (if_neg (by rw [h]; decide))

/-! ### Device reset (R314, R315) -/

theorem Finishes.endStop (s : State) : Finishes s s.endStop := by
  unfold State.endStop
  split
  · next c hc =>
    exact .of_commandsEnd ((CommandsEnd.complete s c.fn c.fn 0 c.tag c.quiet).trans (CommandsEnd.freeRing c.fn _ c.ring).1)
  · exact .refl s

theorem Finishes.endServes (s : State) : Finishes s s.endServes := by
  unfold State.endServes
  refine .foldl (fun u f => ?_) allFns s
  split
  · next c hc =>
    split
    · exact .of_commandsEnd (CommandsEnd.endRun f u 4 c.status).1
    · exact .refl u
  · exact .refl u

/-- The device that a reset leaves, before its SERVE commands end (R314). -/
def State.fabricCleared (f : State) : State := { f with
  hif := f.hif.cutOff, mem := [], acc := [], accBad := [], tiles := [], xbar := [], ports := [],
  tables := f.tables.map fun (e : Nat × Table) => (e.1, e.2.keepMap),
  lnk := { tele := [] }, rcu := {}, dck := {}, svc := {}, pwr := {},
  tly := { trim := f.tly.trim, events := f.tly.events, ladder := f.tly.ladder, lastEvent := [] } }

theorem State.deviceReset_eq (s : State) : s.deviceReset = s.functionReset.endStop.fabricCleared.endServes := rfl

theorem State.table_fabricCleared (f : State) (n : Nat) : f.fabricCleared.table n = (f.table n).keepMap :=
  Map.get_map_values ({} : Table) ({} : Table) Table.keepMap rfl f.tables n

theorem Table.keepMap_of_whole (x : Table) (h : x.recovering = false) :
    x.keepMap = { jokerFor := x.jokerFor, jokerState := x.jokerState, retired := x.retired, failed := x.failed } := by
  unfold Table.keepMap
  rw [h]

theorem Table.keepMap_of_recovering (x : Table) (y : Subst) (h : x.recovering = true) (hy : x.subst = some y) :
    x.keepMap = { jokerFor := y.seat, jokerState := 1, retired := putBits x.retired y.seat 1 1 } := by
  unfold Table.keepMap
  rw [h, hy]

theorem State.deviceReset_spec (s : State) (h : s.dck.state ≠ .loading) :
    let t := s.deviceReset
    t.mem = [] ∧ t.acc = [] ∧ t.tiles = [] ∧ t.ports = [] ∧ t.xbar = [] ∧ t.rcu = {} ∧ t.dck = {} ∧ t.svc = {} ∧
      t.hif.resetBusy = true ∧ t.hif.hostReads = [] ∧ t.mgc = s.mgc ∧ t.tly.trim = s.tly.trim ∧ t.tly.events = s.tly.events ∧
      ∀ n, t.table n = (s.table n).keepMap := by
  obtain ⟨reset, fin, -, -⟩ := s.functionReset_spec h
  dsimp only
  rw [State.deviceReset_eq]
  generalize s.functionReset = w at *
  have stop := Finishes.endStop w
  generalize w.endStop = f at *
  have tly : f.tly = s.tly := by rw [stop.frame, fin.frame]; rfl
  have mgc : f.mgc = s.mgc := by rw [stop.frame]; exact reset.mgc
  have tables : f.tables = s.tables := by rw [stop.frame]; exact reset.tables
  have ends := Finishes.endServes f.fabricCleared
  have svc : f.fabricCleared.endServes.svc = {} := by
    rw [ends.frame]
    dsimp only
    rw [ends.ended rfl]
    rfl
  have table (n : Nat) : f.fabricCleared.endServes.table n = (s.table n).keepMap := by
    have kept : f.fabricCleared.endServes.tables = f.fabricCleared.tables := by rw [ends.frame]
    have old : f.table n = s.table n := by rw [State.table, State.table, tables]
    rw [← old, ← f.table_fabricCleared n, State.table, State.table, kept]
  generalize f.fabricCleared.endServes = t at *
  have frame := ends.frame
  refine ⟨?_, ?_, ?_, ?_, ?_, ?_, ?_, svc, ?_, ?_, ?_, ?_, ?_, table⟩
  · rw [frame]; rfl
  · rw [frame]; rfl
  · rw [frame]; rfl
  · rw [frame]; rfl
  · rw [frame]; rfl
  · rw [frame]; rfl
  · rw [frame]; rfl
  · rw [frame]; rfl
  · rw [frame]; rfl
  · rw [frame]; exact mgc
  · rw [frame, ← tly]; rfl
  · rw [frame, ← tly]; rfl

theorem exec_deviceReset (s : State) (v : Word) : exec (.deviceReset v) s = .next (
    if !bit v.toNat 0 || bits v.toNat 16 16 != 0xD1CE then s
    else if s.dck.state = .none_ || s.dck.state = .loaded then s.deviceReset
    else { s with dck := { s.dck with result := 0x2007 } }) := rfl

theorem deviceResetClearsTheFabric : Claims.DeviceResetClearsTheFabric := by
  intro s v
  have run := exec_deviceReset s v
  have go (hg : bit v.toNat 0 = true) (hk : bits v.toNat 16 16 = 0xD1CE) : ¬ (!bit v.toNat 0 || bits v.toNat 16 16 != 0xD1CE) = true := by
    rw [hg, hk]
    decide
  refine ⟨fun off => ?_, fun hg hk h1 h2 => ?_, fun hg hk hd => ?_, rfl⟩
  · rw [run, if_pos]
    rw [Bool.or_eq_true, Bool.not_eq_true', bne_iff_ne]
    exact off
  · rw [run, if_neg (go hg hk), if_neg (by simp [h1, h2])]
  · rw [if_neg (go hg hk), if_pos (by simpa using hd)] at run
    have notLoading : s.dck.state ≠ .loading := by
      rcases hd with h | h <;> rw [h] <;> decide
    obtain ⟨mem, acc, tiles, ports, xbar, rcu, dck, svc, busy, reads, mgc, trim, events, table⟩ := s.deviceReset_spec notLoading
    generalize s.deviceReset = t at *
    refine ⟨t, run, fun p o => by rw [State.readByte, mem]; rfl, acc, tiles, ports, xbar, rcu, dck, svc, busy, reads, mgc, trim, events,
      fun n hn => ?_, fun n x hn hx => ?_⟩
    · rw [table, Table.keepMap_of_whole _ hn]
      exact ⟨rfl, rfl, rfl, rfl, rfl⟩
    · rw [table, Table.keepMap_of_recovering _ x hn hx]
      exact ⟨rfl, rfl, rfl, rfl⟩

/-- Settles O49, by `functionResetsKeepTheDevice` and `deviceResetClearsTheFabric`. -/
theorem resetsClearWhatTheyReach : Obligations.ResetsClearWhatTheyReach := ⟨functionResetsKeepTheDevice, deviceResetClearsTheFabric⟩

end Sys2Proof.Machine
end

section
/-! PROOFS. The tick boundary: the count, the tables, the ports and the deck (R30, R56, R60, R64, R67, R282, R296, R297). -/

namespace Sys2Proof.Machine

/-! ### The count (R30) -/

theorem State.beat_lt_tickLen (s : State) : s.beat < s.tickLen := Nat.mod_lt _ (Nat.two_pow_pos _)

/-- The end of a tick skips the beats that are left. -/
theorem State.closeTick_count (s : State) (h : Legal s) : Legal s.closeTick ∧
    s.closeTick.rcu.count = s.rcu.count + BitVec.ofNat 64 (s.tickLen - 1 - s.beat) := by
  have legal := (State.closeTick_moved s (Moved.refl h)).legal
  have judged := State.judgeLate_kept s (Kept.refl h)
  have skip : s.judgeLate.tickLen - 1 - s.judgeLate.beat = s.tickLen - 1 - s.beat := by
    simp only [State.tickLen, State.beat, State.now, State.judgeLate_rcu]
  have passed := State.pass_moved _ (s.judgeLate.tickLen - 1 - s.judgeLate.beat) judged.toMoved
  have rest := State.meterTick_kept _ (State.eachTile_kept _ _ (fun s p => State.carryTile_kept s p)
    (State.eachTile_kept _ _ (fun s p => State.cutTile_kept s p) (Kept.refl passed.legal)))
  refine ⟨legal, rest.count.trans ?_⟩
  show s.judgeLate.rcu.count + BitVec.ofNat 64 _ = _
  rw [skip, State.judgeLate_rcu]

theorem State.nextTick_now (s : State) (h : Legal s) : s.nextTick.now = (s.now - s.beat + 2 ^ s.rcu.k) % 2 ^ 64 := by
  obtain ⟨legal, count⟩ := s.closeTick_count h
  have passed := State.pass_moved _ 1 (Moved.refl legal)
  have below : s.beat < 2 ^ s.rcu.k := s.beat_lt_tickLen
  have inTick : s.beat ≤ s.now := Nat.mod_le ..
  calc s.nextTick.now = (s.closeTick.pass 1).now := congrArg BitVec.toNat (State.boundary_kept _ (Kept.refl passed.legal)).count
    _ = (s.closeTick.now + 1) % 2 ^ 64 := State.now_pass_one _
    _ = ((s.now + (2 ^ s.rcu.k - 1 - s.beat)) % 2 ^ 64 + 1) % 2 ^ 64 := by
      rw [State.now, count, BitVec.toNat_add, BitVec.toNat_ofNat, Nat.add_mod_mod]
      rfl
    _ = (s.now - s.beat + 2 ^ s.rcu.k) % 2 ^ 64 := by
      rw [Nat.mod_add_mod]
      congr 1
      omega

/-! ### Folds over the tables (R64) -/

theorem range_split (n m : Nat) (hn : n < m) : List.range m = List.range n ++ n :: (List.range (m - n - 1)).map (n + 1 + ·) := by
  have all : m = (n + 1) + (m - n - 1) := by omega
  conv_lhs => rw [all, List.range_add, List.range_succ, List.append_assoc, List.singleton_append]

theorem foldl_of_not_mem {β : Type} (part : State → β) (f : State → Nat → State) (n : Nat)
    (other : ∀ s t, t ≠ n → part (f s t) = part s) : ∀ (l : List Nat) (s : State), n ∉ l → part (l.foldl f s) = part s
  | [], _, _ => rfl
  | a :: l, s, h => by
    rw [List.mem_cons, not_or] at h
    exact (foldl_of_not_mem part f n other l _ h.2).trans (other s a fun e => h.1 e.symm)

theorem foldl_range_before {β : Type} (part : State → β) (f : State → Nat → State) (n : Nat)
    (other : ∀ s t, t ≠ n → part (f s t) = part s) (s : State) : part ((List.range n).foldl f s) = part s :=
  foldl_of_not_mem part f n other _ s (by simp)

/-- A fold whose steps leave a part alone but for one turn. -/
theorem foldl_range_turn {β : Type} (part : State → β) (f : State → Nat → State) (m n : Nat) (hn : n < m)
    (other : ∀ s t, t ≠ n → part (f s t) = part s) (s : State) :
    ∃ u : State, part u = part s ∧ part ((List.range m).foldl f s) = part (f u n) := by
  refine ⟨(List.range n).foldl f s, foldl_range_before part f n other s, ?_⟩
  rw [range_split n m hn, List.foldl_append, List.foldl_cons]
  refine foldl_of_not_mem part f n other _ _ ?_
  rw [List.mem_map]
  rintro ⟨i, -, hi⟩
  omega

/-! ### The meter (R67, R68) -/

theorem satTo_eq_min (m x : Nat) : satTo m x = min m x := by
  unfold satTo
  split <;> omega

/-- The tokens that the map gives a table's running program. -/
def State.runningTokens (s : State) (t : Nat) : Nat := match s.runningProg t with | some p => p.tokens | none => 0

/-- A table as the meter leaves it (R67). -/
def Table.metered (x : Table) (used map : Nat) : Table :=
  { x with used := satTo 0xFFF used, map, overrun := x.overrun || decide (map + 16 < used) }

/-- One table's turn of the meter. -/
def State.meterOne (s a : State) (t : Nat) : State :=
  if decide (s.runningTokens t + 16 < s.meterTable t) then
    (a.modTable t (·.metered (s.meterTable t) (s.runningTokens t))).raise (srcTable t) 2 0xA001 0 0
  else a.modTable t (·.metered (s.meterTable t) (s.runningTokens t))

theorem State.table_modTable (s : State) (t n : Nat) (f : Table → Table) : (s.modTable t f).table n = if n = t then f (s.table n) else s.table n := by
  by_cases h : n = t
  · subst h
    rw [if_pos rfl, State.table_modTable_self]
  · rw [if_neg h]
    exact Map.get_set_of_ne _ _ _ _ _ h

theorem State.meterOne_spec (s a : State) (t : Nat) : (s.meterOne a t).pwr = a.pwr ∧
    ∀ n, (s.meterOne a t).table n = if n = t then (a.table n).metered (s.meterTable t) (s.runningTokens t) else a.table n := by
  unfold State.meterOne
  split
  · exact ⟨rfl, fun n => (State.table_raise ..).trans (State.table_modTable ..)⟩
  · exact ⟨rfl, fun n => State.table_modTable ..⟩

/-- The device's own count of hot ticks (R68). -/
theorem State.meterTick_eq (s : State) : ∃ (active hot : Nat) (surge : Bool),
    let u := (List.range 16).foldl s.meterOne s
    let w : State := { u with pwr := { u.pwr with active, ticks := u.pwr.ticks + 1, overruns := u.pwr.overruns + hot } }
    s.meterTick = if surge then w.raiseMgc 0xA002 else w := ⟨_, _, _, rfl⟩

theorem State.meterTick_spec (s : State) (n : Nat) (hn : n < 16) :
    s.meterTick.table n = (s.table n).metered (s.meterTable n) (s.runningTokens n) ∧ s.meterTick.pwr.ticks = s.pwr.ticks + 1 := by
  obtain ⟨u, same, turn⟩ := foldl_range_turn (fun a : State => a.table n) s.meterOne 16 n hn
    (fun a t h => by rw [(s.meterOne_spec a t).2, if_neg (Ne.symm h)]) s
  have pwr : ((List.range 16).foldl s.meterOne s).pwr = s.pwr := foldl_keeps State.pwr (fun a t => (s.meterOne_spec a t).1) _ _
  rw [(s.meterOne_spec u n).2, if_pos rfl, same] at turn
  obtain ⟨active, hot, surge, shape⟩ := s.meterTick_eq
  dsimp only at shape
  rw [shape]
  generalize (List.range 16).foldl s.meterOne s = v at *
  split
  · exact ⟨turn, congrArg (·.ticks + 1) pwr⟩
  · exact ⟨turn, congrArg (·.ticks + 1) pwr⟩

/-! ### The clock and the stop of a table (R28, R43, R56, R62, R349) -/

theorem State.stopRestore_tables (s : State) (q : Request) : (s.stopRestore q).tables = s.tables := by
  rw [State.stopRestore_frame]

theorem State.endRequest_tables (s : State) (q : Request) (status e : Nat) : (s.endRequest q status e).tables = s.tables := by
  unfold State.endRequest
  dsimp only
  exact (foldl_keeps State.tables (fun s _ => State.raise_tables s _ _ _ _ _) _ _).trans (s.stopRestore_tables q)

theorem State.endAll_tables (s : State) (p : Request → Bool) (status : Nat) : (s.endAll p status).tables = s.tables :=
  foldl_keeps State.tables (fun s q => s.endRequest_tables q status endNone) _ _

/-- Which requests stay when a set of them ends. -/
theorem State.mem_endAll (s : State) (p : Request → Bool) (status : Nat) (q : Request) :
    q ∈ (s.endAll p status).svc.reqs ↔ q ∈ s.svc.reqs ∧ ∀ x ∈ s.svc.reqs, p x = true → q.id ≠ x.id := by
  obtain ⟨-, -, -, mem⟩ := State.foldl_endRequest status (s.svc.reqs.filter p) s
  refine (mem q).trans ?_
  simp only [List.mem_filter, and_imp]

theorem State.not_mem_endAll (s : State) (p : Request → Bool) (status : Nat) (q : Request) (h : q ∈ (s.endAll p status).svc.reqs) :
    p q = false := by
  obtain ⟨hq, other⟩ := (s.mem_endAll p status q).mp h
  by_contra hp
  exact other q hq (Bool.not_eq_false _ ▸ hp) rfl

/-- One table's turn when the tables stop (R28, R43, R62). -/
def State.stopOne (all : Bool) (s : State) (t : Nat) : State :=
  if all || (s.table t).stopping then (s.modTable t Table.stop).endTable t s.stopCodeOf
  else if (s.table t).failed then s.endTable t s.stopCodeOf
  else s

theorem State.stopOne_table (all : Bool) (s : State) (t n : Nat) : (s.stopOne all t).table n =
    if n = t ∧ (all || (s.table t).stopping) = true then (s.table n).stop else s.table n := by
  have ends : ∀ (u : State) (code : Nat), (u.endTable t code).table n = u.table n := fun u code =>
    congrArg (fun m => Map.get ({} : Table) m n) (State.endAll_tables u (fun q => q.table == t) code)
  unfold State.stopOne
  by_cases h : (all || (s.table t).stopping) = true
  · rw [if_pos h, ends, State.table_modTable]
    simp only [h, and_true]
  · rw [if_neg h, if_neg fun k : n = t ∧ _ => h k.2]
    split
    · exact ends ..
    · rfl

theorem State.stopOne_reqs (all : Bool) (s : State) (t : Nat) (q : Request) (h : q ∈ (s.stopOne all t).svc.reqs) :
    q ∈ s.svc.reqs ∧ ((all || (s.table t).stopping) = true → q.table ≠ t) := by
  unfold State.stopOne at h
  split at h
  · exact ⟨((State.mem_endAll ..).mp h).1, fun _ => by simpa using State.not_mem_endAll _ _ _ _ h⟩
  · next hn =>
    refine ⟨?_, fun k => absurd k hn⟩
    split at h
    · exact ((State.mem_endAll ..).mp h).1
    · exact h

theorem State.stopTables_table (s : State) (n : Nat) (hn : n < 16) : s.stopTables.table n =
    if (s.halted || (s.table n).stopping) = true then (s.table n).stop else s.table n := by
  obtain ⟨u, same, turn⟩ := foldl_range_turn (fun a : State => a.table n) (State.stopOne s.halted) 16 n hn
    (fun a t h => by rw [State.stopOne_table, if_neg fun k => h k.1.symm]) s
  refine turn.trans ?_
  rw [State.stopOne_table, same]
  simp only [true_and]

/-- The requests of a table that stops end at its turn, and no later turn brings one back. -/
theorem State.stopTables_reqs (s : State) (n : Nat) (hn : n < 16) (h : (s.halted || (s.table n).stopping) = true) :
    ∀ q ∈ s.stopTables.svc.reqs, q.table ≠ n := by
  have fewer : ∀ (l : List Nat) (s' : State) (q : Request), q ∈ (l.foldl (State.stopOne s.halted) s').svc.reqs → q ∈ s'.svc.reqs := by
    intro l
    induction l with
    | nil => exact fun _ _ h => h
    | cons a l ih => exact fun s' q h => (State.stopOne_reqs _ _ _ _ (ih _ q h)).1
  have split : List.range 16 = List.range n ++ n :: (List.range (16 - n - 1)).map (n + 1 + ·) := range_split n 16 hn
  have kept : ((List.range n).foldl (State.stopOne s.halted) s).table n = s.table n := by
    refine foldl_range_before (fun a : State => a.table n) _ n (fun a t h => ?_) s
    rw [State.stopOne_table, if_neg fun k => h k.1.symm]
  intro q hq
  have shape : s.stopTables = ((List.range (16 - n - 1)).map (n + 1 + ·)).foldl (State.stopOne s.halted)
      (((List.range n).foldl (State.stopOne s.halted) s).stopOne s.halted n) := by
    refine (congrArg (List.foldl (State.stopOne s.halted) s) split).trans ?_
    rw [List.foldl_append, List.foldl_cons]
  rw [shape] at hq
  refine (State.stopOne_reqs _ _ _ _ (fewer _ _ q hq)).2 ?_
  rw [kept]
  exact h

/-! ### A port (R282, R286) -/

theorem State.portTick_spec (s : State) (m : Nat) :
    (s.portTick m).port m = { s.port m with
        cBmax := max (s.port m).cBmax (min (s.port m).backlog 0xFFFF)
        cStall := min 255 ((s.port m).cStall + if (s.port m).stalled then 1 else 0)
        stalled := false
        suspended := (s.port m).suspended && !(decide ((s.port m).state = .up) && s.inWin m) } ∧
      ∀ l, l ≠ m → (s.portTick m).port l = s.port l := by
  refine ⟨?_, fun l hl => State.port_modPort_ne _ _ _ _ hl⟩
  unfold State.portTick
  dsimp only
  rw [State.port_modPort, if_pos rfl, satTo_eq_min]
  have up : ((s.port m).state == PortState.up) = decide ((s.port m).state = .up) := by
    cases (s.port m).state <;> rfl
  rw [up]
  rfl

/-! ### The phase step (R60, R63, R140, R185, R196, R297) -/

/-- A table as its plan for the new tick leaves it (R60); one of a halted device has no dealers. -/
def Table.phaseStep (x : Table) (pl : Plan) (runs : Bool) : Table :=
  if runs then
    { x with phase := pl.phase, switch := pl.switch, cycle0 := pl.cycle0, role := pl.role,
             closing := if x.switch.isSome && pl.switch.isNone then false else x.closing,
             ghost := if pl.phase = 0 then x.ghost else 0 }
  else { x with role := none }

/-- One position's turn of the phase step. -/
def State.stepTile (t : Nat) (g : Option Prog) (entry : Bool) (s : State) (i : Nat) : State :=
  s.modTile (13 * t + i) fun u => u.newTick (s.rangeOf (13 * t + i) g) entry

/-- The table's own part of its phase step. -/
def State.phased (s : State) (t : Nat) : State :=
  s.modTable t (·.phaseStep (s.planTick t s.tick) (s.deckRuns && !s.halted))

theorem State.stepTable_eq (s : State) (t : Nat) : ∃ nominal g,
    s.stepTable t = (List.range 13).foldl (State.stepTile t g (((s.phased t).table t).role == some 2))
      ((s.phased t).modTable t fun x => { x with prog := nominal }) := by
  unfold State.stepTable State.phased
  exact ⟨_, _, rfl⟩

theorem State.stepTile_tables (t : Nat) (g : Option Prog) (entry : Bool) (s : State) (i : Nat) :
    (s.stepTile t g entry i).tables = s.tables := rfl
theorem State.stepTile_mem (t : Nat) (g : Option Prog) (entry : Bool) (s : State) (i : Nat) :
    (s.stepTile t g entry i).mem = s.mem := rfl

theorem State.stepTable_table (s : State) (t : Nat) : ∃ nominal, (s.stepTable t).table t =
    { (s.table t).phaseStep (s.planTick t s.tick) (s.deckRuns && !s.halted) with prog := nominal } := by
  obtain ⟨nominal, g, shape⟩ := s.stepTable_eq t
  refine ⟨nominal, ?_⟩
  rw [shape]
  refine (congrArg (fun m => Map.get ({} : Table) m t) (foldl_keeps State.tables (State.stepTile_tables t g _) _ _)).trans ?_
  refine (State.table_modTable_self ..).trans ?_
  rw [State.phased, State.table_modTable_self]

theorem State.stepTable_mem (s : State) (t : Nat) : (s.stepTable t).mem = s.mem := by
  obtain ⟨nominal, g, shape⟩ := s.stepTable_eq t
  rw [shape]
  exact foldl_keeps State.mem (State.stepTile_mem t g _) _ _

/-- What a position loses at the phase step. -/
theorem State.stepTable_tile (s : State) (t i : Nat) (hi : i < 13) :
    let v := (s.stepTable t).tile (13 * t + i)
    v.decoded = [] ∧ v.reps = [] ∧ v.poison = 0 ∧ v.crecvs = [] ∧
      v.pips.cache = (if ((s.stepTable t).table t).role = some 2 then [] else (s.tile (13 * t + i)).pips.cache) := by
  obtain ⟨nominal, step⟩ := s.stepTable_table t
  have role : ((s.stepTable t).table t).role = ((s.phased t).table t).role := by
    rw [step, State.phased, State.table_modTable_self]
  obtain ⟨nominal, g, shape⟩ := s.stepTable_eq t
  obtain ⟨u, same, turn⟩ := foldl_range_turn (fun a : State => a.tile (13 * t + i))
    (State.stepTile t g (((s.phased t).table t).role == some 2)) 13 i hi
    (fun a j h => Map.get_set_of_ne _ _ _ _ _ (by omega)) ((s.phased t).modTable t fun x => { x with prog := nominal })
  rw [← shape] at turn
  dsimp only
  rw [role]
  have now : (s.stepTable t).tile (13 * t + i) = (u.tile (13 * t + i)).newTick (u.rangeOf (13 * t + i) g) (((s.phased t).table t).role == some 2) :=
    turn.trans (State.tile_modTile_self ..)
  have before : u.tile (13 * t + i) = s.tile (13 * t + i) := same
  rw [now, before]
  refine ⟨rfl, rfl, rfl, rfl, ?_⟩
  unfold Tile.newTick
  by_cases entry : ((s.phased t).table t).role = some 2
  · rw [entry]; rfl
  · rw [if_neg entry]
    have no : (((s.phased t).table t).role == some 2) = false := by simpa using entry
    rw [no]; rfl

/-- The plan of a table while no stop is accepted (R60). -/
theorem State.planTick_of_no_stop (s : State) (t k : Nat) (h : s.dck.stop = none) : s.planTick t k = (s.table t).plan k := by
  rw [State.planTick, h]

theorem Table.plan_of_no_switch (x : Table) (k : Nat) (h : x.switch = none) :
    x.plan k = { phase := x.phase, cycle0 := x.cycle0, role := if x.phase = 0 then none else some 0, switch := none } := by
  rw [Table.plan, h]

theorem Table.plan_of_switch (x : Table) (k : Nat) (w : Switch) (h : x.switch = some w) : x.plan k =
    if k < w.tick then { phase := x.phase, cycle0 := x.cycle0, role := if x.phase = 0 then none else some 0, switch := some w }
    else if k = w.tick then { phase := x.phase, cycle0 := x.cycle0, role := if x.phase = 0 then none else some 1, switch := some w }
    else { phase := w.phase, cycle0 := k + 1, role := if w.phase = 0 then none else some 2, switch := none } := by
  rw [Table.plan, h]

/-- The switch of a running table (R60). -/
theorem State.stepTable_running (b : State) (n : Nat) (runs : b.deckRuns = true) (live : b.halted = false) (hs : b.dck.stop = none) :
    let x := b.table n
    let y := (b.stepTable n).table n
    (∀ w, x.switch = some w →
      (b.tick < w.tick → y.phase = x.phase ∧ y.switch = some w ∧ y.role = if x.phase = 0 then none else some 0) ∧
      (b.tick = w.tick → y.phase = x.phase ∧ y.switch = some w ∧ y.role = if x.phase = 0 then none else some 1) ∧
      (w.tick < b.tick → y.phase = w.phase ∧ y.switch = none ∧ y.closing = false ∧ y.cycle0 = b.tick + 1 ∧
        y.role = if w.phase = 0 then none else some 2)) ∧
    (x.switch = none → y.phase = x.phase ∧ y.switch = none ∧ y.role = if x.phase = 0 then none else some 0) := by
  obtain ⟨nominal, step⟩ := b.stepTable_table n
  rw [b.planTick_of_no_stop n _ hs, runs, live] at step
  dsimp only
  rw [step]
  refine ⟨fun w hw => ?_, fun hw => ?_⟩
  · rw [(b.table n).plan_of_switch _ w hw]
    refine ⟨fun h => ?_, fun h => ?_, fun h => ?_⟩
    · rw [if_pos h]; exact ⟨rfl, rfl, rfl⟩
    · rw [if_neg (by omega), if_pos h]; exact ⟨rfl, rfl, rfl⟩
    · rw [if_neg (by omega), if_neg (by omega)]
      refine ⟨rfl, rfl, ?_, rfl, rfl⟩
      show (if (b.table n).switch.isSome && true then false else _) = false
      rw [hw]; rfl
  · rw [(b.table n).plan_of_no_switch _ hw]
    exact ⟨rfl, rfl, rfl⟩

/-- The tick before the stop tick runs the drain programs (R297). -/
theorem State.stepTable_stopping (b : State) (n : Nat) (c : Pend) (runs : b.deckRuns = true) (live : b.halted = false)
    (hs : b.dck.stop = some c) (orderly : c.abort = false) (next : c.tick = b.tick + 1) (hw : (b.table n).switch = none) :
    ((b.stepTable n).table n).role = if (b.table n).phase = 0 then none else some 1 := by
  obtain ⟨nominal, step⟩ := b.stepTable_table n
  have plan : (b.planTick n b.tick).role = if (b.table n).phase = 0 then none else some 1 := by
    simp only [State.planTick, hs]
    rw [(b.table n).plan_of_no_switch _ hw, if_neg (by omega), if_pos (by rw [orderly, next]; simp)]
  rw [step, runs, live]
  exact plan

theorem State.stepTable_halted (b : State) (n : Nat) (h : b.halted = true) :
    ((b.stepTable n).table n).role = none ∧ ((b.stepTable n).table n).phase = (b.table n).phase := by
  obtain ⟨nominal, step⟩ := b.stepTable_table n
  rw [h, Bool.not_true, Bool.and_false] at step
  rw [step]
  exact ⟨rfl, rfl⟩

/-! ### The start and the stop of a deck (R296, R297) -/

theorem State.deckBoundary_before_start (b : State) (c : Pend) (hs : b.dck.stop = none) (hc : b.dck.start = some c) (early : b.tick < c.tick) :
    b.deckBoundary = b := by
  unfold State.deckBoundary
  rw [hs, hc]
  exact if_neg (by omega)

theorem State.deckBoundary_start (b : State) (c : Pend) (hs : b.dck.stop = none) (hc : b.dck.start = some c) (due : c.tick ≤ b.tick) :
    b.deckBoundary = b.deckStart := by
  unfold State.deckBoundary
  rw [hs, hc]
  exact if_pos due

theorem State.deckBoundary_stop (b : State) (c : Pend) (hc : b.dck.stop = some c) (due : c.tick ≤ b.tick) :
    b.deckBoundary = b.deckStop c := by
  unfold State.deckBoundary
  rw [hc]
  exact if_pos due

theorem State.deckStart_spec (b : State) (n : Nat) (hs : b.dck.stop = none) :
    b.deckStart.dck.state = .running ∧ b.deckStart.dck.start = none ∧ (b.deckStart.table n).phase = 0 ∧
      (b.deckStart.table n).switch = none ∧ (b.deckStart.table n).choice = 0 ∧ SameMemory b b.deckStart := by
  have table : b.deckStart.table n = { (b.table n).idle with choice := 0 } :=
    Map.get_map_values ({} : Table) ({} : Table) (fun x : Table => { x.idle with choice := 0 }) rfl b.tables n
  refine ⟨?_, rfl, ?_, ?_, ?_, .of_mem rfl⟩
  · show (if b.dck.stop.isNone then DeckState.running else DeckState.stopping) = DeckState.running
    rw [hs]; rfl
  · rw [table]; rfl
  · rw [table]; rfl
  · rw [table]

theorem State.endDevice_reqs (s : State) (code : Nat) : (s.endDevice code).svc.reqs = [] :=
  List.eq_nil_iff_forall_not_mem.mpr fun _ h => Bool.noConfusion (s.not_mem_endAll (fun _ => true) code _ h)

theorem State.withdraw_reqs (s : State) (i : Nat) : (s.withdraw i).svc.reqs = s.svc.reqs := by
  unfold State.withdraw
  dsimp only
  split <;> rfl

/-- What is left of a deck that stops, before its command completes. -/
def State.deckCleared (s : State) : State :=
  let s := s.decideAll.endDevice 0x6051
  let s := s.learnRecs.foldl (fun s r => s.withdraw r.1) s
  let s := s.clearStores
  { s with
    tables := s.tables.map fun (e : Nat × Table) => (e.1, { e.2.idle with clock := 0, newClock := none }),
    svc := { s.svc with acts := [], lanes := [], nextLanes := [], gathering := [], reads := [] } }

theorem State.clearStores_svc (s : State) : s.clearStores.svc = s.svc := rfl

theorem State.deckCleared_reqs (s : State) : s.deckCleared.svc.reqs = [] := by
  unfold State.deckCleared
  dsimp only
  rw [State.clearStores_svc]
  exact (foldl_keeps (fun a : State => a.svc.reqs) (fun a (r : Nat × LearnRec) => a.withdraw_reqs r.1) _ _).trans (State.endDevice_reqs ..)

theorem State.deckCleared_table (s : State) (n : Nat) : (s.deckCleared.table n).phase = 0 ∧ (s.deckCleared.table n).switch = none ∧
    (s.deckCleared.table n).clock = 0 := by
  unfold State.deckCleared
  dsimp only
  generalize (List.foldl _ _ _ : State).clearStores = u
  have table : ∀ v : Svc, State.table { u with
      tables := u.tables.map fun (e : Nat × Table) => (e.1, { e.2.idle with clock := 0, newClock := none }), svc := v } n =
      { (u.table n).idle with clock := 0, newClock := none } := fun v =>
    Map.get_map_values ({} : Table) ({} : Table) (fun x : Table => { x.idle with clock := 0, newClock := none }) rfl u.tables n
  rw [table]
  exact ⟨rfl, rfl, rfl⟩

theorem State.deckStop_spec (b : State) (c : Pend) (n : Nat) :
    (b.deckStop c).dck.state = .none_ ∧ (b.deckStop c).dck.result = 0 ∧ (b.deckStop c).svc.reqs = [] ∧
      ((b.deckStop c).table n).phase = 0 ∧ ((b.deckStop c).table n).switch = none ∧ ((b.deckStop c).table n).clock = 0 := by
  have shape : b.deckStop c = b.deckCleared.endDeckCmd c 0 := rfl
  have state : b.deckCleared.dck.state = .none_ := rfl
  have reqs := b.deckCleared_reqs
  have table := b.deckCleared_table n
  rw [shape]
  generalize b.deckCleared = u at *
  obtain ⟨-, dck, -, tables, -, -⟩ := u.endDeckCmd_spec c 0
  have ends : CommandsEnd c.fn { u with dck := { u.dck with result := 0 } } (u.endDeckCmd c 0) :=
    (CommandsEnd.complete ..).trans (CommandsEnd.freeRing ..).1
  have kept : (u.endDeckCmd c 0).svc.reqs = u.svc.reqs := by rw [ends.frame]
  have same : (u.endDeckCmd c 0).table n = u.table n := congrArg (fun m => Map.get ({} : Table) m n) tables
  rw [dck, kept, same]
  exact ⟨state, rfl, reqs, table⟩

/-! ### Grants (R364, R368) -/

/-- A record's turn at the boundary. -/
def State.boundaryGrant (entered : List Nat) (s : State) (r : Nat × LearnRec) : State :=
  if (s.table r.2.ltable).phase != phaseLearn then s.withdraw r.1
  else if entered.contains r.2.ltable then s.startGrant r.1 r.2
  else s.retryGrant r.1 r.2

/-- What one record's grant leaves alone: the phases of the tables and the other records. -/
structure GrantKeeps (i : Nat) (s t : State) : Prop where
  phase : ∀ n, (t.table n).phase = (s.table n).phase
  others : ∀ j, j ≠ i → t.svc.rec_ j = s.svc.rec_ j

theorem GrantKeeps.trans {i : Nat} {s t u : State} (h : GrantKeeps i s t) (k : GrantKeeps i t u) : GrantKeeps i s u :=
  ⟨fun n => (k.phase n).trans (h.phase n), fun j hj => (k.others j hj).trans (h.others j hj)⟩

theorem GrantKeeps.refl (i : Nat) (s : State) : GrantKeeps i s s := ⟨fun _ => rfl, fun _ _ => rfl⟩

theorem GrantKeeps.addChoice (i : Nat) (s : State) (tbl n : Nat) : GrantKeeps i s (s.addChoice tbl n) := by
  refine ⟨fun m => ?_, fun _ _ => rfl⟩
  rw [State.addChoice, State.table_modTable]
  split <;> rfl

theorem GrantKeeps.raiseSvc (i : Nat) (s : State) (tbl code : Nat) : GrantKeeps i s (s.raiseSvc tbl code) :=
  ⟨fun _ => rfl, fun _ _ => rfl⟩

theorem GrantKeeps.setRec (i : Nat) (s : State) (x : Lrn) : GrantKeeps i s { s with svc := s.svc.setRec i x } :=
  ⟨fun _ => rfl, fun j hj => Svc.rec_setRec_ne _ _ _ j hj⟩

theorem GrantKeeps.setSlot (i : Nat) (s : State) (slot : Nat) (x : AdSlot) : GrantKeeps i s { s with svc := s.svc.setSlot slot x } :=
  ⟨fun _ => rfl, fun _ _ => rfl⟩

theorem GrantKeeps.withdraw (i : Nat) (s : State) : GrantKeeps i s (s.withdraw i) := by
  unfold State.withdraw
  dsimp only
  split
  · exact (GrantKeeps.setSlot i s _ _).trans (GrantKeeps.setRec i _ _)
  · exact GrantKeeps.setRec i s _

theorem GrantKeeps.makeGrant (i : Nat) (s : State) (r : LearnRec) : GrantKeeps i s (s.makeGrant i r) := by
  unfold State.makeGrant
  dsimp only
  split
  · exact GrantKeeps.refl i s
  · next p row _ =>
    obtain ⟨asked, svc, -⟩ := s.svcRows_pieces p (svcKeep + 2 ^ 18 + i) 0 noDeadline (64 * row) (grantRowBytes (s.grantTarget r) (s.grantVersion r))
    have rows : GrantKeeps i s (s.svcRows p (svcKeep + 2 ^ 18 + i) 0 noDeadline (64 * row) (grantRowBytes (s.grantTarget r) (s.grantVersion r))) :=
      ⟨fun n => by rw [State.table, asked.tables]; rfl, fun j _ => by rw [svc]⟩
    split
    · exact rows.trans (GrantKeeps.setRec i _ _)
    · exact (rows.trans (GrantKeeps.setSlot i _ _ _)).trans (GrantKeeps.setRec i _ _)

theorem GrantKeeps.boundaryGrant (entered : List Nat) (s : State) (r : Nat × LearnRec) : GrantKeeps r.1 s (s.boundaryGrant entered r) := by
  unfold State.boundaryGrant
  split
  · exact GrantKeeps.withdraw ..
  · split
    · unfold State.startGrant
      dsimp only
      split
      · exact GrantKeeps.makeGrant ..
      · exact GrantKeeps.setRec ..
      · exact GrantKeeps.raiseSvc ..
    · unfold State.retryGrant
      dsimp only
      split
      · split
        · exact (GrantKeeps.makeGrant ..).trans (GrantKeeps.addChoice ..)
        · exact GrantKeeps.makeGrant ..
      · exact GrantKeeps.refl ..

theorem State.withdraw_gstate (s : State) (i : Nat) : ((s.withdraw i).svc.rec_ i).gstate = 0 := by
  unfold State.withdraw
  dsimp only
  split <;> exact congrArg Lrn.gstate (Svc.rec_setRec ..)

/-- A fold of the records' turns keeps the phases, and every record whose turn does not come. -/
theorem State.foldl_boundaryGrant (entered : List Nat) : ∀ (l : List (Nat × LearnRec)) (s : State),
    let t := l.foldl (State.boundaryGrant entered) s
    (∀ n, (t.table n).phase = (s.table n).phase) ∧ ∀ j, (∀ r ∈ l, r.1 ≠ j) → t.svc.rec_ j = s.svc.rec_ j
  | [], s => ⟨fun _ => rfl, fun _ _ => rfl⟩
  | r :: l, s => by
    obtain ⟨phase, others⟩ := State.foldl_boundaryGrant entered l (s.boundaryGrant entered r)
    have one := GrantKeeps.boundaryGrant entered s r
    refine ⟨fun n => (phase n).trans (one.phase n), fun j hj => ?_⟩
    rw [List.forall_mem_cons] at hj
    exact (others j hj.2).trans (one.others j hj.1.symm)

/-- The grants of a table that is not in LEARN are withdrawn (R368). -/
theorem State.grantAll_withdraws (b : State) (r : Nat × LearnRec) (hr : r ∈ b.learnRecs) (entered : List Nat)
    (h : (b.table r.2.ltable).phase ≠ 3) : ((b.grantAll entered).svc.rec_ r.1).gstate = 0 := by
  have indexes : (b.learnRecs.map (·.1)).Nodup := by
    have keys : b.learnRecs.map (·.1) = List.range b.dck.cfg.learn.length := List.map_fst_zip (by simp)
    rw [keys]
    exact List.nodup_range
  obtain ⟨l1, l2, split⟩ := List.append_of_mem hr
  rw [split, List.map_append, List.map_cons, List.nodup_append, List.nodup_cons] at indexes
  obtain ⟨-, ⟨once, -⟩, -⟩ := indexes
  have shape : b.grantAll entered = l2.foldl (State.boundaryGrant entered) ((l1.foldl (State.boundaryGrant entered) b).boundaryGrant entered r) := by
    show b.learnRecs.foldl (State.boundaryGrant entered) b = _
    rw [split, List.foldl_append, List.foldl_cons]
  obtain ⟨before, -⟩ := State.foldl_boundaryGrant entered l1 b
  obtain ⟨-, after⟩ := State.foldl_boundaryGrant entered l2 ((l1.foldl (State.boundaryGrant entered) b).boundaryGrant entered r)
  rw [shape, after r.1 fun z hz e => once (List.mem_map.mpr ⟨z, hz, e⟩)]
  have left : ((l1.foldl (State.boundaryGrant entered) b).table r.2.ltable).phase ≠ phaseLearn := by rw [before]; exact h
  rw [State.boundaryGrant, if_pos (bne_iff_ne.mpr left)]
  exact State.withdraw_gstate ..

/-! ### CANCEL and BIND (R334, R341, R368) -/

theorem State.addChoice_svc (s : State) (tbl n : Nat) : (s.addChoice tbl n).svc = s.svc := rfl

theorem State.applyCancel_of_gone (b : State) (n id : Nat) (h : ∀ q ∈ b.svc.reqs, q.table = n → q.id ≠ id) :
    (b.applyCancel n id).svc.reqs = b.svc.reqs := by
  have none_ : ((b.addChoice n 1).reqsOf n).find? (·.id == id) = none := by
    rw [List.find?_eq_none]
    intro q hq
    obtain ⟨hq, ht⟩ := List.mem_filter.mp hq
    simpa using h q hq (by simpa using ht)
  unfold State.applyCancel
  dsimp only
  rw [none_]
  exact congrArg Svc.reqs (State.raiseSvc_spec ..).2.2.1

/-- What a CANCEL does to the request that it finds. -/
theorem State.applyCancel_of_found (b : State) (n id : Nat) (q : Request) (h : (b.reqsOf n).find? (·.id == id) = some q) :
    (q.state = .queued ∨ q.state = .restoring ∨ (q.state = .active ∧ q.steps = []) →
      (b.applyCancel n id).svc.reqs = b.svc.reqs.filter (·.id != id)) ∧
    (q.state = .parking ∨ (q.state = .active ∧ q.steps ≠ []) →
      (b.applyCancel n id).svc.reqs = b.svc.reqs.map fun z => if z.id = id then { z with cancelled := true } else z) := by
  have hid : q.id = id := by simpa using List.find?_some h
  have found : ((b.addChoice n 1).reqsOf n).find? (·.id == id) = some q := h
  have ends : ((b.addChoice n 1).endRequest q 0x6001 endNone).svc.reqs = b.svc.reqs.filter (·.id != id) := by
    rw [(State.endRequest_spec ..).2.2.2, hid, State.addChoice_svc]
  have marks : ((b.addChoice n 1).modReq id fun q => { q with cancelled := true }).svc.reqs =
      b.svc.reqs.map fun z => if z.id = id then { z with cancelled := true } else z := by
    unfold State.modReq
    simp only [State.addChoice_svc, beq_iff_eq]
  unfold State.applyCancel
  dsimp only
  rw [found]
  dsimp only
  generalize b.addChoice n 1 = u at *
  constructor
  · rintro (e | e | ⟨e, idle⟩)
    · rw [e]; exact ends
    · rw [e]; exact ends
    · rw [e, idle]; exact ends
  · rintro (e | ⟨e, busy⟩)
    · rw [e]; exact marks
    · have no : q.steps.isEmpty = false := by simpa using busy
      rw [e, no]; exact marks

theorem State.applyBind_spec (b : State) (n : Nat) (d : Desc) :
    let slot := d.plen % 4096
    let rank := d.maxNew % 128
    ((b.serveTable n).hasSlot slot = true → (b.svc.slot slot).state = 0 → 8 ≤ rank → rank ≤ 64 → rank % 8 = 0 → d.adnum < 4096 →
      b.grantOpen d.adnum = false →
      let t := b.applyBind n d
      (t.svc.ad d.adnum).valid = true ∧ (t.svc.ad d.adnum).slot = slot ∧ (t.svc.slot slot).state = 1 ∧
      (t.svc.ad d.adnum).version = if (b.svc.ad d.adnum).valid then (b.svc.ad d.adnum).version + 1 else 1) ∧
    ((b.svc.slot slot).state ≠ 0 → (b.applyBind n d).svc = b.svc) := by
  dsimp only
  unfold State.applyBind
  dsimp only
  refine ⟨fun inRange free low high whole small unopened => ?_, fun taken => ?_⟩
  · have ok : ((b.serveTable n).hasSlot (d.plen % 4096) && (b.svc.slot (d.plen % 4096)).state == 0 &&
        decide ((decide (8 ≤ d.maxNew % 128) && decide (d.maxNew % 128 ≤ 64)) = true) && d.maxNew % 128 % 8 == 0 &&
        decide (d.adnum < 4096) && !b.grantOpen d.adnum) = true := by
      simp [inRange, free, low, high, whole, small, unopened]
    rw [if_neg (by rw [ok]; exact Bool.false_ne_true)]
    dsimp only [Svc.ad, Svc.slot, Svc.setSlot]
    simp only [Map.get_set_self]
    exact ⟨trivial, trivial, trivial, trivial⟩
  · rw [if_pos (by simp [taken])]
    exact (State.raiseSvc_spec ..).2.2.1

/-! ### Admission (R331, R332) -/

/-- Virtual time, balances and free values, and nothing else of the requests. -/
def OnlyAccounts (s t : State) : Prop :=
  t = { s with freeIdx := t.freeIdx, svc := { s.svc with custs := t.svc.custs, tables := t.svc.tables } }

theorem OnlyAccounts.refl (s : State) : OnlyAccounts s s := rfl
theorem OnlyAccounts.trans {s t u : State} (h : OnlyAccounts s t) (k : OnlyAccounts t u) : OnlyAccounts s u := by
  unfold OnlyAccounts at h k ⊢
  refine k.trans ?_
  rw [h]

theorem OnlyAccounts.setCust (s : State) (c : Nat) (x : Cust) : OnlyAccounts s { s with svc := s.svc.setCust c x } := rfl
theorem OnlyAccounts.setTable (s : State) (n : Nat) (x : SvcTable) : OnlyAccounts s { s with svc := s.svc.setTable n x } := rfl

theorem OnlyAccounts.foldl_setCust (g : Nat × Cust → Nat) (c : Nat × Cust → Cust) (l : List (Nat × Cust)) (s : State) :
    OnlyAccounts s (l.foldl (fun s e => { s with svc := s.svc.setCust (g e) (c e) }) s) :=
  foldl_inv (OnlyAccounts s) (fun _ _ h => h.trans (OnlyAccounts.setCust ..)) l s (OnlyAccounts.refl s)

theorem OnlyAccounts.rebaseVt (s : State) (tbl : Nat) : OnlyAccounts s (s.rebaseVt tbl) := by
  unfold State.rebaseVt
  dsimp only
  split
  · exact (OnlyAccounts.setTable s tbl _).trans (OnlyAccounts.foldl_setCust _ _ _ _)
  · exact OnlyAccounts.refl s

theorem OnlyAccounts.wakeCustomers (s : State) (tbl : Nat) (l : List Request) : OnlyAccounts s (s.wakeCustomers tbl l) :=
  OnlyAccounts.foldl_setCust _ _ _ _

theorem OnlyAccounts.charge (s : State) (tbl : Nat) (q : Request) (u : Nat) (kitty : Bool) : OnlyAccounts s (s.charge tbl q u kitty) := by
  unfold State.charge
  dsimp only
  split
  · split
    · rfl
    · split <;> rfl
  · split
    · rfl
    · split <;> rfl

theorem OnlyAccounts.reqs {s t : State} (h : OnlyAccounts s t) : t.svc.reqs = s.svc.reqs := by rw [h]
theorem OnlyAccounts.lanes {s t : State} (h : OnlyAccounts s t) : t.svc.lanes = s.svc.lanes := by rw [h]
theorem OnlyAccounts.dck {s t : State} (h : OnlyAccounts s t) : t.dck = s.dck := by rw [h]

/-- The input records of the lanes are written last (R327, R330). -/
theorem State.admission_svc (s : State) (n p src op off : Nat) (data : List Byte) :
    (if n == 0 then s else s.svcWrites p src op off data).svc = s.svc := by
  split
  · rfl
  · exact (State.svcWrites_asked ..).2

theorem State.admitRequests_of_closed (b : State) (n t : Nat) (h : (b.table n).closing = true ∨ (b.table n).failed = true ∨
    (b.table n).recovering = true ∨ ((b.table n).phase ≠ 1 ∧ (b.table n).phase ≠ 2)) :
    (b.admitRequests n t).svc.reqs = b.svc.reqs ∧ (b.admitRequests n t).svc.lanes = b.svc.lanes := by
  have shut : (!(b.table n).closing && ((b.table n).phase == 1 || (b.table n).phase == 2) && !(b.table n).failed &&
      !(b.table n).recovering) = false := by
    rcases h with e | e | e | ⟨e1, e2⟩
    · simp [e]
    · simp [e]
    · simp [e]
    · simp [e1, e2]
  have accounts : ∀ l, OnlyAccounts b ((b.rebaseVt n).wakeCustomers n l) := fun l =>
    (OnlyAccounts.rebaseVt b n).trans (OnlyAccounts.wakeCustomers ..)
  unfold State.admitRequests
  dsimp only
  rw [State.admission_svc, shut]
  simp only [Bool.false_and, List.filter_false, Bool.false_eq_true, if_false, List.filter_nil, List.map_nil, List.length_nil,
    Placing.admitGen, Placing.admitPool, ite_self]
  exact ⟨(accounts _).reqs, (accounts _).lanes⟩

theorem State.startRestores_of_none (tbl t fuel : Nat) (s : State)
    (h : (s.reqsOf tbl).filter (fun q => q.state == .queued && q.resume && !q.cancelled && decide (q.intake < t)) = []) :
    State.startRestores tbl t fuel s = s := by
  cases fuel with
  | zero => rfl
  | succ fuel =>
    rw [State.startRestores, h]
    rfl

/-- A request without prompt tokens has no chunk to place. -/
theorem Placing.admitPool_of_no_prompt (tbl t : Nat) (kitty : Bool) (fuel : Nat) (ids : List Nat) (a : Placing)
    (h : ∀ q ∈ a.s.reqsOf tbl, q.prompt = []) : Placing.admitPool tbl t kitty fuel ids a = a := by
  cases fuel with
  | zero => rfl
  | succ fuel =>
    have none_ : (a.s.reqsOf tbl).filter (fun q => ids.contains q.id && a.s.canChunk tbl t q && a.s.eligible tbl q kitty) = [] := by
      rw [List.filter_eq_nil_iff]
      intro q hq
      simp [State.canChunk, h q hq]
    rw [Placing.admitPool, none_]
    rfl

/-- The step that a generating request takes from the first lane on (R331). -/
def Request.generated (q : Request) (t : Nat) (toks : List Nat) : Request :=
  { q with ready := none, drafts := [], steps := q.steps ++
      [{ tick := t, lane := 0, n := toks.length, tokens := toks, pos := q.pos, gen := true, sampled := true, read := false }] }

/-- The tokens of a generation step (R331). -/
def Request.genTokens (q : Request) (nlane : Nat) : List Nat := q.ready.getD 0 :: q.drafts.take (min (1 + q.dcur) nlane - 1)

/-- The trump rule with one request: it takes its lanes. -/
theorem Placing.admitGen_one (s : State) (tbl t : Nat) (q : Request) (h : s.reqsOf tbl = [q]) (lanes : 0 < (s.serveTable tbl).nlane) :
    (Placing.admitGen tbl t 1 [q.id] { s, lane := 0, recs := [] }).s.svc.reqs =
      s.svc.reqs.map fun z => if z.id = q.id then q.generated t (q.genTokens (s.serveTable tbl).nlane) else z := by
  have only : (s.reqsOf tbl).filter (fun z => [q.id].contains z.id) = [q] := by
    rw [h]; simp
  rw [Placing.admitGen]
  dsimp only
  rw [only]
  have some_ : s.firstOf [q] = some q := rfl
  rw [some_]
  dsimp only
  rw [if_neg (by simpa using Nat.ne_of_gt lanes), Placing.admitGen]
  refine (OnlyAccounts.charge ..).reqs.trans ?_
  unfold Placing.place State.modReq
  simp only [beq_iff_eq]
  rfl

theorem find?_map_replace (l : List Request) (q q' : Request) (h : q ∈ l) (hid : q'.id = q.id) :
    (l.map fun z => if z.id = q.id then q' else z).find? (·.id == q.id) = some q' := by
  induction l with
  | nil => exact absurd h List.not_mem_nil
  | cons z l ih =>
    rw [List.map_cons]
    by_cases e : z.id = q.id
    · rw [if_pos e, List.find?_cons_of_pos (by simpa using hid)]
    · rw [if_neg e, List.find?_cons_of_neg (by simpa using e)]
      refine ih ?_
      rcases List.mem_cons.mp h with rfl | h
      · exact absurd rfl e
      · exact h

theorem OnlyAccounts.reqsOf {s t : State} (h : OnlyAccounts s t) (n : Nat) : t.reqsOf n = s.reqsOf n := by rw [h]; rfl
theorem OnlyAccounts.serveTable {s t : State} (h : OnlyAccounts s t) (n : Nat) : t.serveTable n = s.serveTable n := by rw [h]; rfl

/-- A request that is ready to generate has the first lanes (R331). -/
theorem State.admitRequests_generates (b : State) (n t : Nat) (q : Request) (gone : (b.table n).closing = false)
    (phase : (b.table n).phase = 1) (well : (b.table n).failed = false) (here : (b.table n).recovering = false)
    (alone : b.reqsOf n = [q]) (chat : q.isScore = false) (ready : q.genReady = true) (lanes : 0 < (b.serveTable n).nlane) :
    (b.admitRequests n t).req? q.id = some (q.generated t (q.genTokens (b.serveTable n).nlane)) := by
  have hq : q ∈ b.svc.reqs ∧ q.table = n := by
    have : q ∈ b.reqsOf n := by rw [alone]; exact List.mem_singleton_self q
    simpa [State.reqsOf] using this
  have parts := ready
  simp only [Request.genReady, Bool.and_eq_true, beq_iff_eq, List.isEmpty_iff] at parts
  obtain ⟨⟨⟨⟨⟨active, -⟩, noPrompt⟩, -⟩, -⟩, -⟩ := parts
  have reqs : (b.admitRequests n t).svc.reqs =
      b.svc.reqs.map fun z => if z.id = q.id then q.generated t (q.genTokens (b.serveTable n).nlane) else z := by
    have stay : (if (true && (1 : Nat) == 1) = true then State.startRestores n t (b.reqsOf n).length b else b) = b := by
      refine (if_pos rfl).trans (State.startRestores_of_none _ _ _ _ ?_)
      rw [alone, List.filter_eq_nil_iff]
      simp [active]
    have mine : ∀ u : State, u.reqsOf n = [q] → (u.reqsOf n).filter (fun z => true && z.phase == 1) = [q] := by
      intro u hu
      rw [hu]
      simp [Request.phase, chat]
    have accounts : ∀ l, OnlyAccounts b ((b.rebaseVt n).wakeCustomers n l) := fun l =>
      (OnlyAccounts.rebaseVt b n).trans (OnlyAccounts.wakeCustomers ..)
    have opened : (!(b.table n).closing && ((b.table n).phase == 1 || (b.table n).phase == 2) && !(b.table n).failed &&
        !(b.table n).recovering) = true := by
      simp [gone, phase, well, here]
    unfold State.admitRequests
    dsimp only
    rw [State.admission_svc, opened, phase, stay, mine b alone]
    have gen : [q].filter (·.genReady) = [q] := by simp [ready]
    rw [gen]
    generalize hs : (b.rebaseVt n).wakeCustomers n _ = s
    have same : OnlyAccounts b s := hs ▸ accounts _
    have placed := Placing.admitGen_one s n t q (same.reqsOf n |>.trans alone) (same.serveTable n ▸ lanes)
    rw [same.serveTable n, same.reqs] at placed
    rw [mine s (same.reqsOf n |>.trans alone)]
    simp only [List.map_cons, List.map_nil, List.length_cons, List.length_nil]
    generalize Placing.admitGen n t 1 [q.id] { s, lane := 0, recs := [] } = a at *
    have silent : ∀ z ∈ a.s.reqsOf n, z.prompt = [] := by
      intro z hz
      obtain ⟨hz, ht⟩ := List.mem_filter.mp hz
      rw [placed, List.mem_map] at hz
      obtain ⟨w, hw, e⟩ := hz
      by_cases c : w.id = q.id
      · rw [if_pos c] at e
        rw [← e]
        exact noPrompt
      · rw [if_neg c] at e
        subst e
        have : w ∈ b.reqsOf n := List.mem_filter.mpr ⟨hw, ht⟩
        rw [alone, List.mem_singleton] at this
        exact absurd (congrArg Request.id this) c
    rw [Placing.admitPool_of_no_prompt _ _ _ _ _ a silent, Placing.admitPool_of_no_prompt _ _ _ _ _ a silent, ite_self]
    exact placed
  rw [State.req?, reqs]
  exact find?_map_replace _ q _ hq.1 rfl

/-! ### The boundary -/

theorem Table.stop_spec (x : Table) : x.stop.phase = 0 ∧ x.stop.switch = none ∧ x.stop.role = none ∧ x.stop.stopping = false :=
  ⟨rfl, rfl, rfl, rfl⟩

/-- A table that stops (R28, R43, R62, R349). -/
theorem State.stopTables_stopped (b : State) (n : Nat) (hn : n < 16) (h : b.halted = true ∨ (b.table n).stopping = true) :
    ((b.stopTables).table n).phase = 0 ∧ ((b.stopTables).table n).switch = none ∧ ((b.stopTables).table n).role = none ∧
      ((b.stopTables).table n).stopping = false ∧ ∀ q ∈ (b.stopTables).svc.reqs, q.table ≠ n := by
  have stops : (b.halted || (b.table n).stopping) = true := by rw [Bool.or_eq_true]; exact h
  rw [b.stopTables_table n hn, if_pos stops]
  obtain ⟨phase, switch, role, stopping⟩ := (b.table n).stop_spec
  exact ⟨phase, switch, role, stopping, b.stopTables_reqs n hn stops⟩

theorem State.stopTables_running (b : State) (n : Nat) (hn : n < 16) (live : b.halted = false) (h : (b.table n).stopping = false) :
    (b.stopTables).table n = b.table n := by
  rw [b.stopTables_table n hn, live, h]
  rfl

/-- The meter (R67, R68). -/
theorem State.meterTick_meters (b : State) (n : Nat) (hn : n < 16) :
    let map := match b.runningProg n with | some p => p.tokens | none => 0
    (b.meterTick.table n).used = min 0xFFF (b.meterTable n) ∧ (b.meterTick.table n).map = map ∧
      (b.meterTick.table n).overrun = ((b.table n).overrun || decide (map + 16 < b.meterTable n)) ∧
      ((b.table n).role = none → (b.meterTick.table n).used = 0) ∧ b.meterTick.pwr.ticks = b.pwr.ticks + 1 := by
  have tokens : b.runningTokens n = match b.runningProg n with | some p => p.tokens | none => 0 := by
    unfold State.runningTokens
    split <;> rfl
  obtain ⟨table, ticks⟩ := b.meterTick_spec n hn
  dsimp only
  rw [← tokens, table]
  refine ⟨satTo_eq_min _ _, rfl, rfl, fun idle => ?_, ticks⟩
  have zero : b.meterTable n = 0 := by
    unfold State.meterTable
    rw [idle]
    rfl
  rw [zero]
  rfl

/-- Settles O14, an action of the boundary at a time. -/
theorem tickBoundaryEndsTheTick : Obligations.TickBoundaryEndsTheTick := by
  refine ⟨fun s h => ?_, fun b n hn => ⟨b.meterTick_meters n hn, ?_, b.stopTables_stopped n hn, b.stopTables_running n hn,
    fun c hs hc due => ?_, fun c hc due => ?_, b.deckBoundary_before_start, b.portTick_spec,
    ⟨b.stepTable_running n, fun c runs live hs orderly next hw => b.stepTable_stopping n c runs live hs orderly next hw, b.stepTable_halted n,
      fun i hi => b.stepTable_tile n i hi, .of_mem (b.stepTable_mem n)⟩,
    fun t entered => rfl, fun id => ⟨b.applyCancel_of_gone n id, fun q hq => b.applyCancel_of_found n id q hq⟩, fun d => b.applyBind_spec n d,
    fun r hr entered => b.grantAll_withdraws r hr entered, fun t q gone phase well here alone chat ready lanes => ?_,
    fun t h => b.admitRequests_of_closed n t h⟩⟩
  · dsimp only
    by_cases last : s.beat + 1 = s.tickLen
    · rw [if_pos last]
      exact ⟨_, congrArg Host.Outcome.next (if_pos last), State.nextTick_now _ (State.fabricWork_moved s (Moved.refl h)).legal, rfl⟩
    · rw [if_neg last]
      exact ⟨_, congrArg Host.Outcome.next (if_neg last), State.nextTick_now _ h, rfl⟩
  · exact State.table_modTable_self ..
  · rw [b.deckBoundary_start c hs hc due]
    exact b.deckStart_spec n hs
  · rw [b.deckBoundary_stop c hc due]
    exact b.deckStop_spec c n
  · exact ⟨_, b.admitRequests_generates n t q gone phase well here alone chat ready lanes, rfl, rfl⟩

end Sys2Proof.Machine
end

section
/-! PROOFS. The dealer: what decode notes (R183), what slot X reads (R182, R202 to R215), and slot C (R195 to R201). -/

namespace Sys2Proof.Machine

/-! ### The counters at the start of a beat (R182) -/

/-- A tile as the beat began: its counters and its poisoned-slot count alone can differ. -/
theorem Tile.atStart_frame (t : Tile) (now : Nat) :
    t.atStart now = { t with ctr := (t.atStart now).ctr, poison := (t.atStart now).poison } := by
  unfold Tile.atStart
  split
  · split <;> rfl
  · rfl

/-! ### Decode (R183) -/

/-- A bundle is noted as decoded, with its operation or the code that its read found. -/
def State.noteDecoded (s : State) (p idx stamp id code : Nat) : State :=
  s.modTile p fun u => { u with decoded := u.decoded ++ [(idx, stamp, id, code)] }

theorem State.noteDecoded_tile (s : State) (p idx stamp id code : Nat) :
    (s.noteDecoded p idx stamp id code).tile p = { s.tile p with decoded := (s.tile p).decoded ++ [(idx, stamp, id, code)] } :=
  State.tile_modTile_self ..

/-- A bundle whose beat has come near, decoded. -/
theorem execBundleDecode_due (s : State) (p idx stamp : Nat) (hp : p < 208)
    (h : s.undecoded ((s.tile p).atStart (s.stamp (p / 13))) = some (idx, stamp)) (due : stamp ≤ s.stamp (p / 13) + 16) :
    let t := (s.tile p).atStart (s.stamp (p / 13))
    let b := t.bundleAt idx
    exec (.bundleDecode p) s = .next (
      if s.sending p t (slotX b) then
        match s.xRead p idx (slotX b) (s.stamp (p / 13)) stamp (s.deadlineOf p b) t with
        | .error c => s.noteDecoded p idx stamp 0 c
        | .ok (none, _) => s.noteDecoded p idx stamp 0 0
        | .ok (some o, note) => (s.takeOp p o).noteDecoded p idx stamp o.id note
      else s.noteDecoded p idx stamp 0 0) := by
  have run : exec (.bundleDecode p) s = _ := if_pos hp
  rw [run]
  dsimp only
  rw [h]
  dsimp only
  exact congrArg Host.Outcome.next (if_neg (by omega))

theorem execBundleDecode_early (s : State) (p idx stamp : Nat) (hp : p < 208)
    (h : s.undecoded ((s.tile p).atStart (s.stamp (p / 13))) = some (idx, stamp)) (early : s.stamp (p / 13) + 16 < stamp) :
    exec (.bundleDecode p) s = .next s := by
  have run : exec (.bundleDecode p) s = _ := if_pos hp
  rw [run]
  dsimp only
  rw [h]
  dsimp only
  rw [if_pos early]

theorem sendingOperationsAreDecodedEarly : Claims.SendingOperationsAreDecodedEarly := by
  intro s p idx stamp hp
  dsimp only
  intro h
  have noted : ∀ id code, OnlyTile p s (s.noteDecoded p idx stamp id code) ∧
      (s.noteDecoded p idx stamp id code).tile p = { s.tile p with decoded := (s.tile p).decoded ++ [(idx, stamp, id, code)] } :=
    fun id code => ⟨s.onlyTile_modTile p _, s.noteDecoded_tile ..⟩
  refine ⟨execBundleDecode_early s p idx stamp hp h, fun due quiet => ?_, fun c due sends read => ?_, fun o note due sends read => ?_⟩
  · refine ⟨_, execBundleDecode_due s p idx stamp hp h due, ?_⟩
    rw [quiet]
    exact noted 0 0
  · refine ⟨_, execBundleDecode_due s p idx stamp hp h due, ?_⟩
    rw [sends, read]
    exact noted 0 c
  · refine ⟨_, execBundleDecode_due s p idx stamp hp h due, ?_⟩
    rw [sends, read]
    show OnlyTile p s ((s.takeOp p o).noteDecoded p idx stamp o.id note) ∧ _
    refine ⟨s.onlyTile_modTile_modTile p (·.addOp o) _, ((s.takeOp p o).noteDecoded_tile p idx stamp o.id note).trans ?_⟩
    rw [State.takeOp, State.tile_modTile_self]
    rfl

/-! ### What slot X reads (R182, R202 to R215) -/

/-- The operation that every slot-X word becomes, before its own fields (R203). -/
def State.xBase (s : State) (p idx now j dl : Nat) : Op :=
  { id := (s.tile p).nextOp, kind := .fill, bundle := idx, issue := j, deadline := dl, tracked := true,
    taken := now, flag := none, dst := (s.selfDev, s.ltileOf p, 0) }

/-- An operation takes its completion flag (R194, R206). -/
def State.flagged (s : State) (t : Tile) (cf : Bool) (flagx : Nat) (o : Op) : Except Nat (Option Op × Nat) :=
  match s.flagFor t cf flagx with
  | .error c => .error c
  | .ok (f, note) => .ok (some { o with flag := f }, note)

theorem State.flagged_ok {s : State} {t : Tile} {cf : Bool} {flagx note : Nat} {o o' : Op}
    (h : s.flagged t cf flagx o = .ok (some o', note)) : ∃ f, o' = { o with flag := f } := by
  unfold State.flagged at h
  split at h
  · exact absurd h (by simp)
  · next f note' _ =>
    injection h with h
    injection h with h _
    injection h with h
    exact ⟨f, h.symm⟩

section
variable (s : State) (p idx w now j dl : Nat) (t : Tile)

theorem State.xRead_nop (h : slotOp w = 0 ∨ 11 < slotOp w) : s.xRead p idx w now j dl t = .ok (none, 0) := by
  unfold State.xRead
  exact if_pos (by simpa using h)

theorem State.xRead_full (h : 1 ≤ slotOp w) (h' : slotOp w ≤ 11) (full : 1024 ≤ (s.tile p).trackers) :
    s.xRead p idx w now j dl t = .error 0x3009 := by
  unfold State.xRead
  refine (if_neg ?_).trans (if_pos full)
  simp only [Bool.or_eq_true, decide_eq_true_eq]
  omega

variable (free : (s.tile p).trackers < 1024)
include free

theorem State.xRead_fill (h : slotOp w = 1) : s.xRead p idx w now j dl t =
    let e := rangeE (t.odtEntry (slotA w))
    if odtKind (t.odtEntry (slotA w)) != 1 then .error 0x300a
    else s.flagged t (slotCF w) e.flagx
      { s.xBase p idx now j dl with kind := .fill, n := e.nrows, arg := e.rowOf t.counter, arg2 := t.counter (bits w 8 4), started := true } := by
  unfold State.xRead
  simp only [h]
  exact (if_neg (by decide)).trans (if_neg (Nat.not_le.mpr free))

theorem State.xRead_copy (h : slotOp w = 2) : s.xRead p idx w now j dl t =
    let d := rangeE (t.odtEntry (slotA w))
    let r := rangeE (t.odtEntry (slotB w))
    let x := d.rowOf t.counter
    let y := r.rowOf t.counter
    if odtKind (t.odtEntry (slotA w)) != 1 || odtKind (t.odtEntry (slotB w)) != 1 then .error 0x300a
    else if d.nrows != r.nrows then .error 0x300a
    else if x < y + d.nrows && y < x + d.nrows then .error 0x3006
    else s.flagged t (slotCF w) d.flagx
      { s.xBase p idx now j dl with
        kind := .copy, n := d.nrows, arg := x, arg2 := y, reads := d.nrows, started := true,
        held := (List.range d.nrows).map fun i => { row := x + i, lo := 0, len := 64, srcOff := 64 * i } } := by
  unfold State.xRead
  simp only [h]
  exact (if_neg (by decide)).trans (if_neg (Nat.not_le.mpr free))

theorem State.xRead_dmaw (h : slotOp w = 3) : s.xRead p idx w now j dl t =
    let g := globalE (t.odtEntry (slotA w))
    let r := rangeE (t.odtEntry (slotB w))
    if odtKind (t.odtEntry (slotA w)) != 2 || odtKind (t.odtEntry (slotB w)) != 1 then .error 0x300a
    else if g.nrows != r.nrows then .error 0x300a
    else match s.remote (64 * g.rowOf t.counter) with
      | .error c => .ok (some { s.xBase p idx now j dl with kind := .dmaw }, c)
      | .ok (dev, lt, off) => s.flagged t (slotCF w) g.flagx
        { s.xBase p idx now j dl with
          kind := .dmaw, n := g.nrows, dst := (dev, lt, off / 64), reads := g.nrows, nslots := ceilDiv g.nrows 2,
          awaiting := b2n (dev == s.selfDev), later := sendReads now j (r.rowOf t.counter) g.nrows } := by
  unfold State.xRead
  simp only [h]
  exact (if_neg (by decide)).trans (if_neg (Nat.not_le.mpr free))

theorem State.xRead_dmar (h : slotOp w = 4) : s.xRead p idx w now j dl t =
    let g := globalE (t.odtEntry (slotA w))
    let d := rangeE (t.odtEntry (slotB w))
    if odtKind (t.odtEntry (slotA w)) != 2 || odtKind (t.odtEntry (slotB w)) != 1 then .error 0x300a
    else if g.nrows != d.nrows then .error 0x300a
    else match s.remote (64 * g.rowOf t.counter) with
      | .error c => .ok (some { s.xBase p idx now j dl with kind := .dmaw }, c)
      | .ok (dev, lt, off) => s.flagged t (slotCF w) g.flagx
        { s.xBase p idx now j dl with
          kind := .dmar, n := g.nrows, dst := (dev, lt, off / 64), awaiting := g.nrows, arg2 := d.rowOf t.counter } := by
  unfold State.xRead
  simp only [h]
  exact (if_neg (by decide)).trans (if_neg (Nat.not_le.mpr free))

theorem State.xRead_push (h : slotOp w = 5) : s.xRead p idx w now j dl t =
    let e := rangeE (t.odtEntry (slotA w))
    let rg := t.ring (bits w 8 4)
    let n := if bit w 3 then min (t.counter (bits w 4 4)) e.nrows else e.nrows
    if odtKind (t.odtEntry (slotA w)) != 1 then .error 0x300a
    else if !rg.enabled || rg.prod != 0 then .error 0x3003
    else s.flagged t (slotCF w) e.flagx
      { s.xBase p idx now j dl with
        kind := .push, n, arg := bits w 8 4, arg2 := e.rowOf t.counter, reads := ceilDiv (n * rg.esz) 64 } := by
  unfold State.xRead
  simp only [h]
  exact (if_neg (by decide)).trans (if_neg (Nat.not_le.mpr free))

theorem State.xRead_pop (h : slotOp w = 6) : s.xRead p idx w now j dl t =
    let e := rangeE (t.odtEntry (slotA w))
    let rg := t.ring (bits w 8 4)
    let n := if bit w 3 then min (t.counter (bits w 4 4)) e.nrows else e.nrows
    if odtKind (t.odtEntry (slotA w)) != 1 then .error 0x300a
    else if !rg.enabled || rg.cons != 0 then .error 0x3003
    else s.flagged t (slotCF w) e.flagx
      { s.xBase p idx now j dl with
        kind := .pop, n := if rg.count = 0 then 0 else n, arg := bits w 8 4, arg2 := e.rowOf t.counter, reads := 1 } := by
  unfold State.xRead
  simp only [h]
  exact (if_neg (by decide)).trans (if_neg (Nat.not_le.mpr free))

/-- The decoded address of a PUSHR stands as a variable: no step is to evaluate it. -/
theorem State.xRead_pushr (h : slotOp w = 7) (remote : Nat → Except Nat (Nat × Nat × Nat)) (isRemote : remote = State.remote s) :
    s.xRead p idx w now j dl t =
    let e := rrefE (t.odtEntry (slotA w))
    let r := rangeE (t.odtEntry (slotB w))
    let rows := ceilDiv (r.nrows * s.pushrSize p e) 64
    if odtKind (t.odtEntry (slotA w)) != 6 || odtKind (t.odtEntry (slotB w)) != 1 then .error 0x300a
    else match remote (globalAddr e.dev e.ltile 0) with
      | .error c => .ok (some { s.xBase p idx now j dl with kind := .dmaw }, c)
      | .ok (dev, lt, _) => s.flagged t (slotCF w) e.flagx
        { s.xBase p idx now j dl with
          kind := .pushr, n := r.nrows, arg := e.ring, arg2 := s.pushrSize p e, dst := (dev, lt, 0), reads := rows,
          nslots := ceilDiv (r.nrows * s.pushrSize p e) 128, awaiting := b2n (dev == s.selfDev),
          later := sendReads now j (r.rowOf t.counter) rows } := by
  unfold State.xRead
  rw [← isRemote]
  simp only [h]
  exact (if_neg (by decide)).trans (if_neg (Nat.not_le.mpr free))

/-- The rows of a CSEND, requested for the beats of its circuit's slots (R209, R270). -/
def State.csendReads (s : State) (p now row : Nat) (c : CircE) (n : Nat) : List (Nat × Nat × Nat × Nat × Nat) :=
  let ce := circuitE (Map.get 0#64 (s.port c.port).sendTbl c.circuit).toNat
  (List.range n).map fun i =>
    let f := (ce.slotBeat (i / 2) - 1) * (s.clockRatio (p / 13)).1 / (s.clockRatio (p / 13)).2
    (max now (s.tick * 65536 + f - rowLatency (row + i) - 1), row + i, 0, 64, 64 * i)

theorem State.xRead_csend (h : slotOp w = 8) : s.xRead p idx w now j dl t =
    let c := circE (t.odtEntry (slotA w))
    let r := rangeE (t.odtEntry (slotB w))
    if odtKind (t.odtEntry (slotA w)) != 3 || odtKind (t.odtEntry (slotB w)) != 1 || c.dir then .error 0x300a
    else s.flagged t (slotCF w) c.flagx
      { s.xBase p idx now j dl with
        kind := .csend, n := r.nrows, arg := c.circuit, arg2 := c.port, nslots := ceilDiv r.nrows 2, reads := r.nrows,
        pp := bit w 1, later := s.csendReads p now (r.rowOf t.counter) c r.nrows } := by
  unfold State.xRead
  simp only [h]
  exact (if_neg (by decide)).trans (if_neg (Nat.not_le.mpr free))

theorem State.xRead_crecv (h : slotOp w = 9) : s.xRead p idx w now j dl t =
    let c := circE (t.odtEntry (slotA w))
    let r := rangeE (t.odtEntry (slotB w))
    if odtKind (t.odtEntry (slotA w)) != 3 || odtKind (t.odtEntry (slotB w)) != 1 || !c.dir then .error 0x300a
    else s.flagged t (slotCF w) c.flagx
      { s.xBase p idx now j dl with
        kind := .crecv, n := r.nrows, arg := c.circuit, arg2 := r.rowOf t.counter, nslots := ceilDiv r.nrows 2,
        aux := c.port, started := true } := by
  unfold State.xRead
  simp only [h]
  exact (if_neg (by decide)).trans (if_neg (Nat.not_le.mpr free))

theorem State.xRead_flagw (h : slotOp w = 10) : s.xRead p idx w now j dl t =
    let f := flagE (t.odtEntry (slotA w))
    if odtKind (t.odtEntry (slotA w)) != 4 then .error 0x300a
    else match s.remote (4 * f.gword) with
      | .error c => .ok (some { s.xBase p idx now j dl with kind := .dmaw }, c)
      | .ok (dev, lt, off) =>
        .ok (some { s.xBase p idx now j dl with
          kind := .flagw, writes := b2n (dev = s.selfDev && lt = s.ltileOf p), awaiting := b2n (!(dev = s.selfDev && lt = s.ltileOf p)),
          n := 1, dst := (dev, lt, 0),
          flag := some { dev, ltile := lt, off, value := if f.ven then t.counter f.vctr else f.value, mode := f.mode } }, 0) := by
  unfold State.xRead
  simp only [h]
  exact (if_neg (by decide)).trans (if_neg (Nat.not_le.mpr free))

theorem State.xRead_dgst (h : slotOp w = 11) : s.xRead p idx w now j dl t =
    let e := rangeE (t.odtEntry (slotA w))
    if odtKind (t.odtEntry (slotA w)) != 1 then .error 0x300a
    else
      .ok (some { s.xBase p idx now j dl with
        kind := .dgst, n := e.nrows, reads := e.nrows, arg := bits w 0 12, aux := s.roundCounter,
        arg2 := (s.table (p / 13)).choice % 2 ^ 32, started := true,
        later := (List.range e.nrows).map fun i => (j + i / 2, e.rowOf t.counter + i, 0, 64, 64 * i) }, 0) := by
  unfold State.xRead
  simp only [h]
  exact (if_neg (by decide)).trans (if_neg (Nat.not_le.mpr free))

end

/-- A remote address that is not turned away has its parts (R7, R206). -/
theorem State.remote_ok {s : State} {a : Nat} {x : Nat × Nat × Nat} (h : s.remote a = .ok x) : s.decodeGlobal a = some x := by
  unfold State.remote at h
  split at h
  · exact absurd h (by simp)
  · next y e =>
    injection h with h
    rw [e, h]

/-- The code that a remote address is turned away with is one. -/
theorem State.remote_error {s : State} {a c : Nat} (h : s.remote a = .error c) : c ≠ 0 := by
  unfold State.remote at h
  split at h
  · injection h with h
    omega
  · exact absurd h (by simp)

/-- A decoded address of a whole row is that row's. -/
theorem State.decodeGlobal_row {s : State} {r dev lt off : Nat} (h : s.decodeGlobal (64 * r) = some (dev, lt, off)) :
    s.decodeGlobal (64 * r) = some (dev, lt, 64 * (off / 64)) := by
  rw [h]
  unfold State.decodeGlobal at h
  dsimp only at h
  split at h
  · exact absurd h (by simp)
  · simp only [Option.some.injEq, Prod.mk.injEq, bits] at h
    obtain ⟨-, -, rfl⟩ := h
    congr 3
    omega

/-- The fields that every operation of slot X has (R203). -/
def ReadBase (s : State) (p idx j dl : Nat) (o : Op) : Prop :=
  o.id = (s.tile p).nextOp ∧ o.bundle = idx ∧ o.issue = j ∧ o.deadline = dl ∧ o.tracked = true

theorem State.xRead_wrong_kind (s : State) (p idx w now j dl : Nat) (t : Tile) (free : (s.tile p).trackers < 1024) :
    let ka := odtKind (t.odtEntry (slotA w))
    ((slotOp w = 1 ∨ slotOp w = 2 ∨ slotOp w = 5 ∨ slotOp w = 6 ∨ slotOp w = 11) → ka ≠ 1 → s.xRead p idx w now j dl t = .error 0x300a) ∧
    ((slotOp w = 3 ∨ slotOp w = 4) → ka ≠ 2 → s.xRead p idx w now j dl t = .error 0x300a) ∧
    ((slotOp w = 8 ∨ slotOp w = 9) → ka ≠ 3 → s.xRead p idx w now j dl t = .error 0x300a) := by
  dsimp only
  have no : ∀ {k : Nat} {b : Bool}, odtKind (t.odtEntry (slotA w)) ≠ k → (odtKind (t.odtEntry (slotA w)) != k || b) = true :=
    fun h => by rw [bne_iff_ne.mpr h, Bool.true_or]
  have no' : ∀ {k : Nat} {b c : Bool}, odtKind (t.odtEntry (slotA w)) ≠ k → ((odtKind (t.odtEntry (slotA w)) != k || b) || c) = true :=
    fun h => by rw [no h, Bool.true_or]
  refine ⟨?_, ?_, ?_⟩
  · rintro (h | h | h | h | h) wrong
    · exact (s.xRead_fill p idx w now j dl t free h).trans (if_pos (bne_iff_ne.mpr wrong))
    · exact (s.xRead_copy p idx w now j dl t free h).trans (if_pos (no wrong))
    · exact (s.xRead_push p idx w now j dl t free h).trans (if_pos (bne_iff_ne.mpr wrong))
    · exact (s.xRead_pop p idx w now j dl t free h).trans (if_pos (bne_iff_ne.mpr wrong))
    · exact (s.xRead_dgst p idx w now j dl t free h).trans (if_pos (bne_iff_ne.mpr wrong))
  · rintro (h | h) wrong
    · exact (s.xRead_dmaw p idx w now j dl t free h).trans (if_pos (no wrong))
    · exact (s.xRead_dmar p idx w now j dl t free h).trans (if_pos (no wrong))
  · rintro (h | h) wrong
    · exact (s.xRead_csend p idx w now j dl t free h).trans (if_pos (no' wrong))
    · exact (s.xRead_crecv p idx w now j dl t free h).trans (if_pos (no' wrong))

section
variable {s : State} {p idx w now j dl : Nat} {t : Tile} {o : Op}

theorem State.xRead_free (h : s.xRead p idx w now j dl t = .ok (some o, 0)) : (s.tile p).trackers < 1024 ∧ 1 ≤ slotOp w ∧ slotOp w ≤ 11 := by
  by_cases some_ : 1 ≤ slotOp w ∧ slotOp w ≤ 11
  · refine ⟨?_, some_⟩
    by_contra full
    rw [s.xRead_full p idx w now j dl t some_.1 some_.2 (by omega)] at h
    exact absurd h (by simp)
  · rw [s.xRead_nop p idx w now j dl t (by omega)] at h
    exact absurd h (by simp)

variable (read : s.xRead p idx w now j dl t = .ok (some o, 0))
include read

theorem State.fill_of_xRead (h : slotOp w = 1) : ReadBase s p idx j dl o ∧ o.kind = .fill ∧ o.n = (rangeE (t.odtEntry (slotA w))).nrows ∧
    o.arg = (rangeE (t.odtEntry (slotA w))).rowOf t.counter ∧ o.arg2 = t.counter (bits w 8 4) := by
  rw [s.xRead_fill p idx w now j dl t (State.xRead_free read).1 h] at read
  dsimp only at read
  split at read
  · exact absurd read (by simp)
  · obtain ⟨f, rfl⟩ := State.flagged_ok read
    exact ⟨⟨rfl, rfl, rfl, rfl, rfl⟩, rfl, rfl, rfl, rfl⟩

theorem State.copy_of_xRead (h : slotOp w = 2) : ReadBase s p idx j dl o ∧ o.kind = .copy ∧ o.n = (rangeE (t.odtEntry (slotA w))).nrows ∧
    o.arg = (rangeE (t.odtEntry (slotA w))).rowOf t.counter ∧ o.arg2 = (rangeE (t.odtEntry (slotB w))).rowOf t.counter := by
  rw [s.xRead_copy p idx w now j dl t (State.xRead_free read).1 h] at read
  dsimp only at read
  split at read
  · exact absurd read (by simp)
  · split at read
    · exact absurd read (by simp)
    · split at read
      · exact absurd read (by simp)
      · obtain ⟨f, rfl⟩ := State.flagged_ok read
        exact ⟨⟨rfl, rfl, rfl, rfl, rfl⟩, rfl, rfl, rfl, rfl⟩

theorem State.dmaw_of_xRead (h : slotOp w = 3) : ReadBase s p idx j dl o ∧ o.kind = .dmaw ∧ o.n = (globalE (t.odtEntry (slotA w))).nrows ∧
    o.nslots = ceilDiv o.n 2 ∧ o.later.length = o.n ∧
    s.decodeGlobal (64 * (globalE (t.odtEntry (slotA w))).rowOf t.counter) = some (o.dst.1, o.dst.2.1, 64 * o.dst.2.2) := by
  rw [s.xRead_dmaw p idx w now j dl t (State.xRead_free read).1 h] at read
  dsimp only at read
  split at read
  · exact absurd read (by simp)
  · split at read
    · exact absurd read (by simp)
    · split at read
      · next c e => exact absurd (by simpa using read : _ ∧ c = 0).2 (State.remote_error e)
      · next dev lt off e =>
        obtain ⟨f, rfl⟩ := State.flagged_ok read
        exact ⟨⟨rfl, rfl, rfl, rfl, rfl⟩, rfl, rfl, rfl, by simp [sendReads], State.decodeGlobal_row (State.remote_ok e)⟩

theorem State.dmar_of_xRead (h : slotOp w = 4) : ReadBase s p idx j dl o ∧ o.kind = .dmar ∧ o.n = (globalE (t.odtEntry (slotA w))).nrows ∧
    o.arg2 = (rangeE (t.odtEntry (slotB w))).rowOf t.counter ∧ o.awaiting = o.n ∧
    s.decodeGlobal (64 * (globalE (t.odtEntry (slotA w))).rowOf t.counter) = some (o.dst.1, o.dst.2.1, 64 * o.dst.2.2) := by
  rw [s.xRead_dmar p idx w now j dl t (State.xRead_free read).1 h] at read
  dsimp only at read
  split at read
  · exact absurd read (by simp)
  · split at read
    · exact absurd read (by simp)
    · split at read
      · next c e => exact absurd (by simpa using read : _ ∧ c = 0).2 (State.remote_error e)
      · next dev lt off e =>
        obtain ⟨f, rfl⟩ := State.flagged_ok read
        exact ⟨⟨rfl, rfl, rfl, rfl, rfl⟩, rfl, rfl, rfl, rfl, State.decodeGlobal_row (State.remote_ok e)⟩

theorem State.push_of_xRead (h : slotOp w = 5) : ReadBase s p idx j dl o ∧ o.kind = .push ∧
    o.n = (if bit w 3 then min (t.counter (bits w 4 4)) (rangeE (t.odtEntry (slotA w))).nrows else (rangeE (t.odtEntry (slotA w))).nrows) ∧
    o.arg = bits w 8 4 ∧ o.arg2 = (rangeE (t.odtEntry (slotA w))).rowOf t.counter ∧ (t.ring o.arg).enabled = true ∧ (t.ring o.arg).prod = 0 := by
  rw [s.xRead_push p idx w now j dl t (State.xRead_free read).1 h] at read
  dsimp only at read
  split at read
  · exact absurd read (by simp)
  · split at read
    · exact absurd read (by simp)
    · next open_ =>
      obtain ⟨f, rfl⟩ := State.flagged_ok read
      simp only [Bool.or_eq_true, Bool.not_eq_true', bne_iff_ne, not_or, Bool.not_eq_false, not_not] at open_
      exact ⟨⟨rfl, rfl, rfl, rfl, rfl⟩, rfl, rfl, rfl, rfl, open_.1, open_.2⟩

theorem State.pop_of_xRead (h : slotOp w = 6) : ReadBase s p idx j dl o ∧ o.kind = .pop ∧
    o.n = (if (t.ring (bits w 8 4)).count = 0 then 0
      else if bit w 3 then min (t.counter (bits w 4 4)) (rangeE (t.odtEntry (slotA w))).nrows else (rangeE (t.odtEntry (slotA w))).nrows) ∧
    o.arg = bits w 8 4 ∧ o.arg2 = (rangeE (t.odtEntry (slotA w))).rowOf t.counter ∧ (t.ring o.arg).enabled = true ∧ (t.ring o.arg).cons = 0 := by
  rw [s.xRead_pop p idx w now j dl t (State.xRead_free read).1 h] at read
  dsimp only at read
  split at read
  · exact absurd read (by simp)
  · split at read
    · exact absurd read (by simp)
    · next open_ =>
      obtain ⟨f, rfl⟩ := State.flagged_ok read
      simp only [Bool.or_eq_true, Bool.not_eq_true', bne_iff_ne, not_or, Bool.not_eq_false, not_not] at open_
      exact ⟨⟨rfl, rfl, rfl, rfl, rfl⟩, rfl, rfl, rfl, rfl, open_.1, open_.2⟩

theorem State.pushr_of_xRead (h : slotOp w = 7) : ReadBase s p idx j dl o ∧ o.kind = .pushr ∧ o.n = (rangeE (t.odtEntry (slotB w))).nrows ∧
    o.arg = (rrefE (t.odtEntry (slotA w))).ring ∧ o.nslots = ceilDiv (o.n * s.pushrSize p (rrefE (t.odtEntry (slotA w)))) 128 := by
  obtain ⟨remote, isRemote⟩ : ∃ f, f = State.remote s := ⟨_, rfl⟩
  rw [s.xRead_pushr p idx w now j dl t (State.xRead_free read).1 h remote isRemote] at read
  dsimp only at read
  split at read
  · exact absurd read (by simp)
  · split at read
    · next c e => exact absurd (by simpa using read : _ ∧ c = 0).2 (State.remote_error (isRemote ▸ e))
    · obtain ⟨f, rfl⟩ := State.flagged_ok read
      exact ⟨⟨rfl, rfl, rfl, rfl, rfl⟩, rfl, rfl, rfl, rfl⟩

theorem State.csend_of_xRead (h : slotOp w = 8) : ReadBase s p idx j dl o ∧ o.kind = .csend ∧ o.n = (rangeE (t.odtEntry (slotB w))).nrows ∧
    o.arg = (circE (t.odtEntry (slotA w))).circuit ∧ o.arg2 = (circE (t.odtEntry (slotA w))).port ∧ o.pp = bit w 1 ∧
    (circE (t.odtEntry (slotA w))).dir = false := by
  rw [s.xRead_csend p idx w now j dl t (State.xRead_free read).1 h] at read
  dsimp only at read
  split at read
  · exact absurd read (by simp)
  · next out =>
    obtain ⟨f, rfl⟩ := State.flagged_ok read
    simp only [Bool.or_eq_true, not_or, Bool.not_eq_true] at out
    exact ⟨⟨rfl, rfl, rfl, rfl, rfl⟩, rfl, rfl, rfl, rfl, rfl, out.2⟩

theorem State.crecv_of_xRead (h : slotOp w = 9) : ReadBase s p idx j dl o ∧ o.kind = .crecv ∧ o.n = (rangeE (t.odtEntry (slotB w))).nrows ∧
    o.arg = (circE (t.odtEntry (slotA w))).circuit ∧ o.aux = (circE (t.odtEntry (slotA w))).port ∧
    o.arg2 = (rangeE (t.odtEntry (slotB w))).rowOf t.counter ∧ (circE (t.odtEntry (slotA w))).dir = true := by
  rw [s.xRead_crecv p idx w now j dl t (State.xRead_free read).1 h] at read
  dsimp only at read
  split at read
  · exact absurd read (by simp)
  · next into =>
    obtain ⟨f, rfl⟩ := State.flagged_ok read
    simp only [Bool.or_eq_true, not_or, Bool.not_eq_true', Bool.not_eq_false] at into
    exact ⟨⟨rfl, rfl, rfl, rfl, rfl⟩, rfl, rfl, rfl, rfl, rfl, into.2⟩

theorem State.flagw_of_xRead (h : slotOp w = 10) : ReadBase s p idx j dl o ∧ o.kind = .flagw ∧
    ∃ f, o.flag = some f ∧ f.dev = o.dst.1 ∧ f.ltile = o.dst.2.1 ∧ f.mode = (flagE (t.odtEntry (slotA w))).mode ∧
      f.value = (if (flagE (t.odtEntry (slotA w))).ven then t.counter (flagE (t.odtEntry (slotA w))).vctr else (flagE (t.odtEntry (slotA w))).value) ∧
      s.decodeGlobal (4 * (flagE (t.odtEntry (slotA w))).gword) = some (f.dev, f.ltile, f.off) := by
  rw [s.xRead_flagw p idx w now j dl t (State.xRead_free read).1 h] at read
  dsimp only at read
  split at read
  · exact absurd read (by simp)
  · split at read
    · next c e => exact absurd (by simpa using read : _ ∧ c = 0).2 (State.remote_error e)
    · next dev lt off e =>
      injection read with read
      injection read with read _
      injection read with read
      subst read
      exact ⟨⟨rfl, rfl, rfl, rfl, rfl⟩, rfl, _, rfl, rfl, rfl, rfl, rfl, State.remote_ok e⟩

theorem State.dgst_of_xRead (h : slotOp w = 11) : ReadBase s p idx j dl o ∧ o.kind = .dgst ∧ o.n = (rangeE (t.odtEntry (slotA w))).nrows ∧
    o.arg = bits w 0 12 := by
  rw [s.xRead_dgst p idx w now j dl t (State.xRead_free read).1 h] at read
  dsimp only at read
  split at read
  · exact absurd read (by simp)
  · injection read with read
    injection read with read _
    injection read with read
    subst read
    exact ⟨⟨rfl, rfl, rfl, rfl, rfl⟩, rfl, rfl, rfl⟩

theorem State.base_of_xRead : ReadBase s p idx j dl o := by
  obtain ⟨-, low, high⟩ := State.xRead_free read
  have ops : slotOp w = 1 ∨ slotOp w = 2 ∨ slotOp w = 3 ∨ slotOp w = 4 ∨ slotOp w = 5 ∨ slotOp w = 6 ∨ slotOp w = 7 ∨ slotOp w = 8 ∨
      slotOp w = 9 ∨ slotOp w = 10 ∨ slotOp w = 11 := by omega
  rcases ops with h | h | h | h | h | h | h | h | h | h | h
  · exact (State.fill_of_xRead read h).1
  · exact (State.copy_of_xRead read h).1
  · exact (State.dmaw_of_xRead read h).1
  · exact (State.dmar_of_xRead read h).1
  · exact (State.push_of_xRead read h).1
  · exact (State.pop_of_xRead read h).1
  · exact (State.pushr_of_xRead read h).1
  · exact (State.csend_of_xRead read h).1
  · exact (State.crecv_of_xRead read h).1
  · exact (State.flagw_of_xRead read h).1
  · exact (State.dgst_of_xRead read h).1

end

theorem slotXReadsItsOperands : Claims.SlotXReadsItsOperands := by
  intro s p idx w now j dl t o
  dsimp only
  refine ⟨fun h => s.xRead_nop p idx w now j dl t (.inl h), fun h h' => s.xRead_full p idx w now j dl t h h',
    fun h wrong free => (s.xRead_wrong_kind p idx w now j dl t free).1 h wrong,
    fun h wrong free => (s.xRead_wrong_kind p idx w now j dl t free).2.1 h wrong,
    fun h wrong free => (s.xRead_wrong_kind p idx w now j dl t free).2.2 h wrong, fun h ka kb rows free low high => ?_, fun read => ?_⟩
  · refine (s.xRead_copy p idx w now j dl t free h).trans ((if_neg ?_).trans ((if_neg ?_).trans (if_pos ?_)))
    · simp [ka, kb]
    · simp [rows]
    · simp [low, high]
  · obtain ⟨id, bundle, issue, deadline, tracked⟩ := State.base_of_xRead read
    exact ⟨id, bundle, issue, deadline, tracked, fun h => (State.fill_of_xRead read h).2, fun h => (State.copy_of_xRead read h).2,
      fun h => (State.dmaw_of_xRead read h).2, fun h => (State.dmar_of_xRead read h).2, fun h => (State.push_of_xRead read h).2,
      fun h => (State.pop_of_xRead read h).2, fun h => (State.pushr_of_xRead read h).2, fun h => (State.csend_of_xRead read h).2,
      fun h => (State.crecv_of_xRead read h).2, fun h => (State.flagw_of_xRead read h).2, fun h => (State.dgst_of_xRead read h).2⟩

end Sys2Proof.Machine
end

section
/-! PROOFS. A bundle issues at its beat (R49, R179), and what its slot C does (R195 to R201). -/

namespace Sys2Proof.Machine

/-! ### The bundle's turn (R49, R179, R182) -/

/-- The dealer has gone on to the bundle behind the one that issues. -/
def State.dealt (s : State) (p idx : Nat) : State := s.modTile p fun u => { u with bundle := idx, next := idx + 1, reps := [] }

/-- Slots X, V and M have had their turn: what decode noted of the bundle is done with. -/
def State.undecode (s : State) (p idx stamp : Nat) : State :=
  (s.modTile p fun u => u).modTile p fun u => { u with decoded := u.decoded.filter fun x => !(x.1 = idx && x.2.1 = stamp) }

section
variable {s : State} {p first count : Nat}

/-- A bundle at its beat, outside every repeat: slot X, slot V, slot M, then slot C. -/
theorem execBundleIssue_due (hp : p < 208) (run : ((s.tile p).atStart (s.stamp (p / 13))).run = some (first, count))
    (more : ((s.tile p).atStart (s.stamp (p / 13))).next < first + count) (reps : ((s.tile p).atStart (s.stamp (p / 13))).reps = [])
    (due : s.stamp (p / 13) = s.bundleStamp ((s.tile p).atStart (s.stamp (p / 13))) ((s.tile p).atStart (s.stamp (p / 13))).next []) :
    let now := s.stamp (p / 13)
    let t := (s.tile p).atStart now
    let b := t.bundleAt t.next
    exec (.bundleIssue p) s = .next ((((((s.dealt p t.next).issueX p t.next (slotX b) now (s.deadlineOf p b) now t).issueV p t.next (slotV b) now t).issueM
      p t.next (slotM b) t).undecode p t.next now).issueC p t.next (slotC b) now t (first + count)) := by
  dsimp only
  have shape : exec (.bundleIssue p) s = .next (s.issueBundle p) := if_pos hp
  rw [shape]
  refine congrArg Host.Outcome.next ?_
  unfold State.issueBundle
  dsimp only
  rw [run]
  dsimp only
  rw [reps, ← due, if_neg (by simpa using more)]
  rfl

theorem execBundleIssue_not_due (hp : p < 208) (run : ((s.tile p).atStart (s.stamp (p / 13))).run = some (first, count))
    (reps : ((s.tile p).atStart (s.stamp (p / 13))).reps = [])
    (wait : s.stamp (p / 13) ≠ s.bundleStamp ((s.tile p).atStart (s.stamp (p / 13))) ((s.tile p).atStart (s.stamp (p / 13))).next []) :
    exec (.bundleIssue p) s = .next s := by
  have shape : exec (.bundleIssue p) s = .next (s.issueBundle p) := if_pos hp
  rw [shape]
  refine congrArg Host.Outcome.next ?_
  unfold State.issueBundle
  dsimp only
  rw [run]
  dsimp only
  rw [reps, if_pos (by simpa using Or.inr wait)]

end

/-! ### What the other slots leave (R182) -/

theorem OnlyTile.refl (p : Nat) (s : State) : OnlyTile p s s := ⟨rfl, fun _ _ => rfl⟩

theorem OnlyTile.trans {p : Nat} {s t u : State} (h : OnlyTile p s t) (k : OnlyTile p t u) : OnlyTile p s u := by
  refine ⟨?_, fun q hq => (k.2 q hq).trans (h.2 q hq)⟩
  obtain ⟨hu, -⟩ := k
  obtain ⟨ht, -⟩ := h
  rw [hu, ht]

theorem OnlyTile.ltileOf {p : Nat} {s t : State} (h : OnlyTile p s t) (q : Nat) : t.ltileOf q = s.ltileOf q := by rw [h.1]; rfl
theorem OnlyTile.stamp {p : Nat} {s t : State} (h : OnlyTile p s t) (n : Nat) : t.stamp n = s.stamp n := by rw [h.1]; rfl
theorem OnlyTile.age {p : Nat} {s t : State} (h : OnlyTile p s t) : t.age = s.age := by rw [h.1]

/-- A record that is raised after a change of one tile is that of the state before. -/
theorem OnlyTile.posted {p : Nat} {s t u : State} {src kind status tag detail : Nat} (h : OnlyTile p s t)
    (k : Posted t u src kind status tag detail) : Posted s u src kind status tag detail :=
  k.of_before (by rw [h.1]; rfl) (by rw [h.1]) (by rw [h.1])

theorem OnlyTile.raiseTile_posted {p : Nat} {s t : State} (h : OnlyTile p s t) (q bundle code detail : Nat) :
    Posted s (t.raiseTile q bundle code detail) (srcTable (q / 13)) 2 code (faultTag (s.ltileOf q) bundle false) detail := by
  have posted := h.posted (t.raiseTile_posted q bundle code detail)
  rw [h.ltileOf q] at posted
  exact posted

theorem State.issueX_nop (s : State) (p idx w now dl stamp : Nat) (t : Tile) (fresh : t.decoded = []) (h : slotOp w = 0) :
    s.issueX p idx w now dl stamp t = s := by
  unfold State.issueX
  rw [fresh, s.xRead_nop p idx w now now dl t (.inl h)] <;> rfl

theorem State.issueV_nop (s : State) (p idx w now : Nat) (t : Tile) (h : slotOp w = 0) : s.issueV p idx w now t = s := by
  unfold State.issueV
  rw [h] <;> rfl

theorem State.issueM_nop (s : State) (p idx w : Nat) (t : Tile) (h : slotOp w = 0) : s.issueM p idx w t = s := by
  unfold State.issueM
  rw [h] <;> rfl

theorem State.issueC_nop (s : State) (p idx w now : Nat) (t : Tile) (stop : Nat) (h : slotOp w = 0 ∨ slotOp w = 9) :
    s.issueC p idx w now t stop = s := by
  unfold State.issueC
  rcases h with h | h <;> rw [h] <;> rfl

/-- The state in which a bundle without other slots finds slot C: the dealer has gone on, and nothing else has changed. -/
structure Turned (p idx : Nat) (s m : State) : Prop where
  only : OnlyTile p s m
  tile : m.tile p = { s.tile p with bundle := idx, next := idx + 1 }

theorem Turned.of_dealt (s : State) (p idx stamp : Nat) (fresh : (s.tile p).decoded = []) (reps : (s.tile p).reps = []) :
    Turned p idx s ((s.dealt p idx).undecode p idx stamp) := by
  refine ⟨(s.onlyTile_modTile p _).trans (State.onlyTile_modTile_modTile ..), ?_⟩
  unfold State.undecode State.dealt
  rw [State.tile_modTile_self, State.tile_modTile_self, State.tile_modTile_self, fresh, List.filter_nil, ← fresh, ← reps]

/-! ### Counters (R184, R195, R196) -/

theorem Tile.keepBefore_frame (t : Tile) (now : Nat) : t.keepBefore now = { t with before := (t.keepBefore now).before } := by
  unfold Tile.keepBefore
  split
  · split <;> rfl
  · rfl

theorem Tile.counter_writeCounter (t : Tile) (now d v c : Nat) :
    (t.writeCounter now d v).counter c = if c = d then v % 2 ^ 32 else t.counter c := by
  have kept : (t.keepBefore now).ctr = t.ctr := by rw [Tile.keepBefore_frame]
  unfold Tile.writeCounter Tile.counter Tile.setCounter
  dsimp only
  rw [kept, Map.get_set]
  split
  · exact BitVec.toNat_ofNat ..
  · rfl

theorem Tile.writeCounter_place (t : Tile) (now d v : Nat) :
    (t.writeCounter now d v).bundle = t.bundle ∧ (t.writeCounter now d v).next = t.next := by
  unfold Tile.writeCounter Tile.setCounter
  rw [Tile.keepBefore_frame]
  exact ⟨rfl, rfl⟩

/-! ### Row requests of a position -/

/-- Rows of a position are requested: no request is lost, and nothing else changes. -/
structure Requested (p : Nat) (s t : State) : Prop where
  only : OnlyTile p s t
  tile : t.tile p = { s.tile p with reqs := (t.tile p).reqs }
  kept : ∀ r ∈ (s.tile p).reqs, r ∈ (t.tile p).reqs

theorem Requested.refl (p : Nat) (s : State) : Requested p s s := ⟨OnlyTile.refl p s, rfl, fun _ h => h⟩

theorem Requested.trans {p : Nat} {s t u : State} (h : Requested p s t) (k : Requested p t u) : Requested p s u := by
  refine ⟨h.only.trans k.only, ?_, fun r hr => k.kept r (h.kept r hr)⟩
  rw [k.tile, h.tile]

theorem Requested.request (s : State) (p : Nat) (r : RowReq) : Requested p s (s.modTile p (·.request r)) := by
  refine ⟨s.onlyTile_modTile p _, ?_, fun x hx => ?_⟩
  · rw [State.tile_modTile_self]; rfl
  · rw [State.tile_modTile_self]
    exact (Tile.reqs_request ..).2 (.inr hx)

theorem State.mem_request (s : State) (p : Nat) (r : RowReq) : r ∈ ((s.modTile p (·.request r)).tile p).reqs := by
  rw [State.tile_modTile_self]
  exact (Tile.reqs_request ..).2 (.inl rfl)

/-- A fold of requests makes every one of them. -/
theorem Requested.foldl {α : Type} (p : Nat) (r : State → α → RowReq) (is : α → RowReq → Prop) (hr : ∀ s i, is i (r s i)) :
    ∀ (l : List α) (s : State), let t := l.foldl (fun s i => s.modTile p (·.request (r s i))) s
      Requested p s t ∧ ∀ i ∈ l, ∃ q ∈ (t.tile p).reqs, is i q
  | [], s => ⟨Requested.refl p s, fun _ h => absurd h List.not_mem_nil⟩
  | a :: l, s => by
    obtain ⟨all, found⟩ := Requested.foldl p r is hr l (s.modTile p (·.request (r s a)))
    refine ⟨(Requested.request s p _).trans all, fun i hi => ?_⟩
    rcases List.mem_cons.mp hi with rfl | hi
    · exact ⟨r s i, all.kept _ (s.mem_request p _), hr s i⟩
    · exact found i hi

/-! ### Slot C, an operation at a time (R195 to R201) -/

section
variable {s m : State} {p idx w now stop : Nat} {t : Tile}

/-- A write of a counter at the end of the beat. -/
def State.putCounter (m : State) (p now d v : Nat) : State := m.modTile p fun u => u.writeCounter now d v

theorem Turned.putCounter (h : Turned p idx s m) (now d v : Nat) : OnlyTile p s (m.putCounter p now d v) ∧
    ((m.putCounter p now d v).tile p).bundle = idx ∧ ((m.putCounter p now d v).tile p).next = idx + 1 ∧
    ∀ c, ((m.putCounter p now d v).tile p).counter c = if c = d then v % 2 ^ 32 else (s.tile p).counter c := by
  refine ⟨h.only.trans (m.onlyTile_modTile p _), ?_⟩
  unfold State.putCounter
  rw [State.tile_modTile_self, h.tile]
  obtain ⟨bundle, next⟩ := Tile.writeCounter_place { s.tile p with bundle := idx, next := idx + 1 } now d v
  exact ⟨bundle, next, fun c => Tile.counter_writeCounter ..⟩

/-- What the counter operations of slot C compute (R195, R196). -/
def State.slotCValue (s : State) (p w : Nat) (t : Tile) : Option Nat :=
  match slotOp w with
  | 1 => some (bits w 0 18)
  | 2 => some (bits w 0 16 * 2 ^ 16 + t.counter (bits w 18 4) % 2 ^ 16)
  | 3 => copFn (bits w 0 4) (t.counter (bits w 14 4)) (t.counter (bits w 10 4))
  | 4 => some (ofSigned 32 ((t.counter (bits w 14 4) : Int) + toSigned 14 (bits w 0 14)))
  | 6 => s.crd p t (bits w 12 6) (bits w 0 12)
  | _ => none

theorem State.issueC_counter (m : State) (p idx w now : Nat) (t : Tile) (stop : Nat)
    (h : slotOp w = 1 ∨ slotOp w = 2 ∨ slotOp w = 3 ∨ slotOp w = 4 ∨ slotOp w = 6) :
    m.issueC p idx w now t stop = match m.slotCValue p w t with
      | some v => m.putCounter p now (bits w 18 4) v
      | none => m := by
  unfold State.issueC State.slotCValue
  rcases h with h | h | h | h | h <;> rw [h] <;> rfl

theorem Turned.counter (h : Turned p idx s m)
    (op : slotOp w = 1 ∨ slotOp w = 2 ∨ slotOp w = 3 ∨ slotOp w = 4 ∨ slotOp w = 6) :
    let u := m.issueC p idx w now t stop
    OnlyTile p s u ∧ (u.tile p).bundle = idx ∧ (u.tile p).next = idx + 1 ∧ ∀ d, (u.tile p).counter d = match s.slotCValue p w t with
      | some v => if d = bits w 18 4 then v % 2 ^ 32 else (s.tile p).counter d
      | none => (s.tile p).counter d := by
  have value : m.slotCValue p w t = s.slotCValue p w t := by rw [h.only.1]; rfl
  dsimp only
  rw [m.issueC_counter p idx w now t stop op, value]
  cases s.slotCValue p w t with
  | some v => exact h.putCounter now (bits w 18 4) v
  | none =>
    refine ⟨h.only, ?_⟩
    dsimp only
    rw [h.tile]
    exact ⟨rfl, rfl, fun _ => rfl⟩

/-- Nothing is decoded, and no repeat is open: the bundles that do not issue are passed over, and no operation leaves. -/
theorem State.removeDecoded_of_none (m : State) (p stop : Nat) (fresh : (m.tile p).decoded = []) :
    OnlyTile p m (m.removeDecoded p stop) ∧ (m.removeDecoded p stop).tile p = m.tile p := by
  refine ⟨⟨rfl, fun q hq => State.tile_setTile_ne m p q _ hq⟩, ?_⟩
  unfold State.removeDecoded
  dsimp only
  rw [State.tile_setTile_self, fresh]
  simp only [List.filter_nil, List.any_nil, Bool.false_eq_true, if_false, List.map_id']
  rw [← fresh]

theorem passBundles_nil (n idx : Nat) : passBundles n idx [] = (idx + n, []) := by
  induction n generalizing idx with
  | zero => rfl
  | succ n ih =>
    show passBundles n (idx + 1) [] = _
    rw [ih]
    congr 1
    omega

theorem Turned.skipBundles (h : Turned p idx s m) (fresh : (s.tile p).decoded = []) (reps : (s.tile p).reps = []) (n stop : Nat) :
    OnlyTile p s (m.skipBundles p n stop) ∧ (m.skipBundles p n stop).tile p = { s.tile p with bundle := idx, next := idx + 1 + n } := by
  unfold State.skipBundles
  generalize hv : m.modTile p _ = v
  have tile : v.tile p = { s.tile p with bundle := idx, next := idx + 1 + n } := by
    rw [← hv, State.tile_modTile_self, h.tile]
    dsimp only
    rw [reps, passBundles_nil, ← reps]
  have only : OnlyTile p s v := h.only.trans (hv ▸ m.onlyTile_modTile p _)
  obtain ⟨last, same⟩ := v.removeDecoded_of_none p stop (by rw [tile]; exact fresh)
  exact ⟨only.trans last, same.trans tile⟩

theorem Turned.skip (h : Turned p idx s m) (fresh : (s.tile p).decoded = []) (reps : (s.tile p).reps = []) (op : slotOp w = 7) :
    OnlyTile p s (m.issueC p idx w now t stop) ∧ (m.issueC p idx w now t stop).tile p =
      { s.tile p with bundle := idx, next := if skipCond (bits w 15 3) (t.counter (bits w 18 4)) then idx + 1 + bits w 0 12 else idx + 1 } := by
  have run : m.issueC p idx w now t stop = if skipCond (bits w 15 3) (t.counter (bits w 18 4)) then m.skipBundles p (bits w 0 12) stop else m := by
    unfold State.issueC
    rw [op] <;> rfl
  rw [run]
  split
  · exact h.skipBundles fresh reps _ _
  · exact ⟨h.only, h.tile⟩

/-- CLD of a row that the map has: its word is asked for (R197). -/
theorem Turned.cld (h : Turned p idx s m) (op : slotOp w = 5) (kind : odtKind (t.odtEntry (bits w 8 10)) = 1)
    (mapped : (rangeE (t.odtEntry (bits w 8 10))).rowOf t.counter < mappedRows) :
    let u := m.issueC p idx w now t stop
    OnlyTile p s u ∧ (u.tile p).next = idx + 1 ∧ (u.tile p).ctr = (s.tile p).ctr ∧ (u.tile p).clds = (s.tile p).clds ++
      [{ d := bits w 18 4, w := bits w 4 4, due := now + 31, value := none, bundle := idx, id := (s.tile p).nextOp }] ∧
      ∃ r ∈ (u.tile p).reqs, r.cls = 4 ∧ r.row = (rangeE (t.odtEntry (bits w 8 10))).rowOf t.counter ∧ r.use = .toCld (s.tile p).nextOp := by
  have next : (m.tile p).nextOp = (s.tile p).nextOp := by rw [h.tile]
  have run : m.issueC p idx w now t stop = m.issueCld p idx w now t := by
    unfold State.issueC
    rw [op] <;> rfl
  dsimp only
  rw [run]
  unfold State.issueCld
  dsimp only
  rw [if_neg (by simp [kind]), if_pos mapped, if_pos mapped, next]
  generalize hv : m.modTile p _ = v
  have only : OnlyTile p m v := hv ▸ m.onlyTile_modTile p _
  have tile : v.tile p = { s.tile p with
      bundle := idx, next := idx + 1, nextOp := (s.tile p).nextOp + 1,
      clds := (s.tile p).clds ++ [{ d := bits w 18 4, w := bits w 4 4, due := now + 31, value := none, bundle := idx, id := (s.tile p).nextOp }] } := by
    rw [← hv, State.tile_modTile_self, h.tile]
  generalize hr : RowReq.mk _ _ _ _ _ _ _ _ = r
  have asked := Requested.request v p r
  refine ⟨(h.only.trans only).trans asked.only, ?_, ?_, ?_, r, v.mem_request p r, ?_⟩
  · rw [asked.tile, tile]
  · rw [asked.tile, tile]
  · rw [asked.tile, tile]
  · rw [← hr]
    exact ⟨rfl, rfl, rfl⟩

/-- CLD of a row outside the map: it reads as zeros, with 0x3001 (R151, R197). -/
theorem Turned.cld_unmapped (h : Turned p idx s m) (op : slotOp w = 5) (kind : odtKind (t.odtEntry (bits w 8 10)) = 1)
    (far : mappedRows ≤ (rangeE (t.odtEntry (bits w 8 10))).rowOf t.counter) :
    let u := m.issueC p idx w now t stop
    Posted s u (srcTable (p / 13)) 2 0x3001 (faultTag (s.ltileOf p) idx false) 0 ∧ (u.tile p).clds = (s.tile p).clds ++
      [{ d := bits w 18 4, w := bits w 4 4, due := now + 31, value := some 0, bundle := idx, id := (s.tile p).nextOp }] := by
  have next : (m.tile p).nextOp = (s.tile p).nextOp := by rw [h.tile]
  have run : m.issueC p idx w now t stop = m.issueCld p idx w now t := by
    unfold State.issueC
    rw [op] <;> rfl
  dsimp only
  rw [run]
  unfold State.issueCld
  dsimp only
  rw [if_neg (by simp [kind]), if_neg (by omega), if_neg (by omega), next]
  refine ⟨(h.only.trans (m.onlyTile_modTile p _)).raiseTile_posted p idx 0x3001 0, ?_⟩
  rw [State.tile_raiseTile, State.tile_modTile_self, h.tile]

theorem Turned.cld_wrong (h : Turned p idx s m) (op : slotOp w = 5) (kind : odtKind (t.odtEntry (bits w 8 10)) ≠ 1) :
    let u := m.issueC p idx w now t stop
    Posted s u (srcTable (p / 13)) 2 0x300a (faultTag (s.ltileOf p) idx false) 0 ∧ (u.tile p).clds = (s.tile p).clds := by
  have run : m.issueC p idx w now t stop = m.raiseTile p idx 0x300a := by
    unfold State.issueC State.issueCld
    rw [op]
    exact if_pos (bne_iff_ne.mpr kind)
  dsimp only
  rw [run]
  refine ⟨h.only.raiseTile_posted p idx 0x300a 0, ?_⟩
  rw [State.tile_raiseTile, h.tile]

/-- REP opens its body, or passes over it (R199). -/
theorem Turned.rep (h : Turned p idx s m) (fresh : (s.tile p).decoded = []) (reps : (s.tile p).reps = []) (none_ : t.reps = [])
    (op : slotOp w = 8) (kind : odtKind (t.odtEntry (slotA w)) = 5) :
    let l := loopE (t.odtEntry (slotA w))
    let n := if l.cen then min (t.counter l.cctr) l.count else l.count
    let u := m.issueC p idx w now t stop
    OnlyTile p s u ∧ u.tile p = { s.tile p with
      bundle := idx
      next := if l.body ≠ 0 ∧ n = 0 then idx + 1 + l.body else idx + 1
      reps := if l.body = 0 ∨ n = 0 then []
        else [{ start := idx + 1, len := l.body, iters := n, iter := 0, period := l.period, ictr := if l.ien then some l.ictr else none }] } := by
  have clean : ∀ v : State, OnlyTile p s v → (v.tile p).decoded = [] →
      OnlyTile p s (v.removeDecoded p stop) ∧ (v.removeDecoded p stop).tile p = v.tile p := by
    intro v only empty
    obtain ⟨last, same⟩ := v.removeDecoded_of_none p stop empty
    exact ⟨only.trans last, same⟩
  dsimp only
  generalize hl : loopE (t.odtEntry (slotA w)) = l
  generalize hn : (if l.cen then min (t.counter l.cctr) l.count else l.count) = n
  have run : m.issueC p idx w now t stop =
      if l.body = 0 then m.removeDecoded p stop
      else if n = 0 then m.skipBundles p l.body stop
      else
        (m.modTile p fun u =>
          { u with
            next := idx + 1,
            reps := { start := idx + 1, len := l.body, iters := n, iter := 0, period := l.period,
                      ictr := if l.ien then some l.ictr else none } :: t.reps }).removeDecoded p stop := by
    rw [← hn, ← hl]
    unfold State.issueC
    rw [op]
    exact if_neg (by simp [kind])
  rw [run]
  by_cases body : l.body = 0
  · rw [if_pos body, if_neg fun k => k.1 body, if_pos (.inl body)]
    obtain ⟨only, same⟩ := clean m h.only (by rw [h.tile]; exact fresh)
    refine ⟨only, same.trans (h.tile.trans ?_)⟩
    rw [← reps]
  · rw [if_neg body]
    by_cases zero : n = 0
    · rw [if_pos zero, if_pos ⟨body, zero⟩, if_pos (.inr zero)]
      obtain ⟨only, same⟩ := h.skipBundles fresh reps l.body stop
      refine ⟨only, same.trans ?_⟩
      rw [← reps]
    · have notBoth : ¬(l.body ≠ 0 ∧ n = 0) := fun k => zero k.2
      have neither : ¬(l.body = 0 ∨ n = 0) := fun k => k.elim body zero
      rw [if_neg zero, if_neg notBoth, if_neg neither, none_]
      generalize hv : m.modTile p _ = v
      have tile : v.tile p = { s.tile p with
          bundle := idx, next := idx + 1,
          reps := [{ start := idx + 1, len := l.body, iters := n, iter := 0, period := l.period, ictr := if l.ien then some l.ictr else none }] } := by
        rw [← hv, State.tile_modTile_self, h.tile]
      obtain ⟨only, same⟩ := clean v (h.only.trans (hv ▸ m.onlyTile_modTile p _)) (by rw [tile]; exact fresh)
      exact ⟨only, same.trans tile⟩

theorem Turned.rep_wrong (h : Turned p idx s m) (fresh : (s.tile p).decoded = []) (reps : (s.tile p).reps = [])
    (op : slotOp w = 8) (kind : odtKind (t.odtEntry (slotA w)) ≠ 5) :
    let u := m.issueC p idx w now t stop
    Posted s u (srcTable (p / 13)) 2 0x300a (faultTag (s.ltileOf p) idx false) 0 ∧ (u.tile p).reps = [] := by
  have run : m.issueC p idx w now t stop = (m.raiseTile p idx 0x300a).removeDecoded p stop := by
    unfold State.issueC
    rw [op]
    exact if_pos (bne_iff_ne.mpr kind)
  have tile : (m.raiseTile p idx 0x300a).tile p = { s.tile p with bundle := idx, next := idx + 1 } := by
    rw [State.tile_raiseTile, h.tile]
  obtain ⟨last, same⟩ := (m.raiseTile p idx 0x300a).removeDecoded_of_none p stop (by rw [tile]; exact fresh)
  dsimp only
  rw [run]
  refine ⟨(h.only.raiseTile_posted p idx 0x300a 0).of_queue (by rw [last.1]; rfl), ?_⟩
  rw [same, tile]
  exact reps

/-- SETUP whose rows the map has: they are asked for (R201). -/
theorem Turned.setup (h : Turned p idx s m) (op : slotOp w = 10) (kind : odtKind (t.odtEntry (bits w 0 10)) = 1)
    (some_ : (rangeE (t.odtEntry (bits w 0 10))).nrows ≠ 0)
    (mapped : (rangeE (t.odtEntry (bits w 0 10))).rowOf t.counter + (rangeE (t.odtEntry (bits w 0 10))).nrows ≤ mappedRows) :
    let r := rangeE (t.odtEntry (bits w 0 10))
    let u := m.issueC p idx w now t stop
    OnlyTile p s u ∧ (u.tile p).next = idx + 1 ∧ (u.tile p).setups = (s.tile p).setups ++
      [{ what := bits w 20 2, first := bits w 10 10, nrows := r.nrows, due := now + 31 + r.nrows, data := [], got := 0,
         bundle := idx, id := (s.tile p).nextOp }] ∧
      ∀ i < r.nrows, ∃ q ∈ (u.tile p).reqs, q.cls = 4 ∧ q.row = r.rowOf t.counter + i ∧ q.use = .toSetup (s.tile p).nextOp (64 * i) := by
  have next : (m.tile p).nextOp = (s.tile p).nextOp := by rw [h.tile]
  have run : m.issueC p idx w now t stop = m.issueSetup p idx w now t := by
    unfold State.issueC
    rw [op] <;> rfl
  dsimp only
  rw [run]
  unfold State.issueSetup
  dsimp only
  generalize rangeE (t.odtEntry (bits w 0 10)) = r at *
  have whole : (List.range r.nrows).filter (fun i => decide (r.rowOf t.counter + i < mappedRows)) = List.range r.nrows := by
    rw [List.filter_eq_self]
    intro i hi
    have := List.mem_range.mp hi
    exact decide_eq_true (by omega)
  rw [if_neg (by simp [kind]), if_neg some_, whole, List.length_range, if_neg (by omega), Nat.sub_self, next]
  generalize hv : m.modTile p _ = v
  have only : OnlyTile p m v := hv ▸ m.onlyTile_modTile p _
  have tile : v.tile p = { s.tile p with
      bundle := idx, next := idx + 1, nextOp := (s.tile p).nextOp + 1,
      setups := (s.tile p).setups ++
        [{ what := bits w 20 2, first := bits w 10 10, nrows := r.nrows, due := now + 31 + r.nrows, data := [], got := 0, bundle := idx, id := (s.tile p).nextOp }] } := by
    rw [← hv, State.tile_modTile_self, h.tile]
  obtain ⟨asked, all⟩ := Requested.foldl p (fun (u : State) (i : Nat) =>
      { cls := 4, seq := issueOrder now 2, row := r.rowOf t.counter + i, deadline := v.tickBase + v.tickLen - 1, since := u.age + 1,
        use := .toSetup (s.tile p).nextOp (64 * i) })
    (fun i q => q.cls = 4 ∧ q.row = r.rowOf t.counter + i ∧ q.use = .toSetup (s.tile p).nextOp (64 * i)) (fun _ _ => ⟨rfl, rfl, rfl⟩)
    (List.range r.nrows) v
  refine ⟨(h.only.trans only).trans asked.only, ?_, ?_, fun i hi => all i (List.mem_range.mpr hi)⟩
  · rw [asked.tile, tile]
  · rw [asked.tile, tile]

theorem Turned.setup_wrong (h : Turned p idx s m) (op : slotOp w = 10) (kind : odtKind (t.odtEntry (bits w 0 10)) ≠ 1) :
    let u := m.issueC p idx w now t stop
    Posted s u (srcTable (p / 13)) 2 0x300a (faultTag (s.ltileOf p) idx false) 0 ∧ (u.tile p).setups = (s.tile p).setups := by
  have run : m.issueC p idx w now t stop = m.raiseTile p idx 0x300a := by
    unfold State.issueC State.issueSetup
    rw [op]
    exact if_pos (bne_iff_ne.mpr kind)
  dsimp only
  rw [run]
  refine ⟨h.only.raiseTile_posted p idx 0x300a 0, ?_⟩
  rw [State.tile_raiseTile, h.tile]

end

theorem bundleIssuesAtItsBeat : Claims.BundleIssuesAtItsBeat := by
  intro s p first count hp
  have part : ∀ {β : Type} (f : Tile → β), (∀ x c n, f { x with ctr := c, poison := n } = f x) →
      f ((s.tile p).atStart (s.stamp (p / 13))) = f (s.tile p) := fun f hf => by rw [Tile.atStart_frame]; exact hf ..
  have decoded := part Tile.decoded fun _ _ _ => rfl
  have open_ := part Tile.reps fun _ _ _ => rfl
  dsimp only
  intro run more reps fresh
  refine ⟨fun wait => execBundleIssue_not_due hp run reps wait, fun due x v m => ?_⟩
  have exec_ := execBundleIssue_due hp run more reps due
  dsimp only at exec_
  rw [State.issueX_nop _ _ _ _ _ _ _ _ fresh x, State.issueV_nop _ _ _ _ _ _ v, State.issueM_nop _ _ _ _ _ m] at exec_
  have turned := Turned.of_dealt s p ((s.tile p).atStart (s.stamp (p / 13))).next (s.stamp (p / 13)) (decoded ▸ fresh) (open_ ▸ reps)
  generalize ((s.tile p).atStart (s.stamp (p / 13))) = u at *
  generalize (s.dealt p u.next).undecode p u.next (s.stamp (p / 13)) = m' at *
  have fresh' : (s.tile p).decoded = [] := decoded ▸ fresh
  have reps' : (s.tile p).reps = [] := open_ ▸ reps
  refine ⟨fun op => ⟨_, exec_, ?_⟩, fun op => ⟨_, exec_, turned.counter op⟩, fun op => ⟨fun kind mapped => ⟨_, exec_, turned.cld op kind mapped⟩,
    fun kind far => ⟨_, exec_, turned.cld_unmapped op kind far⟩, fun kind => ⟨_, exec_, turned.cld_wrong op kind⟩⟩,
    fun op => ⟨_, exec_, turned.skip fresh' reps' op⟩,
    fun op => ⟨fun kind => ⟨_, exec_, turned.rep fresh' reps' reps op kind⟩, fun kind => ⟨_, exec_, turned.rep_wrong fresh' reps' op kind⟩⟩,
    fun op => ⟨fun kind some_ mapped => ⟨_, exec_, turned.setup op kind some_ mapped⟩, fun kind => ⟨_, exec_, turned.setup_wrong op kind⟩⟩⟩
  rw [State.issueC_nop _ _ _ _ _ _ _ op]
  exact ⟨turned.only, turned.tile⟩

end Sys2Proof.Machine
end

section
/-! PROOFS. Slots V and M at their issue beat (R103 to R105, R125, R217, R218, R228 to R235, R237). -/

namespace Sys2Proof.Machine

/-! ### A slot's turn, behind which nothing of the bundle is left -/

theorem State.undecode_tile (x : State) (p idx stamp : Nat) (fresh : (x.tile p).decoded = []) :
    OnlyTile p x (x.undecode p idx stamp) ∧ (x.undecode p idx stamp).tile p = x.tile p := by
  refine ⟨State.onlyTile_modTile_modTile .., ?_⟩
  unfold State.undecode
  rw [State.tile_modTile_self, State.tile_modTile_self, fresh, List.filter_nil, ← fresh]

theorem Turned.dealt (s : State) (p idx : Nat) (reps : (s.tile p).reps = []) : Turned p idx s (s.dealt p idx) := by
  refine ⟨s.onlyTile_modTile p _, ?_⟩
  unfold State.dealt
  rw [State.tile_modTile_self, ← reps]

section
variable {s d : State} {p idx : Nat}

/-- A code is raised instead of the operation. -/
theorem Turned.raises (h : Turned p idx s d) (fresh : (s.tile p).decoded = []) (x : State) (code stamp : Nat)
    (hx : x = d.raiseTile p idx code ∨ x = d.raiseDeadline p idx code) :
    Posted s (x.undecode p idx stamp) (srcTable (p / 13)) 2 code (faultTag (s.ltileOf p) idx false) 0 ∧
      (x.undecode p idx stamp).tile p = { s.tile p with bundle := idx, next := idx + 1 } := by
  have facts : Posted s x (srcTable (p / 13)) 2 code (faultTag (s.ltileOf p) idx false) 0 ∧ x.tile p = d.tile p := by
    rcases hx with rfl | rfl
    · exact ⟨h.only.raiseTile_posted p idx code 0, State.tile_raiseTile ..⟩
    · have posted := h.only.posted (d.raiseDeadline_posted p idx code)
      rw [h.only.ltileOf p] at posted
      exact ⟨posted, State.tile_raiseDeadline ..⟩
  obtain ⟨posted, tile⟩ := facts
  obtain ⟨only, same⟩ := x.undecode_tile p idx stamp (by rw [tile, h.tile]; exact fresh)
  exact ⟨posted.of_queue (by rw [only.1]; rfl), same.trans (tile.trans h.tile)⟩

/-- A change of the tile is what the operation does. -/
theorem Turned.changes (h : Turned p idx s d) (f : Tile → Tile) (stamp : Nat)
    (fresh : (f { s.tile p with bundle := idx, next := idx + 1 }).decoded = []) :
    OnlyTile p s ((d.modTile p f).undecode p idx stamp) ∧
      ((d.modTile p f).undecode p idx stamp).tile p = f { s.tile p with bundle := idx, next := idx + 1 } := by
  have tile : (d.modTile p f).tile p = f { s.tile p with bundle := idx, next := idx + 1 } := by
    rw [State.tile_modTile_self, h.tile]
  obtain ⟨only, same⟩ := (d.modTile p f).undecode_tile p idx stamp (by rw [tile]; exact fresh)
  exact ⟨(h.only.trans (d.onlyTile_modTile p f)).trans only, same.trans tile⟩

theorem Turned.nothing (h : Turned p idx s d) (fresh : (s.tile p).decoded = []) (stamp : Nat) :
    OnlyTile p s (d.undecode p idx stamp) ∧ (d.undecode p idx stamp).tile p = { s.tile p with bundle := idx, next := idx + 1 } := by
  obtain ⟨only, same⟩ := d.undecode_tile p idx stamp (by rw [h.tile]; exact fresh)
  exact ⟨h.only.trans only, same.trans h.tile⟩

/-! ### Slot V (R125, R218, R237) -/

theorem Turned.pipsAt (h : Turned p idx s d) : d.pipsAt p = s.pipsAt p := by
  rw [State.pipsAt, h.tile, h.only.stamp, State.pipsAt]

theorem Turned.dispatch (h : Turned p idx s d) (fresh : (s.tile p).decoded = []) (entry mask arg stamp : Nat)
    (free : (s.pipsAt p).run = none ∧ (s.pipsAt p).ended ≤ stamp) (some_ : mask ≠ 0) :
    let t := (d.dispatch p idx stamp entry mask arg).undecode p idx stamp
    OnlyTile p s t ∧ (t.tile p).bundle = idx ∧ (t.tile p).pips.pc = entry % 2048 ∧ (t.tile p).pips.stack = [] ∧
      ∃ r, (t.tile p).pips.run = some r ∧ r.mask = mask ∧ r.bundle = idx ∧ r.issue = stamp := by
  have run : d.dispatch p idx stamp entry mask arg =
      d.modTile p fun t => { t with pips := (s.pipsAt p).start stamp idx entry mask arg } := by
    unfold State.dispatch
    dsimp only
    rw [h.pipsAt, if_neg (by simp [free.1, free.2]), if_neg some_]
    rfl
  dsimp only
  rw [run]
  obtain ⟨only, tile⟩ := h.changes (fun t => { t with pips := (s.pipsAt p).start stamp idx entry mask arg }) stamp fresh
  rw [tile]
  exact ⟨only, rfl, rfl, rfl, _, rfl, rfl, rfl, rfl⟩

theorem Turned.dispatch_nobody (h : Turned p idx s d) (fresh : (s.tile p).decoded = []) (entry arg stamp : Nat)
    (free : (s.pipsAt p).run = none ∧ (s.pipsAt p).ended ≤ stamp) :
    let t := (d.dispatch p idx stamp entry 0 arg).undecode p idx stamp
    OnlyTile p s t ∧ (t.tile p).pips = (s.tile p).pips := by
  have run : d.dispatch p idx stamp entry 0 arg = d := by
    unfold State.dispatch
    dsimp only
    rw [h.pipsAt, if_neg (by simp [free.1, free.2]), if_pos rfl]
  dsimp only
  rw [run]
  obtain ⟨only, tile⟩ := h.nothing fresh stamp
  rw [tile]
  exact ⟨only, rfl⟩

theorem Turned.dispatch_busy (h : Turned p idx s d) (fresh : (s.tile p).decoded = []) (entry mask arg stamp : Nat)
    (busy : (s.pipsAt p).run ≠ none ∨ stamp < (s.pipsAt p).ended) :
    let t := (d.dispatch p idx stamp entry mask arg).undecode p idx stamp
    Posted s t (srcTable (p / 13)) 2 0x5013 (faultTag (s.ltileOf p) idx false) 0 ∧ (t.tile p).pips = (s.tile p).pips := by
  have run : d.dispatch p idx stamp entry mask arg = d.raiseDeadline p idx 0x5013 := by
    unfold State.dispatch
    dsimp only
    rw [h.pipsAt, if_pos]
    rw [Bool.or_eq_true, decide_eq_true_eq]
    exact busy.imp_left Option.isSome_iff_ne_none.mpr
  dsimp only
  rw [run]
  obtain ⟨posted, tile⟩ := h.raises fresh _ 0x5013 stamp (.inr rfl)
  rw [tile]
  exact ⟨posted, rfl⟩

end

/-! ### Slot M: loads and passes (R103 to R105, R229 to R231) -/

section
variable {s d : State} {p idx w : Nat} {t : Tile}

/-- An operation of slot M that is refused: its code is raised, and no engine and no operation changes. -/
theorem Turned.refuses (h : Turned p idx s d) (fresh : (s.tile p).decoded = []) (x : State) (code stamp : Nat)
    (hx : x = d.raiseTile p idx code ∨ x = d.raiseDeadline p idx code) :
    let t := x.undecode p idx stamp
    Posted s t (srcTable (p / 13)) 2 code (faultTag (s.ltileOf p) idx false) 0 ∧
      (t.tile p).quad = (s.tile p).quad ∧ (t.tile p).side = (s.tile p).side ∧ (t.tile p).drain = (s.tile p).drain ∧
      (t.tile p).accm = (s.tile p).accm ∧ (t.tile p).shuf = (s.tile p).shuf ∧ (t.tile p).ops = (s.tile p).ops := by
  obtain ⟨posted, tile⟩ := h.raises fresh x code stamp hx
  dsimp only
  rw [tile]
  exact ⟨posted, rfl, rfl, rfl, rfl, rfl, rfl⟩

theorem Engine.takeLoad_none (e : Engine) (side : Bool) (h : e.load = none) : e.takeLoad side = e := by
  unfold Engine.takeLoad
  rw [h]

theorem Tile.engine_decoded (v : Tile) (side : Bool) (e : Engine) : (v.setEngine side e).decoded = v.decoded := by
  cases side <;> rfl

/-- An engine changes, and no other. -/
theorem Turned.setEngine (h : Turned p idx s d) (fresh : (s.tile p).decoded = []) (side : Bool) (e : Engine) (stamp : Nat) :
    let u := (d.setEngine p side e).undecode p idx stamp
    OnlyTile p s u ∧ (u.tile p).engine side = e ∧ (u.tile p).engine (!side) = (s.tile p).engine (!side) := by
  obtain ⟨only, tile⟩ := h.changes (·.setEngine side e) stamp (by rw [Tile.engine_decoded]; exact fresh)
  refine ⟨only, ?_⟩
  unfold State.setEngine
  rw [tile, Tile.engine_setEngine_self, Tile.engine_setEngine_other]
  exact ⟨rfl, by cases side <;> rfl⟩

/-- LOAD and SLOAD begin to read their tile (R229). -/
theorem Turned.load (h : Turned p idx s d) (fresh : (s.tile p).decoded = []) (side : Bool)
    (idle : ((s.tile p).engine side).load = none) (clear : ((s.tile p).engine side).swapClear ≤ s.stamp (p / 13)) (stamp : Nat) :
    let u := (d.issueLoad p idx w side).undecode p idx stamp
    OnlyTile p s u ∧ (u.tile p).engine (!side) = (s.tile p).engine (!side) ∧
      ∃ l, ((u.tile p).engine side).load = some l ∧ l.src = 64 * slotA w ∧ l.issue = s.stamp (p / 13) ∧ l.got = [] ∧
        l.fmt = (Fmt.ofCode (bits w 8 4)).getD .e4m3 := by
  have engine : (d.tile p).engine side = (s.tile p).engine side := by rw [h.tile]; cases side <;> rfl
  dsimp only
  unfold State.issueLoad
  dsimp only
  rw [engine, Engine.takeLoad_none _ _ idle, h.only.stamp, if_neg (by simp [idle, clear])]
  obtain ⟨only, own, other⟩ := h.setEngine fresh side _ stamp
  exact ⟨only, other, _, congrArg Engine.load own, rfl, rfl, rfl, rfl⟩

theorem Turned.load_too_early (h : Turned p idx s d) (side : Bool) (idle : ((s.tile p).engine side).load = none)
    (early : s.stamp (p / 13) < ((s.tile p).engine side).swapClear) :
    d.issueLoad p idx w side = d.raiseDeadline p idx 0x5013 := by
  have engine : (d.tile p).engine side = (s.tile p).engine side := by rw [h.tile]; cases side <;> rfl
  unfold State.issueLoad
  dsimp only
  rw [engine, Engine.takeLoad_none _ _ idle, h.only.stamp]
  exact if_pos (by simp [early])

theorem nth_map_range {α : Type} (z : α) (f : Nat → α) (n q : Nat) (h : q < n) : nth z ((List.range n).map f) q = f q := by
  unfold nth
  rw [List.getD_eq_getElem _ _ (by simpa using h)]
  simp

/-- The entries that a PASS names are of their kinds (R230). -/
def passKinds (t : Tile) (ent : Nat) : Prop :=
  odtKind ent = 7 ∧ odtKind (t.odtEntry (passE ent).streamx) = 8 ∧ ((passE ent).masksrc ≠ 0 → odtKind (t.odtEntry (passE ent).maskx) = 9)

/-- Rows that a PASS feeds its accumulator rows (R102). -/
def passRows (x : PassE) : Nat := if x.mode = 2 then x.rows - x.width else x.rows

/-- A target row of a PASS lies outside the store (R230). -/
def passFar (t : Tile) (x : PassE) (ao : Nat) : Prop :=
  ∃ q < 4, (streamE (t.odtEntry x.streamx) q).1 = true ∧ 0 < passRows x ∧
    (if x.strict then 255 else 1023) < nth 0 x.acc q + ao + passRows x - 1

/-- The step of a PASS (R83, R98). -/
def passStep (e : Engine) (x : PassE) : Nat :=
  (if rateClass (if x.swap then e.formats.2 else e.formats.1) ((Fmt.ofCode x.afmt).getD .e4m3) = 2 then 2 else 1) * (if x.strict then 2 else 1)

theorem passKinds_iff (t : Tile) (ent : Nat) :
    (odtKind ent != 7 || odtKind (t.odtEntry (passE ent).streamx) != 8 ||
      ((passE ent).masksrc != 0 && odtKind (t.odtEntry (passE ent).maskx) != 9)) = false ↔ passKinds t ent := by
  simp only [passKinds, Bool.or_eq_false_iff, Bool.and_eq_false_iff, bne_eq_false_iff_eq, and_assoc]
  tauto

theorem passFar_iff (t : Tile) (x : PassE) (ao : Nat) :
    ((List.range 4).any fun q => (nth (false, 0, 0, 0) ((List.range 4).map (streamE (t.odtEntry x.streamx))) q).1 && decide (0 < passRows x) &&
      decide ((if x.strict then 255 else 1023) < nth 0 x.acc q + ao + passRows x - 1)) = true ↔ passFar t x ao := by
  simp only [List.any_eq_true, List.mem_range, Bool.and_eq_true, decide_eq_true_eq, passFar, and_assoc]
  refine exists_congr fun q => and_congr_right fun hq => ?_
  rw [nth_map_range _ _ _ _ hq]

/-- The counters that displace a PASS's rows (R230). -/
def passShift (t : Tile) (w : Nat) : Nat := if bit w 7 then t.counter (bits w 8 4) else 0

theorem State.issuePass_wrong (d : State) (p idx w : Nat) (t : Tile) (h : odtKind (t.odtEntry (slotA w)) ≠ 7) :
    d.issuePass p idx w t = d.raiseTile p idx 0x300a := by
  unfold State.issuePass
  exact if_pos (by rw [bne_iff_ne.mpr h]; rfl)

theorem State.issuePass_far (d : State) (p idx w : Nat) (t : Tile) (kinds : passKinds t (t.odtEntry (slotA w)))
    (far : passFar t (passE (t.odtEntry (slotA w))) (passShift t w)) : d.issuePass p idx w t = d.raiseTile p idx 0x300b := by
  unfold State.issuePass
  refine (if_neg ?_).trans (if_pos ?_)
  · rw [(passKinds_iff _ _).mpr kinds]; exact Bool.false_ne_true
  · exact (passFar_iff ..).mpr far

/-- The PASS that joins its engine. -/
def State.passOf (d : State) (p idx w : Nat) (t : Tile) : Pass :=
  let e := t.quad.takeLoad false
  let x := passE (t.odtEntry (slotA w))
  let af := (Fmt.ofCode x.afmt).getD .e4m3
  let cls := rateClass (if x.swap then e.formats.2 else e.formats.1) af
  { id := 2 * e.nextId, bundle := idx, mode := if x.mode = 2 then .slide else if x.mode = 1 then .rev else .fwd,
    rows := x.rows, afmt := af, strict := x.strict, first := x.first, width := x.width, half := x.half, b0 := d.stamp (p / 13) + 1,
    s := passStep e x, rho := if cls = 0 && x.mode = 0 then 2 else 1, swap := x.swap, plane := none, acc := x.acc.map (· + passShift t w),
    streams := ((List.range 4).map (streamE (t.odtEntry x.streamx))).map fun q => (q.1, 16 * q.2.1, 16 * q.2.2.1, 16 * q.2.2.2),
    xo := if bit w 2 then t.counter (bits w 3 4) else 0, masked := d.masks x.masksrc (t.odtEntry x.maskx) x.maskhi x.rows 4, cfmt := af,
    samples := [], done := [], terms := [] }

/-- The passes and the load before it leave a PASS its beat (R104, R105). -/
def passOpen (d : State) (p : Nat) (t : Tile) (x : PassE) : Prop :=
  (x.swap = true → (t.quad.takeLoad false).swapReady false t.quad (d.stamp (p / 13)) = true) ∧
    (t.quad.takeLoad false).follows false (d.stamp (p / 13) + 1) (passStep (t.quad.takeLoad false) x) = true

theorem State.issuePass_eq (d : State) (p idx w : Nat) (t : Tile) (kinds : passKinds t (t.odtEntry (slotA w)))
    (near : ¬ passFar t (passE (t.odtEntry (slotA w))) (passShift t w)) : d.issuePass p idx w t =
    let e := t.quad.takeLoad false
    let x := passE (t.odtEntry (slotA w))
    let pass := d.passOf p idx w t
    if (x.swap && !e.swapReady false t.quad (d.stamp (p / 13))) || !e.follows false (d.stamp (p / 13) + 1) (passStep e x) then
      d.raiseDeadline p idx 0x5013
    else if x.rows = 0 then d
    else d.setEngine p false { e with
      passes := e.passes ++ [pass], nextId := e.nextId + 1, lastEnd := pass.feedEnd, lastStep := passStep e x,
      swapClear := if x.swap then d.stamp (p / 13) + 1 + passStep e x * 94 else e.swapClear } := by
  unfold State.issuePass
  refine (if_neg ?_).trans ((if_neg ?_).trans ?_)
  · rw [(passKinds_iff _ _).mpr kinds]; exact Bool.false_ne_true
  · exact fun far => near ((passFar_iff ..).mp far)
  · rfl

end

section
variable {s d : State} {p idx w : Nat} {t : Tile}

theorem Turned.pass_closed (h : Turned p idx s d) (kinds : passKinds t (t.odtEntry (slotA w)))
    (near : ¬ passFar t (passE (t.odtEntry (slotA w))) (passShift t w)) (shut : ¬ passOpen s p t (passE (t.odtEntry (slotA w)))) :
    d.issuePass p idx w t = d.raiseDeadline p idx 0x5013 := by
  refine (d.issuePass_eq p idx w t kinds near).trans (if_pos ?_)
  rw [h.only.stamp]
  by_contra free
  refine shut ?_
  simp only [Bool.or_eq_true, Bool.and_eq_true, Bool.not_eq_true', not_or, not_and, Bool.not_eq_false] at free
  exact free

/-- A PASS joins the quad's passes from the next beat on. -/
theorem Turned.pass (h : Turned p idx s d) (fresh : (s.tile p).decoded = []) (kinds : passKinds t (t.odtEntry (slotA w)))
    (near : ¬ passFar t (passE (t.odtEntry (slotA w))) (passShift t w)) (free : passOpen s p t (passE (t.odtEntry (slotA w))))
    (rows : (passE (t.odtEntry (slotA w))).rows ≠ 0) (stamp : Nat) :
    let u := (d.issuePass p idx w t).undecode p idx stamp
    OnlyTile p s u ∧ (u.tile p).side = (s.tile p).side ∧ (u.tile p).quad.passes = (t.quad.takeLoad false).passes ++ [d.passOf p idx w t] := by
  have run := d.issuePass_eq p idx w t kinds near
  dsimp only at run
  rw [if_neg, if_neg rows] at run
  · dsimp only
    rw [run]
    obtain ⟨only, own, other⟩ := h.setEngine fresh false _ stamp
    exact ⟨only, other, congrArg Engine.passes own⟩
  · rw [h.only.stamp]
    simp only [Bool.or_eq_true, Bool.and_eq_true, Bool.not_eq_true', not_or, not_and, Bool.not_eq_false]
    exact free

/-- The entries that an SPASS names are of their kinds (R231). -/
def spassKinds (t : Tile) (ent : Nat) : Prop :=
  odtKind ent = 0xa ∧ ((sideE ent).masksrc ≠ 0 → odtKind (t.odtEntry (sideE ent).maskx) = 9)

theorem spassKinds_iff (t : Tile) (ent : Nat) :
    (odtKind ent != 0xa || ((sideE ent).masksrc != 0 && odtKind (t.odtEntry (sideE ent).maskx) != 9)) = false ↔ spassKinds t ent := by
  simp only [spassKinds, Bool.or_eq_false_iff, Bool.and_eq_false_iff, bne_eq_false_iff_eq]
  tauto

/-- A target row of an SPASS lies outside the store (R231). -/
def spassFar (x : SideE) (ao : Nat) : Prop := 0 < x.rows ∧ (if x.strict then 255 else 1023) < x.acc + ao + x.rows - 1

/-- The step of an SPASS (R118, R119). -/
def spassStep (e : Engine) (x : SideE) : Nat :=
  let wf := if x.mode = 1 then (Fmt.ofCode x.cfmt).getD .e4m3 else if x.swap then e.formats.2 else e.formats.1
  let base := if wf = .bf16 ∨ (Fmt.ofCode x.afmt).getD .e4m3 = .bf16 then 2 else 1
  if x.strict ∧ x.mode ≠ 1 then 2 * base else base

/-- The passes and the load before it leave an SPASS its beat (R104, R105). -/
def spassOpen (d : State) (p : Nat) (t : Tile) (x : SideE) : Prop :=
  (x.swap = true → x.mode ≠ 1 → (t.side.takeLoad true).swapReady true t.quad (d.stamp (p / 13)) = true) ∧
    (t.side.takeLoad true).follows true (d.stamp (p / 13) + 1) (spassStep (t.side.takeLoad true) x) = true

/-- The SPASS that joins its engine. -/
def State.spassOf (d : State) (p idx w : Nat) (t : Tile) : Pass :=
  let e := t.side.takeLoad true
  let x := sideE (t.odtEntry (slotA w))
  { id := 2 * e.nextId + 1, bundle := idx, mode := if x.mode = 1 then .streamed else .held, rows := x.rows,
    afmt := (Fmt.ofCode x.afmt).getD .e4m3, strict := x.strict, first := x.first, width := 0, half := 0, b0 := d.stamp (p / 13) + 1,
    s := spassStep e x, rho := 1, swap := x.swap && x.mode != 1, plane := none, acc := [x.acc + passShift t w],
    streams := [(true, 16 * x.src, 16 * x.stride, 0)], xo := if bit w 2 then t.counter (bits w 3 4) else 0,
    masked := d.masks x.masksrc (t.odtEntry x.maskx) x.maskhi x.rows 1, cfmt := (Fmt.ofCode x.cfmt).getD .e4m3,
    samples := [], done := [], terms := [] }

theorem State.issueSpass_wrong (d : State) (p idx w : Nat) (t : Tile) (h : odtKind (t.odtEntry (slotA w)) ≠ 0xa) :
    d.issueSpass p idx w t = d.raiseTile p idx 0x300a := by
  unfold State.issueSpass
  exact if_pos (by rw [bne_iff_ne.mpr h]; rfl)

theorem State.issueSpass_far (d : State) (p idx w : Nat) (t : Tile) (kinds : spassKinds t (t.odtEntry (slotA w)))
    (far : spassFar (sideE (t.odtEntry (slotA w))) (passShift t w)) : d.issueSpass p idx w t = d.raiseTile p idx 0x300b := by
  unfold State.issueSpass
  refine (if_neg ?_).trans (if_pos ?_)
  · rw [(spassKinds_iff _ _).mpr kinds]; exact Bool.false_ne_true
  · rw [Bool.and_eq_true, decide_eq_true_eq, decide_eq_true_eq]
    exact far

theorem State.issueSpass_eq (d : State) (p idx w : Nat) (t : Tile) (kinds : spassKinds t (t.odtEntry (slotA w)))
    (near : ¬ spassFar (sideE (t.odtEntry (slotA w))) (passShift t w)) : d.issueSpass p idx w t =
    let e := t.side.takeLoad true
    let x := sideE (t.odtEntry (slotA w))
    let pass := d.spassOf p idx w t
    let swap := x.swap && x.mode != 1
    if (swap && !e.swapReady true t.quad (d.stamp (p / 13))) || !e.follows true (d.stamp (p / 13) + 1) (spassStep e x) then
      d.raiseDeadline p idx 0x5013
    else if x.rows = 0 then d
    else d.setEngine p true { e with
      passes := e.passes ++ [pass], nextId := e.nextId + 1, lastEnd := pass.feedEnd, lastStep := if x.mode = 1 then 1 else spassStep e x,
      swapClear := if swap then d.stamp (p / 13) + 1 + spassStep e x * 78 else e.swapClear } := by
  have mode : ∀ (x : SideE), (!decide (x.mode = 1)) = (x.mode != 1) := fun x => by
    by_cases h : x.mode = 1 <;> simp [h]
  have step : ∀ (e : Engine) (x : SideE), spassStep e x =
      let wf := if x.mode = 1 then (Fmt.ofCode x.cfmt).getD .e4m3 else if x.swap then e.formats.2 else e.formats.1
      let base := if wf = .bf16 || (Fmt.ofCode x.afmt).getD .e4m3 = .bf16 then 2 else 1
      if x.strict && !decide (x.mode = 1) then 2 * base else base := by
    intro e x
    unfold spassStep
    simp only [Bool.or_eq_true, decide_eq_true_eq, Bool.and_eq_true, Bool.not_eq_true', decide_eq_false_iff_not, ne_eq]
  unfold State.issueSpass State.spassOf
  refine (if_neg ?_).trans ((if_neg ?_).trans ?_)
  · rw [(spassKinds_iff _ _).mpr kinds]; exact Bool.false_ne_true
  · rw [Bool.and_eq_true, decide_eq_true_eq, decide_eq_true_eq]
    exact near
  · simp only [← mode, step]
    rfl

theorem Turned.spass_closed (h : Turned p idx s d) (kinds : spassKinds t (t.odtEntry (slotA w)))
    (near : ¬ spassFar (sideE (t.odtEntry (slotA w))) (passShift t w)) (shut : ¬ spassOpen s p t (sideE (t.odtEntry (slotA w)))) :
    d.issueSpass p idx w t = d.raiseDeadline p idx 0x5013 := by
  refine (d.issueSpass_eq p idx w t kinds near).trans (if_pos ?_)
  rw [h.only.stamp]
  by_contra free
  refine shut ?_
  simp only [Bool.or_eq_true, Bool.and_eq_true, Bool.not_eq_true', not_or, not_and, Bool.not_eq_false, bne_iff_ne, and_imp] at free
  exact free

/-- An SPASS joins the side array's passes from the next beat on. -/
theorem Turned.spass (h : Turned p idx s d) (fresh : (s.tile p).decoded = []) (kinds : spassKinds t (t.odtEntry (slotA w)))
    (near : ¬ spassFar (sideE (t.odtEntry (slotA w))) (passShift t w)) (free : spassOpen s p t (sideE (t.odtEntry (slotA w))))
    (rows : (sideE (t.odtEntry (slotA w))).rows ≠ 0) (stamp : Nat) :
    let u := (d.issueSpass p idx w t).undecode p idx stamp
    OnlyTile p s u ∧ (u.tile p).quad = (s.tile p).quad ∧ (u.tile p).side.passes = (t.side.takeLoad true).passes ++ [d.spassOf p idx w t] := by
  have run := d.issueSpass_eq p idx w t kinds near
  dsimp only at run
  rw [if_neg, if_neg rows] at run
  · dsimp only
    rw [run]
    obtain ⟨only, own, other⟩ := h.setEngine fresh true _ stamp
    exact ⟨only, other, congrArg Engine.passes own⟩
  · rw [h.only.stamp]
    simp only [Bool.or_eq_true, Bool.and_eq_true, Bool.not_eq_true', not_or, not_and, Bool.not_eq_false, bne_iff_ne, and_imp]
    exact free

end

/-! ### What the row requests of an operation leave (R151, R183) -/

/-- An operation whose rows are asked for: what waits, what has been read, its fault and its flag can change, and nothing else. -/
def OpAsks (o o' : Op) : Prop :=
  o' = { o with reads := o'.reads, buf := o'.buf, writes := o'.writes, faulted := o'.faulted, flag := o'.flag }

theorem OpAsks.refl (o : Op) : OpAsks o o := rfl
theorem OpAsks.trans {a b c : Op} (h : OpAsks a b) (k : OpAsks b c) : OpAsks a c := by
  unfold OpAsks at h k ⊢
  refine k.trans ?_
  rw [h]

/-- Rows of a position's operations are asked for: no memory changes, no request is lost, and the operations keep what they are. -/
structure Asks (p : Nat) (s t : State) : Prop where
  mem : t.mem = s.mem
  tile : t.tile p = { s.tile p with ops := (t.tile p).ops, reqs := (t.tile p).reqs }
  ops : ∃ g : Op → Op, (∀ o, OpAsks o (g o)) ∧ (t.tile p).ops = (s.tile p).ops.map g
  kept : ∀ r ∈ (s.tile p).reqs, r ∈ (t.tile p).reqs

theorem Asks.refl (p : Nat) (s : State) : Asks p s s := ⟨rfl, rfl, ⟨id, OpAsks.refl, (List.map_id _).symm⟩, fun _ h => h⟩

theorem Asks.trans {p : Nat} {s t u : State} (h : Asks p s t) (k : Asks p t u) : Asks p s u := by
  refine ⟨k.mem.trans h.mem, ?_, ?_, fun r hr => k.kept r (h.kept r hr)⟩
  · rw [k.tile, h.tile]
  · obtain ⟨f, hf, ops⟩ := h.ops
    obtain ⟨g, hg, ops'⟩ := k.ops
    refine ⟨g ∘ f, fun o => (hf o).trans (hg (f o)), ?_⟩
    rw [ops', ops, List.map_map]

theorem Asks.of_requested {p : Nat} {s t : State} (h : Requested p s t) : Asks p s t := by
  have ops : (t.tile p).ops = (s.tile p).ops := by rw [h.tile]
  refine ⟨by rw [h.only.1], ?_, ?_, h.kept⟩
  · rw [ops]; exact h.tile
  · rw [ops]; exact (Asks.refl p s).ops

theorem Asks.modOp (s : State) (p id : Nat) (f : Op → Op) (hf : ∀ o, OpAsks o (f o)) : Asks p s (s.modTile p (·.modOp id f)) := by
  have tile : (s.modTile p (·.modOp id f)).tile p = (s.tile p).modOp id f := State.tile_modTile_self ..
  refine ⟨rfl, ?_, ?_, ?_⟩
  · rw [tile]; rfl
  · rw [tile]
    refine ⟨fun o => if o.id = id then f o else o, fun o => ?_, rfl⟩
    dsimp only
    split
    · exact hf o
    · exact OpAsks.refl o
  · rw [tile]; exact fun _ h => h

theorem Asks.raiseTile (s : State) (p bundle code : Nat) : Asks p s (s.raiseTile p bundle code) := by
  have tile := State.tile_raiseTile s p bundle code 0 p
  refine ⟨State.raiseTile_mem .., ?_, ?_, ?_⟩
  · rw [tile]
  · rw [tile]; exact (Asks.refl p s).ops
  · rw [tile]; exact fun _ h => h

theorem Asks.raiseExt (s : State) (p code : Nat) : Asks p s (s.raiseExt p code) := by
  have tile := State.tile_raiseExt s p code 0 p
  refine ⟨State.raiseExt_mem .., ?_, ?_, ?_⟩
  · rw [tile]
  · rw [tile]; exact (Asks.refl p s).ops
  · rw [tile]; exact fun _ h => h

theorem Asks.opFault (s : State) (p id : Nat) : Asks p s (s.opFault p id) := by
  unfold State.opFault
  split
  · split
    · exact Asks.refl p s
    · have marked := Asks.modOp s p id (fun o => { o with faulted := true }) fun _ => rfl
      dsimp only
      split
      · exact marked
      · split
        · exact marked.trans (Asks.raiseExt ..)
        · exact marked.trans (Asks.raiseTile ..)
  · exact Asks.refl p s

theorem Asks.reqRead (s : State) (p : Nat) (o : Op) (row lo len off : Nat) : Asks p s (s.reqRead p o row lo len off) := by
  unfold State.reqRead State.reqReadAt
  split
  · exact Asks.of_requested (Requested.request s p _)
  · exact (Asks.modOp s p o.id (fun x => { x with reads := x.reads - 1, buf := putUnits x.buf (rep 64 0#8) 0 len off }) fun _ => rfl).trans (Asks.opFault ..)

theorem State.reqRead_asked (s : State) (p : Nat) (o : Op) (row lo len off : Nat) (mapped : row < mappedRows)
    (kind : o.kind ≠ .serve ∧ o.kind ≠ .csend) :
    ∃ r ∈ ((s.reqRead p o row lo len off).tile p).reqs, r.cls = 4 ∧ r.row = row ∧ r.use = .toOp o.id lo len off := by
  have cls : ((s.tile p).readClass o) = (4, o.order) := by
    unfold Tile.readClass
    split
    · next e => exact absurd e kind.1
    · next e => exact absurd e kind.2
    · rfl
  unfold State.reqRead State.reqReadAt
  rw [if_pos mapped]
  exact ⟨_, s.mem_request p _, congrArg Prod.fst cls, rfl, rfl⟩

theorem Asks.reqWrite (s : State) (p cls : Nat) (o : Op) (row lo : Nat) (data : List Byte) : Asks p s (s.reqWrite p cls o row lo data) := by
  unfold State.reqWrite State.reqWriteAt
  split
  · generalize hr : RowReq.mk _ _ _ _ _ _ _ _ = r
    have two : (s.modTile p fun t => (t.modOp o.id fun o => { o with writes := o.writes + 1 }).request r).tile p =
        ((s.tile p).modOp o.id fun o => { o with writes := o.writes + 1 }).request r := State.tile_modTile_self ..
    have first := Asks.modOp s p o.id (fun o => { o with writes := o.writes + 1 }) fun _ => rfl
    have tile := State.tile_modTile_self s p (·.modOp o.id fun o => { o with writes := o.writes + 1 })
    refine ⟨rfl, ?_, ?_, ?_⟩
    · rw [two]; rfl
    · rw [two]
      have ops := first.ops
      rw [tile] at ops
      exact ops
    · rw [two]
      exact fun x hx => (Tile.reqs_request ..).2 (.inr hx)
  · exact Asks.opFault ..

/-- A fold of requests makes every one that is due. -/
theorem Asks.foldl {α : Type} (p : Nat) (f : State → α → State) (due : α → Prop) (is : α → RowReq → Prop)
    (asks : ∀ s i, Asks p s (f s i)) (made : ∀ s i, due i → ∃ q ∈ ((f s i).tile p).reqs, is i q) :
    ∀ (l : List α) (s : State), Asks p s (l.foldl f s) ∧ ∀ i ∈ l, due i → ∃ q ∈ ((l.foldl f s).tile p).reqs, is i q
  | [], s => ⟨Asks.refl p s, fun _ h => absurd h List.not_mem_nil⟩
  | a :: l, s => by
    obtain ⟨all, found⟩ := Asks.foldl p f due is asks made l (f s a)
    refine ⟨(asks s a).trans all, fun i hi now => ?_⟩
    rcases List.mem_cons.mp hi with rfl | hi
    · obtain ⟨q, hq, same⟩ := made s i now
      exact ⟨q, all.kept q hq, same⟩
    · exact found i hi now

theorem Asks.trackers {p : Nat} {s t : State} (h : Asks p s t) : (t.tile p).trackers = (s.tile p).trackers := by
  obtain ⟨g, hg, ops⟩ := h.ops
  have same : ∀ o, (g o).tracked = o.tracked := fun o => by rw [hg o]
  have pred : ((fun o : Op => o.tracked) ∘ g) = fun o => o.tracked := funext same
  unfold Tile.trackers
  rw [ops, List.filter_map, List.length_map, pred]

theorem Asks.mem_ops {p : Nat} {s t : State} (h : Asks p s t) {o : Op} (ho : o ∈ (s.tile p).ops) : ∃ o' ∈ (t.tile p).ops, OpAsks o o' := by
  obtain ⟨g, hg, ops⟩ := h.ops
  exact ⟨g o, ops ▸ List.mem_map_of_mem ho, hg o⟩

theorem Asks.op? {p : Nat} {s t : State} (h : Asks p s t) {id : Nat} {o : Op} (ho : (s.tile p).op? id = some o) :
    ∃ o', (t.tile p).op? id = some o' ∧ OpAsks o o' := by
  obtain ⟨g, hg, ops⟩ := h.ops
  have same : ((fun o : Op => decide (o.id = id)) ∘ g) = fun o => decide (o.id = id) := by
    funext o
    have : (g o).id = o.id := by rw [hg o]
    simp only [Function.comp, this]
  refine ⟨g o, ?_, hg o⟩
  unfold Tile.op? at ho ⊢
  rw [ops, List.find?_map, same, ho]
  rfl

/-! ### Slot M: drains, ACCM and the shuffle unit (R217, R232, R233, R235) -/

theorem Tile.trackers_addOp (t : Tile) (o : Op) (h : o.tracked = true) : (t.addOp o).trackers = t.trackers + 1 := by
  unfold Tile.trackers Tile.addOp
  simp [List.filter_append, h]

theorem State.flagFor_none (s : State) (t : Tile) (flagx : Nat) : s.flagFor t false flagx = .ok (none, 0) := rfl

section
variable {s d : State} {p idx w : Nat} {t : Tile}

theorem Turned.trackers (h : Turned p idx s d) : (d.tile p).trackers = (s.tile p).trackers := by
  rw [h.tile]; rfl

/-- The DRAIN that takes its engine (R232). -/
def drainOf (t : Tile) (e : DrainE) (op : Nat) : Drain :=
  { op, srow := e.srow, view := e.sview, count := e.count, fmt := e.fmt, dst := 64 * (e.drow + (if e.ien then t.counter e.ictr else 0)),
    sc := 64 * e.scrow, clear := e.clear, row := 0, sub := 0, part := [], valid := true, pipe := [] }

/-- A DRAIN of no fault, without a flag: its tracker and its engine. -/
theorem State.issueDrain_eq (d : State) (p idx w : Nat) (t : Tile) (kind : odtKind (t.odtEntry (slotA w)) = 0xb) (idle : t.drain = none)
    (some_ : (drainE (t.odtEntry (slotA w))).count ≠ 0)
    (near : (drainE (t.odtEntry (slotA w))).srow + (drainE (t.odtEntry (slotA w))).count - 1 ≤
      (if (drainE (t.odtEntry (slotA w))).sview = 2 then 255 else 1023))
    (free : (d.tile p).trackers < 1024) (plain : slotCF w = false) :
    ∃ o : Op, o.id = (d.tile p).nextOp ∧ o.kind = .drain ∧ o.bundle = idx ∧ o.issue = d.stamp (p / 13) ∧ o.tracked = true ∧
      d.issueDrain p idx w t = d.modTile p fun v => { v.addOp o with drain := some (drainOf t (drainE (t.odtEntry (slotA w))) o.id) } := by
  generalize he : drainE (t.odtEntry (slotA w)) = e at *
  refine ⟨{ id := (d.tile p).nextOp, kind := .drain, bundle := idx, issue := d.stamp (p / 13), deadline := d.lastCount (p / 13) (d.lastBeat (p / 13)),
            tracked := e.count != 0, flag := none, n := e.count, started := true, phase := if e.count = 0 then 9 else 0 },
    rfl, rfl, rfl, rfl, bne_iff_ne.mpr some_, ?_⟩
  unfold State.issueDrain
  dsimp only
  rw [he, if_neg (by simp [kind]), if_neg (by simp [idle]), if_neg, if_neg (by omega), plain, State.flagFor_none]
  · exact if_neg some_
  · rw [Bool.and_eq_true, decide_eq_true_eq, decide_eq_true_eq]
    omega

theorem Turned.drain_wrong (d : State) (p idx w : Nat) (t : Tile) (kind : odtKind (t.odtEntry (slotA w)) ≠ 0xb) :
    d.issueDrain p idx w t = d.raiseTile p idx 0x300a := by
  unfold State.issueDrain
  exact if_pos (bne_iff_ne.mpr kind)

theorem Turned.drain_busy (d : State) (p idx w : Nat) (t : Tile) (kind : odtKind (t.odtEntry (slotA w)) = 0xb) (busy : t.drain ≠ none) :
    d.issueDrain p idx w t = d.raiseDeadline p idx 0x5013 := by
  unfold State.issueDrain
  exact (if_neg (by simp [kind])).trans (if_pos (Option.isSome_iff_ne_none.mpr busy))

theorem Turned.drain_far (d : State) (p idx w : Nat) (t : Tile) (kind : odtKind (t.odtEntry (slotA w)) = 0xb) (idle : t.drain = none)
    (some_ : (drainE (t.odtEntry (slotA w))).count ≠ 0)
    (far : (if (drainE (t.odtEntry (slotA w))).sview = 2 then 255 else 1023) <
      (drainE (t.odtEntry (slotA w))).srow + (drainE (t.odtEntry (slotA w))).count - 1) :
    d.issueDrain p idx w t = d.raiseTile p idx 0x300b := by
  unfold State.issueDrain
  refine (if_neg (by simp [kind])).trans ((if_neg (by simp [idle])).trans (if_pos ?_))
  rw [Bool.and_eq_true, decide_eq_true_eq, decide_eq_true_eq]
  exact ⟨Nat.pos_of_ne_zero some_, far⟩

/-- An operation of slot M that takes its tracker, and what it does to its engine. -/
theorem Turned.tracks (h : Turned p idx s d) (fresh : (s.tile p).decoded = []) (o : Op) (f : Tile → Tile) (stamp : Nat)
    (tracked : o.tracked = true) (hf : ∀ v, (f v).ops = v.ops ∧ (f v).decoded = v.decoded) :
    let u := (d.modTile p fun v => f (v.addOp o)).undecode p idx stamp
    SameMemory s u ∧ (u.tile p).trackers = (s.tile p).trackers + 1 ∧ o ∈ (u.tile p).ops ∧
      u.tile p = f ({ s.tile p with bundle := idx, next := idx + 1 }.addOp o) := by
  obtain ⟨only, tile⟩ := h.changes (fun v => f (v.addOp o)) stamp (by rw [(hf _).2]; exact fresh)
  dsimp only
  have ops : (((d.modTile p fun v => f (v.addOp o)).undecode p idx stamp).tile p).ops = ({ s.tile p with bundle := idx, next := idx + 1 }.addOp o).ops := by
    rw [tile, (hf _).1]
  refine ⟨.of_mem (by rw [only.1]), ?_, ?_, tile⟩
  · unfold Tile.trackers at *
    rw [ops]
    exact Tile.trackers_addOp _ o tracked
  · rw [ops]
    exact List.mem_append_right _ (List.mem_singleton_self o)

theorem Turned.drain (h : Turned p idx s d) (fresh : (s.tile p).decoded = []) (kind : odtKind (t.odtEntry (slotA w)) = 0xb) (idle : t.drain = none)
    (some_ : (drainE (t.odtEntry (slotA w))).count ≠ 0)
    (near : (drainE (t.odtEntry (slotA w))).srow + (drainE (t.odtEntry (slotA w))).count - 1 ≤
      (if (drainE (t.odtEntry (slotA w))).sview = 2 then 255 else 1023))
    (free : (s.tile p).trackers < 1024) (plain : slotCF w = false) (stamp : Nat) :
    let u := (d.issueDrain p idx w t).undecode p idx stamp
    (SameMemory s u ∧ (u.tile p).trackers = (s.tile p).trackers + 1 ∧
      ∃ o ∈ (u.tile p).ops, o.id = (s.tile p).nextOp ∧ o.kind = .drain ∧ o.bundle = idx ∧ o.issue = s.stamp (p / 13)) ∧
      (u.tile p).drain = some (drainOf t (drainE (t.odtEntry (slotA w))) (s.tile p).nextOp) := by
  have next : (d.tile p).nextOp = (s.tile p).nextOp := by rw [h.tile]
  obtain ⟨o, id, kind', bundle, issue, tracked, run⟩ := d.issueDrain_eq p idx w t kind idle some_ near (h.trackers ▸ free) plain
  dsimp only
  rw [run]
  obtain ⟨same, count, mem, tile⟩ := h.tracks fresh o (fun v => { v with drain := some (drainOf t (drainE (t.odtEntry (slotA w))) o.id) }) stamp
    tracked fun _ => ⟨rfl, rfl⟩
  refine ⟨⟨same, count, o, mem, id.trans next, kind', bundle, issue.trans (h.only.stamp _)⟩, ?_⟩
  rw [tile, ← next, ← id]

theorem Turned.accm_wrong (d : State) (p idx w : Nat) (t : Tile) (kind : odtKind (t.odtEntry (slotA w)) ≠ 0xc) :
    d.issueAccm p idx w t = d.raiseTile p idx 0x300a := by
  unfold State.issueAccm
  exact if_pos (bne_iff_ne.mpr kind)

theorem Turned.accm_busy (d : State) (p idx w : Nat) (t : Tile) (kind : odtKind (t.odtEntry (slotA w)) = 0xc) (busy : t.accm ≠ none) :
    d.issueAccm p idx w t = d.raiseDeadline p idx 0x5013 := by
  unfold State.issueAccm
  exact (if_neg (by simp [kind])).trans (if_pos (Option.isSome_iff_ne_none.mpr busy))

/-- An ACCM of no fault, without a flag: its tracker and its engine (R233). -/
theorem State.issueAccm_eq (d : State) (p idx w : Nat) (t : Tile) (kind : odtKind (t.odtEntry (slotA w)) = 0xc) (idle : t.accm = none)
    (some_ : (collE (t.odtEntry (slotA w))).nsrc * (collE (t.odtEntry (slotA w))).count ≠ 0)
    (near : (collE (t.odtEntry (slotA w))).acc + (collE (t.odtEntry (slotA w))).count - 1 ≤
      (if (collE (t.odtEntry (slotA w))).sfmt = 2 then 255 else 1023))
    (free : (d.tile p).trackers < 1024) (plain : slotCF w = false) :
    ∃ (o : Op) (a : Accm), (o.id = (d.tile p).nextOp ∧ o.kind = .accm ∧ o.bundle = idx ∧ o.issue = d.stamp (p / 13) ∧ o.tracked = true) ∧
      (let e := collE (t.odtEntry (slotA w))
       a.op = o.id ∧ a.nsrc = e.nsrc ∧ a.count = e.count ∧ a.acc = e.acc ∧ a.added = 0 ∧ a.first = e.first ∧
       a.bad = (e.pchk && decide (0 < t.poison)) ∧ a.row0 = e.srow + if e.ien then t.counter e.ictr else 0) ∧
      d.issueAccm p idx w t = d.modTile p fun v => { v.addOp o with accm := some a } := by
  generalize he : collE (t.odtEntry (slotA w)) = e at *
  have run : ∃ (o : Op) (a : Accm), (o.id = (d.tile p).nextOp ∧ o.kind = .accm ∧ o.bundle = idx ∧ o.issue = d.stamp (p / 13) ∧
        o.tracked = (e.nsrc * e.count != 0)) ∧
      (a.op = o.id ∧ a.nsrc = e.nsrc ∧ a.count = e.count ∧ a.acc = e.acc ∧ a.added = 0 ∧ a.first = e.first ∧
       a.bad = (e.pchk && decide (0 < t.poison)) ∧ a.row0 = e.srow + if e.ien then t.counter e.ictr else 0) ∧
      d.issueAccm p idx w t = d.modTile p fun v => { v.addOp o with accm := some a } := by
    unfold State.issueAccm
    dsimp only
    have kind' : ¬(odtKind (t.odtEntry (slotA w)) != 0xc) = true := by simp [kind]
    have idle' : ¬t.accm.isSome = true := by simp [idle]
    have free' : ¬1024 ≤ (d.tile p).trackers := by omega
    have near' : ¬(decide (0 < e.count) && decide (0 < e.nsrc) && decide ((if e.sfmt = 2 then 255 else 1023) < e.acc + e.count - 1)) = true := by
      simp only [Bool.and_eq_true, decide_eq_true_eq]
      omega
    rw [he, if_neg kind', if_neg idle', if_neg near', if_neg free', plain, State.flagFor_none]
    dsimp only
    rw [if_neg some_]
    exact ⟨_, _, ⟨rfl, rfl, rfl, rfl, rfl⟩, ⟨rfl, rfl, rfl, rfl, rfl, rfl, rfl, rfl⟩, rfl⟩
  obtain ⟨o, a, ⟨id, kind', bundle, issue, tracked⟩, fields, shape⟩ := run
  exact ⟨o, a, ⟨id, kind', bundle, issue, tracked.trans (bne_iff_ne.mpr some_)⟩, fields, shape⟩

theorem Turned.accm (h : Turned p idx s d) (fresh : (s.tile p).decoded = []) (kind : odtKind (t.odtEntry (slotA w)) = 0xc) (idle : t.accm = none)
    (some_ : (collE (t.odtEntry (slotA w))).nsrc * (collE (t.odtEntry (slotA w))).count ≠ 0)
    (near : (collE (t.odtEntry (slotA w))).acc + (collE (t.odtEntry (slotA w))).count - 1 ≤
      (if (collE (t.odtEntry (slotA w))).sfmt = 2 then 255 else 1023))
    (free : (s.tile p).trackers < 1024) (plain : slotCF w = false) (stamp : Nat) :
    let u := (d.issueAccm p idx w t).undecode p idx stamp
    let e := collE (t.odtEntry (slotA w))
    (SameMemory s u ∧ (u.tile p).trackers = (s.tile p).trackers + 1 ∧
      ∃ o ∈ (u.tile p).ops, o.id = (s.tile p).nextOp ∧ o.kind = .accm ∧ o.bundle = idx ∧ o.issue = s.stamp (p / 13)) ∧
      ∃ a, (u.tile p).accm = some a ∧ a.op = (s.tile p).nextOp ∧ a.nsrc = e.nsrc ∧ a.count = e.count ∧ a.acc = e.acc ∧ a.added = 0 ∧
        a.first = e.first ∧ a.bad = (e.pchk && decide (0 < t.poison)) ∧ a.row0 = e.srow + if e.ien then t.counter e.ictr else 0 := by
  have next : (d.tile p).nextOp = (s.tile p).nextOp := by rw [h.tile]
  obtain ⟨o, a, ⟨id, kind', bundle, issue, tracked⟩, ⟨op, fields⟩, run⟩ := d.issueAccm_eq p idx w t kind idle some_ near (h.trackers ▸ free) plain
  dsimp only
  rw [run]
  obtain ⟨same, count, mem, tile⟩ := h.tracks fresh o (fun v => { v with accm := some a }) stamp tracked fun _ => ⟨rfl, rfl⟩
  refine ⟨⟨same, count, o, mem, id.trans next, kind', bundle, issue.trans (h.only.stamp _)⟩, a, ?_, op.trans (id.trans next), fields⟩
  rw [tile]

theorem Turned.shuf_wrong (d : State) (p idx w : Nat) (t : Tile) (kind : odtKind (t.odtEntry (slotA w)) ≠ 0xd) :
    d.issueShuf p idx w t = d.raiseTile p idx 0x300a := by
  unfold State.issueShuf
  exact if_pos (bne_iff_ne.mpr kind)

theorem Turned.shuf_busy (d : State) (p idx w : Nat) (t : Tile) (kind : odtKind (t.odtEntry (slotA w)) = 0xd) (busy : t.shuf ≠ none) :
    d.issueShuf p idx w t = d.raiseDeadline p idx 0x5013 := by
  unfold State.issueShuf
  exact (if_neg (by simp [kind])).trans (if_pos (Option.isSome_iff_ne_none.mpr busy))

/-- A SHUF of no fault, without a flag: its tracker, its engine and its first reads (R235). -/
theorem State.issueShuf_eq (d : State) (p idx w : Nat) (t : Tile) (kind : odtKind (t.odtEntry (slotA w)) = 0xd) (idle : t.shuf = none)
    (some_ : (shufE (t.odtEntry (slotA w))).sources ≠ []) (rows : (shufE (t.odtEntry (slotA w))).op = 0 → (shufE (t.odtEntry (slotA w))).nr ≠ 0)
    (free : (d.tile p).trackers < 1024) (plain : slotCF w = false) :
    ∃ o : Op, (o.id = (d.tile p).nextOp ∧ o.kind = .shuf ∧ o.bundle = idx ∧ o.issue = d.stamp (p / 13) ∧ o.tracked = true) ∧
      d.issueShuf p idx w t = ((shufE (t.odtEntry (slotA w))).sources.zipIdx).foldl (fun s r => s.reqRead p o r.1 0 64 (64 * r.2))
        (d.modTile p fun v => { v.addOp o with shuf := some (o.id, BitVec.ofNat 128 (t.odtEntry (slotA w))) }) := by
  generalize he : shufE (t.odtEntry (slotA w)) = e at *
  have runs : (e.sources.isEmpty || (decide (e.op = 0) && decide (e.nr = 0))) = false := by
    simp only [Bool.or_eq_false_iff, Bool.and_eq_false_iff, decide_eq_false_iff_not, List.isEmpty_eq_false_iff]
    exact ⟨some_, by tauto⟩
  have run : ∃ o : Op, (o.id = (d.tile p).nextOp ∧ o.kind = .shuf ∧ o.bundle = idx ∧ o.issue = d.stamp (p / 13) ∧ o.tracked = true) ∧
      d.issueShuf p idx w t = (e.sources.zipIdx).foldl (fun s r => s.reqRead p o r.1 0 64 (64 * r.2))
        (d.modTile p fun v => { v.addOp o with shuf := some (o.id, BitVec.ofNat 128 (t.odtEntry (slotA w))) }) := by
    unfold State.issueShuf
    dsimp only
    rw [he, if_neg (by simp [kind]), if_neg (by simp [idle]), if_neg (by omega), plain, State.flagFor_none]
    dsimp only
    rw [runs]
    exact ⟨_, ⟨rfl, rfl, rfl, rfl, rfl⟩, rfl⟩
  exact run

theorem Turned.shuf (h : Turned p idx s d) (fresh : (s.tile p).decoded = []) (kind : odtKind (t.odtEntry (slotA w)) = 0xd) (idle : t.shuf = none)
    (some_ : (shufE (t.odtEntry (slotA w))).sources ≠ []) (rows : (shufE (t.odtEntry (slotA w))).op = 0 → (shufE (t.odtEntry (slotA w))).nr ≠ 0)
    (free : (s.tile p).trackers < 1024) (plain : slotCF w = false) (stamp : Nat) :
    let u := (d.issueShuf p idx w t).undecode p idx stamp
    (SameMemory s u ∧ (u.tile p).trackers = (s.tile p).trackers + 1 ∧
      ∃ o ∈ (u.tile p).ops, o.id = (s.tile p).nextOp ∧ o.kind = .shuf ∧ o.bundle = idx ∧ o.issue = s.stamp (p / 13)) ∧
      (u.tile p).shuf = some ((s.tile p).nextOp, BitVec.ofNat 128 (t.odtEntry (slotA w))) ∧
      ((∀ r ∈ (shufE (t.odtEntry (slotA w))).sources, r < mappedRows) →
        ∀ r ∈ (shufE (t.odtEntry (slotA w))).sources, ∃ q ∈ (u.tile p).reqs, q.cls = 4 ∧ q.row = r) := by
  have next : (d.tile p).nextOp = (s.tile p).nextOp := by rw [h.tile]
  obtain ⟨o, ⟨id, kind', bundle, issue, tracked⟩, run⟩ := d.issueShuf_eq p idx w t kind idle some_ rows (h.trackers ▸ free) plain
  dsimp only
  rw [run]
  generalize hv : d.modTile p (fun v => { v.addOp o with shuf := some (o.id, BitVec.ofNat 128 (t.odtEntry (slotA w))) }) = v
  have only : OnlyTile p s v := h.only.trans (hv ▸ d.onlyTile_modTile p _)
  have tile : v.tile p = { ({ s.tile p with bundle := idx, next := idx + 1 } : Tile).addOp o with
      shuf := some (o.id, BitVec.ofNat 128 (t.odtEntry (slotA w))) } := by
    rw [← hv, State.tile_modTile_self, h.tile]
  have plainKind : o.kind ≠ .serve ∧ o.kind ≠ .csend := by rw [kind']; exact ⟨by simp, by simp⟩
  obtain ⟨asks, made⟩ := Asks.foldl p (fun (s : State) (r : Nat × Nat) => s.reqRead p o r.1 0 64 (64 * r.2)) (fun r => r.1 < mappedRows)
    (fun r q => q.cls = 4 ∧ q.row = r.1) (fun s r => Asks.reqRead ..)
    (fun s r hr => by
      obtain ⟨q, hq, cls, row, -⟩ := s.reqRead_asked p o r.1 0 64 (64 * r.2) hr plainKind
      exact ⟨q, hq, cls, row⟩) (shufE (t.odtEntry (slotA w))).sources.zipIdx v
  generalize ((shufE (t.odtEntry (slotA w))).sources.zipIdx).foldl (fun (s : State) (r : Nat × Nat) => s.reqRead p o r.1 0 64 (64 * r.2)) v = x at *
  obtain ⟨last, same⟩ := x.undecode_tile p idx stamp (by rw [asks.tile, tile]; exact fresh)
  rw [same]
  have mem : (x.undecode p idx stamp).mem = s.mem := by rw [last.1, asks.mem, only.1]
  refine ⟨⟨.of_mem mem, ?_, ?_⟩, ?_, fun mapped r hr => ?_⟩
  · rw [asks.trackers, tile]
    exact Tile.trackers_addOp _ o tracked
  · obtain ⟨o', ho', ask⟩ := asks.mem_ops (o := o) (by rw [tile]; exact List.mem_append_right _ (List.mem_singleton_self o))
    refine ⟨o', ho', ?_⟩
    rw [ask]
    exact ⟨id.trans next, kind', bundle, issue.trans (h.only.stamp _)⟩
  · rw [asks.tile, tile, ← next, ← id]
  · obtain ⟨i, hi, e⟩ := List.getElem_of_mem hr
    refine made (r, i) ?_ (mapped r hr)
    rw [List.mem_zipIdx_iff_getElem?]
    simp [List.getElem?_eq_getElem hi, e]

end

/-! ### The claim -/

section
variable {s d u : State} {p idx : Nat}

theorem State.issueV_dispatch (d : State) (p idx w now : Nat) (t : Tile) (h : slotOp w = 1) (kind : odtKind (t.odtEntry (slotA w)) = 0xe) :
    ∃ arg, d.issueV p idx w now t = d.dispatch p idx now (dispE (t.odtEntry (slotA w))).entry (dispE (t.odtEntry (slotA w))).mask arg := by
  generalize he : t.odtEntry (slotA w) = e at *
  refine ⟨if (dispE e).aen then t.counter (dispE e).actr else (dispE e).arg, ?_⟩
  unfold State.issueV
  rw [h, ← he]
  exact if_neg (by simp [he, kind])

theorem State.issueV_all (d : State) (p idx w now : Nat) (t : Tile) (h : slotOp w = 2) :
    d.issueV p idx w now t = d.dispatch p idx now (bits w 11 11) (2 ^ 64 - 1) (t.counter (bits w 7 4)) := by
  unfold State.issueV
  rw [h] <;> rfl

theorem State.issueV_wrong (d : State) (p idx w now : Nat) (t : Tile) (h : slotOp w = 1) (kind : odtKind (t.odtEntry (slotA w)) ≠ 0xe) :
    d.issueV p idx w now t = d.raiseTile p idx 0x300a := by
  unfold State.issueV
  rw [h]
  exact if_pos (bne_iff_ne.mpr kind)

theorem State.issueM_load (d : State) (p idx w : Nat) (t : Tile) (side : Bool) (h : slotOp w = if side then 2 else 1) :
    d.issueM p idx w t = d.issueLoad p idx w side := by
  unfold State.issueM
  cases side <;> rw [h] <;> rfl

theorem State.issueM_of (d : State) (p idx w : Nat) (t : Tile) :
    (slotOp w = 3 → d.issueM p idx w t = d.issuePass p idx w t) ∧ (slotOp w = 4 → d.issueM p idx w t = d.issueSpass p idx w t) ∧
    (slotOp w = 5 → d.issueM p idx w t = d.issueDrain p idx w t) ∧ (slotOp w = 6 → d.issueM p idx w t = d.issueAccm p idx w t) ∧
    (slotOp w = 7 → d.issueM p idx w t = d.issueShuf p idx w t) := by
  unfold State.issueM
  refine ⟨?_, ?_, ?_, ?_, ?_⟩ <;> intro h <;> rw [h] <;> rfl

end

theorem enginesBeginAtTheirBeat : Claims.EnginesBeginAtTheirBeat := by
  intro s p first count hp
  have part : ∀ {β : Type} (f : Tile → β), (∀ x c n, f { x with ctr := c, poison := n } = f x) →
      f ((s.tile p).atStart (s.stamp (p / 13))) = f (s.tile p) := fun f hf => by rw [Tile.atStart_frame]; exact hf ..
  have decoded := part Tile.decoded fun _ _ _ => rfl
  have open_ := part Tile.reps fun _ _ _ => rfl
  have drain := part Tile.drain fun _ _ _ => rfl
  have accm := part Tile.accm fun _ _ _ => rfl
  have shuf := part Tile.shuf fun _ _ _ => rfl
  have engine : ∀ side, ((s.tile p).atStart (s.stamp (p / 13))).engine side = (s.tile p).engine side := fun side =>
    part (·.engine side) fun _ _ _ => by cases side <;> rfl
  dsimp only
  intro run more reps fresh due c x
  have exec_ := execBundleIssue_due hp run more reps due
  dsimp only at exec_
  rw [State.issueX_nop _ _ _ _ _ _ _ _ fresh x, State.issueC_nop _ _ _ _ _ _ _ (.inl c)] at exec_
  have turned := Turned.dealt s p ((s.tile p).atStart (s.stamp (p / 13))).next (open_ ▸ reps)
  have fresh' : (s.tile p).decoded = [] := decoded ▸ fresh
  generalize ((s.tile p).atStart (s.stamp (p / 13))) = u at *
  generalize s.dealt p u.next = d at *
  refine ⟨fun m => ?_, fun v => ?_⟩
  · rw [State.issueM_nop _ _ _ _ _ m] at exec_
    have dispatches := d.issueV_dispatch p u.next (slotV (u.bundleAt u.next)) (s.stamp (p / 13)) u
    have all := d.issueV_all p u.next (slotV (u.bundleAt u.next)) (s.stamp (p / 13)) u
    refine ⟨fun op free => ⟨_, exec_, ?_⟩, fun op kind some_ free => ⟨_, exec_, ?_⟩, fun op kind none_ free => ⟨_, exec_, ?_⟩,
      fun op busy => ⟨_, exec_, ?_⟩, fun op kind => ⟨_, exec_, ?_⟩⟩
    · rw [all op]
      exact turned.dispatch fresh' _ _ _ _ free (by decide)
    · obtain ⟨arg, e⟩ := dispatches op kind
      rw [e]
      exact turned.dispatch fresh' _ _ _ _ free some_
    · obtain ⟨arg, e⟩ := dispatches op kind
      rw [e, none_]
      exact turned.dispatch_nobody fresh' _ _ _ free
    · rcases op with op | ⟨op, kind⟩
      · rw [all op]
        exact turned.dispatch_busy fresh' _ _ _ _ busy
      · obtain ⟨arg, e⟩ := dispatches op kind
        rw [e]
        exact turned.dispatch_busy fresh' _ _ _ _ busy
    · rw [d.issueV_wrong _ _ _ _ _ op kind]
      obtain ⟨posted, tile⟩ := turned.raises fresh' _ 0x300a (s.stamp (p / 13)) (.inl rfl)
      exact ⟨posted, by rw [tile]⟩
  · rw [State.issueV_nop _ _ _ _ _ _ v] at exec_
    have refused := fun (x : State) (code : Nat) (hx : x = d.raiseTile p u.next code ∨ x = d.raiseDeadline p u.next code) =>
      turned.refuses fresh' x code (s.stamp (p / 13)) hx
    obtain ⟨pass, spass, drains, accms, shufs⟩ := d.issueM_of p u.next (slotM (u.bundleAt u.next)) u
    refine ⟨fun side op idle => ⟨fun clear => ⟨_, exec_, ?_⟩, fun early => ⟨_, exec_, ?_⟩⟩, fun op => ?_, fun op => ?_, fun op => ?_, fun op => ?_,
      fun op => ?_⟩
    · rw [d.issueM_load _ _ _ _ side op, engine]
      exact turned.load fresh' side (engine side ▸ idle) (engine side ▸ clear) _
    · rw [d.issueM_load _ _ _ _ side op]
      exact refused _ 0x5013 (.inr (turned.load_too_early side (engine side ▸ idle) (engine side ▸ early)))
    · rw [pass op] at exec_
      refine ⟨fun kind => ⟨_, exec_, refused _ 0x300a (.inl (d.issuePass_wrong _ _ _ _ kind))⟩,
        fun kinds far => ⟨_, exec_, refused _ 0x300b (.inl (d.issuePass_far _ _ _ _ kinds far))⟩,
        fun kinds near shut => ⟨_, exec_, refused _ 0x5013 (.inr (turned.pass_closed kinds near shut))⟩,
        fun kinds near free rows => ⟨_, exec_, ?_⟩⟩
      obtain ⟨only, side, passes⟩ := turned.pass fresh' kinds near free rows (s.stamp (p / 13))
      exact ⟨only, side, _, passes, rfl, rfl, congrArg (· + 1) (turned.only.stamp _), rfl, rfl, rfl, rfl, rfl, rfl, rfl⟩
    · rw [spass op] at exec_
      refine ⟨fun kind => ⟨_, exec_, refused _ 0x300a (.inl (d.issueSpass_wrong _ _ _ _ kind))⟩,
        fun kinds far => ⟨_, exec_, refused _ 0x300b (.inl (d.issueSpass_far _ _ _ _ kinds far))⟩,
        fun kinds near shut => ⟨_, exec_, refused _ 0x5013 (.inr (turned.spass_closed kinds near shut))⟩,
        fun kinds near free rows => ⟨_, exec_, ?_⟩⟩
      obtain ⟨only, quad, passes⟩ := turned.spass fresh' kinds near free rows (s.stamp (p / 13))
      exact ⟨only, quad, _, passes, rfl, rfl, congrArg (· + 1) (turned.only.stamp _), rfl, rfl, rfl, rfl, rfl, rfl, rfl⟩
    · rw [drains op] at exec_
      refine ⟨fun kind => ⟨_, exec_, refused _ 0x300a (.inl (Turned.drain_wrong d _ _ _ _ kind))⟩,
        fun kind busy => ⟨_, exec_, refused _ 0x5013 (.inr (Turned.drain_busy d _ _ _ _ kind (drain ▸ busy)))⟩,
        fun kind idle some_ far => ⟨_, exec_, refused _ 0x300b (.inl (Turned.drain_far d _ _ _ _ kind (drain ▸ idle) some_ far))⟩,
        fun kind idle some_ near free plain => ⟨_, exec_, ?_⟩⟩
      obtain ⟨tracked, own⟩ := turned.drain fresh' kind (drain ▸ idle) some_ near free plain (s.stamp (p / 13))
      exact ⟨tracked, _, own, rfl, rfl, rfl, rfl, rfl, rfl⟩
    · rw [accms op] at exec_
      exact ⟨fun kind => ⟨_, exec_, refused _ 0x300a (.inl (Turned.accm_wrong d _ _ _ _ kind))⟩,
        fun kind busy => ⟨_, exec_, refused _ 0x5013 (.inr (Turned.accm_busy d _ _ _ _ kind (accm ▸ busy)))⟩,
        fun kind idle some_ near free plain => ⟨_, exec_, turned.accm fresh' kind (accm ▸ idle) some_ near free plain (s.stamp (p / 13))⟩⟩
    · rw [shufs op] at exec_
      refine ⟨fun kind => ⟨_, exec_, refused _ 0x300a (.inl (Turned.shuf_wrong d _ _ _ _ kind))⟩,
        fun kind busy => ⟨_, exec_, refused _ 0x5013 (.inr (Turned.shuf_busy d _ _ _ _ kind (shuf ▸ busy)))⟩,
        fun kind idle some_ rows free plain => ⟨_, exec_, turned.shuf fresh' kind (shuf ▸ idle) some_ rows free plain (s.stamp (p / 13))⟩⟩

end Sys2Proof.Machine
end

section
/-! PROOFS. Slot X at its issue beat (R175, R203, R209 to R215). -/

namespace Sys2Proof.Machine

/-! ### What the read finds does not change with the dealer's place (R182) -/

section
variable {s d : State} {p idx : Nat}

theorem Turned.xBase (h : Turned p idx s d) (i now j dl : Nat) : d.xBase p i now j dl = s.xBase p i now j dl := by
  have next : (d.tile p).nextOp = (s.tile p).nextOp := by rw [h.tile]
  have dev : d.selfDev = s.selfDev := by rw [h.only.1]; rfl
  rw [State.xBase, next, dev, h.only.ltileOf, State.xBase]

theorem Turned.flagged (h : Turned p idx s d) (t : Tile) (cf : Bool) (flagx : Nat) (o : Op) : d.flagged t cf flagx o = s.flagged t cf flagx o := by
  rw [h.only.1]
  rfl

theorem Turned.remote (h : Turned p idx s d) : State.remote d = State.remote s := by
  rw [h.only.1]
  rfl

theorem Turned.ring (h : Turned p idx s d) (q r : Nat) : (d.tile q).ring r = (s.tile q).ring r := by
  by_cases e : q = p
  · subst e
    rw [h.tile]
    rfl
  · rw [h.only.2 q e]

theorem Turned.pushrSize (h : Turned p idx s d) (e : RrefE) : d.pushrSize p e = s.pushrSize p e := by
  have dev : d.selfDev = s.selfDev := by rw [h.only.1]; rfl
  have phys : d.physOf e.ltile = s.physOf e.ltile := by rw [h.only.1]; rfl
  rw [State.pushrSize, dev, phys, h.ring, h.ring, State.pushrSize]

theorem Turned.csendReads (h : Turned p idx s d) (now row : Nat) (c : CircE) (n : Nat) :
    d.csendReads p now row c n = s.csendReads p now row c n := by
  rw [h.only.1]
  rfl

theorem Turned.xRead (h : Turned p idx s d) (i w now j dl : Nat) (t : Tile) : d.xRead p i w now j dl t = s.xRead p i w now j dl t := by
  have dev : d.selfDev = s.selfDev := by rw [h.only.1]; rfl
  have count : d.roundCounter = s.roundCounter := by rw [h.only.1]; rfl
  have table : d.table (p / 13) = s.table (p / 13) := by rw [h.only.1]; rfl
  by_cases op : 1 ≤ slotOp w ∧ slotOp w ≤ 11
  · by_cases full : 1024 ≤ (s.tile p).trackers
    · rw [d.xRead_full p i w now j dl t op.1 op.2 (h.trackers.symm ▸ full), s.xRead_full p i w now j dl t op.1 op.2 full]
    · have free : (s.tile p).trackers < 1024 := by omega
      have free' : (d.tile p).trackers < 1024 := h.trackers.symm ▸ free
      have ops : slotOp w = 1 ∨ slotOp w = 2 ∨ slotOp w = 3 ∨ slotOp w = 4 ∨ slotOp w = 5 ∨ slotOp w = 6 ∨ slotOp w = 7 ∨ slotOp w = 8 ∨
          slotOp w = 9 ∨ slotOp w = 10 ∨ slotOp w = 11 := by omega
      rcases ops with op | op | op | op | op | op | op | op | op | op | op
      · simp only [d.xRead_fill p i w now j dl t free' op, s.xRead_fill p i w now j dl t free op, h.xBase, h.flagged]
      · simp only [d.xRead_copy p i w now j dl t free' op, s.xRead_copy p i w now j dl t free op, h.xBase, h.flagged]
      · simp only [d.xRead_dmaw p i w now j dl t free' op, s.xRead_dmaw p i w now j dl t free op, h.xBase, h.flagged, h.remote, dev]
      · simp only [d.xRead_dmar p i w now j dl t free' op, s.xRead_dmar p i w now j dl t free op, h.xBase, h.flagged, h.remote]
      · simp only [d.xRead_push p i w now j dl t free' op, s.xRead_push p i w now j dl t free op, h.xBase, h.flagged]
      · simp only [d.xRead_pop p i w now j dl t free' op, s.xRead_pop p i w now j dl t free op, h.xBase, h.flagged]
      · obtain ⟨remote, isRemote⟩ : ∃ f, f = State.remote s := ⟨_, rfl⟩
        have two := s.xRead_pushr p i w now j dl t free op remote isRemote
        have one := d.xRead_pushr p i w now j dl t free' op remote (isRemote.trans h.remote.symm)
        simp only [h.xBase, h.flagged, h.pushrSize, dev] at one
        exact one.trans two.symm
      · simp only [d.xRead_csend p i w now j dl t free' op, s.xRead_csend p i w now j dl t free op, h.xBase, h.flagged, h.csendReads]
      · simp only [d.xRead_crecv p i w now j dl t free' op, s.xRead_crecv p i w now j dl t free op, h.xBase, h.flagged]
      · simp only [d.xRead_flagw p i w now j dl t free' op, s.xRead_flagw p i w now j dl t free op, h.xBase, h.remote, dev, h.only.ltileOf]
      · simp only [d.xRead_dgst p i w now j dl t free' op, s.xRead_dgst p i w now j dl t free op, h.xBase, count, table]
  · rw [d.xRead_nop p i w now j dl t (by omega), s.xRead_nop p i w now j dl t (by omega)]

theorem OnlyTile.noRoute {q : Nat} {s t : State} (h : OnlyTile q s t) (o : Op) : t.noRoute o = s.noRoute o := by
  rw [h.1]
  rfl

end

/-! ### How an operation begins (R175, R183, R210, R213) -/

/-- An operation whose first rows or first slot are asked for: its progress, its flag and its poison can change, and nothing else. -/
def OpStarts (o o' : Op) : Prop :=
  o' = { o with reads := o'.reads, buf := o'.buf, writes := o'.writes, faulted := o'.faulted, flag := o'.flag, poisoned := o'.poisoned }

theorem OpStarts.trans {a b c : Op} (h : OpStarts a b) (k : OpStarts b c) : OpStarts a c := by
  unfold OpStarts at h k ⊢
  refine k.trans ?_
  rw [h]

theorem OpAsks.starts {o o' : Op} (h : OpAsks o o') : OpStarts o o' := by
  unfold OpAsks at h
  unfold OpStarts
  rw [h]

/-- What an operation's first rows and slots leave: no memory changes, no request and no slot is lost, the operations keep what they are. -/
structure Starts (p : Nat) (s t : State) : Prop where
  mem : t.mem = s.mem
  tile : t.tile p = { s.tile p with ops := (t.tile p).ops, reqs := (t.tile p).reqs, outq := (t.tile p).outq }
  ops : ∃ g : Op → Op, (∀ o, OpStarts o (g o)) ∧ (t.tile p).ops = (s.tile p).ops.map g

theorem Starts.refl (p : Nat) (s : State) : Starts p s s := ⟨rfl, rfl, id, fun _ => rfl, (List.map_id _).symm⟩

theorem Starts.trans {p : Nat} {s t u : State} (h : Starts p s t) (k : Starts p t u) : Starts p s u := by
  refine ⟨k.mem.trans h.mem, ?_, ?_⟩
  · rw [k.tile, h.tile]
  · obtain ⟨f, hf, ops⟩ := h.ops
    obtain ⟨g, hg, ops'⟩ := k.ops
    refine ⟨g ∘ f, fun o => (hf o).trans (hg (f o)), ?_⟩
    rw [ops', ops, List.map_map]

theorem Starts.of_asks {p : Nat} {s t : State} (h : Asks p s t) : Starts p s t := by
  have outq : (t.tile p).outq = (s.tile p).outq := by rw [h.tile]
  obtain ⟨g, hg, ops⟩ := h.ops
  refine ⟨h.mem, ?_, g, fun o => (hg o).starts, ops⟩
  rw [outq]
  exact h.tile

theorem Starts.modOp (s : State) (p id : Nat) (f : Op → Op) (hf : ∀ o, OpStarts o (f o)) : Starts p s (s.modTile p (·.modOp id f)) := by
  have tile : (s.modTile p (·.modOp id f)).tile p = (s.tile p).modOp id f := State.tile_modTile_self ..
  refine ⟨rfl, ?_, fun o => if o.id = id then f o else o, fun o => ?_, ?_⟩
  · rw [tile]; rfl
  · dsimp only
    split
    · exact hf o
    · exact rfl
  · rw [tile]; rfl

theorem Starts.outq (s : State) (p : Nat) (f : Tile → Tile) (hf : ∀ t, f t = { t with outq := (f t).outq }) : Starts p s (s.modTile p f) := by
  have tile : (s.modTile p f).tile p = f (s.tile p) := State.tile_modTile_self ..
  refine ⟨rfl, ?_, id, fun _ => rfl, ?_⟩
  · rw [tile, hf]
  · rw [tile, hf, List.map_id]

theorem Starts.op? {p : Nat} {s t : State} (h : Starts p s t) {id : Nat} {o : Op} (ho : (s.tile p).op? id = some o) :
    ∃ o', (t.tile p).op? id = some o' ∧ OpStarts o o' := by
  obtain ⟨g, hg, ops⟩ := h.ops
  have same : ((fun o : Op => decide (o.id = id)) ∘ g) = fun o => decide (o.id = id) := by
    funext o
    have : (g o).id = o.id := by rw [hg o]
    simp only [Function.comp, this]
  refine ⟨g o, ?_, hg o⟩
  unfold Tile.op? at ho ⊢
  rw [ops, List.find?_map, same, ho]
  rfl

theorem Starts.sendFlag (s : State) (p : Nat) (f : FlagReq) (bundle : Option Nat) (op rank earliest deadline : Nat) :
    Starts p s (s.sendFlag p f bundle op rank earliest deadline) := by
  unfold State.sendFlag
  dsimp only
  split
  · split
    · exact Starts.of_asks (Asks.of_requested (Requested.request s p _))
    · have first := Starts.modOp s p op (fun o => { o with writes := 0 }) fun _ => rfl
      split
      · exact first.trans (Starts.of_asks (Asks.raiseTile ..))
      · exact first.trans (Starts.of_asks (Asks.raiseExt ..))
  · exact Starts.outq s p _ fun _ => rfl

theorem Starts.firstRows (s : State) (p : Nat) (o : Op) : Starts p s (s.firstRows p o) := by
  unfold State.firstRows
  split
  · exact Starts.of_asks (Asks.foldl p _ (fun _ => False) (fun _ _ => False) (fun _ _ => Asks.reqWrite ..) (fun _ _ h => h.elim) _ s).1
  · exact Starts.of_asks (Asks.foldl p _ (fun _ => False) (fun _ _ => False) (fun _ _ => Asks.reqRead ..) (fun _ _ h => h.elim) _ s).1
  · exact Starts.of_asks (Asks.foldl p _ (fun _ => False) (fun _ _ => False) (fun _ _ => Asks.reqRead ..) (fun _ _ h => h.elim) _ s).1
  · dsimp only
    split
    · exact Starts.of_asks (Asks.reqRead ..)
    · exact Starts.refl p s
  · exact foldl_inv (Starts p s) (fun _ _ h => h.trans (Starts.outq _ p _ fun _ => rfl)) _ s (Starts.refl p s)
  · refine ⟨rfl, ?_, ?_⟩
    · rw [State.tile_modTile_self]; rfl
    · rw [State.tile_modTile_self]
      refine ⟨fun x => if x.id = o.id then { x with poisoned := x.pp && decide (0 < ((s.tile p).atStart x.issue).poison) } else x, fun x => ?_, rfl⟩
      dsimp only
      split <;> rfl
  · split
    · exact (Starts.modOp s p o.id (fun o => { o with flag := none }) fun _ => rfl).trans (Starts.sendFlag ..)
    · exact Starts.refl p s
  · exact Starts.refl p s

/-- What `beginX` makes of the tile. -/
def Tile.begun (t : Tile) (w : Nat) (o : Op) : Tile :=
  { t.modOp o.id (fun x => { x with started := x.started || (x.kind != .push && x.kind != .pop) }) with
    crecvs := t.crecvs ++ (if o.kind = .crecv then [(o.aux, o.arg, o.id, 0)] else []),
    results := t.results ++ (if (o.kind = .push ∨ o.kind = .pop) ∧ bit w 2 = true then
      [{ d := bits w 4 4, due := o.issue + 31, value := if o.n = 0 then some 0 else none, bundle := o.bundle, id := o.id }] else []) }

/-- An operation begins: no memory changes, and the tile becomes `Tile.begun`. -/
theorem State.beginX_spec (s : State) (p w : Nat) (o : Op) :
    (s.beginX p w o).mem = s.mem ∧ (s.beginX p w o).tile p = (s.tile p).begun w o := by
  unfold State.beginX
  generalize hr : (if o.faulted && !o.started then s.raiseTile p o.bundle 0x3001 else s) = r
  have raised : r.mem = s.mem ∧ r.tile p = s.tile p := by
    rw [← hr]
    split
    · exact ⟨State.raiseTile_mem .., State.tile_raiseTile ..⟩
    · exact ⟨rfl, rfl⟩
  obtain ⟨mem, tile⟩ := raised
  dsimp only
  rw [← mem, ← tile]
  unfold Tile.begun
  by_cases crecv : o.kind = .crecv
  · rw [if_pos crecv, if_pos crecv, if_neg (by simp [crecv]), if_neg (by simp [crecv]), List.append_nil]
    refine ⟨rfl, ?_⟩
    rw [State.tile_modTile_self, State.tile_modTile_self]
    rfl
  · rw [if_neg crecv, if_neg crecv, List.append_nil]
    by_cases ret : (o.kind = .push ∨ o.kind = .pop) ∧ bit w 2 = true
    · rw [if_pos ret, if_pos (by simpa using ret)]
      refine ⟨rfl, ?_⟩
      rw [State.tile_modTile_self, State.tile_modTile_self]
      rfl
    · rw [if_neg ret, if_neg (by simpa using ret), List.append_nil]
      refine ⟨rfl, ?_⟩
      rw [State.tile_modTile_self]
      rfl

/-- Two states in which a position has the same logical tile and every table stands at the same beat of the same tick. -/
structure SamePlace (s t : State) : Prop where
  selfDev : t.selfDev = s.selfDev
  ltileOf : ∀ q, t.ltileOf q = s.ltileOf q
  stamp : ∀ n, t.stamp n = s.stamp n

theorem SamePlace.modTile {s t : State} (h : SamePlace s t) (p : Nat) (f : Tile → Tile) : SamePlace s (t.modTile p f) :=
  have only := t.onlyTile_modTile p f
  ⟨(show _ = t.selfDev from rfl).trans h.selfDev, fun q => (only.ltileOf q).trans (h.ltileOf q), fun n => (only.stamp n).trans (h.stamp n)⟩

theorem SamePlace.beginX (s : State) (p w : Nat) (o : Op) : SamePlace s (s.beginX p w o) := by
  unfold State.beginX
  generalize hr : (if o.faulted && !o.started then s.raiseTile p o.bundle 0x3001 else s) = r
  have raised : SamePlace s r := by
    rw [← hr]
    split <;> exact ⟨rfl, fun _ => rfl, fun _ => rfl⟩
  have first := raised.modTile p (·.modOp o.id fun o => { o with started := o.started || (o.kind != .push && o.kind != .pop) })
  dsimp only
  split <;> split
  · exact (first.modTile p _).modTile p _
  · exact first.modTile p _
  · exact first.modTile p _
  · exact first

theorem State.beginX_digest (s : State) (p w : Nat) (o x : Op) : digestOf (s.beginX p w o) p x = digestOf s p x := by
  have place := SamePlace.beginX s p w o
  rw [digestOf, place.ltileOf, place.stamp, digestOf]

theorem Tile.op?_begun (t : Tile) (w : Nat) (o : Op) (ho : t.op? o.id = some o) :
    (t.begun w o).op? o.id = some { o with started := o.started || (o.kind != .push && o.kind != .pop) } :=
  Tile.op?_modOp t o.id o (fun x => { x with started := x.started || (x.kind != .push && x.kind != .pop) }) (fun _ => rfl) ho

/-! ### The three ways of an issue (R203, R206) -/

section
variable {y : State} {p w : Nat} {o : Op}

theorem State.startX_no_route (ho : (y.tile p).op? o.id = some o) (route : y.noRoute o = true) :
    y.startX p o.id w = (y.modTile p (·.dropOp o.id)).raiseTile p o.bundle 0x4002 := by
  unfold State.startX
  rw [ho]
  exact if_pos route

theorem State.startX_empty (ho : (y.tile p).op? o.id = some o) (route : y.noRoute o = false) (nothing : o.empty = true) :
    y.startX p o.id w = (y.beginX p w o).endEmpty p o := by
  unfold State.startX
  rw [ho]
  exact (if_neg (by simp [route])).trans (if_pos nothing)

theorem State.startX_runs (ho : (y.tile p).op? o.id = some o) (route : y.noRoute o = false) (some_ : o.empty = false) :
    y.startX p o.id w = (y.beginX p w o).firstRows p o := by
  unfold State.startX
  rw [ho]
  exact (if_neg (by simp [route])).trans (if_neg (by simp [some_]))

theorem State.endEmpty_spec (s : State) (p : Nat) (o : Op) (plain : o.flag = none) : (s.endEmpty p o).mem = s.mem ∧
    (s.endEmpty p o).tile p =
      ({ s.tile p with digests := (s.tile p).digests ++ if o.kind = .dgst then [digestOf s p o] else [] } : Tile).dropOp o.id := by
  unfold State.endEmpty
  rw [plain]
  by_cases dgst : o.kind = .dgst
  · rw [if_pos dgst, if_pos dgst]
    generalize hv : s.modTile p (fun t => { t with digests := t.digests ++ [digestOf s p o] }) = v
    have tile : v.tile p = { s.tile p with digests := (s.tile p).digests ++ [digestOf s p o] } := by
      rw [← hv, State.tile_modTile_self]
    have mem : v.mem = s.mem := by rw [← hv]; rfl
    refine ⟨mem, ?_⟩
    rw [← tile]
    exact State.tile_modTile_self v p (·.dropOp o.id)
  · rw [if_neg dgst, if_neg dgst, List.append_nil]
    exact ⟨rfl, State.tile_modTile_self s p (·.dropOp o.id)⟩

/-- What a begun operation leaves of the position: its own progress, its requests and its slots apart, `Tile.begun`. -/
theorem State.startX_begun (ho : (y.tile p).op? o.id = some o) (route : y.noRoute o = false) (some_ : o.empty = false) :
    let x := y.startX p o.id w
    x.mem = y.mem ∧ x.tile p = { (y.tile p).begun w o with ops := (x.tile p).ops, reqs := (x.tile p).reqs, outq := (x.tile p).outq } ∧
      ∃ o', (x.tile p).op? o.id = some o' ∧ o'.kind = o.kind ∧ o'.n = o.n ∧ o'.dst = o.dst ∧ o'.tracked = o.tracked ∧
        (o.kind ≠ .push → o.kind ≠ .pop → o'.started = true) := by
  dsimp only
  rw [State.startX_runs ho route some_]
  obtain ⟨mem, tile⟩ := y.beginX_spec p w o
  have starts := Starts.firstRows (y.beginX p w o) p o
  obtain ⟨o', found, same⟩ := starts.op? (by rw [tile]; exact Tile.op?_begun _ w o ho)
  refine ⟨starts.mem.trans mem, ?_, o', found, ?_⟩
  · rw [← tile]
    exact starts.tile
  · rw [same]
    exact ⟨rfl, rfl, rfl, rfl, fun push pop => by simp [push, pop]⟩

end

/-! ### The first rows and slots, kind by kind (R209 to R215) -/

theorem State.reqWrite_asked (s : State) (p : Nat) (o : Op) (row lo : Nat) (data : List Byte) (mapped : row < mappedRows) (kind : o.kind ≠ .push) :
    ∃ r ∈ ((s.reqWrite p 4 o row lo data).tile p).reqs, r.cls = 4 ∧ r.row = row ∧ r.use = .write lo data o.id := by
  unfold State.reqWrite State.reqWriteAt
  rw [if_pos mapped, if_neg kind, State.tile_modTile_self]
  exact ⟨_, (Tile.reqs_request ..).2 (.inl rfl), rfl, rfl, rfl⟩

section
variable (z : State) (p : Nat) (o : Op)

theorem State.firstRows_fill (kind : o.kind = .fill) : ∀ i < o.n, o.arg + i < mappedRows → ∃ r ∈ ((z.firstRows p o).tile p).reqs,
    r.cls = 4 ∧ r.row = o.arg + i ∧ r.use = .write 0 ((List.range 16).map fun _ => leBytes 4 o.arg2).flatten o.id := by
  have run : z.firstRows p o = (List.range o.n).foldl
      (fun s i => s.reqWrite p 4 o (o.arg + i) 0 ((List.range 16).map fun _ => leBytes 4 o.arg2).flatten) z := by
    unfold State.firstRows
    rw [kind]
  rw [run]
  exact fun i hi => (Asks.foldl p _ (fun i => o.arg + i < mappedRows)
    (fun i r => r.cls = 4 ∧ r.row = o.arg + i ∧ r.use = .write 0 ((List.range 16).map fun _ => leBytes 4 o.arg2).flatten o.id)
    (fun _ _ => Asks.reqWrite ..) (fun s i mapped => s.reqWrite_asked p o _ _ _ mapped (by rw [kind]; simp)) (List.range o.n) z).2 i (List.mem_range.mpr hi)

/-- The rows that COPY and PUSH read (R175, R210). -/
theorem State.sourceRows_asked (n : Nat) (kind : o.kind ≠ .serve ∧ o.kind ≠ .csend) : ∀ i < n, o.arg2 + i < mappedRows →
    ∃ r ∈ (((List.range n).foldl (fun s i => s.reqRead p o (o.arg2 + i) 0 64 (64 * i)) z).tile p).reqs,
      r.cls = 4 ∧ r.row = o.arg2 + i ∧ r.use = .toOp o.id 0 64 (64 * i) := fun i hi =>
  (Asks.foldl p (fun (s : State) (i : Nat) => s.reqRead p o (o.arg2 + i) 0 64 (64 * i)) (fun i => o.arg2 + i < mappedRows)
    (fun i r => r.cls = 4 ∧ r.row = o.arg2 + i ∧ r.use = .toOp o.id 0 64 (64 * i)) (fun _ _ => Asks.reqRead ..)
    (fun s _ mapped => s.reqRead_asked p o _ _ _ _ mapped kind) (List.range n) z).2 i (List.mem_range.mpr hi)

theorem State.firstRows_copy (kind : o.kind = .copy) : ∀ i < o.n, o.arg2 + i < mappedRows → ∃ r ∈ ((z.firstRows p o).tile p).reqs,
    r.cls = 4 ∧ r.row = o.arg2 + i ∧ r.use = .toOp o.id 0 64 (64 * i) := by
  have run : z.firstRows p o = (List.range o.n).foldl (fun s i => s.reqRead p o (o.arg2 + i) 0 64 (64 * i)) z := by
    unfold State.firstRows
    rw [kind]
  rw [run]
  exact z.sourceRows_asked p o o.n (by rw [kind]; simp)

theorem State.firstRows_push (kind : o.kind = .push) : ∀ i < o.reads, o.arg2 + i < mappedRows → ∃ r ∈ ((z.firstRows p o).tile p).reqs,
    r.cls = 4 ∧ r.row = o.arg2 + i ∧ r.use = .toOp o.id 0 64 (64 * i) := by
  have run : z.firstRows p o = (List.range o.reads).foldl (fun s i => s.reqRead p o (o.arg2 + i) 0 64 (64 * i)) z := by
    unfold State.firstRows
    rw [kind]
  rw [run]
  exact z.sourceRows_asked p o o.reads (by rw [kind]; simp)

/-- A DMAR from a tile of this device sends one request for all its rows (R209). -/
theorem State.firstRows_dmar (kind : o.kind = .dmar) (some_ : o.n ≠ 0) (here : o.dst.1 = z.selfDev) :
    ∃ e ∈ ((z.firstRows p o).tile p).outq, e.1 = 3 ∧ e.2.2.2.op = o.id ∧ e.2.2.2.body = .rdReq o.dst.2.2 o.n := by
  have one : ceilDiv o.n o.n = 1 := by
    unfold ceilDiv
    exact Nat.div_eq_of_lt_le (by omega) (by omega)
  unfold State.firstRows
  rw [kind]
  dsimp only
  rw [if_neg (by simp [here]), one, List.range_one, List.foldl_cons, List.foldl_nil, State.tile_modTile_self]
  refine ⟨_, List.mem_append_right _ (List.mem_singleton_self _), rfl, rfl, ?_⟩
  show SlotBody.rdReq (o.dst.2.2 + o.n * 0) (min o.n (o.n - o.n * 0)) = _
  rw [Nat.mul_zero, Nat.add_zero, Nat.sub_zero, Nat.min_self]

theorem State.firstRows_csend (kind : o.kind = .csend) {x : Op} (hx : (z.tile p).op? o.id = some x) :
    ((z.firstRows p o).tile p).op? o.id = some { x with poisoned := x.pp && decide (0 < ((z.tile p).atStart x.issue).poison) } := by
  have run : (z.firstRows p o).tile p =
      (z.tile p).modOp o.id fun x => { x with poisoned := x.pp && decide (0 < ((z.tile p).atStart x.issue).poison) } := by
    unfold State.firstRows
    rw [kind]
    exact State.tile_modTile_self ..
  rw [run]
  exact Tile.op?_modOp (z.tile p) o.id x (fun x => { x with poisoned := x.pp && decide (0 < ((z.tile p).atStart x.issue).poison) }) (fun _ => rfl) hx

theorem State.firstRows_flagw (kind : o.kind = .flagw) {f : FlagReq} (flag : o.flag = some f) : ∃ v beat,
    z.firstRows p o = State.sendFlag v p f (some o.bundle) o.id o.rank beat o.deadline ∧ v.selfDev = z.selfDev ∧ v.ltileOf p = z.ltileOf p := by
  have run : ∀ v : State, v = z.modTile p (·.modOp o.id fun o => { o with flag := none }) → z.firstRows p o = State.sendFlag v p f
      (some o.bundle) o.id o.rank (if o.writes = 1 then v.age + 1 else v.ageAt (v.countOfBeat (p / 13) (o.issue % 65536) + 1)) o.deadline := by
    rintro v rfl
    unfold State.firstRows
    rw [kind]
    dsimp only
    rw [flag]
  exact ⟨_, _, run _ rfl, rfl, rfl⟩

theorem State.sendFlag_here (f : FlagReq) (bundle : Option Nat) (op rank earliest deadline : Nat) (here : f.dev = z.selfDev ∧ f.ltile = z.ltileOf p)
    (mapped : f.off / 64 < mappedRows) : ∃ r ∈ ((z.sendFlag p f bundle op rank earliest deadline).tile p).reqs,
      r.cls = 4 ∧ r.row = f.off / 64 ∧ r.use = .flag (f.off % 64 / 4) f.value f.mode op := by
  unfold State.sendFlag
  dsimp only
  rw [if_pos (by simp [here.1, here.2]), if_pos mapped]
  exact ⟨_, z.mem_request p _, rfl, rfl, rfl⟩

theorem State.sendFlag_away (f : FlagReq) (bundle : Option Nat) (op rank earliest deadline : Nat) (away : f.dev ≠ z.selfDev ∨ f.ltile ≠ z.ltileOf p) :
    ∃ e ∈ ((z.sendFlag p f bundle op rank earliest deadline).tile p).outq, e.1 = 3 ∧ e.2.2.2.op = op ∧ e.2.2.2.body = .flag f := by
  unfold State.sendFlag
  dsimp only
  rw [if_neg (by simpa [imp_iff_not_or] using away), State.tile_modTile_self]
  exact ⟨_, List.mem_append_right _ (List.mem_singleton_self _), rfl, rfl, rfl⟩

end

/-! ### Slot X in its turn (R183, R203) -/

section
variable (s : State) (p idx w now dl : Nat) (t : Tile)

theorem State.issueX_error (fresh : t.decoded = []) {c : Nat} (read : s.xRead p idx w now now dl t = .error c)
    (plain : c ≠ 0x3003 ∨ bit w 2 = false) (some_ : c ≠ 0) : s.issueX p idx w now dl now t = s.raiseTile p idx c := by
  have raise : s.raiseX p idx c = s.raiseTile p idx c := if_neg some_
  unfold State.issueX
  rw [fresh, read]
  by_cases ring : c = 0x3003
  · subst ring
    rw [plain.resolve_left (· rfl)]
    exact raise
  · dsimp only [List.find?_nil]
    split
    · next e => exact absurd (Except.error.inj e) ring
    · next e => rw [← Except.error.inj e, raise]
    · next e => cases e
    · next e => cases e

/-- A ring that is not this user's still owes its RET result (R210). -/
theorem State.issueX_no_ring (fresh : t.decoded = []) (read : s.xRead p idx w now now dl t = .error 0x3003) (ret : bit w 2 = true) :
    s.issueX p idx w now dl now t = (s.modTile p fun u => { u with results := u.results ++
      [{ d := bits w 4 4, due := now + 31, value := some 0, bundle := idx, id := 0 }] }).raiseTile p idx 0x3003 := by
  unfold State.issueX
  rw [fresh, read]
  dsimp only [List.find?_nil]
  rw [if_pos ret]
  rfl

theorem State.issueX_takes (fresh : t.decoded = []) {o : Op} (read : s.xRead p idx w now now dl t = .ok (some o, 0)) :
    s.issueX p idx w now dl now t = (s.takeOp p o).startX p o.id w := by
  unfold State.issueX
  rw [fresh, read]
  rfl

/-- What decode found of the bundle stands for its read (R183). -/
theorem State.issueX_decoded {id code : Nat} (found : t.decoded = [(idx, now, id, code)]) (some_ : id + code ≠ 0) :
    s.issueX p idx w now dl now t = if id = 0 then s.raiseX p idx code else (s.raiseX p idx code).startX p id w := by
  have find : t.decoded.find? (fun x => x.1 = idx && x.2.1 = now && x.2.2.1 + x.2.2.2 != 0) = some (idx, now, id, code) := by
    rw [found, List.find?_cons_of_pos (by simpa using some_)]
  unfold State.issueX
  rw [find]

end

theorem Tile.op?_addOp (t : Tile) (o : Op) (h : t.op? o.id = none) : (t.addOp o).op? o.id = some o := by
  unfold Tile.op? Tile.addOp at *
  rw [List.find?_append, h]
  simp

/-- Behind the bundle nothing of what decode noted of it is left. -/
theorem State.undecode_own (x : State) (p idx stamp : Nat) {id code : Nat} (found : (x.tile p).decoded = [(idx, stamp, id, code)]) :
    OnlyTile p x (x.undecode p idx stamp) ∧ (x.undecode p idx stamp).tile p = { x.tile p with decoded := [] } := by
  refine ⟨State.onlyTile_modTile_modTile .., ?_⟩
  unfold State.undecode
  rw [State.tile_modTile_self, State.tile_modTile_self, found]
  simp

section
variable {s d : State} {p idx w stamp : Nat} {o : Op}

/-- A code is raised instead of the operation, whose RET result is owed all the same (R210). -/
theorem Turned.owes (h : Turned p idx s d) (fresh : (s.tile p).decoded = []) (code : Nat) (r : RingRes) :
    let t := ((d.modTile p fun u => { u with results := u.results ++ [r] }).raiseTile p idx code).undecode p idx stamp
    Posted s t (srcTable (p / 13)) 2 code (faultTag (s.ltileOf p) idx false) 0 ∧
      t.tile p = { s.tile p with bundle := idx, next := idx + 1, results := (s.tile p).results ++ [r] } := by
  dsimp only
  generalize hv : d.modTile p (fun u => { u with results := u.results ++ [r] }) = v
  have only : OnlyTile p s v := h.only.trans (hv ▸ d.onlyTile_modTile p _)
  have tile : (v.raiseTile p idx code).tile p = { s.tile p with bundle := idx, next := idx + 1, results := (s.tile p).results ++ [r] } := by
    rw [State.tile_raiseTile, ← hv, State.tile_modTile_self, h.tile]
  obtain ⟨last, same⟩ := (v.raiseTile p idx code).undecode_tile p idx stamp (by rw [tile]; exact fresh)
  exact ⟨(only.raiseTile_posted p idx code 0).of_queue (by rw [last.1]; rfl), same.trans tile⟩

/-- The operation has no route: it ends with 0x4002 (R206). -/
theorem Turned.no_route (h : Turned p idx s d) (fresh : (s.tile p).decoded = []) (new : (s.tile p).op? o.id = none) (bundle : o.bundle = idx)
    (route : s.noRoute o = true) :
    let t := ((d.takeOp p o).startX p o.id w).undecode p idx stamp
    Posted s t (srcTable (p / 13)) 2 0x4002 (faultTag (s.ltileOf p) idx false) 0 ∧ (t.tile p).op? o.id = none := by
  have taken : (d.takeOp p o).tile p = (d.tile p).addOp o := State.tile_modTile_self ..
  have own : ((d.takeOp p o).tile p).op? o.id = some o := by
    rw [taken]
    exact Tile.op?_addOp _ o (by rw [h.tile]; exact new)
  have only : OnlyTile p s (d.takeOp p o) := h.only.trans (d.onlyTile_modTile p _)
  dsimp only
  rw [State.startX_no_route own ((only.noRoute o).trans route), bundle]
  generalize hv : (d.takeOp p o).modTile p (·.dropOp o.id) = v
  have only' : OnlyTile p s v := only.trans (hv ▸ (d.takeOp p o).onlyTile_modTile p _)
  have tile : (v.raiseTile p idx 0x4002).tile p = ((d.tile p).addOp o).dropOp o.id := by
    rw [State.tile_raiseTile, ← hv, State.tile_modTile_self, taken]
  obtain ⟨last, same⟩ := (v.raiseTile p idx 0x4002).undecode_tile p idx stamp (by rw [tile, h.tile]; exact fresh)
  refine ⟨(only'.raiseTile_posted p idx 0x4002 0).of_queue (by rw [last.1]; rfl), ?_⟩
  rw [same, tile]
  exact Tile.op?_dropOp ..

/-- An operation without rows is complete at once (R203). -/
theorem Turned.ends_empty (h : Turned p idx s d) (fresh : (s.tile p).decoded = []) (new : (s.tile p).op? o.id = none)
    (route : s.noRoute o = false) (nothing : o.empty = true) (plain : o.flag = none) :
    let t := ((d.takeOp p o).startX p o.id w).undecode p idx stamp
    SameMemory s t ∧ (t.tile p).op? o.id = none ∧
      (t.tile p).digests = (s.tile p).digests ++ if o.kind = .dgst then [digestOf s p o] else [] := by
  have taken : (d.takeOp p o).tile p = (d.tile p).addOp o := State.tile_modTile_self ..
  have own : ((d.takeOp p o).tile p).op? o.id = some o := by
    rw [taken]
    exact Tile.op?_addOp _ o (by rw [h.tile]; exact new)
  have only : OnlyTile p s (d.takeOp p o) := h.only.trans (d.onlyTile_modTile p _)
  dsimp only
  rw [State.startX_empty own ((only.noRoute o).trans route) nothing]
  obtain ⟨mem, tile⟩ := (d.takeOp p o).beginX_spec p w o
  have digest : digestOf ((d.takeOp p o).beginX p w o) p o = digestOf s p o := by
    rw [State.beginX_digest, digestOf, only.ltileOf, only.stamp, digestOf]
  generalize (d.takeOp p o).beginX p w o = z at *
  obtain ⟨mem', tile'⟩ := z.endEmpty_spec p o plain
  rw [digest, tile, taken, h.tile] at tile'
  obtain ⟨last, same⟩ := (z.endEmpty p o).undecode_tile p idx stamp (by rw [tile']; exact fresh)
  refine ⟨.of_mem ?_, ?_, ?_⟩
  · rw [last.1]
    exact mem'.trans (mem.trans (by rw [only.1]))
  · rw [same, tile']
    exact Tile.op?_dropOp ..
  · rw [same, tile']
    rfl

end

/-! ### An operation that runs (R203, R209 to R215) -/

/-- An operation has begun, and the dealer has gone on. -/
def Begun (p idx : Nat) (s t : State) (o : Op) : Prop :=
  SameMemory s t ∧ (t.tile p).next = idx + 1 ∧ ∃ o' : Op, (t.tile p).op? o.id = some o' ∧ o'.kind = o.kind ∧ o'.n = o.n ∧ o'.dst = o.dst ∧
    o'.tracked = o.tracked ∧ (o.kind ≠ .push → o.kind ≠ .pop → o'.started = true)

theorem State.undecode_clean (x : State) (p idx stamp : Nat)
    (h : (x.tile p).decoded = [] ∨ ∃ id code, (x.tile p).decoded = [(idx, stamp, id, code)]) :
    OnlyTile p x (x.undecode p idx stamp) ∧ (x.undecode p idx stamp).tile p = { x.tile p with decoded := [] } := by
  rcases h with empty | ⟨id, code, own⟩
  · obtain ⟨only, tile⟩ := x.undecode_tile p idx stamp empty
    refine ⟨only, ?_⟩
    rw [tile, ← empty]
  · exact x.undecode_own p idx stamp own

theorem Tile.atStart_poison {t t' : Tile} (before : t'.before = t.before) (poison : t'.poison = t.poison) (now : Nat) :
    (t'.atStart now).poison = (t.atStart now).poison := by
  unfold Tile.atStart
  rw [before]
  split
  · split
    · rfl
    · exact poison
  · exact poison

section
variable {s y : State} {p idx w stamp : Nat} {o : Op}

/-- An operation with its tracker begins, and what decode noted of its bundle is done with. -/
theorem State.startX_clean (mem : y.mem = s.mem) (next : (y.tile p).next = idx + 1)
    (clean : (y.tile p).decoded = [] ∨ ∃ id code, (y.tile p).decoded = [(idx, stamp, id, code)])
    (own : (y.tile p).op? o.id = some o) (route : y.noRoute o = false) (some_ : o.empty = false) :
    let t := (y.startX p o.id w).undecode p idx stamp
    Begun p idx s t o ∧ t.tile p = { (y.startX p o.id w).tile p with decoded := [] } := by
  obtain ⟨same, tile, o', found, facts⟩ := State.startX_begun (w := w) own route some_
  have decoded : ((y.startX p o.id w).tile p).decoded = (y.tile p).decoded := by rw [tile]; rfl
  have next' : ((y.startX p o.id w).tile p).next = (y.tile p).next := by rw [tile]; rfl
  obtain ⟨only, last⟩ := (y.startX p o.id w).undecode_clean p idx stamp (by rw [decoded]; exact clean)
  refine ⟨⟨.of_mem ?_, ?_, o', ?_, facts⟩, last⟩
  · rw [only.1]
    exact same.trans mem
  · rw [last]
    exact next'.trans next
  · rw [last]
    exact found

end

section
variable {s d : State} {p idx w stamp dl : Nat} {o : Op}

/-- What each kind of operation asks for, claims or owes in its issue beat. -/
theorem Turned.runs (h : Turned p idx s d) (fresh : (s.tile p).decoded = []) (new : (s.tile p).op? o.id = none)
    (base : ReadBase s p idx stamp dl o) (route : s.noRoute o = false) (some_ : o.empty = false) :
    let t := ((d.takeOp p o).startX p o.id w).undecode p idx stamp
    Begun p idx s t o ∧
      (o.kind = .fill → ∀ i < o.n, o.arg + i < mappedRows → ∃ r ∈ (t.tile p).reqs, r.cls = 4 ∧ r.row = o.arg + i ∧
        r.use = .write 0 ((List.range 16).map fun _ => leBytes 4 o.arg2).flatten o.id) ∧
      (o.kind = .copy → ∀ i < o.n, o.arg2 + i < mappedRows → ∃ r ∈ (t.tile p).reqs, r.cls = 4 ∧ r.row = o.arg2 + i ∧
        r.use = .toOp o.id 0 64 (64 * i)) ∧
      (o.kind = .push → ∀ i < o.reads, o.arg2 + i < mappedRows → ∃ r ∈ (t.tile p).reqs, r.cls = 4 ∧ r.row = o.arg2 + i ∧
        r.use = .toOp o.id 0 64 (64 * i)) ∧
      (o.kind = .push ∨ o.kind = .pop → bit w 2 = true → (t.tile p).results = (s.tile p).results ++
        [{ d := bits w 4 4, due := stamp + 31, value := none, bundle := idx, id := o.id }]) ∧
      (o.kind = .dmar → o.dst.1 = s.selfDev → ∃ e ∈ (t.tile p).outq, e.1 = 3 ∧ e.2.2.2.op = o.id ∧ e.2.2.2.body = .rdReq o.dst.2.2 o.n) ∧
      (o.kind = .crecv → (t.tile p).crecvs = (s.tile p).crecvs ++ [(o.aux, o.arg, o.id, 0)]) ∧
      (o.kind = .csend → ∃ o', (t.tile p).op? o.id = some o' ∧ o'.poisoned = (o.pp && decide (0 < ((s.tile p).atStart stamp).poison))) ∧
      (o.kind = .flagw → ∀ f, o.flag = some f → f.dev = s.selfDev → f.ltile = s.ltileOf p → f.off / 64 < mappedRows →
        ∃ r ∈ (t.tile p).reqs, r.cls = 4 ∧ r.row = f.off / 64 ∧ r.use = .flag (f.off % 64 / 4) f.value f.mode o.id) ∧
      (o.kind = .flagw → ∀ f, o.flag = some f → (f.dev ≠ s.selfDev ∨ f.ltile ≠ s.ltileOf p) →
        ∃ e ∈ (t.tile p).outq, e.1 = 3 ∧ e.2.2.2.op = o.id ∧ e.2.2.2.body = .flag f) := by
  obtain ⟨-, bundle, issue, -, -⟩ := base
  have taken : (d.takeOp p o).tile p = ({ s.tile p with bundle := idx, next := idx + 1 } : Tile).addOp o := by
    rw [← h.tile]
    exact State.tile_modTile_self ..
  have own : ((d.takeOp p o).tile p).op? o.id = some o := by
    rw [taken]
    exact Tile.op?_addOp _ o new
  have only : OnlyTile p s (d.takeOp p o) := h.only.trans (d.onlyTile_modTile p _)
  have dev : (d.takeOp p o).selfDev = s.selfDev := by rw [only.1]; rfl
  have mem : (d.takeOp p o).mem = s.mem := by rw [only.1]
  have ltile := only.ltileOf p
  have route' : (d.takeOp p o).noRoute o = false := (only.noRoute o).trans route
  generalize d.takeOp p o = y at *
  obtain ⟨begun, last⟩ := State.startX_clean (s := s) (idx := idx) (w := w) (stamp := stamp) mem (by rw [taken]; rfl)
    (.inl (by rw [taken]; exact fresh)) own route' some_
  obtain ⟨-, tile, -⟩ := State.startX_begun (w := w) own route' some_
  have runs := State.startX_runs (w := w) own route' some_
  have place := SamePlace.beginX y p w o
  have first := (y.beginX_spec p w o).2
  dsimp only
  rw [last]
  refine ⟨begun, ?_⟩
  have results : ((y.startX p o.id w).tile p).results = ((y.tile p).begun w o).results := by rw [tile]
  have crecvs : ((y.startX p o.id w).tile p).crecvs = ((y.tile p).begun w o).crecvs := by rw [tile]
  rw [runs] at results crecvs ⊢
  generalize y.beginX p w o = z at *
  have dev' : z.selfDev = s.selfDev := place.selfDev.trans dev
  have ltile' : z.ltileOf p = s.ltileOf p := (place.ltileOf p).trans ltile
  refine ⟨z.firstRows_fill p o, z.firstRows_copy p o, z.firstRows_push p o, fun kind ret => ?_, fun kind here => ?_, fun kind => ?_, fun kind => ?_,
    fun kind f flag here here' => ?_, fun kind f flag away => ?_⟩
  · have n : o.n ≠ 0 := by
      unfold Op.empty at some_
      rcases kind with kind | kind <;> rw [kind] at some_ <;> simpa using some_
    refine results.trans ?_
    unfold Tile.begun
    rw [if_pos ⟨kind, ret⟩, if_neg n, issue, bundle, taken]
    rfl
  · have n : o.n ≠ 0 := by
      unfold Op.empty at some_
      rw [kind] at some_
      simpa using some_
    exact z.firstRows_dmar p o kind n (here.trans dev'.symm)
  · refine crecvs.trans ?_
    unfold Tile.begun
    rw [if_pos kind, taken]
    rfl
  · refine ⟨_, z.firstRows_csend p o kind (by rw [first]; exact Tile.op?_begun _ w o own), ?_⟩
    have poison := Tile.atStart_poison (t := s.tile p) (t' := z.tile p) (by rw [first, taken]; rfl) (by rw [first, taken]; rfl) o.issue
    dsimp only
    rw [poison, issue]
  · obtain ⟨v, beat, run, vdev, vltile⟩ := z.firstRows_flagw p o kind flag
    rw [run]
    exact v.sendFlag_here p f _ _ _ _ _ ⟨here.trans (vdev.trans dev').symm, here'.trans (vltile.trans ltile').symm⟩
  · obtain ⟨v, beat, run, vdev, vltile⟩ := z.firstRows_flagw p o kind flag
    rw [run]
    refine v.sendFlag_away p f _ _ _ _ _ ?_
    rw [vdev, vltile, dev', ltile']
    exact away

end

theorem slotXBeginsAtItsBeat : Claims.SlotXBeginsAtItsBeat := by
  intro s p first count hp
  have part : ∀ {β : Type} (f : Tile → β), (∀ x c n, f { x with ctr := c, poison := n } = f x) →
      f ((s.tile p).atStart (s.stamp (p / 13))) = f (s.tile p) := fun f hf => by rw [Tile.atStart_frame]; exact hf ..
  have decoded := part Tile.decoded fun _ _ _ => rfl
  have open_ := part Tile.reps fun _ _ _ => rfl
  dsimp only
  intro run more reps due c v m
  have exec_ := execBundleIssue_due hp run more reps due
  dsimp only at exec_
  rw [State.issueV_nop _ _ _ _ _ _ v, State.issueM_nop _ _ _ _ _ m, State.issueC_nop _ _ _ _ _ _ _ c] at exec_
  have turned := Turned.dealt s p ((s.tile p).atStart (s.stamp (p / 13))).next (open_ ▸ reps)
  generalize hd : s.dealt p ((s.tile p).atStart (s.stamp (p / 13))).next = d at *
  generalize hu : (s.tile p).atStart (s.stamp (p / 13)) = u at *
  generalize s.stamp (p / 13) = now at *
  have reads := turned.xRead u.next (slotX (u.bundleAt u.next)) now now (s.deadlineOf p (u.bundleAt u.next)) u
  refine ⟨fun fresh => ?_, fun id code found => ?_⟩
  · have fresh' : (s.tile p).decoded = [] := decoded ▸ fresh
    refine ⟨fun c read plain some_ => ⟨_, exec_, ?_⟩, fun read ret => ⟨_, exec_, ?_⟩, fun o read new => ⟨fun route => ⟨_, exec_, ?_⟩,
      fun route nothing plain => ⟨_, exec_, ?_⟩, fun route some_ => ⟨_, exec_, ?_⟩⟩⟩
    · rw [d.issueX_error _ _ _ _ _ _ fresh (reads.trans read) plain some_]
      obtain ⟨posted, tile⟩ := turned.raises fresh' _ c now (.inl rfl)
      rw [tile]
      exact ⟨posted, rfl, rfl⟩
    · rw [d.issueX_no_ring _ _ _ _ _ _ fresh (reads.trans read) ret]
      obtain ⟨posted, tile⟩ := turned.owes (stamp := now) fresh' 0x3003
        { d := bits (slotX (u.bundleAt u.next)) 4 4, due := now + 31, value := some 0, bundle := u.next, id := 0 }
      rw [tile]
      exact ⟨posted, rfl, rfl⟩
    all_goals rw [d.issueX_takes _ _ _ _ _ _ fresh (reads.trans read)]
    · obtain ⟨-, bundle, -⟩ := State.base_of_xRead read
      exact turned.no_route fresh' new bundle route
    · exact turned.ends_empty fresh' new route nothing plain
    · have runs := turned.runs (w := slotX (u.bundleAt u.next)) fresh' new (State.base_of_xRead read) route some_
      rw [hu] at runs
      exact runs
  · have found' : (d.tile p).decoded = [(u.next, now, id, code)] := by
      rw [turned.tile]
      exact decoded ▸ found
    refine ⟨fun o other sound own same route some_ _ => ⟨_, exec_, ?_⟩, fun nobody fault => ⟨_, exec_, ?_⟩⟩
    · subst sound same
      rw [d.issueX_decoded _ _ _ _ _ _ found (by omega), if_neg other]
      obtain ⟨begun, tile⟩ := State.startX_clean (s := s) (y := d) (w := slotX (u.bundleAt u.next)) (by rw [turned.only.1])
        (by rw [turned.tile]) (.inr ⟨_, _, found'⟩) (by rw [turned.tile]; exact own) ((turned.only.noRoute o).trans route) some_
      exact ⟨begun, congrArg Tile.decoded tile⟩
    · subst nobody
      have raise : d.raiseX p u.next code = d.raiseTile p u.next code := if_neg fault
      rw [d.issueX_decoded _ _ _ _ _ _ found (by omega), if_pos rfl, raise]
      obtain ⟨only, tile⟩ := (d.raiseTile p u.next code).undecode_own p u.next now (by rw [State.tile_raiseTile]; exact found')
      rw [State.tile_raiseTile, turned.tile] at tile
      rw [tile]
      exact ⟨(turned.only.raiseTile_posted p u.next code 0).of_queue (by rw [only.1]; rfl), rfl, rfl⟩

/-- Settles O17, one claim of the dealer after the other. -/
theorem bundlesAreDecodedEarlyAndIssuedAtTheirBeat : Obligations.BundlesAreDecodedEarlyAndIssuedAtTheirBeat :=
  ⟨bundleIssuesAtItsBeat, slotXReadsItsOperands, slotXBeginsAtItsBeat, enginesBeginAtTheirBeat, sendingOperationsAreDecodedEarly⟩

end Sys2Proof.Machine
end
